-- ==== Sys2Proof/Word.lean ====
section
/-! DEFINITION. The words of the machine and its one container shape: fixed widths of 00 R6 and 09 R230, and the sparse table. -/

namespace Sys2Proof

/-- A scalar register, a CSR, an instruction word: 64 bits. -/
abbrev Word := BitVec 64

/-- One byte of any memory. -/
abbrev Byte := BitVec 8

/-- A vector register: 256 bytes, byte 0 lowest (R230, R6). -/
abbrev Vec := BitVec 2048

/-- A mask register: one bit a byte of a vector register (R230). -/
abbrev Mask := BitVec 256

/-- A shape register (R231). -/
abbrev ShapeBits := BitVec 512

/-- A 5-bit register field of an instruction word (R353). -/
abbrev Reg := BitVec 5

/-- Sparse data by key: keys strictly rising, and no entry that equals what an unlisted key reads as. -/
abbrev Table (α : Type) := List (Nat × α)

end Sys2Proof
end

