-- ==== Sys2Proof/Syntax.lean ====
section
/-! DEFINITION. The instructions and steps of spec/opcode_table.json: one constructor a row.
The rows that are instruction words carry the fields of their layout (14 R351); the rows that are commands and register
writes carry what is written; the rows that are events of an agent are named by the constructor, and what names the agent
and what comes from outside stands in the state as an `Ev`. -/

namespace Sys2Proof

/-- The common fields [7:0] of every instruction word (R349). -/
structure Hdr where
  pn : Bool
  pr : BitVec 3
  sw : Bool
  gap : BitVec 3
deriving DecidableEq, Repr

/-- The mask control IMM13 [3:0] of a vector word (R397). -/
structure MaskCtl where
  zm : Bool
  ms : BitVec 3
deriving DecidableEq, Repr

/-- The fields of the M layout (R351). -/
structure MemF where
  disp : BitVec 22
  sp : Bool
  ord : BitVec 2
  scope : BitVec 3
  sc : BitVec 2
  sz : BitVec 3
  b : Reg
  a : Reg
  d : Reg
deriving DecidableEq, Repr

/-- The fields of the atomic M layout (R351); SP is 1 in every atomic (R361). -/
structure AtomF where
  disp : BitVec 17
  c : Reg
  ord : BitVec 2
  scope : BitVec 3
  sc : BitVec 2
  sz : BitVec 3
  b : Reg
  a : Reg
  d : Reg
deriving DecidableEq, Repr

/-- The fields of the C layout that SEND, RECV and PEEK read (R360). -/
structure ChanF where
  pd : BitVec 3
  nb : Bool
  v : Bool
  port : BitVec 4
  x : Reg
deriving DecidableEq, Repr

/-- The fields of COPY, COPYG and COPYS (R363). -/
structure CopyF where
  sf : Bool
  ssp : BitVec 4
  dsp : BitVec 4
  c : Reg
  b : Reg
  a : Reg
  d : Reg
deriving DecidableEq, Repr

/-- The fields of VCVT (R408). -/
structure CvtF where
  pos : BitVec 3
  ovf : BitVec 2
  dt : BitVec 4
  mc : MaskCtl
  rm : BitVec 3
  ty : BitVec 4
  c : Reg
  a : Reg
  d : Reg
deriving DecidableEq, Repr

/-- The fields of MBIND (R351, R364). -/
structure BindF where
  k : BitVec 16
  stride : BitVec 8
  base : BitVec 8
  amask : BitVec 8
  ty : BitVec 4
  ca : Bool
  cb : Bool
  acc : BitVec 2
deriving DecidableEq, Repr

/-- The fields of MREAD (R351, R364). -/
structure MReadF where
  f : BitVec 16
  ty : BitVec 4
  rm : BitVec 3
  b : Reg
  a : Reg
  d : Reg
deriving DecidableEq, Repr

/-- A host command as it is written, without its KIND byte, which the constructor gives (R73). -/
structure Cmd where
  seq : BitVec 32
  mbz : BitVec 11
  debug : Bool
  vec : BitVec 3
  irq : Bool
  ver : BitVec 8
  cpl : Word
  p0 : Word
  p1 : Word
  p2 : Word
  p3 : Word
  p4 : Word
  p5 : Word
deriving DecidableEq, Repr

/-- A cell of a die whose soundness the sound map holds (R140). -/
inductive Cell where
  | core (id : Nat)
  | router (id : Nat)
  | edge (die col : Nat) (north : Bool)
  | link (id dir : Nat)
  | bridge (die n : Nat)
  | podLink (n : Nat)
deriving DecidableEq, Repr

/-- Where an uncorrectable error stands (R339). -/
inductive EccSite where
  | l1 (core : Nat)
  | coreMem (core bank addr : Nat)
  | chanBuf (core : Nat)
  | tileSlot (core slot : Nat) (tag : Bool)
  | accum (core acc : Nat)
  | mantel (core slot : Nat) (tag : Bool)
  | l2data (die : Nat) (pa : Nat)
  | dram (pa : Nat)
  | config (run : Nat)
deriving DecidableEq, Repr

/-- What names the agent of an event row and what comes from outside with it. Each row's meaning says which of the
numbers it reads. -/
structure Ev where
  unit : Nat
  sub : Nat
  idx : Nat
  vals : List Nat
  cells : List Cell
  site : Option EccSite
deriving DecidableEq, Repr

/-- The event with nothing named. -/
def Ev.none : Ev := { unit := 0, sub := 0, idx := 0, vals := [], cells := [], site := Option.none }

/-- The `n`th value of an event, 0 past the last. -/
def Ev.val (e : Ev) (n : Nat) : Nat := e.vals.getD n 0

inductive Instr where
  -- Scalar words (R350, R372-R377).
  | nop (h : Hdr)
  | add (h : Hdr) (d a b : Reg) (rm : BitVec 3)
  | sub (h : Hdr) (d a b : Reg) (rm : BitVec 3)
  | and (h : Hdr) (d a b : Reg)
  | or (h : Hdr) (d a b : Reg)
  | xor (h : Hdr) (d a b : Reg)
  | andn (h : Hdr) (d a b : Reg)
  | shl (h : Hdr) (d a b : Reg)
  | shr (h : Hdr) (d a b : Reg)
  | sar (h : Hdr) (d a b : Reg)
  | rol (h : Hdr) (d a b : Reg)
  | ror (h : Hdr) (d a b : Reg)
  | min (h : Hdr) (d a b : Reg)
  | max (h : Hdr) (d a b : Reg)
  | minu (h : Hdr) (d a b : Reg)
  | maxu (h : Hdr) (d a b : Reg)
  | sel (h : Hdr) (d a b c : Reg)
  | clz (h : Hdr) (d a : Reg)
  | ctz (h : Hdr) (d a : Reg)
  | popc (h : Hdr) (d a : Reg)
  | bswap (h : Hdr) (d a : Reg)
  | bfx (h : Hdr) (d a : Reg) (imm : BitVec 13)
  | bfi (h : Hdr) (d a b : Reg) (imm : BitVec 13)
  | lea (h : Hdr) (d a b : Reg) (imm : BitVec 13)
  | mul (h : Hdr) (d a b : Reg) (rm : BitVec 3)
  | mulh (h : Hdr) (d a b : Reg)
  | mulhu (h : Hdr) (d a b : Reg)
  | div (h : Hdr) (d a b : Reg)
  | divu (h : Hdr) (d a b : Reg)
  | rem (h : Hdr) (d a b : Reg)
  | remu (h : Hdr) (d a b : Reg)
  | madd (h : Hdr) (d a b c : Reg) (rm : BitVec 3)
  | addi (h : Hdr) (d a : Reg) (imm : BitVec 32)
  | andi (h : Hdr) (d a : Reg) (imm : BitVec 32)
  | ori (h : Hdr) (d a : Reg) (imm : BitVec 32)
  | xori (h : Hdr) (d a : Reg) (imm : BitVec 32)
  | shli (h : Hdr) (d a : Reg) (imm : BitVec 32)
  | shri (h : Hdr) (d a : Reg) (imm : BitVec 32)
  | sari (h : Hdr) (d a : Reg) (imm : BitVec 32)
  | mini (h : Hdr) (d a : Reg) (imm : BitVec 32)
  | maxi (h : Hdr) (d a : Reg) (imm : BitVec 32)
  | muli (h : Hdr) (d a : Reg) (imm : BitVec 32)
  | movi (h : Hdr) (d : Reg) (imm : BitVec 32)
  | movhi (h : Hdr) (d a : Reg) (imm : BitVec 32)
  | cmp (h : Hdr) (cc : BitVec 4) (d a b : Reg)
  | cmpi (h : Hdr) (cc : BitVec 4) (d a : Reg) (imm : BitVec 32)
  | pand (h : Hdr) (d a b : Reg)
  | por (h : Hdr) (d a b : Reg)
  | pxor (h : Hdr) (d a b : Reg)
  | pnot (h : Hdr) (d a : Reg)
  | pmov (h : Hdr) (d a : Reg)
  -- Control words (R378-R383).
  | br (h : Hdr) (cc : BitVec 4) (a b : Reg) (off : BitVec 32)
  | brp (h : Hdr) (a : Reg) (off : BitVec 32)
  | jmp (h : Hdr) (off : BitVec 32)
  | jmpr (h : Hdr) (a : Reg)
  | call (h : Hdr) (off : BitVec 32)
  | ret (h : Hdr)
  | loop (h : Hdr) (a : Reg) (n : BitVec 32)
  | fin (h : Hdr)
  | yield (h : Hdr)
  | wait (h : Hdr) (a : Reg) (imm : BitVec 32)
  -- Channel words (R384-R393).
  | recv (h : Hdr) (f : ChanF)
  | send (h : Hdr) (f : ChanF)
  | peek (h : Hdr) (f : ChanF)
  | avail (h : Hdr) (x : Reg) (port : BitVec 4)
  | free (h : Hdr) (x : Reg) (port : BitVec 4)
  | sendk (h : Hdr) (pd : BitVec 3) (nb : Bool) (port : BitVec 4) (x : Reg)
  | recvk (h : Hdr) (pd : BitVec 3) (nb : Bool) (port : BitVec 4) (x : Reg)
  | recvkTile (h : Hdr) (pd : BitVec 3) (nb : Bool) (port : BitVec 4) (slot : BitVec 3)
  | xsend (h : Hdr) (f : ChanF) (core : BitVec 11) (ctx : BitVec 3)
  -- Memory words (R423-R434).
  | ld (h : Hdr) (m : MemF)
  | st (h : Hdr) (m : MemF)
  | ldv (h : Hdr) (m : MemF)
  | stv (h : Hdr) (m : MemF)
  | vlds (h : Hdr) (m : MemF)
  | vsts (h : Hdr) (m : MemF)
  | vgath (h : Hdr) (m : MemF)
  | vscat (h : Hdr) (m : MemF)
  | lds (h : Hdr) (m : MemF)
  | stf (h : Hdr) (m : MemF)
  | feset (h : Hdr) (m : MemF)
  | feclr (h : Hdr) (m : MemF)
  | fence (h : Hdr) (ord : BitVec 2) (scope : BitVec 3)
  | drain (h : Hdr) (path : Reg)
  | aadd (h : Hdr) (m : AtomF)
  | aand (h : Hdr) (m : AtomF)
  | aor (h : Hdr) (m : AtomF)
  | axor (h : Hdr) (m : AtomF)
  | amin (h : Hdr) (m : AtomF)
  | amax (h : Hdr) (m : AtomF)
  | aminu (h : Hdr) (m : AtomF)
  | amaxu (h : Hdr) (m : AtomF)
  | axchg (h : Hdr) (m : AtomF)
  | acas (h : Hdr) (m : AtomF)
  | atas (h : Hdr) (m : AtomF)
  -- Barriers, rings, work creation (R435-R441).
  | bar (h : Hdr) (scope : BitVec 3) (id : BitVec 4) (count : BitVec 16)
  | bara (h : Hdr) (scope : BitVec 3) (id : BitVec 4) (count : BitVec 16)
  | barw (h : Hdr) (scope : BitVec 3) (id : BitVec 4)
  | rpush (h : Hdr) (a : Reg) (v : Bool) (ring : BitVec 4)
  | rpop (h : Hdr) (d : Reg) (v : Bool) (ring : BitVec 4) (cons : BitVec 3)
  | rpeek (h : Hdr) (d : Reg) (v : Bool) (ring : BitVec 4) (cons : BitVec 3)
  | rcur (h : Hdr) (d : Reg) (ring : BitVec 4) (cons : BitVec 3)
  | rinit (h : Hdr) (a : Reg) (ring : BitVec 4)
  | spawn (h : Hdr) (a : Reg) (kind : BitVec 16)
  | cond (h : Hdr) (d : Reg) (site : BitVec 6)
  | spawnc (h : Hdr) (d a : Reg) (taken : Bool) (kind : BitVec 16)
  | resolve (h : Hdr) (a b : Reg)
  | deviceLaunch (h : Hdr) (a b c : Reg) (dbg : Bool)
  | lkrd (h : Hdr) (d a : Reg) (side : BitVec 2) (k : BitVec 32)
  -- Copies, shapes, matrix engine (R443-R456).
  | copy (h : Hdr) (f : CopyF)
  | copyg (h : Hdr) (f : CopyF)
  | copys (h : Hdr) (f : CopyF)
  | shld (h : Hdr) (d a : Reg) (sp : Bool)
  | shst (h : Hdr) (d a : Reg) (sp : Bool)
  | shset (h : Hdr) (d a : Reg) (field : BitVec 4)
  | shget (h : Hdr) (d a : Reg) (field : BitVec 4)
  | mbind (h : Hdr) (f : BindF)
  | munbind (h : Hdr) (d : Reg)
  | mzero (h : Hdr) (d : Reg)
  | mread (h : Hdr) (f : MReadF)
  | mseal (h : Hdr) (d : Reg)
  | mstat (h : Hdr) (d a : Reg)
  | twrv (h : Hdr) (ty : BitVec 4) (mantel : Bool) (slot : BitVec 8) (a b : Reg)
  | trdv (h : Hdr) (ty : BitVec 4) (mantel : Bool) (slot : BitVec 8) (d a : Reg)
  | ttag (h : Hdr) (slot : BitVec 8) (full : Bool)
  | mgroup (h : Hdr) (d a : Reg)
  | mreduce (h : Hdr) (d a : Reg) (acc : BitVec 4)
  | mntag (h : Hdr) (ty : BitVec 4) (slot : BitVec 8) (full : Bool)
  | mchk (h : Hdr) (d a : Reg)
  -- Vector words (R396-R421).
  | vadd (h : Hdr) (ty : BitVec 4) (d a b : Reg) (rm : BitVec 3) (mc : MaskCtl)
  | vsub (h : Hdr) (ty : BitVec 4) (d a b : Reg) (rm : BitVec 3) (mc : MaskCtl)
  | vmul (h : Hdr) (ty : BitVec 4) (d a b : Reg) (rm : BitVec 3) (mc : MaskCtl)
  | vmulh (h : Hdr) (ty : BitVec 4) (d a b : Reg) (mc : MaskCtl)
  | vmac (h : Hdr) (ty : BitVec 4) (d a b c : Reg) (rm : BitVec 3) (mc : MaskCtl)
  | vmin (h : Hdr) (ty : BitVec 4) (d a b : Reg) (mc : MaskCtl)
  | vmax (h : Hdr) (ty : BitVec 4) (d a b : Reg) (mc : MaskCtl)
  | vabs (h : Hdr) (ty : BitVec 4) (d a : Reg) (rm : BitVec 3) (mc : MaskCtl)
  | vneg (h : Hdr) (ty : BitVec 4) (d a : Reg) (rm : BitVec 3) (mc : MaskCtl)
  | vand (h : Hdr) (ty : BitVec 4) (d a b : Reg) (mc : MaskCtl)
  | vor (h : Hdr) (ty : BitVec 4) (d a b : Reg) (mc : MaskCtl)
  | vxor (h : Hdr) (ty : BitVec 4) (d a b : Reg) (mc : MaskCtl)
  | vnot (h : Hdr) (ty : BitVec 4) (d a : Reg) (mc : MaskCtl)
  | vandn (h : Hdr) (ty : BitVec 4) (d a b : Reg) (mc : MaskCtl)
  | vshl (h : Hdr) (ty : BitVec 4) (d a b : Reg) (mc : MaskCtl)
  | vshr (h : Hdr) (ty : BitVec 4) (d a b : Reg) (mc : MaskCtl)
  | vsar (h : Hdr) (ty : BitVec 4) (d a b : Reg) (mc : MaskCtl)
  | vsel (h : Hdr) (ty : BitVec 4) (d a b c : Reg)
  | vcmp (h : Hdr) (cc : BitVec 4) (ty : BitVec 4) (d a b : Reg) (mc : MaskCtl)
  | vfadd (h : Hdr) (d a b : Reg) (rm : BitVec 3) (mc : MaskCtl)
  | vfsub (h : Hdr) (d a b : Reg) (rm : BitVec 3) (mc : MaskCtl)
  | vfmul (h : Hdr) (d a b : Reg) (rm : BitVec 3) (mc : MaskCtl)
  | vfmin (h : Hdr) (d a b : Reg) (rm : BitVec 3) (mc : MaskCtl)
  | vfmax (h : Hdr) (d a b : Reg) (rm : BitVec 3) (mc : MaskCtl)
  | vfabs (h : Hdr) (d a : Reg) (rm : BitVec 3) (mc : MaskCtl)
  | vfneg (h : Hdr) (d a : Reg) (rm : BitVec 3) (mc : MaskCtl)
  | vfma (h : Hdr) (d a b c : Reg) (rm : BitVec 3) (mc : MaskCtl)
  | vfms (h : Hdr) (d a b c : Reg) (rm : BitVec 3) (mc : MaskCtl)
  | vfnma (h : Hdr) (d a b c : Reg) (rm : BitVec 3) (mc : MaskCtl)
  | vfnms (h : Hdr) (d a b c : Reg) (rm : BitVec 3) (mc : MaskCtl)
  | vfrcp (h : Hdr) (d a : Reg)
  | vfrsq (h : Hdr) (d a : Reg)
  | vfclass (h : Hdr) (d a : Reg) (mc : MaskCtl)
  | vcvt (h : Hdr) (f : CvtF)
  | vpack (h : Hdr) (ty : BitVec 4) (d a b : Reg) (rm : BitVec 3) (mc : MaskCtl)
  | vunpk (h : Hdr) (ty : BitVec 4) (d a : Reg) (hi : Bool) (mc : MaskCtl)
  | vradd (h : Hdr) (ty : BitVec 4) (d a : Reg) (rm : BitVec 3) (ms : BitVec 3)
  | vrmin (h : Hdr) (ty : BitVec 4) (d a : Reg) (ms : BitVec 3)
  | vrmax (h : Hdr) (ty : BitVec 4) (d a : Reg) (ms : BitVec 3)
  | vrminu (h : Hdr) (ty : BitVec 4) (d a : Reg) (ms : BitVec 3)
  | vrmaxu (h : Hdr) (ty : BitVec 4) (d a : Reg) (ms : BitVec 3)
  | vrand (h : Hdr) (ty : BitVec 4) (d a : Reg) (ms : BitVec 3)
  | vror (h : Hdr) (ty : BitVec 4) (d a : Reg) (ms : BitVec 3)
  | vrfadd (h : Hdr) (d a : Reg) (rm : BitVec 3) (ms : BitVec 3)
  | vrxadd (h : Hdr) (ty : BitVec 4) (d a b : Reg) (ms : BitVec 3)
  | vperm (h : Hdr) (ty : BitVec 4) (d a b : Reg) (mc : MaskCtl)
  | vslideup (h : Hdr) (ty : BitVec 4) (d a b : Reg) (mc : MaskCtl)
  | vslidedn (h : Hdr) (ty : BitVec 4) (d a b : Reg) (mc : MaskCtl)
  | vzip (h : Hdr) (ty : BitVec 4) (d a b : Reg) (mc : MaskCtl)
  | vunzip (h : Hdr) (ty : BitVec 4) (d a b : Reg) (mc : MaskCtl)
  | vrev (h : Hdr) (ty : BitVec 4) (d a : Reg) (mc : MaskCtl)
  | vbcast (h : Hdr) (ty : BitVec 4) (d a : Reg) (mc : MaskCtl)
  | vext (h : Hdr) (ty : BitVec 4) (d a b : Reg)
  | vins (h : Hdr) (ty : BitVec 4) (d a b : Reg)
  | vcompress (h : Hdr) (ty : BitVec 4) (d a c : Reg)
  | vexpand (h : Hdr) (ty : BitVec 4) (d a c : Reg)
  | vscan (h : Hdr) (ty : BitVec 4) (d a : Reg) (rm : BitVec 3) (mc : MaskCtl)
  | viota (h : Hdr) (ty : BitVec 4) (d : Reg) (mc : MaskCtl)
  | mand (h : Hdr) (d a b : Reg)
  | mor (h : Hdr) (d a b : Reg)
  | mxor (h : Hdr) (d a b : Reg)
  | mnot (h : Hdr) (d a : Reg)
  | mpopc (h : Hdr) (ty : BitVec 4) (d a : Reg)
  | mfirst (h : Hdr) (ty : BitVec 4) (d a : Reg)
  | vres (h : Hdr) (d a : Reg)
  | vmov (h : Hdr) (ty : BitVec 4) (d a : Reg) (mc : MaskCtl)
  | vfscale (h : Hdr) (d a b : Reg) (rm : BitVec 3) (mc : MaskCtl)
  | vfgetexp (h : Hdr) (d a : Reg) (mc : MaskCtl)
  -- System words (R91, R331-R333, R457-R459).
  | query (h : Hdr) (d : Reg) (leaf : BitVec 4)
  | csrr (h : Hdr) (d : Reg) (csr : BitVec 12)
  | csrw (h : Hdr) (d a : Reg) (csr : BitVec 12)
  | csrs (h : Hdr) (d a : Reg) (csr : BitVec 12)
  | csrc (h : Hdr) (d a : Reg) (csr : BitVec 12)
  | trap (h : Hdr) (k : BitVec 20)
  | hret (h : Hdr) (a : Reg)
  | brk (h : Hdr) (k : BitVec 20)
  | inj (h : Hdr) (a : Reg) (v : Bool) (ch : BitVec 14)
  | mark (h : Hdr)
  | idle (h : Hdr)
  -- Host commands (R69-R92). The write of the command to port `port` of virtual device `vd`.
  | loadObject (vd port : Nat) (c : Cmd)
  | unloadObject (vd port : Nat) (c : Cmd)
  | launch (vd port : Nat) (c : Cmd)
  | pause (vd port : Nat) (c : Cmd)
  | resume (vd port : Nat) (c : Cmd)
  | replace (vd port : Nat) (c : Cmd)
  | abort (vd port : Nat) (c : Cmd)
  | snapshot (vd port : Nat) (c : Cmd)
  | map (vd port : Nat) (c : Cmd)
  | unmap (vd port : Nat) (c : Cmd)
  | stripGrant (vd port : Nat) (c : Cmd)
  | stripRevoke (vd port : Nat) (c : Cmd)
  | band (vd port : Nat) (c : Cmd)
  | ways (vd port : Nat) (c : Cmd)
  | grant (vd port : Nat) (c : Cmd)
  | ungrant (vd port : Nat) (c : Cmd)
  | pod (vd port : Nat) (c : Cmd)
  | hostFence (vd port : Nat) (c : Cmd)
  | queryFeatureLeaf (vd port : Nat) (leaf : BitVec 4) (c : Cmd)
  | queryAttestationQuote (vd port : Nat) (c : Cmd)
  | commandDispatch (vd port : Nat)
  | commandCompletion (vd port : Nat) (seq : BitVec 32)
  -- Imeus and the register map (R65-R68, R83-R89).
  | fuseAdvance (len : BitVec 32) (i3c : Option (List Byte))
  | chcapWrite (die : Nat) (value : Word)
  | vdpolWrite (vd : Nat) (value : Word)
  | vdqpolWrite (vd : Nat) (value : Word)
  | featmaskWrite (vf leaf : Nat) (value : Word)
  | belctlWrite (die : Nat) (value : Word)
  | registerWrite (fn off : Nat) (value : Word)
  | bar2Write (vd off : Nat) (bytes : List Byte)
  | bar2Read (vd off len : Nat)
  -- Power, resets, links (R45-R55, R62-R63).
  | powerOn
  | powerFail
  | packageReset
  | vfFlr
  | converterFault
  | railSample
  | chimneyStep
  | thermalTrip
  | connectorGrade
  | hostLinkTrain
  -- Dampers, shared strips, guards (R103-R117).
  | damperRefill
  | damperRound
  | stripYield
  | yieldGraceExpiry
  | guardDrop
  | guardReport
  -- Soft errors (R114, R339).
  | tagpar
  | ecc
  -- Collectives and link checks (R44, R57-R61).
  | collectiveContribution
  | collectiveTimeout
  | bridgeArrivalCheck
  | podLinkArrivalCheck
  -- The Lathe, firings, routers, streams (R120-R164).
  | lathePlace
  | firingStart
  | handlerFiring
  | steerAction
  | mergeAction
  | carryAction
  | invariantAction
  | loopAction
  | loaderRound
  | storerRound
  | collectiveRound
  | relatchEdge
  | relatchCore
  | pageWalk
  | homeSliceAccess
  | tokenLand
  | xsendDeliver
  | ringAccept
  | selection
  | phaseDrain
  | phaseConfig
  | bankHandoff
  | streamBarrierRelease
  | deadlock
  -- Cuts (R165-R187).
  | markerInject
  | periodicCut
  | markerArrival
  | elementSave
  | rollback
  | faultDelivery
  -- Segments, matrix engine, copies, writebacks (R199-R246, R446, R383, R459).
  | segmentSelect
  | specDrain
  | overflowRelease
  | fire
  | mreadServe
  | mreduceReceipt
  | bellowsTick
  | dummyFire
  | copyTransfer
  | copyComplete
  | resultWriteback
  | landingWrite
  | waitExpiry
  | idleWake
  -- A pod link that trains again (R54).
  | podLinkRetrain
deriving DecidableEq, Repr

end Sys2Proof
end

