-- ==== Sys2Proof/WellFormed.lean ====
section
/-! DEFINITION. When an instruction term is one the spec admits: the field checks of test 3 of 14 R365 (R353, R354, R356 and each description), and the ranges of the commands and register writes. -/

namespace Sys2Proof

/-- A field naming a predicate or a mask (R353). -/
abbrev Reg.lt8 (r : Reg) : Bool := r.toNat < 8

/-- A field naming an accumulator (R353). -/
abbrev Reg.lt4 (r : Reg) : Bool := r.toNat < 4

/-- A field naming a shape register (R353). -/
abbrev Reg.lt16 (r : Reg) : Bool := r.toNat < 16

/-- The even field of a pair (R354). -/
abbrev Reg.even (r : Reg) : Bool := r.toNat % 2 == 0

/-- TY codes of the integer types (R254). -/
abbrev tyInt (t : BitVec 4) : Bool := t.toNat ≤ 7

/-- TY codes every element instruction admits: all but XA (R396). -/
abbrev tyElem (t : BitVec 4) : Bool := t.toNat ≤ 12

/-- TY codes of the matrix operands (R237, R364). -/
abbrev tyMat (t : BitVec 4) : Bool := t.toNat ≤ 1 || (8 ≤ t.toNat && t.toNat ≤ 11)

/-- Width in bytes of an element of type `t`; 16 for XA (R396, R254). -/
def tyBytes (t : BitVec 4) : Nat :=
  match t.toNat with
  | 0 | 1 | 8 | 9 => 1
  | 2 | 3 | 10 | 11 => 2
  | 4 | 5 | 12 => 4
  | 6 | 7 => 8
  | _ => 16

/-- A signed integer type (R254). -/
abbrev tySigned (t : BitVec 4) : Bool := t.toNat == 0 || t.toNat == 2 || t.toNat == 4 || t.toNat == 6

/-- PN = 1 with PR = 0 is reserved (R350). -/
def Hdr.wf (h : Hdr) : Bool := !(h.pn && h.pr == 0)

/-- ORD and SCOPE limits of R356. -/
def scopeWf (ord : BitVec 2) (scope : BitVec 3) : Bool :=
  scope.toNat ≤ 5 && (ord == 0 || scope != 0)

/-- A load: plain or acquire (R425). -/
def MemF.loadOrd (m : MemF) : Bool := m.ord.toNat ≤ 1 && scopeWf m.ord m.scope

/-- A store: plain or release (R425). -/
def MemF.storeOrd (m : MemF) : Bool := (m.ord == 0 || m.ord == 2) && scopeWf m.ord m.scope

/-- The limits every atomic shares (R361, R425). -/
def AtomF.wf (m : AtomF) : Bool := (m.sz == 2 || m.sz == 3) && scopeWf m.ord m.scope

/-- NB and PD agree (R360, R388). -/
def nbWf (nb : Bool) (pd : BitVec 3) : Bool := nb == (pd != 0)

/-- The largest and the smallest element width of a conversion give its windows (R408). -/
def CvtF.ratio (f : CvtF) : Nat :=
  Nat.max (tyBytes f.ty) (tyBytes f.dt) / Nat.min (tyBytes f.ty) (tyBytes f.dt)

/-- The limits of VCVT (R408). -/
def CvtF.wf (f : CvtF) : Bool :=
  tyElem f.ty && tyElem f.dt && f.pos.toNat < f.ratio &&
  (match f.ovf.toNat with
   | 0 => f.c == 0
   | 1 => Reg.lt8 f.c
   | 2 => Reg.lt16 f.c
   | _ => false)

/-- The limits of the three copies (R363). -/
def CopyF.wf (f : CopyF) : Bool :=
  f.ssp.toNat ≤ 3 && f.dsp.toNat ≤ 3 && Reg.lt16 f.d && Reg.lt16 f.a

/-- BFX and BFI: pos + width at most 64 (R373). -/
def bfWf (imm : BitVec 13) : Bool := imm.toNat % 64 + (imm.toNat / 64 % 64 + 1) ≤ 64

/-- The CSR numbers of R367. -/
def csrListed (n : BitVec 12) : Bool :=
  let k := n.toNat
  k ≤ 5 || k == 8 || k == 9 || k == 0x10 || k == 0x11 || k == 0x20 || k == 0x21 ||
  (0x30 ≤ k && k ≤ 0x35) || (0x40 ≤ k && k ≤ 0x52) || k == 0x60

/-- A command port that exists (R64, R69). -/
def portWf (vd port : Nat) : Bool := vd < 32 && port < 4

def Instr.wf : Instr → Bool
  | .loadObject vd p _ | .unloadObject vd p _ | .launch vd p _ | .pause vd p _ | .resume vd p _
  | .replace vd p _ | .abort vd p _ | .snapshot vd p _ | .map vd p _ | .unmap vd p _
  | .stripGrant vd p _ | .stripRevoke vd p _ | .band vd p _ | .ways vd p _ | .grant vd p _
  | .ungrant vd p _ | .pod vd p _ | .hostFence vd p _ | .queryFeatureLeaf vd p _ _
  | .queryAttestationQuote vd p _ | .commandDispatch vd p | .commandCompletion vd p _ => portWf vd p
  | .fuseAdvance _ _ => true
  | .chcapWrite die _ | .belctlWrite die _ => die < 4
  | .vdpolWrite vd _ | .vdqpolWrite vd _ | .bar2Write vd _ _ | .bar2Read vd _ _ => vd < 32
  | .featmaskWrite vf leaf _ => 1 ≤ vf && vf < 32 && leaf < 16
  | .registerWrite fn off _ => fn < 32 && off < 0x100000 && off % 8 == 0
  | .powerOn | .powerFail | .packageReset | .vfFlr | .converterFault | .railSample | .chimneyStep | .thermalTrip
  | .connectorGrade | .hostLinkTrain | .damperRefill | .damperRound | .stripYield | .yieldGraceExpiry | .guardDrop
  | .guardReport | .tagpar | .ecc | .collectiveContribution | .collectiveTimeout | .bridgeArrivalCheck
  | .podLinkArrivalCheck | .lathePlace | .firingStart | .handlerFiring | .steerAction | .mergeAction
  | .carryAction | .invariantAction | .loopAction | .loaderRound | .storerRound | .collectiveRound | .relatchEdge
  | .relatchCore | .pageWalk | .homeSliceAccess | .tokenLand | .xsendDeliver | .ringAccept | .selection
  | .phaseDrain | .phaseConfig | .bankHandoff | .streamBarrierRelease | .deadlock | .markerInject | .periodicCut
  | .markerArrival | .elementSave | .rollback | .faultDelivery | .segmentSelect | .specDrain | .overflowRelease
  | .fire | .mreadServe | .mreduceReceipt | .bellowsTick | .dummyFire | .copyTransfer | .copyComplete
  | .resultWriteback | .landingWrite | .waitExpiry | .idleWake | .podLinkRetrain => true
  | .nop h => h.wf
  | .add h _ _ _ _ | .sub h _ _ _ _ | .mul h _ _ _ _ => h.wf
  | .and h _ _ _ | .or h _ _ _ | .xor h _ _ _ | .andn h _ _ _ | .shl h _ _ _ | .shr h _ _ _
  | .sar h _ _ _ | .rol h _ _ _ | .ror h _ _ _ | .min h _ _ _ | .max h _ _ _ | .minu h _ _ _
  | .maxu h _ _ _ | .mulh h _ _ _ | .mulhu h _ _ _ | .div h _ _ _ | .divu h _ _ _ | .rem h _ _ _
  | .remu h _ _ _ => h.wf
  | .sel h _ _ _ c => h.wf && Reg.lt8 c
  | .clz h _ _ | .ctz h _ _ | .popc h _ _ | .bswap h _ _ => h.wf
  | .bfx h _ _ imm => h.wf && bfWf imm
  | .bfi h _ _ _ imm => h.wf && bfWf imm && imm.toNat < 0x1000
  | .lea h _ _ _ imm => h.wf && imm.toNat < 4
  | .madd h _ _ _ _ _ => h.wf
  | .addi h _ _ _ | .andi h _ _ _ | .ori h _ _ _ | .xori h _ _ _ | .mini h _ _ _ | .maxi h _ _ _
  | .muli h _ _ _ | .movhi h _ _ _ => h.wf
  | .shli h _ _ imm | .shri h _ _ imm | .sari h _ _ imm => h.wf && imm.toNat ≤ 63
  | .movi h _ _ => h.wf
  | .cmp h cc d _ _ => h.wf && cc.toNat < 10 && Reg.lt8 d
  | .cmpi h cc d _ _ => h.wf && cc.toNat < 10 && Reg.lt8 d
  | .pand h d a b | .por h d a b | .pxor h d a b => h.wf && Reg.lt8 d && Reg.lt8 a && Reg.lt8 b
  | .pnot h d a | .pmov h d a => h.wf && Reg.lt8 d && Reg.lt8 a
  | .br h cc _ _ _ => h.wf && cc.toNat < 10
  | .brp h a _ => h.wf && Reg.lt8 a
  | .jmp h _ | .call h _ => h.wf
  | .jmpr h _ => h.wf
  | .ret h | .fin h | .yield h | .mark h | .idle h => h.wf
  | .loop h _ n => h.wf && 0 < n.toInt
  | .wait h _ _ => h.wf
  | .recv h f | .send h f | .peek h f => h.wf && nbWf f.nb f.pd
  | .xsend h f _ _ => h.wf && nbWf f.nb f.pd
  | .avail h _ _ | .free h _ _ => h.wf
  | .sendk h pd nb _ x | .recvk h pd nb _ x => h.wf && nbWf nb pd && Reg.even x
  | .recvkTile h pd nb _ _ => h.wf && nbWf nb pd
  | .ld h m => h.wf && m.loadOrd && m.sz.toNat ≤ 3
  | .st h m => h.wf && m.storeOrd && m.sz.toNat ≤ 3
  | .ldv h m => h.wf && m.loadOrd && m.sz == 4
  | .stv h m => h.wf && m.storeOrd && m.sz == 4
  | .vlds h m => h.wf && m.loadOrd && m.sz.toNat ≤ 3 && m.sc == 0
  | .vsts h m => h.wf && m.storeOrd && m.sz.toNat ≤ 3 && m.sc == 0
  | .vgath h m => h.wf && m.loadOrd && (m.sz == 2 || m.sz == 3)
  | .vscat h m => h.wf && m.storeOrd && (m.sz == 2 || m.sz == 3)
  | .lds h m => h.wf && m.loadOrd && m.sz.toNat ≤ 4 && m.sc.toNat < 2
  | .stf h m => h.wf && m.storeOrd && m.sz.toNat ≤ 4
  | .feset h m | .feclr h m => h.wf && m.storeOrd && m.sz.toNat ≤ 4 && m.d == 0
  | .fence h ord scope => h.wf && ord != 0 && scope != 0 && scope.toNat ≤ 5
  | .drain h path => h.wf && Reg.lt4 path
  | .aadd h m | .aand h m | .aor h m | .axor h m | .amin h m | .amax h m | .aminu h m | .amaxu h m
  | .axchg h m => h.wf && m.wf
  | .acas h m => h.wf && m.wf && m.sc == 0
  | .atas h m => h.wf && m.wf && m.sc == 0 && m.c == 0
  | .bar h scope _ count | .bara h scope _ count =>
    h.wf && scope != 0 && scope.toNat ≤ 5 && count != 0
  | .barw h scope _ => h.wf && scope != 0 && scope.toNat ≤ 5
  | .rpush h _ _ _ => h.wf
  | .rpop h _ _ _ _ | .rpeek h _ _ _ _ => h.wf
  | .rcur h _ _ _ => h.wf
  | .rinit h _ _ => h.wf
  | .spawn h _ _ => h.wf
  | .cond h _ _ => h.wf
  | .spawnc h _ _ _ _ => h.wf
  | .resolve h _ _ => h.wf
  | .deviceLaunch h _ _ _ _ => h.wf
  | .lkrd h _ _ side k =>
    h.wf && side.toNat < 3 && (if side == 0 then k == 0 else 1 ≤ k.toNat && k.toNat ≤ 1024)
  | .copy h f | .copyg h f | .copys h f => h.wf && f.wf
  | .shld h d _ _ | .shst h d _ _ => h.wf && Reg.lt16 d
  | .shset h d _ field => h.wf && Reg.lt16 d && field.toNat ≤ 12
  | .shget h _ a field => h.wf && Reg.lt16 a && field.toNat ≤ 12
  | .mbind h f => h.wf && tyMat f.ty && f.amask != 0 && f.k != 0
  | .munbind h d | .mzero h d | .mseal h d => h.wf && Reg.lt4 d
  | .mread h f => h.wf && Reg.lt4 f.a && (f.ty == 4 || (8 ≤ f.ty.toNat && f.ty.toNat ≤ 12))
  | .mstat h _ a | .mchk h _ a => h.wf && Reg.lt4 a
  | .twrv h ty mt slot _ _ | .trdv h ty mt slot _ _ => h.wf && tyMat ty && (mt || slot.toNat < 8)
  | .ttag h slot _ => h.wf && slot.toNat < 8
  | .mgroup h _ _ => h.wf
  | .mreduce h d _ acc => h.wf && Reg.lt4 d && acc.toNat < 4
  | .mntag h ty _ _ => h.wf && tyMat ty
  | .vadd h ty _ _ _ _ _ | .vsub h ty _ _ _ _ _ | .vmul h ty _ _ _ _ _ => h.wf && tyInt ty
  | .vmulh h ty _ _ _ _ | .vmin h ty _ _ _ _ | .vmax h ty _ _ _ _ | .vshl h ty _ _ _ _
  | .vshr h ty _ _ _ _ | .vsar h ty _ _ _ _ => h.wf && tyInt ty
  | .vmac h ty _ _ _ _ _ _ => h.wf && tyInt ty
  | .vabs h ty _ _ _ _ | .vneg h ty _ _ _ _ => h.wf && tyInt ty
  | .vand h ty _ _ _ _ | .vor h ty _ _ _ _ | .vxor h ty _ _ _ _ | .vandn h ty _ _ _ _ => h.wf && tyElem ty
  | .vnot h ty _ _ _ => h.wf && tyElem ty
  | .vsel h ty _ _ _ c => h.wf && tyElem ty && Reg.lt8 c
  | .vcmp h cc ty d _ _ _ => h.wf && cc.toNat < 10 && tyElem ty && Reg.lt8 d
  | .vfadd h _ _ _ _ _ | .vfsub h _ _ _ _ _ | .vfmul h _ _ _ _ _ | .vfmin h _ _ _ _ _
  | .vfmax h _ _ _ _ _ | .vfscale h _ _ _ _ _ => h.wf
  | .vfabs h _ _ _ _ | .vfneg h _ _ _ _ => h.wf
  | .vfma h _ _ _ _ _ _ | .vfms h _ _ _ _ _ _ | .vfnma h _ _ _ _ _ _ | .vfnms h _ _ _ _ _ _ => h.wf
  | .vfrcp h _ _ | .vfrsq h _ _ => h.wf
  | .vfclass h _ _ _ | .vfgetexp h _ _ _ => h.wf
  | .vcvt h f => h.wf && f.wf
  | .vpack h ty _ _ _ _ _ => h.wf && 2 ≤ ty.toNat && ty.toNat ≤ 7
  | .vunpk h ty _ _ _ _ => h.wf && ty.toNat ≤ 5
  | .vradd h ty _ _ _ _ => h.wf && tyInt ty
  | .vrmin h ty _ _ _ | .vrmax h ty _ _ _ | .vrminu h ty _ _ _ | .vrmaxu h ty _ _ _
  | .vrand h ty _ _ _ | .vror h ty _ _ _ => h.wf && tyInt ty
  | .vrfadd h _ _ _ _ => h.wf
  | .vrxadd h ty d _ _ _ => h.wf && tyElem ty && Reg.even d
  | .vperm h ty _ _ _ _ | .vslideup h ty _ _ _ _ | .vslidedn h ty _ _ _ _ | .vzip h ty _ _ _ _
  | .vunzip h ty _ _ _ _ => h.wf && tyElem ty
  | .vrev h ty _ _ _ | .vbcast h ty _ _ _ | .vmov h ty _ _ _ => h.wf && tyElem ty
  | .vext h ty _ _ _ | .vins h ty _ _ _ => h.wf && tyElem ty
  | .vcompress h ty _ _ c | .vexpand h ty _ _ c => h.wf && tyElem ty && Reg.lt8 c
  | .vscan h ty _ _ _ _ => h.wf && tyInt ty
  | .viota h ty _ _ => h.wf && tyInt ty
  | .mand h d a b | .mor h d a b | .mxor h d a b => h.wf && Reg.lt8 d && Reg.lt8 a && Reg.lt8 b
  | .mnot h d a => h.wf && Reg.lt8 d && Reg.lt8 a
  | .mpopc h ty _ a | .mfirst h ty _ a => h.wf && tyElem ty && Reg.lt8 a
  | .vres h _ a => h.wf && Reg.even a
  | .query h _ _ => h.wf
  | .csrr h _ c => h.wf && csrListed c
  | .csrw h _ _ c | .csrs h _ _ c | .csrc h _ _ c => h.wf && csrListed c
  | .trap h _ | .brk h _ => h.wf
  | .hret h _ => h.wf
  | .inj h _ _ _ => h.wf

/-- The rows of the table that are instruction words, executed by a context. -/
def Instr.isWord : Instr → Bool
  | .loadObject .. | .unloadObject .. | .launch .. | .pause .. | .resume .. | .replace .. | .abort ..
  | .snapshot .. | .map .. | .unmap .. | .stripGrant .. | .stripRevoke .. | .band .. | .ways .. | .grant ..
  | .ungrant .. | .pod .. | .hostFence .. | .queryFeatureLeaf .. | .queryAttestationQuote .. | .commandDispatch ..
  | .commandCompletion .. | .fuseAdvance .. | .chcapWrite .. | .vdpolWrite .. | .vdqpolWrite ..
  | .featmaskWrite .. | .belctlWrite .. | .registerWrite .. | .bar2Write .. | .bar2Read .. | .powerOn | .powerFail
  | .packageReset | .vfFlr | .converterFault | .railSample | .chimneyStep | .thermalTrip | .connectorGrade
  | .hostLinkTrain | .damperRefill | .damperRound | .stripYield | .yieldGraceExpiry | .guardDrop | .guardReport
  | .tagpar | .ecc | .collectiveContribution | .collectiveTimeout | .bridgeArrivalCheck | .podLinkArrivalCheck
  | .lathePlace | .firingStart | .handlerFiring | .steerAction | .mergeAction | .carryAction | .invariantAction
  | .loopAction | .loaderRound | .storerRound | .collectiveRound | .relatchEdge | .relatchCore | .pageWalk
  | .homeSliceAccess | .tokenLand | .xsendDeliver | .ringAccept | .selection | .phaseDrain | .phaseConfig
  | .bankHandoff | .streamBarrierRelease | .deadlock | .markerInject | .periodicCut | .markerArrival
  | .elementSave | .rollback | .faultDelivery | .segmentSelect | .specDrain | .overflowRelease | .fire
  | .mreadServe | .mreduceReceipt | .bellowsTick | .dummyFire | .copyTransfer | .copyComplete | .resultWriteback
  | .landingWrite | .waitExpiry | .idleWake | .podLinkRetrain => false
  | _ => true

end Sys2Proof
end

