-- ==== Sys2Proof/Decode.lean ====
section
/-! DEFINITION. Decoding of instruction words, total on any 64 bits and rejecting by name, and the encoder (14 R348-R365). -/

namespace Sys2Proof

/-- Why a word is no instruction: the tests 1, 2 and 3 of R365 in order, or a fetch of fewer than 8 bytes. -/
inductive DecodeError where
  | unassignedOp
  | reservedPredicate
  | badField
  | shortFetch
deriving DecidableEq, Repr

/-- The common fields of a word (R349). -/
def hdrOf (w : Word) : Hdr :=
  { pn := w.getLsbD 7, pr := w.extractLsb' 4 3, sw := w.getLsbD 3, gap := w.extractLsb' 0 3 }

def fD (w : Word) : Reg := w.extractLsb' 16 5
def fA (w : Word) : Reg := w.extractLsb' 21 5
def fB (w : Word) : Reg := w.extractLsb' 26 5
def fC (w : Word) : Reg := w.extractLsb' 31 5
/-- FN of the R layout. -/
def fFnR (w : Word) : Nat := (w.extractLsb' 36 8).toNat
def fTy (w : Word) : BitVec 4 := w.extractLsb' 44 4
def fRm (w : Word) : BitVec 3 := w.extractLsb' 48 3
def fImm13 (w : Word) : BitVec 13 := w.extractLsb' 51 13
/-- FN of the I layout. -/
def fFnI (w : Word) : Nat := (w.extractLsb' 26 6).toNat
def fImm32 (w : Word) : BitVec 32 := w.extractLsb' 32 32
def fOp (w : Word) : Nat := (w.extractLsb' 8 8).toNat
def fPort (w : Word) : BitVec 4 := w.extractLsb' 21 4
def fPd (w : Word) : BitVec 3 := w.extractLsb' 27 3
def fImm20 (w : Word) : BitVec 20 := w.extractLsb' 44 20
/-- The mask control in IMM13 [3:0] (R397). -/
def fMc (w : Word) : MaskCtl := { zm := w.getLsbD 54, ms := w.extractLsb' 51 3 }

/-- The M layout (R351). -/
def fMem (w : Word) : MemF :=
  { disp := w.extractLsb' 42 22, sp := w.getLsbD 41, ord := w.extractLsb' 39 2
    scope := w.extractLsb' 36 3, sc := w.extractLsb' 34 2, sz := w.extractLsb' 31 3
    b := fB w, a := fA w, d := fD w }

/-- The atomic M layout (R351). -/
def fAtom (w : Word) : AtomF :=
  { disp := w.extractLsb' 47 17, c := w.extractLsb' 42 5, ord := w.extractLsb' 39 2
    scope := w.extractLsb' 36 3, sc := w.extractLsb' 34 2, sz := w.extractLsb' 31 3
    b := fB w, a := fA w, d := fD w }

/-- The C layout's channel fields (R360). -/
def fChan (w : Word) : ChanF :=
  { pd := fPd w, nb := w.getLsbD 26, v := w.getLsbD 25, port := fPort w, x := fD w }

/-- The X layout's copy fields (R363). -/
def fCopy (w : Word) : CopyF :=
  { sf := w.getLsbD 56, ssp := w.extractLsb' 40 4, dsp := w.extractLsb' 36 4
    c := fC w, b := fB w, a := fA w, d := fD w }

/-- The VCVT fields (R408). -/
def fCvt (w : Word) : CvtF :=
  { pos := w.extractLsb' 61 3, ovf := w.extractLsb' 59 2, dt := w.extractLsb' 55 4, mc := fMc w
    rm := fRm w, ty := fTy w, c := fC w, a := fA w, d := fD w }

/-- The MBIND layout (R351). -/
def fBind (w : Word) : BindF :=
  { k := w.extractLsb' 48 16, stride := w.extractLsb' 40 8, base := w.extractLsb' 32 8
    amask := w.extractLsb' 24 8, ty := w.extractLsb' 20 4, ca := w.getLsbD 19, cb := w.getLsbD 18
    acc := w.extractLsb' 16 2 }

/-- The MREAD layout (R351). -/
def fMRead (w : Word) : MReadF :=
  { f := w.extractLsb' 48 16, ty := w.extractLsb' 44 4, rm := w.extractLsb' 41 3
    b := fB w, a := fA w, d := fD w }

/-- The bits [lo, lo + len) of a word are zero: a must-be-zero field (R352). -/
def zeroAt (w : Word) (lo len : Nat) : Bool := (w >>> lo).toNat % 2 ^ len == 0

abbrev Dec := Except DecodeError Instr

/-- A word of the given fields, if its must-be-zero fields are zero and its field values admissible (test 3 of R365). -/
def mkIf (zeros : Bool) (i : Instr) : Dec :=
  if zeros && i.wf then .ok i else .error .badField

/-- R layout, nothing but D, A, B: IMM13, RM, TY and C zero. -/
def zR3 (w : Word) : Bool := zeroAt w 44 20 && zeroAt w 31 5
/-- As zR3, with RM read. -/
def zR3rm (w : Word) : Bool := zeroAt w 51 13 && zeroAt w 44 4 && zeroAt w 31 5
/-- R layout, D and A alone. -/
def zR2 (w : Word) : Bool := zeroAt w 44 20 && zeroAt w 26 10
/-- Vector word with TY and a mask, RM zero: IMM13 [12:4] and RM zero. -/
def zVm (w : Word) : Bool := zeroAt w 55 9 && zeroAt w 48 3
/-- Vector word with TY, RM and a mask. -/
def zVrm (w : Word) : Bool := zeroAt w 55 9
/-- Vector word with TY and no mask, RM zero. -/
def zVn (w : Word) : Bool := zeroAt w 48 16

def decAlu (w : Word) (h : Hdr) : Dec :=
  let d := fD w; let a := fA w; let b := fB w
  match fFnR w with
  | 0 => mkIf (zR3rm w) (.add h d a b (fRm w))
  | 1 => mkIf (zR3rm w) (.sub h d a b (fRm w))
  | 2 => mkIf (zR3 w) (.and h d a b)
  | 3 => mkIf (zR3 w) (.or h d a b)
  | 4 => mkIf (zR3 w) (.xor h d a b)
  | 5 => mkIf (zR3 w) (.andn h d a b)
  | 6 => mkIf (zR3 w) (.shl h d a b)
  | 7 => mkIf (zR3 w) (.shr h d a b)
  | 8 => mkIf (zR3 w) (.sar h d a b)
  | 9 => mkIf (zR3 w) (.rol h d a b)
  | 10 => mkIf (zR3 w) (.ror h d a b)
  | 11 => mkIf (zR3 w) (.min h d a b)
  | 12 => mkIf (zR3 w) (.max h d a b)
  | 13 => mkIf (zR3 w) (.minu h d a b)
  | 14 => mkIf (zR3 w) (.maxu h d a b)
  | 15 => mkIf (zeroAt w 44 20) (.sel h d a b (fC w))
  | 16 => mkIf (zR2 w) (.clz h d a)
  | 17 => mkIf (zR2 w) (.ctz h d a)
  | 18 => mkIf (zR2 w) (.popc h d a)
  | 19 => mkIf (zR2 w) (.bswap h d a)
  | 20 => mkIf (zeroAt w 44 7 && zeroAt w 26 10) (.bfx h d a (fImm13 w))
  | 21 => mkIf (zeroAt w 44 7 && zeroAt w 31 5) (.bfi h d a b (fImm13 w))
  | 22 => mkIf (zeroAt w 44 7 && zeroAt w 31 5) (.lea h d a b (fImm13 w))
  | _ => .error .badField

def decMulDiv (w : Word) (h : Hdr) : Dec :=
  let d := fD w; let a := fA w; let b := fB w
  match fFnR w with
  | 0 => mkIf (zR3rm w) (.mul h d a b (fRm w))
  | 1 => mkIf (zR3 w) (.mulh h d a b)
  | 2 => mkIf (zR3 w) (.mulhu h d a b)
  | 3 => mkIf (zR3 w) (.div h d a b)
  | 4 => mkIf (zR3 w) (.divu h d a b)
  | 5 => mkIf (zR3 w) (.rem h d a b)
  | 6 => mkIf (zR3 w) (.remu h d a b)
  | 7 => mkIf (zeroAt w 51 13 && zeroAt w 44 4) (.madd h d a b (fC w) (fRm w))
  | _ => .error .badField

def decAlui (w : Word) (h : Hdr) : Dec :=
  let d := fD w; let a := fA w; let imm := fImm32 w
  match fFnI w with
  | 0 => mkIf true (.addi h d a imm)
  | 1 => mkIf true (.andi h d a imm)
  | 2 => mkIf true (.ori h d a imm)
  | 3 => mkIf true (.xori h d a imm)
  | 4 => mkIf true (.shli h d a imm)
  | 5 => mkIf true (.shri h d a imm)
  | 6 => mkIf true (.sari h d a imm)
  | 7 => mkIf true (.mini h d a imm)
  | 8 => mkIf true (.maxi h d a imm)
  | 9 => mkIf true (.muli h d a imm)
  | 10 => mkIf (a == 0) (.movi h d imm)
  | 11 => mkIf true (.movhi h d a imm)
  | _ => .error .badField

def decPlog (w : Word) (h : Hdr) : Dec :=
  let d := fD w; let a := fA w; let b := fB w
  match fFnR w with
  | 0 => mkIf (zR3 w) (.pand h d a b)
  | 1 => mkIf (zR3 w) (.por h d a b)
  | 2 => mkIf (zR3 w) (.pxor h d a b)
  | 3 => mkIf (zR2 w) (.pnot h d a)
  | 4 => mkIf (zR2 w) (.pmov h d a)
  | _ => .error .badField

/-- The control words 0x08-0x11 (R359). In the B layout A is [20:16], B is [25:21] and CC is [29:26]. -/
def decControl (op : Nat) (w : Word) (h : Hdr) : Dec :=
  match op with
  | 0x08 => mkIf (zeroAt w 30 2) (.br h (w.extractLsb' 26 4) (fD w) (fA w) (fImm32 w))
  | 0x09 => mkIf (zeroAt w 21 11) (.brp h (fD w) (fImm32 w))
  | 0x0A => mkIf (zeroAt w 16 16) (.jmp h (fImm32 w))
  | 0x0B => mkIf (zeroAt w 26 38 && zeroAt w 16 5) (.jmpr h (fA w))
  | 0x0C => mkIf (zeroAt w 16 16) (.call h (fImm32 w))
  | 0x0D => mkIf (zeroAt w 16 48) (.ret h)
  | 0x0E => mkIf (zeroAt w 21 11) (.loop h (fD w) (fImm32 w))
  | 0x0F => mkIf (zeroAt w 16 48) (.fin h)
  | 0x10 => mkIf (zeroAt w 16 48) (.yield h)
  | _ => mkIf (zeroAt w 26 6 && zeroAt w 16 5) (.wait h (fA w) (fImm32 w))

/-- The channel words 0x18-0x1F (R360). -/
def decChannel (op : Nat) (w : Word) (h : Hdr) : Dec :=
  let fn0 := zeroAt w 30 14
  let imm0 := zeroAt w 44 20
  match op with
  | 0x18 => mkIf (fn0 && imm0) (.recv h (fChan w))
  | 0x19 => mkIf (fn0 && imm0) (.send h (fChan w))
  | 0x1A => mkIf (fn0 && imm0) (.peek h (fChan w))
  | 0x1B => mkIf (imm0 && zeroAt w 25 19) (.avail h (fD w) (fPort w))
  | 0x1C => mkIf (imm0 && zeroAt w 25 19) (.free h (fD w) (fPort w))
  | 0x1D => mkIf (fn0 && imm0 && w.getLsbD 25) (.sendk h (fPd w) (w.getLsbD 26) (fPort w) (fD w))
  | 0x1E =>
    if zeroAt w 36 8 then
      mkIf (fn0 && imm0 && w.getLsbD 25) (.recvk h (fPd w) (w.getLsbD 26) (fPort w) (fD w))
    else
      mkIf ((w.extractLsb' 36 8).toNat == 1 && zeroAt w 30 6 && zeroAt w 47 17 && zeroAt w 25 1 && fD w == 0)
        (.recvkTile h (fPd w) (w.getLsbD 26) (fPort w) (w.extractLsb' 44 3))
  | _ => mkIf (fn0 && zeroAt w 58 6) (.xsend h (fChan w) (w.extractLsb' 44 11) (w.extractLsb' 55 3))

/-- The memory words 0x20-0x2D (R361, R423). -/
def decMemory (op : Nat) (w : Word) (h : Hdr) : Dec :=
  let m := fMem w
  match op with
  | 0x20 => mkIf true (.ld h m)
  | 0x21 => mkIf true (.st h m)
  | 0x22 => mkIf true (.ldv h m)
  | 0x23 => mkIf true (.stv h m)
  | 0x24 => mkIf true (.vlds h m)
  | 0x25 => mkIf true (.vsts h m)
  | 0x26 => mkIf true (.vgath h m)
  | 0x27 => mkIf true (.vscat h m)
  | 0x28 => mkIf true (.lds h m)
  | 0x29 => mkIf true (.stf h m)
  | 0x2A => mkIf true (.feset h m)
  | 0x2B => mkIf true (.feclr h m)
  | 0x2C => mkIf (zeroAt w 16 20 && zeroAt w 41 23) (.fence h m.ord m.scope)
  | _ => mkIf (zeroAt w 21 43) (.drain h m.d)

/-- The atomics 0x30-0x3A (R361, R433). -/
def decAtomic (op : Nat) (w : Word) (h : Hdr) : Dec :=
  let m := fAtom w
  let sp1 := w.getLsbD 41
  match op with
  | 0x30 => mkIf sp1 (.aadd h m)
  | 0x31 => mkIf sp1 (.aand h m)
  | 0x32 => mkIf sp1 (.aor h m)
  | 0x33 => mkIf sp1 (.axor h m)
  | 0x34 => mkIf sp1 (.amin h m)
  | 0x35 => mkIf sp1 (.amax h m)
  | 0x36 => mkIf sp1 (.aminu h m)
  | 0x37 => mkIf sp1 (.amaxu h m)
  | 0x38 => mkIf sp1 (.axchg h m)
  | 0x39 => mkIf sp1 (.acas h m)
  | _ => mkIf sp1 (.atas h m)

/-- The barrier, ring and work-creation words 0x40-0x4D (R362). -/
def decSync (op : Nat) (w : Word) (h : Hdr) : Dec :=
  let d := fD w; let a := fA w
  let scopeF : BitVec 3 := w.extractLsb' 26 3
  let scope0 := zeroAt w 29 3 && zeroAt w 16 10
  let id : BitVec 4 := w.extractLsb' 32 4
  let v := w.getLsbD 26
  let fnV := zeroAt w 27 5
  let fn0 := zeroAt w 26 6
  let cons : BitVec 3 := w.extractLsb' 36 3
  match op with
  | 0x40 => mkIf (scope0 && zeroAt w 36 12) (.bar h scopeF id (w.extractLsb' 48 16))
  | 0x41 => mkIf (scope0 && zeroAt w 36 12) (.bara h scopeF id (w.extractLsb' 48 16))
  | 0x42 => mkIf (scope0 && zeroAt w 36 28) (.barw h scopeF id)
  | 0x43 => mkIf (fnV && d == 0 && zeroAt w 36 28) (.rpush h a v id)
  | 0x44 => mkIf (fnV && a == 0 && zeroAt w 39 25) (.rpop h d v id cons)
  | 0x45 => mkIf (fnV && a == 0 && zeroAt w 39 25) (.rpeek h d v id cons)
  | 0x46 => mkIf (fn0 && a == 0 && zeroAt w 39 25) (.rcur h d id cons)
  | 0x47 => mkIf (fn0 && d == 0 && zeroAt w 36 28) (.rinit h a id)
  | 0x48 => mkIf (fn0 && d == 0 && zeroAt w 48 16) (.spawn h a (w.extractLsb' 32 16))
  | 0x49 => mkIf (fn0 && a == 0 && zeroAt w 38 26) (.cond h d (w.extractLsb' 32 6))
  | 0x4A => mkIf (fnV && zeroAt w 48 16) (.spawnc h d a v (w.extractLsb' 32 16))
  | 0x4B => mkIf (zeroAt w 31 33 && d == 0) (.resolve h a (fB w))
  | 0x4C => mkIf (zeroAt w 36 15 && zeroAt w 52 12 && d == 0) (.deviceLaunch h a (fB w) (fC w) (w.getLsbD 51))
  | _ => mkIf (zeroAt w 28 4) (.lkrd h d a (w.extractLsb' 26 2) (fImm32 w))

/-- The copy, shape and matrix words 0x50-0x64 (R363, R364). T1 is [39:36], T2 is [43:40], T3 is [47:44], FN is [55:48], IMM8 is [63:56]. -/
def decEngine (op : Nat) (w : Word) (h : Hdr) : Dec :=
  let d := fD w; let a := fA w; let b := fB w
  let t1 : BitVec 4 := w.extractLsb' 36 4
  let t2bit := w.getLsbD 40
  let t2 := zeroAt w 41 3
  let fnt3 := zeroAt w 44 12
  let slot : BitVec 8 := w.extractLsb' 56 8
  let bc0 := zeroAt w 26 10
  match op with
  | 0x50 => mkIf (fnt3 && zeroAt w 57 7) (.copy h (fCopy w))
  | 0x51 => mkIf (fnt3 && zeroAt w 57 7) (.copyg h (fCopy w))
  | 0x52 => mkIf (fnt3 && zeroAt w 57 7) (.copys h (fCopy w))
  | 0x53 => mkIf (bc0 && zeroAt w 37 27) (.shld h d a (w.getLsbD 36))
  | 0x54 => mkIf (bc0 && zeroAt w 37 27) (.shst h d a (w.getLsbD 36))
  | 0x55 => mkIf (bc0 && zeroAt w 40 24) (.shset h d a t1)
  | 0x56 => mkIf (bc0 && zeroAt w 40 24) (.shget h d a t1)
  | 0x58 => mkIf true (.mbind h (fBind w))
  | 0x59 => mkIf (zeroAt w 21 43) (.munbind h d)
  | 0x5A => mkIf (zeroAt w 21 43) (.mzero h d)
  | 0x5B => mkIf (zeroAt w 31 10) (.mread h (fMRead w))
  | 0x5C => mkIf (zeroAt w 21 43) (.mseal h d)
  | 0x5D => mkIf (zeroAt w 26 38) (.mstat h d a)
  | 0x5E => mkIf (fnt3 && t2 && zeroAt w 31 5 && d == 0) (.twrv h t1 t2bit slot a b)
  | 0x5F => mkIf (fnt3 && t2 && bc0) (.trdv h t1 t2bit slot d a)
  | 0x60 => mkIf (fnt3 && t2 && zeroAt w 16 24) (.ttag h slot t2bit)
  | 0x61 => mkIf (zeroAt w 26 38) (.mgroup h d a)
  | 0x62 => mkIf (bc0 && zeroAt w 40 24) (.mreduce h d a t1)
  | 0x63 => mkIf (fnt3 && t2 && zeroAt w 16 20) (.mntag h t1 slot t2bit)
  | _ => mkIf (zeroAt w 26 38) (.mchk h d a)

def decValu (w : Word) (h : Hdr) : Dec :=
  let d := fD w; let a := fA w; let b := fB w; let ty := fTy w; let mc := fMc w
  let c0 := zeroAt w 31 5
  let bc0 := zeroAt w 26 10
  match fFnR w with
  | 0 => mkIf (zVrm w && c0) (.vadd h ty d a b (fRm w) mc)
  | 1 => mkIf (zVrm w && c0) (.vsub h ty d a b (fRm w) mc)
  | 2 => mkIf (zVrm w && c0) (.vmul h ty d a b (fRm w) mc)
  | 3 => mkIf (zVm w && c0) (.vmulh h ty d a b mc)
  | 4 => mkIf (zVrm w) (.vmac h ty d a b (fC w) (fRm w) mc)
  | 5 => mkIf (zVm w && c0) (.vmin h ty d a b mc)
  | 6 => mkIf (zVm w && c0) (.vmax h ty d a b mc)
  | 7 => mkIf (zVrm w && bc0) (.vabs h ty d a (fRm w) mc)
  | 8 => mkIf (zVrm w && bc0) (.vneg h ty d a (fRm w) mc)
  | 9 => mkIf (zVm w && c0) (.vand h ty d a b mc)
  | 10 => mkIf (zVm w && c0) (.vor h ty d a b mc)
  | 11 => mkIf (zVm w && c0) (.vxor h ty d a b mc)
  | 12 => mkIf (zVm w && bc0) (.vnot h ty d a mc)
  | 13 => mkIf (zVm w && c0) (.vandn h ty d a b mc)
  | 14 => mkIf (zVm w && c0) (.vshl h ty d a b mc)
  | 15 => mkIf (zVm w && c0) (.vshr h ty d a b mc)
  | 16 => mkIf (zVm w && c0) (.vsar h ty d a b mc)
  | 17 => mkIf (zVn w) (.vsel h ty d a b (fC w))
  | _ => .error .badField

def decVfp (op : Nat) (w : Word) (h : Hdr) : Dec :=
  let d := fD w; let a := fA w; let b := fB w; let c := fC w; let rm := fRm w; let mc := fMc w
  let c0 := zeroAt w 31 5
  let bc0 := zeroAt w 26 10
  let f32 := fTy w == 12
  match op, fFnR w with
  | 0x72, 0 => mkIf (zVrm w && c0 && f32) (.vfadd h d a b rm mc)
  | 0x72, 1 => mkIf (zVrm w && c0 && f32) (.vfsub h d a b rm mc)
  | 0x72, 2 => mkIf (zVrm w && c0 && f32) (.vfmul h d a b rm mc)
  | 0x72, 3 => mkIf (zVrm w && c0 && f32) (.vfmin h d a b rm mc)
  | 0x72, 4 => mkIf (zVrm w && c0 && f32) (.vfmax h d a b rm mc)
  | 0x72, 5 => mkIf (zVrm w && bc0 && f32) (.vfabs h d a rm mc)
  | 0x72, 6 => mkIf (zVrm w && bc0 && f32) (.vfneg h d a rm mc)
  | 0x73, 0 => mkIf (zVrm w && f32) (.vfma h d a b c rm mc)
  | 0x73, 1 => mkIf (zVrm w && f32) (.vfms h d a b c rm mc)
  | 0x73, 2 => mkIf (zVrm w && f32) (.vfnma h d a b c rm mc)
  | 0x73, 3 => mkIf (zVrm w && f32) (.vfnms h d a b c rm mc)
  | 0x74, 0 => mkIf (zVn w && bc0 && f32) (.vfrcp h d a)
  | 0x74, 1 => mkIf (zVn w && bc0 && f32) (.vfrsq h d a)
  | 0x75, 0 => mkIf (zVm w && bc0 && f32) (.vfclass h d a mc)
  | 0x87, 0 => mkIf (zVrm w && c0 && f32) (.vfscale h d a b rm mc)
  | 0x88, 0 => mkIf (zVm w && bc0 && f32) (.vfgetexp h d a mc)
  | 0x7A, 0 => mkIf (zeroAt w 54 10 && bc0 && f32) (.vrfadd h d a rm (fMc w).ms)
  | _, _ => .error .badField

def decVmove (op : Nat) (w : Word) (h : Hdr) : Dec :=
  let d := fD w; let a := fA w; let b := fB w; let ty := fTy w; let mc := fMc w
  let c0 := zeroAt w 31 5
  let bc0 := zeroAt w 26 10
  let red := zeroAt w 54 10 && bc0
  match op, fFnR w with
  | 0x76, 0 => mkIf (zeroAt w 26 5) (.vcvt h (fCvt w))
  | 0x77, 0 => mkIf (zVrm w && c0) (.vpack h ty d a b (fRm w) mc)
  | 0x78, 0 => mkIf (zeroAt w 56 8 && zeroAt w 48 3 && bc0) (.vunpk h ty d a (w.getLsbD 55) mc)
  | 0x79, 0 => mkIf red (.vradd h ty d a (fRm w) mc.ms)
  | 0x79, 1 => mkIf (red && zeroAt w 48 3) (.vrmin h ty d a mc.ms)
  | 0x79, 2 => mkIf (red && zeroAt w 48 3) (.vrmax h ty d a mc.ms)
  | 0x79, 3 => mkIf (red && zeroAt w 48 3) (.vrminu h ty d a mc.ms)
  | 0x79, 4 => mkIf (red && zeroAt w 48 3) (.vrmaxu h ty d a mc.ms)
  | 0x79, 5 => mkIf (red && zeroAt w 48 3) (.vrand h ty d a mc.ms)
  | 0x79, 6 => mkIf (red && zeroAt w 48 3) (.vror h ty d a mc.ms)
  | 0x7B, 0 => mkIf (zeroAt w 54 10 && zeroAt w 48 3 && c0) (.vrxadd h ty d a b mc.ms)
  | 0x7C, 0 => mkIf (zVm w && c0) (.vperm h ty d a b mc)
  | 0x7C, 1 => mkIf (zVm w && c0) (.vslideup h ty d a b mc)
  | 0x7C, 2 => mkIf (zVm w && c0) (.vslidedn h ty d a b mc)
  | 0x7C, 3 => mkIf (zVm w && c0) (.vzip h ty d a b mc)
  | 0x7C, 4 => mkIf (zVm w && c0) (.vunzip h ty d a b mc)
  | 0x7C, 5 => mkIf (zVm w && bc0) (.vrev h ty d a mc)
  | 0x7D, 0 => mkIf (zVm w && bc0) (.vbcast h ty d a mc)
  | 0x7E, 0 => mkIf (zVn w && c0) (.vext h ty d a b)
  | 0x7F, 0 => mkIf (zVn w && c0) (.vins h ty d a b)
  | 0x80, 0 => mkIf (zVn w && zeroAt w 26 5) (.vcompress h ty d a (fC w))
  | 0x81, 0 => mkIf (zVn w && zeroAt w 26 5) (.vexpand h ty d a (fC w))
  | 0x82, 0 => mkIf (zVrm w && bc0) (.vscan h ty d a (fRm w) mc)
  | 0x83, 0 => mkIf (zVm w && zeroAt w 21 15) (.viota h ty d mc)
  | 0x84, 0 => mkIf (zR3 w) (.mand h d a b)
  | 0x84, 1 => mkIf (zR3 w) (.mor h d a b)
  | 0x84, 2 => mkIf (zR3 w) (.mxor h d a b)
  | 0x84, 3 => mkIf (zR2 w) (.mnot h d a)
  | 0x84, 4 => mkIf (zVn w && bc0) (.mpopc h ty d a)
  | 0x84, 5 => mkIf (zVn w && bc0) (.mfirst h ty d a)
  | 0x85, 0 => mkIf (zR2 w) (.vres h d a)
  | 0x86, 0 => mkIf (zVm w && bc0) (.vmov h ty d a mc)
  | _, _ => .error .badField

/-- The system words 0xF0-0xFB (R364, R91, R333). FN is [43:38], CSR is [37:26], IMM20 is [63:44]. -/
def decSystem (op : Nat) (w : Word) (h : Hdr) : Dec :=
  let d := fD w; let a := fA w
  let csr : BitVec 12 := w.extractLsb' 26 12
  let hi0 := zeroAt w 38 26
  match op with
  | 0xF0 => mkIf (zeroAt w 48 16 && zeroAt w 21 23) (.query h d (w.extractLsb' 44 4))
  | 0xF1 => mkIf (hi0 && a == 0) (.csrr h d csr)
  | 0xF2 => mkIf hi0 (.csrw h d a csr)
  | 0xF3 => mkIf hi0 (.csrs h d a csr)
  | 0xF4 => mkIf hi0 (.csrc h d a csr)
  | 0xF5 => mkIf (zeroAt w 16 28) (.trap h (fImm20 w))
  | 0xF6 => mkIf (zeroAt w 26 38 && d == 0) (.hret h a)
  | 0xF7 => mkIf (zeroAt w 16 28) (.brk h (fImm20 w))
  | 0xF9 => mkIf (zeroAt w 58 6 && zeroAt w 39 5 && zeroAt w 26 12 && d == 0) (.inj h a (w.getLsbD 38) (w.extractLsb' 44 14))
  | 0xFA => mkIf (zeroAt w 16 48) (.mark h)
  | _ => mkIf (zeroAt w 16 48) (.idle h)

/-- The assigned major opcodes (R357, R358). -/
def opAssigned (op : Nat) : Bool :=
  op ≤ 0x06 || (0x08 ≤ op && op ≤ 0x11) || (0x18 ≤ op && op ≤ 0x2D) || (0x30 ≤ op && op ≤ 0x3A) ||
  (0x40 ≤ op && op ≤ 0x4D) || (0x50 ≤ op && op ≤ 0x56) || (0x58 ≤ op && op ≤ 0x64) ||
  (0x70 ≤ op && op ≤ 0x88) || (0xF0 ≤ op && op ≤ 0xF7) || (0xF9 ≤ op && op ≤ 0xFB)

/-- Test 3 of R365, by opcode. -/
def decodeFields (op : Nat) (w : Word) (h : Hdr) : Dec :=
  if op = 0x00 then mkIf (zeroAt w 16 48) (.nop h)
  else if op = 0x01 then decAlu w h
  else if op = 0x02 then decMulDiv w h
  else if op = 0x03 then decAlui w h
  else if op = 0x04 then mkIf (zR3 w && zeroAt w 40 4) (.cmp h (w.extractLsb' 36 4) (fD w) (fA w) (fB w))
  else if op = 0x05 then mkIf (zeroAt w 30 2) (.cmpi h (w.extractLsb' 26 4) (fD w) (fA w) (fImm32 w))
  else if op = 0x06 then decPlog w h
  else if op ≤ 0x11 then decControl op w h
  else if op ≤ 0x1F then decChannel op w h
  else if op ≤ 0x2D then decMemory op w h
  else if op ≤ 0x3A then decAtomic op w h
  else if op ≤ 0x4D then decSync op w h
  else if op ≤ 0x64 then decEngine op w h
  else if op = 0x70 then decValu w h
  else if op = 0x71 then
    mkIf (zVm w && zeroAt w 31 5 && zeroAt w 40 4)
      (.vcmp h (w.extractLsb' 36 4) (fTy w) (fD w) (fA w) (fB w) (fMc w))
  else if (0x72 ≤ op && op ≤ 0x75) || op = 0x7A || op = 0x87 || op = 0x88 then decVfp op w h
  else if op ≤ 0x86 then decVmove op w h
  else decSystem op w h

/-- A word's instruction, or the test of R365 that fails first. -/
def decodeWord (w : Word) : Dec :=
  let op := fOp w
  let h := hdrOf w
  if !opAssigned op then .error .unassignedOp
  else if !h.wf then .error .reservedPredicate
  else decodeFields op w h

/-- The little-endian word of eight bytes (R6, R348). -/
def wordOfBytes : List Byte → Option Word
  | [b0, b1, b2, b3, b4, b5, b6, b7] => some (b7 ++ b6 ++ b5 ++ b4 ++ b3 ++ b2 ++ b1 ++ b0)
  | _ => none

/-- The eight bytes of a word, lowest address first (R6). -/
def bytesOfWord (w : Word) : List Byte :=
  [w.extractLsb' 0 8, w.extractLsb' 8 8, w.extractLsb' 16 8, w.extractLsb' 24 8,
   w.extractLsb' 32 8, w.extractLsb' 40 8, w.extractLsb' 48 8, w.extractLsb' 56 8]

/-- The decoder on the bytes fetched. -/
def decodeBytes (bs : List Byte) : Dec :=
  match wordOfBytes bs with
  | some w => decodeWord w
  | none => .error .shortFetch

/-- What the decoder reads from an instruction whose bits are `w`; every instruction word has 64 bits (R348). -/
def decodeTableWord (nbits w : Nat) : Option Instr :=
  if nbits ≤ 64 then
    match decodeBytes (bytesOfWord (BitVec.ofNat 64 (w % 2 ^ nbits))) with
    | .ok i => some i
    | .error _ => none
  else none

/-! The encoder, from the same layouts. -/

/-- Bits [15:0] (R349). -/
def lowBits (op : BitVec 8) (h : Hdr) : BitVec 16 :=
  op ++ BitVec.ofBool h.pn ++ h.pr ++ BitVec.ofBool h.sw ++ h.gap

/-- R layout (R351). -/
def packR (op : BitVec 8) (h : Hdr) (imm : BitVec 13) (rm : BitVec 3) (ty : BitVec 4) (fn : BitVec 8)
    (c b a d : Reg) : Word :=
  imm ++ rm ++ ty ++ fn ++ c ++ b ++ a ++ d ++ lowBits op h

/-- I layout (R351). -/
def packI (op : BitVec 8) (h : Hdr) (imm : BitVec 32) (fn : BitVec 6) (a d : Reg) : Word :=
  imm ++ fn ++ a ++ d ++ lowBits op h

/-- B layout (R351). -/
def packB (op : BitVec 8) (h : Hdr) (off : BitVec 32) (cc : BitVec 4) (b a : Reg) : Word :=
  off ++ (0 : BitVec 2) ++ cc ++ b ++ a ++ lowBits op h

/-- C layout (R351). -/
def packC (op : BitVec 8) (h : Hdr) (imm : BitVec 20) (fn : BitVec 8) (pd : BitVec 3) (nb v : Bool)
    (port : BitVec 4) (x : Reg) : Word :=
  imm ++ fn ++ (0 : BitVec 6) ++ pd ++ BitVec.ofBool nb ++ BitVec.ofBool v ++ port ++ x ++ lowBits op h

/-- M layout (R351). -/
def packM (op : BitVec 8) (h : Hdr) (m : MemF) : Word :=
  m.disp ++ BitVec.ofBool m.sp ++ m.ord ++ m.scope ++ m.sc ++ m.sz ++ m.b ++ m.a ++ m.d ++ lowBits op h

/-- Atomic M layout (R351). -/
def packAtom (op : BitVec 8) (h : Hdr) (m : AtomF) : Word :=
  m.disp ++ m.c ++ (1 : BitVec 1) ++ m.ord ++ m.scope ++ m.sc ++ m.sz ++ m.b ++ m.a ++ m.d ++ lowBits op h

/-- X layout (R351). -/
def packX (op : BitVec 8) (h : Hdr) (imm : BitVec 8) (t2 t1 : BitVec 4) (c b a d : Reg) : Word :=
  imm ++ (0 : BitVec 8) ++ (0 : BitVec 4) ++ t2 ++ t1 ++ c ++ b ++ a ++ d ++ lowBits op h

/-- S layout (R351). -/
def packS (op : BitVec 8) (h : Hdr) (imm : BitVec 20) (fn : BitVec 6) (csr : BitVec 12) (a d : Reg) : Word :=
  imm ++ fn ++ csr ++ a ++ d ++ lowBits op h

/-- IMM13 of a masked vector word (R397). -/
def mcImm (mc : MaskCtl) : BitVec 13 := (0 : BitVec 9) ++ BitVec.ofBool mc.zm ++ mc.ms

/-- IMM13 of a reduction (R397). -/
def msImm (ms : BitVec 3) : BitVec 13 := (0 : BitVec 10) ++ ms

def packCopy (op : BitVec 8) (h : Hdr) (f : CopyF) : Word :=
  packX op h ((0 : BitVec 7) ++ BitVec.ofBool f.sf) f.ssp f.dsp f.c f.b f.a f.d

def packChan (op : BitVec 8) (h : Hdr) (f : ChanF) (imm : BitVec 20) : Word :=
  packC op h imm 0 f.pd f.nb f.v f.port f.x

def bit4 (b : Bool) : BitVec 4 := (0 : BitVec 3) ++ BitVec.ofBool b

/-- The word of a well-formed instruction; commands and events have none. -/
def encode : Instr → Option Word
  | .nop h => some (packR 0x00 h 0 0 0 0 0 0 0 0)
  | .add h d a b rm => some (packR 0x01 h 0 rm 0 0 0 b a d)
  | .sub h d a b rm => some (packR 0x01 h 0 rm 0 1 0 b a d)
  | .and h d a b => some (packR 0x01 h 0 0 0 2 0 b a d)
  | .or h d a b => some (packR 0x01 h 0 0 0 3 0 b a d)
  | .xor h d a b => some (packR 0x01 h 0 0 0 4 0 b a d)
  | .andn h d a b => some (packR 0x01 h 0 0 0 5 0 b a d)
  | .shl h d a b => some (packR 0x01 h 0 0 0 6 0 b a d)
  | .shr h d a b => some (packR 0x01 h 0 0 0 7 0 b a d)
  | .sar h d a b => some (packR 0x01 h 0 0 0 8 0 b a d)
  | .rol h d a b => some (packR 0x01 h 0 0 0 9 0 b a d)
  | .ror h d a b => some (packR 0x01 h 0 0 0 10 0 b a d)
  | .min h d a b => some (packR 0x01 h 0 0 0 11 0 b a d)
  | .max h d a b => some (packR 0x01 h 0 0 0 12 0 b a d)
  | .minu h d a b => some (packR 0x01 h 0 0 0 13 0 b a d)
  | .maxu h d a b => some (packR 0x01 h 0 0 0 14 0 b a d)
  | .sel h d a b c => some (packR 0x01 h 0 0 0 15 c b a d)
  | .clz h d a => some (packR 0x01 h 0 0 0 16 0 0 a d)
  | .ctz h d a => some (packR 0x01 h 0 0 0 17 0 0 a d)
  | .popc h d a => some (packR 0x01 h 0 0 0 18 0 0 a d)
  | .bswap h d a => some (packR 0x01 h 0 0 0 19 0 0 a d)
  | .bfx h d a imm => some (packR 0x01 h imm 0 0 20 0 0 a d)
  | .bfi h d a b imm => some (packR 0x01 h imm 0 0 21 0 b a d)
  | .lea h d a b imm => some (packR 0x01 h imm 0 0 22 0 b a d)
  | .mul h d a b rm => some (packR 0x02 h 0 rm 0 0 0 b a d)
  | .mulh h d a b => some (packR 0x02 h 0 0 0 1 0 b a d)
  | .mulhu h d a b => some (packR 0x02 h 0 0 0 2 0 b a d)
  | .div h d a b => some (packR 0x02 h 0 0 0 3 0 b a d)
  | .divu h d a b => some (packR 0x02 h 0 0 0 4 0 b a d)
  | .rem h d a b => some (packR 0x02 h 0 0 0 5 0 b a d)
  | .remu h d a b => some (packR 0x02 h 0 0 0 6 0 b a d)
  | .madd h d a b c rm => some (packR 0x02 h 0 rm 0 7 c b a d)
  | .addi h d a imm => some (packI 0x03 h imm 0 a d)
  | .andi h d a imm => some (packI 0x03 h imm 1 a d)
  | .ori h d a imm => some (packI 0x03 h imm 2 a d)
  | .xori h d a imm => some (packI 0x03 h imm 3 a d)
  | .shli h d a imm => some (packI 0x03 h imm 4 a d)
  | .shri h d a imm => some (packI 0x03 h imm 5 a d)
  | .sari h d a imm => some (packI 0x03 h imm 6 a d)
  | .mini h d a imm => some (packI 0x03 h imm 7 a d)
  | .maxi h d a imm => some (packI 0x03 h imm 8 a d)
  | .muli h d a imm => some (packI 0x03 h imm 9 a d)
  | .movi h d imm => some (packI 0x03 h imm 10 0 d)
  | .movhi h d a imm => some (packI 0x03 h imm 11 a d)
  | .cmp h cc d a b => some (packR 0x04 h 0 0 0 (0#4 ++ cc) 0 b a d)
  | .cmpi h cc d a imm => some (packI 0x05 h imm (0#2 ++ cc) a d)
  | .pand h d a b => some (packR 0x06 h 0 0 0 0 0 b a d)
  | .por h d a b => some (packR 0x06 h 0 0 0 1 0 b a d)
  | .pxor h d a b => some (packR 0x06 h 0 0 0 2 0 b a d)
  | .pnot h d a => some (packR 0x06 h 0 0 0 3 0 0 a d)
  | .pmov h d a => some (packR 0x06 h 0 0 0 4 0 0 a d)
  | .br h cc a b off => some (packB 0x08 h off cc b a)
  | .brp h a off => some (packB 0x09 h off 0 0 a)
  | .jmp h off => some (packB 0x0A h off 0 0 0)
  | .jmpr h a => some (packR 0x0B h 0 0 0 0 0 0 a 0)
  | .call h off => some (packB 0x0C h off 0 0 0)
  | .ret h => some (packR 0x0D h 0 0 0 0 0 0 0 0)
  | .loop h a n => some (packB 0x0E h n 0 0 a)
  | .fin h => some (packR 0x0F h 0 0 0 0 0 0 0 0)
  | .yield h => some (packR 0x10 h 0 0 0 0 0 0 0 0)
  | .wait h a imm => some (packI 0x11 h imm 0 a 0)
  | .recv h f => some (packChan 0x18 h f 0)
  | .send h f => some (packChan 0x19 h f 0)
  | .peek h f => some (packChan 0x1A h f 0)
  | .avail h x port => some (packC 0x1B h 0 0 0 false false port x)
  | .free h x port => some (packC 0x1C h 0 0 0 false false port x)
  | .sendk h pd nb port x => some (packC 0x1D h 0 0 pd nb true port x)
  | .recvk h pd nb port x => some (packC 0x1E h 0 0 pd nb true port x)
  | .recvkTile h pd nb port slot => some (packC 0x1E h (0#17 ++ slot) 1 pd nb false port 0)
  | .xsend h f core ctx => some (packChan 0x1F h f (0#6 ++ ctx ++ core))
  | .ld h m => some (packM 0x20 h m)
  | .st h m => some (packM 0x21 h m)
  | .ldv h m => some (packM 0x22 h m)
  | .stv h m => some (packM 0x23 h m)
  | .vlds h m => some (packM 0x24 h m)
  | .vsts h m => some (packM 0x25 h m)
  | .vgath h m => some (packM 0x26 h m)
  | .vscat h m => some (packM 0x27 h m)
  | .lds h m => some (packM 0x28 h m)
  | .stf h m => some (packM 0x29 h m)
  | .feset h m => some (packM 0x2A h m)
  | .feclr h m => some (packM 0x2B h m)
  | .fence h ord scope => some (packM 0x2C h ⟨0, false, ord, scope, 0, 0, 0, 0, 0⟩)
  | .drain h path => some (packM 0x2D h ⟨0, false, 0, 0, 0, 0, 0, 0, path⟩)
  | .aadd h m => some (packAtom 0x30 h m)
  | .aand h m => some (packAtom 0x31 h m)
  | .aor h m => some (packAtom 0x32 h m)
  | .axor h m => some (packAtom 0x33 h m)
  | .amin h m => some (packAtom 0x34 h m)
  | .amax h m => some (packAtom 0x35 h m)
  | .aminu h m => some (packAtom 0x36 h m)
  | .amaxu h m => some (packAtom 0x37 h m)
  | .axchg h m => some (packAtom 0x38 h m)
  | .acas h m => some (packAtom 0x39 h m)
  | .atas h m => some (packAtom 0x3A h m)
  | .bar h scope id count => some (packI 0x40 h (count ++ 0#12 ++ id) (0#3 ++ scope) 0 0)
  | .bara h scope id count => some (packI 0x41 h (count ++ 0#12 ++ id) (0#3 ++ scope) 0 0)
  | .barw h scope id => some (packI 0x42 h (0#28 ++ id) (0#3 ++ scope) 0 0)
  | .rpush h a v ring => some (packI 0x43 h (0#28 ++ ring) (0#5 ++ BitVec.ofBool v) a 0)
  | .rpop h d v ring cons => some (packI 0x44 h (0#25 ++ cons ++ ring) (0#5 ++ BitVec.ofBool v) 0 d)
  | .rpeek h d v ring cons => some (packI 0x45 h (0#25 ++ cons ++ ring) (0#5 ++ BitVec.ofBool v) 0 d)
  | .rcur h d ring cons => some (packI 0x46 h (0#25 ++ cons ++ ring) 0 0 d)
  | .rinit h a ring => some (packI 0x47 h (0#28 ++ ring) 0 a 0)
  | .spawn h a kind => some (packI 0x48 h (0#16 ++ kind) 0 a 0)
  | .cond h d site => some (packI 0x49 h (0#26 ++ site) 0 0 d)
  | .spawnc h d a taken kind => some (packI 0x4A h (0#16 ++ kind) (0#5 ++ BitVec.ofBool taken) a d)
  | .resolve h a b => some (packR 0x4B h 0 0 0 0 0 b a 0)
  | .deviceLaunch h a b c dbg => some (packR 0x4C h (0#12 ++ BitVec.ofBool dbg) 0 0 0 c b a 0)
  | .lkrd h d a side k => some (packI 0x4D h k (0#4 ++ side) a d)
  | .copy h f => some (packCopy 0x50 h f)
  | .copyg h f => some (packCopy 0x51 h f)
  | .copys h f => some (packCopy 0x52 h f)
  | .shld h d a sp => some (packX 0x53 h 0 0 (bit4 sp) 0 0 a d)
  | .shst h d a sp => some (packX 0x54 h 0 0 (bit4 sp) 0 0 a d)
  | .shset h d a field => some (packX 0x55 h 0 0 field 0 0 a d)
  | .shget h d a field => some (packX 0x56 h 0 0 field 0 0 a d)
  | .mbind h f =>
    some (f.k ++ f.stride ++ f.base ++ f.amask ++ f.ty ++ BitVec.ofBool f.ca ++ BitVec.ofBool f.cb ++ f.acc ++
      lowBits 0x58 h)
  | .munbind h d => some (packX 0x59 h 0 0 0 0 0 0 d)
  | .mzero h d => some (packX 0x5A h 0 0 0 0 0 0 d)
  | .mread h f => some (f.f ++ f.ty ++ f.rm ++ 0#10 ++ f.b ++ f.a ++ f.d ++ lowBits 0x5B h)
  | .mseal h d => some (packX 0x5C h 0 0 0 0 0 0 d)
  | .mstat h d a => some (packX 0x5D h 0 0 0 0 0 a d)
  | .twrv h ty mt slot a b => some (packX 0x5E h slot (bit4 mt) ty 0 b a 0)
  | .trdv h ty mt slot d a => some (packX 0x5F h slot (bit4 mt) ty 0 0 a d)
  | .ttag h slot full => some (packX 0x60 h slot (bit4 full) 0 0 0 0 0)
  | .mgroup h d a => some (packX 0x61 h 0 0 0 0 0 a d)
  | .mreduce h d a acc => some (packX 0x62 h 0 0 acc 0 0 a d)
  | .mntag h ty slot full => some (packX 0x63 h slot (bit4 full) ty 0 0 0 0)
  | .mchk h d a => some (packX 0x64 h 0 0 0 0 0 a d)
  | .vadd h ty d a b rm mc => some (packR 0x70 h (mcImm mc) rm ty 0 0 b a d)
  | .vsub h ty d a b rm mc => some (packR 0x70 h (mcImm mc) rm ty 1 0 b a d)
  | .vmul h ty d a b rm mc => some (packR 0x70 h (mcImm mc) rm ty 2 0 b a d)
  | .vmulh h ty d a b mc => some (packR 0x70 h (mcImm mc) 0 ty 3 0 b a d)
  | .vmac h ty d a b c rm mc => some (packR 0x70 h (mcImm mc) rm ty 4 c b a d)
  | .vmin h ty d a b mc => some (packR 0x70 h (mcImm mc) 0 ty 5 0 b a d)
  | .vmax h ty d a b mc => some (packR 0x70 h (mcImm mc) 0 ty 6 0 b a d)
  | .vabs h ty d a rm mc => some (packR 0x70 h (mcImm mc) rm ty 7 0 0 a d)
  | .vneg h ty d a rm mc => some (packR 0x70 h (mcImm mc) rm ty 8 0 0 a d)
  | .vand h ty d a b mc => some (packR 0x70 h (mcImm mc) 0 ty 9 0 b a d)
  | .vor h ty d a b mc => some (packR 0x70 h (mcImm mc) 0 ty 10 0 b a d)
  | .vxor h ty d a b mc => some (packR 0x70 h (mcImm mc) 0 ty 11 0 b a d)
  | .vnot h ty d a mc => some (packR 0x70 h (mcImm mc) 0 ty 12 0 0 a d)
  | .vandn h ty d a b mc => some (packR 0x70 h (mcImm mc) 0 ty 13 0 b a d)
  | .vshl h ty d a b mc => some (packR 0x70 h (mcImm mc) 0 ty 14 0 b a d)
  | .vshr h ty d a b mc => some (packR 0x70 h (mcImm mc) 0 ty 15 0 b a d)
  | .vsar h ty d a b mc => some (packR 0x70 h (mcImm mc) 0 ty 16 0 b a d)
  | .vsel h ty d a b c => some (packR 0x70 h 0 0 ty 17 c b a d)
  | .vcmp h cc ty d a b mc => some (packR 0x71 h (mcImm mc) 0 ty (0#4 ++ cc) 0 b a d)
  | .vfadd h d a b rm mc => some (packR 0x72 h (mcImm mc) rm 12 0 0 b a d)
  | .vfsub h d a b rm mc => some (packR 0x72 h (mcImm mc) rm 12 1 0 b a d)
  | .vfmul h d a b rm mc => some (packR 0x72 h (mcImm mc) rm 12 2 0 b a d)
  | .vfmin h d a b rm mc => some (packR 0x72 h (mcImm mc) rm 12 3 0 b a d)
  | .vfmax h d a b rm mc => some (packR 0x72 h (mcImm mc) rm 12 4 0 b a d)
  | .vfabs h d a rm mc => some (packR 0x72 h (mcImm mc) rm 12 5 0 0 a d)
  | .vfneg h d a rm mc => some (packR 0x72 h (mcImm mc) rm 12 6 0 0 a d)
  | .vfma h d a b c rm mc => some (packR 0x73 h (mcImm mc) rm 12 0 c b a d)
  | .vfms h d a b c rm mc => some (packR 0x73 h (mcImm mc) rm 12 1 c b a d)
  | .vfnma h d a b c rm mc => some (packR 0x73 h (mcImm mc) rm 12 2 c b a d)
  | .vfnms h d a b c rm mc => some (packR 0x73 h (mcImm mc) rm 12 3 c b a d)
  | .vfrcp h d a => some (packR 0x74 h 0 0 12 0 0 0 a d)
  | .vfrsq h d a => some (packR 0x74 h 0 0 12 1 0 0 a d)
  | .vfclass h d a mc => some (packR 0x75 h (mcImm mc) 0 12 0 0 0 a d)
  | .vcvt h f =>
    some (packR 0x76 h (f.pos ++ f.ovf ++ f.dt ++ BitVec.ofBool f.mc.zm ++ f.mc.ms) f.rm f.ty 0 f.c 0 f.a f.d)
  | .vpack h ty d a b rm mc => some (packR 0x77 h (mcImm mc) rm ty 0 0 b a d)
  | .vunpk h ty d a hi mc =>
    some (packR 0x78 h (0#8 ++ BitVec.ofBool hi ++ BitVec.ofBool mc.zm ++ mc.ms) 0 ty 0 0 0 a d)
  | .vradd h ty d a rm ms => some (packR 0x79 h (msImm ms) rm ty 0 0 0 a d)
  | .vrmin h ty d a ms => some (packR 0x79 h (msImm ms) 0 ty 1 0 0 a d)
  | .vrmax h ty d a ms => some (packR 0x79 h (msImm ms) 0 ty 2 0 0 a d)
  | .vrminu h ty d a ms => some (packR 0x79 h (msImm ms) 0 ty 3 0 0 a d)
  | .vrmaxu h ty d a ms => some (packR 0x79 h (msImm ms) 0 ty 4 0 0 a d)
  | .vrand h ty d a ms => some (packR 0x79 h (msImm ms) 0 ty 5 0 0 a d)
  | .vror h ty d a ms => some (packR 0x79 h (msImm ms) 0 ty 6 0 0 a d)
  | .vrfadd h d a rm ms => some (packR 0x7A h (msImm ms) rm 12 0 0 0 a d)
  | .vrxadd h ty d a b ms => some (packR 0x7B h (msImm ms) 0 ty 0 0 b a d)
  | .vperm h ty d a b mc => some (packR 0x7C h (mcImm mc) 0 ty 0 0 b a d)
  | .vslideup h ty d a b mc => some (packR 0x7C h (mcImm mc) 0 ty 1 0 b a d)
  | .vslidedn h ty d a b mc => some (packR 0x7C h (mcImm mc) 0 ty 2 0 b a d)
  | .vzip h ty d a b mc => some (packR 0x7C h (mcImm mc) 0 ty 3 0 b a d)
  | .vunzip h ty d a b mc => some (packR 0x7C h (mcImm mc) 0 ty 4 0 b a d)
  | .vrev h ty d a mc => some (packR 0x7C h (mcImm mc) 0 ty 5 0 0 a d)
  | .vbcast h ty d a mc => some (packR 0x7D h (mcImm mc) 0 ty 0 0 0 a d)
  | .vext h ty d a b => some (packR 0x7E h 0 0 ty 0 0 b a d)
  | .vins h ty d a b => some (packR 0x7F h 0 0 ty 0 0 b a d)
  | .vcompress h ty d a c => some (packR 0x80 h 0 0 ty 0 c 0 a d)
  | .vexpand h ty d a c => some (packR 0x81 h 0 0 ty 0 c 0 a d)
  | .vscan h ty d a rm mc => some (packR 0x82 h (mcImm mc) rm ty 0 0 0 a d)
  | .viota h ty d mc => some (packR 0x83 h (mcImm mc) 0 ty 0 0 0 0 d)
  | .mand h d a b => some (packR 0x84 h 0 0 0 0 0 b a d)
  | .mor h d a b => some (packR 0x84 h 0 0 0 1 0 b a d)
  | .mxor h d a b => some (packR 0x84 h 0 0 0 2 0 b a d)
  | .mnot h d a => some (packR 0x84 h 0 0 0 3 0 0 a d)
  | .mpopc h ty d a => some (packR 0x84 h 0 0 ty 4 0 0 a d)
  | .mfirst h ty d a => some (packR 0x84 h 0 0 ty 5 0 0 a d)
  | .vres h d a => some (packR 0x85 h 0 0 0 0 0 0 a d)
  | .vmov h ty d a mc => some (packR 0x86 h (mcImm mc) 0 ty 0 0 0 a d)
  | .vfscale h d a b rm mc => some (packR 0x87 h (mcImm mc) rm 12 0 0 b a d)
  | .vfgetexp h d a mc => some (packR 0x88 h (mcImm mc) 0 12 0 0 0 a d)
  | .query h d leaf => some (packS 0xF0 h (0#16 ++ leaf) 0 0 0 d)
  | .csrr h d csr => some (packS 0xF1 h 0 0 csr 0 d)
  | .csrw h d a csr => some (packS 0xF2 h 0 0 csr a d)
  | .csrs h d a csr => some (packS 0xF3 h 0 0 csr a d)
  | .csrc h d a csr => some (packS 0xF4 h 0 0 csr a d)
  | .trap h k => some (packS 0xF5 h k 0 0 0 0)
  | .hret h a => some (packS 0xF6 h 0 0 0 a 0)
  | .brk h k => some (packS 0xF7 h k 0 0 0 0)
  | .inj h a v ch => some (packS 0xF9 h (0#6 ++ ch) (0#5 ++ BitVec.ofBool v) 0 a 0)
  | .mark h => some (packR 0xFA h 0 0 0 0 0 0 0 0)
  | .idle h => some (packR 0xFB h 0 0 0 0 0 0 0 0)
  | _ => none

end Sys2Proof
end

