-- ==== Sys2Proof/Config.lean ====
section
/-! DEFINITION. What a part fixes and the spec does not state, and the free values: constants with no body, so that nothing can be
proved of their values. Each stands in the assumption log. -/

namespace Sys2Proof.Config

/-- The part's serial number, read at IMSERIAL (03 R87). -/
opaque serial : Word

/-- The RSA-3072 key enrolled for a key domain, as its modulus and exponent (03 R80). -/
opaque rsaKey (domain : Nat) : Nat × Nat

/-- The bytes of the RSA public key enrolled for a domain, whose encoding the spec does not state: its key id is made of them (03 R80). -/
opaque rsaKeyBytes (domain : Nat) : List Byte

/-- The bytes of the SLH-DSA public key enrolled for a domain: its seed and its root (03 R80). -/
opaque slhKeyBytes (domain : Nat) : List Byte

/-- The bytes of the two signatures that the part makes over the digest of an attestation quote (03 R92). -/
opaque signs (message : List Byte) : List Byte

/-- The part's certificate chain and identity bytes of an attestation quote (03 R92). -/
opaque identity (n : Nat) : Byte

/-- The router of a die to which one of its bridges attaches (02 R44). -/
opaque bridgeRouter (die bridge : Nat) : BitVec 9

/-- The core id of the router to which a pod link attaches (02 R57). -/
opaque linkRouter (link : Nat) : BitVec 11

/-- A value the spec leaves open at one point of a run: the point is the count held in the state (assumption 6). -/
opaque freeNat (n : Nat) : Nat

end Sys2Proof.Config
end

