-- ==== Sys2Proof/Machine/Table.lean ====
section
/-! DEFINITION. The one container of the state: a sparse table in canonical form, and the words and bytes of memory kept in it. -/

namespace Sys2Proof.Machine

/-- What key `k` reads as, `d` where nothing is listed. -/
def tget {α : Type} (d : α) : Table α → Nat → α
  | [], _ => d
  | (j, v) :: t, k => if k = j then v else tget d t k

/-- The table with the entry of key `k` removed. -/
def tdel {α : Type} : Table α → Nat → Table α
  | [], _ => []
  | (j, v) :: t, k => if k = j then tdel t k else (j, v) :: tdel t k

/-- The table with key `k` holding `v`, listed whatever `v` is. -/
def tput {α : Type} : Table α → Nat → α → Table α
  | [], k, v => [(k, v)]
  | (j, w) :: t, k, v =>
    if k = j then (k, v) :: t else if k < j then (k, v) :: (j, w) :: t else (j, w) :: tput t k v

/-- The table with key `k` holding `v`; a default value is not listed, so equal tables are equal data. -/
def tset {α : Type} [DecidableEq α] (d : α) (t : Table α) (k : Nat) (v : α) : Table α :=
  if v = d then tdel t k else tput t k v

/-- Every key lies above `b`, keys rise, and no entry is the default. -/
def twf {α : Type} [DecidableEq α] (d : α) : Nat → Table α → Bool
  | _, [] => true
  | b, (j, v) :: t => decide (b ≤ j) && decide (v ≠ d) && twf d (j + 1) t

/-- Bytes of a memory: an unlisted address reads as zero. -/
abbrev Memory := Table Byte

/-- Canonical form of a memory. -/
def Memory.wf (m : Memory) : Bool := twf 0 0 m

/-- The byte of memory at an address. -/
def mget (m : Memory) (a : Nat) : Byte := tget 0 m a

/-- Memory with one byte written. -/
def mset (m : Memory) (a : Nat) (b : Byte) : Memory := tset 0 m a b

/-- `n` bytes from `a`, little-endian, as a number. -/
def mload (m : Memory) (a : Nat) : Nat → Nat
  | 0 => 0
  | n + 1 => (mget m a).toNat + 256 * mload m (a + 1) n

/-- Memory with the low `n` bytes of a number written from `a`, little-endian. -/
def mstore (m : Memory) (a : Nat) : Nat → Nat → Memory
  | 0, _ => m
  | n + 1, w => mstore (mset m a (BitVec.ofNat 8 (w % 256))) (a + 1) n (w / 256)

/-- The `n` bytes from `a` as a list. -/
def mbytes (m : Memory) (a n : Nat) : List Byte := (List.range n).map fun i => mget m (a + i)

/-- Memory with a list of bytes written from `a`. -/
def mwrite (m : Memory) (a : Nat) : List Byte → Memory
  | [] => m
  | b :: bs => mwrite (mset m a b) (a + 1) bs

/-- The number a little-endian list of bytes holds. -/
def leNat : List Byte → Nat
  | [] => 0
  | b :: bs => b.toNat + 256 * leNat bs

/-- The low `n` bytes of a number, little-endian. -/
def natLe : Nat → Nat → List Byte
  | 0, _ => []
  | n + 1, w => BitVec.ofNat 8 (w % 256) :: natLe n (w / 256)

/-- The first element of a list that meets a test is replaced. -/
def replaceFirst {α : Type} (p : α → Bool) (f : α → α) : List α → List α
  | [] => []
  | a :: l => if p a then f a :: l else a :: replaceFirst p f l

/-- The `n`th element of a list is replaced. -/
def modAt {α : Type} (f : α → α) : Nat → List α → List α
  | _, [] => []
  | 0, a :: l => f a :: l
  | n + 1, a :: l => a :: modAt f n l

/-- A list without its `n`th element. -/
def dropAt {α : Type} : Nat → List α → List α
  | _, [] => []
  | 0, _ :: l => l
  | n + 1, a :: l => a :: dropAt n l

/-- The number in bits [lo, lo + len) of a number. -/
def bits (w lo len : Nat) : Nat := w / 2 ^ lo % 2 ^ len

/-- One bit of a number. -/
def bitAt (w i : Nat) : Bool := w / 2 ^ i % 2 == 1

end Sys2Proof.Machine
end

