-- ==== Sys2Proof/Machine/State.lean ====
section
/-! DEFINITION. All the state the spec gives the machine, as plain data, and the state right after reset. -/

namespace Sys2Proof.Machine

/-- Why a step stops the machine. -/
inductive Fault where
  /-- Raised by a step that runs an instruction word while no context is named as its issuer: no run reaches such a
  state, because the step names the issuer before it runs the word. Safe: nothing follows from it. -/
  | noIssuer
deriving DecidableEq, Repr

/-- Why a step has no meaning. -/
inductive Refusal where
  /-- Raised by an arm of exec whose instruction has no meaning yet. Safe: nothing follows from it. -/
  | notModelled (mnemonic : String)
deriving DecidableEq, Repr

/-- The outcome of a step. -/
abbrev Out := Host.Outcome

/-- The register files a result is written to (R182 PEND). -/
inductive File where
  | x
  | v
  | p
  | m
  | s
deriving DecidableEq, Repr

/-- A fixed-latency result not yet written (R227, R228): the cycles left until it is written. -/
structure Pend where
  file : File
  reg : Nat
  left : Nat
  val : Vec
deriving DecidableEq, Repr

/-- One register of a staged result. -/
structure RegWrite where
  file : File
  reg : Nat
  val : Vec
deriving DecidableEq, Repr

/-- The landing buffer (R229): the registers written whole, the cycles before the write may fall, and, for a load from device memory, the cycle in which
it issued (R345). -/
structure Landing where
  writes : List RegWrite
  left : Nat
  load : Option Nat
deriving DecidableEq, Repr

/-- The header of a chunk (R273). -/
structure ChunkHdr where
  type : Nat
  scale : BitVec 8
  coding : Bool
  partialF : Bool
  special : Bool
  len : Nat
  vkind : Nat
  vid : Nat
  inst : Nat
  chan : Nat
  seq : Nat
  res : Nat
  anchor : BitVec 16
  mbz : Bool
deriving DecidableEq, Repr

/-- A token of a channel (R18): its kind and its bits. -/
inductive Token where
  | scalar (w : Word)
  | vec (v : Vec)
  | chunk (h : ChunkHdr) (p : BitVec 4096)
deriving DecidableEq, Repr

/-- The common bytes 0-15 of a token on the Flue and its bytes 16-63 (R117, R327). -/
structure Flt where
  code : Nat
  vd : Nat
  inst : Nat
  src : Nat
  isOver : Bool
  time : Nat
  body : List Byte
  run : Option Nat
  held : Option Nat
deriving DecidableEq, Repr

/-- Why a context is parked (R182 PARK, R170 and the parks that a cut settles). -/
inductive ParkKind where
  | landing
  | lds
  | bar
  | ringEmpty
  | ringFull
  | pool
  | cond
  | spec
  | chain
  | mread
  | mgroup
  | munbind
  | copyFull
  | mreadFull
  | streamBar
  | barEarlier
  | drain
  | fence
  | mreduce
  | launch
  | ringRemote
  | mseal
  | mchk
  | inj
  | bank
  | interlock
  | lkrd
  | fin
  | specFin
  | held
deriving DecidableEq, Repr

/-- A park: its reason, two numbers that its reason reads, a list it waits on, and its place in the order of parking. -/
structure Park where
  kind : ParkKind
  a : Nat
  b : Nat
  l : List Nat
  order : Nat
  since : Nat
deriving DecidableEq, Repr

/-- What a context is there for (R118, R194). -/
inductive Role where
  | idle
  | op (run node : Nat)
  | seg (run node : Nat)
deriving DecidableEq, Repr

/-- The name of a barrier: scope, id and domain (R436). -/
structure BarKey where
  scope : Nat
  id : Nat
  domain : Nat
deriving DecidableEq, Repr

/-- An outstanding arrival of a context, and whether its episode has completed (R182 BAROUT, BARDONE). -/
structure Arrival where
  key : BarKey
  done : Bool
deriving DecidableEq, Repr

/-- A barrier episode in progress (R436): arrivals made, its count, and the contexts parked in it. -/
structure Episode where
  key : BarKey
  count : Nat
  arrived : Nat
  who : List Nat
deriving DecidableEq, Repr

/-- The monitor of a context (R345). -/
structure Monitor where
  en : Bool
  event : Nat
  port : Nat
  cls : Nat
  num : Nat
  min : Word
  max : Word
  bins : Table Nat
deriving DecidableEq, Repr

def Monitor.init : Monitor :=
  { en := false, event := 0, port := 0, cls := 0, num := 0, min := BitVec.allOnes 64, max := 0, bins := [] }

/-- A context of a core (R223). `line` is the sector of its space, if any, that its core holds of its instructions; `fpaid` counts the Dampers that have
granted the fetch of another, which has stood at the next one since `fstood` (R101, R301, assumption 89). -/
structure Ctx where
  x : Table Word
  v : Table Vec
  p : BitVec 8
  m : Table Mask
  sh : Table ShapeBits
  pc : Nat
  fireno : Word
  fflags : BitVec 6
  frm : BitVec 3
  segid : Nat
  argbase : Word
  ccond : BitVec 18
  stepEn : Bool
  bpa : Table Word
  ctag : BitVec 16
  last : BitVec 8
  skip : Bool
  bphit : BitVec 4
  mon : Monitor
  fltrec : BitVec 13
  pend : List Pend
  land : Option Landing
  park : Option Park
  gap : Nat
  wait : Option Nat
  idle : Option Nat
  role : Role
  running : Bool
  fresh : Bool
  moved : Table Nat
  bars : List Arrival
  arrivedBars : List Nat
  departedBars : List Nat
  held : Option Flt
  withheld : Option Flt
  fires : Nat
  eligAt : Nat
  token : Option Flt
  ringsUsed : List Nat
  stepDue : Option (Word × Nat)
  sw : Bool
  child : Nat
  line : Option Nat
  fpaid : Nat
  fstood : Nat
deriving DecidableEq, Repr

/-- A context right after reset: p0 true, m0 reads as all ones, every other register zero. -/
def Ctx.init : Ctx :=
  { x := [], v := [], p := 1, m := [], sh := [], pc := 0, fireno := 0, fflags := 0, frm := 0, segid := 0, argbase := 0
    ccond := 0, stepEn := false, bpa := [], ctag := 0, last := 0, skip := false, bphit := 0, mon := Monitor.init
    fltrec := 0x1FFF, pend := [], land := none, park := none, gap := 0, wait := none, idle := none, role := .idle
    running := false, fresh := false, moved := [], bars := [], arrivedBars := [], departedBars := [], held := none
    withheld := none, fires := 0, eligAt := 0, token := none, ringsUsed := [], stepDue := none, sw := false, child := 0
    line := none, fpaid := 0, fstood := 0 }

/-- One unit of a device access: an aligned run of at most 8 bytes (R305), where it stands in the access's data. -/
structure Elt where
  va : Nat
  pa : Nat
  len : Nat
  off : Nat
deriving DecidableEq, Repr

/-- The kinds of device access. -/
inductive ReqKind where
  | load
  | store
  | atomic (fn : Nat)
  | lds (clr : Bool)
  | stf
  | feset
  | feclr
deriving DecidableEq, Repr

/-- A device access in a core's path to the home slices (R293, R428): `paid` counts the Dampers that have granted the request for the sector of its
next unit, `acq` says that it is an acquire (R307). `after` numbers the writes of a segment's spawner that it comes after (R309). -/
structure Req where
  id : Nat
  cid : Nat
  vd : Nat
  kind : ReqKind
  todo : List Elt
  data : Nat
  acc : Nat
  cmpv : Nat
  size : Nat
  dst : Option (File × Nat)
  shared : Bool
  rel : Bool
  home : Bool
  inval : Bool
  ovMask : Vec
  ovData : Vec
  word : Word
  pc : Nat
  since : Nat
  paid : Nat
  stood : Nat
  acq : Bool
  node : Nat
  after : List Nat
deriving DecidableEq, Repr

/-- A buffered effect of an uncertain segment (R212). -/
inductive SpecEff where
  | device (r : Req)
  | core (es : List (Nat × Nat × Nat)) (write : Bool) (fe : Option Bool) (rel : Bool)
  | xsend (core ctx port : Nat) (t : Token)
  | rpush (ring : Nat) (t : Token)
  | resolve (handle : Word) (taken : Bool)
deriving DecidableEq, Repr

/-- An entry of a core's speculative store buffer, or, `posted`, a write that waits behind a release of its context (R212,
R428). `bad` is the code and the address that a fresh translation has found wrong (R300). -/
structure SpecEntry where
  cid : Nat
  bytes : Nat
  eff : SpecEff
  word : Word
  pc : Nat
  posted : Bool
  id : Nat
  bad : Option (Nat × Nat)
deriving DecidableEq, Repr

/-- A directed token on its way (R392), with what a report of its fate says of the sender (R115, R327). `held` names the run and the node for which the
destination core holds it, once that node has been saved and stays stopped (R395). -/
structure Directed where
  srcCid : Nat
  srcRun : Option Nat
  core : Nat
  ctx : Nat
  port : Nat
  tok : Token
  word : Word
  pc : Nat
  due : Nat
  paid : Nat
  stood : Nat
  vd : Nat
  node : Nat
  fireno : Word
  held : Option (Nat × Nat)
deriving DecidableEq, Repr

/-- A standing binding (R237). -/
structure Binding where
  k : Nat
  stride : Nat
  base : Nat
  amask : Nat
  ty : Nat
  ca : Bool
  cb : Bool
deriving DecidableEq, Repr

/-- A read token of an accumulator's queue (R240). -/
structure MToken where
  f : Nat
  row : Nat
  ty : Nat
  rm : Nat
  cid : Nat
  d : Nat
  node : Nat
deriving DecidableEq, Repr

/-- The state of an accumulator (R236). -/
inductive AccState where
  | empty
  | accum
  | sealed
deriving DecidableEq, Repr

/-- An accumulator (R236). -/
structure Acc where
  val : Table (BitVec 128)
  rho : Table Nat
  anchor : BitVec 16
  xw : Bool
  fires : Nat
  st : AccState
  bind : Option Binding
  queue : List MToken
  parts : Nat
  pchunks : Nat
  sharers : List Nat
deriving DecidableEq, Repr

def Acc.init : Acc :=
  { val := [], rho := [], anchor := 0, xw := false, fires := 0, st := .empty, bind := none, queue := [], parts := 0
    pchunks := 0, sharers := [] }

/-- A tile slot or a Mantel slot (R233-R235, R242). -/
structure Slot where
  data : Memory
  full : Bool
  beta : Table Nat
  sharers : List Nat
deriving DecidableEq, Repr

def Slot.init : Slot := { data := [], full := false, beta := [], sharers := [] }

/-- A tag change that waits for a fire in progress to end (R452): the slot, whether it is a Mantel slot, the tag and the type. -/
structure TagReq where
  slot : Nat
  mantel : Bool
  full : Bool
  ty : Nat
deriving DecidableEq, Repr

/-- A copy in flight (R249, R446). `role` to `departed` are what it takes from its issuing context, which may end or switch away before it; `paid`
counts the Dampers that have granted its next unit, `secs` the sectors charged for the unit before, and `lat` holds the aligned units of 8 bytes of
its source that it has read (R305). -/
structure Copy where
  tag : Nat
  cid : Nat
  run : Nat
  node : Nat
  mode : Nat
  src : ShapeBits
  dst : ShapeBits
  soff : Nat
  doff : Nat
  idx : Vec
  ssp : Nat
  dsp : Nat
  sf : Bool
  k : Nat
  count : Nat
  word : Word
  pc : Nat
  done : Bool
  failed : Bool
  since : Nat
  role : Role
  fireno : Word
  arg : Word
  arrived : List Nat
  departed : List Nat
  paid : Nat
  stood : Nat
  secs : List (Bool × Nat)
  lat : Table Nat
deriving DecidableEq, Repr

/-- A page or TLB entry (R290, R297). -/
structure Page where
  vd : Nat
  va : Nat
  size : Nat
  pa : Nat
  writable : Bool
  sync : Bool
deriving DecidableEq, Repr

/-- A line of an L1 (R293): its line number in physical memory, the sectors it holds and when it was last used. -/
structure L1Line where
  line : Nat
  secs : Table (BitVec 1024)
  present : BitVec 4
  use : Nat
deriving DecidableEq, Repr

/-- A re-latch token at a core or an edge unit (R299). -/
structure Relatch where
  vd : Nat
  va : Nat
  size : Nat
  got : Bool
  waits : List Nat
  cmd : Nat × Nat × Nat
deriving DecidableEq, Repr

/-- A partial or a chunk of one travelling to an accumulator (R245). -/
structure XChunk where
  run : Nat
  srcCid : Nat
  core : Nat
  acc : Nat
  tok : Token
  word : Word
  pc : Nat
  node : Nat
  fireno : Word
deriving DecidableEq, Repr

/-- A cooperative group joined by a core (R455). -/
structure Group where
  gid : Nat
  desc : Word
deriving DecidableEq, Repr

/-- A core (R224-R253). `turns` holds by level the context that had the turn there last (R226). -/
structure Core where
  holder : Nat
  turnLen : Nat
  turnOver : Bool
  issued : Bool
  mem : Memory
  fe : Table Bool
  banksBusy : List Nat
  bankSharers : Table (List Nat)
  tiles : Table Slot
  mantel : Table Slot
  accs : Table Acc
  lastAcc : Nat
  fireLeft : Nat
  firing : Option Nat
  dummy : Bool
  copies : List Copy
  copyCount : Nat
  sendq : List Directed
  sbuf : List SpecEntry
  wq : List Req
  l1 : List L1Line
  tlb : List Page
  relatch : List Relatch
  groups : List Group
  tagq : List TagReq
  stopFires : Bool
  drained : List Nat
  turns : Table Nat
deriving DecidableEq, Repr

def Core.init : Core :=
  { holder := 0, turnLen := 0, turnOver := false, issued := false, mem := [], fe := [], banksBusy := [], bankSharers := []
    tiles := [], mantel := [], accs := [], lastAcc := 3, fireLeft := 0, firing := none, dummy := false, copies := []
    copyCount := 0, sendq := [], sbuf := [], wq := [], l1 := [], tlb := [], relatch := [], groups := [], tagq := []
    stopFires := false, drained := [], turns := [] }

/-! Graphs (R130-R132). In a loaded object a value may still be a value-or-expression field; in a run it is a value. -/

structure PortD where
  port : Nat
  kind : Nat
  count : Nat
  bound : Nat
deriving DecidableEq, Repr

structure ShapeD where
  image : ShapeBits
  baseMode : Nat
  patches : List (Nat × Nat)
deriving DecidableEq, Repr

structure NodeD where
  kind : Nat
  phase : Nat
  rkind : Nat
  ports : List PortD
  codeOff : Nat
  codeLen : Nat
  rounds : Nat
  shape : Option ShapeD
  args : Nat
  coll : Option Nat
deriving DecidableEq, Repr

structure ChanD where
  pnode : Nat
  pport : Nat
  cnode : Nat
  cport : Nat
  barrier : Bool
  selector : Bool
  depth : Nat
deriving DecidableEq, Repr

structure RangeD where
  node : Nat
  kind : Nat
  bmode : Nat
  barid : Nat
  baseMode : Nat
  sizeExpr : Bool
  base : Nat
  size : Nat
deriving DecidableEq, Repr

structure SiteD where
  id : Nat
  shift : Nat
  p : Nat
deriving DecidableEq, Repr

structure PhaseD where
  next : Nat
  selected : Bool
deriving DecidableEq, Repr

structure HandD where
  prod : Nat
  cons : Nat
  banks : BitVec 16
  fires : Nat
deriving DecidableEq, Repr

structure Graph where
  nodes : List NodeD
  chans : List ChanD
  ranges : List RangeD
  sites : List SiteD
  phases : List PhaseD
  hands : List HandD
  exprs : List (List Byte)
  params : List Nat
  marker : Nat
  fuse : Bool
deriving DecidableEq, Repr

/-- A loaded object (R84, R288, R301). -/
structure Obj where
  handle : Nat
  vd : Nat
  graph : Graph
  codeBase : Nat
  codeLen : Nat
  code : List Byte
  constBase : Nat
  constLen : Nat
  dataBase : Nat
  dataLen : Nat
  dataImg : List Byte
  signed : Bool
  domain : Nat
  secver : Nat
  digest : List Byte
  featReq : List Nat
  checked : Bool
  dynamic : Bool
  eligible : Bool
  dirSlot : Nat
  areas : List (Nat × Nat)
  unloading : Bool
deriving DecidableEq, Repr

/-- Where a node is placed (R137). -/
inductive Place where
  | ctx (cid : Nat)
  | slot (core n : Nat)
  | edge (die col : Nat) (north : Bool) (n : Nat)
deriving DecidableEq, Repr

/-- What travels on a channel: a token, or the marker of a cut, and the cycle before which it does not land. -/
structure Fly where
  tok : Option Token
  due : Nat
deriving DecidableEq, Repr

/-- A channel of a run (R122, R173). -/
structure Chan where
  buf : List Token
  fly : List Fly
  res : Nat
  seq : Nat
  marked : Bool
  late : List Token
deriving DecidableEq, Repr

def Chan.init : Chan := { buf := [], fly := [], res := 0, seq := 0, marked := false, late := [] }

/-- The state of a node that is not a context: an edge stream or a router operator (R149-R164, R183). Of a stream's present token `m` requests are
over and have read `got`; `asked` is where the next one goes once it has been issued, and `paid` counts the Dampers that have granted it. -/
structure NodeS where
  round : Nat
  done : Bool
  run : Bool
  held : Option Token
  n : Nat
  total : Nat
  ovMask : Nat
  ovBase : Nat
  ovExt : Table Nat
  latches : List Page
  latched : Bool
  big : Bool
  acted : Nat
  sent : Bool
  desc : List Nat
  chunks : List Token
  m : Nat
  got : List (Nat × Nat)
  asked : Option Nat
  paid : Nat
  stood : Nat
deriving DecidableEq, Repr

def NodeS.init : NodeS :=
  { round := 0, done := false, run := false, held := none, n := 0, total := 0, ovMask := 0, ovBase := 0, ovExt := []
    latches := [], latched := false, big := false, acted := 0, sent := false, desc := [], chunks := []
    m := 0, got := [], asked := none, paid := 0, stood := 0 }

/-- An open entry of the condition table (R202): `stale` counts the cycles before its likelihoods are recomputed, and until then its sides read as
`oldT` and `oldN` (R209). -/
structure CondE where
  site : Nat
  parent : BitVec 18
  depth : Nat
  ft : Nat
  fn : Nat
  phase : Nat
  stale : Nat
  oldT : Nat
  oldN : Nat
deriving DecidableEq, Repr

/-- A slot of the condition table. -/
structure CondSlot where
  gen : Nat
  pruned : Bool
  ent : Option CondE
deriving DecidableEq, Repr

def CondSlot.init : CondSlot := { gen := 0, pruned := false, ent := none }

/-- An entry of the segment pool (R195, R222): `stale` counts the cycles before its likelihood is recomputed, and until then it reads as `old`
(R209). -/
structure Seg where
  id : Nat
  kind : Nat
  ccond : BitVec 18
  args : List Byte
  phase : Nat
  slot : Nat
  after : List Nat
  cid : Option Nat
  stale : Nat
  old : Nat
deriving DecidableEq, Repr

/-- A ring (R217-R219): `seqs` holds the sequence number of each slot's item, `late` the contexts whose item from another core met the full ring. -/
structure Ring where
  id : Nat
  core : Nat
  node : Nat
  vec : Bool
  logn : Nat
  ncons : Nat
  lwm : Nat
  base : Nat
  pushed : BitVec 32
  cur : Table (BitVec 32)
  seqs : Table (BitVec 32)
  full : Bool
  parked : List Nat
  late : List Nat
  arriving : List (Nat × Token)
deriving DecidableEq, Repr

/-- The kind of a cut (R165). -/
inductive CutKind where
  | pause
  | periodic
  | yield
deriving DecidableEq, Repr

/-- A saved context (R182). -/
structure SavedCtx where
  node : Nat
  core : Nat
  cid : Nat
  state : Nat
  park : Nat
  ctx : Ctx
deriving DecidableEq, Repr

/-- A saved core object (R183, TYPE 5). -/
inductive SavedObj where
  | tile (core n : Nat) (s : Slot)
  | mantel (core n : Nat) (s : Slot)
  | acc (core n : Nat) (a : Acc)
  | bank (core n : Nat) (data : Memory) (fe : Table Bool) (owner : Nat) (sharers : List Nat)
deriving DecidableEq, Repr

/-- The records of a cut (R173, R181). `sent` holds the directed tokens of saved senders that their destinations have not taken (R395). -/
structure Cut where
  no : Nat
  kind : CutKind
  phase : Nat
  held : Option Nat
  time : Nat
  sgen : Nat
  die : Nat
  col : Nat
  width : Nat
  chans : Table Chan
  nodes : Table NodeS
  ctxs : List SavedCtx
  objs : List SavedObj
  conds : Table CondSlot
  segs : List Seg
  est : Table Nat
  rings : List Ring
  bars : List Episode
  nextSeg : Nat
  bankTok : List (Nat × Nat)
  store : Table Ctx
  groups : Table (List Group)
  place : Table (Option Place)
  sent : List Directed
deriving DecidableEq, Repr

/-- Where a run stands. -/
inductive RunSt where
  | running
  | config (left : Nat)
  | paused
  | yielded
  | halted (code : Nat)
  | ended
deriving DecidableEq, Repr

/-- An instance of a graph (R118, R133). -/
structure Run where
  id : Nat
  handle : Nat
  vd : Nat
  die : Nat
  col : Nat
  width : Nat
  graph : Graph
  place : Table (Option Place)
  st : RunSt
  phase : Nat
  heldSel : Option Nat
  chans : Table Chan
  nodes : Table NodeS
  leaves : Table Word
  argbase : Nat
  params : List Nat
  codeBase : Nat
  codeLen : Nat
  constBase : Nat
  constLen : Nat
  dataBase : Nat
  dataLen : Nat
  checked : Bool
  eligible : Bool
  debug : Bool
  conds : Table CondSlot
  segs : List Seg
  nextSeg : Nat
  est : Table Nat
  rings : List Ring
  bars : List Episode
  bankTok : List (Nat × Nat)
  watchdog : Nat
  hq : List Flt
  cut : Option Cut
  cutNo : Nat
  cutDue : Nat
  cutReq : Option CutKind
  saved : List Cut
  savedElems : List Nat
  poolBase : Nat
  reserved : List (Nat × Nat)
  cmd : Option (Nat × Nat × Nat)
  pauseCmds : List (Nat × Nat × Nat)
  parent : Option Nat
  poolFull : Bool
  poolParked : List Nat
  rolling : Bool
  confAt : Nat
  heldFor : Nat
  fullFor : Nat
  sgen : Nat
  ctxStore : Table Ctx
  waitSegs : List SavedCtx
  resumeCmd : Option (Nat × Nat × Nat)
  fired : Bool
  displaced : Bool
  away : Bool
deriving DecidableEq, Repr

/-- A line of an L2 way (R292, R295): the line, its owner, which sectors have been filled, the bytes written to it and the full-empty bits written to
it, by word. -/
structure L2Line where
  way : Nat
  line : Nat
  vd : Nat
  valid : BitVec 4
  dirty : Memory
  fe : Table Bool
  use : Nat
deriving DecidableEq, Repr

/-- One Damper (R101-R104): by virtual device its rates, its WEIGHT, CUR and the levels of its buckets in sixteenths of a unit, an
unlisted bucket being full; the SPARE bucket, full where it is none; and the units it has granted. -/
structure Damper where
  spare : Option Nat
  pool : Nat
  last0 : Nat
  cur : Table Nat
  floor : Table Nat
  ceil : Table Nat
  weight : Table Nat
  flLevel : Table Nat
  clLevel : Table Nat
  served : Table Nat
deriving DecidableEq, Repr

/-- A Damper at package reset (R102). -/
def Damper.init : Damper :=
  { spare := none, pool := 0, last0 := 31, cur := [], floor := [], ceil := [], weight := [], flLevel := [], clLevel := []
    served := [] }

/-- A window of a boundary guard (R116): `gdrop` is the sender's GDROP after its last drop, `sent` says that its report went out as it opened. -/
structure GuardWin where
  core : Nat
  srcCid : Nat
  first : Nat
  left : Nat
  count : Nat
  dest : Nat
  dport : Nat
  reason : Nat
  det : Nat
  kind : Nat
  word : Word
  cyc : Nat
  vd : Nat
  run : Option Nat
  gdrop : Nat
  sent : Bool
deriving DecidableEq, Repr

/-- A run of columns given to one or more virtual devices (R93, R94, R109). -/
structure Strip where
  die : Nat
  col : Nat
  width : Nat
  shared : Bool
  holders : List Nat
  slice : Nat
  grace : Nat
  occ : Option Nat
  since : Nat
  yielding : Bool
deriving DecidableEq, Repr

/-- An entry of the placement cache of a die (R141). -/
structure PlaceEntry where
  handle : Nat
  width : Nat
  digest : List Nat
  place : Table (Option Place)
  col : Nat
  cells : List Cell
  use : Nat
deriving DecidableEq, Repr

/-- A die. -/
structure Die where
  boilw : Nat
  capw : Nat
  capEn : Bool
  pavg : Nat
  pinst : Nat
  fclk : Nat
  fceil : Nat
  tripped : Bool
  trip : Bool
  therm : Bool
  boil : Bool
  capped : Bool
  calm : Nat
  dummyCount : Nat
  dmax : Nat
  fPrev : Nat
  fNow : Nat
  lo : Nat
  hi : Nat
  cyc : Nat
  clkAcc : Nat
  cycles : Nat
  uncorr : Nat
  corr : Nat
  rails : Table Word
  railAvg : Table Word
  railHist : Table (List Word)
  railDue : Table Nat
  unsound : List Cell
  sgen : Nat
  charges : List (Cell × Nat)
  cache : List PlaceEntry
  tgen : Nat
  tlb : List Page
  walks : List (Nat × Nat × Nat)
  l2 : Table (List L2Line)
  guards : List GuardWin
deriving DecidableEq, Repr

def Die.init : Die :=
  { boilw := 720, capw := 720, capEn := true, pavg := 0, pinst := 0, fclk := 1800, fceil := 14400, tripped := false, trip := false
    therm := false, boil := false, capped := false, calm := 0, dummyCount := 0, dmax := 720, fPrev := 0, fNow := 0
    lo := 0, hi := 720, cyc := 0, clkAcc := 0, cycles := 0, uncorr := 0, corr := 0, rails := [], railAvg := [], railHist := [], railDue := []
    unsound := [], sgen := 0, charges := [], cache := [], tgen := 0, tlb := [], walks := [], l2 := [], guards := [] }

/-- A command of a port, from its acceptance to its completion (R72, R75). -/
structure Pending where
  seq : Nat
  kind : Nat
  cmd : Cmd
  jidx : Nat
  dispatched : Bool
  begun : Bool
  fence : List (Nat × Nat)
  done : Option (Nat × Nat × Nat)
deriving DecidableEq, Repr

/-- A command port (R70). -/
structure Port where
  accseq : BitVec 32
  seqerr : BitVec 32
  malf : BitVec 32
  isOver : BitVec 32
  queue : List Pending
deriving DecidableEq, Repr

def Port.init : Port := { accseq := 0, seqerr := 0, malf := 0, isOver := 0, queue := [] }

/-- An access of the host through BAR 2 that is on its way (R67, R101): the bytes of each sector that it has still to pass, each with its address in the
virtual device's space, the Dampers that the first of them has still to be granted by, what a read has got, and the first address refused. -/
structure HostAcc where
  isRead : Bool
  secs : List (Nat × List Byte)
  owed : List Nat
  got : List Byte
  bad : Option Nat
  stood : Nat
deriving DecidableEq, Repr

/-- A virtual device. -/
structure Vd where
  ports : Table Port
  hostq : List HostAcc
  jidx : Nat
  jwrap : Nat
  apbase : Word
  apNext : Option Word
  aper : Nat
  xlerr : Nat
  gdrop : Nat
  fqidx : Nat
  fqwrap : Nat
  fqen : Bool
  fqvec : BitVec 3
  domok : BitVec 6
  signreq : Bool
  ctmo : Nat
  ghalt : Bool
  lmin : Nat
  featmask : Table Word
  grant : List (Nat × Nat)
  pages : List Page
  objs : List Obj
  nextHandle : Nat
  ways : Table (BitVec 16)
  bars : List Episode
  held : List ((Nat × Nat × Nat) × Nat × Nat × Bool)
  msixTab : Table Word
  msixPend : BitVec 8
deriving DecidableEq, Repr

/-- A virtual device at reset. The MSI-X table is zero, and each of its 32 KiB holds what is written to it (assumption 60). -/
def Vd.init : Vd :=
  { ports := [], hostq := [], jidx := 0, jwrap := 0, apbase := 0, apNext := none, aper := 38, xlerr := 0, gdrop := 0, fqidx := 0, fqwrap := 0, fqen := false
    fqvec := 0, domok := 0x3F, signreq := false, ctmo := 0, ghalt := false, lmin := 0, featmask := [], grant := []
    pages := [], objs := [], nextHandle := 1, ways := [], bars := [], held := [], msixTab := [], msixPend := 0 }

/-- A request to the Lathe of a die (R137, R139), and the units that its class-6 Damper has still to grant it (R101). -/
structure LatheReq where
  vd : Nat
  handle : Nat
  region : Nat
  record : Nat
  argbase : Nat
  params : List Nat
  leaves : Table Word
  debug : Bool
  cmd : Option (Nat × Nat × Nat)
  parent : Option Nat
  replace : Option Nat
  owed : Nat
deriving DecidableEq, Repr

/-- A contribution that stands in the collective unit (R58-R61): the package it comes from, its storer where that is this package, and
its chunks. -/
structure Contribution where
  pod : Nat
  vd : Nat
  run : Option Nat
  node : Nat
  chunks : List Token
deriving DecidableEq, Repr

/-- A collective that the unit holds (R58-R61): its tag and round, its descriptor, what has been contributed, when it expires, its result
once it is formed, once it has been discarded the code raised and the members that have still to contribute, and the pod links that were FAILING as it
began (R54). -/
structure Collective where
  tag : Nat
  round : Nat
  op : Nat
  rm : Nat
  members : Nat
  contribs : List Contribution
  deadline : Nat
  results : Option (List Token)
  dead : Option Nat
  late : List Nat
  shut : BitVec 8
deriving DecidableEq, Repr

/-- What the collective unit sends to another package over the pod links: a contribution to the root, or the root's answer, a code of 0 with
the result or the code raised (R61); the virtual device on whose allowance it travels, the link it takes, and the grants of that link's Damper that
it still waits for, one a chunk (R57). -/
structure PodMsg where
  dest : Nat
  tag : Nat
  round : Nat
  code : Option Nat
  chunks : List Token
  vd : Nat
  link : Nat
  owed : Nat
  stood : Nat
deriving DecidableEq, Repr

/-- A chunk of another package that has arrived over a pod link and been checked (R57): a contribution to the root, or part of the root's answer; and the
pod links that were FAILING as its collective began here (R54). -/
structure PodIn where
  pod : Nat
  tag : Nat
  round : Nat
  answer : Bool
  tok : Token
  shut : BitVec 8
deriving DecidableEq, Repr

/-- A turn of the schedule: the steps to come, and the inputs from outside among them. -/
inductive Turn where
  | op (i : Instr) (ev : Ev)
  | issue (cid : Nat)
  | raw (vd port : Nat) (kind : BitVec 8) (c : Cmd)
  | tick
deriving DecidableEq, Repr

/-- A request of the Imeus mailbox that is running (R87). -/
structure ImReq where
  op : Nat
  len : Nat
  bytes : List Byte
deriving DecidableEq, Repr

/-- The machine. While a word issues, `cur` names its context, `ir` holds it, `again` is the park that it ended, and `skipped` says that a breakpoint at
it was passed over. -/
structure State where
  agenda : List Turn
  cur : Option Nat
  ir : Word
  again : Option Park
  skipped : Bool
  ev : Ev
  free : Nat
  order : Nat
  now : Nat
  base : Nat
  ctxs : Table Ctx
  cores : Table Core
  runs : List Run
  nextRun : Nat
  dies : Table Die
  vds : Table Vd
  dampers : Table Damper
  dram : Memory
  sync : Table Bool
  poison : Table Bool
  arrivals : List (Nat × Nat × Nat)
  flue : List Flt
  directed : List Directed
  xchunks : List XChunk
  lathe : List LatheReq
  strips : List Strip
  colls : List Collective
  podOut : List PodMsg
  podIn : List PodIn
  fuses : Table Nat
  imbuf : Table Word
  imcmd : Word
  imstat : Word
  podId : Nat
  convOk : BitVec 4
  inputOk : Bool
  pkgLimit : Nat
  linkUp : Bool
  linkGen : Nat
  linkWidth : Nat
  grades : Table Nat
  podLinks : BitVec 8
  hostMem : Memory
  msix : List (Nat × Nat)
  reports : Nat
  bar2 : List Byte
  up : Bool
  booted : Bool
  aer : List (Nat × Nat)
  imreq : Option ImReq
  refills : Nat
  edgeRel : List (Nat × Relatch)
  edgeTurn : Table (Nat × Nat)
  bandq : List (Nat × Nat × Nat × Nat × Nat)
deriving DecidableEq, Repr

/-- The machine right after the reset sequence has opened the command ports (R62): nothing loaded, nothing placed, every
strip with virtual device 0, memory with nothing listed. -/
def State.reset : State :=
  { agenda := [], cur := none, ir := 0, again := none, skipped := false, ev := Ev.none, free := 0, order := 0, now := 0, base := 0, ctxs := [], cores := [], runs := [], nextRun := 1
    dies := [], vds := [], dampers := [], dram := [], sync := [], poison := [], arrivals := [], flue := [], directed := [], xchunks := []
    lathe := []
    strips := (List.range 4).map fun d =>
      { die := d, col := 0, width := 32, shared := false, holders := [0], slice := 0, grace := 0, occ := none, since := 0
        yielding := false }
    colls := [], podOut := [], podIn := [], fuses := [], imbuf := [], imcmd := 0, imstat := 0, podId := 0, convOk := 15, inputOk := true
    pkgLimit := 3600, linkUp := true, linkGen := 7, linkWidth := 16, grades := [], podLinks := 255, hostMem := []
    msix := [], reports := 0, bar2 := [], up := true, booted := true, aer := [], imreq := none, refills := 0, edgeRel := [], edgeTurn := [], bandq := [] }

end Sys2Proof.Machine
end

