-- ==== Sys2Proof/Machine/Ops.lean ====
section
/-! DEFINITION. The named operations over registers and agents that every meaning shares: accessors, register writes with their
latency, taking a fault and returning from one, and the tests every instruction word makes at issue. -/

namespace Sys2Proof.Machine

/-! ## Agents -/

/-- Context `cid` = 8 · core + context (R223). -/
def State.ctx (s : State) (cid : Nat) : Ctx := tget Ctx.init s.ctxs cid
def State.setCtx (s : State) (cid : Nat) (c : Ctx) : State := { s with ctxs := tset Ctx.init s.ctxs cid c }
def State.modCtx (s : State) (cid : Nat) (f : Ctx → Ctx) : State := s.setCtx cid (f (s.ctx cid))

def State.core (s : State) (k : Nat) : Core := tget Core.init s.cores k
def State.setCore (s : State) (k : Nat) (c : Core) : State := { s with cores := tset Core.init s.cores k c }
def State.modCore (s : State) (k : Nat) (f : Core → Core) : State := s.setCore k (f (s.core k))

def State.die (s : State) (d : Nat) : Die := tget Die.init s.dies d
def State.setDie (s : State) (d : Nat) (x : Die) : State := { s with dies := tset Die.init s.dies d x }
def State.modDie (s : State) (d : Nat) (f : Die → Die) : State := s.setDie d (f (s.die d))

def State.vd (s : State) (n : Nat) : Vd := tget Vd.init s.vds n
def State.setVd (s : State) (n : Nat) (x : Vd) : State := { s with vds := tset Vd.init s.vds n x }
def State.modVd (s : State) (n : Nat) (f : Vd → Vd) : State := s.setVd n (f (s.vd n))

def State.run (s : State) (id : Nat) : Option Run := s.runs.find? fun r => r.id == id
def State.modRun (s : State) (id : Nat) (f : Run → Run) : State :=
  { s with runs := replaceFirst (fun r => r.id == id) f s.runs }

def coreOf (cid : Nat) : Nat := cid / 8
def ctxOf (cid : Nat) : Nat := cid % 8
def dieOf (core : Nat) : Nat := core / 512
/-- Column and row of a core (R4). -/
def colOf (core : Nat) : Nat := core % 32
def rowOf (core : Nat) : Nat := core / 32 % 16
def coreId (die col row : Nat) : Nat := die * 512 + row * 32 + col
/-- The quad of a core: the id of its south-west core (R5). -/
def quadOf (core : Nat) : Nat := coreId (dieOf core) (colOf core / 2 * 2) (rowOf core / 2 * 2)

/-- Nanoseconds of the package time base: a tick is one period of 1.8 GHz (R368). -/
def State.time (s : State) : Nat := (s.now - s.base) * 5 / 9

def Role.run : Role → Option Nat
  | .idle => none
  | .op r _ => some r
  | .seg r _ => some r

def Role.node : Role → Nat
  | .idle => 0xFFFF
  | .op _ n => n
  | .seg _ n => n

def Role.isSeg : Role → Bool
  | .seg _ _ => true
  | _ => false

def Role.isOp : Role → Bool
  | .op _ _ => true
  | _ => false

/-- The run a context works for. -/
def State.ctxRun (s : State) (cid : Nat) : Option Run := (s.ctx cid).role.run.bind s.run

/-- Whether a core lies in a run's region (R8, R118). -/
def Run.covers (r : Run) (core : Nat) : Bool := r.die == dieOf core && r.col ≤ colOf core && colOf core < r.col + r.width

/-- The run stands in its region: it runs, is configured, or is halted before its LAUNCH completes. -/
def Run.present (r : Run) : Bool :=
  match r.st with
  | .running => true
  | .config _ => true
  | .halted _ => !r.away
  | _ => false

def Run.isRunning (r : Run) : Bool := r.st == .running

/-- The run keeps its region, whether it runs or is paused there. -/
def Run.standing (r : Run) : Bool := r.present || (r.st == .paused && !r.away)

/-- The run whose region a core lies in. -/
def State.regionRun (s : State) (core : Nat) : Option Run := s.runs.find? fun r => r.present && r.covers core

/-- A context that runs an uncertain segment: CCOND.VALID (R203). -/
def Ctx.uncertain (c : Ctx) : Bool := c.role.isSeg && c.ccond.getLsbD 17

def Run.node (r : Run) (n : Nat) : Option NodeD := r.graph.nodes[n]?
def Run.chan (r : Run) (n : Nat) : Chan := tget Chan.init r.chans n
def Run.setChan (r : Run) (n : Nat) (c : Chan) : Run := { r with chans := tset Chan.init r.chans n c }
def Run.nodeS (r : Run) (n : Nat) : NodeS := tget NodeS.init r.nodes n
def Run.setNodeS (r : Run) (n : Nat) (c : NodeS) : Run := { r with nodes := tset NodeS.init r.nodes n c }
def Run.placeOf (r : Run) (n : Nat) : Option Place := tget none r.place n

/-- Bit `b` of leaf `l` as the instance latched it (R89). -/
def Run.hasFeat (r : Run) (l b : Nat) : Bool := (tget 0 r.leaves l).getLsbD b

/-- The first feature of a list that the run lacks. -/
def Run.lacks (r : Run) : List (Nat × Nat) → Option (Nat × Nat)
  | [] => none
  | (l, b) :: fs => if r.hasFeat l b then r.lacks fs else some (l, b)

/-- The nodes that channels reach from a list of nodes, one hop. -/
def reachStep (g : Graph) (ns : List Nat) : List Nat :=
  ns ++ (g.chans.filter fun c => !c.barrier && !c.selector && ns.contains c.pnode && !ns.contains c.cnode).map (·.cnode)

def reachN (g : Graph) : Nat → List Nat → List Nat
  | 0, ns => ns
  | n + 1, ns =>
    let ns' := reachStep g ns
    if ns'.length = ns.length then ns else reachN g n ns'.eraseDups

/-- The handler entry of a graph (R36, R131 KIND 5). -/
def Graph.handler (g : Graph) : Option Nat := g.nodes.findIdx? fun n => n.kind == 5

/-- The nodes of the handler subgraph (R36). -/
def Graph.handlerNodes (g : Graph) : List Nat :=
  match g.handler with
  | none => []
  | some h => reachN g g.nodes.length [h]

/-! ## Registers -/

/-- The value of a scalar register; x0 reads as zero (R354). -/
def Ctx.xr (c : Ctx) (r : Reg) : Word := if r = 0 then 0 else tget 0 c.x r.toNat
def Ctx.vr (c : Ctx) (r : Reg) : Vec := tget 0 c.v r.toNat
/-- The value of a predicate; p0 reads as true (R354). -/
def Ctx.pr (c : Ctx) (n : Nat) : Bool := if n = 0 then true else c.p.getLsbD n
/-- The value of a mask; m0 reads as all ones (R354). -/
def Ctx.mr (c : Ctx) (n : Nat) : Mask := if n = 0 then BitVec.allOnes 256 else tget 0 c.m n
def Ctx.sr (c : Ctx) (n : Nat) : ShapeBits := tget 0 c.sh n

/-- One register written at once; a write to x0, p0 or m0 is discarded (R354). -/
def Ctx.write (c : Ctx) (f : File) (n : Nat) (v : Vec) : Ctx :=
  match f with
  | .x => if n = 0 then c else { c with x := tset 0 c.x n (v.setWidth 64) }
  | .v => { c with v := tset 0 c.v n v }
  | .p =>
    if n = 0 then c
    else { c with p := if v.getLsbD 0 then c.p ||| (1 <<< n) else c.p &&& ~~~(1 <<< n : BitVec 8) }
  | .m => if n = 0 then c else { c with m := tset 0 c.m n (v.setWidth 256) }
  | .s => { c with sh := tset 0 c.sh n (v.setWidth 512) }

/-- A register that discards what is written to it (R354). -/
def discards (f : File) (n : Nat) : Bool :=
  n == 0 && (match f with | .x => true | .p => true | .m => true | _ => false)

/-- A fixed-latency result: written at the end of the `l`th cycle counted from this one (R227). -/
def Ctx.pendW (c : Ctx) (f : File) (n : Nat) (v : Vec) (l : Nat) : Ctx :=
  if discards f n then c else { c with pend := c.pend ++ [{ file := f, reg := n, left := l, val := v }] }

def Ctx.pendX (c : Ctx) (d : Reg) (v : Word) (l : Nat) : Ctx := c.pendW .x d.toNat (v.setWidth 2048) l
def Ctx.pendV (c : Ctx) (d : Reg) (v : Vec) (l : Nat) : Ctx := c.pendW .v d.toNat v l
def Ctx.pendP (c : Ctx) (d : Nat) (b : Bool) (l : Nat) : Ctx := c.pendW .p d (if b then 1 else 0) l
def Ctx.pendM (c : Ctx) (d : Reg) (v : Mask) (l : Nat) : Ctx := c.pendW .m d.toNat (v.setWidth 2048) l

/-- Every result whose cycles have run is written, in order of issue, so that of two in one cycle the later stands (R228). -/
def Ctx.writeDue (c : Ctx) : Ctx :=
  let c' := c.pend.foldl (fun c p => if p.left = 0 then c.write p.file p.reg p.val else c) c
  { c' with pend := c.pend.filter fun p => p.left != 0 }

/-- Flags are only ever set by an instruction (R261). -/
def Ctx.orFlags (c : Ctx) (f : BitVec 6) : Ctx := { c with fflags := c.fflags ||| f }

/-- A result staged for a parked context (R229). -/
def Ctx.stage (c : Ctx) (ws : List RegWrite) (left : Nat) : Ctx :=
  { c with land := some { writes := ws, left := left, load := none } }

/-- The result of a load from device memory that issued in cycle `since`, staged (R229, R345 EVENT 3). -/
def Ctx.stageLoad (c : Ctx) (w : RegWrite) (since : Nat) : Ctx := { c with land := some { writes := [w], left := 0, load := some since } }

def rwX (d : Nat) (v : Word) : RegWrite := { file := .x, reg := d, val := v.setWidth 2048 }
def rwV (d : Nat) (v : Vec) : RegWrite := { file := .v, reg := d, val := v }
def rwP (d : Nat) (b : Bool) : RegWrite := { file := .p, reg := d, val := if b then 1 else 0 }
def rwS (d : Nat) (v : ShapeBits) : RegWrite := { file := .s, reg := d, val := v.setWidth 2048 }

/-- A park with its reason alone. -/
def Park.of (k : ParkKind) : Park := { kind := k, a := 0, b := 0, l := [], order := 0, since := 0 }

/-! ## Monitors (R345, R346) -/

/-- The bin of a sample. -/
def monBin (v : Nat) : Nat := if v = 0 then 0 else if v < 2 ^ 14 then v.log2 + 1 else 15

/-- A sample of an event, if the monitor samples it. -/
def Monitor.sample (m : Monitor) (event v : Nat) : Monitor :=
  if m.en && m.event == event then
    { m with min := if v < m.min.toNat then BitVec.ofNat 64 v else m.min
             max := if v > m.max.toNat then BitVec.ofNat 64 v else m.max
             bins := tset 0 m.bins (monBin v) (Nat.min (tget 0 m.bins (monBin v) + 1) (2 ^ 32 - 1)) }
  else m

def State.sample (s : State) (cid event v : Nat) : State :=
  s.modCtx cid fun c => { c with mon := c.mon.sample event v }

/-! ## Faults (R326-R331) -/

/-- SRC of a core's context (R117). -/
def srcOfCid (cid : Nat) : Nat := coreOf cid + ctxOf cid * 2 ^ 11

/-- Bytes 16-63 of an instruction fault (R327). -/
def fltBody (word : Word) (pc node : Nat) (held : Bool) (addr info : Nat) (fireno : Word) (cycle : Nat) : List Byte :=
  natLe 8 word.toNat ++ natLe 4 pc ++ natLe 2 node ++ natLe 1 held.toNat ++ natLe 1 0 ++ natLe 8 addr ++ natLe 8 info ++
    natLe 8 fireno.toNat ++ natLe 8 cycle

/-- The 64 bytes of a token (R117, R327). -/
def Flt.bytes (f : Flt) : List Byte :=
  natLe 1 f.code ++ natLe 1 f.vd ++ natLe 2 f.inst ++ natLe 2 f.src ++ natLe 1 f.isOver.toNat ++ natLe 1 0 ++ natLe 8 f.time ++
    (f.body ++ List.replicate (48 - f.body.length) 0)

/-- CYCLE of a die's clock (R368). -/
def State.cycle (s : State) (core : Nat) : Nat := (s.die (dieOf core)).cycles

/-- What bytes 48-55 of an instruction fault hold for a context: SEGID for a segment, else FIRENO (R327). -/
def Ctx.workNo (c : Ctx) : Word := if c.role.isSeg then BitVec.ofNat 64 c.segid else c.fireno

/-- CYCLE of the die that a run's region lies on. -/
def State.cycleOf (s : State) (r : Run) : Nat := (s.die r.die).cycles

/-- The token of a fault that a context raises. -/
def State.mkFlt (s : State) (cid code : Nat) (word : Word) (pc info addr : Nat) (held : Bool) : Flt :=
  let c := s.ctx cid
  let vd := match s.ctxRun cid with | some r => r.vd | none => 0
  { code := code, vd := vd, inst := (c.role.run.getD 0) % 2 ^ 16, src := srcOfCid cid, isOver := false, time := s.time
    body := fltBody word pc c.role.node held addr info c.workNo (s.cycle (coreOf cid))
    run := none, held := if held then some cid else none }

/-- A region halts (R328): each of its elements stops at once, a cut in progress is abandoned, and the command that waits
for the run, and a PAUSE that waits for its cut, get their status. One that has been yielded stays away from its cells. -/
def State.haltRun (s : State) (id code : Nat) : State :=
  s.modRun id fun r =>
    match r.st with
    | .halted _ => r
    | .ended => r
    | _ => { r with st := .halted code, cut := none, cutReq := none, away := r.away || r.st == .yielded }

/-- How urgent a cut is: a pause goes before a yield, a yield before a periodic cut (R165). -/
def CutKind.rank : CutKind → Nat
  | .periodic => 0
  | .yield => 1
  | .pause => 2

/-- An element's key among those that have saved: a node, or a segment context. -/
def segKey (cid : Nat) : Nat := 0x10000 + cid

/-- The key of the element that a context is. -/
def Ctx.elemKey (c : Ctx) (cid : Nat) : Nat := if c.role.isSeg then segKey cid else c.role.node

/-- A run waits for a cut: one that a more urgent cut, waited for or in progress, already brings is not asked for again (R165, R172, R328). -/
def Run.askCut (r : Run) (k : CutKind) : Run :=
  if r.cut.any fun c => c.kind != .periodic && k.rank ≤ c.kind.rank then r
  else { r with cutReq := match r.cutReq with | some o => if k.rank ≤ o.rank then some o else some k | none => some k }

/-- The region's cells work: the run runs or is being configured. -/
def Run.works (r : Run) : Bool :=
  match r.st with
  | .running => true
  | .config _ => true
  | _ => false

/-- A token goes onto the Flue (R326). -/
def State.onFlue (s : State) (f : Flt) : State := { s with flue := s.flue ++ [f] }

/-- The default action on an instruction fault, and the handler's (R328, R329, R334). Under the default action of BREAK the context goes
on after a BRK word, and at the word that a breakpoint stopped, which its next issue passes over (R343, assumption 22). -/
def State.deliver (s : State) (cid : Nat) (f : Flt) : State :=
  match s.ctxRun cid with
  | none => s.onFlue f
  | some r =>
    let c := s.ctx cid
    if r.graph.handlerNodes.contains c.role.node then
      (s.onFlue { f with run := none, held := none }).haltRun r.id f.code
    else if r.graph.handler.isSome then
      let f' := { f with run := some r.id, held := some cid }
      (s.setCtx cid { c with held := some f', park := some (Park.of .held) }).onFlue f'
    else if f.code == 0x0F || f.code == 0x10 then
      let pc := if f.code == 0x0F && !c.skip then c.pc + 8 else c.pc
      ((s.setCtx cid { c with park := some (Park.of .held), pc := pc }).onFlue { f with run := none, held := none }).modRun r.id
        fun r => r.askCut .pause
    else
      (s.onFlue { f with run := none, held := none }).haltRun r.id f.code

/-- Taking a fault: the one operation by which an instruction of a context raises a code. An uncertain segment withholds
it (R215); otherwise it is delivered. INFO and ADDR are those of R327. -/
def State.raiseAt (s : State) (cid code : Nat) (word : Word) (pc info addr : Nat) : State :=
  let held := match s.ctxRun cid with
    | some r => r.graph.handler.isSome && !r.graph.handlerNodes.contains (s.ctx cid).role.node
    | none => false
  let f := s.mkFlt cid code word pc info addr held
  let s := if code == 0x0F || code == 0x10 || code == 0x11 then s.modCtx cid fun c => { c with last := BitVec.ofNat 8 code, bphit := 0 } else s
  if (s.ctx cid).uncertain then
    s.modCtx cid fun c => { c with withheld := some f, park := some (Park.of .spec) }
  else s.deliver cid f

def State.raise (s : State) (cid code info addr : Nat) : State :=
  s.raiseAt cid code s.ir (s.ctx cid).pc info addr

/-- The node that an instruction fault, an ECC, a TAGPAR or an ACCWIN names is of the handler subgraph (R327, R334). -/
def Run.ownFault (r : Run) (f : Flt) : Bool := f.code != 0x13 && f.code != 0x17 && r.graph.handlerNodes.contains (leNat ((f.body.drop 12).take 2))

/-- A residue fault of an operator of the handler subgraph: the context that SRC names is one of its operators (R334). -/
def Run.ownSrc (r : Run) (code src : Nat) : Bool :=
  code == 0x13 && r.graph.handlerNodes.any fun n => match r.placeOf n with
    | some (.ctx cid) => srcOfCid cid == src
    | _ => false

/-- A fault that an element raises without a context being held (R393, R448, R456): one of the handler's own elements halts the region (R334). -/
def State.raiseFree (s : State) (id code : Nat) (f : Flt) : State :=
  match s.run id with
  | none => s.onFlue f
  | some r =>
    if r.graph.handler.isSome && !r.ownFault f then s.onFlue { f with run := some id, held := none }
    else (s.onFlue { f with run := none, held := none }).haltRun id code

/-- The newest complete cut of a run: its number, 0 for cut 0 at launch. -/
def Run.newestCut (r : Run) : Nat := (r.saved.getLast?.map (·.no)).getD 0

/-- A region that rolls back abandons its cut; a pause or a yield still follows (R172, R186). -/
def Run.rollsBack (r : Run) : Run :=
  { r with
    rolling := true, cut := none
    cutReq := match r.cut with
      | some c => if c.kind == .periodic then r.cutReq else some c.kind
      | none => r.cutReq }

/-- The action on a residue fault, an ECC or a TAGPAR of a run (R186, R338, R339): a rollback-eligible run rolls back and
any other halts; the token says which. `body` makes bytes 16-63 from ACTION and CUTNO. -/
def State.integrityAct (s : State) (id code src : Nat) (body : Nat → Nat → List Byte) : State :=
  match s.run id with
  | none => s
  | some r =>
    let act := if r.eligible then 0 else 1
    let f : Flt := { code := code, vd := r.vd, inst := id % 2 ^ 16, src := src, isOver := false, time := s.time
                     body := body act (if r.eligible then r.newestCut else 0)
                     run := none, held := none }
    let f := if r.eligible && r.graph.handler.isSome && !r.ownFault f && !r.ownSrc code src then { f with run := some id } else f
    if r.eligible then (s.onFlue f).modRun id Run.rollsBack
    else (s.onFlue f).haltRun id code

/-- Bytes 16-63 of an ECC or TAGPAR of a core object (R327). -/
def eccBody (kind obj node addr cycle act cutno : Nat) : List Byte :=
  natLe 8 (kind + obj * 256) ++ natLe 4 0 ++ natLe 2 node ++ natLe 2 0 ++ natLe 8 addr ++ natLe 8 act ++ natLe 8 cutno ++
    natLe 8 cycle

/-- An uncorrectable error met by an access of a run (R339): memory kind, object, node and address. -/
def State.eccAct (s : State) (id code src kind obj node addr cycle : Nat) : State :=
  s.integrityAct id code src fun act cut => eccBody kind obj node addr cycle act cut

/-- An uncorrectable error met by an access of a context (R339); an uncertain segment withholds it (R215). -/
def State.eccCtx (s : State) (cid node kind obj addr : Nat) : State :=
  let c := s.ctx cid
  let cyc := s.cycle (coreOf cid)
  if c.uncertain then
    let f : Flt := { code := 0x14, vd := ((s.ctxRun cid).map (·.vd)).getD 0, inst := (c.role.run.getD 0) % 2 ^ 16, src := srcOfCid cid, isOver := false
                     time := s.time, body := eccBody kind obj node addr cyc 0 0, run := none, held := none }
    s.modCtx cid fun c => { c with withheld := some f, park := some (Park.of .spec) }
  else s.eccAct (c.role.run.getD 0) 0x14 (srcOfCid cid) kind obj node addr cyc

/-- A withheld fault is raised as its segment becomes certain (R215): an uncorrectable error acts as one met now. -/
def State.raiseHeld (s : State) (cid : Nat) (f : Flt) : State :=
  if f.code = 0x14 then
    s.integrityAct ((s.ctx cid).role.run.getD 0) 0x14 f.src fun act cut => f.body.take 24 ++ natLe 8 act ++ natLe 8 cut ++ f.body.drop 40
  else s.deliver cid { f with time := s.time }

/-- ACCWIN (R268, R328): a token alone under a handler, and otherwise the region halts; the saturated value stands. -/
def State.accwin (s : State) (id src kind obj node cycle : Nat) : State :=
  match s.run id with
  | none => s
  | some r =>
    let act := if r.graph.handler.isSome && !r.graph.handlerNodes.contains node then 2 else 1
    s.raiseFree id 0x16
      { code := 0x16, vd := r.vd, inst := id % 2 ^ 16, src := src, isOver := false, time := s.time
        body := eccBody kind obj node 0 cycle act 0, run := none, held := none }

/-! ## What an instruction may do, and its issue -/

/-- The outcome of a word that executes. -/
inductive Eff where
  /-- The effect is done and the next word follows. -/
  | next (s : State)
  /-- A taken transfer of control. -/
  | goto (s : State) (pc : Nat)
  /-- The context parks at this word, which has taken no effect and issues afresh. -/
  | park (s : State) (k : Park)
  /-- The effect has begun and the context parks; the next word follows. -/
  | wait (s : State) (k : Park)
  /-- The word waits at issue, as if under GAP. -/
  | hold (s : State)
  /-- A fault: no effect; its code, INFO and ADDR. -/
  | trap (code info addr : Nat)
  /-- The effect is done and the turn ends; the next word follows. -/
  | last (s : State)
  /-- The firing or segment ends; the context stands as the state given says. -/
  | fin (s : State)

/-- The turn of the issuing context ends (R226). -/
def State.endTurn (s : State) (cid : Nat) : State :=
  s.modCore (coreOf cid) fun k => if k.holder = ctxOf cid then { k with turnOver := true } else k

/-- An issue is counted: the core has issued in this cycle, and the 256th instruction of a turn ends it (R226). -/
def State.countIssue (s : State) (cid : Nat) (sw : Bool) : State :=
  s.modCore (coreOf cid) fun k =>
    let k := { k with issued := true }
    if k.holder = ctxOf cid then { k with turnLen := k.turnLen + 1, turnOver := sw || k.turnLen + 1 ≥ 256 } else k

/-- The context moves past a word: the cycles before it issues again are 1 + GAP, one more after a taken transfer (R227, R378). -/
def State.advance (s : State) (cid : Nat) (h : Hdr) (pc extra : Nat) : State :=
  s.modCtx cid fun c => { c with pc := pc, gap := 1 + h.gap.toNat + extra }

/-- The park of the same kind that the word which issues has just ended: it keeps its place among the waiters (R218, R429). -/
def State.parkedBefore (s : State) (cid : Nat) (kind : ParkKind) : Option Park :=
  if s.cur = some cid then s.again.filter fun p => p.kind == kind else none

/-- A context's place among the waiters of a kind. -/
def State.parkOrder (s : State) (cid : Nat) (kind : ParkKind) : Nat :=
  match (s.ctx cid).park with
  | some p => p.order
  | none => ((s.parkedBefore cid kind).map (·.order)).getD s.order

/-- The place of a context that parks among those that have: the last, or the one it had where its word issued again to no avail. -/
def State.parkPlace (s : State) (cid : Nat) (k : Park) : Nat :=
  match s.parkedBefore cid k.kind with
  | some p => if p.a = k.a && p.b = k.b then p.order else s.order
  | none => s.order

/-- A context parks. -/
def State.parkCtx (s : State) (cid : Nat) (k : Park) : State :=
  { (s.modCtx cid fun c => { c with park := some { k with order := s.parkPlace cid k, since := s.cycle (coreOf cid) } }) with order := s.order + 1 }

/-- The monitor samples the cycles of the park that a context stood in, `c`, and that has ended (R345 EVENT 6). -/
def State.parkSample (s : State) (cid : Nat) (c : Ctx) : State :=
  match c.park with
  | none => s
  | some p => s.sample cid 6 (s.cycle (coreOf cid) - p.since)

/-- A park ends, and leaves its context at a stop point (R168, R170). -/
def State.unpark (s : State) (cid : Nat) : State :=
  match (s.ctx cid).park with
  | none => s
  | some _ => (s.modCtx cid fun c => { c with park := none, sw := true }).parkSample cid (s.ctx cid)

/-- What a word that has taken effect leaves in its context: whether it was a switch-away point (R168), and, under STEPCTL.EN, the
word and PC whose STEP is due (R342). -/
def State.noteIssue (s s0 : State) (cid : Nat) (sw : Bool) : State :=
  s.modCtx cid fun c =>
    { c with sw := sw, stepDue := if (s0.ctx cid).stepEn then some (s0.ir, (s0.ctx cid).pc) else c.stepDue }

/-- What a word's outcome makes of the machine. GAP and SW act for every word that issues, a faulting one included (R365); a word that has to issue afresh
is passed over by its breakpoint still (R343). -/
def settle (s0 : State) (cid : Nat) (h : Hdr) : Eff → State
  | .next s => ((s.advance cid h ((s.ctx cid).pc + 8) 0).countIssue cid h.sw).noteIssue s0 cid h.sw
  | .last s => ((s.advance cid h ((s.ctx cid).pc + 8) 0).countIssue cid true).noteIssue s0 cid true
  | .goto s pc => ((s.advance cid h pc 1).countIssue cid h.sw).noteIssue s0 cid h.sw
  | .park s k => ((s.parkCtx cid k).modCtx cid fun c => { c with gap := 1, skip := c.skip || s0.skipped }).countIssue cid true
  | .wait s k => (((s.advance cid h ((s.ctx cid).pc + 8) 0).parkCtx cid k).countIssue cid true).noteIssue s0 cid true
  | .hold s => s.modCtx cid fun c => { c with gap := 1, skip := c.skip || s0.skipped }
  | .fin s =>
    let s := (s.modCtx cid fun c => { c with gap := 1 + h.gap.toNat }).countIssue cid true
    if (s.ctx cid).role.isOp then s.modCtx cid fun c => { c with sw := true } else s
  | .trap code info addr =>
    ((s0.raise cid code info addr).modCtx cid fun c => { c with gap := 1 + h.gap.toNat }).countIssue cid
      (h.sw || (((s0.raise cid code info addr).ctx cid).park.isSome))

/-- The tests 4 and 5 of R365 and the room for results (R228), then the word's own meaning. `n` results of fixed latency,
13 for a parking word, which waits while 12 are held. -/
def issueEff (h : Hdr) (feats : List (Nat × Nat)) (n : Nat) (body : State → Nat → Eff) (s : State) (cid : Nat) : Eff :=
  let c := s.ctx cid
  match (s.ctxRun cid).bind (·.lacks feats) with
  | some (l, b) => .trap 0x02 (b + l * 256) 0
  | none =>
    if c.pr h.pr.toNat == h.pn then .next s
    else if n ≠ 0 && c.pend.length + (if n = 13 then 1 else n) > 12 then .hold s
    else body s cid

/-- The meaning of a word: its issue by the context that the step has named. -/
def issue (h : Hdr) (feats : List (Nat × Nat)) (n : Nat) (body : State → Nat → Eff) (s : State) :
    Host.Outcome State Fault Refusal :=
  match s.cur with
  | none => .fault .noIssuer
  | some cid => .next (settle s cid h (issueEff h feats n body s cid))

/-- A word that computes one scalar result from its context's registers. -/
def issueX (h : Hdr) (d : Reg) (lat : Nat) (f : Ctx → Word) (s : State) : Host.Outcome State Fault Refusal :=
  issue h [] 1 (fun s cid => .next (s.modCtx cid fun c => c.pendX d (f c) lat)) s

end Sys2Proof.Machine
end

