-- ==== Sys2Proof/Machine/Damper.lean ====
section
/-! DEFINITION. The Dampers: capacities, bands, refill and the grant round (04 R101-R107, R111, 13 R345). -/

namespace Sys2Proof.Machine

/-- The key of a Damper: its class and instance number (R101). Class 9 keys the class-8 buckets of one core, by core id (R111), and class 10, by die, the
Damper of bridge B3 in the direction from the hub, to which R101 gives no instance number (R44). -/
def dampKey (cls inst : Nat) : Nat := cls * 65536 + inst

/-- Capacity of an arbiter in units per microsecond (R101). -/
def dampCap (cls inst : Nat) : Nat :=
  match cls with
  | 0 => 1000
  | 1 => 2000
  | 2 => 1800
  | 3 => if inst % 4 ≤ 1 then 7812 else 3906
  | 4 => 1750
  | 5 => 2000
  | 6 => 25
  | 10 => 3906
  | _ => 1800

/-- Instance numbers of a class lie below this (R101). -/
def dampCount (cls : Nat) : Nat :=
  match cls with
  | 0 => 256
  | 1 => 256
  | 2 => 128
  | 3 => 16
  | 4 => 8
  | 5 => 2
  | 6 => 4
  | 10 => 4
  | _ => 128

/-- The trained rate of the host link in GB/s a direction, 0 while it is down (R55). -/
def State.linkRate (s : State) : Nat :=
  if !s.linkUp then 0 else 256 / 2 ^ (7 - s.linkGen) * s.linkWidth / 16

/-- The usable rate of an arbiter (R107). -/
def State.usable (s : State) (cls inst : Nat) : Nat :=
  if cls = 5 then Nat.min (dampCap 5 inst) (s.linkRate * 1000 / 128) else dampCap cls inst

def State.damper (s : State) (key : Nat) : Damper := tget Damper.init s.dampers key
def State.setDamper (s : State) (key : Nat) (d : Damper) : State := { s with dampers := tset Damper.init s.dampers key d }

def Damper.flRate (d : Damper) (v : Nat) : Nat := tget 0 d.floor v
def Damper.clRate (d : Damper) (cap v : Nat) : Nat := tget cap d.ceil v
def Damper.wt (d : Damper) (v : Nat) : Nat := tget 1 d.weight v
def Damper.fl (d : Damper) (v : Nat) : Nat := tget (64 * d.flRate v) d.flLevel v
def Damper.cl (d : Damper) (cap v : Nat) : Nat := tget (64 * d.clRate cap v) d.clLevel v
def Damper.setFl (d : Damper) (v n : Nat) : Damper := { d with flLevel := tset (64 * d.flRate v) d.flLevel v n }
def Damper.setCl (d : Damper) (cap v n : Nat) : Damper := { d with clLevel := tset (64 * d.clRate cap v) d.clLevel v n }
def Damper.sumFloor (d : Damper) : Nat := (d.floor.map (·.2)).sum
def Damper.spareDepth (d : Damper) (cap : Nat) : Nat := 64 * (cap - d.sumFloor)
def Damper.spareLevel (d : Damper) (cap : Nat) : Nat := d.spare.getD (d.spareDepth cap)
def Damper.setSpare (d : Damper) (n : Nat) : Damper := { d with spare := some n }

/-- Refill (R103), at the usable rate `cu` of an arbiter of capacity `cap` (R107). -/
def Damper.refill (cap cu : Nat) (d : Damper) : Damper :=
  let sum := d.sumFloor
  let d := (List.range 32).foldl (fun (d : Damper) v =>
    let rate := if sum ≤ cu then d.flRate v else d.flRate v * cu / sum
    let f := d.fl v + rate
    let depth := 64 * d.flRate v
    let d := if f > depth then { d with pool := Nat.min (d.pool + f - depth) (16 * sum) } else d
    let d := d.setFl v (Nat.min f depth)
    d.setCl cap v (Nat.min (d.cl cap v + d.clRate cap v) (64 * d.clRate cap v))) d
  d.setSpare (Nat.min (d.spareLevel cu + (cu - sum)) (d.spareDepth cu))

/-- The head of a list with the least rank. -/
def leastBy (f : Nat → Nat) : List Nat → Option Nat
  | [] => none
  | v :: vs => match leastBy f vs with
    | none => some v
    | some w => if f v ≤ f w then some v else some w

/-- Round (R104): `heads` gives each virtual device with a request at the head of its queue, and that request's cost. Answers the
virtual device granted. -/
def Damper.round (cap cu : Nat) (d : Damper) (heads : List (Nat × Nat)) : Option Nat × Damper :=
  let cost (v : Nat) : Nat := ((heads.find? fun h => h.1 == v).map (·.2)).getD 0
  let vs := (List.range 32).filter fun v => heads.any fun h => h.1 == v
  let serve (d : Damper) (v : Nat) : Damper := { d with served := tset 0 d.served v (tget 0 d.served v + cost v) }
  match leastBy (fun v => (v + 31 - d.last0) % 32) (vs.filter fun v => 16 * cost v ≤ d.fl v && 16 * cost v ≤ d.cl cap v) with
  | some v =>
    let d := (d.setFl v (d.fl v - 16 * cost v)).setCl cap v (d.cl cap v - 16 * cost v)
    (some v, serve { d with last0 := v } v)
  | none =>
    let e1 := vs.filter fun v => 16 * cost v ≤ d.cl cap v
    let d := { d with cur := d.cur.filter fun c => e1.contains c.1 }
    let cmax := e1.foldl (fun m v => Nat.max m (cost v)) 0
    if e1.isEmpty then (none, d)
    else if !(16 * cmax ≤ d.pool || 16 * cmax ≤ d.spareLevel cu) then (none, d)
    else
      let fromPool := decide (16 * cmax ≤ d.pool)
      -- CUR is kept above zero by 2^32, so that a number holds it.
      let base := 2 ^ 32
      let cur := e1.foldl (fun t v => tput t v (tget base t v + d.wt v)) d.cur
      match leastBy (fun v => 2 ^ 40 - tget base cur v) e1 with
      | none => (none, d)
      | some v =>
        let total := e1.foldl (fun a v => a + d.wt v) 0
        let cur := e1.foldl (fun t w => tset base t w (tget base cur w - if w = v then total else 0)) ([] : Table Nat)
        let d := { d with cur := cur }
        let d := if fromPool then { d with pool := d.pool - 16 * cost v } else d.setSpare (d.spareLevel cu - 16 * cost v)
        (some v, serve (d.setCl cap v (d.cl cap v - 16 * cost v)) v)

/-! ## The speculative allowance (R111) -/

def Strip.holds (p : Strip) (die col : Nat) : Bool := p.die == die && p.col ≤ col && col < p.col + p.width

/-- The strip a column lies in. -/
def State.stripAt (s : State) (die col : Nat) : Option Strip := s.strips.find? fun p => p.holds die col

/-- The rate of a virtual device's class-8 bucket on a core: the band of the instance that names its strip's first column. -/
def State.specRate (s : State) (core vd : Nat) : Nat :=
  let first := ((s.stripAt (dieOf core) (colOf core)).map (·.col)).getD 0
  (s.damper (dampKey 8 (dieOf core * 32 + first))).clRate 1800 vd

/-- The level of a core's class-8 bucket, in sixteenths of a unit. -/
def State.specLevel (s : State) (core vd : Nat) : Nat := tget (64 * s.specRate core vd) (s.damper (dampKey 9 core)).clLevel vd

def State.setSpec (s : State) (core vd n : Nat) : State :=
  let d := s.damper (dampKey 9 core)
  s.setDamper (dampKey 9 core) { d with clLevel := tset (64 * s.specRate core vd) d.clLevel vd n }

/-- One unit is there for an issue of an uncertain segment. -/
def State.specOk (s : State) (core vd : Nat) : Bool := 16 ≤ s.specLevel core vd

/-- The class-8 buckets of a die's cores keep their levels as their rates change, cut to the new depth (R99, R111). -/
def State.keepSpec (s s' : State) (die v : Nat) : State :=
  (List.range 512).foldl (fun t i =>
    let core := die * 512 + i
    if s.specRate core v = s'.specRate core v then t
    else t.setSpec core v (Nat.min (s.specLevel core v) (64 * s'.specRate core v))) s'

/-! ## The events -/

/-- A core's class-8 buckets refill. -/
def State.refillSpec (s : State) (core : Nat) : State :=
  (List.range 32).foldl (fun s v =>
    s.setSpec core v (Nat.min (s.specLevel core v + s.specRate core v) (64 * s.specRate core v))) s

/-- A BAND takes effect (R99): rates and weight are set; levels stay, cut to the new depths, SPARE's at the usable rate (R107). -/
def State.applyBand (s : State) (b : Nat × Nat × Nat × Nat × Nat) : State :=
  let (key, v, fl, ce, w) := b
  let cls := key / 65536
  let inst := key % 65536
  let cap := dampCap cls inst
  let d := s.damper key
  let cu := s.usable cls inst
  let (lf, lc, ls) := (d.fl v, d.cl cap v, d.spareLevel cu)
  let d' : Damper := { d with floor := tset 0 d.floor v fl, ceil := tset cap d.ceil v ce, weight := tset 1 d.weight v w }
  let d' := ((d'.setFl v (Nat.min lf (64 * fl))).setCl cap v (Nat.min lc (64 * ce))).setSpare (Nat.min ls (d'.spareDepth cu))
  let s' := s.setDamper key { d' with pool := Nat.min d'.pool (16 * d'.sumFloor) }
  if cls ≠ 8 then s' else s.keepSpec s' (inst / 32) v

def State.applyBands (s : State) : State := { s.bandq.foldl State.applyBand s with bandq := [] }

/-- DAMPER_REFILL: every Damper refills, once each 62.5 ns of the package time base; monitors of EVENT 5 sample the FLOOR level
of their own virtual device (R103, R345). -/
def execDamperRefill (s : State) : Host.Outcome State Fault Refusal :=
  .next (if s.now * 2 / 225 ≤ s.refills then s
    else
      let s := { s with refills := s.refills + 1 }.applyBands
      let s := s.dampers.foldl (fun s e =>
        let cls := e.1 / 65536
        let inst := e.1 % 65536
        if cls = 9 then s.refillSpec inst
        else s.setDamper e.1 (e.2.refill (dampCap cls inst) (s.usable cls inst))) s
      s.ctxs.foldl (fun s e =>
        match s.ctxRun e.1 with
        | none => s
        | some r =>
          let m := e.2.mon
          if m.event = 5 then s.sample e.1 5 ((s.damper (dampKey m.cls m.num)).fl r.vd / 16) else s) s)

end Sys2Proof.Machine
end

