-- ==== Sys2Proof/Machine/Flags.lean ====
section
/-! DEFINITION. The comparisons, the fitting of exact results, and the flag bits of FFLAGS. -/

namespace Sys2Proof.Machine

/-- The relation a CC code names, on two words of any width (R355). Codes 10-15 do not decode. -/
def cmpCC {w : Nat} (cc : BitVec 4) (a b : BitVec w) : Bool :=
  match cc.toNat with
  | 0 => a == b
  | 1 => a != b
  | 2 => a.slt b
  | 3 => !a.slt b
  | 4 => a.ult b
  | 5 => !a.ult b
  | 6 => a.sle b
  | 7 => !a.sle b
  | 8 => a.ule b
  | _ => !a.ule b

/-- Mode(rm): RM 7 follows FRM (R371). -/
def rmMode (c : Ctx) (rm : BitVec 3) : Nat := if rm = 7 then c.frm.toNat else rm.toNat

/-- An exact value clamped to the signed range of a width. -/
def clampS (w : Nat) (v : Int) : Int := max (-(2 ^ (w - 1) : Int)) (min v (2 ^ (w - 1) - 1))

/-- An exact value clamped to the unsigned range of a width. -/
def clampU (w : Nat) (v : Int) : Int := max 0 (min v (2 ^ w - 1))

/-- Fit(v, rm): saturate under mode 5, else wrap (R371). -/
def fit64 (c : Ctx) (v : Int) (rm : BitVec 3) : Word :=
  BitVec.ofInt 64 (if rmMode c rm = 5 then clampS 64 v else v)

/-- The six flags of FFLAGS (R261). -/
def flNV : BitVec 6 := 0x20
def flDZ : BitVec 6 := 0x10
def flOF : BitVec 6 := 0x08
def flUF : BitVec 6 := 0x04
def flNX : BitVec 6 := 0x02
def flXW : BitVec 6 := 0x01

end Sys2Proof.Machine
end

