-- ==== Sys2Proof/Machine/Operands.lean ====
section
/-! DEFINITION. The operand forms: immediates, scalar bit fields, the lanes of a vector register and of a mask. -/

namespace Sys2Proof.Machine

/-- An immediate read as a number (R352). -/
def sext64 {w : Nat} (b : BitVec w) : Word := b.signExtend 64

/-- Element `j` of `n` bytes of a vector register (R230). -/
def lane (v : Vec) (n j : Nat) : Nat := (v >>> (8 * n * j)).toNat % 2 ^ (8 * n)

/-- Element `j` of `n` bytes read as a signed or an unsigned integer. -/
def laneI (signed : Bool) (v : Vec) (n j : Nat) : Int :=
  let u := lane v n j
  if signed && u ≥ 2 ^ (8 * n - 1) then (u : Int) - 2 ^ (8 * n) else u

/-- Whether a mask governs element `j` of `n` bytes as selected (R230). -/
def maskAt (m : Mask) (n j : Nat) : Bool := m.getLsbD (j * n)

/-- The vector whose elements of `n` bytes are a function of their number: elements 0 to `k` - 1, the rest zero. -/
def packLanes (n : Nat) (f : Nat → Nat) : Nat → Nat
  | 0 => 0
  | k + 1 => packLanes n f k + (f k % 2 ^ (8 * n)) * 2 ^ (8 * n * k)

def mkVec (n : Nat) (f : Nat → Nat) : Vec := BitVec.ofNat 2048 (packLanes n f (256 / n))

/-- The mask whose bits for element `j` of `n` bytes are all `f j` (R402). -/
def mkMask (n : Nat) (f : Nat → Bool) : Mask :=
  BitVec.ofNat 256 ((List.range (256 / n)).foldl (fun a j => if f j then a + (2 ^ n - 1) * 2 ^ (n * j) else a) 0)

/-- Leading zero bits of a 64-bit word. -/
def clz64 (a : Word) : Nat := if a = 0 then 64 else 63 - a.toNat.log2

/-- Trailing zero bits, counted up to `n`. -/
def ctzN : Nat → Nat → Nat
  | 0, _ => 0
  | n + 1, a => if a % 2 = 1 then 0 else 1 + ctzN n (a / 2)

/-- Set bits among the low `n`. -/
def popN : Nat → Nat → Nat
  | 0, _ => 0
  | n + 1, a => a % 2 + popN n (a / 2)

/-- The bytes of a word in the other order. -/
def bswap64 (a : Word) : Word :=
  BitVec.ofNat 64 ((List.range 8).foldl (fun r k => r + bits a.toNat (8 * k) 8 * 2 ^ (8 * (7 - k))) 0)

end Sys2Proof.Machine
end

