-- ==== Sys2Proof/Machine/Memory.lean ====
section
/-! DEFINITION. Core memory and device memory: translation, the tests of an access (17 R424), the L1 and the home L2 slices
(11 R284-R298), and the path of a core's device accesses (12 R304-R310, 17 R428). -/

namespace Sys2Proof.Machine

/-! ## Home slices -/

/-- The die, the home slice and the set of a physical address (R289, R295). -/
def paDie (pa : Nat) : Nat := bits pa 36 2
def homeSlice (pa : Nat) : Nat := (bits pa 9 5 ^^^ bits pa 14 5) ^^^ bits pa 19 2
def l2Set (pa : Nat) : Nat := bits pa 9 8
def sectorOf (pa : Nat) : Nat := bits pa 7 2
/-- The key under which a die keeps the lines of one set of one slice. -/
def l2Key (pa : Nat) : Nat := homeSlice pa * 256 + l2Set pa

/-- The byte a home slice holds for an address: a dirty byte of its line, or DRAM's. -/
def State.devByte (s : State) (pa : Nat) : Byte :=
  match (tget [] (s.die (paDie pa)).l2 (l2Key pa)).find? fun l => l.line == pa / 512 with
  | some l => match l.dirty.find? fun e => e.1 == pa with
    | some e => e.2
    | none => mget s.dram pa
  | none => mget s.dram pa

/-- `n` bytes of device memory from a physical address, little-endian. -/
def State.devLoad (s : State) (pa : Nat) : Nat → Nat
  | 0 => 0
  | n + 1 => (s.devByte pa).toNat + 256 * s.devLoad (pa + 1) n

/-- The ways a virtual device may fill on a die (R112). -/
def State.wayMask (s : State) (vd die : Nat) : BitVec 16 := tget 0xFFFF (s.vd vd).ways die

/-- The way a fill takes: an invalid way first, else the least recently used, lowest on a tie (R295). -/
def pickWay (mask : BitVec 16) (ls : List L2Line) : Nat :=
  let allowed := (List.range 16).filter fun w => mask.getLsbD w
  match allowed.find? fun w => !ls.any fun l => l.way == w with
  | some w => w
  | none =>
    (allowed.foldl (fun (b : Option (Nat × Nat)) w =>
      match ls.find? fun l => l.way == w with
      | none => b
      | some l => match b with
        | none => some (w, l.use)
        | some (_, u) => if l.use < u then some (w, l.use) else b) none).elim 0 (·.1)

/-- The dirty bytes of a line written back to DRAM. -/
def writeBack (dram : Memory) (l : L2Line) : Memory := l.dirty.foldl (fun m e => mset m e.1 e.2) dram

/-- The full-empty bits that a line holds, written back with it (R292). -/
def writeBackFe (sync : Table Bool) (l : L2Line) : Table Bool := l.fe.foldl (fun t e => tset false t e.1 e.2) sync

/-- The sector of an address as an access that reads it marks it: filled. -/
def sectorBit (pa : Nat) (fill : Bool) : BitVec 4 := if fill then 1 <<< sectorOf pa else 0

/-- The line of an address is in its home slice under its owner, and the most recently used: allocated where it is absent, a line
replaced being written back; a virtual device with no way allocates nothing. An access that reads fills the sector, a store leaves it with the
bytes written alone (R112, R295). A line of the address under another owner is written back and leaves (assumption 93). -/
def State.l2Alloc (s : State) (vd pa : Nat) (fill : Bool) : State :=
  let d := s.die (paDie pa)
  let ls := tget [] d.l2 (l2Key pa)
  match ls.find? fun l => l.line == pa / 512 && l.vd == vd with
  | some _ =>
    let ls' := replaceFirst (fun l => l.line == pa / 512)
      (fun l => { l with use := s.now, valid := l.valid ||| sectorBit pa fill }) ls
    s.setDie (paDie pa) { d with l2 := tset [] d.l2 (l2Key pa) ls' }
  | none =>
    let mask := s.wayMask vd (paDie pa)
    let w := pickWay mask ls
    let gone (l : L2Line) : Bool := l.line == pa / 512 || (mask != 0 && l.way == w)
    let s := { s with dram := (ls.filter gone).foldl writeBack s.dram, sync := (ls.filter gone).foldl writeBackFe s.sync }
    let new : List L2Line :=
      if mask = 0 then [] else [{ way := w, line := pa / 512, vd := vd, valid := sectorBit pa fill, dirty := [], fe := [], use := s.now }]
    s.setDie (paDie pa) { d with l2 := tset [] d.l2 (l2Key pa) (new ++ ls.filter fun l => !gone l) }

/-- One byte written at its home slice: the line holds it dirty; a poisoned byte that is written is poisoned no more (R339). -/
def State.devPut (s : State) (pa : Nat) (b : Byte) : State :=
  let d := s.die (paDie pa)
  let s := { s with poison := tset false s.poison pa false }
  match (tget [] d.l2 (l2Key pa)).find? fun l => l.line == pa / 512 with
  | some _ =>
    let ls' := replaceFirst (fun l => l.line == pa / 512) (fun l => { l with dirty := tput l.dirty pa b })
      (tget [] d.l2 (l2Key pa))
    s.setDie (paDie pa) { d with l2 := tset [] d.l2 (l2Key pa) ls' }
  | none => { s with dram := mset s.dram pa b }

/-- Whether a home slice serves a read of an address for a virtual device without its channel: the sector has been filled under that owner, or every
byte of it written (R112, R295). -/
def State.l2Has (s : State) (vd pa : Nat) : Bool :=
  (tget [] (s.die (paDie pa)).l2 (l2Key pa)).any fun l => l.line == pa / 512 && l.vd == vd &&
    (l.valid.getLsbD (sectorOf pa) || (List.range 128).all fun i => l.dirty.any fun e => e.1 == pa / 128 * 128 + i)

/-! ## The Dampers on the path of a sector request (R43, R101, R112, R296) -/

/-- The bridge of a die that joins it directly to another: B0 east or west, B1 north or south, B2 diagonal (R43). -/
def bridgeOf (a b : Nat) : Nat := match a ^^^ b with | 1 => 0 | 2 => 1 | _ => 2

/-- The instance of the channel that holds an address, and of its rail's tap at a column (R101). -/
def chanInst (pa col : Nat) : Nat := paDie pa * 64 + bits pa 35 1 * 32 + col

/-- The keys of the Dampers that a sector request of a die passes: the bridge to a remote slice, the slice's port and, for a read that misses and for
every access of a virtual device that fills no way, the taps of the channel's rail from the slice's column to the channel's, and the channel. -/
def State.tollPath (s : State) (die vd pa : Nat) (reads : Bool) : List Nat :=
  let home := paDie pa
  let a := Nat.min (homeSlice pa) (bits pa 30 5)
  let b := Nat.max (homeSlice pa) (bits pa 30 5)
  let taps := (List.range (b + 1 - a)).map fun i => dampKey 1 (chanInst pa (a + i))
  let misses := s.wayMask vd home == 0 || (reads && !s.l2Has vd pa)
  (if die = home then [] else [dampKey 3 (die * 4 + bridgeOf die home)]) ++ [dampKey 2 (home * 32 + homeSlice pa)] ++
    (if misses then taps ++ [dampKey 0 (chanInst pa (bits pa 30 5))] else [])

/-! ## Writes that arrive in one cycle (R325) -/

/-- The writer key: core, kind and context; an edge unit has kind 1. -/
def writerKey (core kind ctx : Nat) : Nat := core * 16 + kind * 8 + ctx

/-- A write to bytes that a write of a higher key has reached in this cycle comes in a later one, so that the highest key stands. -/
def State.outranked (s : State) (key pa len : Nat) : Bool :=
  s.arrivals.any fun a => key < a.2.2 && a.1 < pa + len && pa < a.1 + a.2.1

def State.recordWrite (s : State) (key pa len : Nat) : State := { s with arrivals := (pa, len, key) :: s.arrivals }

/-- The low `n` bytes of a number written from a physical address. -/
def State.devStore (s : State) (pa : Nat) : Nat → Nat → State
  | 0, _ => s
  | n + 1, w => (s.devPut pa (BitVec.ofNat 8 (w % 256))).devStore (pa + 1) n (w / 256)

/-- A list of bytes written from a physical address. -/
def State.devWrite (s : State) (pa : Nat) : List Byte → State
  | [] => s
  | b :: bs => (s.devPut pa b).devWrite (pa + 1) bs

/-- Whether the 128-byte sector of an address is poisoned (R339). -/
def State.poisoned (s : State) (pa : Nat) : Bool :=
  (List.range 128).any fun i => tget false s.poison (pa / 128 * 128 + i)

/-! ## Translation -/

def Page.holds (p : Page) (vd va : Nat) : Bool := p.vd == vd && p.va ≤ va && va < p.va + p.size

/-- The journal lies at JBASE; above it the object directory and the fault queue, in one area of 4 MiB (R78, R86, R288, R335).
The value of JBASE and the physical place of the areas are the model's (assumption 4). -/
def jbase (vd : Nat) : Nat := 0xFF000000000000 + vd * 0x400000
def dirBase (vd : Nat) : Nat := jbase vd + 0x200000
def fqBase (vd : Nat) : Nat := jbase vd + 0x202000
def reservedLen : Nat := 0x242000
def reservedPa (vd : Nat) : Nat := 0x3FF8000000 + vd * 0x400000

/-- The two read-only pages of the area that Imeus reserves for a virtual device (R86). -/
def resPages (vd : Nat) : List Page :=
  [0, 0x200000].map fun o =>
    { vd := vd, va := jbase vd + o, size := 0x200000, pa := reservedPa vd + o, writable := false, sync := false }

/-- The page tables of a virtual device. -/
def State.pagesOf (s : State) (vd : Nat) : List Page := resPages vd ++ (s.vd vd).pages

/-- The page-table entry of a virtual device for an address (R290). -/
def State.pageOf (s : State) (vd va : Nat) : Option Page := (s.pagesOf vd).find? fun p => p.holds vd va

/-- Where an address of a virtual device stands in physical memory, by the page tables. -/
def State.toPa (s : State) (vd va : Nat) : Option Nat := (s.pageOf vd va).map fun p => p.pa + (va - p.va)

/-- A byte of a virtual device's space by the page tables; none where no page is mapped. -/
def State.vByte (s : State) (vd va : Nat) : Option Byte := (s.toPa vd va).map s.devByte

/-- `n` bytes of a virtual device's space, if every one is mapped. -/
def State.vBytes (s : State) (vd va : Nat) : Nat → Option (List Byte)
  | 0 => some []
  | n + 1 => match s.vByte vd va, s.vBytes vd (va + 1) n with
    | some b, some bs => some (b :: bs)
    | _, _ => none

/-- Bytes written into a virtual device's space at their home slices, where a page is mapped: the line of each sector is allocated as the first of its
bytes is written. -/
def State.vWriteOn (s : State) (vd : Nat) : Bool → Nat → List Byte → State
  | _, _, [] => s
  | new, va, b :: bs =>
    (match s.toPa vd va with
      | some pa => (if new then s.l2Alloc vd pa false else s).devPut pa b
      | none => s).vWriteOn vd ((va + 1) % 128 == 0) (va + 1) bs

/-- A list of bytes written into a virtual device's space by the device itself or by the host. -/
def State.vWrite (s : State) (vd va : Nat) (bs : List Byte) : State := s.vWriteOn vd true va bs

/-- Whether every byte of a range of a virtual device is mapped, and writable where that is asked: looked at page by page. -/
def State.mapped (s : State) (vd va len : Nat) (write : Bool) : Bool :=
  let ps := (s.pagesOf vd).filter fun p => !write || p.writable
  let rec go (fuel a : Nat) : Bool :=
    match fuel with
    | 0 => decide (va + len ≤ a)
    | n + 1 => if va + len ≤ a then true
      else match ps.find? fun p => p.holds vd a with
        | some p => go n (p.va + p.size)
        | none => false
  go (ps.length + 1) va

/-- The outcome of looking an address up in the TLBs (R297). -/
inductive XRes where
  | hit (p : Page)
  | unmapped
  | miss
deriving DecidableEq, Repr

/-- A core's lookup: its L1 TLB, then the die TLB; a miss of both on a mapped page waits for a walk. -/
def State.lookup (s : State) (core vd va : Nat) : XRes :=
  match (s.core core).tlb.find? fun p => p.holds vd va with
  | some p => .hit p
  | none => match (s.die (dieOf core)).tlb.find? fun p => p.holds vd va with
    | some p => .hit p
    | none => if (s.pageOf vd va).isSome then .miss else .unmapped

/-- A core's L1 TLB takes an entry, the most recent first, 64 at most (R297). -/
def State.fillTlb (s : State) (core : Nat) (p : Page) : State :=
  s.modCore core fun k => { k with tlb := (p :: k.tlb.filter fun q => q != p).take 64 }

/-- A walk for a page is under way on a die: concurrent misses wait on one (R297, R298). -/
def State.startWalk (s : State) (die vd va : Nat) : State :=
  match s.pageOf vd va with
  | none => s
  | some p =>
    s.modDie die fun d => if d.walks.any fun w => w.1 == vd && w.2.1 == p.va then d
      else { d with walks := d.walks ++ [(vd, p.va, d.tgen)] }

/-! ## Declared ranges (R21) -/

/-- What an access asks of a range. -/
inductive Want where
  | read
  | write
  | rmw (fn : Nat)
deriving DecidableEq, Repr

/-- Whether a range's kind admits an access: KIND 0 read, 1 write, 2-9 `rmw` add, and, or, xor, min, max, minu, maxu (R132). -/
def kindAdmits (kind : Nat) : Want → Bool
  | .read => kind ≤ 1
  | .write => kind == 1
  | .rmw fn => kind == 1 || (fn ≤ 7 && kind == fn + 2)

/-- Whether one range admits an access (R21). -/
def RangeD.admits (g : RangeD) (c : Ctx) (node : Nat) (w : Want) (a len : Nat) : Bool :=
  g.node == node && g.base ≤ a && a + len ≤ g.base + g.size && kindAdmits g.kind w &&
  (match g.bmode with
   | 1 => !c.arrivedBars.contains g.barid
   | 2 => c.departedBars.contains g.barid
   | _ => true)

def inside (a len base size : Nat) : Bool := base ≤ a && a + len ≤ base + size

/-- A graph has segment kinds (R131 KIND 4). -/
def Graph.hasSegs (g : Graph) : Bool := g.nodes.any fun n => n.kind == 4

/-- The parameter block of a run, and the argument records of its segments (R13, R195). -/
def Run.inArgs (r : Run) (a len : Nat) : Bool :=
  inside a len r.argbase (8 * r.params.length) || (r.graph.hasSegs && inside a len r.poolBase (64 * 1024))

/-- A load or store that no range need admit (R424 test 5). -/
def exempt (r : Run) (a len : Nat) : Bool :=
  r.inArgs a len || inside a len r.codeBase r.codeLen || inside a len r.constBase r.constLen ||
  inside a len (jbase r.vd) reservedLen

/-- The parameter block, which no store writes (R13); argument records, CODE and CONST lie on read-only pages. -/
def writeBarred (r : Run) (a len : Nat) : Bool :=
  a < r.argbase + 8 * r.params.length && r.argbase < a + len

/-! ## Live rings, bank handoffs, stream barriers -/

def ReqKind.isWrite : ReqKind → Bool
  | .load => false
  | .lds clr => clr
  | _ => true

def Ring.bytes (r : Ring) : Nat := (if r.vec then 256 else 8) * 2 ^ r.logn

/-- The live ring whose slots an access to core memory of a core overlaps (R218). -/
def Run.inRing (r : Run) (core a len : Nat) : Option Ring :=
  r.rings.find? fun g => g.core == core && g.base < a + len && a < g.base + g.bytes

/-- The consumer of a handoff waits for the bank's token (R126). -/
def Run.bankWaits (r : Run) (node bank : Nat) : Bool :=
  r.graph.hands.zipIdx.any fun (h, i) => h.cons == node && h.banks.getLsbD bank && !r.bankTok.contains (i, bank)

/-- The producer of a handoff has passed the bank on (R126). -/
def Run.bankGone (r : Run) (node bank fireno : Nat) : Bool :=
  r.graph.hands.any fun h => h.prod == node && h.banks.getLsbD bank && h.fires ≤ fireno

/-- A write of a node of a run has not yet been performed: at its home slice, of a copy it issued, or in the buffer of a segment's stores (R41, R128). -/
def State.writing (s : State) (r : Run) (node : Nat) : Bool :=
  s.cores.any fun (k, c) => r.covers k && ((c.wq.any fun q => q.node == node && q.kind.isWrite) ||
    (c.copies.any fun q => q.run == r.id && q.node == node) || c.sbuf.any fun e => (s.ctx e.cid).role.node == node)

/-- The CODE of a run's object. -/
def State.codeOf (s : State) (r : Run) : List Byte :=
  (((s.vd r.vd).objs.find? fun o => o.handle == r.handle).map (·.code)).getD []

/-- A body holds SPAWN or SPAWNC of a kind (R128, R440). -/
def NodeD.spawns (n : NodeD) (code : List Byte) (kind : Nat) : Bool :=
  (n.kind == 0 || n.kind == 4 || n.kind == 5) && (List.range (n.codeLen / 8)).any fun i =>
    let w := (code.drop (n.codeOff + 8 * i)).take 8
    ((w.getD 1 0).toNat == 0x48 || (w.getD 1 0).toNat == 0x4A) && leNat ((w.drop 4).take 2) == kind

/-- The tokens of a channel, from the oldest on: those in its buffer, those behind the marker of a cut, and those on their way. -/
def Chan.tokens (c : Chan) : List Token := c.buf ++ c.late ++ c.fly.filterMap (·.tok)

/-- A decider is TRUE when bit 0 of its scalar is 1 (R146). -/
def Token.isTrue : Token → Bool
  | .scalar w => w.getLsbD 0
  | .vec v => v.getLsbD 0
  | .chunk _ p => p.getLsbD 0

/-- Whether a router operator has, at hand or on their way, every token that its next action consumes (R147-R150): `first` gives the oldest token for a
port. -/
def routerFed (n : NodeD) (st : NodeS) (first : Nat → Option Token) : Bool :=
  let decided (t f : Bool) : Bool := match first 0 with | some d => if d.isTrue then t else f | none => false
  match n.rkind with
  | 0 => (first 0).isSome && (first 1).isSome
  | 1 => decided (first 1).isSome (first 2).isSome
  | 2 => if st.run then decided (first 2).isSome true else (first 1).isSome
  | 3 => if st.held.isSome then (first 0).isSome else (first 1).isSome
  | _ => if st.run then (n.ports.filter fun p => 1 ≤ p.port && p.port ≤ 15).all fun p => (first p.port).isSome else (first 0).isSome

/-- X has finished (R128), with fuel for the chain of producers. A node that a cycle of channels feeds is not found
finished. -/
def State.finished (s : State) (r : Run) : Nat → Nat → Bool
  | 0, _ => false
  | fuel + 1, x =>
    match r.node x with
    | none => true
    | some n =>
      if n.phase < r.phase then true
      else match n.kind with
      | 2 => (r.nodeS x).done
      | 3 => (r.nodeS x).done
      | 4 =>
        !(r.segs.any fun g => g.kind == x) && !(s.writing r x) &&
        (List.range r.graph.nodes.length).all fun y => match r.node y with
          | some m => y == x || !(m.spawns (s.codeOf r) x) || s.finished r fuel y
          | none => true
      | _ =>
        let ins := r.graph.chans.zipIdx.filter fun (c, _) => c.cnode == x && !c.barrier && !c.selector
        let busy := match r.placeOf x with
          | some (.ctx cid) => (s.ctx cid).running
          | _ => false
        let short (c : ChanD) (i : Nat) : Bool :=
          match n.ports.find? fun p => p.port == c.cport with
          | some p => (r.chan i).tokens.length < p.count
          | none => false
        let first (port : Nat) : Option Token := (ins.find? fun (c, _) => c.cport == port).bind fun (_, i) => (r.chan i).tokens.head?
        let ended := if n.kind = 1 then !(routerFed n (r.nodeS x) first) else ins.any fun (c, i) => short c i
        !busy && !(s.writing r x) && !ins.isEmpty && ended && ins.all fun (c, _) => s.finished r fuel c.pnode

/-- A node's first access is held by a stream-barrier edge whose source has not finished (R128). -/
def State.barred (s : State) (r : Run) (node : Nat) : Bool :=
  r.graph.chans.any fun c => c.barrier && c.cnode == node && !s.finished r (r.graph.nodes.length + 1) c.pnode

/-- A node that a stream-barrier edge holds: what it reads comes from the home slice, after every access of the edge's source (R309). -/
def Run.ordered (r : Run) (node : Nat) : Bool := r.graph.chans.any fun c => c.barrier && c.cnode == node

/-! ## Copies in flight against a context's own accesses (R251) -/

def shBase (b : ShapeBits) : Nat := bits b.toNat 0 64
def shExt (b : ShapeBits) (k : Nat) : Nat := bits b.toNat (64 + 32 * k) 25
def shStr (b : ShapeBits) (k : Nat) : Int := (BitVec.ofNat 64 (bits b.toNat (192 + 64 * k) 64)).toInt
def shElog (b : ShapeBits) : Nat := bits b.toNat 448 2
def shTyValid (b : ShapeBits) : Bool := bitAt b.toNat 463
def shTy (b : ShapeBits) : Nat := bits b.toNat 456 4
def shPortDim (b : ShapeBits) : Nat := bits b.toNat 464 8
def shIndex (b : ShapeBits) : Nat := bits b.toNat 472 8
def shElem (b : ShapeBits) : Nat := 2 ^ shElog b
def shCount (b : ShapeBits) : Nat := shExt b 0 * shExt b 1 * shExt b 2 * shExt b 3

/-- The lowest and the highest offset, in elements, of the traversal of dimensions `ks`. -/
def dimSpan (b : ShapeBits) : List Nat → Int × Int
  | [] => (0, 0)
  | k :: ks =>
    let d := shStr b k * ((shExt b k : Int) - 1)
    ((dimSpan b ks).1 + min 0 d, (dimSpan b ks).2 + max 0 d)

/-- The row number of the indexed dimension (R446): an I64 index if TYPE is valid with code 6, else I32. -/
def rowIdx (b : ShapeBits) (idx : Vec) (i : Nat) : Int :=
  if shTyValid b && shTy b == 6 then laneI true idx 8 i else laneI true idx 4 i

/-- The byte intervals a shape's traversal touches: one for an affine shape, one a row for an indexed one. -/
def spans (b : ShapeBits) (off : Nat) (idx : Option Vec) : List (Int × Int) :=
  let e : Int := shElem b
  let at0 := ((shBase b + off) % 2 ^ 64 : Nat)
  match idx with
  | none =>
    let d := dimSpan b [0, 1, 2, 3]
    [((at0 : Int) + e * d.1, (at0 : Int) + e * d.2 + e)]
  | some v => (List.range (shExt b 1)).map fun i =>
    let d := dimSpan b [0]
    let r := rowIdx b v i * shStr b 1
    ((at0 : Int) + e * (d.1 + r), (at0 : Int) + e * (d.2 + r) + e)

def Copy.srcSpans (c : Copy) : List (Int × Int) := spans c.src c.soff (if c.mode == 1 then some c.idx else none)
def Copy.dstSpans (c : Copy) : List (Int × Int) := spans c.dst c.doff (if c.mode == 2 then some c.idx else none)

/-- The grain at which overlap is judged in a space: a device sector, a bank, a Mantel slot, a tile slot (R251). -/
def grain (space : Nat) : Int := match space with | 0 => 128 | 1 => 32768 | 2 => 2048 | _ => 4096

/-- Two intervals meet at a space's grain. -/
def meets (space : Nat) (a b : Int × Int) : Bool :=
  a.1 / grain space ≤ (b.2 - 1) / grain space && b.1 / grain space ≤ (a.2 - 1) / grain space

def anyMeet (space : Nat) (as bs : List (Int × Int)) : Bool := as.any fun a => bs.any fun b => meets space a b

/-- The tags of a context's own copies in flight of which an access touches a bank, slot or sector (R251, assumption 13). -/
def State.interlocks (s : State) (cid space : Nat) (xs : List (Int × Int)) : List Nat :=
  ((s.core (coreOf cid)).copies.filter fun c => c.cid == cid &&
    ((c.dsp == space && anyMeet space c.dstSpans xs) || (c.ssp == space && anyMeet space c.srcSpans xs))).map (·.tag)

/-- An access touches a bank, slot or sector of a copy in flight of its context. -/
def State.interlocked (s : State) (cid space : Nat) (xs : List (Int × Int)) : Bool := !(s.interlocks cid space xs).isEmpty

/-- The park of such an access, which ends with those copies. -/
def State.interlockPark (s : State) (cid space : Nat) (xs : List (Int × Int)) : Park :=
  { Park.of .interlock with l := s.interlocks cid space xs }

/-! ## The tests of an access (R424) -/

/-- The outcome of the tests: the physical address of each element, or what the word meets. -/
inductive Chk where
  | ok (s : State) (pas : List Nat)
  | bad (e : Eff)

/-- An element of an access: its address, its length, and the byte of the register it fills or gives. -/
structure AElt where
  ea : Nat
  len : Nat
  off : Nat
deriving DecidableEq, Repr

/-- The tests of one element of a core-memory access: 1, 2 and 7, and the handoff of its bank, RANGE before test 7 and the wait after it (R126, R424,
assumption 91). -/
def chkCore (s : State) (cid : Nat) (r : Run) (fe noRing : Bool) (sz : Nat) (e : AElt) : Option Eff :=
  let c := s.ctx cid
  if e.ea ≥ 0x80000 then some (.trap 0x06 0 e.ea)
  else if e.ea % e.len ≠ 0 then some (.trap 0x04 0 e.ea)
  else if fe && !(sz == 2 || sz == 3) then some (.trap 0x04 0 e.ea)
  else if r.bankGone c.role.node (e.ea / 0x8000) c.fireno.toNat && c.role.isOp then some (.trap 0x07 0 e.ea)
  else if noRing && (r.inRing (coreOf cid) e.ea e.len).isSome then
    some (.trap 0x0D (((r.inRing (coreOf cid) e.ea e.len).map (·.id)).getD 0) e.ea)
  else if r.bankWaits c.role.node (e.ea / 0x8000) then some (.park s { Park.of .bank with a := e.ea / 0x8000 })
  else none

/-- The tests of one element of a device access: 1 to 6. -/
def chkDev (s : State) (cid : Nat) (r : Run) (w : Want) (fe : Bool) (sz : Nat) (e : AElt) : Chk :=
  let c := s.ctx cid
  if e.ea ≥ 2 ^ 56 then .bad (.trap 0x05 0 e.ea)
  else if e.ea % e.len ≠ 0 then .bad (.trap 0x04 0 e.ea)
  else match s.lookup (coreOf cid) r.vd e.ea with
  | .unmapped => .bad (.trap 0x05 0 e.ea)
  | .miss => .bad (.hold (s.startWalk (dieOf (coreOf cid)) r.vd e.ea))
  | .hit p =>
    if w != .read && (!p.writable || writeBarred r e.ea e.len) then .bad (.trap 0x06 0 e.ea)
    else if !(w == .read && exempt r e.ea e.len) &&
        !(r.graph.ranges.any fun g => g.admits c c.role.node w e.ea e.len) then .bad (.trap 0x07 0 e.ea)
    else if fe && !p.sync then .bad (.trap 0x06 0 e.ea)
    else if fe && sz != 3 then .bad (.trap 0x04 0 e.ea)
    else .ok (s.fillTlb (coreOf cid) p) [p.pa + (e.ea - p.va)]

/-- The tests of every element in element order; the first that fails decides. -/
def chkDevAll (s : State) (cid : Nat) (r : Run) (w : Want) (fe : Bool) (sz : Nat) : List AElt → Chk
  | [] => .ok s []
  | e :: es =>
    match chkDev s cid r w fe sz e with
    | .bad x => .bad x
    | .ok s' pas => match chkDevAll s' cid r w fe sz es with
      | .bad x => .bad x
      | .ok s'' rest => .ok s'' (pas ++ rest)

/-- The tests of a core-memory access; a bank taken in this cycle makes the word wait one cycle (R284). -/
def chkCoreAll (s : State) (cid : Nat) (r : Run) (fe noRing : Bool) (sz : Nat) (es : List AElt) : Option Eff :=
  match es.findSome? fun e => chkCore s cid r fe noRing sz e with
  | some x => some x
  | none =>
    let xs : List (Int × Int) := es.map fun e => ((e.ea : Int), (e.ea + e.len : Int))
    if s.interlocked cid 1 xs then some (.park s (s.interlockPark cid 1 xs))
    else if es.any fun e => (s.core (coreOf cid)).banksBusy.contains (e.ea / 0x8000) then some (.hold s)
    else none

/-- The nodes that have used a bank, the first eight and the owner first (R175). -/
def addSharer (l : List Nat) (n : Nat) : List Nat := if l.contains n then l else l ++ [n]

/-- A node has accessed a bank of a core, which is taken for the rest of the cycle (R175, R284). -/
def State.touchBank (s : State) (core bank node : Nat) : State :=
  s.modCore core fun k =>
    { k with bankSharers := tset [] k.bankSharers bank (addSharer (tget [] k.bankSharers bank) node), banksBusy := addSharer k.banksBusy bank }

def State.touchBanks (s : State) (cid : Nat) (es : List AElt) : State :=
  s.modCore (coreOf cid) fun k =>
    { k with bankSharers := es.foldl (fun t e =>
        tset [] t (e.ea / 0x8000) (addSharer (tget [] t (e.ea / 0x8000)) (s.ctx cid).role.node)) k.bankSharers
             banksBusy := es.foldl (fun l e => addSharer l (e.ea / 0x8000)) k.banksBusy }

/-! ## The L1 (R253, R293, R294) -/

/-- Whether the four cores of a core's quad act as one L1 (R253). -/
def State.fused (s : State) (core : Nat) : Bool :=
  let q := quadOf core
  s.runs.any fun r => r.graph.fuse && r.die == dieOf core && r.col ≤ colOf q && colOf q + 1 < r.col + r.width && r.standing &&
    [q, q + 1, q + 33, q + 32].all fun k => !(s.die (dieOf core)).unsound.contains (.core k)

/-- The core whose L1 holds a line: the member that bits [10:9] name in a fused quad (R253). -/
def State.l1Of (s : State) (core pa : Nat) : Nat :=
  if s.fused core then
    match bits pa 9 2 with
    | 0 => quadOf core
    | 1 => quadOf core + 1
    | 2 => quadOf core + 33
    | _ => quadOf core + 32
  else core

def l1Set (fused : Bool) (line : Nat) : Nat := if fused then bits (line * 512) 11 7 else bits (line * 512) 9 5

/-- The sector of the L1 that serves a core for an address, if present. -/
def State.l1Get (s : State) (core pa : Nat) : Option (BitVec 1024) :=
  match (s.core (s.l1Of core pa)).l1.find? fun l => l.line == pa / 512 with
  | some l => if l.present.getLsbD (sectorOf pa) then some (tget 0 l.secs (sectorOf pa)) else none
  | none => none

/-- The cores whose L1s act as one with a core's: its quad's when it is fused (R253). -/
def State.l1Members (s : State) (core : Nat) : List Nat :=
  if s.fused core then [quadOf core, quadOf core + 1, quadOf core + 33, quadOf core + 32] else [core]

/-- The line that a fill of an absent line replaces: none while a way of its set is free, else the least recently used of the set's four, with the core
that holds it (R253, R293). -/
def State.l1Victim (s : State) (core line : Nat) : Option (Nat × Nat) :=
  let f := s.fused core
  let same := (s.l1Members core).flatMap fun k => ((s.core k).l1.filter fun x => l1Set f x.line == l1Set f line).map fun x => (k, x)
  if same.length < 4 || same.any (fun e => e.2.line == line) then none
  else (same.foldl (fun (m : Option (Nat × L1Line)) e => match m with
    | none => some e
    | some b => if b.2.use ≤ e.2.use then some b else some e) none).map fun e => (e.1, e.2.line)

/-- The L1 takes a sector: an invalid way first, else the least recently used line of the set is replaced (R293). -/
def State.l1Fill (s : State) (core pa : Nat) (d : BitVec 1024) : State :=
  let line := pa / 512
  let s := match s.l1Victim core line with
    | some (k, v) => s.modCore k fun c => { c with l1 := c.l1.filter fun x => x.line != v }
    | none => s
  s.modCore (s.l1Of core pa) fun k =>
    let l : L1Line := (k.l1.find? fun l => l.line == line).getD { line := line, secs := [], present := 0, use := 0 }
    { k with l1 := { l with secs := tset 0 l.secs (sectorOf pa) d, present := l.present ||| (1 <<< sectorOf pa), use := s.now } ::
                     k.l1.filter fun x => x.line != line }

/-- A line of the L1 is used. -/
def State.l1Use (s : State) (core pa : Nat) : State :=
  s.modCore (s.l1Of core pa) fun k => { k with l1 := replaceFirst (fun l => l.line == pa / 512) (fun l => { l with use := s.now }) k.l1 }

/-- A byte of the L1 is updated where its sector is present. -/
def State.l1Put (s : State) (core pa : Nat) (b : Byte) : State :=
  match s.l1Get core pa with
  | none => s
  | some d =>
    let i := 8 * (pa % 128)
    let d' := (d &&& ~~~(0xFF#1024 <<< i)) ||| (b.setWidth 1024 <<< i)
    let upd (l : L1Line) : L1Line := { l with secs := tset 0 l.secs (sectorOf pa) d', use := s.now }
    s.modCore (s.l1Of core pa) fun k => { k with l1 := replaceFirst (fun l => l.line == pa / 512) upd k.l1 }

def State.l1Store (s : State) (core pa : Nat) : Nat → Nat → State
  | 0, _ => s
  | n + 1, w => (s.l1Put core pa (BitVec.ofNat 8 (w % 256))).l1Store core (pa + 1) n (w / 256)

/-- The L1's copy of one sector is invalidated; a line without sectors leaves its way. -/
def State.l1Drop (s : State) (core pa : Nat) : State :=
  let upd (l : L1Line) : L1Line :=
    { l with present := l.present &&& ~~~(1 <<< sectorOf pa : BitVec 4), secs := tdel l.secs (sectorOf pa) }
  s.modCore (s.l1Of core pa) fun k => { k with l1 := (replaceFirst (fun l => l.line == pa / 512) upd k.l1).filter fun l => l.present != 0 }

/-- Every line of the L1 that serves a core is invalidated. -/
def State.l1Flush (s : State) (core : Nat) : State :=
  (s.l1Members core).foldl (fun s k => s.modCore k fun c => { c with l1 := [] }) s

/-- An acquire at a scope reaches past the L1: quad or wider on an unfused core, die or wider on a fused quad (R294, R307). -/
def State.acqWide (s : State) (core scope : Nat) : Bool := if s.fused core then scope ≥ 3 else scope ≥ 2

/-! ## The path of a core's device accesses -/

/-- The units of an element: aligned runs of at most 8 bytes (R305). -/
def unitsOf (e : AElt) (pa : Nat) : List Elt :=
  if e.len ≤ 8 then [{ va := e.ea, pa := pa, len := e.len, off := e.off }]
  else (List.range (e.len / 8)).map fun i => { va := e.ea + 8 * i, pa := pa + 8 * i, len := 8, off := e.off + 8 * i }

def unitsAll : List AElt → List Nat → List Elt
  | e :: es, p :: ps => unitsOf e p ++ unitsAll es ps
  | _, _ => []

/-- Two units share a byte. -/
def Elt.overlaps (a b : Elt) : Bool := a.pa < b.pa + b.len && b.pa < a.pa + a.len

/-- The bytes of pending stores laid over a sector, oldest first: what a context's own loads see of its writes (R294). -/
def overlay (wq : List Req) (pa128 : Nat) (d : BitVec 1024) : BitVec 1024 :=
  wq.foldl (fun d r => if r.kind == .store then
    r.todo.foldl (fun d e => if e.pa / 128 * 128 == pa128 then
      let i := 8 * (e.pa % 128)
      let m : BitVec 1024 := BitVec.ofNat 1024 (2 ^ (8 * e.len) - 1)
      (d &&& ~~~(m <<< i)) ||| (BitVec.ofNat 1024 (r.data / 2 ^ (8 * e.off) % 2 ^ (8 * e.len)) <<< i) else d) d else d) d

/-- A device access enters its core's path under a number (R428). -/
def State.postAs (s : State) (core id : Nat) (r : Req) : State :=
  s.modCore core fun k => { k with wq := k.wq ++ [{ r with id := id, since := s.cycle core, stood := s.now }] }

/-- A device access enters its core's path. -/
def State.post (s : State) (core : Nat) (r : Req) : State := { s.postAs core s.order r with order := s.order + 1 }

/-- The units of an access that lie in the aligned 8 bytes of its next one, performed together (R305), and the others. -/
def Req.group (r : Req) : List Elt × List Elt :=
  match r.todo with
  | [] => ([], [])
  | e :: _ => (r.todo.filter fun u => u.pa / 8 == e.pa / 8, r.todo.filter fun u => u.pa / 8 != e.pa / 8)

/-- The numbers of the writes that a segment's accesses come after: those that its spawner had open at the spawn (R309). -/
def State.afterOf (s : State) (cid : Nat) : List Nat :=
  if (s.ctx cid).role.isSeg then (((s.ctxRun cid).bind fun r => r.segs.find? fun g => g.cid == some cid).map (·.after)).getD [] else []

/-- Some write among the given ones has not been performed, and is one of those that `inPath` or, still buffered, `inBuf` picks. -/
def State.stillOpen (s : State) (ids : List Nat) (inPath : Req → Bool) (inBuf : Nat → SpecEff → Bool) : Bool :=
  !ids.isEmpty && s.cores.any fun (n, k) =>
    (k.wq.any fun q => ids.contains q.id && inPath q) || k.sbuf.any fun e => ids.contains e.id && inBuf n e.eff

/-- A write that a segment's spawner made before the spawn has not been performed (R309). -/
def State.spawnOpen (s : State) (cid : Nat) : Bool := s.stillOpen (s.afterOf cid) (fun _ => true) (fun _ _ => true)

/-- What a context's later accesses wait for: an acquire of its own that has not been performed (R307). -/
def State.acquiring (s : State) (cid : Nat) : Bool := (s.core (coreOf cid)).wq.any fun q => q.cid == cid && q.acq

/-- A buffered store to core memory and a list of stores meet in a byte. -/
def SpecEff.meets (e : SpecEff) (ws : List (Nat × Nat × Nat)) : Bool :=
  match e with
  | .core us _ _ _ => us.any fun u => ws.any fun w => u.1 < w.1 + w.2.1 && w.1 < u.1 + u.2.1
  | _ => false

/-- Bytes of its core's memory that a segment reaches are still to be written by its spawner (R309). -/
def State.behindCore (s : State) (cid : Nat) (ws : List (Nat × Nat × Nat)) : Bool :=
  s.stillOpen (s.afterOf cid) (fun _ => false) fun n e => n == coreOf cid && e.meets ws

/-- An item of its spawner is still to come into a ring that a segment reaches (R309). -/
def State.behindRing (s : State) (cid ring : Nat) : Bool :=
  s.stillOpen (s.afterOf cid) (fun _ => false) fun _ e => match e with | .rpush g _ => g == ring | _ => false

/-- A device access comes after a write of its segment's spawner that has not been performed: any of them where it is a release, else one to a byte of
its next units (R309). -/
def State.behindSpawner (s : State) (r : Req) : Bool :=
  let meets (q : Req) : Bool := r.rel || q.todo.any fun f => r.group.1.any fun e => f.overlaps e
  s.stillOpen r.after meets fun _ e => match e with
    | .device q => meets q
    | _ => r.rel

def ReqKind.isLds : ReqKind → Bool
  | .lds _ => true
  | _ => false

/-- An access may be performed at its home slice now: no earlier write of its core to a byte of its next units is under way, and a
release waits for every earlier write of its context. An LDS that waits for its word holds no other access (R294, R307, R428-R430). -/
def reqReady (wq : List Req) (n : Nat) : Bool :=
  match wq[n]? with
  | none => false
  | some r =>
    !r.todo.isEmpty && (wq.take n).all fun q =>
      q.kind.isLds || !(q.kind.isWrite || r.kind.isWrite) || !(r.group.1.any fun e => q.todo.any fun f => f.overlaps e) &&
      !(r.rel && q.cid == r.cid && q.kind.isWrite)

/-- The new value of an atomic and whether it writes (R433): functions 0-10 in opcode order. -/
def atomicNew (fn w old v cmp : Nat) : Option Nat :=
  let sg := fun (x : Nat) => (if x ≥ 2 ^ (w - 1) then (x : Int) - 2 ^ w else (x : Int))
  match fn with
  | 0 => some ((old + v) % 2 ^ w)
  | 1 => some (old &&& v)
  | 2 => some (old ||| v)
  | 3 => some (old ^^^ v)
  | 4 => some (if sg old < sg v then old else v)
  | 5 => some (if sg old < sg v then v else old)
  | 6 => some (min old v)
  | 7 => some (max old v)
  | 8 => some v
  | 9 => if old = cmp % 2 ^ w then some v else none
  | _ => some (old ||| 2 ^ (cmp % w))

/-- The value an atomic returns: ATAS the bit, the others the old value (R433). -/
def atomicOld (fn w old cmp : Nat) : Nat := if fn = 10 then old / 2 ^ (cmp % w) % 2 else old

/-- Whether the 64-bit word of a SYNC page is FULL (R292). -/
def State.syncFull (s : State) (pa : Nat) : Bool :=
  match (tget [] (s.die (paDie pa)).l2 (l2Key pa)).find? fun l => l.line == pa / 512 with
  | some l => (match l.fe.find? fun e => e.1 == pa / 8 with
    | some e => e.2
    | none => tget false s.sync (pa / 8))
  | none => tget false s.sync (pa / 8)

/-- The full-empty bit of a word is written: beside its sector in the L2, or in DRAM where no line is held (R292). -/
def State.setSync (s : State) (pa : Nat) (b : Bool) : State :=
  let d := s.die (paDie pa)
  match (tget [] d.l2 (l2Key pa)).find? fun l => l.line == pa / 512 with
  | some _ =>
    let ls' := replaceFirst (fun l => l.line == pa / 512) (fun l => { l with fe := tput l.fe (pa / 8) b }) (tget [] d.l2 (l2Key pa))
    s.setDie (paDie pa) { d with l2 := tset [] d.l2 (l2Key pa) ls' }
  | none => { s with sync := tset false s.sync (pa / 8) b }

/-- An access that has been performed leaves the path; its result is staged (R229), 0 in place of an old value that a
shared `rmw` range keeps (R324), and a wide acquire drops the L1 (R294). -/
def State.retire (s : State) (core : Nat) (r : Req) : State :=
  let s := s.modCore core fun k => { k with wq := k.wq.filter fun q => q.id != r.id }
  let s := if r.inval then s.l1Flush core else s
  match r.dst with
  | none => s
  | some (f, d) =>
    let v := if r.shared then 0 else (BitVec.ofNat 2048 r.acc &&& ~~~r.ovMask) ||| r.ovData
    let w : RegWrite := { file := f, reg := d, val := v }
    s.modCtx r.cid fun c => if r.kind == .load then c.stageLoad w r.since else c.stage [w] 0

/-- The value that an access gives one of its units. -/
def Req.valAt (r : Req) (e : Elt) : Nat := r.data / 2 ^ (8 * e.off) % 2 ^ (8 * e.len)

/-- A request whose next unit lies in another sector passes the Dampers anew. -/
def Req.goOn (r : Req) (rest : List Elt) (acc now : Nat) : Req :=
  if (r.todo.head?.map fun e => e.pa / 128) = rest.head?.map fun e => e.pa / 128 then { r with todo := rest, acc := acc }
  else { r with todo := rest, acc := acc, paid := 0, stood := now }

/-- The next aligned unit of an access performed at its home slice, indivisibly (R292, R293, R295, R305, R429, R433). -/
def State.performUnit (s : State) (core : Nat) (r : Req) : State :=
  let (us, rest) := r.group
  match us with
  | [] => s
  | e :: _ =>
    let s := s.l2Alloc r.vd e.pa (r.kind != .store)
    let fin (s : State) (acc : Nat) : State :=
      if rest.isEmpty then s.retire core { r with acc := acc }
      else s.modCore core fun k => { k with wq := replaceFirst (fun q => q.id == r.id) (fun q => q.goOn rest acc s.now) k.wq }
    match r.kind with
    | .load =>
      let acc := us.foldl (fun a u => a + s.devLoad u.pa u.len * 2 ^ (8 * u.off)) r.acc
      fin (if r.home then s else s.l1Fill core e.pa (BitVec.ofNat 1024 (s.devLoad (e.pa / 128 * 128) 128))) acc
    | .store => fin (us.foldl (fun s u => (s.devStore u.pa u.len (r.valAt u)).l1Store core u.pa u.len (r.valAt u)) s) 0
    | .atomic fn =>
      let old := s.devLoad e.pa e.len
      let s := match atomicNew fn (8 * e.len) old (r.valAt e) r.cmpv with
        | some n => s.devStore e.pa e.len n
        | none => s
      fin (s.l1Drop core e.pa) (atomicOld fn (8 * e.len) old r.cmpv)
    | .lds clr =>
      if s.syncFull e.pa then
        let v := s.devLoad e.pa e.len
        fin ((if clr then s.setSync e.pa false else s).l1Drop core e.pa) v
      else s
    | .stf => fin (((s.devStore e.pa e.len (r.valAt e)).setSync e.pa true).l1Drop core e.pa) 0
    | .feset => fin ((s.setSync e.pa true).l1Drop core e.pa) 0
    | .feclr => fin ((s.setSync e.pa false).l1Drop core e.pa) 0

/-- An access writes bytes. -/
def ReqKind.writesBytes : ReqKind → Bool
  | .store => true
  | .atomic _ => true
  | .stf => true
  | _ => false

/-- The key of a core's write. -/
def Req.key (r : Req) : Nat := writerKey (coreOf r.cid) 0 (ctxOf r.cid)

/-- The next unit of an access arrives at its home slice; a write is outranked by one of a higher key that came in this cycle (R325). -/
def State.arriveUnit (s : State) (core : Nat) (r : Req) : State :=
  if r.kind.writesBytes then
    if r.group.1.any fun u => s.outranked r.key u.pa u.len then s
    else (r.group.1.foldl (fun s u => s.recordWrite r.key u.pa u.len) s).performUnit core r
  else s.performUnit core r

/-- The next Damper that a request of a core's path has still to pass (R101, R296). -/
def State.toll (s : State) (core : Nat) (r : Req) : Option Nat :=
  match r.todo with
  | [] => none
  | e :: _ => (s.tollPath (dieOf core) r.vd e.pa (r.kind != .store))[r.paid]?

/-- An LDS waits behind every LDS that reached its word before it (R429). -/
def State.ldsFirst (s : State) (r : Req) (e : Elt) : Bool :=
  (s.cores.all fun (_, k) => k.wq.all fun q =>
    match q.kind, q.todo.head? with
    | .lds _, some f => !(f.pa == e.pa && q.id < r.id)
    | _, _ => true)

/-- A release waits for an earlier write of its context to core memory, which itself waits behind a release (R428). -/
def Core.relHeld (k : Core) (r : Req) : Bool := r.rel && k.sbuf.any fun e => e.cid == r.cid && e.posted && e.id < r.id

/-- Whether the `n`th access of a core's path can be performed now. -/
def State.canPerform (s : State) (core n : Nat) : Bool :=
  let wq := (s.core core).wq
  reqReady wq n && (match wq[n]?.bind fun r => r.todo.head?.map fun e => (r, e) with
    | some (r, e) => !(s.core core).relHeld r && !(s.behindSpawner r) && (match r.kind with
      | .lds _ => s.syncFull e.pa && s.ldsFirst r e
      | _ => true)
    | none => false)

end Sys2Proof.Machine
end

