-- ==== Sys2Proof/Machine/MemOps.lean ====
section
/-! DEFINITION. The memory words: loads, stores, vector and full-empty accesses, FENCE, DRAIN, the atomics, SHLD and SHST
(17 R423-R434, R443). -/

namespace Sys2Proof.Machine

/-! ## The speculative store buffer (R212, R213) -/

def State.ownEntries (s : State) (cid : Nat) : List SpecEntry := (s.core (coreOf cid)).sbuf.filter fun e => e.cid == cid

/-- Buffered effects of a context still drain (R213). -/
def State.draining (s : State) (cid : Nat) : Bool := (s.ownEntries cid).any fun e => !e.posted

/-- A store-like effect is buffered: in an uncertain segment, and behind effects that still drain (R212, R213). -/
def State.buffers (s : State) (cid : Nat) : Bool := (s.ctx cid).uncertain || s.draining cid

/-- An item that a context pushed into a ring of another core travels to it. -/
def State.ringTravels (s : State) (cid : Nat) : Bool := (s.ctxRun cid).any fun r => r.rings.any fun g => g.arriving.any fun x => x.1 == cid

/-- Effects of a context have not all taken place (R201, R213). -/
def State.undrained (s : State) (cid : Nat) : Bool := !(s.ownEntries cid).isEmpty || s.ringTravels cid

/-- An effect of the word that issues joins the buffer of its core. -/
def State.addEntry (s : State) (cid bytes : Nat) (e : SpecEff) (posted : Bool) : State :=
  { (s.modCore (coreOf cid) fun k =>
      { k with sbuf := k.sbuf ++ [{ cid := cid, bytes := bytes, eff := e, word := s.ir, pc := (s.ctx cid).pc, posted := posted, id := s.order, bad := none }] }) with
    order := s.order + 1 }

/-- A buffered effect joins the buffer, or its context parks for want of room (R212). -/
def State.bufferEff (s : State) (cid bytes : Nat) (e : SpecEff) : Eff :=
  if ((s.core (coreOf cid)).sbuf.map (·.bytes)).sum + bytes > 4096 then .park s { Park.of .spec with a := 1, b := bytes }
  else .next (s.addEntry cid bytes e false)

/-- A store to core memory of a certain context that is a release, or stands behind one of its own: it waits in the core's write path, and its context
goes on (R428). -/
def State.postEff (s : State) (cid : Nat) (e : SpecEff) : State := s.addEntry cid 0 e true

/-- The bytes of a load that its context's buffered stores supply, the youngest of each byte: a mask and their values. -/
def overlayBuf (es : List SpecEntry) (sp : Bool) (els : List Elt) : Vec × Vec :=
  let one (acc : Vec × Vec) (a len data : Nat) : Vec × Vec :=
    els.foldl (fun acc e =>
      (List.range e.len).foldl (fun acc i =>
        if a ≤ e.pa + i && e.pa + i < a + len then
          let sh := 8 * (e.off + i)
          let b := bits data (8 * (e.pa + i - a)) 8
          (acc.1 ||| (0xFF#2048 <<< sh), (acc.2 &&& ~~~(0xFF#2048 <<< sh)) ||| (BitVec.ofNat 2048 b <<< sh))
        else acc) acc) acc
  es.foldl (fun acc e =>
    match e.eff with
    | .device r => if sp && (r.kind == .store || r.kind == .stf) then
        r.todo.foldl (fun acc u => one acc u.pa u.len (r.data / 2 ^ (8 * u.off))) acc else acc
    | .core ws true _ _ => if sp then acc else ws.foldl (fun acc w => one acc w.1 w.2.1 w.2.2) acc
    | _ => acc) (0, 0)

/-! ## Core memory -/

/-- The bytes of a core-memory access gathered at their offsets. -/
def coreGather (m : Memory) (es : List AElt) : Nat := es.foldl (fun a e => a + mload m e.ea e.len * 2 ^ (8 * e.off)) 0

/-- A list of (address, length, value) stored to a core's memory in element order (R428). -/
def coreScatter (m : Memory) (ws : List (Nat × Nat × Nat)) : Memory := ws.foldl (fun m w => mstore m w.1 w.2.1 w.2.2) m

/-- The full-empty bits of the 32-bit words of an access are set (R285). -/
def setFe (fe : Table Bool) (ws : List (Nat × Nat × Nat)) (b : Bool) : Table Bool :=
  ws.foldl (fun f w => (List.range (w.2.1 / 4)).foldl (fun f i => tset false f (w.1 / 4 + i) b) f) fe

/-- Whether every bit a full-empty access covers is FULL (R285). -/
def feFull (fe : Table Bool) (ea len : Nat) : Bool := (List.range (len / 4)).all fun i => tget false fe (ea / 4 + i)

/-- The effect of a store-like access on core memory. -/
def State.applyCore (s : State) (core : Nat) (ws : List (Nat × Nat × Nat)) (write : Bool) (fe : Option Bool) : State :=
  s.modCore core fun k =>
    { k with mem := if write then coreScatter k.mem ws else k.mem
             fe := match fe with | some b => setFe k.fe ws b | none => k.fe }

def storesOf (es : List AElt) (data : Nat) : List (Nat × Nat × Nat) :=
  es.map fun e => (e.ea, e.len, data / 2 ^ (8 * e.off) % 2 ^ (8 * e.len))

/-! ## The shared forms -/

def reqOf (s : State) (cid : Nat) (r : Run) (kind : ReqKind) (todo : List Elt) (data : Nat) : Req :=
  { id := 0, cid := cid, vd := r.vd, kind := kind, todo := todo, data := data, acc := 0, cmpv := 0, size := 0, dst := none
    shared := false, rel := false, home := false, inval := false, ovMask := 0, ovData := 0, word := s.ir
    pc := (s.ctx cid).pc, since := 0, paid := 0, stood := 0, acq := false, node := (s.ctx cid).role.node
    after := s.afterOf cid }

def spanOf (es : List AElt) : List (Int × Int) := es.map fun e => ((e.ea : Int), (e.ea + e.len : Int))

/-- After the tests of a device access: a stream barrier and the context's own copies in flight hold it (R128, R251). -/
def State.devHeld (s : State) (cid : Nat) (r : Run) (es : List AElt) : Option Park :=
  if s.barred r (s.ctx cid).role.node then some { Park.of .streamBar with b := s.cycle (coreOf cid) }
  else if s.interlocked cid 0 (spanOf es) then some (s.interlockPark cid 0 (spanOf es))
  else none

def feOf : ReqKind → Option Bool
  | .stf => some true
  | .feset => some true
  | .feclr => some false
  | _ => none

def writesData : ReqKind → Bool
  | .store => true
  | .stf => true
  | _ => false

/-- The context has a write, with a number below the one given, that its home slice has not acknowledged (R294). -/
def State.writesBefore (s : State) (cid id : Nat) : Bool :=
  (s.core (coreOf cid)).wq.any fun q => q.cid == cid && q.kind.isWrite && q.id < id

/-- The context has a write that its home slice has not acknowledged. -/
def State.writesOut (s : State) (cid : Nat) : Bool :=
  (s.core (coreOf cid)).wq.any fun q => q.cid == cid && q.kind.isWrite

/-- A write that a context has made has not been performed: one of its own that no home slice has acknowledged or that waits behind a release, or, in a
segment, one that its spawner made before the spawn (R294, R309, R428). -/
def State.unacked (s : State) (cid : Nat) : Bool := s.writesOut cid || !(s.ownEntries cid).isEmpty || s.spawnOpen cid

/-- An access of core memory waits for a write of its segment's spawner (R309). -/
def State.spawnHeld (s : State) (cid : Nat) (es : List AElt) : Bool := s.behindCore cid (es.map fun e => (e.ea, e.len, 0))

/-- Before a segment's load: once every write of its spawner has been performed, the L1 is dropped, which may hold bytes from before them (R309). -/
def State.spawnSeen (s : State) (cid : Nat) : State :=
  if (s.afterOf cid).isEmpty || s.spawnOpen cid then s
  else match s.ctxRun cid with
    | none => s
    | some r => (s.l1Flush (coreOf cid)).modRun r.id fun r =>
      { r with segs := r.segs.map fun (g : Seg) => if g.cid = some cid then { g with after := [] } else g }

/-- A full-empty access drops the sectors that the L1 holds at once; those of a plain store follow as it is performed at the home slice (R293). -/
def State.dropFe (s : State) (core : Nat) (q : Req) : State :=
  if q.kind == .store then s else q.todo.foldl (fun s u => s.l1Drop core u.pa) s

/-- A store-like access enters its core's path. -/
def State.postStore (s : State) (core : Nat) (q : Req) : State := (s.dropFe core q).post core q

/-- A store-like access: ST, STV, VSTS, VSCAT, STF, FESET, FECLR and SHST (R427-R429, R443). A release is posted like any store: to device memory in the
core's path, where it waits alone; to core memory it is performed once the context's earlier writes are acknowledged, and later stores to its bytes stay
behind it (R428). A buffered effect takes its bank as it drains (R284). -/
def storeBody (sp rel : Bool) (sz bytes : Nat) (kind : ReqKind) (es : List AElt) (data : Nat) (s : State) (cid : Nat) : Eff :=
  match s.ctxRun cid with
  | none => .next s
  | some r =>
    let fe := (feOf kind).isSome
    if s.acquiring cid then .park s { Park.of .fence with a := 1 }
    else if sp then
      match chkDevAll s cid r .write fe sz es with
      | .bad e => e
      | .ok s pas =>
        match s.devHeld cid r es with
        | some p => .park s p
        | none =>
          let q := { reqOf s cid r kind (unitsAll es pas) data with rel := rel }
          if s.buffers cid then s.bufferEff cid bytes (.device q) else .next (s.postStore (coreOf cid) q)
    else
      match chkCoreAll s cid r fe true sz es with
      | some e => e
      | none =>
        let ws := storesOf es data
        let eff := SpecEff.core ws (writesData kind) (feOf kind) rel
        if s.spawnHeld cid es then .park s { Park.of .fence with a := 3 }
        else if s.buffers cid then s.bufferEff cid bytes eff
        else if (rel && (s.writesOut cid || s.spawnOpen cid)) || (s.ownEntries cid).any (fun e => rel || e.eff.meets ws) then .next (s.postEff cid eff)
        else .next ((s.touchBanks cid es).applyCore (coreOf cid) ws (writesData kind) (feOf kind))

/-- Whether a plain device load may be served by the L1: its sectors are present and no write under way in the core's path
touches its bytes but its own context's stores, which it sees (R293, R294); none of a segment while a write of its spawner is open (R309). -/
def State.l1Serves (s : State) (cid : Nat) (us : List Elt) : Bool :=
  !(s.spawnOpen cid) && us.all fun u => (s.l1Get (coreOf cid) u.pa).isSome &&
    (s.core (coreOf cid)).wq.all fun q =>
      !(q.kind.isWrite && q.todo.any fun f => f.overlaps u) || (q.cid == cid && q.kind == .store)

/-- The bytes of a load that the L1 serves, its context's own pending stores laid over them (R294). -/
def State.l1Gather (s : State) (cid : Nat) (us : List Elt) : Nat :=
  let own := (s.core (coreOf cid)).wq.filter fun q => q.cid == cid
  us.foldl (fun a u => a + (overlay own (u.pa / 128 * 128) ((s.l1Get (coreOf cid) u.pa).getD 0) >>> (8 * (u.pa % 128))).toNat % 2 ^ (8 * u.len) *
    2 ^ (8 * u.off)) 0

/-- A load: LD, LDV, VLDS, VGATH and SHLD (R427, R428, R443): fixed latency from core memory, where an acquire has the effect of `.co` and drops nothing
(R425), a park from device memory. -/
def loadBody (sp acq : Bool) (scope sz : Nat) (f : File) (d : Nat) (es : List AElt) (s : State) (cid : Nat) : Eff :=
  match s.ctxRun cid with
  | none => .next s
  | some r =>
    if s.acquiring cid then .park s { Park.of .fence with a := 1 }
    else if sp then
      match chkDevAll s cid r .read false sz es with
      | .bad e => e
      | .ok s pas =>
        match s.devHeld cid r es with
        | some p => .park s p
        | none =>
          let s := s.spawnSeen cid
          let us := unitsAll es pas
          let ov := overlayBuf (s.ownEntries cid) true us
          let wide := acq && s.acqWide (coreOf cid) scope
          if !wide && !(r.ordered (s.ctx cid).role.node) && s.l1Serves cid us then
            let v := (BitVec.ofNat 2048 (s.l1Gather cid us) &&& ~~~ov.1) ||| ov.2
            let s := us.foldl (fun s u => s.l1Use (coreOf cid) u.pa) s
            .wait (s.modCtx cid fun c => c.stageLoad { file := f, reg := d, val := v } (s.cycle (coreOf cid))) (Park.of .landing)
          else
            let q := { reqOf s cid r .load us 0 with
              dst := some (f, d), home := wide, inval := wide, acq := acq, ovMask := ov.1, ovData := ov.2 }
            .wait (s.post (coreOf cid) q) (Park.of .landing)
    else
      match chkCoreAll s cid r false true sz es with
      | some e => e
      | none =>
        if s.spawnHeld cid es then .park s { Park.of .fence with a := 3 } else
        let us := es.map fun e => { va := e.ea, pa := e.ea, len := e.len, off := e.off : Elt }
        let ov := overlayBuf (s.ownEntries cid) false us
        let v := (BitVec.ofNat 2048 (coreGather (s.core (coreOf cid)).mem es) &&& ~~~ov.1) ||| ov.2
        .next ((s.touchBanks cid es).modCtx cid fun c => c.pendW f d v 4)

/-- Results of fixed latency a load brings; a device load parks (R228, R229). -/
def loadRes (sp : Bool) : Nat := if sp then 13 else 1

/-- The features of a memory word: bit 1 of leaf 0 with SP = 1, bits 12 and 13 by scope (R88). -/
def memFeats (sp : Bool) (scope : BitVec 3) (extra : List (Nat × Nat)) : List (Nat × Nat) :=
  extra ++ (if sp then [(0, 1)] else []) ++ (if scope = 4 then [(0, 12)] else if scope = 5 then [(0, 13)] else [])

/-! ## Effective addresses (R423) -/

def eaIdx (c : Ctx) (a b : Reg) (sc : Nat) (disp : Word) : Nat := (c.xr a + (c.xr b <<< sc) + disp).toNat

def memEa (m : MemF) (c : Ctx) : Nat := eaIdx c m.a m.b m.sc.toNat (sext64 m.disp)

/-- The one element of a scalar or whole-vector access. -/
def memOne (m : MemF) (c : Ctx) (len : Nat) : List AElt := [{ ea := memEa m c, len := len, off := 0 }]

def szBytes (sz : BitVec 3) : Nat := if sz = 4 then 256 else 2 ^ sz.toNat

/-- The elements of VLDS and VSTS: stride 1 when B is 0, else S(xB) (R427). -/
def memStrided (m : MemF) (c : Ctx) : List AElt :=
  let w := szBytes m.sz
  let k : Int := if m.b = 0 then 1 else (c.xr m.b).toInt
  (List.range (256 / w)).map fun j =>
    { ea := (BitVec.ofInt 64 ((c.xr m.a).toInt + (sext64 m.disp).toInt + ((j * w : Nat) : Int) * k)).toNat, len := w, off := w * j }

/-- The elements of VGATH and VSCAT (R423, R427). -/
def memIndexed (m : MemF) (c : Ctx) : List AElt :=
  let w := szBytes m.sz
  (List.range (256 / w)).map fun j =>
    { ea := (BitVec.ofInt 64 ((c.xr m.a).toInt + laneI true (c.vr m.b) w j * 2 ^ m.sc.toNat + (sext64 m.disp).toInt)).toNat
      len := w, off := w * j }

/-! ## The words -/

/-- LD (R427). -/
def execLd (h : Hdr) (m : MemF) (s : State) : Host.Outcome State Fault Refusal :=
  issue h (memFeats m.sp m.scope []) (loadRes m.sp) (fun s cid =>
    loadBody m.sp (m.ord == 1) m.scope.toNat m.sz.toNat .x m.d.toNat (memOne m (s.ctx cid) (szBytes m.sz)) s cid) s

/-- ST (R427). -/
def execSt (h : Hdr) (m : MemF) (s : State) : Host.Outcome State Fault Refusal :=
  issue h (memFeats m.sp m.scope []) 0 (fun s cid =>
    storeBody m.sp (m.ord == 2) m.sz.toNat (16 + Nat.max 8 (szBytes m.sz)) .store (memOne m (s.ctx cid) (szBytes m.sz))
      ((s.ctx cid).xr m.d).toNat s cid) s

/-- LDV (R427). -/
def execLdv (h : Hdr) (m : MemF) (s : State) : Host.Outcome State Fault Refusal :=
  issue h (memFeats m.sp m.scope []) (loadRes m.sp) (fun s cid =>
    loadBody m.sp (m.ord == 1) m.scope.toNat 4 .v m.d.toNat (memOne m (s.ctx cid) 256) s cid) s

/-- STV (R427). -/
def execStv (h : Hdr) (m : MemF) (s : State) : Host.Outcome State Fault Refusal :=
  issue h (memFeats m.sp m.scope []) 0 (fun s cid =>
    storeBody m.sp (m.ord == 2) 4 272 .store (memOne m (s.ctx cid) 256) ((s.ctx cid).vr m.d).toNat s cid) s

/-- VLDS (R427). -/
def execVlds (h : Hdr) (m : MemF) (s : State) : Host.Outcome State Fault Refusal :=
  issue h (memFeats m.sp m.scope []) (loadRes m.sp) (fun s cid =>
    loadBody m.sp (m.ord == 1) m.scope.toNat m.sz.toNat .v m.d.toNat (memStrided m (s.ctx cid)) s cid) s

/-- VSTS: of elements that write the same bytes the highest stands (R427, R428). -/
def execVsts (h : Hdr) (m : MemF) (s : State) : Host.Outcome State Fault Refusal :=
  issue h (memFeats m.sp m.scope []) 0 (fun s cid =>
    storeBody m.sp (m.ord == 2) m.sz.toNat 272 .store (memStrided m (s.ctx cid)) ((s.ctx cid).vr m.d).toNat s cid) s

/-- VGATH (R427, R428). -/
def execVgath (h : Hdr) (m : MemF) (s : State) : Host.Outcome State Fault Refusal :=
  issue h (memFeats m.sp m.scope []) (loadRes m.sp) (fun s cid =>
    loadBody m.sp (m.ord == 1) m.scope.toNat m.sz.toNat .v m.d.toNat (memIndexed m (s.ctx cid)) s cid) s

/-- VSCAT: 24 bytes of the buffer a lane in an uncertain segment (R427, R212). -/
def execVscat (h : Hdr) (m : MemF) (s : State) : Host.Outcome State Fault Refusal :=
  issue h (memFeats m.sp m.scope []) 0 (fun s cid =>
    storeBody m.sp (m.ord == 2) m.sz.toNat (24 * (256 / szBytes m.sz)) .store (memIndexed m (s.ctx cid))
      ((s.ctx cid).vr m.d).toNat s cid) s

/-- An instruction of R214 parks while its segment is uncertain, and then until the effects buffered before it have drained (R213, R214). A write that waits
behind a release holds none (R428). -/
def certain (body : State → Nat → Eff) (s : State) (cid : Nat) : Eff :=
  if (s.ctx cid).uncertain then .park s (Park.of .spec)
  else if s.draining cid then .park s { Park.of .spec with a := 2 }
  else body s cid

/-- The waiters of an LDS on core memory of this core that came before (R429). -/
def State.ldsWaits (s : State) (cid ea len : Nat) : Bool :=
  let mine := s.parkOrder cid .lds
  (List.range 8).any fun i =>
    let o := coreOf cid * 8 + i
    o != cid && match (s.ctx o).park with
      | some p => p.kind == .lds && p.a < ea + len && ea < p.a + p.b && p.order < mine
      | none => false

/-- LDS: parks until every bit it covers is FULL; with CLR the bits become EMPTY as its value is taken (R429, R430). In device memory the bit may be one
that a copy set, so that the reader's L1 is dropped with it, and loads after it see every write of that copy (R309). A write of its own to the word that
waits behind a release goes first. -/
def ldsBody (m : MemF) (s : State) (cid : Nat) : Eff :=
  let c := s.ctx cid
  let len := szBytes m.sz
  let clr := m.sc.getLsbD 0
  let e : AElt := { ea := eaIdx c m.a m.b m.sz.toNat (sext64 m.disp), len := len, off := 0 }
  match s.ctxRun cid with
  | none => .next s
  | some r =>
    if s.acquiring cid then .park s { Park.of .fence with a := 1 }
    else if m.sp then
      match chkDevAll s cid r (if clr then .write else .read) true m.sz.toNat [e] with
      | .bad x => x
      | .ok s pas =>
        match s.devHeld cid r [e] with
        | some p => .park s p
        | none =>
          .wait (s.post (coreOf cid) { reqOf s cid r (.lds clr) (unitsAll [e] pas) 0 with
            dst := some (.x, m.d.toNat), home := true, inval := true, acq := m.ord == 1 })
            (Park.of .landing)
    else
      match chkCoreAll s cid r true true m.sz.toNat [e] with
      | some x => x
      | none =>
        let k := s.core (coreOf cid)
        if s.spawnHeld cid [e] then .park s { Park.of .fence with a := 3 }
        else if (s.ownEntries cid).any fun x => x.eff.meets [(e.ea, len, 0)] then .park s (Park.of .fence)
        else if feFull k.fe e.ea len && !s.ldsWaits cid e.ea len then
          let v := BitVec.ofNat 64 (mload k.mem e.ea len)
          let s := s.touchBanks cid [e]
          let s := if clr then s.applyCore (coreOf cid) [(e.ea, len, 0)] false (some false) else s
          .wait (s.modCtx cid fun c => c.stage [rwX m.d.toNat v] 0) (Park.of .landing)
        else .park s { Park.of .lds with a := e.ea, b := len }

/-- LDS (R429). -/
def execLds (h : Hdr) (m : MemF) (s : State) : Host.Outcome State Fault Refusal :=
  issue h (memFeats m.sp m.scope []) 13 (certain (ldsBody m)) s

/-- STF (R429). -/
def execStf (h : Hdr) (m : MemF) (s : State) : Host.Outcome State Fault Refusal :=
  issue h (memFeats m.sp m.scope []) 0 (fun s cid =>
    storeBody m.sp (m.ord == 2) m.sz.toNat (16 + Nat.max 8 (szBytes m.sz)) .stf (memOne m (s.ctx cid) (szBytes m.sz))
      ((s.ctx cid).xr m.d).toNat s cid) s

/-- FESET (R429). -/
def execFeset (h : Hdr) (m : MemF) (s : State) : Host.Outcome State Fault Refusal :=
  issue h (memFeats m.sp m.scope []) 0 (fun s cid =>
    storeBody m.sp (m.ord == 2) m.sz.toNat (16 + Nat.max 8 (szBytes m.sz)) .feset (memOne m (s.ctx cid) (szBytes m.sz)) 0 s cid) s

/-- FECLR (R429). -/
def execFeclr (h : Hdr) (m : MemF) (s : State) : Host.Outcome State Fault Refusal :=
  issue h (memFeats m.sp m.scope []) 0 (fun s cid =>
    storeBody m.sp (m.ord == 2) m.sz.toNat (16 + Nat.max 8 (szBytes m.sz)) .feclr (memOne m (s.ctx cid) (szBytes m.sz)) 0 s cid) s

/-- A context has an atomic that its home slice has not performed. -/
def State.rmwPending (s : State) (cid : Nat) : Bool :=
  (s.core (coreOf cid)).wq.any fun q => q.cid == cid && (match q.kind with | .atomic _ => true | _ => false)

/-- FENCE: a release half waits for the context's write-throughs, an acquire half for its earlier atomics, and drops the L1 (R308, R431). -/
def fenceBody (ord : BitVec 2) (scope : Nat) (s : State) (cid : Nat) : Eff :=
  if ord.getLsbD 1 && s.unacked cid then .park s (Park.of .fence)
  else if s.rmwPending cid then .park s { Park.of .fence with a := 2 }
  else if ord.getLsbD 0 && s.acqWide (coreOf cid) scope then .next (s.l1Flush (coreOf cid))
  else .next s

/-- FENCE (R431). -/
def execFence (h : Hdr) (ord : BitVec 2) (scope : BitVec 3) (s : State) : Host.Outcome State Fault Refusal :=
  issue h (memFeats false scope []) 0 (certain (fenceBody ord scope.toNat)) s

/-- The destination space a DRAIN path names: core memory, Mantel, tiles, device memory (R361, R363). -/
def drainSpace (path : Reg) : Nat := match path.toNat with | 0 => 1 | 1 => 2 | 2 => 3 | _ => 0

/-- DRAIN: parks until the copies into a space that the core's contexts issued before it have completed (R252, R432). -/
def execDrain (h : Hdr) (path : Reg) (s : State) : Host.Outcome State Fault Refusal :=
  issue h [] 0 (certain fun s cid =>
    let ts := ((s.core (coreOf cid)).copies.filter fun c => c.dsp == drainSpace path).map (·.tag)
    if ts.isEmpty then .next s else .wait s { Park.of .drain with l := ts }) s

/-- An `rmw` range that is shared: of a segment kind, or overlapping a range of another node (R324). -/
def sharedRmw (g : Graph) (a len : Nat) : Bool :=
  g.ranges.any fun x => 2 ≤ x.kind && x.base ≤ a && a + len ≤ x.base + x.size &&
    ((match g.nodes[x.node]? with | some n => n.kind == 4 | none => false) ||
     g.ranges.any fun y => y.node != x.node && y.base < x.base + x.size && x.base < y.base + y.size)

/-- An atomic: one step at the home slice; with D = 0 it is posted (R433, R434). -/
def atomicBody (fn : Nat) (m : AtomF) (s : State) (cid : Nat) : Eff :=
  let c := s.ctx cid
  let len := szBytes m.sz
  let ea := if fn ≥ 9 then eaIdx c m.a 0 0 (sext64 m.disp) else eaIdx c m.a m.b m.sc.toNat (sext64 m.disp)
  let e : AElt := { ea := ea, len := len, off := 0 }
  match s.ctxRun cid with
  | none => .next s
  | some r =>
    if s.acquiring cid then .park s { Park.of .fence with a := 1 } else
    match chkDevAll s cid r (.rmw fn) false m.sz.toNat [e] with
    | .bad x => x
    | .ok s pas =>
      match s.devHeld cid r [e] with
      | some p => .park s p
      | none =>
        let us := unitsAll [e] pas
        let q := { reqOf s cid r (.atomic fn) us (c.xr m.c).toNat with
          cmpv := (c.xr m.b).toNat, dst := if m.d = 0 then none else some (.x, m.d.toNat), home := true
          shared := sharedRmw r.graph ea len, rel := m.ord.getLsbD 1, acq := m.ord.getLsbD 0
          inval := m.ord.getLsbD 0 && s.acqWide (coreOf cid) m.scope.toNat }
        let s := us.foldl (fun s u => s.l1Drop (coreOf cid) u.pa) s
        if m.d = 0 then .next (s.post (coreOf cid) q) else .wait (s.post (coreOf cid) q) (Park.of .landing)

def issueAtomic (fn : Nat) (h : Hdr) (m : AtomF) (s : State) : Host.Outcome State Fault Refusal :=
  issue h (memFeats true m.scope []) (if m.d = 0 then 0 else 13) (certain (atomicBody fn m)) s

/-- AADD (R433). -/
def execAadd (h : Hdr) (m : AtomF) (s : State) : Host.Outcome State Fault Refusal := issueAtomic 0 h m s
/-- AAND (R433). -/
def execAand (h : Hdr) (m : AtomF) (s : State) : Host.Outcome State Fault Refusal := issueAtomic 1 h m s
/-- AOR (R433). -/
def execAor (h : Hdr) (m : AtomF) (s : State) : Host.Outcome State Fault Refusal := issueAtomic 2 h m s
/-- AXOR (R433). -/
def execAxor (h : Hdr) (m : AtomF) (s : State) : Host.Outcome State Fault Refusal := issueAtomic 3 h m s
/-- AMIN (R433). -/
def execAmin (h : Hdr) (m : AtomF) (s : State) : Host.Outcome State Fault Refusal := issueAtomic 4 h m s
/-- AMAX (R433). -/
def execAmax (h : Hdr) (m : AtomF) (s : State) : Host.Outcome State Fault Refusal := issueAtomic 5 h m s
/-- AMINU (R433). -/
def execAminu (h : Hdr) (m : AtomF) (s : State) : Host.Outcome State Fault Refusal := issueAtomic 6 h m s
/-- AMAXU (R433). -/
def execAmaxu (h : Hdr) (m : AtomF) (s : State) : Host.Outcome State Fault Refusal := issueAtomic 7 h m s
/-- AXCHG (R433). -/
def execAxchg (h : Hdr) (m : AtomF) (s : State) : Host.Outcome State Fault Refusal := issueAtomic 8 h m s
/-- ACAS (R433). -/
def execAcas (h : Hdr) (m : AtomF) (s : State) : Host.Outcome State Fault Refusal := issueAtomic 9 h m s
/-- ATAS (R433). -/
def execAtas (h : Hdr) (m : AtomF) (s : State) : Host.Outcome State Fault Refusal := issueAtomic 10 h m s

/-- SHLD: 64 bytes to a shape register, unchecked (R443). -/
def execShld (h : Hdr) (d a : Reg) (sp : Bool) (s : State) : Host.Outcome State Fault Refusal :=
  issue h [] (loadRes sp) (fun s cid =>
    loadBody sp false 0 4 .s d.toNat [{ ea := ((s.ctx cid).xr a).toNat, len := 64, off := 0 }] s cid) s

/-- SHST (R443). -/
def execShst (h : Hdr) (d a : Reg) (sp : Bool) (s : State) : Host.Outcome State Fault Refusal :=
  issue h [] 0 (fun s cid =>
    storeBody sp false 4 80 .store [{ ea := ((s.ctx cid).xr a).toNat, len := 64, off := 0 }]
      ((s.ctx cid).sr d.toNat).toNat s cid) s

end Sys2Proof.Machine
end

