-- ==== Sys2Proof/Machine/Scalar.lean ====
section
/-! DEFINITION. Integer arithmetic, comparisons and predicate logic: ALU, MULDIV, ALUI, CMP, CMPI, PLOG and NOP (14 R350, 15 R372-R377). -/

namespace Sys2Proof.Machine

abbrev Step := Host.Outcome State Fault Refusal

/-- NOP: nothing but its issue (R350). -/
def execNop (h : Hdr) (s : State) : Step := issue h [] 0 (fun s _ => .next s) s

/-- ADD (R372). -/
def execAdd (h : Hdr) (d a b : Reg) (rm : BitVec 3) (s : State) : Step :=
  issueX h d 1 (fun c => fit64 c ((c.xr a).toInt + (c.xr b).toInt) rm) s
/-- SUB (R372). -/
def execSub (h : Hdr) (d a b : Reg) (rm : BitVec 3) (s : State) : Step :=
  issueX h d 1 (fun c => fit64 c ((c.xr a).toInt - (c.xr b).toInt) rm) s
/-- AND (R372). -/
def execAnd (h : Hdr) (d a b : Reg) (s : State) : Step := issueX h d 1 (fun c => c.xr a &&& c.xr b) s
/-- OR (R372). -/
def execOr (h : Hdr) (d a b : Reg) (s : State) : Step := issueX h d 1 (fun c => c.xr a ||| c.xr b) s
/-- XOR (R372). -/
def execXor (h : Hdr) (d a b : Reg) (s : State) : Step := issueX h d 1 (fun c => c.xr a ^^^ c.xr b) s
/-- ANDN (R372). -/
def execAndn (h : Hdr) (d a b : Reg) (s : State) : Step := issueX h d 1 (fun c => c.xr a &&& ~~~(c.xr b)) s

/-- A shift count: bits [63:6] are ignored (R372). -/
def shamt (b : Word) : Nat := b.toNat % 64

/-- SHL (R372). -/
def execShl (h : Hdr) (d a b : Reg) (s : State) : Step := issueX h d 1 (fun c => c.xr a <<< shamt (c.xr b)) s
/-- SHR (R372). -/
def execShr (h : Hdr) (d a b : Reg) (s : State) : Step := issueX h d 1 (fun c => c.xr a >>> shamt (c.xr b)) s
/-- SAR, toward minus infinity (R372). -/
def execSar (h : Hdr) (d a b : Reg) (s : State) : Step := issueX h d 1 (fun c => (c.xr a).sshiftRight (shamt (c.xr b))) s
/-- ROL (R372). -/
def execRol (h : Hdr) (d a b : Reg) (s : State) : Step := issueX h d 1 (fun c => (c.xr a).rotateLeft (shamt (c.xr b))) s
/-- ROR (R372). -/
def execRor (h : Hdr) (d a b : Reg) (s : State) : Step := issueX h d 1 (fun c => (c.xr a).rotateRight (shamt (c.xr b))) s
/-- MIN, signed (R372). -/
def execMin (h : Hdr) (d a b : Reg) (s : State) : Step :=
  issueX h d 1 (fun c => if (c.xr a).slt (c.xr b) then c.xr a else c.xr b) s
/-- MAX, signed (R372). -/
def execMax (h : Hdr) (d a b : Reg) (s : State) : Step :=
  issueX h d 1 (fun c => if (c.xr a).slt (c.xr b) then c.xr b else c.xr a) s
/-- MINU, unsigned (R372). -/
def execMinu (h : Hdr) (d a b : Reg) (s : State) : Step :=
  issueX h d 1 (fun c => if (c.xr a).ult (c.xr b) then c.xr a else c.xr b) s
/-- MAXU, unsigned (R372). -/
def execMaxu (h : Hdr) (d a b : Reg) (s : State) : Step :=
  issueX h d 1 (fun c => if (c.xr a).ult (c.xr b) then c.xr b else c.xr a) s
/-- SEL (R372). -/
def execSel (h : Hdr) (d a b pc : Reg) (s : State) : Step :=
  issueX h d 1 (fun c => if c.pr pc.toNat then c.xr a else c.xr b) s
/-- CLZ (R372). -/
def execClz (h : Hdr) (d a : Reg) (s : State) : Step := issueX h d 1 (fun c => BitVec.ofNat 64 (clz64 (c.xr a))) s
/-- CTZ (R372). -/
def execCtz (h : Hdr) (d a : Reg) (s : State) : Step := issueX h d 1 (fun c => BitVec.ofNat 64 (ctzN 64 (c.xr a).toNat)) s
/-- POPC (R372). -/
def execPopc (h : Hdr) (d a : Reg) (s : State) : Step := issueX h d 1 (fun c => BitVec.ofNat 64 (popN 64 (c.xr a).toNat)) s
/-- BSWAP (R372). -/
def execBswap (h : Hdr) (d a : Reg) (s : State) : Step := issueX h d 1 (fun c => bswap64 (c.xr a)) s

/-- BFX: the field of `width` bits at `pos`, sign-extended with SX (R373). -/
def bfxVal (a : Word) (imm : BitVec 13) : Word :=
  let pos := imm.toNat % 64
  let width := imm.toNat / 64 % 64 + 1
  let f := bits a.toNat pos width
  if imm.getLsbD 12 && bitAt f (width - 1) then BitVec.ofInt 64 ((f : Int) - 2 ^ width) else BitVec.ofNat 64 f

/-- BFI: the low `width` bits of B put at `pos` of A (R373). -/
def bfiVal (a b : Word) (imm : BitVec 13) : Word :=
  let pos := imm.toNat % 64
  let width := imm.toNat / 64 % 64 + 1
  let m : Word := BitVec.ofNat 64 (2 ^ width - 1) <<< pos
  (a &&& ~~~m) ||| ((b <<< pos) &&& m)

/-- BFX (R372, R373). -/
def execBfx (h : Hdr) (d a : Reg) (imm : BitVec 13) (s : State) : Step := issueX h d 1 (fun c => bfxVal (c.xr a) imm) s
/-- BFI (R372, R373). -/
def execBfi (h : Hdr) (d a b : Reg) (imm : BitVec 13) (s : State) : Step :=
  issueX h d 1 (fun c => bfiVal (c.xr a) (c.xr b) imm) s
/-- LEA (R372, R373). -/
def execLea (h : Hdr) (d a b : Reg) (imm : BitVec 13) (s : State) : Step :=
  issueX h d 1 (fun c => c.xr a + (c.xr b <<< (imm.toNat % 4))) s

/-- MUL (R374). -/
def execMul (h : Hdr) (d a b : Reg) (rm : BitVec 3) (s : State) : Step :=
  issueX h d 3 (fun c => fit64 c ((c.xr a).toInt * (c.xr b).toInt) rm) s
/-- MULH: bits [127:64] of the signed product (R374). -/
def execMulh (h : Hdr) (d a b : Reg) (s : State) : Step :=
  issueX h d 3 (fun c => BitVec.ofInt 64 ((c.xr a).toInt * (c.xr b).toInt / 2 ^ 64)) s
/-- MULHU: bits [127:64] of the unsigned product (R374). -/
def execMulhu (h : Hdr) (d a b : Reg) (s : State) : Step :=
  issueX h d 3 (fun c => BitVec.ofNat 64 ((c.xr a).toNat * (c.xr b).toNat / 2 ^ 64)) s

/-- The signed quotient, truncated toward zero; all ones for a zero divisor (R374). -/
def divS (a b : Word) : Word := if b = 0 then BitVec.allOnes 64 else BitVec.ofInt 64 (a.toInt.tdiv b.toInt)
/-- The unsigned quotient; all ones for a zero divisor (R374). -/
def divU (a b : Word) : Word := if b = 0 then BitVec.allOnes 64 else BitVec.ofNat 64 (a.toNat / b.toNat)

/-- DIV (R374). -/
def execDiv (h : Hdr) (d a b : Reg) (s : State) : Step := issueX h d 12 (fun c => divS (c.xr a) (c.xr b)) s
/-- DIVU (R374). -/
def execDivu (h : Hdr) (d a b : Reg) (s : State) : Step := issueX h d 12 (fun c => divU (c.xr a) (c.xr b)) s
/-- REM: A minus B times the quotient; A for a zero divisor (R374). -/
def execRem (h : Hdr) (d a b : Reg) (s : State) : Step :=
  issueX h d 12 (fun c => if c.xr b = 0 then c.xr a else c.xr a - c.xr b * divS (c.xr a) (c.xr b)) s
/-- REMU (R374). -/
def execRemu (h : Hdr) (d a b : Reg) (s : State) : Step :=
  issueX h d 12 (fun c => if c.xr b = 0 then c.xr a else c.xr a - c.xr b * divU (c.xr a) (c.xr b)) s
/-- MADD (R374). -/
def execMadd (h : Hdr) (d a b c' : Reg) (rm : BitVec 3) (s : State) : Step :=
  issueX h d 3 (fun c => fit64 c ((c.xr a).toInt * (c.xr b).toInt + (c.xr c').toInt) rm) s

/-- ADDI (R375). -/
def execAddi (h : Hdr) (d a : Reg) (imm : BitVec 32) (s : State) : Step := issueX h d 1 (fun c => c.xr a + sext64 imm) s
/-- ANDI (R375). -/
def execAndi (h : Hdr) (d a : Reg) (imm : BitVec 32) (s : State) : Step := issueX h d 1 (fun c => c.xr a &&& sext64 imm) s
/-- ORI (R375). -/
def execOri (h : Hdr) (d a : Reg) (imm : BitVec 32) (s : State) : Step := issueX h d 1 (fun c => c.xr a ||| sext64 imm) s
/-- XORI (R375). -/
def execXori (h : Hdr) (d a : Reg) (imm : BitVec 32) (s : State) : Step := issueX h d 1 (fun c => c.xr a ^^^ sext64 imm) s
/-- SHLI (R375). -/
def execShli (h : Hdr) (d a : Reg) (imm : BitVec 32) (s : State) : Step := issueX h d 1 (fun c => c.xr a <<< imm.toNat) s
/-- SHRI (R375). -/
def execShri (h : Hdr) (d a : Reg) (imm : BitVec 32) (s : State) : Step := issueX h d 1 (fun c => c.xr a >>> imm.toNat) s
/-- SARI (R375). -/
def execSari (h : Hdr) (d a : Reg) (imm : BitVec 32) (s : State) : Step :=
  issueX h d 1 (fun c => (c.xr a).sshiftRight imm.toNat) s
/-- MINI (R375). -/
def execMini (h : Hdr) (d a : Reg) (imm : BitVec 32) (s : State) : Step :=
  issueX h d 1 (fun c => if (c.xr a).slt (sext64 imm) then c.xr a else sext64 imm) s
/-- MAXI (R375). -/
def execMaxi (h : Hdr) (d a : Reg) (imm : BitVec 32) (s : State) : Step :=
  issueX h d 1 (fun c => if (c.xr a).slt (sext64 imm) then sext64 imm else c.xr a) s
/-- MULI (R375). -/
def execMuli (h : Hdr) (d a : Reg) (imm : BitVec 32) (s : State) : Step := issueX h d 3 (fun c => c.xr a * sext64 imm) s
/-- MOVI (R375). -/
def execMovi (h : Hdr) (d : Reg) (imm : BitVec 32) (s : State) : Step := issueX h d 1 (fun _ => sext64 imm) s
/-- MOVHI (R375). -/
def execMovhi (h : Hdr) (d a : Reg) (imm : BitVec 32) (s : State) : Step :=
  issueX h d 1 (fun c => (imm.setWidth 64 <<< 32) ||| (c.xr a &&& 0xFFFFFFFF)) s

/-- A word that computes one predicate. -/
def issueP (h : Hdr) (d : Reg) (f : Ctx → Bool) (s : State) : Step :=
  issue h [] 1 (fun s cid => .next (s.modCtx cid fun c => c.pendP d.toNat (f c) 1)) s

/-- CMP (R376). -/
def execCmp (h : Hdr) (cc : BitVec 4) (d a b : Reg) (s : State) : Step := issueP h d (fun c => cmpCC cc (c.xr a) (c.xr b)) s
/-- CMPI: the sign-extended immediate is read as the code reads it (R376). -/
def execCmpi (h : Hdr) (cc : BitVec 4) (d a : Reg) (imm : BitVec 32) (s : State) : Step :=
  issueP h d (fun c => cmpCC cc (c.xr a) (sext64 imm)) s

/-- PAND (R377). -/
def execPand (h : Hdr) (d a b : Reg) (s : State) : Step := issueP h d (fun c => c.pr a.toNat && c.pr b.toNat) s
/-- POR (R377). -/
def execPor (h : Hdr) (d a b : Reg) (s : State) : Step := issueP h d (fun c => c.pr a.toNat || c.pr b.toNat) s
/-- PXOR (R377). -/
def execPxor (h : Hdr) (d a b : Reg) (s : State) : Step := issueP h d (fun c => c.pr a.toNat != c.pr b.toNat) s
/-- PNOT (R377). -/
def execPnot (h : Hdr) (d a : Reg) (s : State) : Step := issueP h d (fun c => !c.pr a.toNat) s
/-- PMOV (R377). -/
def execPmov (h : Hdr) (d a : Reg) (s : State) : Step := issueP h d (fun c => c.pr a.toNat) s

end Sys2Proof.Machine
end

