-- ==== Sys2Proof/Machine/Control.lean ====
section
/-! DEFINITION. Control flow, the end of a firing or a segment, and HRET, the return from a fault (15 R378-R383, 13 R331). -/

namespace Sys2Proof.Machine

/-- The body length of the node a context runs. -/
def State.bodyLen (s : State) (cid : Nat) : Nat :=
  match (s.ctxRun cid).bind fun r => r.node (s.ctx cid).role.node with
  | some n => n.codeLen
  | none => 0

/-- A taken transfer: a target that is no word of the body raises ILLEGAL and has no effect (R379). -/
def transfer (s : State) (cid : Nat) (target : Int) : Eff :=
  if target % 8 = 0 && 0 ≤ target && target + 8 ≤ s.bodyLen cid then .goto s target.toNat else .trap 0x01 0 0

/-- The target of a branch: PC + 8 · S(OFF32) (R379). -/
def relTarget (s : State) (cid : Nat) (off : BitVec 32) : Int := ((s.ctx cid).pc : Int) + 8 * off.toInt

/-- BR (R379). -/
def execBr (h : Hdr) (cc : BitVec 4) (a b : Reg) (off : BitVec 32) (s : State) : Step :=
  issue h [] 0 (fun s cid =>
    if cmpCC cc ((s.ctx cid).xr a) ((s.ctx cid).xr b) then transfer s cid (relTarget s cid off) else .next s) s

/-- BRP (R379). -/
def execBrp (h : Hdr) (a : Reg) (off : BitVec 32) (s : State) : Step :=
  issue h [] 0 (fun s cid => if (s.ctx cid).pr a.toNat then transfer s cid (relTarget s cid off) else .next s) s

/-- JMP (R379). -/
def execJmp (h : Hdr) (off : BitVec 32) (s : State) : Step :=
  issue h [] 0 (fun s cid => transfer s cid (relTarget s cid off)) s

/-- JMPR (R379). -/
def execJmpr (h : Hdr) (a : Reg) (s : State) : Step :=
  issue h [] 0 (fun s cid => transfer s cid ((s.ctx cid).xr a).toNat) s

/-- CALL: x31 takes the offset of the next word, latency 1; an invalid target writes nothing (R379). -/
def execCall (h : Hdr) (off : BitVec 32) (s : State) : Step :=
  issue h [] 1 (fun s cid =>
    match transfer s cid (relTarget s cid off) with
    | .goto s pc => .goto (s.modCtx cid fun c => c.pendX 31 (BitVec.ofNat 64 (c.pc + 8)) 1) pc
    | e => e) s

/-- RET (R379). -/
def execRet (h : Hdr) (s : State) : Step :=
  issue h [] 0 (fun s cid => transfer s cid ((s.ctx cid).xr 31).toNat) s

/-- LOOP (R380). -/
def execLoop (h : Hdr) (a : Reg) (n : BitVec 32) (s : State) : Step :=
  issue h [] 0 (fun s cid =>
    if 0 < ((s.ctx cid).xr a).toInt then transfer s cid (((s.ctx cid).pc : Int) - 8 * (n.toInt - 1)) else .next s) s

/-! ## The end of a firing or a segment -/

def Ctx.movedOn (c : Ctx) (port : Nat) : Nat := tget 0 c.moved port

/-- The first declared port that moved fewer tokens than its count (R121, R381). -/
def Ctx.shortPort (c : Ctx) (n : NodeD) : Option PortD := n.ports.find? fun p => c.movedOn p.port < p.count

/-- A start or end of work in the region: the watchdog counts afresh (R152, R200). -/
def Run.alive (r : Run) : Run := { r with watchdog := 0 }

/-- A firing, round, action or segment starts (R75, R152). -/
def Run.starts (r : Run) : Run := { r.alive with fired := true }

/-- The firing of an operator's context ends (R381): FIRENO rises and the PC returns to 0. -/
def State.endFiring (s : State) (cid : Nat) : State :=
  let s := s.sample cid 1 (s.cycle (coreOf cid) - (s.ctx cid).eligAt)
  s.modCtx cid fun c =>
    { c with fireno := c.fireno + 1, pc := 0, running := false, fresh := false, moved := [], arrivedBars := [], departedBars := []
             fires := c.fires + 1, token := none, park := none }

/-- The pool's overflow is over once fewer than 768 entries are held (R219). -/
def Run.trimPool (r : Run) : Run := if r.segs.length < 768 then { r with poolFull := false } else r

/-- The STEP of the FIN of a segment of `s0` that has ended: no context is left to hold (R342, assumption 16). -/
def State.segStep (s0 : State) (cid : Nat) (s : State) : State :=
  let c := s0.ctx cid
  match c.stepDue, c.role.run.bind s.run with
  | some (w, pc), some r =>
    let f := s0.mkFlt cid 0x10 w pc 0 0 false
    if r.graph.handler.isSome then s.onFlue { f with run := some r.id }
    else (s.onFlue f).modRun r.id fun r => r.askCut .pause
  | _, _ => s

/-- The segment of a context ends: its pool entry is freed and the context is idle; what is left of FIN's GAP acts on its next first issue (R381). -/
def State.endSegment (s : State) (cid : Nat) : State :=
  let id := (s.ctx cid).segid
  let t := match (s.ctx cid).role.run with
    | some rid => s.modRun rid fun r => { r.alive with segs := r.segs.filter fun g => g.id != id }.trimPool
    | none => s
  s.segStep cid (t.setCtx cid { Ctx.init with gap := (s.ctx cid).gap })

/-- What FIN ends, its counts being met. An uncertain segment, or one whose buffer still drains, keeps its context (R201, R213). Under
STEPCTL.EN, STEP follows the end (R342). -/
def State.finish (s : State) (cid : Nat) : State :=
  let c := s.ctx cid
  match c.role with
  | .seg _ _ =>
    let s := if c.stepEn then s.modCtx cid fun c => { c with stepDue := some (s.ir, c.pc) } else s
    if (s.ctx cid).uncertain || s.undrained cid then s.parkCtx cid (Park.of .specFin) else s.endSegment cid
  | _ => if c.stepEn then (s.endFiring cid).raiseAt cid 0x10 s.ir c.pc 0 0 else s.endFiring cid

/-- FIN's tests and effect: RATE for a port short of its count, then the wait for every result in flight (R381). -/
def finBody (s : State) (cid : Nat) : Eff :=
  let c := s.ctx cid
  let short := if c.role.isOp then ((s.ctxRun cid).bind fun r => r.node c.role.node).bind c.shortPort else none
  match short with
  | some p => .trap 0x08 (p.port + 2 ^ 16 * c.movedOn p.port) 0
  | none => if c.pend.isEmpty then .fin (s.finish cid) else .hold s

/-- FIN (R381). -/
def execFin (h : Hdr) (s : State) : Step := issue h [] 0 finBody s

/-- YIELD: the turn ends (R382). -/
def execYield (h : Hdr) (s : State) : Step := issue h [] 0 (fun s _ => .last s) s

/-- The cycles a WAIT takes: the sum clamped to 0 … 2^24 (R383). -/
def waitCount (a : Word) (imm : BitVec 32) : Nat := (min (max (a.toInt + imm.toInt) 0) (2 ^ 24)).toNat

/-- WAIT: not ready for w cycles after its issue cycle; a switch-away point in every case (R383). -/
def execWait (h : Hdr) (a : Reg) (imm : BitVec 32) (s : State) : Step :=
  issue h [] 0 (fun s cid =>
    let w := waitCount ((s.ctx cid).xr a) imm
    .last (s.modCtx cid fun c => { c with wait := if w = 0 then none else some (w + 1) })) s

/-- IDLE: not ready until another issue of the core, a token that lands at it, or 1,024 cycles (R459). -/
def execIdle (h : Hdr) (s : State) : Step :=
  issue h [] 0 (fun s cid => .last (s.modCtx cid fun c => { c with idle := some 1025 })) s

/-! ## The return from a fault (R331) -/

/-- The output slots that a node's firing has reserved and not used are free again (R120). -/
def Run.unreserve (r : Run) (node : Nat) : Run :=
  (r.graph.chans.zipIdx.filter fun (c, i) => c.pnode == node && (r.chan i).res != 0).foldl (fun r e => r.setChan e.2 { r.chan e.2 with res := 0 }) r

/-- The context that a handled token held goes on: after the word, at the word, or at its end, where the slots that its firing reserved and did not
use are free again. -/
def State.release (s : State) (cid v : Nat) (f : Flt) : State :=
  let c := s.ctx cid
  let atFin := f.code == 0x08 && leNat (f.body.take 8) / 256 % 256 == 0x0F
  let s := (s.setCtx cid { c with held := none, park := none }).parkSample cid c
  if v = 1 || (f.code == 0x10 && v = 0) || !c.running then s
  else if v = 2 || atFin then
    (match c.role with
     | .seg _ _ => if s.undrained cid then s.parkCtx cid (Park.of .specFin) else s.endSegment cid
     | .op rid node => (s.endFiring cid).modRun rid fun r => r.unreserve node
     | .idle => s.endFiring cid)
  else s.modCtx cid fun c => { c with pc := c.pc + 8 }

/-- HRET: ends the handler's firing as FIN does, then applies its value to the token that started the firing (R331). -/
def hretBody (a : Reg) (s : State) (cid : Nat) : Eff :=
  let c := s.ctx cid
  match s.ctxRun cid with
  | none => .next s
  | some r =>
    if r.graph.handler != some c.role.node || !c.role.isOp || !c.running then .trap 0x03 0 0
    else match finBody s cid with
    | .fin s =>
      let v := (c.xr a).toNat % 4
      (match c.token with
       | none => .fin s
       | some f =>
         if v = 3 then .fin (s.haltRun r.id (0x200 + f.code))
         else match f.held with
           | some h => .fin (if (s.ctx h).held = some f then s.release h v f else s)
           | none => .fin s)
    | e => e

/-- HRET (R331). -/
def execHret (h : Hdr) (a : Reg) (s : State) : Step := issue h [] 0 (hretBody a) s

/-- TRAP (R333). -/
def execTrap (h : Hdr) (k : BitVec 20) (s : State) : Step := issue h [] 0 (fun _ _ => .trap 0x11 k.toNat 0) s

/-- BRK (R333). -/
def execBrk (h : Hdr) (k : BitVec 20) (s : State) : Step := issue h [(0, 15)] 0 (fun _ _ => .trap 0x0F k.toNat 0) s

/-- MARK: starts a periodic cut, from a handler operator or an operator with no input channel (R458). -/
def markBody (s : State) (cid : Nat) : Eff :=
  let c := s.ctx cid
  match s.ctxRun cid with
  | none => .next s
  | some r =>
    let n := c.role.node
    let src := c.role.isOp && (r.graph.handlerNodes.contains n ||
      !r.graph.chans.any fun k => k.cnode == n && !k.barrier && !k.selector)
    if !src then .trap 0x03 0 0
    else if r.cut.isSome || r.cutReq.isSome then .next s
    else .next (s.modRun r.id fun r => { r with cutReq := some .periodic })

/-- MARK (R458). -/
def execMark (h : Hdr) (s : State) : Step := issue h [] 0 markBody s

end Sys2Proof.Machine
end

