-- ==== Sys2Proof/Machine/Formats.lean ====
section
/-! DEFINITION. The element types, rounding, exact accumulation, packed chunks and residues (10 R254-R282). -/

namespace Sys2Proof.Machine

/-- A value of a floating-point element: a dyadic number m · 2^e, a negative zero, an infinity or a NaN. -/
inductive FVal where
  | fin (m e : Int)
  | negZero
  | inf (neg : Bool)
  | nan (signalling : Bool)
deriving DecidableEq, Repr

/-- The shape of a floating-point type: precision, exponent of the smallest normal, exponent of the largest, and whether it
is one of the IEEE formats (R254-R256). -/
structure Fmt where
  p : Nat
  emin : Int
  emax : Int
  bits : Nat
  ieee : Bool

def fmtOf (ty : Nat) : Fmt :=
  match ty with
  | 8 => { p := 4, emin := -7, emax := 7, bits := 8, ieee := false }
  | 9 => { p := 3, emin := -15, emax := 15, bits := 8, ieee := false }
  | 10 => { p := 11, emin := -14, emax := 15, bits := 16, ieee := true }
  | 11 => { p := 8, emin := -126, emax := 127, bits := 16, ieee := true }
  | _ => { p := 24, emin := -126, emax := 127, bits := 32, ieee := true }

/-- Width in bytes of an element of a type; XA has 16 (R254). -/
def tyW (ty : Nat) : Nat :=
  match ty with
  | 0 | 1 | 8 | 9 => 1
  | 2 | 3 | 10 | 11 => 2
  | 4 | 5 | 12 => 4
  | 6 | 7 => 8
  | _ => 16

def tyIsInt (ty : Nat) : Bool := ty ≤ 7
def tyIsSigned (ty : Nat) : Bool := ty == 0 || ty == 2 || ty == 4 || ty == 6

/-- The number a pattern of an integer type stands for. -/
def intOf (ty u : Nat) : Int :=
  let w := 8 * tyW ty
  if tyIsSigned ty && u ≥ 2 ^ (w - 1) then (u : Int) - 2 ^ w else u

/-- The value of a pattern of a floating-point type (R254-R258). -/
def decodeF (ty u : Nat) : FVal :=
  let f := fmtOf ty
  let neg := u / 2 ^ (f.bits - 1) % 2 == 1
  let e := u / 2 ^ (f.p - 1) % 2 ^ (f.bits - f.p)
  let fr := u % 2 ^ (f.p - 1)
  if f.ieee && e = 2 ^ (f.bits - f.p) - 1 then
    if fr = 0 then .inf neg else .nan (fr / 2 ^ (f.p - 2) % 2 == 0)
  else if !f.ieee && u = 0x80 then .nan false
  else
    let m : Nat := if e = 0 then fr else fr + 2 ^ (f.p - 1)
    let ex : Int := f.emin - (f.p - 1 : Nat) + (if e = 0 then 0 else (e : Int) - 1)
    if m = 0 then (if neg then .negZero else .fin 0 0) else .fin (if neg then -m else m) ex

/-- The value of an element of a type, an integer being exact. -/
def decodeE (ty u : Nat) : FVal := if tyIsInt ty then .fin (intOf ty u) 0 else decodeF ty u

/-- The canonical NaN of a type (R256). -/
def canonNaN (ty : Nat) : Nat := match ty with | 8 | 9 => 0x80 | 10 => 0x7E00 | 11 => 0x7FC0 | _ => 0x7FC00000

def signBit (ty : Nat) : Nat := 2 ^ ((fmtOf ty).bits - 1)
/-- The pattern of the largest finite value of a sign. -/
def maxFin (ty : Nat) (neg : Bool) : Nat :=
  (match ty with | 8 | 9 => 0x7F | 10 => 0x7BFF | 11 => 0x7F7F | _ => 0x7F7FFFFF) + (if neg then signBit ty else 0)
/-- An infinity, or the largest finite value where the type has none (R259). -/
def infOf (ty : Nat) (neg : Bool) : Nat :=
  match ty with
  | 8 | 9 => maxFin ty neg
  | 10 => 0x7C00 + (if neg then 0x8000 else 0)
  | 11 => 0x7F80 + (if neg then 0x8000 else 0)
  | _ => 0x7F800000 + (if neg then 0x80000000 else 0)
def zeroOf (ty : Nat) (neg : Bool) : Nat := if (fmtOf ty).ieee && neg then signBit ty else 0

/-- A result and the flags it sets. -/
abbrev FRes := Nat × BitVec 6

/-- Whether the magnitude `n + r/2` … is rounded away from zero: `n` the truncated magnitude, `r` the remainder over `d` (R259). -/
def roundUp (rm : Nat) (neg : Bool) (n r d : Nat) : Bool :=
  match rm with
  | 0 | 5 => 2 * r > d || (2 * r = d && n % 2 = 1)
  | 1 | 6 => false
  | 2 => !neg && r > 0
  | 3 => neg && r > 0
  | _ => 2 * r ≥ d && r > 0

/-- The magnitude of m · 2^e counted in units of 2^g, rounded in a direction, and whether it is exact. -/
def roundMag (rm : Nat) (neg : Bool) (a : Nat) (e g : Int) : Nat × Bool :=
  if g ≤ e then (a * 2 ^ (e - g).toNat, true)
  else if a = 0 then (0, true)
  else if (a.log2 : Int) + 2 < g - e then (if roundUp rm neg 0 1 8 then 1 else 0, false)   -- below a quarter of the unit
  else
    let d := 2 ^ (g - e).toNat
    let n := a / d
    let r := a % d
    ((if roundUp rm neg n r d then n + 1 else n), r == 0)

/-- The overflow result of R259. -/
def overflowRes (ty rm : Nat) (neg : Bool) : Nat :=
  match rm with
  | 0 | 4 => infOf ty neg
  | 2 => if neg then maxFin ty true else infOf ty false
  | 3 => if neg then infOf ty true else maxFin ty false
  | _ => maxFin ty neg

/-- Round of an exact value m · 2^e to a floating-point type (R264). -/
def roundF (ty rm : Nat) (m e : Int) : FRes :=
  if m = 0 then (0, 0)
  else
    let f := fmtOf ty
    let neg := decide (m < 0)
    let a := m.natAbs
    let top : Int := (a.log2 : Int) + e
    let g := max (top - (f.p - 1 : Nat)) (f.emin - (f.p - 1 : Nat))
    let (n0, exact) := roundMag rm neg a e g
    let (n, g) := if n0 = 2 ^ f.p then (2 ^ (f.p - 1), g + 1) else (n0, g)
    if n ≥ 2 ^ (f.p - 1) && f.emax < g + (f.p - 1 : Nat) then (overflowRes ty rm neg, flOF ||| flNX)
    else
      let mag := if n ≥ 2 ^ (f.p - 1) then (g + f.p - f.emin).toNat * 2 ^ (f.p - 1) + (n - 2 ^ (f.p - 1)) else n
      let u := if mag = 0 then zeroOf ty neg else mag + (if neg then signBit ty else 0)
      (u, if exact then 0 else if top < f.emin then flUF ||| flNX else flNX)

/-- Round of an exact value to an integer type (R264): wraps, or saturates under modes 5 and 6, with NV when out of range. -/
def roundI (ty rm : Nat) (m e : Int) : FRes :=
  let w := 8 * tyW ty
  let neg := decide (m < 0)
  let (n, exact) := roundMag rm neg m.natAbs e 0
  let q : Int := if neg then -n else n
  let lo : Int := if tyIsSigned ty then -(2 ^ (w - 1)) else 0
  let hi : Int := if tyIsSigned ty then 2 ^ (w - 1) - 1 else 2 ^ w - 1
  if lo ≤ q && q ≤ hi then ((q % 2 ^ w).toNat, if exact then 0 else flNX)
  else if rm = 5 || rm = 6 then (((if q < lo then lo else hi) % 2 ^ w).toNat, flNV)
  else ((q % 2 ^ w).toNat, flNV)

/-- Round, and the table of inputs that are not finite (R264). -/
def roundV (ty rm : Nat) (v : FVal) : FRes :=
  match v with
  | .fin m e => if tyIsInt ty then roundI ty rm m e else roundF ty rm m e
  | .negZero => if tyIsInt ty then (0, 0) else (zeroOf ty true, 0)
  | .nan sig => if tyIsInt ty then (0, flNV) else (canonNaN ty, if sig then flNV else 0)
  | .inf neg =>
    let sat := rm = 5 || rm = 6
    if tyIsInt ty then
      let w := 8 * tyW ty
      let hi := if tyIsSigned ty then 2 ^ (w - 1) - 1 else 2 ^ w - 1
      let lo := if tyIsSigned ty then 2 ^ (w - 1) else 0
      (if sat then (if neg then lo else hi) else 0, flNV)
    else if (fmtOf ty).ieee then (infOf ty neg, 0)
    else if sat then (maxFin ty neg, flOF ||| flNX)
    else (canonNaN ty, flNV)

/-! ## Residues (R276, R277) -/

/-- M = 2^61 - 1. -/
def resM : Nat := 2 ^ 61 - 1

/-- Res of m · 2^e. -/
def resDyadic (m e : Int) : Nat :=
  let x := (m.natAbs % resM) * 2 ^ (e % 61).toNat % resM
  if m < 0 && x ≠ 0 then resM - x else x

/-- Res of an element's value scaled by 2^k. -/
def resVal (v : FVal) (k : Int) : Nat := match v with | .fin m e => resDyadic m (e + k) | _ => 0

/-! ## Exact accumulation (R266-R272) -/

def xaSpecial : BitVec 128 := 0x80000000000000000000000000000000#128
def xaMax : Int := 2 ^ 127 - 1

/-- The value of a finite XA element: its number and the exponent of its unit. -/
def xaVal (n : BitVec 128) (anchor : BitVec 16) : FVal :=
  if n = xaSpecial then .nan true else .fin n.toInt (anchor.toInt - 96)

/-- What XASum makes of an element: its number, and whether XW and ACCWIN are set (R268). -/
structure XaRes where
  n : BitVec 128
  xw : Bool
  accwin : Bool
deriving DecidableEq, Repr

/-- A saturating narrowing of an exact sum in units of the grid. -/
def xaFit (t : Int) (xw : Bool) : XaRes :=
  if t > xaMax then { n := BitVec.ofInt 128 xaMax, xw := true, accwin := true }
  else if t < -xaMax then { n := BitVec.ofInt 128 (-xaMax), xw := true, accwin := true }
  else { n := BitVec.ofInt 128 t, xw := xw, accwin := false }

/-- m · 2^e in units of 2^g, truncated toward zero, and whether a part is lost. -/
def toGrid (m e g : Int) : Int × Bool :=
  if g ≤ e then (m * 2 ^ (e - g).toNat, false)
  else (m.tdiv (2 ^ (g - e).toNat), m % 2 ^ (g - e).toNat != 0)

/-- The exact product of two elements; a NaN or an infinity makes it special (R268, R270). A negative zero is zero. -/
def prodF (a b : FVal) : FVal :=
  match a, b with
  | .fin m e, .fin n f => .fin (m * n) (e + f)
  | .nan _, _ => .nan false
  | _, .nan _ => .nan false
  | .inf _, _ => .nan false
  | _, .inf _ => .nan false
  | _, _ => .fin 0 0

/-- XASum (R268). -/
def xaSum (n : BitVec 128) (anchor : BitVec 16) (ps : List FVal) : XaRes :=
  if n = xaSpecial then { n := n, xw := false, accwin := false }
  else if ps.any fun p => (match p with | .fin _ _ => false | _ => true) then { n := xaSpecial, xw := true, accwin := false }
  else
    let g := anchor.toInt - 96
    let (t, lost) := ps.foldl (fun (acc : Int × Bool) p =>
      match p with
      | .fin m e => (acc.1 + (toGrid m e g).1, acc.2 || (toGrid m e g).2)
      | _ => acc) (n.toInt, false)
    xaFit t lost

/-- XAlign: an XA value added to an element at an anchor (R272). -/
def xaAlign (n : BitVec 128) (anchor : BitVec 16) (np : BitVec 128) (ap : BitVec 16) : XaRes :=
  if n = xaSpecial then { n := n, xw := false, accwin := false }
  else if np = xaSpecial then { n := xaSpecial, xw := true, accwin := false }
  else
    let (v, lost) := toGrid np.toInt ap.toInt anchor.toInt
    xaFit (n.toInt + v) lost

/-- The greatest unbiased exponent among the nonzero finite elements of a BF16 tile, a subnormal counting as -126 and a tile
with none as -133 (R267). -/
def maxExpBF (us : List Nat) : Int :=
  us.foldl (fun (b : Int) (u : Nat) =>
    let e : Nat := u / 128 % 256
    if e = 255 || u % 32768 = 0 then b
    else max b (if e = 0 then -126 else (e : Int) - 127)) (-133)

/-- SetAnchor (R267): by the type and, for BF16, the operand tiles of the first fire. -/
def anchorOf (ty : Nat) (as bs : List Nat) : BitVec 16 :=
  match ty with
  | 0 | 1 => 96
  | 8 | 9 | 10 => 48
  | _ => BitVec.ofInt 16 (maxExpBF as + maxExpBF bs - 5)

/-- RoundXA: a special element reads out by its own table and sets NV (R270, R271). -/
def roundXA (n : BitVec 128) (anchor : BitVec 16) (ty rm : Nat) : FRes :=
  if n = xaSpecial then (if tyIsInt ty then 0 else canonNaN ty, flNV)
  else roundV ty rm (.fin n.toInt (anchor.toInt - 96))

/-! ## Chunks (R273-R278) -/

/-- Elements a payload of a type holds. -/
def chunkElems (ty : Nat) : Nat := 512 / tyW ty

/-- Element `j` of `n` bytes of a payload. -/
def plane (p : BitVec 4096) (n j : Nat) : Nat := (p >>> (8 * n * j)).toNat % 2 ^ (8 * n)

/-- The value of an element of a chunk before its scale. -/
def chunkVal (h : ChunkHdr) (p : BitVec 4096) (j : Nat) : FVal :=
  if h.type = 13 then xaVal (BitVec.ofNat 128 (plane p 16 j)) h.anchor
  else match decodeE h.type (plane p (tyW h.type) j) with
    | .negZero => .fin 0 0
    | v => v

/-- The residue of a chunk from its decoded payload (R277). -/
def chunkRes (h : ChunkHdr) (p : BitVec 4096) : Nat :=
  (List.range (chunkElems h.type)).foldl (fun a j => (a + (j + 1) * resVal (chunkVal h p j) h.scale.toInt) % resM) 0

/-- Whether an element of a payload is a NaN, an infinity or an XA special (R273 SPECIAL). -/
def chunkSpecial (h : ChunkHdr) (p : BitVec 4096) : Bool :=
  (List.range (chunkElems h.type)).any fun j => match chunkVal h p j with | .fin _ _ => false | .negZero => false | _ => true

/-- The header tests of R273. -/
def ChunkHdr.malformed (h : ChunkHdr) : Bool :=
  h.mbz || h.chan ≥ 2 ^ 14 || h.res ≥ 2 ^ 61 || h.type ≥ 14 || (h.type == 13 && h.scale != 0) || (h.type != 13 && h.anchor != 0) ||
  (h.coding && !(h.type == 8 || h.type == 9)) ||
  (if h.coding then h.len < 1 || h.len ≥ 4096 else h.len < 1 || h.len > 512)

/-- A field written from its most significant bit (R274). -/
def fieldBits (v n : Nat) : List Bool := (List.range n).map fun i => bitAt v (n - 1 - i)

/-- The exponent field that occurs most often in a block, the lowest on a tie (R274). -/
def modeExp (es : List Nat) (lim : Nat) : Nat :=
  ((List.range lim).foldl (fun (b : Nat × Nat) e => let c := es.count e; if c > b.2 then (e, c) else b) (0, 0)).1

/-- An element under a block's base exponent, by the shortest prefix that applies (R274). -/
def packElem (eb fb be u : Nat) : List Bool :=
  let e := u / 2 ^ fb % 2 ^ eb
  let rest := bitAt u 7 :: fieldBits (u % 2 ^ fb) fb
  if e = be then false :: rest
  else if e = be + 1 then true :: false :: false :: rest
  else if e + 1 = be then true :: false :: true :: rest
  else true :: true :: fieldBits e eb ++ rest

/-- The coded bit string of a payload of F8A or F8B (R274). -/
def packBits (ty : Nat) (p : BitVec 4096) : List Bool :=
  let eb := if ty = 8 then 4 else 5
  let fb := if ty = 8 then 3 else 2
  (List.range 16).flatMap fun b =>
    let us := (List.range 32).map fun i => plane p 1 (32 * b + i)
    let be := modeExp (us.map fun u => u / 2 ^ fb % 2 ^ eb) (2 ^ eb)
    fieldBits be eb ++ us.flatMap fun u => packElem eb fb be u

def bitsToNat : List Bool → Nat
  | [] => 0
  | b :: bs => b.toNat + 2 * bitsToNat bs

/-- A field read from its most significant bit, if the string does not end inside it. -/
def takeField : Nat → Nat → List Bool → Option (Nat × List Bool)
  | 0, acc, bs => some (acc, bs)
  | _ + 1, _, [] => none
  | n + 1, acc, b :: bs => takeField n (2 * acc + b.toNat) bs

/-- One element decoded (R274, R275). -/
def unpackElem (eb fb be : Nat) (bs : List Bool) : Option (Nat × List Bool) :=
  let tail (e : Nat) (bs : List Bool) : Option (Nat × List Bool) :=
    match takeField 1 0 bs with
    | none => none
    | some (sg, bs) => match takeField fb 0 bs with
      | none => none
      | some (f, bs) => some (sg * 128 + e * 2 ^ fb + f, bs)
  match bs with
  | false :: bs => tail be bs
  | true :: false :: false :: bs => if be + 1 < 2 ^ eb then tail (be + 1) bs else none
  | true :: false :: true :: bs => if 0 < be then tail (be - 1) bs else none
  | true :: true :: bs => match takeField eb 0 bs with
    | none => none
    | some (e, bs) => tail e bs
  | _ => none

/-- The elements of a block: those beyond the coded length are zero (R273). -/
def unpackElems (eb fb be : Nat) : Nat → List Bool → Option (List Nat × List Bool)
  | 0, bs => some ([], bs)
  | n + 1, [] => some (List.replicate (n + 1) 0, [])
  | n + 1, bs => match unpackElem eb fb be bs with
    | none => none
    | some (u, bs) => match unpackElems eb fb be n bs with
      | none => none
      | some (us, bs) => some (u :: us, bs)

/-- The elements of a chunk's blocks: those beyond the coded length are zero (R273). -/
def unpackBlocks (eb fb : Nat) : Nat → List Bool → Option (List Nat × List Bool)
  | 0, bs => some ([], bs)
  | n + 1, [] => some (List.replicate (32 * (n + 1)) 0, [])
  | n + 1, bs => match takeField eb 0 bs with
    | none => none
    | some (be, bs) => match unpackElems eb fb be 32 bs with
      | none => none
      | some (us, bs) => match unpackBlocks eb fb n bs with
        | none => none
        | some (vs, bs) => some (us ++ vs, bs)

/-- The plain payload of a chunk, zero beyond its LEN; none where its packed coding fails (R273, R275). -/
def unpackChunk (h : ChunkHdr) (p : BitVec 4096) : Option (BitVec 4096) :=
  if !h.coding then some (p &&& BitVec.ofNat 4096 (2 ^ (8 * h.len) - 1))
  else if h.len ≥ 4096 || (p >>> h.len) ≠ 0 then none
  else
    let eb := if h.type = 8 then 4 else 5
    let fb := if h.type = 8 then 3 else 2
    match unpackBlocks eb fb 16 ((List.range h.len).map fun i => p.getLsbD i) with
    | some (us, []) => some (BitVec.ofNat 4096 (leNat (us.map fun u => BitVec.ofNat 8 u)))
    | _ => none

/-- The outcome of a check of a chunk (R278): its plain payload, or the residue found. -/
inductive ChunkChk where
  | ok (h : ChunkHdr) (plain : BitVec 4096)
  | bad (found : Nat)

/-- A check: the header, the coding, then the residue unless PARTIAL is set; on a match the checker is named in the header. -/
def checkChunk (h : ChunkHdr) (p : BitVec 4096) (vkind vid : Nat) : ChunkChk :=
  if h.malformed then .bad 0
  else match unpackChunk h p with
    | none => .bad 0
    | some q =>
      if h.partialF then .ok h q
      else
        let r := chunkRes h q
        if r = h.res then .ok { h with vkind := vkind, vid := vid } q else .bad r

/-- A sealed chunk (R278, R390): its residue is that of the plain payload, and it is packed where that was asked and is shorter. -/
def sealChunk (type : Nat) (scale : BitVec 8) (anchor : BitVec 16) (run chan seq vkind vid : Nat) (partialF pack : Bool)
    (p : BitVec 4096) : Token :=
  let h0 : ChunkHdr :=
    { type := type, scale := scale, coding := false, partialF := partialF, special := false, len := 512, vkind := vkind
      vid := vid, inst := run % 2 ^ 16, chan := chan, seq := seq % 2 ^ 32, res := 0, anchor := anchor, mbz := false }
  let h := { h0 with res := chunkRes h0 p, special := chunkSpecial h0 p }
  let bs := if pack then packBits type p else []
  if pack && bs.length < 4096 then .chunk { h with coding := true, len := bs.length } (BitVec.ofNat 4096 (bitsToNat bs))
  else .chunk h p

/-- The 32 bytes of a header (R273). -/
def ChunkHdr.bytes (h : ChunkHdr) : List Byte :=
  natLe 1 (h.type + (if h.mbz then 16 else 0)) ++ natLe 1 h.scale.toNat ++ natLe 1 h.coding.toNat ++
    natLe 1 (h.special.toNat + 2 * h.partialF.toNat) ++ natLe 2 h.len ++ natLe 2 (h.vid + h.vkind * 2 ^ 14) ++ natLe 2 h.inst ++
    natLe 2 h.chan ++ natLe 4 h.seq ++ natLe 8 h.res ++ natLe 2 h.anchor.toNat ++ natLe 6 0

/-- The bytes of a token as a cut saves it (R183). -/
def Token.bytes : Token → List Byte
  | .scalar w => natLe 8 w.toNat
  | .vec v => natLe 256 v.toNat
  | .chunk h p => h.bytes ++ natLe 512 p.toNat

def Token.kind : Token → Nat
  | .scalar _ => 0
  | .vec _ => 1
  | .chunk _ _ => 2

/-! ## Seeds (R280-R282) -/

/-- The greatest n below 2^k with n² · num ≤ q. -/
def sqrtBits (num q : Nat) : Nat → Nat → Nat
  | 0, n => n
  | k + 1, n => sqrtBits num q k (if (n + 2 ^ k) * (n + 2 ^ k) * num ≤ q then n + 2 ^ k else n)

/-- TR[b][j] = RNE(2^16 / √m) (R281). -/
def tableRsq (b j : Nat) : Nat :=
  let num := 513 + 2 * j
  let q := 2 ^ 32 * (if b = 1 then 512 else 256)
  let n := sqrtBits num q 17 0
  if 4 * q ≥ (2 * n + 1) * (2 * n + 1) * num then n + 1 else n

/-- TC[j] = RNE(2^16 / (1 + (2j + 1)/1024)) (R281). -/
def tableRcp (j : Nat) : Nat := (2 * 2 ^ 26 + (1025 + 2 * j)) / (2 * (1025 + 2 * j))

/-- E and F of a finite nonzero value: ±2^E · (1 + F/2^23) (R281). -/
def normEF (m e : Int) : Int × Nat :=
  let a := m.natAbs
  let l := a.log2
  ((l : Int) + e, a * 2 ^ 23 / 2 ^ l - 2 ^ 23)

/-- VFRSQ's seed of an F32 pattern (R281, R282). -/
def seedRsq (u : Nat) : FRes :=
  match decodeF 12 u with
  | .nan sig => (canonNaN 12, if sig then flNV else 0)
  | .inf neg => if neg then (canonNaN 12, flNV) else (0, 0)
  | .negZero => (infOf 12 true, flDZ)
  | .fin m e =>
    if m = 0 then (infOf 12 false, flDZ)
    else if m < 0 then (canonNaN 12, flNV)
    else
      let (ex, f) := normEF m e
      let b := ((ex + 127) % 2).toNat
      let k := if b = 1 then ex / 2 else (ex - 1) / 2
      (roundF 12 0 (tableRsq b (f / 2 ^ 15)) (-16 - k)).1 |> fun r => (r, 0)

/-- VFRCP's seed of an F32 pattern (R281, R282). -/
def seedRcp (u : Nat) : FRes :=
  match decodeF 12 u with
  | .nan sig => (canonNaN 12, if sig then flNV else 0)
  | .inf neg => (zeroOf 12 neg, 0)
  | .negZero => (infOf 12 true, flDZ)
  | .fin m e =>
    if m = 0 then (infOf 12 false, flDZ)
    else
      let (ex, f) := normEF m e
      let y : Int := tableRcp (f / 2 ^ 14)
      roundF 12 0 (if m < 0 then -y else y) (-16 - ex)

end Sys2Proof.Machine
end

