-- ==== Sys2Proof/Machine/Channel.lean ====
section
/-! DEFINITION. The channel words: RECV, SEND, PEEK, AVAIL, FREE, SENDK, RECVK, XSEND and INJ (15 R384-R393, 13 R332). -/

namespace Sys2Proof.Machine

/-- The channel that a port of a node stands at: ports 0-15 are inputs, 16-31 outputs (R131). -/
def Graph.chanOfIn (g : Graph) (node port : Nat) : Option Nat :=
  g.chans.findIdx? fun c => !c.barrier && !c.selector && c.cnode == node && c.cport == port
def Graph.chanOfOut (g : Graph) (node port : Nat) : Option Nat :=
  g.chans.findIdx? fun c => !c.barrier && c.pnode == node && c.pport == port

/-- The port a node declares under a number. -/
def NodeD.portAt (n : NodeD) (port : Nat) : Option PortD := n.ports.find? fun p => p.port == port

/-- The slots of a channel's buffer: the largest of its depth, its producer's bound and the counts of both ports (R122, R31). -/
def Graph.capacity (g : Graph) (i : Nat) : Nat :=
  match g.chans[i]? with
  | none => 0
  | some c =>
    let pp := (g.nodes[c.pnode]?).bind fun n => n.portAt c.pport
    let cp := if c.selector then none else (g.nodes[c.cnode]?).bind fun n => n.portAt c.cport
    let a := match pp with | some p => Nat.max p.bound p.count | none => 0
    let b := match cp with | some p => p.count | none => 0
    Nat.max c.depth (Nat.max a b)

/-- Slots neither filled, nor reserved, nor awaited by a token in flight. -/
def Run.freeSlots (r : Run) (i : Nat) : Nat :=
  let c := r.chan i
  r.graph.capacity i - (c.buf.length + (c.fly.filter fun f => f.tok.isSome).length + c.late.length + c.res)

/-- A token enters a channel's route, and lands no earlier than the cycle `due` of its die's clock (R394). -/
def Run.launchTok (r : Run) (i : Nat) (t : Token) (due : Nat) : Run :=
  let c := r.chan i
  r.setChan i { c with fly := c.fly ++ [{ tok := some t, due := due }] }

/-- The tests 1 to 4 of R384 on a port, 1 to 3 answering CHAN and 4 RATE; none where all pass. `kind` is the kind of port the word
asks for, none where it takes any. -/
def portTest (s : State) (cid port : Nat) (kind : Option Nat) : Option (Nat × Nat) :=
  let c := s.ctx cid
  if !c.role.isOp then some (0x09, 0)
  else match (s.ctxRun cid).bind fun r => r.node c.role.node with
  | none => some (0x09, 0)
  | some n => match n.portAt port with
    | none => some (0x09, 0)
    | some p =>
      if kind.isSome && kind != some p.kind then some (0x09, 0)
      else if kind.isSome && p.count ≤ c.movedOn port then some (0x08, port + 2 ^ 16 * c.movedOn port)
      else none

/-- One more token moved on a port (R371). -/
def Ctx.move (c : Ctx) (port : Nat) : Ctx := { c with moved := tset 0 c.moved port (c.movedOn port + 1) }

/-- A failed port test: the fault, or under NB a count failure as a false predicate, written with latency 1 (R388). -/
def portFail (s : State) (cid : Nat) (nb : Bool) (pd : BitVec 3) (f : Nat × Nat) : Eff :=
  if nb && f.1 = 0x08 then .next (s.modCtx cid fun c => c.pendP pd.toNat false 1) else .trap f.1 f.2 0

def nbWrite (nb : Bool) (pd : BitVec 3) : List RegWrite := if nb then [rwP pd.toNat true] else []

/-- The oldest token of the channel at an input port of the issuing node. -/
def State.headTok (s : State) (cid port : Nat) : Option (Run × Nat × Token) :=
  match s.ctxRun cid with
  | none => none
  | some r => match r.graph.chanOfIn (s.ctx cid).role.node port with
    | none => none
    | some i => (r.chan i).buf.head?.map fun t => (r, i, t)

/-- The oldest token leaves its channel. -/
def State.popChan (s : State) (rid i : Nat) : State :=
  s.modRun rid fun r => r.setChan i { r.chan i with buf := (r.chan i).buf.tail }

def tokVal : Token → Vec
  | .scalar w => w.setWidth 2048
  | .vec v => v
  | .chunk _ p => p.setWidth 2048

def fileOf (v : Bool) : File := if v then .v else .x
def kindOf (v : Bool) : Nat := if v then 1 else 0

/-- RECV: the oldest token of the port, in a landing write no earlier than 4 cycles after issue (R385). -/
def recvBody (f : ChanF) (s : State) (cid : Nat) : Eff :=
  match portTest s cid f.port.toNat (some (kindOf f.v)) with
  | some e => portFail s cid f.nb f.pd e
  | none => match s.headTok cid f.port.toNat with
    | none => .hold s
    | some (r, i, t) =>
      .wait (((s.popChan r.id i)).modCtx cid fun c =>
        (c.move f.port.toNat).stage ({ file := fileOf f.v, reg := f.x.toNat, val := tokVal t } :: nbWrite f.nb f.pd) 4)
        (Park.of .landing)

/-- RECV (R385). -/
def execRecv (h : Hdr) (f : ChanF) (s : State) : Step := issue h [] 13 (recvBody f) s

/-- PEEK: as RECV without removing the token, with latency 2 (R385). -/
def peekBody (f : ChanF) (s : State) (cid : Nat) : Eff :=
  match portTest s cid f.port.toNat (some (kindOf f.v)) with
  | some e => portFail s cid f.nb f.pd e
  | none => match s.headTok cid f.port.toNat with
    | none => .hold s
    | some (_, _, t) =>
      .next (s.modCtx cid fun c =>
        let c := c.pendW (fileOf f.v) f.x.toNat (tokVal t) 2
        if f.nb then c.pendP f.pd.toNat true 2 else c)

/-- PEEK (R385). -/
def execPeek (h : Hdr) (f : ChanF) (s : State) : Step := issue h [] (if f.nb then 2 else 1) (peekBody f) s

/-- A token leaves by an output port into the slot reserved for it; on a port left unconnected it is discarded (R387). -/
def State.sendTok (s : State) (cid port : Nat) (mk : Nat → Nat → Token) : State :=
  let s := match s.ctxRun cid with
    | none => s
    | some r => match r.graph.chanOfOut (s.ctx cid).role.node port with
      | none => s
      | some i => s.modRun r.id fun r =>
        let c := r.chan i
        (r.setChan i { c with res := c.res - 1, seq := if (mk i c.seq).kind = 2 then (c.seq + 1) % 2 ^ 32 else c.seq }).launchTok
          i (mk i c.seq) (s.cycle (coreOf cid) + 2)
  s.modCtx cid fun c => c.move port

def regTok (c : Ctx) (v : Bool) (x : Reg) : Token := if v then .vec (c.vr x) else .scalar (c.xr x)

/-- SEND (R387). -/
def sendBody (f : ChanF) (s : State) (cid : Nat) : Eff :=
  match portTest s cid (16 + f.port.toNat) (some (kindOf f.v)) with
  | some e => portFail s cid f.nb f.pd e
  | none =>
    let t := regTok (s.ctx cid) f.v f.x
    .next ((s.sendTok cid (16 + f.port.toNat) fun _ _ => t).modCtx cid fun c => if f.nb then c.pendP f.pd.toNat true 1 else c)

/-- SEND (R387). -/
def execSend (h : Hdr) (f : ChanF) (s : State) : Step := issue h [] (if f.nb then 1 else 0) (sendBody f) s

/-- What the firing may still move on a port: tests 1 and 2 only (R384, R386). -/
def availBody (port : Nat) (x : Reg) (s : State) (cid : Nat) : Eff :=
  match portTest s cid port none with
  | some e => .trap e.1 e.2 0
  | none =>
    let n := ((s.ctxRun cid).bind fun r => r.node (s.ctx cid).role.node).bind fun n => n.portAt port
    let cnt := match n with | some p => p.count | none => 0
    .next (s.modCtx cid fun c => c.pendX x (BitVec.ofNat 64 (cnt - c.movedOn port)) 2)

/-- AVAIL (R386). -/
def execAvail (h : Hdr) (x : Reg) (port : BitVec 4) (s : State) : Step := issue h [] 1 (availBody port.toNat x) s
/-- FREE (R386). -/
def execFree (h : Hdr) (x : Reg) (port : BitVec 4) (s : State) : Step := issue h [] 1 (availBody (16 + port.toNat) x) s

/-! ## Chunks (R389-R391) -/

/-- The payload of a vector pair. -/
def Ctx.pair (c : Ctx) (x : Reg) : BitVec 4096 :=
  (c.vr x).setWidth 4096 ||| ((c.vr (x + 1)).setWidth 4096 <<< 2048)

/-- SENDK: a sealing point (R390). -/
def sendkBody (pd : BitVec 3) (nb : Bool) (port : BitVec 4) (x : Reg) (s : State) (cid : Nat) : Eff :=
  match portTest s cid (16 + port.toNat) (some 2) with
  | some e => portFail s cid nb pd e
  | none =>
    let c := s.ctx cid
    let w := (c.xr x).toNat
    let ty := bits w 0 4
    let scale := bits w 4 8
    let anchor := bits w 16 16
    let pack := bitAt w 12
    if ty ≥ 14 || (pack && !(ty == 8 || ty == 9)) || bitAt w 15 || (ty != 13 && anchor != 0) || (ty == 13 && scale != 0) then
      .trap 0x09 0 0
    else
      let run := (s.ctxRun cid).elim 0 (·.id)
      let p := c.pair x
      let mk (ch seq : Nat) := sealChunk ty (BitVec.ofNat 8 scale) (BitVec.ofNat 16 anchor) run ch seq 0 (coreOf cid) (bitAt w 13) pack p
      .next ((s.sendTok cid (16 + port.toNat) mk).modCtx cid fun c => if nb then c.pendP pd.toNat true 1 else c)

/-- SENDK (R390). -/
def execSendk (h : Hdr) (pd : BitVec 3) (nb : Bool) (port : BitVec 4) (x : Reg) (s : State) : Step :=
  issue h [] (if nb then 1 else 0) (sendkBody pd nb port x) s

/-- The descriptor RECVK writes (R389). -/
def ChunkHdr.desc (h : ChunkHdr) : Word :=
  BitVec.ofNat 64 (h.type + h.scale.toNat * 2 ^ 4 + h.coding.toNat * 2 ^ 12 + h.partialF.toNat * 2 ^ 13 + h.special.toNat * 2 ^ 14 +
    h.anchor.toNat * 2 ^ 16 + h.seq * 2 ^ 32)

/-- Bytes 16-63 of an INTEGRITY token (R336); the elements of the hop and those newly marked are given. -/
def integrityBody (from' dest point row hoplen act : Nat) (ident : Nat) (expect found cutno marked : Nat) : List Byte :=
  natLe 2 from' ++ natLe 2 dest ++ natLe 1 point ++ natLe 1 row ++ natLe 1 hoplen ++ natLe 1 act ++ natLe 8 ident ++
    natLe 8 expect ++ natLe 8 found ++ natLe 8 cutno ++ natLe 2 marked ++ natLe 6 0

def ChunkHdr.ident (h : ChunkHdr) : Nat := h.inst + h.chan * 2 ^ 16 + h.seq * 2 ^ 32

/-! ### Attribution of a residue fault (R337) -/

/-- The cells of the X-then-Y route between the routers of two cores on one die, end routers included (R137): routers and the
directional links, a link named by its origin and 0 N, 1 E, 2 S, 3 W. -/
def routeCells (a b : Nat) : List Cell :=
  let die := dieOf a
  let x0 := colOf a; let x1 := colOf b; let y0 := rowOf a; let y1 := rowOf b
  let xs := (List.range (if x0 ≤ x1 then x1 - x0 else x0 - x1)).map fun i => if x0 ≤ x1 then x0 + i else x0 - i
  let ys := (List.range (if y0 ≤ y1 then y1 - y0 else y0 - y1)).map fun i => if y0 ≤ y1 then y0 + i else y0 - i
  (xs.flatMap fun x => [Cell.router (coreId die x y0), .link (coreId die x y0) (if x0 ≤ x1 then 1 else 3)]) ++
  (ys.flatMap fun y => [Cell.router (coreId die x1 y), .link (coreId die x1 y) (if y0 ≤ y1 then 0 else 2)]) ++
  [.router (coreId die x1 y1)]

/-- The cell that a verifier's kind and id name (R273, R336): the only bridge whose chunks the machine follows is its die's to the hub, B3 (R43); a pod
link is named by its router; the collective unit is no cell. -/
def verifierCells (kind id : Nat) : List Cell :=
  match kind with
  | 0 => [.core id]
  | 1 => [.edge (dieOf id) (colOf id) (rowOf id == 15)]
  | 2 => [.bridge (dieOf id) 3]
  | _ => (((List.range 8).filter fun l => (Config.linkRouter l).toNat == id).map Cell.podLink).take 1

/-- The route of a hop: between two dies it leaves by the bridge port of the first router, and charges both end routers and both ends of the bridge that
joins the dies (R43, R115, R337, assumption 29). -/
def hopRoute (a b : Nat) : List Cell :=
  if dieOf a = dieOf b then routeCells a b
  else [.router a, .bridge (dieOf a) (bridgeOf (dieOf a) (dieOf b)), .bridge (dieOf b) (bridgeOf (dieOf a) (dieOf b)), .router b]

/-- The elements a mismatch is charged to: verifier, route and checker; the checker alone at SealCheck and VRXADD (R337, R415). -/
def hopCells (alone : Bool) (vk vid ck cid : Nat) : List Cell :=
  if alone then verifierCells ck cid
  else (verifierCells vk vid ++ hopRoute vid cid ++ verifierCells ck cid).eraseDups

def cellDie : Cell → Nat
  | .core id => dieOf id
  | .router id => dieOf id
  | .edge d _ _ => d
  | .link id _ => dieOf id
  | .bridge d _ => d
  | .podLink n => n / 2

/-- Each charged element of a die records the time; one whose three latest charges lie within 10^12 periods becomes unsound, and the die's sound
generation rises once for the bits one fault sets (R337, R140). Answers the number newly marked. -/
def State.chargeDie (s : State) (d : Nat) (cells : List Cell) : State × Nat :=
  let die := s.die d
  let charges := cells.foldl (fun l c => l ++ [(c, s.now)]) die.charges
  let due (c : Cell) : Bool :=
    let ts := (charges.filter fun x => x.1 == c).map (·.2)
    ts.length ≥ 3 && s.now - (ts.getD (ts.length - 3) 0) ≤ 10 ^ 12
  let bad := cells.filter fun c => due c && !die.unsound.contains c
  (s.setDie d
    { die with
      charges := charges, unsound := die.unsound ++ bad, sgen := if bad.isEmpty then die.sgen else die.sgen + 1
      cache := die.cache.filter fun (e : PlaceEntry) => !(e.cells.any fun c => bad.contains c) },
    bad.length)

/-- The elements of a hop are charged, each in the record of its die (R337). -/
def State.charge (s : State) (cells : List Cell) : State × Nat :=
  ((cells.map cellDie).eraseDups).foldl (fun (a : State × Nat) d =>
    let (t, n) := a.1.chargeDie d (cells.filter fun c => cellDie c == d)
    (t, a.2 + n)) (s, 0)

/-- A cell lies in the columns of a run's region. -/
def Run.hasCell (r : Run) (c : Cell) : Bool :=
  match c with
  | .core k => r.covers k
  | .router k => r.covers k
  | .link k _ => r.covers k
  | .edge d col _ => r.covers (coreId d col 0)
  | .bridge _ _ => false
  | .podLink _ => false

/-- A residue mismatch of a run at a check: its hop is charged, then the run rolls back or halts; a cell of its region that the charge
marked unsound makes the rollback re-place it (R186, R337, R338). -/
def State.integrity (s : State) (rid src point row : Nat) (alone : Bool) (vk vid ck cid ident expect found : Nat) : State :=
  let cells := hopCells alone vk vid ck cid
  let marks (s : State) : List Cell := (List.range 4).flatMap fun d => (s.die d).unsound
  let (s', marked) := s.charge cells
  let s' := s'.modRun rid fun r =>
    { r with displaced := r.displaced || (marks s').any fun c => r.hasCell c && !(marks s).contains c }
  s'.integrityAct rid 0x13 src fun act cut =>
    integrityBody (vid + vk * 2 ^ 14) (cid + ck * 2 ^ 14) point row cells.length act ident expect found cut marked

/-- RECVK into a vector pair (R391). -/
def recvkBody (pd : BitVec 3) (nb : Bool) (port : BitVec 4) (x : Reg) (s : State) (cid : Nat) : Eff :=
  match portTest s cid port.toNat (some 2) with
  | some e => portFail s cid nb pd e
  | none => match s.headTok cid port.toNat with
    | some (r, i, .chunk h p) =>
      (match checkChunk h p 0 (coreOf cid) with
       | .ok h' q =>
         .wait ((s.popChan r.id i).modCtx cid fun c =>
           (c.move port.toNat).stage
             (rwV x.toNat (q.setWidth 2048) :: rwV (x.toNat + 1) ((q >>> 2048).setWidth 2048) :: rwX x.toNat h'.desc ::
               nbWrite nb pd) 4) (Park.of .landing)
       | .bad found =>
         .wait (s.integrity r.id (srcOfCid cid) 0 0 false h.vkind h.vid 0 (coreOf cid) h.ident h.res found) (Park.of .held))
    | _ => .hold s

/-- RECVK (R391). -/
def execRecvk (h : Hdr) (pd : BitVec 3) (nb : Bool) (port : BitVec 4) (x : Reg) (s : State) : Step :=
  issue h [] 13 (recvkBody pd nb port x) s

/-- The accessor of a tile slot is recorded; a ninth distinct node is refused (R225). -/
def sharersOk (l : List Nat) (n : Nat) : Bool := l.contains n || l.length < 8

/-- RECVK into a tile slot: the TILE tests come before any check (R391). -/
def recvkTileBody (pd : BitVec 3) (nb : Bool) (port : BitVec 4) (slot : BitVec 3) (s : State) (cid : Nat) : Eff :=
  match portTest s cid port.toNat (some 2) with
  | some e => portFail s cid nb pd e
  | none => match s.headTok cid port.toNat with
    | some (r, i, .chunk h p) =>
      let t := tget Slot.init (s.core (coreOf cid)).tiles slot.toNat
      let node := (s.ctx cid).role.node
      let wide := h.type == 10 || h.type == 11
      if !(h.type == 0 || h.type == 1 || (8 ≤ h.type && h.type ≤ 11)) || h.scale != 0 || t.full || !sharersOk t.sharers node then
        .trap 0x0B 0 0
      else (match checkChunk h p 0 (coreOf cid) with
       | .ok _ q =>
         let parts := if wide then 8 else 4
         let t' := { t with data := mwrite t.data (512 * (h.seq % parts)) (natLe 512 q.toNat), full := h.seq % parts == parts - 1
                            sharers := addSharer t.sharers node }
         let s := (s.popChan r.id i).modCore (coreOf cid) fun k => { k with tiles := tset Slot.init k.tiles slot.toNat t' }
         .wait (s.modCtx cid fun c => (c.move port.toNat).stage (nbWrite nb pd) 4) (Park.of .landing)
       | .bad found =>
         .wait (s.integrity r.id (srcOfCid cid) 0 0 false h.vkind h.vid 0 (coreOf cid) h.ident h.res found) (Park.of .held))
    | _ => .hold s

/-- RECVK into a tile slot (R391). -/
def execRecvkTile (h : Hdr) (pd : BitVec 3) (nb : Bool) (port : BitVec 4) (slot : BitVec 3) (s : State) : Step :=
  issue h [] 13 (recvkTileBody pd nb port slot) s

/-! ## Directed sends and injection -/

/-- The token of an XSEND in the core's send queue. -/
def State.queueSend (s : State) (cid core ctx port : Nat) (t : Token) (word : Word) (pc : Nat) : State :=
  s.modCore (coreOf cid) fun k =>
    { k with sendq := k.sendq ++ [{ srcCid := cid, srcRun := (s.ctx cid).role.run, core := core, ctx := ctx, port := port, tok := t
                                    word := word, pc := pc, due := s.cycle (coreOf cid) + 2, paid := 0, stood := s.now
                                    vd := ((s.ctxRun cid).map (·.vd)).getD 0, node := (s.ctx cid).role.node, fireno := (s.ctx cid).workNo
                                    held := none }] }

/-- XSEND: the register is copied into the core's send queue of 16; a full queue makes a plain XSEND wait at issue (R392). -/
def xsendBody (f : ChanF) (core : BitVec 11) (ctx : BitVec 3) (s : State) (cid : Nat) : Eff :=
  let c := s.ctx cid
  let t := regTok c f.v f.x
  let yes (s : State) : State := s.modCtx cid fun c => if f.nb then c.pendP f.pd.toNat true 1 else c
  if s.buffers cid then
    match s.bufferEff cid (16 + if f.v then 256 else 8) (.xsend core.toNat ctx.toNat f.port.toNat t) with
    | .next s => .next (yes s)
    | e => e
  else if (s.core (coreOf cid)).sendq.length ≥ 16 then
    if f.nb then .next (s.modCtx cid fun c => c.pendP f.pd.toNat false 1) else .hold s
  else .next (yes (s.queueSend cid core.toNat ctx.toNat f.port.toNat t s.ir c.pc))

/-- XSEND (R392). -/
def execXsend (h : Hdr) (f : ChanF) (core : BitVec 11) (ctx : BitVec 3) (s : State) : Step :=
  issue h [] (if f.nb then 1 else 0) (xsendBody f core ctx) s

/-- INJ: one token to the tail of a channel, from an operator of the handler subgraph (R332). -/
def injBody (a : Reg) (v : Bool) (ch : BitVec 14) (s : State) (cid : Nat) : Eff :=
  let c := s.ctx cid
  match s.ctxRun cid with
  | none => .next s
  | some r => match r.graph.chans[ch.toNat]? with
    | none => .trap 0x09 0 0
    | some k =>
      let kind := ((r.node k.pnode).bind fun n => n.portAt k.pport).elim 0 (·.kind)
      if k.selector || k.barrier || kind != kindOf v || !(r.graph.handlerNodes.contains c.role.node) || !c.role.isOp then
        .trap 0x09 0 0
      else if r.freeSlots ch.toNat = 0 then .park s { Park.of .inj with a := ch.toNat }
      else .next (s.modRun r.id fun r => r.launchTok ch.toNat (regTok c v a) (s.cycle (coreOf cid) + 2))

/-- INJ (R332). -/
def execInj (h : Hdr) (a : Reg) (v : Bool) (ch : BitVec 14) (s : State) : Step := issue h [] 0 (injBody a v ch) s

end Sys2Proof.Machine
end

