-- ==== Sys2Proof/Machine/Matrix.lean ====
section
/-! DEFINITION. The matrix engine: bindings, accumulators, tiles and tags, cooperative groups, fires and their residue lane, the
Bellows (09 R233-R248, 10 R266-R272, 17 R450-R456). -/

namespace Sys2Proof.Machine

/-! ## Objects of a core -/

def State.acc (s : State) (core a : Nat) : Acc := tget Acc.init (s.core core).accs a
def State.setAcc (s : State) (core a : Nat) (x : Acc) : State :=
  s.modCore core fun k => { k with accs := tset Acc.init k.accs a x }

def State.slotOf (s : State) (core : Nat) (mantel : Bool) (n : Nat) : Slot :=
  tget Slot.init (if mantel then (s.core core).mantel else (s.core core).tiles) n
def State.setSlotOf (s : State) (core : Nat) (mantel : Bool) (n : Nat) (x : Slot) : State :=
  s.modCore core fun k => if mantel then { k with mantel := tset Slot.init k.mantel n x } else { k with tiles := tset Slot.init k.tiles n x }

/-- An accumulator recorded as accessed by a context's node; none for a ninth distinct node (R225). -/
def State.useAcc (s : State) (cid a : Nat) : Option State :=
  let x := s.acc (coreOf cid) a
  let n := (s.ctx cid).role.node
  if sharersOk x.sharers n then some (s.setAcc (coreOf cid) a { x with sharers := addSharer x.sharers n }) else none

/-- Slots recorded as accessed by a context's node; none for a ninth distinct node of one of them (R225). -/
def State.useSlots (s : State) (cid : Nat) (mantel : Bool) (ns : List Nat) : Option State :=
  ns.foldl (fun so n => so.bind fun s =>
    let x := s.slotOf (coreOf cid) mantel n
    let nd := (s.ctx cid).role.node
    if sharersOk x.sharers nd then some (s.setSlotOf (coreOf cid) mantel n { x with sharers := addSharer x.sharers nd }) else none) (some s)

/-- A fire on an accumulator is in progress. -/
def State.firingOn (s : State) (core a : Nat) : Bool := (s.core core).firing == some a

/-! ## Residues of tiles and rows -/

/-- An element of a tile's data: its pattern. -/
def elemAt (d : Memory) (w byte : Nat) : Nat := mload d byte w

/-- The residue of an element (R276). -/
def elemRes (ty u : Nat) : Nat := resVal (decodeE ty u) 0

/-- The row-sum residues that a Mantel slot stores as it is set FULL under a type (R242). -/
def betaOf (ty : Nat) (d : Memory) (old : Table Nat) : Table Nat :=
  let w := tyW ty
  (List.range (32 / w)).foldl (fun t k =>
    tset 0 t k ((List.range 64).foldl (fun a j => (a + elemRes ty (elemAt d w ((64 * k + j) * w))) % resM) 0)) old

/-- Row `i` of an accumulator passes SealCheck (R243): its residue is that of its stored values. -/
def Acc.rowRes (x : Acc) (i : Nat) : Nat :=
  (List.range 64).foldl (fun a j => (a + resVal (xaVal (tget 0 x.val (64 * i + j)) x.anchor) 0) % resM) 0
def Acc.rowOk (x : Acc) (i : Nat) : Bool := x.xw || tget 0 x.rho i == x.rowRes i

/-- INTEGRITY at a SealCheck: POINT 8 at a seal, 9 at an MREAD, charged to the core alone (R243, R336, R337). -/
def State.sealFault (s : State) (core src point a i : Nat) : State :=
  match s.regionRun core with
  | none => s
  | some r =>
    let x := s.acc core a
    s.integrity r.id src point (64 * a + i) true 0 core 0 core 0 (tget 0 x.rho i) (x.rowRes i)

/-- SealCheck on every row: the first that differs is reported. -/
def State.sealCheck (s : State) (core src a : Nat) : State :=
  match (List.range 64).find? fun i => !(s.acc core a).rowOk i with
  | none => s
  | some i => s.sealFault core src 8 a i

/-- An accumulator whose fires are done and whose partials are all added becomes SEALED, and SealCheck runs (R239, R245, R456). -/
def State.sealIfDone (s : State) (core src a : Nat) : State :=
  let x := s.acc core a
  let done := match x.bind with
    | some b => x.fires == b.k && x.pchunks == 128 * x.parts
    | none => x.parts ≠ 0 && x.pchunks == 128 * x.parts
  if done && x.st != .sealed then (s.setAcc core a { x with st := .sealed }).sealCheck core src a else s

/-! ## Tags -/

/-- A tag takes effect: FULL stores β first for a Mantel slot (R242, R452). -/
def State.putTag (s : State) (core : Nat) (q : TagReq) : State :=
  let x := s.slotOf core q.mantel q.slot
  if x.full == q.full then s
  else s.setSlotOf core q.mantel q.slot
    { x with full := q.full, beta := if q.full && q.mantel then betaOf q.ty x.data x.beta else x.beta }

/-- The slots that a binding's next fire reads: an A slot, and the B tile's one or two Mantel slots (R238). -/
def maskSlots (m : Nat) : List Nat := (List.range 8).filter fun i => bitAt m i
def Acc.aSlot (x : Acc) (b : Binding) : Nat :=
  let l := maskSlots b.amask
  l.getD (x.fires % l.length) 0
def Acc.bSlots (x : Acc) (b : Binding) : List Nat :=
  let t := (b.base + x.fires * b.stride) % 256
  if tyW b.ty = 2 then [t, (t + 1) % 256] else [t]

/-- Whether a fire in progress reads a slot. -/
def State.firesOn (s : State) (core : Nat) (mantel : Bool) (n : Nat) : Bool :=
  match (s.core core).firing with
  | none => false
  | some a => match (s.acc core a).bind with
    | none => false
    | some b => if mantel then ((s.acc core a).bSlots b).contains n else (s.acc core a).aSlot b == n

/-- The tag that a slot holds once the changes that wait for it are made. -/
def State.tagNext (s : State) (core : Nat) (mantel : Bool) (n : Nat) : Bool :=
  match ((s.core core).tagq.filter fun t => t.mantel == mantel && t.slot == n).getLast? with
  | some t => t.full
  | none => (s.slotOf core mantel n).full

/-- A tag change: at once, or when the fire that reads the slot ends; none where the slot holds that tag already (R452). -/
def State.tag (s : State) (core : Nat) (q : TagReq) : State :=
  if s.tagNext core q.mantel q.slot == q.full then s
  else if s.firesOn core q.mantel q.slot then s.modCore core fun k => { k with tagq := k.tagq ++ [q] } else s.putTag core q

/-! ## The words -/

/-- MBIND's feature by its type (R88). -/
def bindFeats (ty : Nat) : List (Nat × Nat) := [(0, if ty ≤ 1 then 5 else if ty ≤ 9 then 6 else 7)]

/-- MBIND (R237, R241). -/
def mbindBody (f : BindF) (s : State) (cid : Nat) : Eff :=
  let k := coreOf cid
  let a := f.acc.toNat
  let m := f.amask.toNat
  let x := s.acc k a
  let odd := tyW f.ty.toNat = 2 && (f.base.toNat % 2 = 1 || f.stride.toNat % 2 = 1)
  let clash := (List.range 4).any fun i => match (s.acc k i).bind with
    | some b => b.amask &&& m ≠ 0 && (f.ca || b.ca)
    | none => false
  if x.bind.isSome || odd || clash then .trap 0x0B 0 0
  else match s.useAcc cid a with
  | none => .trap 0x0B 0 0
  | some s =>
    let b : Binding :=
      { k := f.k.toNat, stride := f.stride.toNat, base := f.base.toNat, amask := m, ty := f.ty.toNat, ca := f.ca, cb := f.cb }
    let x := s.acc k a
    .next (s.setAcc k a { x with
      bind := some b, fires := 0, st := if x.st = .sealed then .accum else x.st
      pchunks := if x.st = .sealed then 0 else x.pchunks })

/-- MBIND (R450). -/
def execMbind (h : Hdr) (f : BindF) (s : State) : Step := issue h (bindFeats f.ty.toNat) 0 (certain (mbindBody f)) s

/-- MUNBIND: waits until no fire on the accumulator is in progress and its queue is empty (R241). -/
def munbindBody (d : Nat) (s : State) (cid : Nat) : Eff :=
  let x := s.acc (coreOf cid) d
  if x.bind.isNone then .trap 0x0B 0 0
  else match s.useAcc cid d with
  | none => .trap 0x0B 0 0
  | some s =>
    if s.firingOn (coreOf cid) d || !x.queue.isEmpty then .park s { Park.of .munbind with a := d }
    else .next (s.setAcc (coreOf cid) d { s.acc (coreOf cid) d with bind := none })

/-- MUNBIND (R450). -/
def execMunbind (h : Hdr) (d : Reg) (s : State) : Step := issue h [] 0 (certain (munbindBody d.toNat)) s

/-- MZERO (R236, R241). -/
def mzeroBody (d : Nat) (s : State) (cid : Nat) : Eff :=
  if (s.acc (coreOf cid) d).bind.isSome then .trap 0x0B 0 0
  else match s.useAcc cid d with
  | none => .trap 0x0B 0 0
  | some s =>
    let x := s.acc (coreOf cid) d
    .next (s.setAcc (coreOf cid) d { x with val := [], rho := [], anchor := 0, xw := false, fires := 0, st := .empty, pchunks := 0 })

/-- MZERO (R450). -/
def execMzero (h : Hdr) (d : Reg) (s : State) : Step := issue h [] 0 (certain (mzeroBody d.toNat)) s

/-- MREAD: a read token in the accumulator's queue (R240, R453). -/
def mreadBody (f : MReadF) (s : State) (cid : Nat) : Eff :=
  let c := s.ctx cid
  let a := f.a.toNat
  let x := s.acc (coreOf cid) a
  let row := (c.xr f.b).toNat
  let bad := match x.bind with
    | none => x.st != .sealed
    | some b => f.f.toNat = 0 || f.f.toNat > b.k || f.f.toNat < x.fires
  if row > 63 || bad then .trap 0x0B 0 0
  else match s.useAcc cid a with
  | none => .trap 0x0B 0 0
  | some s =>
    if x.queue.length ≥ 16 then .park s { Park.of .mreadFull with a := a }
    else
      let t : MToken :=
        { f := f.f.toNat, row := row, ty := f.ty.toNat, rm := rmMode c f.rm, cid := cid, d := f.d.toNat, node := c.role.node }
      let x := s.acc (coreOf cid) a
      .wait (s.setAcc (coreOf cid) a { x with queue := x.queue ++ [t] }) { Park.of .mread with a := a }

/-- MREAD (R453). -/
def execMread (h : Hdr) (f : MReadF) (s : State) : Step := issue h [] 13 (certain (mreadBody f)) s

/-- MSEAL: TILE if EMPTY, no effect if SEALED, else SEALED once no fire on it is in progress (R241, R450). -/
def msealBody (d : Nat) (s : State) (cid : Nat) : Eff :=
  let k := coreOf cid
  if (s.acc k d).st = .empty then .trap 0x0B 0 0
  else match s.useAcc cid d with
  | none => .trap 0x0B 0 0
  | some s =>
    if (s.acc k d).st = .sealed then .next s
    else if s.firingOn k d then .park s { Park.of .mseal with a := d }
    else .next ((s.setAcc k d { s.acc k d with st := .sealed }).sealCheck k (srcOfCid cid) d)

/-- MSEAL (R450). -/
def execMseal (h : Hdr) (d : Reg) (s : State) : Step := issue h [] 0 (certain (msealBody d.toNat)) s

/-- What MSTAT reads (R454). -/
def Acc.stat (x : Acc) : Word :=
  let st := match x.st with | .empty => 0 | .accum => 1 | .sealed => 2
  BitVec.ofNat 64 (st + (if x.bind.isSome then 4 else 0) + (if x.xw then 8 else 0) + (x.bind.elim 0 (·.ty)) * 2 ^ 4 +
    x.queue.length * 2 ^ 11 + x.fires * 2 ^ 16 + (if x.st = .empty then 0 else x.anchor.toNat) * 2 ^ 32 + (x.bind.elim 0 (·.k)) * 2 ^ 48)

/-- MSTAT (R454). -/
def mstatBody (d a : Reg) (s : State) (cid : Nat) : Eff :=
  match s.useAcc cid a.toNat with
  | none => .trap 0x0B 0 0
  | some s => .next (s.modCtx cid fun c => c.pendX d (s.acc (coreOf cid) a.toNat).stat 2)

/-- MSTAT (R454). -/
def execMstat (h : Hdr) (d a : Reg) (s : State) : Step := issue h [] 1 (certain (mstatBody d a)) s

/-- The rows an MCHK finds different (R454). -/
def Acc.checkBits (x : Acc) : Word :=
  if x.st = .empty || x.xw then 0
  else BitVec.ofNat 64 ((List.range 64).foldl (fun m i => if x.rowOk i then m else m + 2 ^ i) 0)

/-- MCHK: the check of all rows, without sealing, once no fire on the accumulator is in progress (R454). -/
def mchkBody (d a : Reg) (s : State) (cid : Nat) : Eff :=
  match s.useAcc cid a.toNat with
  | none => .trap 0x0B 0 0
  | some s =>
    if s.firingOn (coreOf cid) a.toNat then .park s { Park.of .mchk with a := a.toNat }
    else .wait (s.modCtx cid fun c => c.stage [rwX d.toNat (s.acc (coreOf cid) a.toNat).checkBits] 0) (Park.of .landing)

/-- MCHK (R454). -/
def execMchk (h : Hdr) (d a : Reg) (s : State) : Step := issue h [] 13 (certain (mchkBody d a)) s

/-- Where a row of a tile stands: the slot, its byte there, and its length; none where R451 raises TILE. -/
def rowAt (ty : Nat) (mantel : Bool) (slot row : Nat) : Option (Nat × Nat × Nat) :=
  let w := tyW ty
  if !mantel then (if row ≥ 64 then none else some (slot, 32 * row * w, 32 * w))
  else if row ≥ 32 || (w = 2 && slot % 2 = 1) then none
  else some (slot + 64 * row * w / 2048, 64 * row * w % 2048, 64 * w)

/-- The interval of a row in its space (R445). -/
def rowSpan (mantel : Bool) (p : Nat × Nat × Nat) : Int × Int :=
  let b : Nat := p.1 * (if mantel then 2048 else 4096) + p.2.1
  ((b : Int), ((b + p.2.2 : Nat) : Int))

/-- TWRV (R451). -/
def twrvBody (ty : BitVec 4) (mantel : Bool) (slot : BitVec 8) (a b : Reg) (s : State) (cid : Nat) : Eff :=
  let c := s.ctx cid
  match rowAt ty.toNat mantel slot.toNat (c.xr a).toNat with
  | none => .trap 0x0B 0 0
  | some p =>
    if s.acquiring cid then .park s { Park.of .fence with a := 1 }
    else if (s.slotOf (coreOf cid) mantel p.1).full then .trap 0x0B 0 0
    else match s.useSlots cid mantel [p.1] with
    | none => .trap 0x0B 0 0
    | some s =>
      if s.interlocked cid (if mantel then 2 else 3) [rowSpan mantel p] then .park s (s.interlockPark cid (if mantel then 2 else 3) [rowSpan mantel p])
      else
        let x := s.slotOf (coreOf cid) mantel p.1
        .next (s.setSlotOf (coreOf cid) mantel p.1 { x with data := mwrite x.data p.2.1 (natLe p.2.2 (c.vr b).toNat) })

/-- TWRV (R451). -/
def execTwrv (h : Hdr) (ty : BitVec 4) (mantel : Bool) (slot : BitVec 8) (a b : Reg) (s : State) : Step :=
  issue h [] 0 (certain (twrvBody ty mantel slot a b)) s

/-- TRDV (R451). -/
def trdvBody (ty : BitVec 4) (mantel : Bool) (slot : BitVec 8) (d a : Reg) (s : State) (cid : Nat) : Eff :=
  let c := s.ctx cid
  match rowAt ty.toNat mantel slot.toNat (c.xr a).toNat with
  | none => .trap 0x0B 0 0
  | some p =>
    if s.acquiring cid then .park s { Park.of .fence with a := 1 }
    else match s.useSlots cid mantel [p.1] with
    | none => .trap 0x0B 0 0
    | some s =>
      if s.interlocked cid (if mantel then 2 else 3) [rowSpan mantel p] then .park s (s.interlockPark cid (if mantel then 2 else 3) [rowSpan mantel p])
      else .next (s.modCtx cid fun c =>
        c.pendV d (BitVec.ofNat 2048 (mload (s.slotOf (coreOf cid) mantel p.1).data p.2.1 p.2.2)) 4)

/-- TRDV (R451). -/
def execTrdv (h : Hdr) (ty : BitVec 4) (mantel : Bool) (slot : BitVec 8) (d a : Reg) (s : State) : Step :=
  issue h [] 1 (certain (trdvBody ty mantel slot d a)) s

/-- TTAG and MNTAG on a list of slots (R452). -/
def tagBody (ty : Nat) (mantel : Bool) (slots : List Nat) (full : Bool) (s : State) (cid : Nat) : Eff :=
  match s.useSlots cid mantel slots with
  | none => .trap 0x0B 0 0
  | some s => .next (slots.foldl (fun s n => s.tag (coreOf cid) { slot := n, mantel := mantel, full := full, ty := ty }) s)

/-- TTAG (R452). -/
def execTtag (h : Hdr) (slot : BitVec 8) (full : Bool) (s : State) : Step :=
  issue h [] 0 (certain (tagBody 0 false [slot.toNat] full)) s

/-- MNTAG: both slots of a 16-bit tile (R452). -/
def mntagBody (ty : BitVec 4) (slot : BitVec 8) (full : Bool) (s : State) (cid : Nat) : Eff :=
  if tyW ty.toNat = 2 then
    if slot.toNat % 2 = 1 then .trap 0x0B 0 0 else tagBody ty.toNat true [slot.toNat, slot.toNat + 1] full s cid
  else tagBody ty.toNat true [slot.toNat] full s cid

/-- MNTAG (R452). -/
def execMntag (h : Hdr) (ty : BitVec 4) (slot : BitVec 8) (full : Bool) (s : State) : Step :=
  issue h [] 0 (certain (mntagBody ty slot full)) s

/-! ## Cooperative groups (R244, R245, R455, R456) -/

def grpParts (w : Word) : Nat := bits w.toNat 32 8
def grpFirst (w : Word) : Nat := bits w.toNat 16 16
def grpNq (w : Word) : Nat := bits w.toNat 8 4
def grpId (w : Word) : Nat := bits w.toNat 0 4

def insertNat (x : Nat) : List Nat → List Nat
  | [] => [x]
  | y :: l => if x ≤ y then x :: y :: l else y :: insertNat x l

/-- The members of a group, in ascending core id: the ranks (R244, R455). -/
def grpMembers (w : Word) : List Nat :=
  let q := grpFirst w
  ((List.range (grpNq w)).flatMap fun i => [q + 2 * i, q + 2 * i + 1, q + 2 * i + 32, q + 2 * i + 33]).foldr insertNat []

/-- MGROUP's TILE cases. -/
def grpBad (s : State) (cid : Nat) (r : Run) (w : Word) : Bool :=
  let k := coreOf cid
  let q := grpFirst w
  bits w.toNat 40 24 ≠ 0 || bits w.toNat 12 4 ≠ 0 || bits w.toNat 4 4 ≠ 0 || grpNq w = 0 || grpNq w > 8 || grpParts w > 31 ||
  q ≥ 2048 || quadOf q ≠ q || colOf q + 2 * grpNq w > 32 || !(grpMembers w).all (r.covers ·) || !(grpMembers w).contains k ||
  (s.core k).groups.any fun g => g.gid == grpId w && g.desc != w

/-- Every member core has issued MGROUP with this descriptor. -/
def State.grpComplete (s : State) (w : Word) : Bool :=
  (grpMembers w).all fun k => (s.core k).groups.any fun g => g.gid == grpId w && g.desc == w

/-- A core joins a group: from now on its accumulators expect the group's partials, and one that has them all becomes SEALED (R455, R456,
assumption 21). -/
def State.joinGroup (s : State) (cid : Nat) (w : Word) : State :=
  let k := coreOf cid
  (List.range 4).foldl (fun s i => (s.setAcc k i { s.acc k i with parts := grpParts w }).sealIfDone k (srcOfCid cid) i)
    (s.modCore k fun x => { x with groups := x.groups ++ [{ gid := grpId w, desc := w }] })

/-- MGROUP: the join, then the wait for every member (R455). -/
def mgroupBody (d a : Reg) (s : State) (cid : Nat) : Eff :=
  let k := coreOf cid
  let w := (s.ctx cid).xr a
  match s.ctxRun cid with
  | none => .next s
  | some r =>
    if grpBad s cid r w then .trap 0x0B 0 0
    else
      let s := if (s.core k).groups.any fun g => g.gid == grpId w then s else s.joinGroup cid w
      if s.grpComplete w then
        .wait (s.modCtx cid fun c => c.stage [rwX d.toNat (BitVec.ofNat 64 ((grpMembers w).idxOf k))] 0) (Park.of .landing)
      else .park s { Park.of .mgroup with l := [w.toNat] }

/-- MGROUP (R455). -/
def execMgroup (h : Hdr) (d a : Reg) (s : State) : Step := issue h [(0, 8)] 13 (certain (mgroupBody d a)) s

/-- The 128 XA chunks of an accumulator: row i in chunks 2i and 2i + 1, PARTIAL where XW is set (R243, R245, R269). -/
def Acc.chunk (x : Acc) (run core n : Nat) : Token :=
  let p := (List.range 32).foldl (fun (p : Nat) i => p + (tget 0 x.val (64 * (n / 2) + 32 * (n % 2) + i)).toNat * 2 ^ (128 * i)) 0
  sealChunk 13 0 x.anchor run 0 n 0 core x.xw false (BitVec.ofNat 4096 p)

/-- MREDUCE (R456). -/
def mreduceBody (d a : Reg) (acc : BitVec 4) (s : State) (cid : Nat) : Eff :=
  let k := coreOf cid
  let w := ((s.ctx cid).xr a).toNat
  let rank := bits w 0 5
  match (s.core k).groups.find? fun g => g.gid == bits w 8 4 with
  | none => .trap 0x0B 0 0
  | some g =>
    let ms := grpMembers g.desc
    match ms[rank]? with
    | none => .trap 0x0B 0 0
    | some dst =>
      if (s.acc k d.toNat).st != .sealed || dst = k || bits w 5 3 ≠ 0 || w ≥ 2 ^ 12 then .trap 0x0B 0 0
      else match s.useAcc cid d.toNat with
      | none => .trap 0x0B 0 0
      | some s =>
        let run := (s.ctx cid).role.run.getD 0
        let cs := (List.range 128).map fun n =>
          { run := run, srcCid := cid, core := dst, acc := acc.toNat, tok := (s.acc k d.toNat).chunk run k n, word := s.ir, pc := (s.ctx cid).pc
            node := (s.ctx cid).role.node, fireno := (s.ctx cid).workNo : XChunk }
        .wait { s with xchunks := s.xchunks ++ cs } (Park.of .mreduce)

/-- MREDUCE (R456). -/
def execMreduce (h : Hdr) (d a : Reg) (acc : BitVec 4) (s : State) : Step :=
  issue h [(0, 8)] 0 (certain (mreduceBody d a acc)) s

/-- MREDUCE_RECEIPT: the `idx`th chunk that travels, the oldest from its sender to its accumulator (R245, R272, R456). -/
def execMreduceReceipt (s : State) : Step :=
  let n := s.ev.idx
  .next (match s.xchunks[n]? with
    | none => s
    | some q =>
      if (s.xchunks.take n).any fun x => x.srcCid == q.srcCid && x.core == q.core && x.acc == q.acc then s
      else
        let s := { s with xchunks := dropAt n s.xchunks }
        let s := (List.range 8).foldl (fun s i => s.modCtx (q.core * 8 + i) fun c => { c with idle := none }) s
        let x := s.acc q.core q.acc
        match q.tok with
        | .chunk h p =>
          if x.st = .sealed then
            s.raiseFree q.run 0x0B
              { code := 0x0B, vd := ((s.run q.run).map (·.vd)).getD 0, inst := q.run % 2 ^ 16, src := srcOfCid q.srcCid, isOver := false
                time := s.time, body := fltBody q.word q.pc q.node false 0 0 q.fireno (s.cycle q.core), run := none, held := none }
          else match checkChunk h p 0 q.core with
          | .bad found => s.integrity q.run (srcOfCid (q.core * 8)) 1 0 false h.vkind h.vid 0 q.core h.ident h.res found
          | .ok h p =>
            let anchor := if x.st = .empty then h.anchor else x.anchor
            let base := 32 * (h.seq % 128)
            let res := (List.range 32).map fun i => (base + i, xaAlign (tget 0 x.val (base + i)) anchor (BitVec.ofNat 128 (plane p 16 i)) h.anchor)
            let row := h.seq % 128 / 2
            let rho := (tget 0 x.rho row +
              (List.range 32).foldl (fun a i => (a + resVal (xaVal (BitVec.ofNat 128 (plane p 16 i)) h.anchor) 0) % resM) 0) % resM
            let x' := { x with
              val := res.foldl (fun t r => tset 0 t r.1 r.2.n) x.val, anchor := anchor, rho := tset 0 x.rho row rho
              xw := x.xw || h.partialF || res.any (fun r => r.2.xw), st := .accum, pchunks := x.pchunks + 1 }
            let s := (s.setAcc q.core q.acc x').sealIfDone q.core (srcOfCid (q.core * 8)) q.acc
            if res.any fun r => r.2.accwin then
              s.accwin q.run (srcOfCid (q.core * 8)) 3 q.acc ((x.sharers.head?).getD 0xFFFF) (s.cycle q.core)
            else s
        | _ => s)

/-! ## Fires (R238, R239) -/

/-- An MSEAL waits for the fire in progress on an accumulator: no fire that has not started will (R241). -/
def State.sealing (s : State) (core a : Nat) : Bool :=
  (List.range 8).any fun i => (s.ctx (core * 8 + i)).park.any fun p => p.kind == ParkKind.mseal && p.a == a

/-- A binding may start its next fire, the Bellows apart (R238). -/
def State.eligible (s : State) (core a : Nat) : Bool :=
  let x := s.acc core a
  match x.bind with
  | none => false
  | some b =>
    (s.slotOf core false (x.aSlot b)).full && (x.bSlots b).all (fun t => (s.slotOf core true t).full) && x.st != .sealed &&
    x.fires < b.k && !(s.sealing core a) && !x.queue.any fun t => t.f == x.fires

/-- The first eligible binding after the accumulator the array last started on (R238). -/
def State.nextFire (s : State) (core : Nat) : Option Nat :=
  ((List.range 4).map fun i => ((s.core core).lastAcc + 1 + i) % 4).find? fun a => s.eligible core a

/-- The exact effect of a fire on one accumulator: values, residues and whether an element left its window (R239). -/
def fireAcc (x : Acc) (b : Binding) (ad : Memory) (bd : List Slot) : Acc × Bool :=
  let w := tyW b.ty
  let ua (i k : Nat) : Nat := elemAt ad w ((32 * i + k) * w)
  let ub (k j : Nat) : Nat :=
    let y := (64 * k + j) * w
    elemAt (bd.getD (y / 2048) Slot.init).data w (y % 2048)
  let beta (k : Nat) : Nat := if w = 2 then tget 0 (bd.getD (k / 16) Slot.init).beta (k % 16) else tget 0 (bd.getD 0 Slot.init).beta k
  let anchor := if x.st = .empty then
      anchorOf b.ty ((List.range 2048).map fun n => elemAt ad w (n * w)) ((List.range 2048).map fun n => ub (n / 64) (n % 64))
    else x.anchor
  let cells := (List.range 4096).map fun n =>
    (n, xaSum (tget 0 x.val n) anchor ((List.range 32).map fun k => prodF (decodeE b.ty (ua (n / 64) k)) (decodeE b.ty (ub k (n % 64)))))
  let rho := (List.range 64).foldl (fun t i =>
    tset 0 t i ((List.range 32).foldl (fun a k => (a + elemRes b.ty (ua i k) * beta k) % resM) (tget 0 t i))) x.rho
  ({ x with
     val := cells.foldl (fun t c => tset 0 t c.1 c.2.n) x.val, rho := rho, anchor := anchor
     xw := x.xw || cells.any (fun c => c.2.xw), fires := x.fires + 1, st := .accum },
   cells.any fun c => c.2.accwin)

/-- A fire ends: its whole effect, in its last cycle, then the tag changes that waited for it (R239, R452). A halted region's stops at once (R328). -/
def State.endFire (s : State) (core a : Nat) : State :=
  let x := s.acc core a
  let s := s.modCore core fun k => { k with firing := none }
  match x.bind, s.regionRun core with
  | some b, some r =>
    if !r.works then s
    else
      let sa := x.aSlot b
      let sb := x.bSlots b
      let (x', win) := fireAcc x b (s.slotOf core false sa).data (sb.map fun t => s.slotOf core true t)
      let s := s.setAcc core a x'
      let empty (s : State) (mantel : Bool) (n : Nat) : State := s.setSlotOf core mantel n { s.slotOf core mantel n with full := false }
      let s := if b.ca then empty s false sa else s
      let s := if b.cb then sb.foldl (fun s t => empty s true t) s else s
      let q := (s.core core).tagq
      let s := q.foldl (fun s t => s.putTag core t) (s.modCore core fun k => { k with tagq := [] })
      let s := s.sealIfDone core (srcOfCid (core * 8)) a
      if win then s.accwin r.id (srcOfCid (core * 8)) 3 a ((x.sharers.head?).getD 0xFFFF) (s.cycle core) else s
  | _, _ => s

/-- The Bellows lets a real fire start: in a cycle of the microsecond that its bounds stand for (R246). -/
def Die.permits (d : Die) : Bool := d.cyc < d.fclk && d.fNow * d.fclk < d.hi * (d.cyc + 1)

/-- The fire that a core's array could start, the Bellows apart: none in a halted region or while a cut stops its fires (R174, R238, R328). -/
def State.canFire (s : State) (core : Nat) : Option Nat :=
  if (s.core core).stopFires || !((s.regionRun core).any (·.works)) then none else s.nextFire core

/-- FIRE: the array of core `unit` ends the fire whose cycles have run, or else starts the next eligible one (R238, R239). -/
def execFire (s : State) : Step :=
  let core := s.ev.unit
  let k := s.core core
  .next (match k.firing with
    | some a => if k.fireLeft = 0 then s.endFire core a else s
    | none =>
      if k.dummy || !(s.die (dieOf core)).permits then s
      else match s.canFire core with
      | none => s
      | some a =>
        let u := match (s.acc core a).bind with | some b => tyW b.ty | none => 1
        (s.modCore core fun k => { k with firing := some a, fireLeft := 64 * u, lastAcc := a }).modDie (dieOf core) fun d =>
          { d with fNow := d.fNow + u })

/-- MREAD_SERVE: the token at the head of accumulator `sub` of core `unit` is served (R240, R243, R453). -/
def execMreadServe (s : State) : Step :=
  let core := s.ev.unit
  let a := s.ev.sub
  let x := s.acc core a
  .next (match x.queue with
    | [] => s
    | t :: rest =>
      if (x.bind.isSome && t.f ≠ x.fires) || 2 ^ 64 ≤ t.cid then s
      else if !((s.regionRun core).any (·.works)) then s
      else
        let s := s.setAcc core a { x with queue := rest }
        if !x.rowOk t.row then
          (s.sealFault core (srcOfCid t.cid) 9 a t.row).modCtx t.cid fun c =>
            { c with park := c.park.map fun p => { p with kind := .held } }
        else
          let rs := (List.range 64).map fun j => roundXA (tget 0 x.val (64 * t.row + j)) x.anchor t.ty t.rm
          let v := mkVec (tyW t.ty) fun j => match rs[j]? with | some r => r.1 | none => 0
          s.modCtx t.cid fun c =>
            (c.stage [rwV t.d v] 0).orFlags (rs.foldl (fun f r => f ||| r.2) (if x.xw then flXW else 0)))

/-! ## The Bellows (R246-R248) -/

/-- BELLOWS_TICK: die `unit` begins a microsecond of the package time base. -/
def execBellowsTick (s : State) : Step :=
  .next (s.modDie s.ev.unit fun d =>
    if d.cyc < d.fclk then d
    else
      let lo := d.fNow - d.dmax
      { d with fPrev := d.fNow, fNow := 0, cyc := 0, lo := lo, hi := Nat.max lo (Nat.min d.fceil (d.fNow + d.dmax)) })

/-- DUMMY_FIRE: the lowest array of die `unit` with no eligible fire starts a dummy fire while the units lag Lo (R246). -/
def execDummyFire (s : State) : Step :=
  let n := s.ev.unit
  let d := s.die n
  .next (if d.cyc < d.fclk && d.fNow * d.fclk < d.lo * d.cyc then
    match (List.range 512).find? fun i =>
      (s.core (n * 512 + i)).firing.isNone && !(s.core (n * 512 + i)).dummy && (s.canFire (n * 512 + i)).isNone with
    | none => s
    | some i => (s.modCore (n * 512 + i) fun k => { k with dummy := true, fireLeft := 64 }).modDie n fun d =>
      { d with fNow := d.fNow + 1, dummyCount := (d.dummyCount + 1) % 2 ^ 32 }
    else s)

end Sys2Proof.Machine
end

