-- ==== Sys2Proof/Machine/Copy.lean ====
section
/-! DEFINITION. Shape registers and the copy engine: SHSET, SHGET, COPY, COPYG, COPYS and the steps of a copy in flight (09 R231, R232,
R249-R252, 17 R443-R449). -/

namespace Sys2Proof.Machine

/-! ## SHSET and SHGET (R444) -/

/-- The first bit and the width of the field a T1 code names. -/
def shField (t : Nat) : Nat × Nat :=
  match t with
  | 0 => (0, 64)
  | 1 => (64, 32) | 2 => (96, 32) | 3 => (128, 32) | 4 => (160, 32)
  | 5 => (192, 64) | 6 => (256, 64) | 7 => (320, 64) | 8 => (384, 64)
  | 9 => (448, 8) | 10 => (456, 8) | 11 => (464, 8) | _ => (472, 8)

/-- A shape image with one field replaced. -/
def shPut (b : ShapeBits) (t : Nat) (v : Word) : ShapeBits :=
  let (lo, n) := shField t
  let m : ShapeBits := BitVec.ofNat 512 (2 ^ n - 1) <<< lo
  (b &&& ~~~m) ||| ((v.setWidth 512 <<< lo) &&& m)

/-- SHSET (R444). -/
def execShset (h : Hdr) (d a : Reg) (field : BitVec 4) (s : State) : Step :=
  issue h [] 1 (fun s cid => .next (s.modCtx cid fun c =>
    c.pendW .s d.toNat ((shPut (c.sr d.toNat) field.toNat (c.xr a)).setWidth 2048) 1)) s

/-- SHGET (R444). -/
def execShget (h : Hdr) (d a : Reg) (field : BitVec 4) (s : State) : Step :=
  issueX h d 2 (fun c => BitVec.ofNat 64 (bits (c.sr a.toNat).toNat (shField field.toNat).1 (shField field.toNat).2)) s

/-! ## Copies at issue (R446, R447) -/

/-- A shape that R232 refuses. -/
def shInvalid (b : ShapeBits) : Bool :=
  let w := b.toNat
  (List.range 4).any (fun k => bits w (64 + 32 * k) 25 = 0 || bits w (64 + 32 * k) 25 > 2 ^ 24 || bits w (89 + 32 * k) 7 ≠ 0) ||
  bits w 480 32 ≠ 0 || bits w 450 6 ≠ 0 || bits w 460 3 ≠ 0 || shBase b % shElem b ≠ 0 || shPortDim b ≠ 0

/-- Bytes of a local space; none for device memory. -/
def spaceLen (sp : Nat) : Option Nat := match sp with | 0 => none | 3 => some 0x8000 | _ => some 0x80000

/-- The bounding range of a list of spans. -/
def bounding (l : List (Int × Int)) : Int × Int :=
  match l with
  | [] => (0, 0)
  | x :: xs => xs.foldl (fun b y => (min b.1 y.1, max b.2 y.2)) x

/-- Elements an index vector holds for a shape. -/
def indexCount (b : ShapeBits) : Nat := if shTyValid b && shTy b == 6 then 32 else 64

/-- Whether an affine device range lies in the node's ranges (R447 test 8); a read may also lie where no range is asked (R424). -/
def copyAdmits (c : Ctx) (r : Run) (write : Bool) (sp : Int × Int) : Bool :=
  let a := sp.1.toNat
  let len := (sp.2 - sp.1).toNat
  sp.1 ≥ 0 && (r.graph.ranges.any (fun g => g.admits c c.role.node (if write then .write else .read) a len) || (!write && exempt r a len))

/-- What of its issuing context a copy in flight is tested under: the copy runs on when that context ends or switches away (R249). -/
def Copy.issuer (p : Copy) : Ctx := { Ctx.init with role := p.role, argbase := p.arg, arrivedBars := p.arrived, departedBars := p.departed }

/-- The ring whose slots a core-memory range overlaps (R218). -/
def Run.ringAt (r : Run) (core : Nat) (sp : Int × Int) : Option Ring :=
  r.rings.find? fun g => g.core == core && (g.base : Int) < sp.2 && sp.1 < ((g.base + g.bytes : Nat) : Int)

/-- The banks of core memory a copy's range touches. -/
def banksOf (sp : Int × Int) : List Nat := (List.range 16).filter fun b => sp.1 < ((b + 1) * 0x8000 : Nat) && ((b * 0x8000 : Nat) : Int) < sp.2

/-- The tests 1 to 9 of R447, and the handoff of a bank (R126): the first failure decides, with its INFO. -/
def copyTest (r : Run) (core : Nat) (c : Ctx) (p : Copy) : Option (Nat × Nat) :=
  let ix := if p.mode = 1 then some p.src else if p.mode = 2 then some p.dst else none
  let idxBad (b : ShapeBits) : Bool :=
    shIndex b ≠ 1 || shExt b 2 ≠ 1 || shExt b 3 ≠ 1 || shExt b 1 > indexCount b
  let affine := (if p.mode = 1 then [] else [(p.ssp, p.src, p.soff)]) ++ (if p.mode = 2 then [] else [(p.dsp, p.dst, p.doff)])
  let sb := bounding p.srcSpans
  let db := bounding p.dstSpans
  let cm := (if p.ssp = 1 then [sb] else []) ++ (if p.dsp = 1 then [db] else [])
  if shInvalid p.src || shInvalid p.dst then some (0x0C, 0)
  else if shElog p.src ≠ shElog p.dst || shCount p.src ≠ shCount p.dst then some (0x0C, 0)
  else if affine.any (fun x => shIndex x.2.1 ≠ 0) || (match ix with | some b => idxBad b | none => false) then some (0x0C, 0)
  else if p.dsp = 2 && p.sf && !(shTyValid p.dst && (shTy p.dst ≤ 1 || (8 ≤ shTy p.dst && shTy p.dst ≤ 11))) then some (0x0C, 0)
  else if p.soff % shElem p.src ≠ 0 || p.doff % shElem p.dst ≠ 0 then some (0x04, 0)
  else if affine.any (fun x => match spaceLen x.1 with
      | some n => (spans x.2.1 x.2.2 none).any fun sp => sp.1 < 0 || (n : Int) < sp.2
      | none => false) then some (0x06, 0)
  else if p.ssp = p.dsp && sb.1 < db.2 && db.1 < sb.2 then some (0x0C, 0)
  else if (p.ssp = 0 && p.mode ≠ 1 && !copyAdmits c r false sb) || (p.dsp = 0 && p.mode ≠ 2 && !copyAdmits c r true db) then some (0x07, 0)
  else if c.role.isOp && cm.any (fun sp => (banksOf sp).any fun b => r.bankGone c.role.node b c.fireno.toNat) then some (0x07, 0)
  else match cm.findSome? fun sp => r.ringAt core sp with
  | some g => some (0x0D, g.id)
  | none => none

/-- The local slots that a copy's spans touch in a slot space. -/
def slotsOfSpans (sp : Nat) (l : List (Int × Int)) : List Nat :=
  let g : Int := grain sp
  (List.range (if sp = 2 then 256 else 8)).filter fun (n : Nat) => l.any fun x => x.1 < ((n : Int) + 1) * g && (n : Int) * g < x.2

/-- The slots a copy names, recorded as accessed by its node (R225). -/
def State.useCopySlots (s : State) (cid : Nat) (p : Copy) : Option State :=
  let one (s : State) (sp : Nat) (l : List (Int × Int)) : Option State :=
    if sp = 2 then s.useSlots cid true (slotsOfSpans 2 l) else if sp = 3 then s.useSlots cid false (slotsOfSpans 3 l) else some s
  (one s p.ssp p.srcSpans).bind fun s => one s p.dsp p.dstSpans

/-- The banks a copy names, recorded as accessed by its node (R175). -/
def State.useCopyBanks (s : State) (cid : Nat) (p : Copy) : State :=
  let bs := (if p.ssp = 1 then banksOf (bounding p.srcSpans) else []) ++ (if p.dsp = 1 then banksOf (bounding p.dstSpans) else [])
  s.touchBanks cid (bs.map fun b => { ea := b * 0x8000, len := 1, off := 0 })

/-- A copy at issue: `mode` 0 affine, 1 indexed source, 2 indexed destination (R445-R447). -/
def copyBody (mode : Nat) (f : CopyF) (s : State) (cid : Nat) : Eff :=
  let c := s.ctx cid
  match s.ctxRun cid with
  | none => .next s
  | some r =>
    let k := s.core (coreOf cid)
    let p : Copy :=
      { tag := k.copyCount, cid := cid, run := r.id, node := c.role.node, mode := mode, src := c.sr f.a.toNat, dst := c.sr f.d.toNat
        soff := if mode = 0 then (c.xr f.c).toNat else 0, doff := (c.xr f.b).toNat, idx := if mode = 0 then 0 else c.vr f.c
        ssp := f.ssp.toNat, dsp := f.dsp.toNat, sf := f.sf, k := 0, count := shCount (c.sr f.a.toNat), word := s.ir, pc := c.pc
        done := false, failed := false, since := s.cycle (coreOf cid), role := c.role, fireno := c.workNo, arg := c.argbase, arrived := c.arrivedBars, departed := c.departedBars
        paid := 0, stood := s.now, secs := [], lat := [] }
    let cm := (if p.ssp = 1 then [bounding p.srcSpans] else []) ++ (if p.dsp = 1 then [bounding p.dstSpans] else [])
    match copyTest r (coreOf cid) c p with
    | some (code, info) => .trap code info 0
    | none =>
      if (p.ssp = 0 || p.dsp = 0) && s.barred r c.role.node then .park s { Park.of .streamBar with b := s.cycle (coreOf cid) }
      else match (cm.flatMap banksOf).find? fun b => r.bankWaits c.role.node b with
      | some b => .park s { Park.of .bank with a := b }
      | none =>
        if k.copies.length ≥ 64 then .park s (Park.of .copyFull)
        else match s.useCopySlots cid p with
        | none => .trap 0x0B 0 0
        | some s =>
          let s := s.useCopyBanks cid p
          .next ((s.modCore (coreOf cid) fun k => { k with copies := k.copies ++ [p], copyCount := k.copyCount + 1 }).modCtx cid fun c =>
            { c with ctag := BitVec.ofNat 16 p.tag })

/-- COPY (R445). -/
def execCopy (h : Hdr) (f : CopyF) (s : State) : Step := issue h [] 0 (certain (copyBody 0 f)) s
/-- COPYG (R445). -/
def execCopyg (h : Hdr) (f : CopyF) (s : State) : Step := issue h [] 0 (certain (copyBody 1 f)) s
/-- COPYS (R445). -/
def execCopys (h : Hdr) (f : CopyF) (s : State) : Step := issue h [] 0 (certain (copyBody 2 f)) s

/-! ## A copy in flight (R446, R448-R451) -/

/-- The address of the k-th element of a traversal (R446). -/
def elemAddr (b : ShapeBits) (off : Nat) (idx : Option Vec) (k : Nat) : Nat :=
  let i0 := k % shExt b 0
  let i1 := k / shExt b 0 % shExt b 1
  let i2 := k / (shExt b 0 * shExt b 1) % shExt b 2
  let i3 := k / (shExt b 0 * shExt b 1 * shExt b 2)
  let row : Int := match idx with | some v => rowIdx b v i1 | none => i1
  (BitVec.ofInt 64 ((shBase b : Int) + off + (shElem b : Int) *
    ((i0 : Int) * shStr b 0 + row * shStr b 1 + (i2 : Int) * shStr b 2 + (i3 : Int) * shStr b 3))).toNat

def Copy.srcAddr (p : Copy) (k : Nat) : Nat := elemAddr p.src p.soff (if p.mode = 1 then some p.idx else none) k
def Copy.dstAddr (p : Copy) (k : Nat) : Nat := elemAddr p.dst p.doff (if p.mode = 2 then some p.idx else none) k

/-- Where a copy's element stands once it is translated and tested, or the code of the fault it meets (R448). -/
inductive CopyAt where
  | ok (a : Nat)
  | fault (code : Nat)
  | wait (s : State)

/-- The tests of one element: device elements are translated and, when indexed, range-tested; local ones are bounded. -/
def copyElem (s : State) (p : Copy) (write : Bool) (sp a len : Nat) : CopyAt :=
  match spaceLen sp with
  | some n => if a + len > n then .fault 0x06 else .ok a
  | none => match s.run p.run with
    | none => .fault 0x05
    | some r =>
      if a ≥ 2 ^ 56 then .fault 0x05
      else match s.lookup (coreOf p.cid) r.vd a with
      | .unmapped => .fault 0x05
      | .miss => .wait (s.startWalk (dieOf (coreOf p.cid)) r.vd a)
      | .hit g =>
        if write && (!g.writable || writeBarred r a len) then .fault 0x06
        else if p.mode = (if write then 2 else 1) && !copyAdmits p.issuer r write ((a : Int), ((a + len : Nat) : Int)) then .fault 0x07
        else .ok (g.pa + (a - g.va))

/-- The bytes a copy reads of a space. -/
def State.spaceLoad (s : State) (core sp a n : Nat) : Nat :=
  match sp with
  | 0 => s.devLoad a n
  | 1 => mload (s.core core).mem a n
  | 2 => mload (s.slotOf core true (a / 2048)).data (a % 2048) n
  | _ => mload (s.slotOf core false (a / 4096)).data (a % 4096) n

/-- The bytes a copy writes to a space. -/
def State.spaceStore (s : State) (core vd sp a n w : Nat) : State :=
  match sp with
  | 0 => ((s.l2Alloc vd a false).devStore a n w).l1Drop core a
  | 1 => s.modCore core fun k => { k with mem := mstore k.mem a n w }
  | 2 => s.setSlotOf core true (a / 2048)
    { s.slotOf core true (a / 2048) with data := mstore (s.slotOf core true (a / 2048)).data (a % 2048) n w }
  | _ => s.setSlotOf core false (a / 4096)
    { s.slotOf core false (a / 4096) with data := mstore (s.slotOf core false (a / 4096)).data (a % 4096) n w }

/-- No later element of a copy writes into the aligned unit of `n` bytes that holds the address of element `k`. -/
def Copy.lastOf (p : Copy) (k n : Nat) : Bool :=
  !(List.range (p.count - k - 1)).any fun i => p.dstAddr (k + 1 + i) / n == p.dstAddr k / n

/-- SETFULL in core memory and on a SYNC page: the full-empty bit of each word, as its last byte is written (R250, R449). -/
def State.copyFe (s : State) (p : Copy) (k pa : Nat) : State :=
  if !p.sf then s
  else if p.dsp = 1 then
    (List.range ((shElem p.dst + 3) / 4)).foldl (fun s i =>
      if p.lastOf k (Nat.max 4 (shElem p.dst)) then
        s.modCore (coreOf p.cid) fun c => { c with fe := tset false c.fe (pa / 4 + i) true } else s) s
  else if p.dsp = 0 then
    match s.run p.run with
    | none => s
    | some r =>
      if ((s.pageOf r.vd (p.dstAddr k)).any (·.sync)) && p.lastOf k 8 then s.setSync pa true else s
  else s

/-- An earlier copy of the same context that this one must wait for (R251). -/
def copyWaits (cs : List Copy) (n : Nat) (p : Copy) : Bool :=
  (cs.take n).any fun q => q.cid == p.cid &&
    ((q.dsp == p.ssp && anyMeet q.dsp q.dstSpans p.srcSpans) || (q.dsp == p.dsp && anyMeet q.dsp q.dstSpans p.dstSpans) ||
     (q.ssp == p.dsp && anyMeet q.ssp q.srcSpans p.dstSpans))

def State.modCopy (s : State) (core tag : Nat) (f : Copy → Copy) : State :=
  s.modCore core fun k => { k with copies := replaceFirst (fun c => c.tag == tag) f k.copies }

/-- A fault met by a copy: on the Flue, no context held; the copy writes nothing further (R448). -/
def State.copyFault (s : State) (p : Copy) (code addr : Nat) : State :=
  let s := s.modCopy (coreOf p.cid) p.tag fun q => { q with failed := true }
  s.raiseFree p.run code
    { s.mkFlt p.cid code p.word p.pc 0 addr false with
      vd := ((s.run p.run).map (·.vd)).getD 0, inst := p.run % 2 ^ 16
      body := fltBody p.word p.pc p.node false addr 0 p.fireno (s.cycle (coreOf p.cid)) }

/-- The elements, from the `k`th on, that follow one another into the aligned 8 bytes `u` of the destination. -/
def Copy.runOf (p : Copy) (u : Nat) : Nat → Nat → List Nat
  | 0, _ => []
  | n + 1, k => if k < p.count && p.dstAddr k / 8 == u then k :: p.runOf u n (k + 1) else []

/-- The elements that are written with element `k`, as one unit: those that follow it in traversal order into the aligned 8 bytes that it writes to
(R305, R449); none where the element before has been written with it. -/
def Copy.unitAt (p : Copy) (k : Nat) : List Nat :=
  if shElog p.src = 3 then [k]
  else if 0 < k && p.dstAddr (k - 1) / 8 == p.dstAddr k / 8 then []
  else p.runOf (p.dstAddr k / 8) (p.count - k) k

/-- Where the source and the destination of an element stand. -/
def copyPair (s : State) (p : Copy) (k : Nat) : CopyAt × CopyAt :=
  (copyElem s p false p.ssp (p.srcAddr k) (shElem p.src), copyElem s p true p.dsp (p.dstAddr k) (shElem p.src))

/-- The elements of a unit that can be moved, with the addresses of their bytes, up to the first that cannot. -/
def copyMoves (s : State) (p : Copy) : List Nat → List (Nat × Nat × Nat)
  | [] => []
  | k :: ks => match copyPair s p k with
    | (.ok a, .ok b) => (k, a, b) :: copyMoves s p ks
    | _ => []

/-- A page of an element of a unit is still looked for. -/
def copyMiss (s : State) (p : Copy) (ks : List Nat) : Option State :=
  ks.findSome? fun k => match copyPair s p k with
    | (.wait s', _) => some s'
    | (_, .wait s') => some s'
    | _ => none

/-- The sectors of device memory that a unit's elements read and write. -/
def Copy.sectors (p : Copy) (ms : List (Nat × Nat × Nat)) : List (Bool × Nat) :=
  ((if p.ssp = 0 then ms.map fun (m : Nat × Nat × Nat) => (false, m.2.1 / 128) else []) ++ (if p.dsp = 0 then ms.map fun (m : Nat × Nat × Nat) => (true, m.2.2 / 128) else [])).eraseDups

/-- The next Damper that a copy has still to pass for its next unit: a sector is charged once for the consecutive units that lie in it (R101, R296). -/
def State.copyToll (s : State) (core : Nat) (p : Copy) : Option Nat :=
  if p.failed || p.k ≥ p.count then none
  else
    let vd := ((s.run p.run).map (·.vd)).getD 0
    let ss := (p.sectors (copyMoves s p (p.unitAt p.k))).filter fun x => !p.secs.contains x
    (ss.flatMap fun x => s.tollPath (dieOf core) vd (x.2 * 128) (!x.1))[p.paid]?

/-- The banks of core memory that a unit's elements touch. -/
def Copy.bankList (p : Copy) (ms : List (Nat × Nat × Nat)) : List Nat :=
  ((if p.ssp = 1 then ms.map fun (m : Nat × Nat × Nat) => m.2.1 / 0x8000 else []) ++ (if p.dsp = 1 then ms.map fun (m : Nat × Nat × Nat) => m.2.2 / 0x8000 else [])).eraseDups

/-- The aligned 8 bytes of the source that an element reads, read once for all the elements that lie in them (R305, R325). -/
def Copy.latch (s : State) (core : Nat) (p : Copy) (a : Nat) : Copy :=
  if shElog p.src = 3 then p
  else match p.lat.find? fun e => e.1 == a / 8 with
    | some _ => p
    | none => { p with lat := tput p.lat (a / 8) (s.spaceLoad core p.ssp (a / 8 * 8) 8) }

/-- The value of an element at an address of the source. -/
def Copy.source (s : State) (core : Nat) (p : Copy) (a : Nat) : Nat :=
  match p.lat.find? fun e => e.1 == a / 8 with
  | some e => e.2 / 2 ^ (8 * (a % 8)) % 2 ^ (8 * shElem p.src)
  | none => s.spaceLoad core p.ssp a (shElem p.src)

/-- One element of a copy moved between its two places. -/
def State.copyElt (s : State) (core vd tag : Nat) (m : Nat × Nat × Nat) : State :=
  match (s.core core).copies.find? fun c => c.tag == tag with
  | none => s
  | some p =>
    let s := if p.ssp = 0 then s.l2Alloc vd m.2.1 true else s
    let p := p.latch s core m.2.1
    let s := s.modCopy core tag fun q => { q with lat := p.lat }
    let s := if p.ssp = 1 then s.touchBank core (m.2.1 / 0x8000) p.node else s
    let s := if p.dsp = 1 then s.touchBank core (m.2.2 / 0x8000) p.node else s
    let s := if p.dsp = 0 then s.recordWrite (writerKey core 0 (ctxOf p.cid)) m.2.2 (shElem p.src) else s
    (s.spaceStore core vd p.dsp m.2.2 (shElem p.src) (p.source s core m.2.1)).copyFe p m.1 m.2.2

/-- The elements of a unit are moved. -/
def State.copyUnit (s : State) (p : Copy) (ms : List (Nat × Nat × Nat)) : State :=
  let core := coreOf p.cid
  let vd := ((s.run p.run).map (·.vd)).getD 0
  let s := ms.foldl (fun s m => s.copyElt core vd p.tag m) s
  let keep (q : Copy) : List (Bool × Nat) := let l := p.sectors ms; if l.isEmpty then q.secs else l
  s.modCopy core p.tag fun q => { q with k := q.k + 1, paid := 0, stood := s.now, secs := keep q }

/-- The next unit of a copy: read, and written to its destination (R305). It waits at a page that is looked for, at a FULL destination slot (R235), at
a Damper, at a bank of core memory that something else has taken in this cycle (R284), and behind a write of a higher key (R325). -/
def State.copyOne (s : State) (p : Copy) (busy : List Nat) : State :=
  let core := coreOf p.cid
  let da := p.dstAddr p.k
  let full := (p.dsp = 2 && (s.slotOf core true (da / 2048)).full) || (p.dsp = 3 && (s.slotOf core false (da / 4096)).full)
  match copyPair s p p.k with
  | (.fault c, _) => s.copyFault p c (if p.ssp = 0 then p.srcAddr p.k else 0)
  | (.wait s', _) => s'
  | (_, .fault c) => s.copyFault p c (if p.dsp = 0 then da else 0)
  | (_, .wait s') => s'
  | _ =>
    let ks := p.unitAt p.k
    match copyMiss s p ks with
    | some s' => s'
    | none =>
      let ms := copyMoves s p ks
      if full && !ms.isEmpty then s
      else match (if p.ssp = 0 then ms.find? fun m => s.poisoned m.2.1 else none) with
      | some m =>
        (s.modCopy core p.tag fun q => { q with failed := true }).eccAct p.run 0x14 (srcOfCid p.cid) 6 0 p.node m.2.1 (s.cycle core)
      | none =>
        if (s.copyToll core p).isSome || (p.bankList ms).any busy.contains then s
        else if p.dsp = 0 && ms.any fun m => s.outranked (writerKey core 0 (ctxOf p.cid)) m.2.2 (shElem p.src) then s
        else s.copyUnit p ms

/-- Up to `n` units of the copy with a tag. -/
def State.copyRun (s : State) (core tag : Nat) (busy : List Nat) : Nat → State
  | 0 => s
  | n + 1 => match (s.core core).copies.find? fun c => c.tag == tag with
    | none => s
    | some p => if p.failed || p.k ≥ p.count then s else (s.copyOne p busy).copyRun core tag busy n

/-- COPY_TRANSFER: copy `idx` of core `unit` moves its next elements, as many as the first value says, one at least (R446): one access of each bank of
core memory that they touch (assumption 13). -/
def execCopyTransfer (s : State) : Step :=
  let core := s.ev.unit
  let cs := (s.core core).copies
  .next (match cs[s.ev.idx]? with
    | none => s
    | some p =>
      if copyWaits cs s.ev.idx p || !((s.run p.run).any (·.isRunning)) then s
      else s.copyRun core p.tag (s.core core).banksBusy (s.ev.val 0 + 1))

/-- COPY_COMPLETE: copy `idx` of core `unit`, all of whose writes are performed, completes; under SETFULL the slots it wrote are
tagged FULL, β first (R242, R250, R449). -/
def execCopyComplete (s : State) : Step :=
  let core := s.ev.unit
  .next (match (s.core core).copies[s.ev.idx]? with
    | none => s
    | some p =>
      if !p.failed && p.k < p.count then s
      else
        let s := s.modCore core fun k => { k with copies := dropAt s.ev.idx k.copies }
        let s := s.sample p.cid 2 (s.cycle core - p.since)
        if p.sf && !p.failed && (p.dsp = 2 || p.dsp = 3) then
          let slots := ((List.range p.count).map fun k => p.dstAddr k / (if p.dsp = 2 then 2048 else 4096)).eraseDups
          slots.foldl (fun s n => s.tag core { slot := n, mantel := p.dsp == 2, full := true, ty := shTy p.dst }) s
        else s)

end Sys2Proof.Machine
end

