-- ==== Sys2Proof/Machine/Segments.lean ====
section
/-! DEFINITION. Segments, conditions and rings: SPAWN, COND, SPAWNC, RESOLVE, LKRD, RPUSH, RPOP, RPEEK, RCUR, RINIT, and the events of
their units (08 R194-R219, 17 R438-R440). -/

namespace Sys2Proof.Machine

/-! ## The condition table (R202-R206) -/

def ccValid (cc : BitVec 18) : Bool := cc.getLsbD 17
def ccSide (cc : BitVec 18) : Bool := cc.getLsbD 16
def ccSlot (cc : BitVec 18) : Nat := cc.toNat % 256
def ccGen (cc : BitVec 18) : Nat := cc.toNat / 256 % 256

/-- The side of an entry as CCOND names it (R203). -/
def ccOf (slot gen : Nat) (side : Bool) : BitVec 18 := BitVec.ofNat 18 (slot + 256 * gen + (if side then 65536 else 0) + 131072)

def Run.slot (r : Run) (n : Nat) : CondSlot := tget CondSlot.init r.conds n
def Run.setSlot (r : Run) (n : Nat) (c : CondSlot) : Run := { r with conds := tset CondSlot.init r.conds n c }

/-- The open entry that a handle names (R202). -/
def Run.openEntry (r : Run) (h : Word) : Option (Nat × CondE) :=
  if h.toNat ≥ 2 ^ 16 then none
  else
    let c := r.slot (h.toNat % 256)
    if c.gen = h.toNat / 256 then c.ent.map fun e => (h.toNat % 256, e) else none

/-- Lk of a side, with fuel for the chain, whose depth is at most 9 (R206); an entry not yet recomputed keeps its old values (R209). -/
def Run.lk (r : Run) : Nat → BitVec 18 → Nat
  | 0, _ => 0x10000
  | n + 1, cc =>
    if !ccValid cc then 0x10000
    else match (r.slot (ccSlot cc)).ent with
    | none => 0x10000
    | some e =>
      if e.stale ≠ 0 then (if ccSide cc then e.oldT else e.oldN)
      else (if ccSide cc then e.ft else e.fn) * r.lk n e.parent / 2 ^ 16

/-- Lk of a segment: its side's, or until it is recomputed its old value (R206, R209). -/
def Run.segLk (r : Run) (g : Seg) : Nat := if g.stale ≠ 0 then g.old else r.lk 12 g.ccond

/-- CSR LK of a context (R206). -/
def Run.ctxLk (r : Run) (c : Ctx) : Nat :=
  match r.segs.find? fun g => g.id == c.segid with
  | some g => r.segLk g
  | none => r.lk 12 c.ccond

/-- A cycle of the recomputation of likelihoods (R209). -/
def CondE.tick (e : CondE) : CondE := { e with stale := e.stale - 1 }
def Seg.tick (g : Seg) : Seg := { g with stale := g.stale - 1 }
def Run.tickLk (r : Run) : Run :=
  { r with conds := r.conds.map fun e => (e.1, { e.2 with ent := e.2.ent.map CondE.tick : CondSlot }), segs := r.segs.map Seg.tick }

/-- Whether a side lies at or under a side of entry `slot`, at any depth. -/
def Run.under (r : Run) (slot : Nat) (side : Bool) : Nat → BitVec 18 → Bool
  | 0, _ => false
  | n + 1, cc => ccValid cc && ((ccSlot cc == slot && ccSide cc == side) ||
      match (r.slot (ccSlot cc)).ent with
      | none => false
      | some e => r.under slot side n e.parent)

/-- Segments held in the pool under a side of an entry (R207). -/
def Run.sideCount (r : Run) (slot : Nat) (side : Bool) : Nat := (r.segs.filter fun g => r.under slot side 12 g.ccond).length

/-- PredUpdate (R210). -/
def Run.predUpdate (r : Run) (site : Nat) (o : Bool) : Run :=
  let sd := r.graph.sites.find? fun d => d.id == site
  let p : Int := (tget ((sd.map (·.p)).getD 0) r.est site : Nat)
  let t : Int := if o then 65535 else 0
  let q := p + (t - p) / 2 ^ ((sd.map (·.shift)).getD 0)
  { r with est := tput r.est site (min (max q 256) 65280).toNat }

/-! ## Pruning and becoming certain -/

/-- A segment under the losing side: its pool entry, its buffered effects and its loads go, and its context is idle from the next cycle (R208). What
an earlier segment of the context has stored stays on its way. A segment that had reached FIN ends, which the watchdog counts (R200, R201). -/
def State.pruneSeg (s : State) (g : Seg) : State :=
  match g.cid with
  | none => s
  | some cid =>
    let s := s.modCore (coreOf cid) fun k =>
      { k with sbuf := k.sbuf.filter fun e => e.cid != cid, wq := k.wq.filter fun q => q.cid != cid || q.kind.isWrite }
    let s := match (s.ctx cid).role.run with
      | some rid => s.modRun rid fun r =>
        let r := if (s.ctx cid).park.any (fun (p : Park) => p.kind == ParkKind.specFin || (p.kind == ParkKind.ringFull && p.b == 1)) then r.alive else r
        { r with poolParked := r.poolParked.filter fun c => c != cid
                 rings := r.rings.map fun (g : Ring) => { g with parked := g.parked.filter fun c => c != cid } }
      | none => s
    s.setCtx cid { Ctx.init with gap := 1 }

/-- A certain segment that has reached FIN ends once the last of its effects has taken place (R201, R213). -/
def State.endDrained (s : State) (cid : Nat) : State :=
  if !(s.ctx cid).uncertain && !(s.undrained cid) && ((s.ctx cid).park.any fun p => p.kind == ParkKind.specFin) then
    s.endSegment cid
  else s

/-- A context whose CCOND became root: a fault it withheld is raised, and a segment that has reached FIN with nothing buffered
ends (R201, R213, R215). -/
def State.becomesCertain (s : State) (cid : Nat) : State :=
  let c := s.ctx cid
  match c.withheld with
  | some f => ((s.setCtx cid { c with withheld := none, park := none }).parkSample cid c).raiseHeld cid f
  | none => s.endDrained cid

/-- The level of a side under an entry of a depth: 1 for the entry's own (R209). -/
def Run.level (r : Run) (slot depth : Nat) (cc : BitVec 18) : Nat :=
  if ccSlot cc = slot then 1 else ((r.slot (ccSlot cc)).ent.map (·.depth)).getD depth + 1 - depth

/-- An entry under the winning side of a resolved one: nearer the root by one, its likelihoods due by its level (R208, R209). -/
def Run.wonEntry (r : Run) (slot n : Nat) (e f : CondE) (sub : BitVec 18 → BitVec 18) : CondE :=
  { f with
    depth := f.depth - 1, parent := sub f.parent, stale := r.level slot e.depth f.parent
    oldT := r.lk 12 (ccOf n (r.slot n).gen true), oldN := r.lk 12 (ccOf n (r.slot n).gen false) }

/-- A segment under the winning side. -/
def Run.wonSeg (r : Run) (slot : Nat) (e : CondE) (g : Seg) (sub : BitVec 18 → BitVec 18) : Seg :=
  { g with ccond := sub g.ccond, stale := r.level slot e.depth g.ccond, old := r.segLk g }

/-- Resolve (R208, R209). -/
def State.resolveEntry (s : State) (rid slot : Nat) (e : CondE) (o : Bool) : State :=
  match s.run rid with
  | none => s
  | some r =>
    let lost := r.segs.filter fun g => r.under slot (!o) 12 g.ccond
    let lostSlots := (List.range 256).filter fun n => match (r.slot n).ent with
      | some f => r.under slot (!o) 12 f.parent
      | none => false
    let wonSlots := (List.range 256).filter fun n => match (r.slot n).ent with
      | some f => r.under slot o 12 f.parent
      | none => false
    let side := ccOf slot (r.slot slot).gen o
    let sub (cc : BitVec 18) : BitVec 18 := if cc = side then e.parent else cc
    let s := lost.foldl (fun s g => s.pruneSeg g) s
    let s := s.modRun rid fun x =>
      let r := { x with segs := x.segs.filter fun g => !(r.under slot (!o) 12 g.ccond) }
      let r := lostSlots.foldl (fun r n => r.setSlot n { r.slot n with ent := none, pruned := true }) r
      let r := wonSlots.foldl (fun r n => r.setSlot n { r.slot n with ent := (r.slot n).ent.map fun f => x.wonEntry slot n e f sub }) r
      let r := r.setSlot slot { r.slot slot with ent := none, pruned := false }
      let won (g : Seg) : Seg := if x.under slot o 12 g.ccond then x.wonSeg slot e g sub else g
      ({ r with segs := r.segs.map won }.predUpdate e.site o).trimPool
    let won := ((s.run rid).map fun r => r.segs.filterMap (·.cid)).getD []
    won.foldl (fun s cid =>
      let c := s.ctx cid
      if c.ccond = side then
        let s := s.setCtx cid { c with ccond := e.parent }
        if ccValid e.parent then s else s.becomesCertain cid
      else s) s

/-- RESOLVE taking effect (R208): its outcome, or COND. -/
def State.resolveNow (s : State) (rid : Nat) (h : Word) (o : Bool) : Option State :=
  match s.run rid with
  | none => some s
  | some r =>
    match r.openEntry h with
    | some (n, e) => some (s.resolveEntry rid n e o)
    | none =>
      let c := r.slot (h.toNat % 256)
      if h.toNat < 2 ^ 16 && h.toNat / 256 ≠ 0 && c.gen = h.toNat / 256 && c.ent.isNone && c.pruned then some s else none

/-! ## Work creation -/

/-- Bytes of an argument record: ARGS / 8 registers from A, little-endian (R198). -/
def argBytes (c : Ctx) (a : Reg) (args : Nat) : List Byte :=
  (List.range (args / 8)).flatMap fun j => natLe 8 (c.xr (a + BitVec.ofNat 5 j)).toNat

/-- The lowest pool slot that no segment holds. -/
def Run.freePool (r : Run) : Nat := ((List.range 1024).find? fun n => !r.segs.any fun g => g.slot == n).getD 0

/-- Where the argument record of a pool slot is mapped, read-only (R195, assumption 8). -/
def Run.argRec (r : Run) (slot : Nat) : Nat := r.poolBase + 64 * slot

/-- A context that re-issues a spawn leaves the order of parking (R219). -/
def State.unqueue (s : State) (rid cid : Nat) : State :=
  s.modRun rid fun r => { r with poolParked := r.poolParked.filter fun c => c != cid }

/-- A pool that fills while spawners are parked is in overflow again (R219). -/
def Run.fillPool (r : Run) : Run := if 1024 ≤ r.segs.length && !r.poolParked.isEmpty then { r with poolFull := true } else r

/-- The numbers of the writes before a spawn that have not been performed: the context's own, and those that it comes after itself. -/
def State.openWrites (s : State) (cid : Nat) : List Nat :=
  (((s.core (coreOf cid)).wq.filter fun q => q.cid == cid && q.kind.isWrite).map (·.id)) ++ (s.ownEntries cid).map (·.id) ++
    (s.afterOf cid).filter fun i => s.stillOpen [i] (fun _ => true) fun _ _ => true

/-- A spawn: the pool's overflow, or a new segment under a side, whose accesses come after what its spawner has written (R195, R196, R198, R219,
R309). -/
def spawnInto (s : State) (cid : Nat) (r : Run) (kind : Nat) (a : Reg) (args : Nat) (cc : BitVec 18) : Eff :=
  let s := s.unqueue r.id cid
  if r.segs.length ≥ 1024 then
    .park (s.modRun r.id fun r => { r with poolFull := true, poolParked := r.poolParked ++ [cid] }) (Park.of .pool)
  else
    let bytes := argBytes (s.ctx cid) a args
    let slot := r.freePool
    let full := bytes ++ List.replicate (64 - bytes.length) 0
    let g : Seg :=
      { id := r.nextSeg, kind := kind, ccond := cc, args := full, phase := r.phase, slot := slot, after := s.openWrites cid, cid := none, stale := 0, old := 0 }
    .next ((s.vWrite r.vd (r.argRec slot) full).modRun r.id fun r => Run.fillPool { r with segs := r.segs ++ [g], nextSeg := r.nextSeg + 1 })

/-- ARGS of a segment kind of a graph. -/
def Run.kindArgs (r : Run) (kind : Nat) : Option Nat := (r.node kind).bind fun n => if n.kind = 4 then some n.args else none

/-- SPAWN (R198). -/
def spawnBody (a : Reg) (kind : Nat) (s : State) (cid : Nat) : Eff :=
  match s.ctxRun cid with
  | none => .next s
  | some r => match r.kindArgs kind with
    | none => .trap 0x0E 0 0
    | some args =>
      if a.toNat + args / 8 > 32 then .trap 0x01 0 0
      else spawnInto s cid r kind a args (s.ctx cid).ccond

/-- SPAWN (R440). -/
def execSpawn (h : Hdr) (a : Reg) (kind : BitVec 16) (s : State) : Step := issue h [(0, 9)] 0 (spawnBody a kind.toNat) s

/-- COND: allocates the lowest free slot, or parks while none is free (R204). -/
def condBody (d : Reg) (site : Nat) (s : State) (cid : Nat) : Eff :=
  match s.ctxRun cid with
  | none => .next s
  | some r => match r.graph.sites.find? fun x => x.id == site with
    | none => .trap 0x0E 0 0
    | some x => match (List.range 256).find? fun n => (r.slot n).ent.isNone with
      | none => .park s (Park.of .cond)
      | some n =>
        let gen := if (r.slot n).gen = 255 then 1 else (r.slot n).gen + 1
        let parent := (s.ctx cid).ccond
        let depth := if !ccValid parent then 1 else ((r.slot (ccSlot parent)).ent.map (·.depth)).getD 0 + 1
        let p := tget x.p r.est site
        let e : CondE := { site := site, parent := if ccValid parent then parent else 0, depth := depth, ft := p, fn := 65536 - p
                           phase := r.phase, stale := 0, oldT := 0, oldN := 0 }
        .next ((s.modRun r.id fun r => r.setSlot n { gen := gen, pruned := false, ent := some e }).modCtx cid fun c =>
          c.pendX d (BitVec.ofNat 64 (gen * 256 + n)) 2)

/-- COND (R440). -/
def execCond (h : Hdr) (d : Reg) (site : BitVec 6) (s : State) : Step := issue h [(0, 10)] 1 (condBody d site.toNat) s

/-- SPAWNC (R205). -/
def spawncBody (d a : Reg) (taken : Bool) (kind : Nat) (s : State) (cid : Nat) : Eff :=
  let c := s.ctx cid
  let h := c.xr d
  match s.ctxRun cid with
  | none => .next s
  | some r => match r.kindArgs kind with
    | none => .trap 0x0E h.toNat 0
    | some args =>
      if a.toNat + args / 8 > 32 then .trap 0x01 0 0
      else match r.openEntry h with
      | none => .trap 0x0E h.toNat 0
      | some (n, e) =>
        if e.parent ≠ (if ccValid c.ccond then c.ccond else 0) then .trap 0x0E h.toNat 0
        else if e.depth > 8 then .park s { Park.of .chain with a := h.toNat }
        else spawnInto s cid r kind a args (ccOf n (r.slot n).gen taken)

/-- SPAWNC (R440). -/
def execSpawnc (h : Hdr) (d a : Reg) (taken : Bool) (kind : BitVec 16) (s : State) : Step :=
  issue h [(0, 10)] 0 (spawncBody d a taken kind.toNat) s

/-- RESOLVE: at issue in a certain context, buffered in an uncertain one or behind effects that still drain (R208, R213). -/
def resolveBody (a b : Reg) (s : State) (cid : Nat) : Eff :=
  let c := s.ctx cid
  let h := c.xr a
  let o := (c.xr b).getLsbD 0
  match s.ctxRun cid with
  | none => .next s
  | some r =>
    if s.buffers cid then s.bufferEff cid 16 (.resolve h o)
    else match s.resolveNow r.id h o with
    | some s => .next s
    | none => .trap 0x0E h.toNat 0

/-- RESOLVE (R440). -/
def execResolve (h : Hdr) (a b : Reg) (s : State) : Step := issue h [(0, 10)] 0 (resolveBody a b) s

/-- What LKRD reads of an entry (R207). -/
def Run.lkrdVal (r : Run) (h : Word) : Word :=
  match r.openEntry h with
  | none => 0
  | some (n, _) =>
    let side (b : Bool) : BitVec 18 := ccOf n (r.slot n).gen b
    BitVec.ofNat 64 (r.lk 12 (side true) + r.lk 12 (side false) * 2 ^ 17 + r.sideCount n true * 2 ^ 34 + r.sideCount n false * 2 ^ 45)

/-- Whether the wait of a LKRD with a side is over. -/
def Run.lkrdDone (r : Run) (h : Word) (side : Bool) (k : Nat) : Bool :=
  match r.openEntry h with
  | none => true
  | some (n, _) => k ≤ r.sideCount n side

/-- LKRD: FN 0 reads at once; FN 1 waits on TAKEN and FN 2 on NOTTAKEN (R207, R440). -/
def lkrdBody (d a : Reg) (side k : Nat) (s : State) (cid : Nat) : Eff :=
  let h := (s.ctx cid).xr a
  match s.ctxRun cid with
  | none => .next s
  | some r =>
    if side = 0 then .next (s.modCtx cid fun c => c.pendX d (r.lkrdVal h) 2)
    else if r.lkrdDone h (side == 1) k then
      .wait (s.modCtx cid fun c => c.stage [rwX d.toNat (r.lkrdVal h)] 0) (Park.of .landing)
    else .park s { Park.of .lkrd with a := h.toNat, b := k, l := [side] }

/-- LKRD (R440). -/
def execLkrd (h : Hdr) (d a : Reg) (side : BitVec 2) (k : BitVec 32) (s : State) : Step :=
  issue h [(0, 10)] (if side = 0 then 1 else 13) (lkrdBody d a side.toNat k.toNat) s

/-! ## Rings (R217-R219) -/

def Ring.slots (g : Ring) : Nat := 2 ^ g.logn
def Ring.slotBytes (g : Ring) : Nat := if g.vec then 256 else 8

/-- PUSHED less the least cursor: the items not yet passed by every consumer. -/
def Ring.depth (g : Ring) : Nat :=
  (List.range g.ncons).foldl (fun m c => Nat.max m (g.pushed - tget 0 g.cur c).toNat) 0

def Run.ring (r : Run) (id : Nat) : Option Ring := r.rings.find? fun g => g.id == id
def State.modRing (s : State) (rid id : Nat) (f : Ring → Ring) : State :=
  s.modRun rid fun r => { r with rings := replaceFirst (fun g => g.id == id) f r.rings }

/-- RINIT's descriptor, if it is in range (R217, R218). -/
def ringOf (id core node : Nat) (w : Nat) : Option Ring :=
  let logn := bits w 20 4
  let n := 2 ^ logn
  let lwm := if bits w 27 9 = 0 then n / 2 else bits w 27 9
  let g : Ring := { id := id, core := core, node := node, vec := bitAt w 19, logn := logn, ncons := bits w 24 3 + 1, lwm := lwm
                    base := bits w 0 19, pushed := 0, cur := [], seqs := [], full := false, parked := [], late := [], arriving := [] }
  if w ≥ 2 ^ 36 || logn < 1 || logn > 8 || lwm ≥ n || g.base % g.slotBytes ≠ 0 || g.base + g.bytes > 0x80000 then none else some g

/-- The banks that hold a ring's slots. -/
def Ring.banks (g : Ring) : List Nat := (List.range 16).filter fun b => b * 0x8000 < g.base + g.bytes && g.base < (b + 1) * 0x8000

/-- RINIT (R217): the ring's node is a user of the banks that hold its slots, which move with it. -/
def rinitBody (a : Reg) (ring : Nat) (s : State) (cid : Nat) : Eff :=
  let c := s.ctx cid
  match s.ctxRun cid with
  | none => .next s
  | some r => match r.ring ring with
    | some _ => .trap 0x0D ring 0
    | none => match ringOf ring (coreOf cid) c.role.node (c.xr a).toNat with
      | none => .trap 0x0D ring 0
      | some g => .next ((s.modRun r.id fun r => { r with rings := r.rings ++ [g] }).modCore (coreOf cid) fun k =>
        { k with bankSharers := g.banks.foldl (fun t b => tset [] t b (addSharer (tget [] t b) g.node)) k.bankSharers })

/-- RINIT (R438). -/
def execRinit (h : Hdr) (a : Reg) (ring : BitVec 4) (s : State) : Step :=
  issue h [(0, 9)] 0 (certain (rinitBody a ring.toNat)) s

/-- An item is in its slot, under its sequence number; a ring that fills while items or producers wait for it is in overflow again (R218, R219). -/
def Ring.push (g : Ring) : Ring :=
  let g := { g with seqs := tput g.seqs (g.pushed.toNat % g.slots) g.pushed, pushed := g.pushed + 1 }
  { g with full := g.full || (g.slots ≤ g.depth && !(g.parked.isEmpty && g.late.isEmpty)) }

/-- The address of the slot that the next item takes. -/
def Ring.pushAddr (g : Ring) : Nat := g.base + g.slotBytes * (g.pushed.toNat % g.slots)

/-- A bank of a core has been taken in this cycle (R284). -/
def State.bankBusy (s : State) (core a : Nat) : Bool := (s.core core).banksBusy.contains (a / 0x8000)

/-- The ring unit accepts an item into its slot (R218). -/
def State.pushRing (s : State) (rid : Nat) (g : Ring) (t : Token) : State :=
  let a := g.pushAddr
  ((s.touchBank g.core (a / 0x8000) g.node).modCore g.core fun k => { k with mem := mwrite k.mem a (natLe g.slotBytes (tokVal t).toNat) }).modRing rid g.id Ring.push

/-- A producer parks on a full ring, whose consumers are raised (R219). -/
def State.ringOverflow (s : State) (rid id cid : Nat) : State :=
  s.modRing rid id fun g => { g with full := true, parked := g.parked ++ [cid] }

/-- RPUSH (R438): accepted at once by a ring unit of the same core, a cycle later where its bank is taken; else it travels, and the context parks until it
is accepted. -/
def rpushBody (a : Reg) (v : Bool) (ring : Nat) (s : State) (cid : Nat) : Eff :=
  let c := s.ctx cid
  match s.ctxRun cid with
  | none => .next s
  | some r => match r.ring ring with
    | none => .trap 0x0D ring 0
    | some g =>
      if g.vec != v then .trap 0x0D ring 0
      else
        let t := regTok c v a
        if s.acquiring cid then .park s { Park.of .fence with a := 1 }
        else if s.behindRing cid ring then .park s { Park.of .fence with a := 3 }
        else if s.buffers cid then s.bufferEff cid (16 + g.slotBytes) (.rpush ring t)
        else if g.core = coreOf cid && g.depth < g.slots && s.bankBusy g.core g.pushAddr then .hold s
        else
          let s := s.modRing r.id ring fun g => { g with parked := g.parked.filter fun c => c != cid }
          if g.depth ≥ g.slots then .park (s.ringOverflow r.id ring cid) { Park.of .ringFull with a := ring }
          else if g.core = coreOf cid then .next (s.pushRing r.id g t)
          else .wait (s.modRing r.id ring fun g => { g with arriving := g.arriving ++ [(cid, t)] }) { Park.of .ringRemote with a := ring }

/-- RPUSH (R438). -/
def execRpush (h : Hdr) (a : Reg) (v : Bool) (ring : BitVec 4) (s : State) : Step :=
  issue h [(0, 9)] 0 (rpushBody a v ring.toNat) s

/-- The core-memory address of the slot a cursor stands at. -/
def Ring.cursorAddr (g : Ring) (cons : Nat) : Nat := g.base + g.slotBytes * ((tget 0 g.cur cons).toNat % g.slots)

/-- The value of the slot a cursor stands at. -/
def State.ringVal (s : State) (g : Ring) (cons : Nat) : Vec :=
  BitVec.ofNat 2048 (mload (s.core g.core).mem (g.cursorAddr cons) g.slotBytes)

/-- The ring that a reading word names, with RING's tests (R218, R438): `file` is the file asked for, none for RCUR. -/
def ringRead (_ : State) (cid : Nat) (r : Run) (ring cons : Nat) (file : Option Bool) : Option Ring :=
  match r.ring ring with
  | none => none
  | some g => if g.core != coreOf cid || cons ≥ g.ncons || (match file with | some v => v != g.vec | none => false) then none else some g

def Ctx.usesRing (c : Ctx) (ring : Nat) : Ctx :=
  { c with ringsUsed := if c.ringsUsed.contains ring then c.ringsUsed else c.ringsUsed ++ [ring] }

/-- A cursor advances; an overflow is over once the depth is below the watermark (R219). -/
def Ring.advance (g : Ring) (cons : Nat) : Ring :=
  let g := { g with cur := tset 0 g.cur cons (tget 0 g.cur cons + 1) }
  { g with full := g.full && g.depth ≥ g.lwm }

/-- Another context's pop of the ring as the same consumer reached the ring unit before this one and waits (R218). -/
def State.popWaits (s : State) (cid ring cons : Nat) : Bool :=
  let mine := s.parkOrder cid .ringEmpty
  (List.range 8).any fun i =>
    let o := coreOf cid * 8 + i
    o != cid && match (s.ctx o).park with
      | some p => p.kind == .ringEmpty && p.a == ring && p.b == cons && p.order < mine
      | none => false

/-- RPOP and RPEEK (R218, R438). -/
def rpopBody (pop : Bool) (d : Reg) (v : Bool) (ring cons : Nat) (s : State) (cid : Nat) : Eff :=
  match s.ctxRun cid with
  | none => .next s
  | some r => match ringRead s cid r ring cons (some v) with
    | none => .trap 0x0D ring 0
    | some g =>
      let s := s.modCtx cid fun c => c.usesRing ring
      if s.acquiring cid then .park s { Park.of .fence with a := 1 }
      else if s.behindRing cid ring then .park s { Park.of .fence with a := 3 }
      else if tget 0 g.cur cons = g.pushed || s.popWaits cid ring cons then .park s { Park.of .ringEmpty with a := ring, b := cons }
      else if s.bankBusy g.core (g.cursorAddr cons) then .hold s
      else
        let val := s.ringVal g cons
        let s := s.touchBank g.core (g.cursorAddr cons / 0x8000) (s.ctx cid).role.node
        let s := if pop then s.modRing r.id ring fun g => g.advance cons else s
        .wait (s.modCtx cid fun c => c.stage [{ file := fileOf v, reg := d.toNat, val := val }] 0) (Park.of .landing)

/-- RPOP (R438). -/
def execRpop (h : Hdr) (d : Reg) (v : Bool) (ring : BitVec 4) (cons : BitVec 3) (s : State) : Step :=
  issue h [(0, 9)] 13 (certain (rpopBody true d v ring.toNat cons.toNat)) s
/-- RPEEK (R438). -/
def execRpeek (h : Hdr) (d : Reg) (v : Bool) (ring : BitVec 4) (cons : BitVec 3) (s : State) : Step :=
  issue h [(0, 9)] 13 (certain (rpopBody false d v ring.toNat cons.toNat)) s

/-- RCUR: never parks on the ring (R218). -/
def rcurBody (d : Reg) (ring cons : Nat) (s : State) (cid : Nat) : Eff :=
  match s.ctxRun cid with
  | none => .next s
  | some r => match ringRead s cid r ring cons none with
    | none => .trap 0x0D ring 0
    | some g => .next (s.modCtx cid fun c => (c.usesRing ring).pendX d ((tget 0 g.cur cons).setWidth 64) 2)

/-- RCUR (R438). -/
def execRcur (h : Hdr) (d : Reg) (ring : BitVec 4) (cons : BitVec 3) (s : State) : Step :=
  issue h [(0, 9)] 1 (certain (rcurBody d ring.toNat cons.toNat)) s

/-! ## The units' events. An event that is not enabled leaves the machine as it is. -/

/-- A token landed at a core: its contexts idle no longer (R459). -/
def State.wakeIdle (s : State) (core : Nat) : State :=
  (List.range 8).foldl (fun s i => s.modCtx (core * 8 + i) fun c => { c with idle := none }) s

/-- RING_ACCEPT: run `unit`, ring `sub`, the `idx`th item that travels to it; the oldest of its source only. An item that met the full ring waits, in
its turn, until the overflow is over; one whose bank is taken waits a cycle (R218, R219, R284, R438). The last of a segment that stands at FIN ends it. -/
def execRingAccept (s : State) : Step :=
  let e := s.ev
  .next (match (s.run e.unit).bind fun r => r.ring e.sub with
    | none => s
    | some g => match g.arriving[e.idx]? with
      | none => s
      | some (cid, t) =>
        if (g.arriving.take e.idx).any fun x => x.1 == cid then s
        else if g.depth ≥ g.slots then
          s.modRing e.unit e.sub fun g => { g with full := true, late := if g.late.contains cid then g.late else g.late ++ [cid] }
        else if (g.late.contains cid && (g.full || g.late.head? != some cid)) || s.bankBusy g.core g.pushAddr then s
        else
          let s := (s.modRing e.unit e.sub fun g =>
            { g with arriving := dropAt e.idx g.arriving, late := g.late.filter fun c => c != cid }).pushRing e.unit g t
          let s := s.wakeIdle g.core
          if (s.ctx cid).park.any fun p => p.kind == ParkKind.ringRemote && p.a == e.sub then s.unpark cid else s.endDrained cid)

/-- The parked producer at the head of an order re-issues, one at a time (R219). -/
def State.releaseHead (s : State) (parked : List Nat) (kind : ParkKind) : State :=
  match parked with
  | [] => s
  | cid :: _ =>
    if (s.ctx cid).park.any fun p => p.kind == kind then
      let fin := (s.ctx cid).park.any fun p => p.b == 1
      let s := s.unpark cid
      if fin then s.parkCtx cid (Park.of .specFin) else s
    else s

/-- OVERFLOW_RELEASE: run `unit`; ring `sub`, or the segment pool for `sub` = 16 (R219). -/
def execOverflowRelease (s : State) : Step :=
  let e := s.ev
  .next (match s.run e.unit with
    | none => s
    | some r =>
      if e.sub = 16 then
        if !r.poolFull && r.segs.length < 1024 then s.releaseHead r.poolParked .pool else s
      else match r.ring e.sub with
        | none => s
        | some g => if !g.full && g.depth < g.slots then s.releaseHead g.parked .ringFull else s)

/-- The oldest buffered effect of a context leaves the buffer. -/
def dropEntry (cid : Nat) : List SpecEntry → List SpecEntry
  | [] => []
  | e :: es => if e.cid = cid then es else e :: dropEntry cid es

def State.dropOwn (s : State) (cid : Nat) : State :=
  s.modCore (coreOf cid) fun k => { k with sbuf := dropEntry cid k.sbuf }

/-- A buffered effect on core memory waits for its banks, and takes them (R284). -/
def State.coreBusy (s : State) (core : Nat) (ws : List (Nat × Nat × Nat)) : Bool := ws.any fun w => s.bankBusy core w.1
def State.coreTouch (s : State) (core node : Nat) (ws : List (Nat × Nat × Nat)) : State := ws.foldl (fun s w => s.touchBank core (w.1 / 0x8000) node) s

/-- A park at a word that has taken no effect and issues afresh. -/
def ParkKind.afresh : ParkKind → Bool
  | .spec => true
  | .pool => true
  | .cond => true
  | .chain => true
  | .lkrd => true
  | .streamBar => true
  | .interlock => true
  | .fence => true
  | .bank => true
  | _ => false

/-- The drain of a context stops at a full ring: the context is among those that wait for it, and parks there, unless something is under way for it that
ends its park (R213, R219). A segment at FIN ends after all. -/
def State.stopDrain (s : State) (rid ring cid : Nat) : State :=
  let s := s.ringOverflow rid ring cid
  match (s.ctx cid).park with
  | none => s.parkCtx cid { Park.of .ringFull with a := ring }
  | some p =>
    if p.kind == ParkKind.specFin then (s.unpark cid).parkCtx cid { Park.of .ringFull with a := ring, b := 1 }
    else if p.kind.afresh then ((s.unqueue rid cid).unpark cid).parkCtx cid { Park.of .ringFull with a := ring }
    else s

/-- The drain of a context goes on past a ring that it stopped at. -/
def State.goDrain (s : State) (rid ring cid : Nat) : State :=
  let s := s.modRing rid ring fun g => { g with parked := g.parked.filter fun c => c != cid }
  match (s.ctx cid).park with
  | some p =>
    if p.kind == ParkKind.ringFull && p.a == ring then
      (if p.b = 1 then (s.unpark cid).parkCtx cid (Park.of .specFin) else s.unpark cid)
    else s
  | none => s

/-- What the drain of one buffered effect does; none where it must wait (R213). -/
def State.drainEntry (s : State) (cid : Nat) (e : SpecEntry) : Option State :=
  match e.eff with
  | .device q =>
    (match e.bad with
     | none => some (((s.dropOwn cid).dropFe (coreOf cid) q).postAs (coreOf cid) e.id q)
     | some (code, va) => some ((s.dropOwn cid).raiseAt cid code e.word e.pc 0 va))
  | .core ws w fe rel =>
    if (rel && (s.writesBefore cid e.id || s.spawnOpen cid)) || s.behindCore cid ws || s.coreBusy (coreOf cid) ws then none
    else some (((s.dropOwn cid).coreTouch (coreOf cid) (s.ctx cid).role.node ws).applyCore (coreOf cid) ws w fe)
  | .xsend core ctx port t =>
    if (s.core (coreOf cid)).sendq.length ≥ 16 then none
    else some ((s.dropOwn cid).queueSend cid core ctx port t e.word e.pc)
  | .resolve h o => match (s.ctx cid).role.run with
    | none => some (s.dropOwn cid)
    | some rid => match (s.dropOwn cid).resolveNow rid h o with
      | some s => some s
      | none => some ((s.dropOwn cid).raiseAt cid 0x0E e.word e.pc h.toNat 0)
  | .rpush ring t => match s.ctxRun cid with
    | none => some (s.dropOwn cid)
    | some r => match r.ring ring with
      | none => some ((s.dropOwn cid).raiseAt cid 0x0D e.word e.pc ring 0)
      | some g =>
        let waits := g.parked.contains cid
        if s.behindRing cid ring then none
        else if g.depth ≥ g.slots || (waits && (g.full || g.parked.head? != some cid)) then
          (if waits then none else some (s.stopDrain r.id ring cid))
        else if g.core ≠ coreOf cid then
          some (((s.dropOwn cid).goDrain r.id ring cid).modRing r.id ring fun g => { g with arriving := g.arriving ++ [(cid, t)] })
        else if s.bankBusy g.core g.pushAddr then none
        else some ((((s.dropOwn cid).goDrain r.id ring cid).pushRing r.id g t).wakeIdle g.core)

end Sys2Proof.Machine
end

