-- ==== Sys2Proof/Machine/Elements.lean ====
section
/-! DEFINITION. The elements of a run and where a cut stops them (07 R165-R168, R176; 05 R124). -/

namespace Sys2Proof.Machine

/-- The nodes that stand in cells now: those of the present phase and of the handler subgraph (R124, R137). -/
def Run.active (r : Run) (n : Nat) : Bool :=
  match r.node n with
  | none => false
  | some d => d.kind != 4 && (d.phase == r.phase || r.graph.handlerNodes.contains n)

def Run.activeNodes (r : Run) : List Nat := (List.range r.graph.nodes.length).filter r.active

/-- The input channels of a node from other nodes that stand in cells. -/
def Run.inputs (r : Run) (n : Nat) : List Nat :=
  (r.graph.chans.zipIdx.filter fun (c, _) => !c.barrier && !c.selector && c.cnode == n && c.pnode != n && r.active c.pnode).map (·.2)

/-- The channels a node produces on, the selector channel included. -/
def Run.outputs (r : Run) (n : Nat) : List Nat :=
  (r.graph.chans.zipIdx.filter fun (c, _) => !c.barrier && c.pnode == n).map (·.2)

/-- Every input channel of a node, from whatever node. -/
def Run.inChans (r : Run) (n : Nat) : List Nat :=
  (r.graph.chans.zipIdx.filter fun (c, _) => !c.barrier && !c.selector && c.cnode == n).map (·.2)

/-- The channels of the region that are full (R152). -/
def Run.fullChans (r : Run) : List Nat :=
  (r.graph.chans.zipIdx.filter fun (c, i) => !c.barrier && r.freeSlots i == 0).map (·.2)

/-- The rings and the segment pool of a run, counted where they are full (R200). -/
def Run.fullStores (r : Run) : Nat :=
  (r.rings.filter fun g => g.full || decide (g.slots ≤ g.depth)).length + (if r.poolFull || 1024 ≤ r.segs.length then 1 else 0)

/-- A source of the instance (R165). -/
def Run.isSource (r : Run) (n : Nat) : Bool := (r.inputs n).isEmpty

/-- The first marker of the cut in progress has reached a node (R167). -/
def Run.reached (r : Run) (n : Nat) : Bool :=
  r.cut.isSome && (r.isSource n || (r.inputs n).any fun i => (r.chan i).marked)

/-- Whether the cut in progress lets a node start a firing, a round or an action (R167). -/
def Run.mayStart (r : Run) (n : Nat) : Bool :=
  match r.cut with
  | none => true
  | some c => if r.savedElems.contains n then c.kind == CutKind.periodic else !r.reached n

/-- Work of a run goes on in its region: it runs, and no rollback is under way. A handler's nodes go on while a phase is
configured. -/
def Run.goes (r : Run) (n : Nat) : Bool :=
  !r.rolling && (match r.st with
    | .running => true
    | .config _ => r.graph.handlerNodes.contains n
    | _ => false)

/-- The virtual device of a run is the occupant of its strip, where the strip is shared (R109). -/
def State.occupied (s : State) (r : Run) : Bool :=
  match s.stripAt r.die r.col with
  | none => true
  | some p => !p.shared || p.occ == some r.vd

/-- The operators and segments of the instance that stand on a core. -/
def State.elemsOn (s : State) (r : Run) (core : Nat) : List Nat :=
  ((List.range 8).map fun i => core * 8 + i).filter fun cid => (s.ctx cid).role.run == some r.id

/-- The fires of a core stop as the markers of a cut are injected: a source of the phase stands on it, or no operator of the instance (R174). -/
def State.stopSources (s : State) (r : Run) : State :=
  let stops (k : Nat) : Bool :=
    let here := (s.elemsOn r k).filter fun c => (s.ctx c).role.isOp
    here.isEmpty || here.any fun c => r.isSource (s.ctx c).role.node
  s.cores.foldl (fun s e => if r.covers e.1 && stops e.1 then s.modCore e.1 fun k => { k with stopFires := true } else s) s

/-- A context stands at a stop point: between firings, parked, or past a switch-away point (R168). -/
def Ctx.atStop (c : Ctx) : Bool := !c.running || c.fresh || c.sw || c.park.isSome

/-- The parks that a cut settles by letting the word issue again (R170, R174). -/
def ParkKind.settles : ParkKind → Bool
  | .fence => true
  | .mseal => true
  | .mchk => true
  | .interlock => true
  | _ => false

/-- The parks a restored context stays in; from any other its word issues afresh, or its result has come (R169, R170). A context that an overflowing
handler queue has halted stays halted (R330). -/
def Park.keeps (p : Park) : Bool :=
  match p.kind with
  | .bar => true
  | .mread => true
  | .held => p.a == 1
  | _ => false

/-- A saved context as it stands when it is restored (R168, R169): what is parked to issue afresh issues afresh, what is left of its GAP begins in the
cycle after, and results in flight count from the first cycle in which it may issue. -/
def SavedCtx.restored (c : SavedCtx) : Ctx :=
  { c.ctx with
    park := c.ctx.park.filter Park.keeps, gap := c.ctx.gap + 1, line := none, fpaid := 0
    pend := c.ctx.pend.map fun (p : Pend) => { p with left := p.left + c.ctx.gap + 1 } }

/-- Where a saved segment that waits for a context is named meanwhile (R189). -/
def waitCid (rid segid : Nat) : Nat := 2 ^ 64 * (rid + 1) + segid

/-- The cut in progress keeps a context from issuing, where it stands (R167-R170, R176). -/
def Run.stops (r : Run) (cid : Nat) (c : Ctx) : Bool :=
  match r.cut with
  | none => false
  | some k =>
    if r.savedElems.contains (c.elemKey cid) then k.kind != CutKind.periodic
    else (c.role.isSeg || r.reached c.role.node) && c.atStop &&
      !(match c.park with | some p => p.kind.settles | none => false)

end Sys2Proof.Machine
end

