-- ==== Sys2Proof/Machine/Sync.lean ====
section
/-! DEFINITION. Barriers: BAR, BARA and BARW (17 R435-R437). -/

namespace Sys2Proof.Machine

/-- The name of the barrier an arrival of a context counts toward (R436). -/
def barKey (cid scope id : Nat) : BarKey :=
  { scope := scope, id := id
    domain := match scope with | 1 => coreOf cid | 2 => quadOf (coreOf cid) | _ => 0 }

/-- The count limit of a scope (R436). -/
def barLimit (scope : Nat) : Nat := match scope with | 1 => 8 | 2 => 32 | 3 => 4096 | 4 => 16384 | _ => 65535

/-- The episodes in progress of a scope: the instance's, or the virtual device's. -/
def State.episodes (s : State) (r : Run) (scope : Nat) : List Episode := if scope ≤ 3 then r.bars else (s.vd r.vd).bars

def State.setEpisodes (s : State) (r : Run) (scope : Nat) (l : List Episode) : State :=
  if scope ≤ 3 then s.modRun r.id fun r => { r with bars := l } else s.modVd r.vd fun v => { v with bars := l }

def insertNew (l : List Nat) (n : Nat) : List Nat := if l.contains n then l else l ++ [n]

/-- A departure: an acquire at the barrier's scope, and the end of the arrival (R309, R437, R21). -/
def State.depart (s : State) (cid : Nat) (k : BarKey) : State :=
  let s := s.modCtx cid fun c =>
    { c with bars := c.bars.filter fun a => a.key != k
             departedBars := if k.scope = 3 then insertNew c.departedBars k.id else c.departedBars }
  if s.acqWide (coreOf cid) k.scope then s.l1Flush (coreOf cid) else s

/-- A context waits at a barrier. -/
def Ctx.parkedAt (c : Ctx) (k : BarKey) : Bool :=
  c.park.any fun p => p.kind == ParkKind.bar && p.a == k.scope && p.b == k.id && p.l == [k.domain]

/-- The arrival of a saved context stands as one whose episode has completed (R182 BARDONE). -/
def SavedCtx.barDone (k : BarKey) (x : SavedCtx) : SavedCtx :=
  let bars := x.ctx.bars.map fun (a : Arrival) => if a.key = k then { a with done := true } else a
  { x with ctx := { x.ctx with bars := if x.ctx.parkedAt k && !(bars.any fun a => a.key == k) then bars ++ [{ key := k, done := true }] else bars } }

/-- What a completed episode is to one of its arrivers: a parked one departs, an outstanding arrival may depart, and a restored segment that waits
for a context has it noted. -/
def State.barDone (s : State) (k : BarKey) (cid : Nat) : State :=
  if 2 ^ 64 ≤ cid then
    { s with runs := s.runs.map fun (r : Run) => { r with waitSegs := r.waitSegs.map fun w => if w.cid = cid then w.barDone k else w } }
  else if (s.ctx cid).parkedAt k then (s.unpark cid).depart cid k
  else s.modCtx cid fun c => { c with bars := c.bars.map fun (a : Arrival) => if a.key = k then { a with done := true } else a }

/-- An arrival joins the episodes in progress: those that go on, and the earlier arrivers of the one it completes. -/
def arriveAt (eps : List Episode) (cid : Nat) (k : BarKey) (count : Nat) : List Episode × Option (List Nat) :=
  let e := (eps.find? fun e => e.key == k).getD { key := k, count := count, arrived := 0, who := [] }
  let rest := eps.filter fun e => e.key != k
  if e.arrived + 1 = e.count then (rest, some e.who)
  else (rest ++ [{ e with arrived := e.arrived + 1, who := e.who ++ [cid] }], none)

/-- An arrival that a context makes before it saves belongs to the cut in progress, and so does the completion of an episode by such arrivals
alone (R177). -/
def Run.cutArrival (r : Run) (cid key : Nat) (k : BarKey) (count : Nat) : Run :=
  if 3 < k.scope || r.savedElems.contains key then r
  else { r with cut := r.cut.map fun c =>
    match arriveAt c.bars cid k count with
    | (l, none) => { c with bars := l }
    | (l, some who) => { c with bars := l, ctxs := c.ctxs.map fun x => if who.contains x.cid then x.barDone k else x } }

/-- An arrival; the last of an episode completes it. Answers whether it did. -/
def State.arrive (s : State) (cid : Nat) (r : Run) (k : BarKey) (count : Nat) : State × Bool :=
  let key := (s.ctx cid).elemKey cid
  let s := s.modCtx cid fun c => { c with arrivedBars := if k.scope = 3 then insertNew c.arrivedBars k.id else c.arrivedBars }
  match arriveAt (s.episodes r k.scope) cid k count with
  | (l, none) => ((s.setEpisodes r k.scope l).modRun r.id fun r => r.cutArrival cid key k count, false)
  | (l, some who) => (who.foldl (fun s w => s.barDone k w) ((s.setEpisodes r k.scope l).modRun r.id fun r => r.cutArrival cid key k count), true)

def barPark (kind : ParkKind) (k : BarKey) : Park := { Park.of kind with a := k.scope, b := k.id, l := [k.domain] }

/-- BAR and BARA (R435, R437): the test of the count's limit, the wait for an earlier episode of the context's own, the test against the count of
the episode in progress, the wait for the context's earlier writes, then the arrival. -/
def barBody (cont : Bool) (scope id count : Nat) (s : State) (cid : Nat) : Eff :=
  match s.ctxRun cid with
  | none => .next s
  | some r =>
    let k := barKey cid scope id
    let clash := match (s.episodes r scope).find? fun e => e.key == k with
      | some e => e.count != count
      | none => false
    if count > barLimit scope then .trap 0x01 0 0
    else match (s.ctx cid).bars.find? fun a => a.key == k with
    | some { done := false, .. } => .park s (barPark .barEarlier k)
    | own =>
      if clash then .trap 0x01 0 0
      else if s.unacked cid then .park s (Park.of .fence)
      else
        let s := if own.isSome then s.depart cid k else s
        let (s, full) := s.arrive cid r k count
        if cont then .next (s.modCtx cid fun c => { c with bars := c.bars ++ [{ key := k, done := full }] })
        else if full then .next (s.depart cid k)
        else .wait s (barPark .bar k)

/-- BAR (R435). -/
def execBar (h : Hdr) (scope : BitVec 3) (id : BitVec 4) (count : BitVec 16) (s : State) : Step :=
  issue h (memFeats false scope []) 0 (certain (barBody false scope.toNat id.toNat count.toNat)) s

/-- BARA (R435). -/
def execBara (h : Hdr) (scope : BitVec 3) (id : BitVec 4) (count : BitVec 16) (s : State) : Step :=
  issue h (memFeats false scope []) 0 (certain (barBody true scope.toNat id.toNat count.toNat)) s

/-- BARW: departs from a completed episode, parks for one in progress, and otherwise completes at once (R435). -/
def barwBody (scope id : Nat) (s : State) (cid : Nat) : Eff :=
  let k := barKey cid scope id
  match (s.ctx cid).bars.find? fun a => a.key == k with
  | none => .next s
  | some a => if a.done then .next (s.depart cid k) else .wait s (barPark .bar k)

/-- BARW (R435). -/
def execBarw (h : Hdr) (scope : BitVec 3) (id : BitVec 4) (s : State) : Step :=
  issue h (memFeats false scope []) 0 (certain (barwBody scope.toNat id.toNat)) s

end Sys2Proof.Machine
end

