-- ==== Sys2Proof/Machine/System.lean ====
section
/-! DEFINITION. QUERY and the CSR words, with every CSR of the map (03 R91, 14 R367-R369, 17 R457, 13 R341-R345, 10 R260, R261). -/

namespace Sys2Proof.Machine

/-- QUERY: the leaf as the instance latched it; never masked (R91). -/
def execQuery (h : Hdr) (d : Reg) (leaf : BitVec 4) (s : State) : Step :=
  issue h [] 1 (fun s cid =>
    .next (s.modCtx cid fun c => c.pendX d (match s.ctxRun cid with | some r => tget 0 r.leaves leaf.toNat | none => 0) 2)) s

/-- The context runs its graph's handler entry, whose FLTREC it may write (R330). -/
def State.inHandler (s : State) (cid : Nat) : Bool :=
  match s.ctxRun cid with
  | some r => (s.ctx cid).role.isOp && r.graph.handler == some (s.ctx cid).role.node
  | none => false

/-- MONSEL as it reads: CLR reads 0 (R345). -/
def Monitor.sel (m : Monitor) : Word :=
  BitVec.ofNat 64 (m.num * 2 ^ 32 + m.cls * 2 ^ 48 + m.port * 2 ^ 52 + m.event * 2 ^ 56 + (if m.en then 2 ^ 63 else 0))

/-- MONSEL written: CLR clears the monitor's results (R345). -/
def Monitor.put (m : Monitor) (w : Word) : Monitor :=
  let n := w.toNat
  let m := { m with en := bitAt n 63, event := bits n 56 4, port := bits n 52 4, cls := bits n 48 4, num := bits n 32 16 }
  if bitAt n 62 then { m with min := BitVec.allOnes 64, max := 0, bins := [] } else m

/-- What a CSR reads (R203, R260, R261, R330, R341-R345, R368). -/
def readCsr (s : State) (cid : Nat) (n : Nat) : Word :=
  let c := s.ctx cid
  match n with
  | 0x000 => BitVec.ofNat 64 (ctxOf cid)
  | 0x001 => BitVec.ofNat 64 (coreOf cid)
  | 0x002 => BitVec.ofNat 64 ((s.ctxRun cid).elim 0 (·.vd))
  | 0x003 => c.fireno
  | 0x004 => BitVec.ofNat 64 c.segid
  | 0x005 => c.argbase
  | 0x008 => BitVec.ofNat 64 ((s.ctxRun cid).elim 0x10000 fun r => r.ctxLk c)
  | 0x009 => c.ccond.setWidth 64
  | 0x010 => c.fflags.setWidth 64
  | 0x011 => c.frm.setWidth 64
  | 0x020 => BitVec.ofNat 64 (s.cycle (coreOf cid))
  | 0x021 => BitVec.ofNat 64 s.time
  | 0x030 => if c.stepEn then 1 else 0
  | 0x031 => tget 0 c.bpa 0
  | 0x032 => tget 0 c.bpa 1
  | 0x033 => tget 0 c.bpa 2
  | 0x034 => tget 0 c.bpa 3
  | 0x035 => BitVec.ofNat 64 (c.bphit.toNat + (if c.skip then 16 else 0) + c.last.toNat * 2 ^ 16 + c.ctag.toNat * 2 ^ 32)
  | 0x040 => c.mon.sel
  | 0x041 => c.mon.min
  | 0x042 => c.mon.max
  | 0x060 => if s.inHandler cid then c.fltrec.setWidth 64 <<< 6 else 0
  | _ => BitVec.ofNat 64 (tget 0 c.mon.bins (n - 0x043))

/-- Whether a CSR may be written (R367, R369). -/
def csrWritable (s : State) (cid n : Nat) : Bool :=
  n == 0x010 || n == 0x011 || (0x030 ≤ n && n ≤ 0x034) || n == 0x040 || (n == 0x060 && s.inHandler cid)

/-- A CSR written; reserved bits are ignored (R369). -/
def writeCsr (c : Ctx) (n : Nat) (w : Word) : Ctx :=
  match n with
  | 0x010 => { c with fflags := w.setWidth 6 }
  | 0x011 => if w.toNat % 8 = 7 then c else { c with frm := w.setWidth 3 }
  | 0x030 => { c with stepEn := w.getLsbD 0 }
  | 0x040 => { c with mon := c.mon.put w }
  | 0x060 => { c with fltrec := (w >>> 6).setWidth 13 }
  | _ => { c with bpa := tset 0 c.bpa (n - 0x031) (w &&& 0x00FFFFFFFFFFFFF9) }

/-- The feature of a CSR: monitors bit 14, debug bit 15 of leaf 0 (R88, R367). -/
def csrFeats (n : Nat) : List (Nat × Nat) :=
  if 0x030 ≤ n && n ≤ 0x035 then [(0, 15)] else if 0x040 ≤ n && n ≤ 0x052 then [(0, 14)] else []

/-- The shape of CSRW, CSRS and CSRC (R457): the old value to xD with latency 2, the new one at once; PRIV where the CSR is
read-only. -/
def csrBody (n : Nat) (d a : Reg) (f : Word → Word → Word) (s : State) (cid : Nat) : Eff :=
  if csrWritable s cid n then
    let t := readCsr s cid n
    .next (s.modCtx cid fun c => (writeCsr c n (f t (c.xr a))).pendX d t 2)
  else .trap 0x03 0 0

/-- CSRR (R457). -/
def execCsrr (h : Hdr) (d : Reg) (csr : BitVec 12) (s : State) : Step :=
  issue h (csrFeats csr.toNat) 1 (fun s cid => .next (s.modCtx cid fun c => c.pendX d (readCsr s cid csr.toNat) 2)) s
/-- CSRW (R457). -/
def execCsrw (h : Hdr) (d a : Reg) (csr : BitVec 12) (s : State) : Step :=
  issue h (csrFeats csr.toNat) 1 (csrBody csr.toNat d a fun _ x => x) s
/-- CSRS (R457). -/
def execCsrs (h : Hdr) (d a : Reg) (csr : BitVec 12) (s : State) : Step :=
  issue h (csrFeats csr.toNat) 1 (csrBody csr.toNat d a fun t x => t ||| x) s
/-- CSRC (R457). -/
def execCsrc (h : Hdr) (d a : Reg) (csr : BitVec 12) (s : State) : Step :=
  issue h (csrFeats csr.toNat) 1 (csrBody csr.toNat d a fun t x => t &&& ~~~x) s

end Sys2Proof.Machine
end

