-- ==== Sys2Proof/Machine/Issue.lean ====
section
/-! DEFINITION. Issue: which context of a core issues in a cycle, what ends a park, the fetch of a word, single step and breakpoints
(09 R226-R229, 08 R216, R219, 13 R341-R343). -/

namespace Sys2Proof.Machine

/-! ## The fetch of a word (R101, R301) -/

/-- The word at a context's PC; none where no word of its body stands there. -/
def State.fetch (s : State) (cid : Nat) : Option Word :=
  let c := s.ctx cid
  match s.ctxRun cid with
  | none => none
  | some r => match r.node c.role.node with
    | none => none
    | some n =>
      if c.pc + 8 ≤ n.codeLen then (s.vBytes r.vd (r.codeBase + n.codeOff + c.pc) 8).map fun bs => BitVec.ofNat 64 (leNat bs)
      else none

/-- Where the word at a context's PC stands in its virtual device's space. -/
def State.fetchVa (s : State) (cid : Nat) : Option (Run × Nat) :=
  (s.ctxRun cid).bind fun r => (r.node (s.ctx cid).role.node).map fun n => (r, r.codeBase + n.codeOff + (s.ctx cid).pc)

/-- Where it stands in physical memory. -/
def State.fetchPa (s : State) (cid : Nat) : Option Nat := (s.fetchVa cid).bind fun x => s.toPa x.1.vd x.2

/-- The Damper that the fetch of a context's next word has still to pass: none where its core holds the word's sector, or no page does (R101, R296). -/
def State.fetchToll (s : State) (cid : Nat) : Option Nat :=
  let c := s.ctx cid
  match s.fetchVa cid with
  | none => none
  | some (r, va) =>
    if c.line = some (va / 128) then none
    else match s.toPa r.vd va with
    | none => none
    | some pa => (s.tollPath (dieOf (coreOf cid)) r.vd pa true)[c.fpaid]?

/-- The core holds the sector of the word that issues; a fetch from the home slice fills it there (R295, R301, assumption 89). -/
def State.fetchFill (s : State) (cid : Nat) : State :=
  match s.fetchVa cid, s.fetchPa cid with
  | some (r, va), some pa =>
    if (s.ctx cid).line = some (va / 128) then s
    else (s.l2Alloc r.vd pa true).modCtx cid fun c => { c with line := some (va / 128), fpaid := 0 }
  | _, _ => s

/-! ## Which context issues (R226) -/

/-- What a context is parked on has come about, so that its word issues again, or the next one does (R169, R170, R219). The other
parks are ended by the event that they wait for. -/
def State.wakes (s : State) (cid : Nat) (r : Run) (p : Park) : Bool :=
  let c := s.ctx cid
  let core := coreOf cid
  let k := s.core core
  match p.kind with
  | .lds => feFull k.fe p.a p.b && !s.ldsWaits cid p.a p.b
  | .ringEmpty => (match r.ring p.a with | some g => tget 0 g.cur p.b != g.pushed && !s.popWaits cid p.a p.b | none => true)
  | .cond => (List.range 256).any fun n => (r.slot n).ent.isNone
  | .spec => c.withheld.isNone && (match p.a with
    | 0 => !c.uncertain
    | 1 => decide ((k.sbuf.map (·.bytes)).sum + p.b ≤ 4096)
    | _ => !c.uncertain && !(s.draining cid))
  | .chain => (match r.openEntry (BitVec.ofNat 64 p.a) with | some (_, e) => decide (e.depth ≤ 8) | none => true)
  | .mgroup => (match p.l with | w :: _ => s.grpComplete (BitVec.ofNat 64 w) | [] => true)
  | .munbind => !(s.firingOn core p.a) && (s.acc core p.a).queue.isEmpty
  | .copyFull => decide (k.copies.length < 64)
  | .mreadFull => decide ((s.acc core p.a).queue.length < 16)
  | .streamBar => !(s.barred r c.role.node)
  | .barEarlier => !(c.bars.any fun a => a.key.scope == p.a && a.key.id == p.b && p.l == [a.key.domain] && !a.done)
  | .drain => !(k.copies.any fun x => p.l.contains x.tag)
  | .fence => if p.a = 1 then !(s.acquiring cid) else if p.a = 2 then !(s.rmwPending cid) else if p.a = 3 then !(s.spawnOpen cid) else !(s.unacked cid)
  | .mseal => !(s.firingOn core p.a)
  | .mchk => !(s.firingOn core p.a)
  | .inj => decide (0 < r.freeSlots p.a)
  | .bank => !(r.bankWaits c.role.node p.a)
  | .interlock => !(k.copies.any fun x => p.l.contains x.tag)
  | .lkrd => r.lkrdDone (BitVec.ofNat 64 p.a) (p.l == [1]) p.b
  | .mreduce => true
  | .landing => false
  | .bar => false
  | .ringFull => false
  | .pool => false
  | .mread => false
  | .launch => false
  | .ringRemote => false
  | .fin => false
  | .specFin => false
  | .held => false

/-- A context is ready but for its GAP and its next word (R226, R227, R383, R459, R111). -/
def State.readyBut (s : State) (cid : Nat) : Bool :=
  let c := s.ctx cid
  match s.ctxRun cid with
  | none => false
  | some r =>
    c.running && r.goes c.role.node && s.occupied r && c.wait.isNone && c.idle.isNone && !(r.stops cid c) &&
    (match c.park with | none => true | some p => s.wakes cid r p) && (!c.uncertain || s.specOk (coreOf cid) r.vd)

/-- A context is ready: it could issue in this cycle. -/
def State.ready (s : State) (cid : Nat) : Bool := s.readyBut cid && (s.ctx cid).gap == 0 && (s.fetchToll cid).isNone

/-- The priority level of a context (R216, R219). -/
def State.level (s : State) (cid : Nat) : Nat :=
  let c := s.ctx cid
  if c.uncertain then 0
  else match s.ctxRun cid with
  | none => 1
  | some r => if (r.rings.any fun g => g.full && c.ringsUsed.contains g.id) || (r.poolFull && c.role.isSeg) then 2 else 1

/-- The next ready context of a level after a context of the core, ascending and wrapping. -/
def State.nextReady (s : State) (core after lvl : Nat) : Option Nat :=
  ((List.range 8).map fun i => (after + 1 + i) % 8).find? fun x => s.ready (core * 8 + x) && s.level (core * 8 + x) == lvl

/-- The context after which the turn of a level goes on: the one that had it there last (R226). -/
def State.turnAfter (s : State) (core lvl : Nat) : Nat :=
  let k := s.core core
  if s.level (core * 8 + k.holder) = lvl then k.holder else tget 7 k.turns lvl

/-- The issuing context of a core in this cycle, and whether the turn passes to it (R226). -/
def State.pick (s : State) (core : Nat) : Option (Nat × Bool) :=
  let k := s.core core
  if k.issued then none
  else
    let lvls := (List.range 8).filterMap fun x => if s.ready (core * 8 + x) then some (s.level (core * 8 + x)) else none
    match lvls.foldl (fun m l => match m with | none => some l | some x => some (Nat.max x l)) none with
    | none => none
    | some top =>
      let h := core * 8 + k.holder
      let hl := s.level h
      let turn := !k.turnOver && s.readyBut h
      if !turn || hl < top then (s.nextReady core (s.turnAfter core top) top).map fun x => (x, true)
      else if s.ready h then some (k.holder, false)
      else (s.nextReady core k.holder top).map fun x => (x, false)

/-- The enabled breakpoints at a context's next word (R343). -/
def State.bpMask (s : State) (cid : Nat) : Nat :=
  let c := s.ctx cid
  match s.ctxRun cid with
  | none => 0
  | some r =>
    let va := r.codeBase + ((r.node c.role.node).elim 0 (·.codeOff)) + c.pc
    (List.range 4).foldl (fun m i =>
      let b := (tget 0 c.bpa i).toNat
      if b % 2 = 1 && bits b 3 53 * 8 = va then m + 2 ^ i else m) 0

/-- What comes of a context's turn to issue before any word's own meaning. -/
inductive Turned where
  | stay (s : State)
  | word (i : Instr) (s : State)

/-- The turn passes to a context (R226). -/
def State.takeTurn (s : State) (core x : Nat) : State :=
  s.modCore core fun k => { k with holder := x, turnLen := 0, turnOver := false, turns := tset 7 k.turns (s.level (core * 8 + x)) x }

/-- INFO of a STEP: a copy's tag, a child's instance id (R342). -/
def Ctx.stepInfo (c : Ctx) (w : Word) : Nat :=
  let op := w.toNat / 256 % 256
  if 0x50 ≤ op && op ≤ 0x52 then c.ctag.toNat else if op = 0x4C then c.child else 0

/-- STEP of the word before, BREAK, or the fetch and decoding of the next word (R342-R344, R365). The word that issues is passed over by its
breakpoint once. -/
def State.present (s : State) (cid : Nat) : Turned :=
  let c := s.ctx cid
  let m := if c.skip then 0 else s.bpMask cid
  let hit (c : Ctx) : Ctx := { c with bphit := BitVec.ofNat 4 m }
  match c.stepDue with
  | some (w, pc) =>
    .stay (((s.setCtx cid { c with stepDue := none, skip := c.skip || m != 0 }).raiseAt cid 0x10 w pc (c.stepInfo w) 0).modCtx cid hit)
  | none =>
    let w := (s.fetch cid).getD 0
    if m ≠ 0 then
      .stay (((s.setCtx cid { c with skip := true }).raiseAt cid 0x0F w c.pc m 0).modCtx cid hit)
    else
      let s := { s with ir := w, cur := some cid, skipped := c.skip }
      if (s.fetchPa cid).any s.poisoned then .stay (s.eccCtx cid c.role.node 6 0 ((s.fetchPa cid).getD 0))
      else
        let t := s.setCtx cid { c with skip := false }
        match s.fetch cid, decodeWord w with
        | some _, .ok i => .word i (t.fetchFill cid)
        | _, _ => .stay (settle t cid (hdrOf w) (.trap 0x01 0 0))

/-- The first word of a firing of the handler entry issues: the token at the head of its queue is written to core memory at the address in FLTREC,
leaves the queue, and is the firing's (R167, R330). -/
def State.takeFlt (s : State) (cid : Nat) : State :=
  match s.ctxRun cid with
  | none => s
  | some r =>
    let h := (s.ctx cid).role.node
    match r.hq with
    | [] => s
    | f :: rest =>
      if r.graph.handler ≠ some h then s
      else
        let a := (s.ctx cid).fltrec.toNat * 64 % 0x80000
        let b := a / 0x8000
        let s := s.modRun r.id fun r => { r with hq := rest }
        (s.modCore (coreOf cid) fun k =>
          { k with mem := mwrite k.mem a f.bytes, bankSharers := tset [] k.bankSharers b (addSharer (tget [] k.bankSharers b) h) }).modCtx cid fun c =>
            { c with token := some f }

/-- A context's place in the scan order of a region: columns, then rows, then contexts (R136). -/
def scanKey (cid : Nat) : Nat :=
  ((dieOf (coreOf cid) * 32 + colOf (coreOf cid)) * 16 + rowOf (coreOf cid)) * 8 + ctxOf cid

/-- A context put among contexts in scan order. -/
def scanInsert (cid : Nat) : List Nat → List Nat
  | [] => [cid]
  | x :: l => if scanKey cid ≤ scanKey x then cid :: x :: l else x :: scanInsert cid l

/-- Contexts in scan order. -/
def scanSort : List Nat → List Nat
  | [] => []
  | x :: l => scanInsert x (scanSort l)

/-- What a word, or the drain of a buffered RESOLVE, does on the condition table or to the segments, where other contexts may do so in the same cycle. -/
inductive CondOp where
  | resolve (h : Word) (taken : Bool)
  | spawn
  | spawnc (h : Word)
  | other
deriving DecidableEq, Repr

/-- What the word at a context's PC does there, if it takes effect at issue. -/
def State.condOp (s : State) (cid : Nat) : Option CondOp :=
  match (s.fetch cid).map decodeWord with
  | some (.ok (.resolve _ a b)) => if s.buffers cid then none else some (.resolve ((s.ctx cid).xr a) (((s.ctx cid).xr b).getLsbD 0))
  | some (.ok (.spawn ..)) => some .spawn
  | some (.ok (.spawnc _ d _ _ _)) => some (.spawnc ((s.ctx cid).xr d))
  | some (.ok (.cond ..)) => some .other
  | some (.ok (.lkrd ..)) => some .other
  | _ => none

/-- A context's effects may drain in this cycle (R213). -/
def State.mayDrain (s : State) (cid : Nat) : Bool :=
  !(s.ctx cid).uncertain && !(s.core (coreOf cid)).drained.contains cid && !(s.ringTravels cid)

/-- A RESOLVE that drains in this cycle. -/
def State.drainOp (s : State) (cid : Nat) : Option CondOp :=
  match s.ownEntries cid with
  | e :: _ => (match e.eff with | .resolve h o => if s.mayDrain cid then some (.resolve h o) else none | _ => none)
  | [] => none

/-- An event of a context in this cycle that may meet those of other contexts: a drain, or the issue of a word. -/
structure CondTurn where
  cid : Nat
  drain : Bool
  op : CondOp
deriving DecidableEq, Repr

/-- Its place in the scan order; a context's drain comes before its word. -/
def CondTurn.key (t : CondTurn) : Nat := 2 * scanKey t.cid + (if t.drain then 0 else 1)

/-- The events of the contexts of an instance that are still to come in this cycle. -/
def State.condTurns (s : State) (r : Run) : List CondTurn :=
  s.ctxs.flatMap fun e =>
    if (s.ctxRun e.1).any fun q => q.id == r.id then
      ((s.drainOp e.1).map fun o => { cid := e.1, drain := true, op := o : CondTurn }).toList ++
      (if (s.pick (coreOf e.1)).any fun x => x.1 == ctxOf e.1 then ((s.condOp e.1).map fun o => { cid := e.1, drain := false, op := o : CondTurn }).toList
       else [])
    else []

/-- The slot of the open entry that an event resolves. -/
def Run.resolves (r : Run) (t : CondTurn) : Option Nat :=
  match t.op with
  | .resolve h _ => (r.openEntry h).map (·.1)
  | _ => none

/-- The side under which a spawn makes its segment: an entry that is itself resolved in this cycle takes none. -/
def Run.spawnSide (r : Run) (ts : List CondTurn) (c : Ctx) : CondOp → Option (BitVec 18)
  | .spawn => some c.ccond
  | .spawnc h => (r.openEntry h).bind fun (n, e) => if ts.any fun t => r.resolves t == some n then none else some e.parent
  | _ => none

/-- One event comes before another whatever the scan order (R211): the RESOLVE of an ancestor before that of an entry under it, the RESOLVE of an entry
before a SPAWNC on it, and a spawn under the losing side of an entry before the RESOLVE that prunes it. -/
def State.ahead (s : State) (r : Run) (ts : List CondTurn) (a b : CondTurn) : Bool :=
  (match r.resolves a, b.op with
   | some n, .resolve h _ => (r.openEntry h).any fun (m, e) => m != n && (r.under n true 12 e.parent || r.under n false 12 e.parent)
   | some n, .spawnc h => (r.openEntry h).any fun (m, _) => m == n
   | _, _ => false) ||
  (match b.op, r.resolves b with
   | .resolve _ o, some n => (r.spawnSide ts (s.ctx a.cid) a.op).any fun cc => r.under n (!o) 12 cc
   | _, _ => false)

/-- Another event of the cycle comes before this one: by the rules of R211, or by the scan order where it waits for none itself (R196, R211). -/
def State.mustWait (s : State) (t : CondTurn) : Bool :=
  match s.ctxRun t.cid with
  | none => false
  | some r =>
    let ts := s.condTurns r
    let blocked (b : CondTurn) : Bool := ts.any fun a => s.ahead r ts a b
    blocked t || ts.any fun a => decide (a.key < t.key) && !blocked a

/-- The word of a context lets another event of the cycle go first. -/
def State.gated (s : State) (cid : Nat) : Bool :=
  match s.condOp cid with
  | some o => s.mustWait { cid := cid, drain := false, op := o }
  | none => false

/-- SPEC_DRAIN: the oldest buffered effect of context `unit`, which is certain, takes effect, one a cycle; the last one ends a segment that has
reached FIN (R201, R211, R213). -/
def execSpecDrain (s : State) : Step :=
  let cid := s.ev.unit
  .next (match s.ownEntries cid with
    | [] => s
    | e :: _ =>
      if !(s.mayDrain cid) || (s.drainOp cid).any fun o => s.mustWait { cid := cid, drain := true, op := o } then s
      else match s.drainEntry cid e with
      | none => s
      | some s' => (s'.modCore (coreOf cid) fun k => { k with drained := cid :: k.drained }).endDrained cid)

/-- A firing starts as its first word issues: the monitor samples the occupancy of its port, and the handler's takes its token (R345 EVENT 4, R330). -/
def State.startsFiring (s : State) (cid : Nat) : State :=
  if !(s.ctx cid).fresh then s
  else
    let s := match s.ctxRun cid with
      | none => s
      | some r => match r.graph.chanOfIn (s.ctx cid).role.node (s.ctx cid).mon.port with
        | some i => s.sample cid 4 (r.chan i).buf.length
        | none => s
    s.takeFlt cid

/-- A context of a core begins to issue, if the core picks it: results whose cycles have run are written, its park ends, and the firing it may be
the first word of has started (R168, R229). -/
def State.turnOf (s : State) (cid : Nat) : Turned :=
  match s.pick (coreOf cid) with
  | none => .stay s
  | some (x, passes) =>
    if x ≠ ctxOf cid || s.gated cid then .stay s
    else
      let s := if passes then s.takeTurn (coreOf cid) x else s
      let s := ({ s with again := (s.ctx cid).park }).startsFiring cid
      ((s.modCtx cid fun c => { c.writeDue with fresh := false }).unpark cid).present cid

/-- After an issue: an uncertain segment is charged for it (R111); the core's other contexts idle no longer (R459); a word that a cut let issue again leaves its context at a stop
point (R170). -/
def State.afterIssue (s0 s : State) (cid : Nat) : State :=
  let s := { s with cur := none, ir := 0, again := none, skipped := false }
  if !(s.core (coreOf cid)).issued then s
  else
    let s := s.modCtx cid fun c => { c with fstood := s.now }
    let s := if (s0.ctx cid).uncertain then
        match s0.ctxRun cid with
        | some r => s.setSpec (coreOf cid) r.vd (s.specLevel (coreOf cid) r.vd - 16)
        | none => s
      else s
    let s := (List.range 8).foldl (fun s i =>
      let o := coreOf cid * 8 + i
      if o = cid || (s.ctx o).idle.isNone then s else s.modCtx o fun c => { c with idle := none }) s
    let reached := match s.ctxRun cid with
      | some r => r.cut.isSome && ((s.ctx cid).role.isSeg || r.reached (s.ctx cid).role.node)
      | none => false
    if (s0.ctx cid).park.isSome && reached then s.modCtx cid fun c => { c with sw := true } else s

end Sys2Proof.Machine
end

