-- ==== Sys2Proof/Machine/Clock.lean ====
section
/-! DEFINITION. The passing of a cycle, and the writes and wakes that time brings: RESULT_WRITEBACK, LANDING_WRITE, WAIT_EXPIRY and
IDLE_WAKE (09 R227-R229, 14 R368, 15 R383, 17 R459). -/

namespace Sys2Proof.Machine

/-- A cycle of a context: results in flight come a cycle nearer, and those whose cycles have run are written; GAP, WAIT and IDLE run
down. -/
def Ctx.tick (c : Ctx) : Ctx :=
  ({ c with
     pend := c.pend.map fun (p : Pend) => { p with left := p.left - 1 }
     land := c.land.map fun (l : Landing) => { l with left := l.left - 1 }
     gap := c.gap - 1, wait := c.wait.map (· - 1), idle := c.idle.map (· - 1) }).writeDue

/-- A cycle of a core: a new issue slot, the banks free again, the array's fire a cycle nearer its end. -/
def Core.tick (k : Core) : Core :=
  { k with issued := false, banksBusy := [], drained := [], fireLeft := k.fireLeft - 1, dummy := k.dummy && k.fireLeft > 1 }

/-- The package time base moves by one period of 1.8 GHz; a die's clock makes a cycle in `fclk` of 1,800 periods (R50, R368). -/
def Die.beats (d : Die) : Bool := 1800 ≤ d.clkAcc + d.fclk

def Die.tick (d : Die) : Die :=
  if d.beats then
    { d with clkAcc := d.clkAcc + d.fclk - 1800, cycles := d.cycles + 1, cyc := d.cyc + 1
             guards := d.guards.map fun (g : GuardWin) => { g with left := g.left - 1 } }
  else { d with clkAcc := d.clkAcc + d.fclk }

/-- A cycle of what the watchdog looks at: how long a selection has been held, and how long some channel has been full (R125, R152, R200). -/
def Run.tickWatch (r : Run) : Run :=
  { r with heldFor := if r.heldSel.isSome then r.heldFor + 1 else 0
           fullFor := if r.fullChans.isEmpty && r.fullStores == 0 then 0 else r.fullFor + 1 }

/-- A cycle of a run's region: the watchdog counts, a phase's configuration comes nearer, likelihoods are recomputed by one level. -/
def Run.tick (r : Run) : Run :=
  let r := r.tickLk.tickWatch
  match r.st with
  | .running => { r with watchdog := r.watchdog + 1 }
  | .config n => { r with st := .config (n - 1), watchdog := r.watchdog + 1 }
  | _ => r

/-- A cycle of occupancy is charged to the occupant of each shared strip (R109). -/
def State.chargeOcc (s : State) (p : Strip) : State :=
  match p.occ with
  | none => s
  | some v =>
    let key := dampKey 7 (p.die * 32 + p.col)
    let d := s.damper key
    s.setDamper key ((d.setCl 1800 v (d.cl 1800 v - 16)).setFl v (d.fl v - 16))

/-- One period of the package time base. -/
def State.tick (s : State) : State :=
  let on (die : Nat) : Bool := (s.die die).beats
  let s1 := s.ctxs.foldl (fun s e => if on (dieOf (coreOf e.1)) then s.setCtx e.1 e.2.tick else s) s
  let s2 := s.cores.foldl (fun s e => if on (dieOf e.1) then s.setCore e.1 e.2.tick else s) s1
  let s3 := { s2 with runs := s2.runs.map fun (r : Run) => if on r.die then r.tick else r }
  let s4 := s.strips.foldl (fun s p => if p.shared && on p.die then s.chargeOcc p else s) s3
  let s5 := (List.range 4).foldl (fun s d => s.modDie d Die.tick) s4
  { s5 with now := s5.now + 1, arrivals := [] }

/-- The run of a context goes on there, and no cut holds the context. -/
def State.live (s : State) (cid : Nat) : Bool :=
  match s.ctxRun cid with
  | none => false
  | some r => r.goes (s.ctx cid).role.node && !(r.stops cid (s.ctx cid))

/-- RESULT_WRITEBACK: context `unit`'s results whose cycles have run are written (R227, R228). -/
def execResultWriteback (s : State) : Step :=
  .next (if s.live s.ev.unit then s.modCtx s.ev.unit Ctx.writeDue else s)

/-- LANDING_WRITE: context `unit`'s staged result is written whole, and the context is ready from the next cycle; of a result of fixed latency that an
earlier word writes to the same register in this cycle nothing remains (R228, R229). A load from device memory is sampled (R345 EVENT 3). -/
def execLandingWrite (s : State) : Step :=
  let cid := s.ev.unit
  .next (match (s.ctx cid).land with
    | none => s
    | some l =>
      if l.left ≠ 0 || !(s.live cid) then s
      else
        let s := match l.load with | some t => s.sample cid 3 (s.cycle (coreOf cid) - t) | none => s
        (s.modCtx cid fun c =>
        let c := c.writeDue
        let c := { c with pend := c.pend.filter fun p => !(p.left == 1 && l.writes.any fun w => w.file == p.file && w.reg == p.reg) }
        { l.writes.foldl (fun c w => c.write w.file w.reg w.val) c with land := none, gap := Nat.max c.gap 1 }).unpark cid)

/-- WAIT_EXPIRY: context `unit`'s wait has run (R383). -/
def execWaitExpiry (s : State) : Step :=
  .next (if (s.ctx s.ev.unit).wait == some 0 then s.modCtx s.ev.unit fun c => { c with wait := none } else s)

/-- IDLE_WAKE: context `unit` has idled for 1,024 cycles (R459). -/
def execIdleWake (s : State) : Step :=
  .next (if (s.ctx s.ev.unit).idle == some 0 then s.modCtx s.ev.unit fun c => { c with idle := none } else s)

end Sys2Proof.Machine
end

