-- ==== Sys2Proof/Machine/Digest.lean ====
section
/-! DEFINITION. SHA-384, of which the journal's HASH, an object's digest and an attestation quote are made, and SHA-512 and SHA-256, of which an SLH-DSA
signature is (03 R78, R80, R92). -/

namespace Sys2Proof.Machine

/-! The constants of the hash are the first 64 bits of the fractional parts of roots of the first primes (FIPS 180-4); they are computed
from that definition. -/

/-- The first 80 primes. -/
def shaPrimes : List Nat :=
  ((List.range 410).filter fun n => decide (1 < n) && (List.range 21).all fun d => d < 2 || d == n || n % d != 0).take 80

/-- The greatest number of at most `n` bits above `r` whose `k`th power is at most `t`. -/
def rootBits (k t : Nat) : Nat → Nat → Nat
  | 0, r => r
  | n + 1, r => rootBits k t n (if (r + 2 ^ n) ^ k ≤ t then r + 2 ^ n else r)

/-- 64 bits of the fractional part of the `k`th root of a number. -/
def rootFrac (k p : Nat) : Word := BitVec.ofNat 64 (rootBits k (p * 2 ^ (64 * k)) 70 0)

/-- One constant a round: cube roots of the 80 primes. -/
def roundConsts : List Word := shaPrimes.map (rootFrac 3)

/-- The eight words a SHA-384 starts from: square roots of the ninth to the sixteenth prime. -/
def shaStart : List Word := ((shaPrimes.drop 8).take 8).map (rootFrac 2)

/-- The big-endian bytes of a 64-bit word. -/
def beBytes (w : Word) : List Byte := (natLe 8 w.toNat).reverse

/-- The padded message: a one bit, zeros, and the length in bits in 16 bytes (FIPS 180-4). -/
def shaPad (m : List Byte) : List Byte :=
  let z := (239 - m.length % 128) % 128
  m ++ [0x80] ++ List.replicate z 0 ++ (natLe 16 (8 * m.length)).reverse

def shaSchedule (w : List Word) : List Word :=
  ((List.range 64).foldl (fun (r : List Word) _ =>
    -- `r` holds the schedule in reverse, the latest word first.
    let w2 := r.getD 1 0
    let w15 := r.getD 14 0
    let s0 := w15.rotateRight 1 ^^^ w15.rotateRight 8 ^^^ w15 >>> 7
    let s1 := w2.rotateRight 19 ^^^ w2.rotateRight 61 ^^^ w2 >>> 6
    (s1 + r.getD 6 0 + s0 + r.getD 15 0) :: r) w.reverse).reverse

def shaRound (h : List Word) (kw : Word × Word) : List Word :=
  match h with
  | [a, b, c, d, e, f, g, x] =>
    let s1 := e.rotateRight 14 ^^^ e.rotateRight 18 ^^^ e.rotateRight 41
    let ch := (e &&& f) ^^^ (~~~e &&& g)
    let t1 := x + s1 + ch + kw.1 + kw.2
    let s0 := a.rotateRight 28 ^^^ a.rotateRight 34 ^^^ a.rotateRight 39
    let mj := (a &&& b) ^^^ (a &&& c) ^^^ (b &&& c)
    [t1 + (s0 + mj), a, b, c, d + t1, e, f, g]
  | _ => h

def shaBlock (h : List Word) (b : List Byte) : List Word :=
  let w := (List.range 16).map fun i => BitVec.ofNat 64 (leNat ((b.drop (8 * i)).take 8).reverse)
  List.zipWith (· + ·) h ((roundConsts.zip (shaSchedule w)).foldl shaRound h)

/-- The eight words after the last block of a message, from those that a hash starts from. -/
def shaWords (start : List Word) (m : List Byte) : List Word :=
  let p := shaPad m
  (List.range (p.length / 128)).foldl (fun h i => shaBlock h ((p.drop (128 * i)).take 128)) start

/-- SHA-384 of a list of bytes: 48 bytes. -/
def sha384 (m : List Byte) : List Byte := ((shaWords shaStart m).take 6).flatMap beBytes

/-- The eight words SHA-512 starts from: square roots of the first eight primes. -/
def sha512Start : List Word := (shaPrimes.take 8).map (rootFrac 2)

/-- SHA-512 of a list of bytes: 64 bytes. -/
def sha512 (m : List Byte) : List Byte := (shaWords sha512Start m).flatMap beBytes

/-! ## SHA-256, on words of 32 bits -/

/-- Its constants and the words it starts from are the first 32 bits of those of SHA-512. -/
def high32 (w : Word) : BitVec 32 := (w >>> 32).setWidth 32

def sha256Pad (m : List Byte) : List Byte :=
  let z := (119 - m.length % 64) % 64
  m ++ [0x80] ++ List.replicate z 0 ++ (natLe 8 (8 * m.length)).reverse

def sha256Schedule (w : List (BitVec 32)) : List (BitVec 32) :=
  ((List.range 48).foldl (fun (r : List (BitVec 32)) _ =>
    let w2 := r.getD 1 0
    let w15 := r.getD 14 0
    let s0 := w15.rotateRight 7 ^^^ w15.rotateRight 18 ^^^ w15 >>> 3
    let s1 := w2.rotateRight 17 ^^^ w2.rotateRight 19 ^^^ w2 >>> 10
    (s1 + r.getD 6 0 + s0 + r.getD 15 0) :: r) w.reverse).reverse

def sha256Round (h : List (BitVec 32)) (kw : BitVec 32 × BitVec 32) : List (BitVec 32) :=
  match h with
  | [a, b, c, d, e, f, g, x] =>
    let s1 := e.rotateRight 6 ^^^ e.rotateRight 11 ^^^ e.rotateRight 25
    let ch := (e &&& f) ^^^ (~~~e &&& g)
    let t1 := x + s1 + ch + kw.1 + kw.2
    let s0 := a.rotateRight 2 ^^^ a.rotateRight 13 ^^^ a.rotateRight 22
    let mj := (a &&& b) ^^^ (a &&& c) ^^^ (b &&& c)
    [t1 + (s0 + mj), a, b, c, d + t1, e, f, g]
  | _ => h

def sha256Block (h : List (BitVec 32)) (b : List Byte) : List (BitVec 32) :=
  let w := (List.range 16).map fun i => BitVec.ofNat 32 (leNat ((b.drop (4 * i)).take 4).reverse)
  List.zipWith (· + ·) h (((roundConsts.take 64).map high32 |>.zip (sha256Schedule w)).foldl sha256Round h)

/-- SHA-256 of a list of bytes: 32 bytes. -/
def sha256 (m : List Byte) : List Byte :=
  let p := sha256Pad m
  let h := (List.range (p.length / 64)).foldl (fun h i => sha256Block h ((p.drop (64 * i)).take 64)) (sha512Start.map high32)
  h.flatMap fun w => (natLe 4 w.toNat).reverse

end Sys2Proof.Machine
end

