-- ==== Sys2Proof/Machine/Host.lean ====
section
/-! DEFINITION. What the device writes for its host: the fault queue, the journal, completion records and interrupts; the acceptance
of a command; and the memory grant (03 R69-R78, R86, 13 R335). -/

namespace Sys2Proof.Machine

/-! ## The fault queue (R335) -/

/-- An MSI-X message of a function; while the host link is down it stays pending (R65, assumption 83). -/
def State.raiseMsix (s : State) (fn vec : Nat) : State :=
  if s.linkUp then { s with msix := s.msix ++ [(fn, vec)] } else s.modVd fn fun v => { v with msixPend := v.msixPend ||| 1 <<< (vec % 8) }

/-- An entry of 64 bytes written whole at FQIDX, which then advances; the newest overwrites the oldest of a full queue. -/
def State.fqPut (s : State) (vd : Nat) (bs : List Byte) : State :=
  let v := s.vd vd
  let s := s.vWrite vd (fqBase vd + 64 * v.fqidx) bs
  let s := s.modVd vd fun v =>
    { v with fqidx := (v.fqidx + 1) % 4096, fqwrap := if v.fqidx = 4095 then (v.fqwrap + 1) % 2 ^ 32 else v.fqwrap }
  if v.fqen then s.raiseMsix vd v.fqvec.toNat else s

def State.fqWrite (s : State) (f : Flt) : State := s.fqPut f.vd f.bytes

/-! ## Commands under way -/

def Vd.port (v : Vd) (p : Nat) : Port := tget Port.init v.ports p
def State.modPort (s : State) (vd p : Nat) (f : Port → Port) : State :=
  s.modVd vd fun v => { v with ports := tset Port.init v.ports p (f (v.port p)) }

/-- The command of a port that a key (virtual device, port, SEQ) names. -/
def State.pending (s : State) (k : Nat × Nat × Nat) : Option Pending := ((s.vd k.1).port k.2.1).queue.find? fun c => c.seq == k.2.2
def State.modPending (s : State) (k : Nat × Nat × Nat) (f : Pending → Pending) : State :=
  s.modPort k.1 k.2.1 fun p => { p with queue := replaceFirst (fun c => c.seq == k.2.2) f p.queue }

/-- A command has reached its completion point with a STATUS, a FAULT and a RESULT; COMMAND_COMPLETION writes its record. -/
def State.finishCmd (s : State) (k : Nat × Nat × Nat) (status fault result : Nat) : State :=
  s.modPending k fun c => if c.done.isSome then c else { c with dispatched := true, done := some (status, fault, result) }

def State.finishOpt (s : State) (k : Option (Nat × Nat × Nat)) (status fault result : Nat) : State :=
  match k with
  | some k => s.finishCmd k status fault result
  | none => s

/-- The 64 bytes of a command as received (R73). -/
def cmdBytes (kind : Nat) (c : Cmd) : List Byte :=
  natLe 8 (kind + c.ver.toNat * 2 ^ 8 + c.irq.toNat * 2 ^ 16 + c.vec.toNat * 2 ^ 17 + (if c.debug then 2 ^ 20 else 0) + c.mbz.toNat * 2 ^ 21 +
    c.seq.toNat * 2 ^ 32) ++
  natLe 8 c.cpl.toNat ++ natLe 8 c.p0.toNat ++ natLe 8 c.p1.toNat ++ natLe 8 c.p2.toNat ++ natLe 8 c.p3.toNat ++
  natLe 8 c.p4.toNat ++ natLe 8 c.p5.toNat

/-- The first word of a journal entry and of a completion record differ in their highest byte only (R77, R78). -/
def cmdWord (status kind port seq : Nat) : Nat := seq + port * 2 ^ 32 + kind * 2 ^ 40 + status * 2 ^ 48

/-- The tests of R71 on a write that is a command, and its acceptance: the journal's entry is written and the command joins the
port's queue (R78). -/
def State.accept (s : State) (vd port kind : Nat) (c : Cmd) : State :=
  if !s.up || !s.linkUp || vd ≥ 32 || port ≥ 4 then s
  else
    let v := s.vd vd
    let p := v.port port
    let ver := c.ver.toNat
    if (ver ≠ 2 && ver ≠ 3) || (ver = 2 && (c.p4 ≠ 0 || c.p5 ≠ 0)) then s.modPort vd port fun p => { p with malf := p.malf + 1 }
    else if c.seq ≠ p.accseq + 1 then s.modPort vd port fun p => { p with seqerr := p.seqerr + 1 }
    else if p.queue.length ≥ 256 || (List.range 4).any (fun q => (v.port q).queue.any fun x => x.jidx == v.jidx) then
      s.modPort vd port fun p => { p with isOver := p.isOver + 1 }
    else
      let fence := if kind = 0x0C then
          (List.range 4).flatMap fun q => if c.p0.getLsbD q then (v.port q).queue.map fun x => (q, x.seq) else []
        else []
      let e : Pending :=
        { seq := c.seq.toNat, kind := kind, cmd := c, jidx := v.jidx, dispatched := false, begun := false, fence := fence
          done := none }
      let entry := natLe 8 (cmdWord 0 kind port c.seq.toNat) ++ (sha384 (cmdBytes kind c)).take 8 ++ natLe 8 s.time ++ natLe 8 0
      let s := s.vWrite vd (jbase vd + 32 * v.jidx) entry
      (s.modPort vd port fun p => { p with accseq := c.seq, queue := p.queue ++ [e] }).modVd vd fun v =>
        { v with jidx := (v.jidx + 1) % 65536, jwrap := if v.jidx = 65535 then (v.jwrap + 1) % 2 ^ 32 else v.jwrap }

/-- The completion of a command: the journal's entry is written again, then the record, then the interrupt; DEPTH falls (R77, R78). A record whose
write the host has ended in an abort or as unsupported is logged through AER, and not retried. -/
def State.complete (s : State) (vd port : Nat) (c : Pending) (status fault result : Nat) (refused : Bool) : State :=
  let w := cmdWord status c.kind port c.seq
  let j := jbase vd + 32 * c.jidx
  let s := (s.vWrite vd j (natLe 8 (w + 2 ^ 63))).vWrite vd (j + 24) (natLe 8 s.time)
  let rec' := natLe 8 (w + fault * 2 ^ 56) ++ natLe 8 result ++ natLe 8 s.time ++ natLe 8 (c.jidx + 2 ^ 63)
  let s := if refused then { s with aer := s.aer ++ [(vd, c.cmd.cpl.toNat / 32 * 32)] }
    else { s with hostMem := mwrite s.hostMem (c.cmd.cpl.toNat / 32 * 32) rec' }
  let s := if c.cmd.irq then s.raiseMsix vd c.cmd.vec.toNat else s
  s.modPort vd port fun p => { p with queue := p.queue.filter fun x => x.seq != c.seq }

/-! ## The memory grant (R86) -/

def Vd.grantSize (v : Vd) : Nat := (v.grant.map (·.2)).sum

/-- The extent and the physical address of a grant offset. -/
def grantPa : List (Nat × Nat) → Nat → Option Nat
  | [], _ => none
  | (b, l) :: g, o => if o < l then some (b + o) else grantPa g (o - l)

/-- How many bytes of one extent follow a grant offset. -/
def grantRoom : List (Nat × Nat) → Nat → Nat
  | [], _ => 0
  | (_, l) :: g, o => if o < l then l - o else grantRoom g (o - l)

/-- The grant offset of a physical address. -/
def grantOff : List (Nat × Nat) → Nat → Option Nat
  | [], _ => none
  | (b, l) :: g, pa => if b ≤ pa && pa < b + l then some (pa - b) else (grantOff g pa).map (· + l)

/-- The areas that the device holds in a grant, as (offset, length): those of its objects and of its runs. -/
def State.areas (s : State) (vd : Nat) : List (Nat × Nat) :=
  ((s.vd vd).objs.flatMap (·.areas)) ++ (s.runs.flatMap fun r => if r.vd = vd then r.reserved else [])

/-- The grant ranges that mapped pages hold, or pages that an UNMAP is withdrawing (R291). -/
def State.mappedOffs (s : State) (vd : Nat) : List (Nat × Nat) :=
  ((s.vd vd).pages.filterMap fun p => (grantOff (s.vd vd).grant p.pa).map fun o => (o, p.size)) ++ (s.vd vd).held.map fun h => (h.2.1, h.2.2.1)

def overlapsAny (l : List (Nat × Nat)) (o len : Nat) : Bool := l.any fun x => o < x.1 + x.2 && x.1 < o + len

/-- Pages of 4 KiB are the unit of the areas that the device places (assumption 8). -/
def pageUp (n : Nat) : Nat := (n + 4095) / 4096 * 4096

/-- The ends of a grant's extents, as offsets. -/
def extentEnds : Nat → List (Nat × Nat) → List Nat
  | _, [] => []
  | o, (_, l) :: g => (o + l) :: extentEnds (o + l) g

/-- The highest free offset at which an area of whole pages lies within one extent (R86): it ends at an extent's end, or below what is
held already. -/
def areaAt (grant used : List (Nat × Nat)) (len : Nat) : Option Nat :=
  let ends := extentEnds 0 grant ++ used.map fun u => u.1 / 4096 * 4096
  let ok (o : Nat) : Bool := len ≤ grantRoom grant o && !overlapsAny used o len
  ((ends.filter fun b => len ≤ b).map fun b => b - len).foldl (fun m o =>
    if ok o && (match m with | none => true | some x => decide (x < o)) then some o else m) none

/-- Areas of given lengths, one after another; none where one finds no room. A length of 0 takes nothing. -/
def areasAt (grant : List (Nat × Nat)) : List (Nat × Nat) → List Nat → Option (List (Nat × Nat))
  | _, [] => some []
  | used, n :: ns =>
    let len := pageUp n
    if len = 0 then (areasAt grant used ns).map fun l => (0, 0) :: l
    else match areaAt grant used len with
    | none => none
    | some o => (areasAt grant ((o, len) :: used) ns).map fun l => (o, len) :: l

/-- Areas for the device in a virtual device's grant. -/
def State.takeAreas (s : State) (vd : Nat) (lens : List Nat) : Option (List (Nat × Nat)) :=
  areasAt (s.vd vd).grant (s.areas vd ++ s.mappedOffs vd) lens

/-- Where the device maps an area of a grant: its device-managed address (assumption 8). -/
def devVa (off : Nat) : Nat := 0x80000000000000 + off

/-- The pages of 4 KiB that map an area. -/
def areaPages (grant : List (Nat × Nat)) (vd : Nat) (a : Nat × Nat) (writable : Bool) : List Page :=
  (List.range (a.2 / 4096)).map fun i =>
    { vd := vd, va := devVa (a.1 + 4096 * i), size := 4096, pa := (grantPa grant (a.1 + 4096 * i)).getD 0, writable := writable
      sync := false }

/-- Pages join a virtual device's page tables. -/
def State.addPages (s : State) (vd : Nat) (ps : List Page) : State := s.modVd vd fun v => { v with pages := v.pages ++ ps }

end Sys2Proof.Machine
end

