-- ==== Sys2Proof/Machine/Bar2.lean ====
section
/-! DEFINITION. The accesses of the host through BAR 2: their way past the Dampers to the home slices, in the order of their arrival (03 R66-R67,
04 R101). -/

namespace Sys2Proof.Machine

/-- The size of a function's BAR 2 aperture (R66, assumption 30). -/
def State.aperture (s : State) (vd : Nat) : Nat := 2 ^ (s.vd vd).aper

/-- An access through BAR 2 that is refused: it counts, and an XLATE event goes to the fault queue. Bytes of it that the spec does not fill are
zero, its source a free value (assumption 31). -/
def State.apError (s : State) (vd va : Nat) : State :=
  let f : Flt :=
    { code := 0x05, vd := vd, inst := 0, src := Config.freeNat s.free % 2 ^ 16, isOver := false, time := s.time
      body := fltBody 0 0 0xFFFF false va 0 0 (Config.freeNat (s.free + 1)), run := none, held := none }
  ({ s with free := s.free + 2 }.modVd vd fun v => { v with xlerr := (v.xlerr + 1) % 2 ^ 32 }).fqWrite f

/-- The bytes of an access, by the sectors in which they lie. -/
def sectorsOf (va : Nat) (bs : List Byte) : List (Nat × List Byte) :=
  (List.range ((va % 128 + bs.length + 127) / 128)).map fun i =>
    let lo := 128 * i - va % 128
    ((va + lo) % 2 ^ 56, (bs.drop lo).take (128 * (i + 1) - va % 128 - lo))

/-- The page that an access through BAR 2 reaches: a write reaches no read-only one. -/
def State.apPage (s : State) (vd : Nat) (isRead : Bool) (va : Nat) : Option Page := (s.pageOf vd va).filter fun p => isRead || p.writable

/-- The Dampers that a sector of an access of the host passes: the host link in its direction; and, where it reaches a page, bridge B3 into the home die,
and the path from there (R43, R101, R296, assumption 75). -/
def State.hostPath (s : State) (vd : Nat) (isRead : Bool) (va : Nat) : List Nat :=
  dampKey 5 (if isRead then 0 else 1) :: (match (s.apPage vd isRead va).bind fun _ => s.toPa vd va with
    | some pa => dampKey 10 (paDie pa) :: s.tollPath (paDie pa) vd pa isRead
    | none => [])

/-- The accesses of a function from now on: the first one stands at the first Damper of its next sector. -/
def State.setHostq (s : State) (vd : Nat) (q : List HostAcc) : State :=
  s.modVd vd fun v => { v with hostq := q.modifyHead fun a => { a with owed := ((a.secs.head?).map fun x => s.hostPath vd a.isRead x.1).getD [], stood := s.now } }

/-- The sector of an access takes effect at its home slice: it is written, or read. -/
def State.hostSector (s : State) (vd : Nat) (isRead : Bool) (va : Nat) (bs : List Byte) : State × List Byte :=
  match (s.apPage vd isRead va).bind fun _ => s.toPa vd va with
  | none => (s, bs.map fun _ => 0xFF)
  | some pa =>
    if isRead then (s.l2Alloc vd pa true, (List.range bs.length).map fun i => s.devByte (pa + i))
    else (s.vWrite vd va bs, [])

/-- The first access of a function has been granted by every Damper on its next sector's path: the sector takes effect, and the last one ends the access.
What the host receives stands in the state; an access that met an unmapped or a read-only page counts once (R66). -/
def State.hostPass (s : State) (vd : Nat) : State :=
  match (s.vd vd).hostq with
  | [] => s
  | a :: rest => match a.secs with
    | [] => s.setHostq vd rest
    | (va, bs) :: more =>
      let (s, got) := s.hostSector vd a.isRead va bs
      let a := { a with secs := more, got := a.got ++ got, bad := a.bad <|> (if (s.apPage vd a.isRead va).isNone then some va else none) }
      if !more.isEmpty then s.setHostq vd (a :: rest)
      else
        let s := if a.isRead then { s with bar2 := a.got } else s
        (match a.bad with
          | none => s
          | some x => s.apError vd x).setHostq vd rest

/-- A Damper grants the first access of a function. -/
def State.hostGrant (s : State) (vd : Nat) : State :=
  match (s.vd vd).hostq with
  | [] => s
  | a :: rest => match a.owed with
    | _ :: k :: ks => s.modVd vd fun v => { v with hostq := { a with owed := k :: ks, stood := s.now } :: rest }
    | _ => s.hostPass vd

/-- The Damper at which the first access of a function stands. -/
def State.hostToll (s : State) (vd : Nat) : Option Nat := (s.vd vd).hostq.head?.bind fun a => a.owed.head?

/-- An access arrives, behind those that the function has made before it (R67). -/
def State.hostPut (s : State) (vd : Nat) (isRead : Bool) (va : Nat) (bs : List Byte) : State :=
  let a : HostAcc := { isRead := isRead, secs := sectorsOf va bs, owed := [], got := [], bad := none, stood := s.now }
  match (s.vd vd).hostq with
  | [] => s.setHostq vd [a]
  | q => s.modVd vd fun v => { v with hostq := q ++ [a] }

/-- A write through BAR 2 that has arrived is not yet in device memory (R67). -/
def Vd.posted (v : Vd) : Bool := v.hostq.any fun a => !a.isRead

end Sys2Proof.Machine
end

