-- ==== Sys2Proof/Machine/Runs.lean ====
section
/-! DEFINITION. Where a run stands in its region and how it leaves it: the fixed state of R119 and R225, the end of an instance, and the
launch report (05 R119, R123, 09 R225, 17 R442). -/

namespace Sys2Proof.Machine

/-- The run holds its cells (R135, R171): it has not ended, and its region has not gone to another sharer of its strip. -/
def Run.holdsCells (r : Run) : Bool :=
  match r.st with
  | .ended => false
  | .yielded => false
  | .paused => !r.away
  | .halted _ => !r.away
  | _ => true

/-- The cores of a run's region. -/
def Run.cores (r : Run) : List Nat :=
  (List.range 16).flatMap fun y => (List.range r.width).map fun c => coreId r.die (r.col + c) y

/-- A core as a launch finds it: objects zeroed and EMPTY, core memory zero, no L1 line, nothing in its queues; its TLB and the re-latch
tokens at it stay (R225, R285, R309). -/
def Core.clear (k : Core) : Core :=
  { Core.init with holder := k.holder, issued := k.issued, tlb := k.tlb, relatch := k.relatch }

/-- A run's contexts and its region's cores are as a launch finds them. -/
def State.clearRegion (s : State) (r : Run) : State :=
  let s := s.ctxs.foldl (fun s e => if e.2.role.run = some r.id then s.setCtx e.1 Ctx.init else s) s
  s.cores.foldl (fun s e => if r.covers e.1 then s.setCore e.1 e.2.clear else s) s

/-- The launch report of a device-side launch (R442), written to the fault queue: CTIME is 0 where no child started. -/
def State.launchReport (s : State) (vd status fault inst src handle ctime result : Nat) : State :=
  s.fqPut vd (natLe 1 0 ++ natLe 1 vd ++ natLe 2 inst ++ natLe 2 src ++ natLe 2 0 ++ natLe 8 s.time ++ natLe 1 status ++ natLe 1 fault ++
    natLe 2 0 ++ natLe 4 handle ++ natLe 8 ctime ++ natLe 8 result ++ List.replicate 24 0)

/-- A PAUSE that waits for a run's cut gets its status (R172). -/
def State.endPauses (s : State) (r : Run) (status : Nat) : State := r.pauseCmds.foldl (fun s k => s.finishCmd k status 0 0) s

/-- The TLBs of the cores and the dies drop the entries that a test picks: no TLB holds a translation that is absent (R297). -/
def State.dropTlbs (s : State) (hit : Page → Bool) : State :=
  let s := s.cores.foldl (fun s e => if e.2.tlb.any hit then s.modCore e.1 fun k => { k with tlb := k.tlb.filter fun p => !hit p } else s) s
  (List.range 4).foldl (fun s d => s.modDie d fun x => { x with tlb := x.tlb.filter fun p => !hit p }) s

/-- A page of a virtual device lies in an area that an instance holds. -/
def Run.holdsPage (r : Run) (p : Page) : Bool :=
  p.vd == r.vd && r.reserved.any fun a => a.2 != 0 && devVa a.1 ≤ p.va && p.va < devVa a.1 + a.2

/-- An instance leaves its region: its areas go back to the grant, its pages with them, and whoever launched it is told. The PAUSEs
that waited for its cut get a status of their own (R76, R123, R172, R442). -/
def State.endRun (s : State) (rid status fault pause : Nat) : State :=
  match s.run rid with
  | none => s
  | some r =>
    let s := s.endPauses r pause
    let s := if r.holdsCells then s.clearRegion r else s
    let s := (s.modVd r.vd fun v => { v with pages := v.pages.filter fun p => !(r.holdsPage p) }).dropTlbs r.holdsPage
    let s := { s with runs := s.runs.filter fun x => x.id != rid }
    let s := (s.finishOpt r.cmd status fault r.id).finishOpt r.resumeCmd (if status = 0 then 0 else 11) 0 0
    match r.parent with
    | none => s
    | some src => s.launchReport r.vd status fault r.id (srcOfCid src) r.handle s.time r.id

/-- No token of an instance is still on a Flue (R335). -/
def State.flueClear (s : State) (r : Run) : Bool := !(s.flue.any fun f => f.vd == r.vd && f.inst == r.id % 2 ^ 16)

/-- Nothing that an instance has issued is under way in its cells: its writes, those behind a release too, have been performed and its directed tokens
have left the send queues (R309, R393, R428). An LDS that waits for its word has done nothing. -/
def State.quiet (s : State) (r : Run) : Bool :=
  !r.holdsCells || s.cores.all fun e => !(r.covers e.1) || (e.2.sendq.isEmpty && !(e.2.wq.any fun q => q.kind.isWrite && !q.kind.isLds) && !(e.2.sbuf.any (·.posted)))

/-- A halted instance whose fault entries are written and whose accesses are done leaves its region: FAULT, or TIMEOUT for a collective's (R76, R309, R328, R335). From 0x200 on the
handler's HRET has halted it, and the command completes FAULT with the token's code (R331). -/
def State.reapHalted (s : State) (rid : Nat) : State :=
  match s.run rid with
  | none => s
  | some r => match r.st with
    | .halted code =>
      if s.flueClear r && s.quiet r then
        (match code with
         | 0x1B => s.endRun rid 16 0x1B 11
         | 0x100 => s.endRun rid 15 0 11
         | 0x101 => s.endRun rid 11 0 11
         | 0x18 => s.endRun rid 14 0 11
         | _ => s.endRun rid 10 (code % 0x200) 11)
      else s
    | _ => s

end Sys2Proof.Machine
end

