-- ==== Sys2Proof/Machine/Firing.lean ====
section
/-! DEFINITION. Tokens landing, directed tokens, firings, the router operators' actions, segment selection and bank handoffs
(05 R120, R126, 06 R145-R150, 08 R199, 13 R330, 15 R392-R394), and the boundary guards (04 R115-R117). Each event names its
agent in `ev`; one that is not enabled leaves the machine as it is. -/

namespace Sys2Proof.Machine

/-! ## Tokens -/

/-- The core whose queue bank or edge unit a node's place belongs to; a core's contexts idle no longer when a token lands there. -/
def State.landedAt (s : State) (r : Run) (node : Nat) : State :=
  match r.placeOf node with
  | some (.ctx cid) => s.wakeIdle (coreOf cid)
  | _ => s

/-- Whether tokens that land on a channel now came after the marker of a cut that their consumer has yet to save under, or has saved
under for good: they stand behind what the cut saves (R166, R395). -/
def Run.lateOn (r : Run) (i : Nat) : Bool :=
  match r.cut, r.graph.chans[i]? with
  | some k, some c => (r.chan i).marked && (c.selector || !(r.savedElems.contains c.cnode && k.kind == CutKind.periodic))
  | _, _ => false

/-- A token is written into a channel's buffer. -/
def Run.landTok (r : Run) (i : Nat) (t : Token) : Run :=
  let c := r.chan i
  if r.lateOn i then r.setChan i { c with late := c.late ++ [t] } else r.setChan i { c with buf := c.buf ++ [t] }

/-- TOKEN_LAND: run `unit`, channel `idx`: the oldest token of its route lands (R122, R394). -/
def execTokenLand (s : State) : Step :=
  let e := s.ev
  .next (match s.run e.unit with
    | none => s
    | some r => match (r.chan e.idx).fly with
      | { tok := some t, due := due } :: rest =>
        if due ≤ s.cycleOf r && r.works && !r.rolling then
          let s := s.modRun r.id fun r => (r.setChan e.idx { r.chan e.idx with fly := rest }).landTok e.idx t
          match r.graph.chans[e.idx]? with
          | some c => if c.selector then s else s.landedAt r c.cnode
          | none => s
        else s
      | _ => s)

/-! ## Guards (R115-R117) -/

/-- Why a guard drops a token of a virtual device aimed at a core of another strip (R115). -/
def State.guardReason (s : State) (vd src dst : Nat) : Option Nat :=
  match s.stripAt (dieOf src) (colOf src), s.stripAt (dieOf dst) (colOf dst) with
  | some a, some b =>
    if a.die = b.die && a.col = b.col then none
    else if b.holders == [0] && vd ≠ 0 then some 1
    else if !(b.holders.contains vd) then some 0
    else if b.shared && b.occ != some vd then some 2
    else none
  | _, _ => none

/-- The router and port of the guard: the bridge port of the sending router for another die, else the boundary router of the sender's
strip on the way (R115, R117, R137). -/
def State.detector (s : State) (src dst : Nat) : Nat :=
  if dieOf src ≠ dieOf dst then src + 4 * 2 ^ 11
  else match s.stripAt (dieOf src) (colOf src) with
  | none => src
  | some a =>
    if colOf dst > colOf src then coreId (dieOf src) (a.col + a.width - 1) (rowOf src) + 1 * 2 ^ 11
    else coreId (dieOf src) a.col (rowOf src) + 3 * 2 ^ 11

/-- The virtual device that holds a core's column, 0xFF where none does: of a shared strip its occupant, else its first holder (assumption 78). -/
def State.ownerAt (s : State) (core : Nat) : Nat :=
  match s.stripAt (dieOf core) (colOf core) with
  | none => 0xFF
  | some p => (p.occ.getD ((p.holders.head?).getD 0xFF))

/-- The GUARD token of a window (R117). OWNER is the holder at the time of the report (assumption 78). -/
def State.guardToken (s : State) (g : GuardWin) (policy : Bool) : Flt :=
  let src := srcOfCid g.srcCid
  { code := 0x12, vd := g.vd, inst := (g.run.getD 0) % 2 ^ 16, src := src, isOver := false, time := g.first
    body := natLe 2 g.det ++ natLe 2 g.dest ++ natLe 1 g.dport ++ natLe 1 g.reason ++ natLe 1 g.kind ++ natLe 1 policy.toNat ++
      natLe 4 g.count ++ natLe 1 (s.ownerAt (g.dest % 2048)) ++ natLe 3 0 ++ natLe 8 g.word.toNat ++ natLe 8 g.gdrop ++
      natLe 8 g.cyc
    run := g.run, held := none }

/-- A GUARD token goes to the handler where its instance has one, and to the fault queue otherwise and under GHALT, as it is when the window closes (R116,
assumption 78). -/
def State.sendGuard (s : State) (g : GuardWin) (policy : Bool) : State :=
  let f := s.guardToken g policy
  let handled := match g.run.bind s.run with | some r => r.graph.handler.isSome && !policy | none => false
  s.onFlue { f with run := if handled then f.run else none }

/-- A drop at a guard (R116): GDROP rises; the first of a sender opens a window of 256 cycles, the others join it. Under GHALT, in force for every drop
after its write (R99), the first is reported at once and halts the sending instance, and its window sends no second report. -/
def State.guardDropTok (s : State) (vd srcCid : Nat) (run : Option Nat) (core ctx port kind : Nat) (word : Word) (reason : Nat) : State :=
  let src := coreOf srcCid
  let s := s.modVd vd fun v => { v with gdrop := v.gdrop + 1 }
  let det := s.detector src core
  let d := dieOf src
  let gd := (s.vd vd).gdrop
  let mine (g : GuardWin) : Bool := g.det == det && g.srcCid == srcCid && g.left != 0
  let g : GuardWin :=
    { core := src, srcCid := srcCid, first := s.time, left := 256, count := 1, dest := core + ctx * 2 ^ 11, dport := port, reason := reason, det := det
      kind := kind, word := word, cyc := s.cycle src, vd := vd, run := run, gdrop := gd, sent := (s.vd vd).ghalt }
  if (s.die d).guards.any fun w => mine w && (w.sent || !g.sent) then
    s.modDie d fun x => { x with guards := x.guards.map fun (w : GuardWin) => if mine w then { w with count := w.count + 1, gdrop := gd } else w }
  else
    let s := s.modDie d fun x => { x with guards := x.guards ++ [g] }
    if !g.sent then s
    else
      let s := s.sendGuard g true
      match run with | some r => s.haltRun r 0x12 | none => s

def Directed.first (t : Directed) : Word := (tokVal t.tok).setWidth 64
def Token.num (t : Token) : Nat := t.kind

/-- Why a guard drops a directed token: one that a destination core holds has passed them all. -/
def State.guarded (s : State) (t : Directed) : Option Nat :=
  if t.held.isSome then none else s.guardReason t.vd (coreOf t.srcCid) t.core

/-- GUARD_DROP: the `idx`th directed token in the fabric meets a guard that drops it (R115, R116, R393). -/
def execGuardDrop (s : State) : Step :=
  let n := s.ev.idx
  .next (match s.directed[n]? with
    | none => s
    | some t => match s.guarded t with
      | none => s
      | some why =>
        ({ s with directed := dropAt n s.directed }).guardDropTok t.vd t.srcCid t.srcRun t.core t.ctx t.port t.tok.kind t.first why)

/-- GUARD_REPORT: the `idx`th window of die `unit` closes, and its one token goes on the sender's Flue where it has not gone as the window opened
(R116). -/
def execGuardReport (s : State) : Step :=
  let d := s.ev.unit
  .next (match (s.die d).guards[s.ev.idx]? with
    | none => s
    | some g => if g.left ≠ 0 then s
      else (if g.sent then s else s.sendGuard g (s.vd g.vd).ghalt).modDie d fun x => { x with guards := dropAt s.ev.idx x.guards })

/-! ## Directed tokens (R392, R393) -/

/-- The operator's input port that a directed token can join: its run, its node, and the port's channel. One that is held for a node joins that node's port
(R395). -/
def State.directedPort (s : State) (t : Directed) : Option (Run × Nat × Nat) :=
  let cid := t.core * 8 + t.ctx
  match t.held with
  | some (rid, node) => (s.run rid).bind fun r => (r.graph.chanOfIn node t.port).map fun i => (r, node, i)
  | none => match s.ctxRun cid with
  | none => none
  | some r =>
    if !(s.ctx cid).role.isOp then none
    else match (r.node (s.ctx cid).role.node).bind fun n => n.portAt t.port with
    | none => none
    | some p =>
      if p.kind = 2 || p.kind ≠ t.tok.kind then none
      else (r.graph.chanOfIn (s.ctx cid).role.node t.port).map fun i => (r, (s.ctx cid).role.node, i)

/-- A node takes directed tokens: it works, and no cut that keeps it stopped has saved it (R395). -/
def Run.admits (r : Run) (node : Nat) : Bool := r.goes node && !(r.savedElems.contains node && r.cut.any fun k => k.kind != .periodic)

/-- Two records of one directed token. -/
def Directed.isSame (a b : Directed) : Bool := { a with held := none, stood := 0 } == { b with held := none, stood := 0 }

/-- A directed token that a node has taken is none of those that its sender's cut holds: of the cut in progress, unless the node has saved without it, and
for a node of another instance of the complete cut too (R395). -/
def State.taken (s : State) (t : Directed) (r : Run) (node : Nat) : State :=
  let drop (c : Cut) : Cut := { c with sent := c.sent.filter fun u => !(t.isSame u) }
  match t.srcRun with
  | none => s
  | some rid =>
    if rid ≠ r.id then s.modRun rid fun x => { x with cut := x.cut.map drop, saved := x.saved.map drop }
    else if r.savedElems.contains node then s
    else s.modRun rid fun x => { x with cut := x.cut.map drop }

/-- A directed token leaves a core's send queue for the fabric. -/
def State.departSend (s : State) (core : Nat) : State :=
  match (s.core core).sendq with
  | [] => s
  | t :: rest => { (s.modCore core fun k => { k with sendq := rest }) with directed := s.directed ++ [t] }

/-- The bridge Damper that a directed token for another die has still to pass (R101, R296). -/
def Directed.toll (t : Directed) : Option Nat :=
  let a := dieOf (coreOf t.srcCid)
  let b := dieOf t.core
  if a = b || t.paid ≠ 0 then none else some (dampKey 3 (a * 4 + bridgeOf a b))

/-- XSEND_DELIVER: for `sub` = 0 the oldest token of core `unit`'s send queue enters the fabric; else the `idx`th token of the fabric, the
oldest of its sender for its port, is written into its port's buffer, dropped where the destination cannot take it, or waits for a
free slot or for a saved destination's resume (R393, R395). -/
def execXsendDeliver (s : State) : Step :=
  let e := s.ev
  .next (if e.sub = 0 then s.departSend e.unit
    else match s.directed[e.idx]? with
    | none => s
    | some t =>
      if s.cycle (coreOf t.srcCid) < t.due || t.toll.isSome || (s.guarded t).isSome ||
          ((s.directed.take e.idx).any fun u => u.srcCid == t.srcCid && u.core == t.core && u.ctx == t.ctx && u.port == t.port) then s
      else match s.directedPort t with
      | none =>
        let s := { s with directed := dropAt e.idx s.directed }
        let inst := t.srcRun.getD 0
        let f : Flt :=
          { code := 0x09, vd := t.vd, inst := inst % 2 ^ 16, src := srcOfCid t.srcCid, isOver := false, time := s.time
            body := fltBody t.word t.pc t.node false 0 0 t.fireno (s.cycle t.core), run := none, held := none }
        match t.srcRun with
        | some id => s.raiseFree id 0x09 f
        | none => s.onFlue f
      | some (r, node, i) =>
        if r.freeSlots i = 0 || !(r.admits node) then s
        else
          (({ s with directed := dropAt e.idx s.directed }.taken t r node).modRun r.id fun r =>
            r.setChan i { r.chan i with buf := (r.chan i).buf ++ [t.tok] }).landedAt r node)

/-! ## Firings (R120, R330) -/

/-- Every input port of a node holds its declared count of tokens. -/
def Run.inputsReady (r : Run) (node : Nat) (n : NodeD) : Bool :=
  n.ports.all fun p => p.port ≥ 16 || (match r.graph.chanOfIn node p.port with
    | some i => decide (p.count ≤ (r.chan i).buf.length)
    | none => true)

/-- Every output channel of a node has its port's declared count of free slots. -/
def Run.outputsFree (r : Run) (node : Nat) (n : NodeD) : Bool :=
  n.ports.all fun p => p.port < 16 || (match r.graph.chanOfOut node p.port with
    | some i => decide (p.count ≤ r.freeSlots i)
    | none => true)

/-- The output slots of a firing or round are reserved (R120). -/
def Run.reserve (r : Run) (node : Nat) (n : NodeD) : Run :=
  n.ports.foldl (fun r p => if p.port < 16 then r else match r.graph.chanOfOut node p.port with
    | some i => r.setChan i { r.chan i with res := (r.chan i).res + p.count }
    | none => r) r

/-- A node of a run may start work now (R120, R125, R167, R109). -/
def State.mayFire (s : State) (r : Run) (node : Nat) : Bool :=
  r.active node && r.goes node && r.mayStart node && s.occupied r && (r.confAt < s.cycleOf r || r.graph.handlerNodes.contains node)

/-- A firing becomes eligible: its slots are reserved, and its context is ready for the first word (R120). -/
def State.startFiring (s : State) (r : Run) (node cid : Nat) (n : NodeD) : State :=
  let s := s.modRun r.id fun r => (r.reserve node n).starts
  s.modCtx cid fun c =>
    { c with running := true, fresh := true, pc := 0, moved := [], eligAt := s.cycle (coreOf cid), token := none, sw := false }

/-- FIRING_START: run `unit`, operator `idx` (R120). -/
def execFiringStart (s : State) : Step :=
  let e := s.ev
  .next (match s.run e.unit with
    | none => s
    | some r => match r.node e.idx, r.placeOf e.idx with
      | some n, some (.ctx cid) =>
        if n.kind = 0 && s.mayFire r e.idx && !(s.ctx cid).running && (s.ctx cid).park.isNone && (s.ctx cid).role == Role.op r.id e.idx && r.inputsReady e.idx n &&
            r.outputsFree e.idx n then s.startFiring r e.idx cid n
        else s
      | _, _ => s)

/-- HANDLER_FIRING: a firing of the handler entry of run `unit` becomes eligible: its queue holds a token, which the firing takes as it starts (R330). -/
def execHandlerFiring (s : State) : Step :=
  .next (match s.run s.ev.unit with
    | none => s
    | some r => match r.graph.handler, r.hq with
      | some h, _ :: _ => (match r.node h, r.placeOf h with
        | some n, some (.ctx cid) =>
          if s.mayFire r h && !(s.ctx cid).running && (s.ctx cid).park.isNone && r.outputsFree h n then s.startFiring r h cid n else s
        | _, _ => s)
      | _, _ => s)

/-! ## Router operators (R145-R150) -/

/-- The token at the head of an input port. -/
def Run.head (r : Run) (node port : Nat) : Option Token :=
  (r.graph.chanOfIn node port).bind fun i => (r.chan i).buf.head?

/-- The token at the head of an input port is consumed. -/
def Run.take (r : Run) (node port : Nat) : Run :=
  match r.graph.chanOfIn node port with
  | some i => r.setChan i { r.chan i with buf := (r.chan i).buf.tail }
  | none => r

/-- The channel of an output port has a free slot; a port left unconnected discards (R147). -/
def Run.room (r : Run) (node port : Nat) : Bool :=
  match r.graph.chanOfOut node port with
  | some i => decide (0 < r.freeSlots i)
  | none => true

/-- A token sent on an output port: it enters the route in the next cycle. -/
def Run.put (r : Run) (node port : Nat) (t : Token) (now : Nat) : Run :=
  match r.graph.chanOfOut node port with
  | some i => r.launchTok i t (now + 1)
  | none => r

/-- The conditions of an action of the router operator `node`, of kind `rkind`: placed, free to act in this cycle, not stopped. -/
def State.mayAct (s : State) (r : Run) (node rkind : Nat) : Bool :=
  (match r.node node with | some n => n.kind == 1 && n.rkind == rkind | none => false) && s.mayFire r node &&
  (r.nodeS node).acted ≤ s.cycleOf r

/-- The action is done: a slot performs at most one in a cycle, and each counts as a firing. -/
def State.acted (s : State) (rid node : Nat) (f : Run → Run) : State :=
  s.modRun rid fun r => let r := (f r).starts
    r.setNodeS node { r.nodeS node with acted := s.cycleOf r + 1 }

/-- A router event: run `unit`, node `idx`. -/
def routerStep (rkind : Nat) (act : State → Run → Nat → State) (s : State) : Step :=
  let e := s.ev
  .next (match s.run e.unit with
    | none => s
    | some r => if s.mayAct r e.idx rkind then act s r e.idx else s)

/-- STEER (R147). -/
def steerAct (s : State) (r : Run) (n : Nat) : State :=
  match r.head n 0, r.head n 1 with
  | some d, some t =>
    let o := if d.isTrue then 16 else 17
    if r.room n o then s.acted r.id n fun r => ((r.take n 0).take n 1).put n o t (s.cycleOf r) else s
  | _, _ => s

/-- STEER_ACTION (R147). -/
def execSteerAction (s : State) : Step := routerStep 0 steerAct s

/-- MERGE (R148). -/
def mergeAct (s : State) (r : Run) (n : Nat) : State :=
  match r.head n 0 with
  | some d =>
    let i := if d.isTrue then 1 else 2
    (match r.head n i with
     | some t => if r.room n 16 then s.acted r.id n fun r => ((r.take n 0).take n i).put n 16 t (s.cycleOf r) else s
     | none => s)
  | none => s

/-- MERGE_ACTION (R148). -/
def execMergeAction (s : State) : Step := routerStep 1 mergeAct s

/-- CARRY (R149). -/
def carryAct (s : State) (r : Run) (n : Nat) : State :=
  let mode (b : Bool) (r : Run) : Run := r.setNodeS n { r.nodeS n with run := b }
  if !(r.nodeS n).run then
    match r.head n 1 with
    | some t => if r.room n 16 then s.acted r.id n fun r => mode true ((r.take n 1).put n 16 t (s.cycleOf r)) else s
    | none => s
  else match r.head n 0 with
  | none => s
  | some d =>
    if !d.isTrue then s.acted r.id n fun r => mode false (r.take n 0)
    else match r.head n 2 with
    | some t => if r.room n 16 then s.acted r.id n fun r => ((r.take n 0).take n 2).put n 16 t (s.cycleOf r) else s
    | none => s

/-- CARRY_ACTION (R149). -/
def execCarryAction (s : State) : Step := routerStep 2 carryAct s

/-- INVARIANT (R149). -/
def invariantAct (s : State) (r : Run) (n : Nat) : State :=
  let keep (v : Option Token) (r : Run) : Run := r.setNodeS n { r.nodeS n with run := v.isSome, held := v }
  match (r.nodeS n).held with
  | none => (match r.head n 1 with
    | some t => if r.room n 16 then s.acted r.id n fun r => keep (some t) ((r.take n 1).put n 16 t (s.cycleOf r)) else s
    | none => s)
  | some v => (match r.head n 0 with
    | none => s
    | some d =>
      if !d.isTrue then s.acted r.id n fun r => keep none (r.take n 0)
      else if r.room n 16 then s.acted r.id n fun r => (r.take n 0).put n 16 v (s.cycleOf r) else s)

/-- INVARIANT_ACTION (R149). -/
def execInvariantAction (s : State) : Step := routerStep 3 invariantAct s

/-- LOOP (R150). -/
def loopAct (s : State) (r : Run) (n : Nat) : State :=
  let st := r.nodeS n
  let put (run : Bool) (total k port v : Nat) (r : Run) : Run :=
    (r.setNodeS n { r.nodeS n with run := run, total := total, n := k }).put n port (.scalar (BitVec.ofNat 64 v)) (s.cycleOf r)
  if !st.run then
    match r.head n 0 with
    | none => s
    | some t =>
      let total := (tokVal t).toNat % 2 ^ 32
      if total = 0 then
        (if r.room n 17 then s.acted r.id n fun r => put false 0 0 17 0 (r.take n 0) else s)
      else if r.room n 16 then s.acted r.id n fun r => put true total 0 16 0 (r.take n 0) else s
  else
    let dones := ((r.node n).map fun d => (d.ports.filter fun p => 1 ≤ p.port && p.port ≤ 15).map (·.port)).getD []
    if dones.all fun p => (r.head n p).isSome then
      let k := st.n + 1
      let pop (r : Run) : Run := dones.foldl (fun r p => r.take n p) r
      if k < st.total then
        (if r.room n 16 then s.acted r.id n fun r => put true st.total k 16 k (pop r) else s)
      else if r.room n 17 then s.acted r.id n fun r => put false st.total k 17 st.total (pop r) else s
    else s

/-- LOOP_ACTION (R150). -/
def execLoopAction (s : State) : Step := routerStep 4 loopAct s

/-! ## Segment selection (R199) -/

/-- The segment contexts of a run in scan order that are idle (R136, R194). -/
def State.idleSegs (s : State) (r : Run) : List Nat :=
  let cs := (List.range r.width).flatMap fun c => (List.range 16).map fun y => coreId r.die (r.col + c) y
  (cs.filter fun k => !((s.die r.die).unsound.contains (.core k))).flatMap fun k =>
    ((List.range 8).map fun i => k * 8 + i).filter fun cid => (s.ctx cid).role == Role.idle && (s.ctx cid).gap == 0

/-- Select(k): the choice of one idle segment context (R199). -/
def State.selectSeg (s : State) (r : Run) (cid : Nat) : Option Seg :=
  let lmin := Nat.min 0x10000 (s.vd r.vd).lmin
  let ok (g : Seg) : Bool :=
    let l := r.segLk g
    g.cid.isNone && (l == 0x10000 || (r.checked && lmin ≤ l && s.specOk (coreOf cid) r.vd))
  let better (a b : Seg) : Bool :=
    let la := r.segLk a
    let lb := r.segLk b
    la > lb || (la == lb && ((!ccValid a.ccond && ccValid b.ccond) || (ccValid a.ccond == ccValid b.ccond && a.id < b.id)))
  (r.segs.filter ok).foldl (fun m g => match m with
    | none => some g
    | some x => if better g x then some g else some x) none

/-- A segment starts in a context (R194, R341); its first instruction issues in the next cycle at the earliest. -/
def State.startSeg (s : State) (r : Run) (cid : Nat) (g : Seg) : State :=
  let c : Ctx :=
    { Ctx.init with
      role := .seg r.id g.kind, running := true, fstood := s.now, segid := g.id, argbase := BitVec.ofNat 64 (r.argRec g.slot), ccond := g.ccond
      stepEn := r.debug, gap := 1, eligAt := s.cycle (coreOf cid) }
  ((s.setCtx cid c).l1Flush (coreOf cid)).modRun r.id fun r =>
    { r.starts with segs := r.segs.map fun (x : Seg) => if x.id = g.id then { x with cid := some cid } else x }

/-- A restored segment that waited has got a context: what named it meanwhile names that (R189). -/
def State.renameCid (s : State) (r : Run) (old new : Nat) : State :=
  let ren (n : Nat) : Nat := if n = old then new else n
  let eps (l : List Episode) : List Episode := l.map fun (e : Episode) => { e with who := e.who.map ren }
  let s := s.modRun r.id fun r => { r with segs := r.segs.map (fun (g : Seg) => { g with cid := g.cid.map ren }), bars := eps r.bars }
  let s := s.modVd r.vd fun v => { v with bars := eps v.bars }
  r.cores.foldl (fun s k => s.modCore k fun c =>
    { c with accs := c.accs.map fun e => (e.1, { e.2 with queue := e.2.queue.map fun (t : MToken) => { t with cid := ren t.cid } : Acc }) }) s

/-- SEGMENT_SELECT: every idle segment context of run `unit` selects, in the scan order; a restored segment that waits for its core comes
first (R189, R199). -/
def execSegmentSelect (s : State) : Step :=
  .next (match s.run s.ev.unit with
    | none => s
    | some r =>
      if !r.isRunning || r.rolling || r.cut.isSome || !(s.occupied r) || !(r.confAt < s.cycleOf r) then s
      else (s.idleSegs r).foldl (fun s cid => match s.run r.id with
        | none => s
        | some r => match r.waitSegs.find? fun w => w.core == coreOf cid with
          | some w => ((s.setCtx cid w.restored).modRun r.id fun r => { r with waitSegs := r.waitSegs.filter fun x => x != w }).renameCid r w.cid cid
          | none => match s.selectSeg r cid with
            | some g => s.startSeg r cid g
            | none => s) s)

/-! ## Bank handoffs and stream barriers (R126, R128) -/

/-- The producer of a handoff has ended its FIRES-th firing, and its stores and its copies into the banks are done. -/
def State.handoffDue (s : State) (r : Run) (h : HandD) : Bool :=
  let c := match r.placeOf h.prod with
    | some (.ctx cid) => if (s.ctx cid).role == Role.op r.id h.prod then s.ctx cid else tget Ctx.init r.ctxStore h.prod
    | _ => Ctx.init
  let k := match r.placeOf h.prod with | some (.ctx cid) => coreOf cid | _ => 0
  h.fires ≤ c.fireno.toNat &&
  !((s.core k).sbuf.any fun e => (s.ctx e.cid).role == Role.op r.id h.prod) &&
  !((s.core k).copies.any fun x => x.run == r.id && x.node == h.prod && x.dsp == 1 &&
    (List.range 16).any fun b => h.banks.getLsbD b && anyMeet 1 x.dstSpans [((b : Int) * 32768, (b : Int) * 32768 + 32768)])

/-- The ownership tokens of a handoff pass to its consumer, which owns the banks from then on (R126, R175). -/
def State.passBanks (s : State) (r : Run) (i : Nat) (h : HandD) : State :=
  let bs := (List.range 16).filter fun b => h.banks.getLsbD b && !r.bankTok.contains (i, b)
  if bs.isEmpty then s
  else s.modRun r.id fun r => { r with bankTok := r.bankTok ++ bs.map fun b => (i, b) }

/-- BANK_HANDOFF: run `unit`, handoff `idx` (R126). -/
def execBankHandoff (s : State) : Step :=
  let e := s.ev
  .next (match s.run e.unit with
    | none => s
    | some r => match r.graph.hands[e.idx]? with
      | some h => if s.handoffDue r h then s.passBanks r e.idx h else s
      | none => s)

/-- STREAM_BARRIER_RELEASE: run `unit`, edge `idx`: once its source has finished, the contexts of its target that it held issue again (R128). -/
def execStreamBarrierRelease (s : State) : Step :=
  let e := s.ev
  .next (match s.run e.unit with
    | none => s
    | some r => match r.graph.chans[e.idx]? with
      | some c =>
        if c.barrier && !(s.barred r c.cnode) then
          s.ctxs.foldl (fun s x =>
            if x.2.role.run = some r.id && x.2.role.node = c.cnode && (x.2.park.any fun p => p.kind == ParkKind.streamBar) then s.unpark x.1
            else s) s
        else s
      | none => s)

/-! ## Home slices and page walks -/

/-- HOME_SLICE_ACCESS: the `idx`th access of core `unit`'s path has its next unit performed, once the Dampers on its path have granted it. A read
that meets poison raises ECC in its issuer, with no effect (R112, R292, R295, R296, R305, R325, R339). -/
def execHomeSliceAccess (s : State) : Step :=
  let core := s.ev.unit
  let n := s.ev.idx
  .next (match (s.core core).wq[n]? with
    | none => s
    | some r => match r.todo with
      | [] => s
      | e :: _ =>
        if !(s.canPerform core n) || (s.toll core r).isSome then s
        else if s.poisoned e.pa && r.kind != .store && r.kind != .stf && r.kind != .feset && r.kind != .feclr then
          let s := s.modCore core fun k => { k with wq := k.wq.filter fun q => q.id != r.id }
          s.eccCtx r.cid r.node 6 0 e.pa
        else s.arriveUnit core r)

/-- PAGE_WALK: the `idx`th walk of die `unit` ends: the die TLB takes the page, unless the generation has risen since it began
(R297, R298). -/
def execPageWalk (s : State) : Step :=
  let d := s.ev.unit
  .next (match (s.die d).walks[s.ev.idx]? with
    | none => s
    | some (vd, va, gen) =>
      let drop (x : Die) : Die := { x with walks := dropAt s.ev.idx x.walks }
      if gen ≠ (s.die d).tgen then s.modDie d drop
      else match s.pageOf vd va with
      | none => s.modDie d drop
      | some p => s.modDie d fun x => { drop x with tlb := (p :: x.tlb.filter fun q => q != p).take 16384 })

end Sys2Proof.Machine
end

