-- ==== Sys2Proof/Machine/Edge.lean ====
section
/-! DEFINITION. The edge units' streams: LOADER_ROUND and STORER_ROUND, one token a step, their latched translations, and RELATCH_EDGE
(06 R153-R164). -/

namespace Sys2Proof.Machine

/-! ## Where a stream stands and what it raises -/

/-- The core whose router a place attaches to (R137, R160). -/
def Place.core : Place → Nat
  | .ctx cid => coreOf cid
  | .slot core _ => core
  | .edge d c north _ => coreId d c (if north then 15 else 0)

def Run.coreAt (r : Run) (node : Nat) : Nat := ((r.placeOf node).map (·.core)).getD 0

/-- Bytes 16-63 of a fault that an element other than a context raises: it has no word, PC or firing of its own, and the spec does not
say what stands in their place (assumption 9). -/
def State.elemBody (s : State) (node addr info cycle : Nat) : List Byte :=
  natLe 8 (Config.freeNat s.free) ++ natLe 4 (Config.freeNat (s.free + 1)) ++ natLe 2 node ++ natLe 2 0 ++ natLe 8 addr ++ natLe 8 info ++
    natLe 8 (Config.freeNat (s.free + 2)) ++ natLe 8 cycle

/-- A fault that an element of a run raises: `kind` as SRC has it (R117, R327). -/
def State.raiseElem (s : State) (rid code core kind node addr info : Nat) : State :=
  match s.run rid with
  | none => s
  | some r =>
    let f : Flt :=
      { code := code, vd := r.vd, inst := rid % 2 ^ 16, src := core + kind * 2 ^ 14, isOver := false, time := s.time
        body := s.elemBody node addr info (s.cycle core), run := none, held := none }
    ({ s with free := s.free + 3 }).raiseFree rid code f

/-- A fault that a stream raises from its edge unit. -/
def State.raiseEdge (s : State) (r : Run) (node code addr info : Nat) : State :=
  s.raiseElem r.id code (r.coreAt node) 1 node addr info

/-! ## The shape in force (R154, R158) -/

def Run.image (r : Run) (node : Nat) : ShapeBits := (((r.node node).bind (·.shape)).map (·.image)).getD 0

def Run.strBase (r : Run) (node : Nat) : Nat :=
  if bitAt (r.nodeS node).ovMask 0 then (r.nodeS node).ovBase else shBase (r.image node)

def Run.strExt (r : Run) (node k : Nat) : Nat :=
  if bitAt (r.nodeS node).ovMask (k + 1) then tget 0 (r.nodeS node).ovExt k else shExt (r.image node) k

/-- The index port of an indirect stream. -/
def Run.strIndex (r : Run) (node : Nat) : Option Nat :=
  if shIndex (r.image node) = 0 then none else some (shIndex (r.image node) - 1)

/-- The dimension that selects a loader's port. -/
def Run.strPort (r : Run) (node : Nat) : Option Nat :=
  if shPortDim (r.image node) = 0 then none else some (shPortDim (r.image node) - 1)

def Run.portCount (r : Run) (node port : Nat) : Nat := (((r.node node).bind fun n => n.portAt port).map (·.count)).getD 0
def Run.portKind (r : Run) (node port : Nat) : Nat := (((r.node node).bind fun n => n.portAt port).map (·.kind)).getD 0

/-- The tokens of one round: an indirect stream's by its port's count, an affine one's by its extents. -/
def Run.strTokens (r : Run) (node : Nat) : Nat :=
  match r.strIndex node with
  | some _ => r.portCount node (if (r.node node).any (·.kind == 2) then 16 else 0)
  | none => r.strExt node 1 * r.strExt node 2 * r.strExt node 3

/-- The positions i1, i2, i3 of the `n`th token of an affine round. -/
def Run.strPos (r : Run) (node n : Nat) : Nat × Nat × Nat :=
  (n % r.strExt node 1, n / r.strExt node 1 % r.strExt node 2, n / (r.strExt node 1 * r.strExt node 2))

/-- The port of the `n`th token of a loader's round. -/
def Run.strOut (r : Run) (node n : Nat) : Nat :=
  let (i1, i2, i3) := r.strPos node n
  match r.strPort node with
  | some 1 => 16 + i1
  | some 2 => 16 + i2
  | some _ => 16 + i3
  | none => 16

/-- The elements of a token: their places in it and their addresses, modulo 2^64 (R154). -/
def Run.strElems (r : Run) (node : Nat) (pos : Nat × Nat × Nat) : List (Nat × Nat) :=
  let b := r.image node
  (List.range (r.strExt node 0)).map fun i0 =>
    (i0, (BitVec.ofInt 64 ((r.strBase node : Int) + (shElem b : Int) *
      ((i0 : Int) * shStr b 0 + (pos.1 : Int) * shStr b 1 + (pos.2.1 : Int) * shStr b 2 + (pos.2.2 : Int) * shStr b 3))).toNat)

/-- Consecutive elements of one sector form one request (R159). -/
def requests : List (Nat × Nat) → List (List (Nat × Nat))
  | [] => []
  | e :: es => match requests es with
    | (f :: g) :: rest => if f.2 / 128 = e.2 / 128 then (e :: f :: g) :: rest else [e] :: (f :: g) :: rest
    | rest => [e] :: rest

/-! ## Latches and translation (R163, R164) -/

/-- The pages that cover a range, if every byte of it is mapped. -/
def State.cover (s : State) (vd va len : Nat) : Option (List Page) :=
  let ps := s.pagesOf vd
  let rec go (fuel a : Nat) (acc : List Page) : Option (List Page) :=
    match fuel with
    | 0 => if va + len ≤ a then some acc else none
    | n + 1 => if va + len ≤ a then some acc
      else match ps.find? fun p => p.holds vd a with
        | some p => go n (p.va + p.size) (acc ++ [p])
        | none => none
  go (ps.length + 1) va []

/-- A stream has a parameter port (R158). -/
def Run.hasParam (r : Run) (node : Nat) : Bool := ((r.node node).bind fun n => n.portAt 15).isSome

/-- The bytes that any element of a round can touch: a base and a size (R156). -/
def derived (b : ShapeBits) : Nat × Nat :=
  match spans b 0 none with
  | sp :: _ => ((BitVec.ofInt 64 sp.1).toNat, (sp.2 - sp.1).toNat)
  | [] => (0, 0)

/-- The range of an edge stream without a parameter port (R156). -/
def derivedRange (node kind : Nat) (b : ShapeBits) : RangeD :=
  { node := node, kind := if kind = 2 then 0 else 1, bmode := 0, barid := 0, baseMode := 0, sizeExpr := false, base := (derived b).1, size := (derived b).2 }

/-- The set that a stream latches: its `.range` lines where it has a parameter port, its derived range alone otherwise (R158, R163). -/
def Run.strRanges (r : Run) (node : Nat) : List RangeD :=
  if r.hasParam node then r.graph.ranges.filter fun g => g.node == node
  else match r.node node with
    | some n => [derivedRange node n.kind (r.image node)]
    | none => []

/-- The pages of every range of a stream. -/
def State.strPages (s : State) (r : Run) (node : Nat) : Option (List Page) :=
  ((r.strRanges node).foldl (fun (m : Option (List Page)) g =>
    match m, s.cover r.vd g.base g.size with
    | some l, some k => some (l ++ k)
    | _, _ => none) (some [])).map (·.eraseDups)

/-- A stream is configured: it latches the pages of its set where they are 32 at most; an unmapped page raises XLATE, and the stream does
not start (R163). -/
def State.latchStream (s : State) (rid node : Nat) : State :=
  match s.run rid with
  | none => s
  | some r => match s.strPages r node with
    | some ps => s.modRun rid fun r => r.setNodeS node
        { r.nodeS node with latched := true, big := decide (32 < ps.length), latches := if ps.length ≤ 32 then ps else [] }
    | none =>
      let g := (r.strRanges node).find? fun g => (s.cover r.vd g.base g.size).isNone
      (s.modRun rid fun r => r.setNodeS node { r.nodeS node with latched := false, latches := [] }).raiseEdge r node 0x05 ((g.map (·.base)).getD 0) 0

/-- A stream latches afresh before a round that changes its base; a page that is unmapped now is met by the access (R163). -/
def State.relatchStream (s : State) (r : Run) (node : Nat) : Run :=
  let ps := ((r.strRanges node).flatMap fun g => (s.pagesOf r.vd).filter fun p => p.va < g.base + g.size && g.base < p.va + p.size).eraseDups
  r.setNodeS node { r.nodeS node with big := decide (32 < ps.length), latches := if ps.length ≤ 32 then ps else [] }

/-- Where an access of a stream goes: a physical address and the page, a fault, or a walk to wait for. -/
inductive EdgeAt where
  | ok (pa : Nat) (p : Page)
  | fault (code : Nat)
  | wait (s : State)

/-- An access of a stream is translated, from its latches or through the die TLB, and tested against its page (R163, R164, R297). -/
def State.edgeAt (s : State) (r : Run) (node : Nat) (write : Bool) (a : Nat) : EdgeAt :=
  let test (p : Page) : EdgeAt := if write && !p.writable then .fault 0x06 else .ok (p.pa + (a - p.va)) p
  if a ≥ 2 ^ 56 then .fault 0x05
  else match (r.nodeS node).latches.find? fun p => p.holds r.vd a with
  | some p => test p
  | none => match (s.die r.die).tlb.find? fun p => p.holds r.vd a with
    | some p => test p
    | none => if (s.pageOf r.vd a).isSome then .wait (s.startWalk r.die r.vd a) else .fault 0x05

/-- A page taken from the die TLB is latched, where the stream latches (R164). -/
def Run.latchPage (r : Run) (node : Nat) (p : Page) : Run :=
  let n := r.nodeS node
  if n.big || n.latches.contains p || n.latches.length ≥ 32 then r else r.setNodeS node { n with latches := n.latches ++ [p] }

/-- An element lies in the ranges of a stream with a parameter port, which never arrives at a barrier, or is a read of the parameter block; the others'
elements always lie in theirs (R13, R21, R156, R158). -/
def Run.strAdmits (r : Run) (node : Nat) (write : Bool) (a len : Nat) : Bool :=
  !(r.hasParam node) || (!write && inside a len r.argbase (8 * r.params.length)) ||
  (r.strRanges node).any fun g => g.admits Ctx.init node (if write then .write else .read) a len

/-! ## Sector requests (R153, R159, R164) -/

/-- The edge unit that a node's place names: (die << 6) | (edge << 5) | column, with edge 0 = S, 1 = N (R101). -/
def Run.unitOf (r : Run) (node : Nat) : Option Nat :=
  match r.placeOf node with
  | some (.edge d c north _) => some (d * 64 + (if north then 32 else 0) + c)
  | _ => none

/-- The streams of an edge unit. -/
def Run.streamsAt (r : Run) (u : Nat) : List Nat := (List.range r.graph.nodes.length).filter fun n => r.unitOf n == some u

/-- How a stream is named among all: by its run and its node. -/
def streamKey (rid node : Nat) : Nat := rid * 65536 + node

/-- What a request to be issued meets. -/
inductive Asked where
  | go (pa : Nat) (p : Page)
  | none
  | fault (code addr : Nat)
  | wait (s : State)

/-- A request is translated: its elements within the stream's ranges are those it asks for (R158, R163). -/
def State.askReq (s : State) (r : Run) (node len : Nat) (write : Bool) (q : List (Nat × Nat)) : Asked :=
  match q.filter fun e => r.strAdmits node write e.2 len with
  | [] => .none
  | e :: _ => match s.edgeAt r node write e.2 with
    | .ok pa p => .go pa p
    | .fault c => .fault c e.2
    | .wait s => .wait s

/-- RANGE for each element of a request outside the stream's ranges (R158). -/
def State.rangeFaults (s : State) (r : Run) (node len : Nat) (write : Bool) (q : List (Nat × Nat)) : State :=
  q.foldl (fun s e => if r.strAdmits node write e.2 len then s else s.raiseEdge r node 0x07 e.2 0) s

/-- A request has been issued: its physical address is kept until the Dampers on its path have granted it. -/
def Run.ask (r : Run) (node pa : Nat) (p : Page) (now : Nat) : Run :=
  let r := r.latchPage node p
  r.setNodeS node { r.nodeS node with asked := some pa, paid := 0, stood := now }

/-- A request is over, with the values it has read. -/
def Run.answered (r : Run) (node : Nat) (vs : List (Nat × Nat)) : Run :=
  r.setNodeS node { r.nodeS node with asked := none, paid := 0, m := (r.nodeS node).m + 1, got := (r.nodeS node).got ++ vs }

/-- A re-latch token at an edge unit waits no longer for a request of a stream (R164). -/
def State.doneAt (s : State) (rid node : Nat) : State :=
  { s with edgeRel := s.edgeRel.map fun (e : Nat × Relatch) => (e.1, { e.2 with waits := e.2.waits.filter fun k => k != streamKey rid node }) }

/-- The next Damper that a stream's request has still to pass (R153, R159, R296). -/
def State.streamToll (s : State) (r : Run) (node : Nat) : Option Nat :=
  match (r.nodeS node).asked with
  | none => none
  | some pa =>
    let reads := (r.node node).any fun n => n.kind == 2 || (n.coll.isSome && !(r.nodeS node).run)
    (s.tollPath r.die r.vd pa reads)[(r.nodeS node).paid]?

/-- A sector request read at its home slice: the elements with their values. -/
def State.readReq (s : State) (r : Run) (node len pa : Nat) (q : List (Nat × Nat)) : State :=
  let ok := q.filter fun e => r.strAdmits node false e.2 len
  let base := pa / 128 * 128
  let s := (s.rangeFaults r node len false q).doneAt r.id node
  if s.poisoned pa then
    (s.eccAct r.id 0x14 (r.coreAt node + 2 ^ 14) 6 0 node pa (s.cycle (r.coreAt node))).modRun r.id fun r => r.answered node []
  else
    let s := s.l2Alloc r.vd pa true
    s.modRun r.id fun r => r.answered node (ok.map fun x => (x.1, s.devLoad (base + x.2 % 128) len))

/-- A sector request written at its home slice, under its byte mask; it comes in a later cycle than a write of a higher key that has come in this one
(R325). -/
def State.writeReq (s : State) (r : Run) (node len tok pa : Nat) (q : List (Nat × Nat)) : State :=
  let ok := q.filter fun e => r.strAdmits node true e.2 len
  let at' (x : Nat × Nat) : Nat := pa / 128 * 128 + x.2 % 128
  let key := writerKey (r.coreAt node) 1 0
  if ok.any fun x => s.outranked key (at' x) len then s
  else
    let s := ((s.rangeFaults r node len true q).doneAt r.id node).l2Alloc r.vd pa false
    (ok.foldl (fun s x => (s.recordWrite key (at' x) len).devStore (at' x) len (tok / 2 ^ (8 * len * x.1) % 2 ^ (8 * len))) s).modRun r.id fun r =>
      r.answered node []

/-! ## Rounds -/

/-- A stream is in the middle of a token, its stop point (R167). -/
def NodeS.midTok (st : NodeS) : Bool := st.m != 0 || st.asked.isSome

/-- A stream may step now (R120, R124, R167): a cut lets it end the token in progress. -/
def State.mayStream (s : State) (r : Run) (node kind : Nat) : Bool :=
  ((r.node node).any fun n => n.kind == kind) && (r.nodeS node).latched && r.active node && r.goes node && s.occupied r &&
  (r.confAt < s.cycleOf r || r.graph.handlerNodes.contains node) && (r.mayStart node || (r.nodeS node).midTok)

/-- A round may start (R120, R122, R128). -/
def State.roundReady (s : State) (r : Run) (node : Nat) (n : NodeD) : Bool :=
  let st := r.nodeS node
  !st.run && !st.done && st.round < n.rounds && !(s.barred r node) && r.inputsReady node n && r.outputsFree node n

/-- The effect of a parameter token; none where it raises SHAPE (R158). -/
def Run.applyParam (r : Run) (node : Nat) (w : Word) : Option (Run × Bool) :=
  let f := bits w.toNat 60 4
  let v := bits w.toNat 0 56
  let b := r.image node
  let st := r.nodeS node
  let size (p : PortD) : Nat := match p.kind with | 0 => 8 | 1 => 256 | _ => 512
  let datas := ((r.node node).map fun n => if n.kind = 2 then n.ports.filter fun p => 16 ≤ p.port else n.ports.filter fun p => p.port = 0).getD []
  if bits w.toNat 56 4 ≠ 0 then none
  else if f = 15 then some (r, false)
  else if f = 0 then
    if v % shElem b ≠ 0 then none
    else some (r.setNodeS node { st with ovMask := st.ovMask ||| 1, ovBase := v }, true)
  else if f ≤ 4 then
    let v := v % 2 ^ 25
    if v = 0 || v > 2 ^ 24 || (f = 1 && datas.any fun p => size p < v * shElem b) then none
    else some (r.setNodeS node { st with ovMask := st.ovMask ||| 2 ^ f, ovExt := tput st.ovExt (f - 1) v }, false)
  else none

/-- A round is over: its number rises, and slots reserved for tokens it did not send are free again. -/
def Run.endRound (r : Run) (node : Nat) (n : NodeD) : Run :=
  let st := r.nodeS node
  let r := r.setNodeS node
    { st with round := st.round + 1, run := false, n := 0, m := 0, got := [], sent := false, done := decide (n.rounds ≤ st.round + 1) }
  n.ports.foldl (fun r p => if p.port < 16 then r else match r.graph.chanOfOut node p.port with
    | some i => r.setChan i { r.chan i with res := 0 }
    | none => r) r

/-- A data port whose tokens of the round just run differ from its count, with their number: under a port dimension each port below its extent has its
share, any other none (R155, R158). -/
def Run.rateOff (r : Run) (node : Nat) (n : NodeD) : Option (Nat × Nat) :=
  let total := r.strTokens node
  let share (q : Nat) : Nat := match r.strPort node with
    | some k => if q < r.strExt node k then total / Nat.max (r.strExt node k) 1 else 0
    | none => if q = 0 then total else 0
  if !(r.hasParam node) || (r.strIndex node).isSome then none
  else if n.kind = 3 then (if r.portCount node 0 = total then none else some (0, total))
  else ((List.range 16).find? fun q => r.portCount node (16 + q) ≠ share q).map fun q => (16 + q, share q)

/-- A token of a round has been done: the round goes on or ends. -/
def State.stepRound (s : State) (rid node : Nat) (n : NodeD) : State :=
  match s.run rid with
  | none => s
  | some r =>
    let st := r.nodeS node
    if st.n + 1 < r.strTokens node then s.modRun rid fun r => r.setNodeS node { r.nodeS node with n := st.n + 1, m := 0, got := [] }
    else
      let s := s.modRun rid fun r => r.endRound node n
      match r.rateOff node n with
      | some (port, k) => s.raiseEdge r node 0x08 0 (port + 2 ^ 16 * k)
      | none => s

/-- What the start of a round makes of a stream: nothing while its parameter token is not there, SHAPE, or the round with its output slots reserved and
its parameter token taken (R120, R158). -/
def State.beginRound (s : State) (r : Run) (node : Nat) (n : NodeD) : Option (Option Run) :=
  let go (r : Run) : Run :=
    let r := (r.reserve node n).starts
    r.setNodeS node { r.nodeS node with run := true, n := 0, m := 0, got := [], sent := false }
  if !(r.hasParam node) then some (some (go r))
  else (r.head node 15).map fun t => match r.applyParam node ((tokVal t).setWidth 64) with
    | none => none
    | some (r', base) =>
      let r' := r'.take node 15
      some (go (if base then s.relatchStream r' node else r'))

/-- A round whose parameter token raises SHAPE is not run, and its token is gone (R158). -/
def State.skipRound (s : State) (r : Run) (node : Nat) (n : NodeD) : State :=
  (s.modRun r.id fun r => let r := r.take node 15
    r.setNodeS node { r.nodeS node with round := (r.nodeS node).round + 1, done := decide (n.rounds ≤ (r.nodeS node).round + 1) }).raiseEdge
    r node 0x0C 0 0

/-- A loader's token enters its channel, in the slot reserved for it where one is left. -/
def Run.emit (r : Run) (node port : Nat) (mk : Nat → Nat → Token) (now : Nat) : Run :=
  match r.graph.chanOfOut node port with
  | none => r
  | some i =>
    let c := r.chan i
    let t := mk i c.seq
    (r.setChan i { c with res := c.res - 1, seq := if t.kind = 2 then (c.seq + 1) % 2 ^ 32 else c.seq }).launchTok i t (now + 1)

/-- A slot for a token that a loader sends: reserved, or free. -/
def Run.slotFor (r : Run) (node port : Nat) : Bool :=
  match r.graph.chanOfOut node port with
  | none => true
  | some i => decide (0 < (r.chan i).res) || decide (0 < r.freeSlots i)

/-- The token that values at places of `len` bytes make on a port (R154, R160). -/
def Run.formTok (r : Run) (node port len : Nat) (vs : List (Nat × Nat)) (chan seq : Nat) : Token :=
  let w := vs.foldl (fun a v => a + v.2 * 2 ^ (8 * len * v.1)) 0
  match r.portKind node port with
  | 0 => .scalar (BitVec.ofNat 64 w)
  | 1 => .vec (BitVec.ofNat 2048 w)
  | _ => sealChunk (shTy (r.image node)) 0 0 r.id chan seq 1 (r.coreAt node) false false (BitVec.ofNat 4096 w)

/-- The index of an indirect step, where its token is present: the position, none outside the extent of d1 (R157). -/
def Run.indexTok (r : Run) (node port : Nat) : Option (Option Nat) :=
  (r.head node port).map fun t =>
    let j := ((tokVal t).setWidth 64 : Word).toInt
    if 0 ≤ j && j < r.strExt node 1 then some j.toNat else none

/-- The position of the present token of a stream's round: none while the index it needs is not there, and no position for one outside its extent. -/
def Run.strNow (r : Run) (node : Nat) : Option (Option (Nat × Nat × Nat)) :=
  match r.strIndex node with
  | none => some (some (r.strPos node (r.nodeS node).n))
  | some p => (r.indexTok node p).map fun j => j.map fun j => (j, 0, 0)

/-- The requests of the present token. -/
def Run.strReqs (r : Run) (node : Nat) : List (List (Nat × Nat)) :=
  match r.strNow node with
  | some (some pos) => requests (r.strElems node pos)
  | _ => []

/-- The present token's index is consumed with it. -/
def Run.popIndex (r : Run) (node : Nat) : Run :=
  match r.strIndex node with
  | some p => r.take node p
  | none => r

/-- The token that a released result offers to a collective storer's round (R61). -/
def State.resultTok (s : State) (r : Run) (node : Nat) : Option Token :=
  let st := r.nodeS node
  ((s.colls.find? fun c => c.tag == st.desc.headD 0 && c.round == st.round).bind (·.results)).bind fun rs => rs[st.n]?

/-- The next request of a stream waits for a page walk, and is not ready (R153, R163): a collective storer's first is its descriptor's (R60). -/
def State.walking (s : State) (r : Run) (node : Nat) (n : NodeD) : Bool :=
  let st := r.nodeS node
  let waits (r : Run) (q : List (Nat × Nat)) : Bool := match s.askReq r node (shElem (r.image node)) (n.kind == 3) q with
    | .wait _ => true
    | _ => false
  if st.run then waits r ((r.strReqs node).getD st.m [])
  else match n.coll with
  | some a => (match s.edgeAt r node false a with | .wait _ => true | _ => false)
  | none => (match s.beginRound r node n with
    | some (some r') => waits r' ((r'.strReqs node).headD [])
    | _ => false)

/-- A stream has a sector request ready to issue. -/
def State.wantsReq (s : State) (r : Run) (node : Nat) : Bool :=
  let st := r.nodeS node
  match r.node node with
  | none => false
  | some n =>
    s.mayStream r node n.kind && st.asked.isNone && !(s.walking r node n) &&
    (if !st.run then s.roundReady r node n
     else !(r.strReqs node).isEmpty && (if n.kind = 2 then r.slotFor node (r.strOut node st.n)
       else if n.coll.isSome then st.sent && (s.resultTok r node).isSome else (r.head node 0).isSome))

/-- The edge unit of a stream lets it issue a request in this cycle: one a cycle, the streams that want to in round-robin order (R153). -/
def State.unitTurn (s : State) (r : Run) (node : Nat) : Bool :=
  match r.unitOf node with
  | none => true
  | some u =>
    let (used, last) := tget (0, 0) s.edgeTurn u
    let rivals := s.runs.flatMap fun x => ((x.streamsAt u).filter fun n => s.wantsReq x n).map fun n => streamKey x.id n
    let rank (k : Nat) : Nat := if last < k then k else k + 2 ^ 64
    decide (used ≤ s.cycleOf r) && !rivals.any fun k => rank k < rank (streamKey r.id node)

/-- A stream has issued its unit's request of this cycle. -/
def State.useTurn (s : State) (r : Run) (node : Nat) : State :=
  match r.unitOf node with
  | none => s
  | some u => { s with edgeTurn := tput s.edgeTurn u (s.cycleOf r + 1, streamKey r.id node) }

/-- The next request of the present token of run `r`, which `s` holds or is about to hold, is issued: it takes its unit's turn, waits for a walk, or
meets a fault that leaves nothing to read or to write (R163, R164, R167). -/
def State.issueReq (s : State) (r : Run) (node len : Nat) (write : Bool) : State :=
  match (r.strReqs node)[(r.nodeS node).m]? with
  | none => s
  | some q => match s.askReq r node len write q with
    | .wait s' => s'
    | .go pa p => (s.modRun r.id fun _ => r.ask node pa p s.now).useTurn r node
    | .none => ((s.modRun r.id fun _ => r).rangeFaults r node len write q).modRun r.id fun r => r.answered node []
    | .fault c a => (((s.modRun r.id fun _ => r).rangeFaults r node len write q).raiseEdge r node c a 0).modRun r.id fun r => r.answered node []

/-- A loader's token is formed of what its requests have read, and sent. -/
def State.sendFormed (s : State) (r : Run) (node len : Nat) (n : NodeD) (vs : List (Nat × Nat)) : State :=
  let port := r.strOut node (r.nodeS node).n
  (s.modRun r.id fun r => (r.popIndex node).emit node port (r.formTok node port len vs) (s.cycleOf r)).stepRound r.id node n

/-- A loader's token whose last request is over is sent. -/
def State.loadEnd (s : State) (rid node len : Nat) (n : NodeD) : State :=
  match s.run rid with
  | none => s
  | some r =>
    let st := r.nodeS node
    if st.m ≠ 0 && (r.strReqs node).length ≤ st.m then s.sendFormed r node len n st.got else s

/-- One step of a loader's round: its next request is issued, or the one issued is served once the Dampers have granted it. -/
def State.loadTok (s : State) (r : Run) (node : Nat) (n : NodeD) : State :=
  let st := r.nodeS node
  let len := shElem (r.image node)
  match st.asked with
  | some pa =>
    if (s.streamToll r node).isSome then s
    else (s.readReq r node len pa ((r.strReqs node).getD st.m [])).loadEnd r.id node len n
  | none =>
    if !(r.slotFor node (r.strOut node st.n)) then s
    else match r.strNow node with
    | none => s
    | some none => (s.raiseEdge r node 0x07 0 0).sendFormed r node len n []
    | some _ => if s.unitTurn r node then (s.issueReq r node len false).loadEnd r.id node len n else s

/-- A round starts at its first sector request (R167), or at an index outside its extent. -/
def State.startRound (s : State) (r : Run) (node : Nat) (n : NodeD) : State :=
  match s.beginRound r node n with
  | none => s
  | some none => s.skipRound r node n
  | some (some r') =>
    let len := shElem (r'.image node)
    match r'.strNow node with
    | none => s
    | some none => s.modRun r.id fun _ => r'
    | some _ =>
      if !(s.unitTurn r node) then s
      else if n.kind = 2 then (s.issueReq r' node len false).loadEnd r.id node len n
      else match s.askReq r' node len true ((r'.strReqs node).headD []) with
      | .wait s' => s'
      | _ => s.modRun r.id fun _ => r'

/-- LOADER_ROUND: run `unit`, node `idx`: a round starts, a sector request is issued or served, and a token whose requests are over is sent
(R153-R160). -/
def execLoaderRound (s : State) : Step :=
  let e := s.ev
  .next (match s.run e.unit with
    | none => s
    | some r => match r.node e.idx with
      | none => s
      | some n =>
        if !(s.mayStream r e.idx 2) then s
        else if (r.nodeS e.idx).run then s.loadTok r e.idx n
        else if s.roundReady r e.idx n then s.startRound r e.idx n
        else s)

/-- What a storer's check of a token gives: its bytes as a number, or a state in which nothing of it is written (R161). -/
def State.storerCheck (s : State) (r : Run) (node : Nat) (t : Token) : State × Option Nat :=
  match t with
  | .scalar w => (s, some w.toNat)
  | .vec v => (s, some v.toNat)
  | .chunk h p =>
    if h.type < 14 && tyW h.type ≠ shElem (r.image node) then (s.raiseEdge r node 0x0C 0 0, none)
    else match checkChunk h p 1 (r.coreAt node) with
    | .ok _ q => (s, some q.toNat)
    | .bad found =>
      (s.integrity r.id (r.coreAt node + 2 ^ 14) 6 0 false h.vkind h.vid 1 (r.coreAt node) h.ident h.res found, none)

/-- A storer's token whose last request is over leaves. -/
def State.storeEnd (s : State) (rid node : Nat) (n : NodeD) (pop : Run → Run) : State :=
  match s.run rid with
  | none => s
  | some r =>
    let st := r.nodeS node
    if st.m ≠ 0 && (r.strReqs node).length ≤ st.m then (s.modRun rid fun r => (pop r).popIndex node).stepRound rid node n else s

/-- One step of a storer's round: its token is checked and its next request issued, or the one issued is performed once the Dampers have granted it;
`pop` takes the token from where it stands. -/
def State.storeTok (s : State) (r : Run) (node : Nat) (n : NodeD) (t : Token) (pop : Run → Run) : State :=
  let st := r.nodeS node
  let len := shElem (r.image node)
  match st.asked with
  | some pa =>
    if (s.streamToll r node).isSome then s
    else match s.storerCheck r node t with
    | (_, some w) => (s.writeReq r node len w pa ((r.strReqs node).getD st.m [])).storeEnd r.id node n pop
    | (_, none) => s
  | none => match r.strNow node with
    | none => s
    | some none => ((s.raiseEdge r node 0x07 0 0).modRun r.id fun r => (pop r).popIndex node).stepRound r.id node n
    | some _ =>
      match s.storerCheck r node t with
      | (s, none) => (s.modRun r.id fun r => (pop r).popIndex node).stepRound r.id node n
      | (s, some _) => if s.unitTurn r node then (s.issueReq r node len true).storeEnd r.id node n pop else s

/-- STORER_ROUND: run `unit`, node `idx`: a round starts at its first request, or the next request of its token is issued or performed
(R153-R162). -/
def execStorerRound (s : State) : Step :=
  let e := s.ev
  .next (match s.run e.unit with
    | none => s
    | some r => match r.node e.idx with
      | none => s
      | some n =>
        let work (s : State) : State := match s.run r.id with
          | some r => (match r.head e.idx 0 with
            | some t => if (r.nodeS e.idx).run then s.storeTok r e.idx n t fun r => r.take e.idx 0 else s
            | none => s)
          | none => s
        if !(s.mayStream r e.idx 3) || n.coll.isSome then s
        else if (r.nodeS e.idx).run then work s
        else if s.roundReady r e.idx n then work (s.startRound r e.idx n)
        else s)

/-! ## Re-latch (R164) -/

/-- RELATCH_EDGE: the `idx`th re-latch token, which stands at an edge unit: its streams drop the latches it names, and it emerges once the requests
that they had translated are over (R164). -/
def execRelatchEdge (s : State) : Step :=
  .next (match s.edgeRel[s.ev.idx]? with
    | none => s
    | some (u, t) =>
      let waits (k : Nat) : Bool := (s.run (k / 65536)).any fun r => r.works && (r.nodeS (k % 65536)).asked.isSome
      if t.got then (if t.waits.any waits then s else { s with edgeRel := dropAt s.ev.idx s.edgeRel })
      else
        let named (p : Page) : Bool := p.vd == t.vd && p.va < t.va + t.size && t.va < p.va + p.size
        let asked := s.runs.flatMap fun r => ((r.streamsAt u).filter fun n => (r.nodeS n).asked.isSome).map fun n => streamKey r.id n
        let rel := if asked.isEmpty then dropAt s.ev.idx s.edgeRel
          else modAt (fun e => (e.1, { e.2 with got := true, waits := asked })) s.ev.idx s.edgeRel
        { s with
          edgeRel := rel
          runs := s.runs.map fun (r : Run) => (r.streamsAt u).foldl (fun r n =>
            r.setNodeS n { r.nodeS n with latches := (r.nodeS n).latches.filter fun p => !named p }) r })

end Sys2Proof.Machine
end

