-- ==== Sys2Proof/Machine/Collective.lean ====
section
/-! DEFINITION. The collective unit of the package and its storers: COLLECTIVE_ROUND, COLLECTIVE_CONTRIBUTION, COLLECTIVE_TIMEOUT
(02 R58-R61). Other packages of the pod stand outside: what they send comes in an event, what goes to them stands in `podOut`. -/

namespace Sys2Proof.Machine

/-! ## Descriptors and members (R60) -/

/-- The pod ids of a MEMBERS field. -/
def memberIds (m : Nat) : List Nat := (List.range 64).filter fun i => bitAt m i

/-- The pod id of the root: the lowest member (R61). -/
def rootOf (m : Nat) : Nat := (memberIds m).headD 0

/-- TAG, OP, RM and MEMBERS of a descriptor's 64 bytes; none where R60 raises SHAPE. RM has the values 0 to 6: 7 raises SHAPE by the rule's words, and
8 to 255 do by the model's choice (assumption 74). -/
def readDesc (pod : Nat) (bs : List Byte) : Option (List Nat) :=
  let w := leNat bs
  let op := bits w 32 8
  let rm := bits w 40 8
  let m := bits w 64 64
  if op > 2 || rm > 6 || bits w 48 16 ≠ 0 || bits w 128 384 ≠ 0 || (memberIds m).length < 2 || !bitAt m pod then none
  else some [bits w 0 32, op, rm, m]

/-- The collective timeout of a virtual device, in periods of 1.8 GHz (R59, R99). -/
def ctmoTicks (c : Nat) : Nat := (if c = 0 then 100 else Nat.min 10000 c) * 1800000

/-! ## Combining (R61) -/

/-- The order in which MIN and MAX compare two values that are numbers; a negative zero lies below zero. -/
def pickLess (a b : FVal) : Bool :=
  match a, b with
  | .inf n, .inf m => n && !m
  | .inf n, _ => n
  | _, .inf m => !m
  | .negZero, .negZero => false
  | .negZero, .fin m _ => decide (0 ≤ m)
  | .fin m _, .negZero => decide (m < 0)
  | .fin m e, .fin n f => decide (m * 2 ^ (e - min e f).toNat < n * 2 ^ (f - min e f).toNat)
  | _, _ => false

/-- The anchor at which SUM takes the elements of a type. -/
def sumAnchor (ty : Nat) : BitVec 16 := if tyIsInt ty then 96 else 48

/-- The least anchor of a list of chunks. -/
def leastAnchor (hs : List ChunkHdr) : BitVec 16 :=
  match hs with
  | [] => 0
  | h :: rest => rest.foldl (fun a x => if x.anchor.toInt < a.toInt then x.anchor else a) h.anchor

/-- One element of a SUM: its XA value at the anchor, and whether bits were lost or the sum saturated. -/
def sumElem (anchor : BitVec 16) (cs : List (ChunkHdr × BitVec 4096)) (j : Nat) : BitVec 128 × Bool :=
  cs.foldl (fun (acc : BitVec 128 × Bool) c =>
    let r := if c.1.type = 13 then xaAlign acc.1 anchor (BitVec.ofNat 128 (plane c.2 16 j)) c.1.anchor
      else xaSum acc.1 anchor [match decodeE c.1.type (plane c.2 (tyW c.1.type) j) with | .negZero => .fin 0 0 | v => v]
    (r.n, acc.2 || r.accwin || (r.xw && r.n != xaSpecial))) (0, false)

/-- One element of a MIN or a MAX: the pattern chosen, unchanged, and whether its alignment to the anchor of the result lost bits. -/
def pickElem (max : Bool) (anchor : BitVec 16) (cs : List (ChunkHdr × BitVec 4096)) (j : Nat) : Nat × Bool :=
  let ty := (cs.head?.map (·.1.type)).getD 0
  let pats := cs.map fun c => (c.1.anchor, plane c.2 (if ty = 13 then 16 else tyW ty) j)
  let val (u : BitVec 16 × Nat) : FVal := if ty = 13 then xaVal (BitVec.ofNat 128 u.2) u.1 else decodeE ty u.2
  if pats.any fun u => (match val u with | .nan _ => true | _ => false) then (if ty = 13 then xaSpecial.toNat else canonNaN ty, false)
  else match pats with
  | [] => (0, false)
  | u :: us =>
    let best := us.foldl (fun b x => if (if max then pickLess (val b) (val x) else pickLess (val x) (val b)) then x else b) u
    if ty ≠ 13 then (best.2, false)
    else
      let r := xaAlign 0 anchor (BitVec.ofNat 128 best.2) best.1
      (r.n.toNat, r.xw || r.accwin)

/-- The result chunk of the chunks k of every member, sealed by the root. INST, CHAN and SEQ are those of the lowest member's chunk, and the coordinate
of the seal is 0; a MIN or a MAX in XA form stands at the least of the members' anchors: the model's choices (assumption 74). -/
def combineChunk (op rm : Nat) (cs : List (ChunkHdr × BitVec 4096)) : Token :=
  match cs with
  | [] => .scalar 0
  | (h, _) :: _ =>
    let w := tyW h.type
    let anchor := if h.type = 13 then leastAnchor (cs.map (·.1)) else sumAnchor h.type
    let elems := (List.range (chunkElems h.type)).map fun j =>
      if op = 0 then
        let (n, bad) := sumElem anchor cs j
        ((if h.type = 13 then n.toNat else (roundXA n anchor h.type rm).1), bad)
      else pickElem (op == 2) anchor cs j
    let p := leNat (elems.flatMap fun e => natLe w e.1)
    sealChunk h.type h.scale (if h.type = 13 then anchor else 0) h.inst h.chan h.seq 3 0
      ((cs.any fun c => c.1.partialF) || elems.any (·.2)) false (BitVec.ofNat 4096 p)

def Token.asChunk : Token → Option (ChunkHdr × BitVec 4096)
  | .chunk h p => some (h, (unpackChunk h p).getD p)
  | _ => none

/-- Whether an operation admits a type (R61). -/
def opAdmits (op ty : Nat) : Bool := op ≠ 0 || ty ≤ 10 || ty == 13

/-- The results of a collective whose members have all contributed; none where they do not match or a type is not admitted (R61). -/
def combineAll (op rm : Nat) (cs : List (List Token)) : Option (List Token) :=
  let n := ((cs.head?).map (·.length)).getD 0
  if cs.any fun c => c.length != n then none
  else
    let rows := (List.range n).map fun k => cs.filterMap fun x => (x[k]?).bind Token.asChunk
    let ok (r : List (ChunkHdr × BitVec 4096)) : Bool := match r with
      | [] => false
      | (h, _) :: _ => opAdmits op h.type && r.all fun c => c.1.type == h.type && c.1.scale == h.scale
    if rows.all ok then some (rows.map (combineChunk op rm)) else none

/-! ## The unit -/

/-- A local storer's round ends without a result. -/
def State.dropRound (s : State) (rid node : Nat) : State :=
  s.modRun rid fun r => match r.node node with
    | some n => let r := r.endRound node n
      r.setNodeS node { r.nodeS node with desc := [], chunks := [] }
    | none => r

/-- The storers of this package that are in a round of a tag. -/
def State.membersIn (s : State) (tag round : Nat) : List (Nat × Nat) :=
  s.runs.flatMap fun r => (List.range r.graph.nodes.length).filterMap fun n =>
    let st := r.nodeS n
    if st.run && st.round == round && st.desc.head? == some tag then some (r.id, n) else none

/-- A code is raised at a member here: TIMEOUT by the unit, SHAPE at its storer; its round is over. -/
def State.raiseMember (s : State) (code : Nat) (m : Nat × Nat) : State :=
  match s.run m.1 with
  | none => s
  | some r => (s.dropRound m.1 m.2).raiseElem m.1 code (if code = 0x1B then 0 else r.coreAt m.2) (if code = 0x1B then 3 else 1) m.2 0 0

/-- The pod links that are FAILING (R54). -/
def State.failing (s : State) : BitVec 8 :=
  (List.range 8).foldl (fun (b : BitVec 8) l => if tget 0 s.grades (l + 1) = 2 then b ||| 1 <<< l else b) 0

/-- The pod links that a collective may not use: those that were FAILING when it was new (R54). -/
def State.shutFor (s : State) (tag round : Nat) : BitVec 8 :=
  match s.colls.find? fun c => c.tag == tag && c.round == round with
  | some c => c.shut
  | none => match s.podIn.find? fun p => p.tag == tag && p.round == round with
    | some p => p.shut
    | none => s.failing

/-- A message for another package waits at a pod link's arbiter; which of the links it takes that its collective may use is a free value, and where it may
use none no arbiter grants it (R54, R57, assumption 74). -/
def State.podSend (s : State) (m : PodMsg) : State :=
  let ls := (List.range 8).filter fun l => !(s.shutFor m.tag m.round).getLsbD l
  { s with podOut := s.podOut ++ [{ m with link := ls.getD (Config.freeNat s.free % ls.length) 8, owed := Nat.max 1 m.chunks.length, stood := s.now }]
           free := s.free + 1 }

/-- The same message for each of a list of packages. -/
def State.podSendAll (s : State) (ds : List Nat) (m : PodMsg) : State := ds.foldl (fun s d => s.podSend { m with dest := d }) s

/-- The other packages of a collective. -/
def State.othersOf (s : State) (members : Nat) : List Nat := (memberIds members).filter (· != s.podId)

/-- The virtual device of this package's member of a collective. -/
def State.collVd (s : State) (c : Collective) : Nat := ((c.contribs.find? fun x => x.pod == s.podId).map (·.vd)).getD 0

/-- A collective is discarded: every member that has contributed or is in the round here gets the code, and the others get it when they
contribute (R59, R61). -/
def State.killColl (s : State) (c : Collective) (code : Nat) : State :=
  let gone := (c.contribs.map (·.pod)).eraseDups
  let here := s.membersIn c.tag c.round
  let c' : Collective := { c with contribs := [], dead := some code, late := (memberIds c.members).filter fun p => !gone.contains p }
  let rest := s.colls.filter fun x => !(x.tag == c.tag && x.round == c.round)
  let vd := s.collVd ((s.colls.find? fun x => x.tag == c.tag && x.round == c.round).getD c)
  let msg : PodMsg := { dest := 0, tag := c.tag, round := c.round, code := some code, chunks := [], vd := vd, link := 0, owed := 0, stood := 0 }
  let s : State := { s.podSendAll (s.othersOf c.members) msg with colls := if c'.late.isEmpty then rest else rest ++ [c'] }
  here.foldl (fun s m => s.raiseMember code m) s

def State.setColl (s : State) (c : Collective) : State :=
  { s with colls := (s.colls.filter fun x => !(x.tag == c.tag && x.round == c.round)) ++ [c] }

/-- The root releases the results to every member together, or finds that they do not match (R58, R61). -/
def State.closeColl (s : State) (c : Collective) : State :=
  let order := (memberIds c.members).filterMap fun p => (c.contribs.find? fun x => x.pod == p).map (·.chunks)
  match combineAll c.op c.rm order with
  | none => s.killColl c 0x0C
  | some rs =>
    (s.setColl { c with contribs := [], results := some rs }).podSendAll (s.othersOf c.members)
      { dest := 0, tag := c.tag, round := c.round, code := some 0, chunks := rs, vd := s.collVd c, link := 0, owed := 0, stood := 0 }

/-- A contribution reaches the unit (R58-R61): `d` is its descriptor, `ct` its member's timeout, `shut` the links that its collective may not use. OP, RM and MEMBERS of a collective are those of the
contribution that came first, whatever the descriptors of the later ones say: the model's choice (assumption 74). -/
def State.joinColl (s : State) (shut : BitVec 8) (d : List Nat) (round ct : Nat) (x : Contribution) : State :=
  let tag := d.getD 0 0
  let members := d.getD 3 0
  let fresh : Collective :=
    { tag := tag, round := round, op := d.getD 1 0, rm := d.getD 2 0, members := members, contribs := [], deadline := s.now + ct
      results := none, dead := none, late := [], shut := shut }
  let refuse (s : State) (code : Nat) : State :=
    match x.run with
    | some r => s.raiseMember code (r, x.node)
    | none => s.podSend { dest := x.pod, tag := tag, round := round, code := some code, chunks := [], vd := x.vd, link := 0, owed := 0, stood := 0 }
  let old := s.colls.find? fun c => c.tag == tag && c.round == round
  match old with
  | some c =>
    (match c.dead with
     | some code =>
       let late := c.late.filter (· != x.pod)
       let s := if late.isEmpty then { s with colls := s.colls.filter fun y => !(y.tag == tag && y.round == round) } else s.setColl { c with late := late }
       refuse s code
     | none =>
       if s.now > c.deadline then
         let s := s.killColl c 0x1B
         if s.membersIn tag round |>.contains (x.run.getD 0, x.node) then s else refuse s 0x1B
       else if !bitAt c.members x.pod || c.contribs.any fun y => y.pod == x.pod then
         s.killColl { c with contribs := c.contribs ++ [x] } 0x0C
       else
         let c := { c with contribs := c.contribs ++ [x] }
         if (memberIds c.members).all fun p => c.contribs.any fun y => y.pod == p then s.closeColl c else s.setColl c)
  | none =>
    if !bitAt members x.pod then refuse s 0x0C
    else if rootOf members = s.podId then s.setColl { fresh with contribs := [x] }
    else
      -- The unit of a member that is not the root forwards the chunks and waits for the root's answer.
      (s.setColl { fresh with contribs := [x] }).podSend
        { dest := rootOf members, tag := tag, round := round, code := none, chunks := x.chunks, vd := x.vd, link := 0, owed := 0, stood := 0 }

/-- The chunks of a contribution as the unit has checked them, or the first that fails with the residue found (POINT 3). -/
def checkAll : List Token → List Token × Option (ChunkHdr × Nat)
  | [] => ([], none)
  | .chunk h p :: ts =>
    (match checkChunk h p 3 0 with
     | .bad found => ([], some (h, found))
     | .ok h' _ => let (us, b) := checkAll ts
       (.chunk h' p :: us, b))
  | t :: ts => let (us, b) := checkAll ts
    (t :: us, b)

/-- A residue mismatch at the unit: charged to the verifier's element, a bridge or a pod link, which stands at the hub as the unit does (R43, R337). -/
def State.unitIntegrity (s : State) (rid : Nat) (h : ChunkHdr) (found : Nat) : State :=
  let cells := verifierCells h.vkind h.vid
  let (s, marked) := s.charge cells
  s.integrityAct rid 0x13 (3 * 2 ^ 14) fun act cut =>
    integrityBody (h.vid + h.vkind * 2 ^ 14) (3 * 2 ^ 14) 3 0 cells.length act h.ident h.res found cut marked

/-- A chunk has been checked where it crossed the bridge between its die and the hub (R44). A well-formed PARTIAL chunk is not compared. -/
def crossed : Token → Bool
  | .chunk h p => h.vkind == 2 || (h.partialF && (match checkChunk h p 2 0 with | .ok _ _ => true | .bad _ => false))
  | _ => true

/-- A residue mismatch at a bridge or a pod link: the cells of its hop are charged (R337). -/
def State.crossIntegrity (s : State) (rid point vk vid ck cid : Nat) (cells : List Cell) (h : ChunkHdr) (found : Nat) : State :=
  let (s, marked) := s.charge cells
  s.integrityAct rid 0x13 (cid + 3 * 2 ^ 14) fun act cut =>
    integrityBody (vid + vk * 2 ^ 14) (cid + ck * 2 ^ 14) point 0 cells.length act h.ident h.res found cut marked

/-- The first chunk of a list that a bridge has yet to check, checked by the bridge whose router is `vid`: the list with it, or the header and
the residue found. -/
def checkNext (vid : Nat) : List Token → Option (List Token × Option (ChunkHdr × Nat))
  | [] => none
  | t :: ts =>
    if crossed t then (checkNext vid ts).map fun x => (t :: x.1, x.2)
    else match t with
    | .chunk h p => (match checkChunk h p 2 vid with
      | .ok h' _ => some (.chunk { h with vkind := h'.vkind, vid := h'.vid } p :: ts, none)
      | .bad found => some (t :: ts, some (h, found)))
    | _ => none

/-- The 32 bytes of a header read as a number (R273). -/
def hdrOfNat (w : Nat) : ChunkHdr :=
  { type := bits w 0 4, scale := BitVec.ofNat 8 (bits w 8 8), coding := bitAt w 16, partialF := bitAt w 25, special := bitAt w 24
    len := bits w 32 16, vkind := bits w 62 2, vid := bits w 48 11, inst := bits w 64 16, chan := bits w 80 16, seq := bits w 96 32
    res := bits w 128 64, anchor := BitVec.ofNat 16 (bits w 192 16)
    mbz := bits w 4 4 != 0 || bits w 17 7 != 0 || bits w 26 6 != 0 || bits w 59 3 != 0 || bits w 208 48 != 0 }

/-! ## The events -/

/-- A collective storer's round begins: its descriptor is read afresh, by a request that takes the unit's turn and passes the Dampers (R60, R153). -/
def State.startColl (s : State) (r : Run) (node addr : Nat) : State :=
  let skip (s : State) : State := s.dropRound r.id node
  match (r.nodeS node).asked with
  | none => (match s.edgeAt r node false addr with
    | .wait s => s
    | .fault c => if s.unitTurn r node then (skip s).raiseEdge r node c addr 0 else s
    | .ok pa p => if s.unitTurn r node then (s.modRun r.id fun r => r.starts.ask node pa p s.now).useTurn r node else s)
  | some pa =>
    if (s.streamToll r node).isSome then s
    else
      let s := (s.doneAt r.id node).modRun r.id fun r => r.setNodeS node { r.nodeS node with asked := none, paid := 0 }
      if s.poisoned pa then s.eccAct r.id 0x14 (r.coreAt node + 2 ^ 14) 6 0 node pa (s.cycle (r.coreAt node))
      else match readDesc s.podId ((List.range 64).map fun i => s.devByte (pa + i)) with
      | none => (skip (s.l2Alloc r.vd pa true)).raiseEdge r node 0x0C 0 0
      | some d => (s.l2Alloc r.vd pa true).modRun r.id fun r =>
        r.setNodeS node { r.nodeS node with run := true, n := 0, sent := false, desc := d, chunks := [] }

/-- COLLECTIVE_ROUND: run `unit`, node `idx`: a round starts, its next chunk goes to the unit, or a chunk of a released result is checked
and written (R60, R61). -/
def execCollectiveRound (s : State) : Step :=
  let e := s.ev
  .next (match s.run e.unit with
    | none => s
    | some r => match r.node e.idx with
      | none => s
      | some n => match n.coll with
        | none => s
        | some addr =>
          let st := r.nodeS e.idx
          if !(s.mayStream r e.idx 3) then s
          else if !st.run then (if st.asked.isSome || s.roundReady r e.idx n then s.startColl r e.idx addr else s)
          else if !st.sent then
            (match r.head e.idx 0 with
             | none => s
             | some t => s.modRun r.id fun r => (r.take e.idx 0).setNodeS e.idx
               { st with chunks := st.chunks ++ [t], sent := decide (r.portCount e.idx 0 ≤ st.chunks.length + 1) })
          else match s.colls.find? fun c => c.tag == st.desc.headD 0 && c.round == st.round with
          | none => s
          | some c => match c.results.bind fun rs => rs[st.n]? with
            | none => s
            | some t =>
              if !crossed t || (st.asked.isNone && st.paid ≠ 0) then s else
              let s := s.storeTok r e.idx n t id
              if (s.run r.id).any fun r => (r.nodeS e.idx).run then s
              else { s with colls := s.colls.filter fun x => !(x.tag == c.tag && x.round == c.round) })

/-- COLLECTIVE_CONTRIBUTION: for `sub` = 0 the chunks of run `unit`, node `idx`, have reached the unit of this package; for 1 those of
package `unit` under tag `idx` that the pod links have brought are those of its contribution to the root (the values: round, OP, RM,
MEMBERS, timeout in ms); for 2 those of the root's answer for tag `idx` have come (the values: round, code); for 3 package `unit` tells the root
that the graph of its member of tag `idx` has been aborted (the values: round, OP, RM, MEMBERS), which raises TIMEOUT to the others at once (R59). -/
def execCollectiveContribution (s : State) : Step :=
  let e := s.ev
  let mine (answer : Bool) (p : PodIn) : Bool := p.tag == e.idx && p.round == e.val 0 && p.answer == answer && (answer || p.pod == e.unit)
  let arrived (answer : Bool) : List Token := (s.podIn.filter (mine answer)).map (·.tok)
  let taken (answer : Bool) : State := { s with podIn := s.podIn.filter fun p => !mine answer p }
  .next (match e.sub with
    | 0 => (match s.run e.unit with
      | none => s
      | some r =>
        let st := r.nodeS e.idx
        if !st.run || !st.sent || st.chunks.isEmpty || !(st.chunks.all crossed) then s
        else
          let clear (s : State) : State := s.modRun r.id fun r => r.setNodeS e.idx { r.nodeS e.idx with chunks := [] }
          match checkAll st.chunks with
          | (_, some (h, found)) => (clear s).unitIntegrity r.id h found
          | (cs, none) =>
            (clear s).joinColl (s.shutFor (st.desc.headD 0) st.round) st.desc st.round (ctmoTicks (s.vd r.vd).ctmo) { pod := s.podId, vd := r.vd, run := some r.id, node := e.idx, chunks := cs })
    | 1 =>
      let d := [e.idx, e.val 1, e.val 2, e.val 3]
      if rootOf (e.val 3) ≠ s.podId || e.unit = s.podId then s
      else (match checkAll (arrived false) with
        | (_, some _) =>
          { s.podSend { dest := e.unit, tag := e.idx, round := e.val 0, code := some 0x13, chunks := [], vd := 0, link := 0, owed := 0, stood := 0 } with
            podIn := (taken false).podIn }
        | (cs, none) => (taken false).joinColl (s.shutFor e.idx (e.val 0)) d (e.val 0) (ctmoTicks (e.val 4)) { pod := e.unit, vd := 0, run := none, node := 0, chunks := cs })
    | 3 =>
      if rootOf (e.val 3) ≠ s.podId || e.unit = s.podId || !bitAt (e.val 3) e.unit then s
      else
        let c := (s.colls.find? fun c => c.tag == e.idx && c.round == e.val 0).getD
          { tag := e.idx, round := e.val 0, op := e.val 1, rm := e.val 2, members := e.val 3, contribs := [], deadline := s.now, results := none
            dead := none, late := [], shut := s.shutFor e.idx (e.val 0) }
        if c.results.isSome || c.dead.isSome || !bitAt c.members e.unit then s
        else (taken false).killColl
          { c with contribs := c.contribs.filter fun x => x.pod != e.unit, members := c.members - 2 ^ e.unit } 0x1B
    | _ =>
      (match s.colls.find? fun c => c.tag == e.idx && c.round == e.val 0 with
       | none => s
       | some c =>
         if rootOf c.members = s.podId || c.results.isSome || c.dead.isSome then s
         else if e.val 1 = 0 then
           -- The unit checks every chunk that it receives (POINT 3).
           (match checkAll (arrived true) with
            | (_, some (h, found)) => (s.membersIn c.tag c.round).foldl (fun s m => s.unitIntegrity m.1 h found) (taken true)
            | (cs, none) => (taken true).setColl { c with contribs := [], results := some cs })
         else (s.membersIn c.tag c.round).foldl (fun s m => s.raiseMember (e.val 1) m)
           { taken true with colls := s.colls.filter fun x => !(x.tag == c.tag && x.round == c.round) }))

/-- The chunks of the result of a collective storer's round. -/
def State.collResults (s : State) (r : Run) (node : Nat) : List Token :=
  ((s.colls.find? fun c => c.tag == (r.nodeS node).desc.headD 0 && c.round == (r.nodeS node).round).bind (·.results)).getD []

/-- What a collective storer's next chunk has to pay to leave its die by B3, or one of its result to leave the hub by it: five units, a chunk with its
header, at the Damper of that direction (R44, R101). -/
def State.crossToll (s : State) (r : Run) (node : Nat) : Option Nat :=
  let st := r.nodeS node
  if !st.run || st.asked.isSome || st.paid ≠ 0 || !(s.occupied r) then none
  else if st.chunks.any fun t => !crossed t then some (dampKey 3 (r.die * 4 + 3))
  else if (s.collResults r node).any fun t => !crossed t then some (dampKey 10 r.die)
  else none

/-- BRIDGE_ARRIVAL_CHECK: run `unit`, collective storer `idx`: a chunk that it has sent arrives at the hub's end of its die's bridge B3 (`sub`
0), or a chunk of its result arrives at the die's end (`sub` 1), and its residue is checked (R43, R44, R278): a chunk crosses once
the Damper of the bridge in its direction has granted it. The router that the bridge attaches to is a free value (assumption 29). -/
def execBridgeArrivalCheck (s : State) : Step :=
  let e := s.ev
  .next (match s.run e.unit with
    | none => s
    | some r =>
      let st := r.nodeS e.idx
      let vid := r.die * 512 + (Config.bridgeRouter r.die 3).toNat
      if !st.run || st.paid = 0 || st.asked.isSome then s
      else if e.sub = 0 then
        (match checkNext vid st.chunks with
         | none => s
         | some (ts, none) => s.modRun r.id fun r => r.setNodeS e.idx { st with chunks := ts, paid := 0, stood := s.now }
         | some (_, some (h, found)) =>
           (s.modRun r.id fun r => r.setNodeS e.idx { st with chunks := [], paid := 0 }).crossIntegrity r.id 4 h.vkind h.vid 2 vid
             (hopCells false h.vkind h.vid 2 vid) h found)
      else match s.colls.find? fun c => c.tag == st.desc.headD 0 && c.round == st.round with
      | none => s
      | some c => match c.results.bind (checkNext vid) with
        | none => s
        | some (ts, none) => (s.setColl { c with results := some ts }).modRun r.id fun r => r.setNodeS e.idx { st with paid := 0, stood := s.now }
        | some (_, some (h, found)) =>
          (s.modRun r.id fun r => r.setNodeS e.idx { st with paid := 0 }).crossIntegrity r.id 4 h.vkind h.vid 2 vid [.bridge r.die 3] h found)

/-- A pod link that was FAILING when a collective was new is excluded from it: it brings no chunk of it (R54). -/
def State.linkShut (s : State) (link tag round : Nat) : Bool := (s.shutFor tag round).getLsbD link

/-- POD_LINK_ARRIVAL_CHECK: a chunk from package `sub` under tag `idx` arrives over pod link `unit`, and its residue is checked (the values:
round, 1 for the root's answer, the header, the payload). A mismatch is raised in the member that waits for the answer, or told to the package
whose contribution it was (R57, R61, R278). The router that the link attaches to is a free value (assumption 29). -/
def execPodLinkArrivalCheck (s : State) : Step :=
  let e := s.ev
  let vid := (Config.linkRouter e.unit).toNat
  let answer := decide (e.val 1 = 1)
  .next (if e.unit ≥ 8 || !s.podLinks.getLsbD e.unit || s.linkShut e.unit e.idx (e.val 0) then s
    else
      let h := hdrOfNat (e.val 2)
      let p : BitVec 4096 := BitVec.ofNat 4096 (e.val 3)
      match checkChunk h p 3 vid with
      | .ok h' _ =>
        { s with podIn := s.podIn ++ [{ pod := e.sub, tag := e.idx, round := e.val 0, answer := answer, shut := s.shutFor e.idx (e.val 0)
                                        tok := .chunk { h with vkind := h'.vkind, vid := h'.vid } p }] }
      | .bad found =>
        if answer then
          (s.membersIn e.idx (e.val 0)).foldl (fun s m => s.crossIntegrity m.1 5 h.vkind h.vid 3 vid [.podLink e.unit] h found) s
        else s.podSend { dest := e.sub, tag := e.idx, round := e.val 0, code := some 0x13, chunks := [], vd := 0, link := 0, owed := 0, stood := 0 })

/-- COLLECTIVE_TIMEOUT: the `idx`th collective of the unit has passed its expiry (R59). -/
def execCollectiveTimeout (s : State) : Step :=
  .next (match s.colls[s.ev.idx]? with
    | none => s
    | some c =>
      if c.results.isSome || c.dead.isSome || rootOf c.members ≠ s.podId || s.now ≤ c.deadline then s else s.killColl c 0x1B)

/-- The collectives that a run's storers are in a round of, whether or not the unit holds anything of them yet. -/
def State.collsOf (s : State) (r : Run) : List Collective :=
  ((List.range r.graph.nodes.length).filterMap fun n =>
    let st := r.nodeS n
    match st.run, st.desc with
    | true, [tag, op, rm, members] =>
      if s.colls.any fun c => c.tag == tag && c.round == st.round then none
      else some
        { tag := tag, round := st.round, op := op, rm := rm, members := members, contribs := [], deadline := s.now, results := none, dead := none
          late := [], shut := s.shutFor tag st.round : Collective }
    | _, _ => none) ++
  s.colls.filter fun c => c.results.isNone && c.dead.isNone &&
    ((c.contribs.any fun x => x.run == some r.id) || (s.membersIn c.tag c.round).any fun m => m.1 == r.id)

/-- An instance that is removed leaves its collectives, those too to which it has not contributed: the other members get TIMEOUT at once (R59). -/
def State.collAbort (s : State) (rid : Nat) : State :=
  match s.run rid with
  | none => s
  | some r =>
    let s' := s.modRun rid fun r => { r with nodes := r.nodes.map fun x => (x.1, { x.2 with run := false, desc := [], chunks := [] }) }
    (s.collsOf r).foldl (fun s c =>
      if rootOf c.members = s.podId then
        s.killColl { c with contribs := c.contribs.filter fun x => x.run != some rid, members := c.members - 2 ^ s.podId } 0x1B
      else { s.podSend
        { dest := rootOf c.members, tag := c.tag, round := c.round, code := some 0x1B, chunks := [], vd := r.vd, link := 0, owed := 0, stood := 0 } with
          colls := s.colls.filter fun x => !(x.tag == c.tag && x.round == c.round) }) s'

end Sys2Proof.Machine
end

