-- ==== Sys2Proof/Machine/Phases.lean ====
section
/-! DEFINITION. Phases and the selector: SELECTION, PHASE_DRAIN, PHASE_CONFIG, and DEADLOCK (05 R123-R125, 06 R152, 08 R200). -/

namespace Sys2Proof.Machine

/-! ## The selector (R125) -/

/-- The selector channel of a graph. -/
def Graph.selector (g : Graph) : Option Nat := g.chans.findIdx? (·.selector)

def Run.phaseD (r : Run) : PhaseD := (r.graph.phases[r.phase]?).getD { next := 0xFF, selected := false }

/-- A token that a region raises: no core of it is named by the spec, so that SRC is a free value (assumption 9). -/
def State.raiseRegion (s : State) (r : Run) (code : Nat) (body : List Byte) : State :=
  let f : Flt :=
    { code := code, vd := r.vd, inst := r.id % 2 ^ 16, src := Config.freeNat s.free % 2 ^ 16, isOver := false, time := s.time
      body := body, run := none, held := none }
  ({ s with free := s.free + 1 }).raiseFree r.id code f

/-- SELECTION: the selector of run `unit` consumes a token and holds the phase it names; one that names no phase raises CHAN and halts
the region (R124, R125). A selection is not taken past the marker of a cut in progress, nor in a sequential phase: there the token stays on the selector
channel (assumption 90). -/
def execSelection (s : State) : Step :=
  .next (match s.run s.ev.unit with
    | none => s
    | some r => match r.graph.selector with
      | none => s
      | some i => match (r.chan i).buf with
        | [] => s
        | t :: rest =>
          if !r.isRunning || r.rolling || r.heldSel.isSome || !r.phaseD.selected || (r.cut.isSome && (r.chan i).marked) then s
          else
            let v := (tokVal t).toNat % 256
            let s := s.modRun r.id fun r => { r.setChan i { r.chan i with buf := rest } with heldSel := some v }
            if v ≠ 0xFF && r.graph.phases.length ≤ v then
              (({ s with free := s.free + 3 }).raiseRegion r 0x09 (s.elemBody 0xFFFF 0 0 (s.cycle (coreId r.die r.col 0)))).haltRun r.id 0x09
            else s)

/-! ## Drain (R124, R200, R309) -/

/-- The nodes of the present phase, the handler's left out. -/
def Run.phaseNodes (r : Run) : List Nat := r.activeNodes.filter fun n => !r.graph.handlerNodes.contains n

/-- The nodes that the present phase's drain waits for: in phase 0 the handler's among them, which are placed in its pass (R124, R137). -/
def Run.drainNodes (r : Run) : List Nat := r.activeNodes.filter fun n => (r.node n).any fun d => d.phase == r.phase

/-- A channel that must be empty for the phase to drain: it carries tokens and joins nodes of the phase. -/
def Run.drains (r : Run) (c : ChanD) : Bool :=
  !c.barrier && !c.selector && (r.drainNodes.contains c.pnode || r.drainNodes.contains c.cnode)

/-- The present phase is drained: channels empty, nothing in progress, no context held, copies and stores done, rounds finished, no segment held, no
condition open. -/
def State.drained (s : State) (r : Run) : Bool :=
  let ns := r.drainNodes
  let mine (node : Nat) : Bool := !r.graph.handlerNodes.contains node || ns.contains node
  (r.graph.chans.zipIdx.all fun (c, i) => !(r.drains c) ||
    ((r.chan i).buf.isEmpty && (r.chan i).late.isEmpty && !((r.chan i).fly.any fun f => f.tok.isSome))) &&
  (ns.all fun n => match r.node n with
    | none => true
    | some d => match d.kind with
      | 2 => (r.nodeS n).done
      | 3 => (r.nodeS n).done
      | 1 => true
      | _ => (match r.placeOf n with
        | some (.ctx cid) => !(((s.ctx cid).running || (s.ctx cid).park.isSome) && (s.ctx cid).role == Role.op r.id n)
        | _ => true)) &&
  (s.cores.all fun e => !(r.covers e.1) ||
    (!(e.2.copies.any fun c => c.run == r.id && mine c.node) && !(e.2.wq.any fun q => q.kind.isWrite && mine q.node) &&
      !(e.2.sbuf.any fun b => mine (s.ctx b.cid).role.node))) &&
  !(r.segs.any fun g => g.phase == r.phase) &&
  !(r.conds.any fun e => match e.2.ent with | some f => f.phase == r.phase | none => false)

/-- The operators of the nodes given leave their contexts, which keep for them what they hold (R119). -/
def State.shelve (s : State) (rid : Nat) (ns : List Nat) : State :=
  ns.foldl (fun s n => match (s.run rid).bind fun r => r.placeOf n with
    | some (.ctx cid) =>
      if (s.ctx cid).role == Role.op rid n then
        (s.modRun rid fun r => { r with ctxStore := tput r.ctxStore n (s.ctx cid) }).setCtx cid Ctx.init
      else s
    | _ => s) s

/-- An operator's context as a launch leaves it (R119, R341). -/
def Run.startCtx (r : Run) (node : Nat) : Ctx :=
  { Ctx.init with role := .op r.id node, argbase := BitVec.ofNat 64 r.argbase, stepEn := r.debug }

/-- The operators of the nodes given stand in their contexts, with what was kept for them. -/
def State.unshelve (s : State) (rid : Nat) (ns : List Nat) : State :=
  ns.foldl (fun s n => match s.run rid with
    | none => s
    | some r => match r.node n, r.placeOf n with
      | some d, some (.ctx cid) =>
        if d.kind = 0 || d.kind = 5 then s.setCtx cid { tget (r.startCtx n) r.ctxStore n with line := none, fpaid := 0, fstood := s.now } else s
      | _, _ => s) s

/-- Every handoff of a run that is due passes its banks (R126). -/
def State.passDue (s : State) (rid : Nat) : State :=
  match s.run rid with
  | none => s
  | some r => r.graph.hands.zipIdx.foldl (fun s (h, i) =>
      match s.run rid with
      | some r => if s.handoffDue r h then s.passBanks r i h else s
      | none => s) s

/-- PHASE_DRAIN: run `unit`: the phase is drained and the next is taken, or the instance ends once every access of it, the handler's too, is done and
every directed token has left its send queue (R123-R125, R309, R393). A PAUSE that waits for the
cut of an instance that ends gets NOTFOUND (R172). -/
def execPhaseDrain (s : State) : Step :=
  .next (match s.run s.ev.unit with
    | none => s
    | some r =>
      let next := if r.phaseD.selected then r.heldSel else some r.phaseD.next
      match next with
      | none => s
      | some v =>
        if !r.isRunning || r.rolling || !(s.drained r) || !(s.occupied r) then s
        else if v = 0xFF then
          (if s.quiet r && !(s.cores.any fun e => e.2.copies.any fun c => c.run == r.id) then s.endRun r.id 0 0 3 else s)
        else
          let s := (s.passDue r.id).shelve r.id r.phaseNodes
          s.modRun r.id fun r => { r.alive with st := .config 64, phase := v, heldSel := none })

/-! ## Configuration (R125, R163) -/

/-- A stream begins its declared rounds again as its phase is configured (assumption 10). -/
def Run.rewind (r : Run) (n : Nat) : Run := r.setNodeS n { r.nodeS n with round := 0, done := false, run := false, n := 0, sent := false }

/-- Every L1 of a region drops its lines. -/
def State.flushRegion (s : State) (r : Run) : State := r.cores.foldl (fun s k => s.l1Flush k) s

/-- The configuration of the present phase of a run takes effect: its operators stand in their contexts and its streams latch. -/
def State.configure (s : State) (rid : Nat) : State :=
  match s.run rid with
  | none => s
  | some r =>
    let ns := r.phaseNodes
    let strs := ns.filter fun n => (r.node n).any fun d => d.kind == 2 || d.kind == 3
    let s := (s.unshelve rid ns).flushRegion r
    strs.foldl (fun s n => s.latchStream rid n) s

/-- The present phase's configuration is in effect in every cell. A cut in progress has its markers at the new sources, and stops the fires there
(R172, R174). -/
def State.finishConfig (s : State) (rid : Nat) : State :=
  let s := s.modRun rid fun r =>
    let strs := r.phaseNodes.filter fun n => (r.node n).any fun d => d.kind == 2 || d.kind == 3
    strs.foldl Run.rewind { r.alive with st := .running, confAt := s.cycleOf r }
  let s := s.configure rid
  match s.run rid with
  | some r => if r.cut.isSome then s.stopSources r else s
  | none => s

/-- PHASE_CONFIG: run `unit`: the configuration takes effect in every cell, in one of the 64 cycles that follow the drain (R125). A cut
in progress goes on at the sources of the new phase (R172). -/
def execPhaseConfig (s : State) : Step :=
  .next (match s.run s.ev.unit with
    | none => s
    | some r => match r.st with
      | .config left =>
        if left > 63 || r.rolling then s
        else s.finishConfig r.id
      | _ => s)

/-! ## The watchdog (R125, R128, R152, R200) -/

/-- A context of a run has waited at a stream barrier for 2^20 cycles of its die (R128). -/
def State.barredLong (s : State) (r : Run) : Bool :=
  s.ctxs.any fun e => e.2.role.run == some r.id && e.2.park.any fun p => p.kind == ParkKind.streamBar && decide (p.b + 2 ^ 20 ≤ s.cycle (coreOf e.1))

/-- DEADLOCK: for 2^20 cycles of its die run `unit` has had no firing, action or segment while some channel, ring or pool of it was full, a selection was
held, or a context waited at a stream barrier. Where no channel is full, the first one is a free value. -/
def execDeadlock (s : State) : Step :=
  .next (match s.run s.ev.unit with
    | none => s
    | some r =>
      let full := r.fullChans
      let count := full.length + r.fullStores
      let stuck := decide (2 ^ 20 ≤ r.fullFor) || decide (2 ^ 20 ≤ r.heldFor) || s.barredLong r
      if !r.isRunning || r.watchdog < 2 ^ 20 || !stuck || r.rolling then s
      else
        let first := match full with | i :: _ => i | [] => Config.freeNat (s.free + 1)
        let body := natLe 8 (count % 2 ^ 16) ++ natLe 4 first ++ natLe 4 0 ++ natLe 8 r.watchdog ++ natLe 8 0 ++ natLe 8 0 ++
          natLe 8 (s.cycle (coreId r.die r.col 0))
        let s := (s.modRun r.id fun r => { r with watchdog := 0 }).raiseRegion r 0x17 body
        { s with free := s.free + 1 })

end Sys2Proof.Machine
end

