-- ==== Sys2Proof/Machine/Cuts.lean ====
section
/-! DEFINITION. The cut: MARKER_INJECT, PERIODIC_CUT, MARKER_ARRIVAL and ELEMENT_SAVE, and what each element saves
(07 R165-R177, R182-R184). -/

namespace Sys2Proof.Machine

/-! ## What a context saves (R168-R170, R182) -/

/-- PARK of a saved context. A park that R182 has no number for is saved as the stall it is nearest to (assumption 23). -/
def ParkKind.code : ParkKind → Nat
  | .lds => 1
  | .bar => 2
  | .ringEmpty => 3
  | .ringFull => 4
  | .pool => 5
  | .cond => 5
  | .spec => 6
  | .lkrd => 6
  | .inj => 4
  | .chain => 7
  | .mread => 8
  | .mgroup => 9
  | .munbind => 10
  | .copyFull => 11
  | .mreadFull => 12
  | .streamBar => 13
  | .bank => 13
  | .barEarlier => 14
  | _ => 0

/-- The parks that must end before a context is saved (R170, R174). -/
def ParkKind.pends : ParkKind → Bool
  | .fence => true
  | .mseal => true
  | .mchk => true
  | .interlock => true
  | .launch => true
  | .ringRemote => true
  | .specFin => true
  | .fin => true
  | _ => false

/-- The parks whose word is done with what it waits for, so that the context is saved at the next one (R170, R174). -/
def ParkKind.passed (k : ParkKind) : Bool := k == .mreduce || k == .drain

/-- A LDS of a context that waits at its home slice and has not taken its word. -/
def State.ldsReq (s : State) (cid : Nat) : Option Req :=
  (s.core (coreOf cid)).wq.find? fun q => q.cid == cid && (match q.kind with | .lds _ => true | _ => false)

/-- A context stands at an XSEND that waits for room in the send queue, and has not issued (R170). -/
def State.sendWaits (s : State) (cid : Nat) : Bool :=
  (s.ctx cid).running && decide (16 ≤ (s.core (coreOf cid)).sendq.length) &&
    (match (s.fetch cid).map decodeWord with | some (.ok (.xsend ..)) => true | _ => false)

/-- A directed token can be delivered: it has passed what stands on its way, and its port has a free slot and lets it in, or it is dropped (R393, R395). -/
def State.lands (s : State) (t : Directed) : Bool :=
  (s.guarded t).isSome || t.toll.isSome || (match s.directedPort t with
    | none => true
    | some (r, node, i) => r.freeSlots i != 0 && r.admits node)

/-- The directed tokens of a context that wait for a slot, or for a destination that has been saved (R393, R395). -/
def State.sentBy (s : State) (rid : Nat) (cid : Option Nat) : List Directed :=
  (s.directed.filter fun t => t.srcRun == some rid && cid.all fun c => t.srcCid == c).map fun t =>
    match s.directedPort t with
    | some (r, node, _) => if r.id = rid then { t with held := some (rid, node) } else t
    | none => t

/-- Every directed token for a node of the instance that its port can take has been delivered (R395). -/
def State.received (s : State) (rid node : Nat) : Bool :=
  s.directed.all fun t => match s.directedPort t with
    | some (r, n, i) => !(r.id == rid && n == node && r.freeSlots i != 0 && (s.guarded t).isNone)
    | none => true

/-- The directed tokens for the contexts of an instance that leaves its cells, or moves within them, are held for their nodes (R395). -/
def State.holdTokens (s : State) (r : Run) : State :=
  { s with directed := s.directed.map fun (t : Directed) =>
    match s.directedPort t with
    | some (x, node, _) => if x.id = r.id && (s.guarded t).isNone then { t with held := some (x.id, node) } else t
    | none => t }

/-- A context may be saved: at a stop point, with what R170 and R174 settle settled, and nothing of it under way outside (R167-R170, R174,
R395, R213). -/
def State.settled (s : State) (cid : Nat) : Bool :=
  let c := s.ctx cid
  let k := s.core (coreOf cid)
  let park := match c.park with
    | none => true
    | some p => if p.kind == ParkKind.landing then c.land.isSome || (s.ldsReq cid).isSome
      else if p.kind == ParkKind.drain then !(k.copies.any fun x => p.l.contains x.tag)
      else !p.kind.pends
  (c.atStop || s.sendWaits cid) && park && !(k.copies.any fun x => x.cid == cid) && !(k.sendq.any fun t => t.srcCid == cid) &&
    !(s.directed.any fun t => t.srcCid == cid && s.lands t) && !(s.xchunks.any fun x => x.srcCid == cid) &&
    !(k.wq.any fun q => q.cid == cid && (match q.kind with | .lds _ => false | _ => true)) &&
    (c.uncertain || !(k.sbuf.any fun e => e.cid == cid)) && k.firing.isNone

/-- The record of a context: its state as R182 names it and what stands in its registers and results in flight. What is left of its GAP begins in the
cycle after the save, and its results count from the first cycle in which it could issue without the cut. -/
def State.saveCtx (s : State) (cid : Nat) : SavedCtx :=
  let c := s.ctx cid
  let begun := c.running && !c.fresh
  let staged := match c.land with
    | some l => l.writes.map fun w => { file := w.file, reg := w.reg, left := 0, val := w.val : Pend }
    | none => []
  let lds := (match c.park with | some p => p.kind == ParkKind.landing && c.land.isNone | none => false) && (s.ldsReq cid).isSome
  let pc := if lds then ((s.ldsReq cid).map (·.pc)).getD c.pc else c.pc
  let park := if lds then some (Park.of .lds) else match c.park with
    | some p => if p.kind == ParkKind.landing || p.kind.passed then none else some p
    | none => none
  let st := if !begun then 0 else if c.park.any fun p => !p.kind.passed then 2 else 1
  let c' : Ctx :=
    { c with pc := if begun then pc else 0, pend := (c.pend.map fun (p : Pend) => { p with left := p.left - c.gap }) ++ staged, gap := c.gap - 1, land := none, park := park, wait := none, idle := none
             running := begun, fresh := false, mon := Monitor.init, held := none
             moved := if begun then c.moved else [] }
  { node := c.role.node, core := coreOf cid, cid := cid, state := st, park := if st = 2 then ((park.map (·.kind.code)).getD 0) else 0, ctx := c' }

/-! ## What a core saves (R173-R175) -/

/-- The node that owns a bank at a cut: the consumer of the handoff whose token has passed last, else the first to have accessed it. -/
def Run.bankOwner (r : Run) (bank : Nat) (sharers : List Nat) : Nat :=
  match ((r.bankTok.filter fun t => t.2 == bank).getLast?).bind fun t => r.graph.hands[t.1]? with
  | some h => h.cons
  | none => sharers.headD 0xFFFF

/-- The objects of a core that the instance has touched. -/
def State.coreObjs (s : State) (r : Run) (core : Nat) : List SavedObj :=
  let k := s.core core
  (k.tiles.map fun e => SavedObj.tile core e.1 e.2) ++ (k.accs.map fun e => SavedObj.acc core e.1 e.2) ++
  (k.mantel.map fun e => SavedObj.mantel core e.1 e.2) ++
  (k.bankSharers.map fun e =>
    let lo := e.1 * 0x8000
    let own := r.bankOwner e.1 e.2
    SavedObj.bank core e.1 (k.mem.filter fun b => lo ≤ b.1 && b.1 < lo + 0x8000)
      (k.fe.filter fun b => lo ≤ 4 * b.1 && 4 * b.1 < lo + 0x8000) own (if e.2.contains own then own :: e.2.filter fun n => n != own else e.2))

/-- A core object is put back in a core. -/
def State.putObj (s : State) (core : Nat) (o : SavedObj) : State :=
  match o with
  | .tile _ n x => s.modCore core fun k => { k with tiles := tset Slot.init k.tiles n x }
  | .mantel _ n x => s.modCore core fun k => { k with mantel := tset Slot.init k.mantel n x }
  | .acc _ n x => s.modCore core fun k => { k with accs := tset Acc.init k.accs n x }
  | .bank _ n d fe _ sh => s.modCore core fun k =>
    { k with mem := d.foldl (fun m e => mset m e.1 e.2) k.mem
             fe := fe.foldl (fun m e => tset false m e.1 e.2) k.fe
             bankSharers := tset [] k.bankSharers n sh }

def SavedObj.core : SavedObj → Nat
  | .tile k _ _ => k
  | .mantel k _ _ => k
  | .acc k _ _ => k
  | .bank k _ _ _ _ _ => k

/-! ## The cut -/

/-- The records of a cut that has just begun: the barrier episodes as they stand, and the restored segments that wait for a context. -/
def Run.newCut (r : Run) (no : Nat) (kind : CutKind) : Cut :=
  { no := no, kind := kind, phase := r.phase, held := r.heldSel, time := 0, sgen := r.sgen, die := r.die, col := r.col, width := r.width
    chans := [], nodes := [], ctxs := r.waitSegs, objs := [], conds := [], segs := [], est := [], rings := [], bars := r.bars
    nextSeg := r.nextSeg, bankTok := [], store := [], groups := [], place := r.place, sent := [] }

/-- The running segment contexts of a run. -/
def State.segCtxs (s : State) (r : Run) : List Nat :=
  s.ctxs.filterMap fun e => if e.2.role.run == some r.id && e.2.role.isSeg then some e.1 else none

/-- The tokens of a channel that belong to a cut: those in its buffer, and, where no marker of the cut has come, those on their way ahead of it. -/
def Chan.cutPart (c : Chan) : List Token :=
  if c.marked then c.buf else c.buf ++ (c.fly.takeWhile fun f => f.tok.isSome).filterMap (·.tok)

/-- The channels' saved part that a node gives: the tokens of its input buffers, those on their way on a channel from itself, the reservations and the
sequence numbers of its outputs. A firing that has not started holds no reservation. -/
def Run.saveChans (r : Run) (node : Nat) (begun : Bool) (t : Table Chan) : Table Chan :=
  let own (i : Nat) : Bool := (r.graph.chans[i]?).any fun d => d.pnode == node
  let t := (r.inChans node).foldl (fun t i =>
    tput t i { tget Chan.init t i with buf := if own i then (r.chan i).cutPart else (r.chan i).buf }) t
  (r.outputs node).foldl (fun t i =>
    tput t i { tget Chan.init t i with res := if begun then (r.chan i).res else 0, seq := (r.chan i).seq }) t

/-- A handoff of a producer that is due is completed before the producer is saved (R175). -/
def Run.isBegun (r : Run) (s : State) (node : Nat) : Bool :=
  match r.placeOf node with
  | some (.ctx cid) => (s.saveCtx cid).state != 0
  | _ => (r.nodeS node).run

/-- The markers of a saved element, on every connected output channel behind what it sent (R166, R167). -/
def Run.sendMarks (r : Run) (node now : Nat) : Run :=
  (r.outputs node).foldl (fun r i =>
    let c := r.chan i
    let goes := match r.graph.chans[i]? with | some d => d.selector || r.active d.cnode | none => false
    if goes then r.setChan i { c with fly := c.fly ++ [{ tok := none, due := now + 1 }] } else r) r

/-- A node's channels after its save: what stands behind the marker joins the buffer where the element goes on (R167). -/
def Run.afterSave (r : Run) (node : Nat) (periodic : Bool) : Run :=
  if !periodic then r
  else (r.inChans node).foldl (fun r i => r.setChan i { r.chan i with buf := (r.chan i).buf ++ (r.chan i).late, late := [] }) r

/-- Every element of the instance has saved, and no fire is in progress on a core that holds none (R174). -/
def State.allSaved (s : State) (r : Run) : Bool :=
  (r.activeNodes.all fun n => r.savedElems.contains n) && ((s.segCtxs r).all fun c => r.savedElems.contains (segKey c)) &&
  s.cores.all fun e => !(r.covers e.1) || e.2.firing.isNone || !(s.elemsOn r e.1).isEmpty

/-- A channel whose consumer does not save it, as the cut holds it. -/
def Chan.rest (c : Chan) : Chan := { c with buf := c.cutPart, fly := [], marked := false, late := [] }

/-- The key by which a core is named among what has saved. -/
def coreKey (core : Nat) : Nat := 0x200000 + core

/-- The physical ranges that a run may write. -/
def State.writeSpans (s : State) (r : Run) : List (Nat × Nat) :=
  (r.graph.ranges.filter fun g => g.kind ≠ 0).flatMap fun g =>
    ((s.pagesOf r.vd).filter fun p => p.va < g.base + g.size && g.base < p.va + p.size).map fun p =>
      let lo := Nat.max p.va g.base
      let hi := Nat.min (p.va + p.size) (g.base + g.size)
      (p.pa + (lo - p.va), p.pa + (hi - p.va))

/-- Every dirty byte of the L2 in the given physical ranges, and every full-empty bit there, is written back (R113, R292). -/
def State.cleanSpans (s : State) (spans : List (Nat × Nat)) : State :=
  let inSpan (a : Nat) : Bool := spans.any fun x => x.1 ≤ a / 128 * 128 + 127 && a / 128 * 128 < x.2
  (List.range 4).foldl (fun s d =>
    let x := s.die d
    let dirty : List (Nat × Byte) := x.l2.flatMap fun e => e.2.flatMap fun (l : L2Line) => l.dirty.filter fun (b : Nat × Byte) => inSpan b.1
    let bits' : Table Bool := x.l2.flatMap fun e => e.2.flatMap fun (l : L2Line) => l.fe.filter fun (b : Nat × Bool) => inSpan (8 * b.1)
    let s : State := { s with dram := dirty.foldl (fun m b => mset m b.1 b.2) s.dram, sync := bits'.foldl (fun t b => tset false t b.1 b.2) s.sync }
    let clean (l : L2Line) : L2Line :=
      { l with dirty := l.dirty.filter (fun (b : Nat × Byte) => !inSpan b.1), fe := l.fe.filter fun (b : Nat × Bool) => !inSpan (8 * b.1) }
    s.setDie d { x with l2 := x.l2.map fun (e : Nat × List L2Line) => (e.1, e.2.map clean) }) s

/-- The region's part of a cut, and the records of everything that no element has saved: what stands in no cell now (R173, R181). -/
def State.fillCut (s : State) (r : Run) (c : Cut) : Cut :=
  let chans := (List.range r.graph.chans.length).foldl (fun t i =>
    match r.graph.chans[i]? with
    | none => t
    | some d =>
      if d.barrier then t
      else if !d.selector && r.active d.cnode then t
      else tput t i { (r.chan i).rest with res := (tget (r.chan i) t i).res, seq := (tget (r.chan i) t i).seq }) c.chans
  let nodes := (List.range r.graph.nodes.length).foldl (fun t n =>
    if r.active n then t else tput t n { r.nodeS n with latches := [], latched := false }) c.nodes
  let done (k : Nat) : Bool := c.kind == CutKind.periodic && r.savedElems.contains (coreKey k)
  let objs := (c.objs.filter fun o => done o.core) ++ (r.cores.filter fun k => !done k).flatMap fun k => s.coreObjs r k
  { c with chans := chans, nodes := nodes, objs := objs, phase := r.phase, held := r.heldSel, time := s.time, conds := r.conds
           segs := r.segs, est := r.est, rings := r.rings, nextSeg := r.nextSeg, bankTok := r.bankTok, store := r.ctxStore
           groups := r.cores.filterMap fun k => if (s.core k).groups.isEmpty then none else some (k, (s.core k).groups) }

/-- A run's state taken whole: what cut 0 holds at launch (R165, R186). -/
def State.wholeCut (s : State) (r : Run) (no : Nat) (kind : CutKind) : Cut :=
  let c := r.newCut no kind
  let ops := r.activeNodes.filterMap fun n => match r.placeOf n with
    | some (.ctx cid) => some cid
    | _ => none
  let chans := r.activeNodes.foldl (fun t n => r.saveChans n (r.isBegun s n) t) c.chans
  let nodes := r.activeNodes.foldl (fun t n => tput t n { r.nodeS n with latches := [], latched := false }) c.nodes
  s.fillCut r { c with chans := chans, nodes := nodes, ctxs := c.ctxs ++ (ops ++ s.segCtxs r).map s.saveCtx, sent := s.sentBy r.id none }

/-- The fires of a region start again (R174). -/
def State.freeFires (s : State) (r : Run) : State := s.cores.foldl (fun s e =>
  if r.covers e.1 && e.2.stopFires then s.modCore e.1 fun k => { k with stopFires := false } else s) s

/-- How an episode outside an instance names a context of an instance that has left its cells or stands paused (R177). -/
def awayCid (rid cid : Nat) : Nat := 2 ^ 24 * (rid + 1) + cid

/-- The arrivals of an instance at barriers of its virtual device are kept while it is away (R177). -/
def State.stashBars (s : State) (r : Run) : State :=
  let name (cid : Nat) : Nat := if (s.ctx cid).role.run = some r.id then awayCid r.id cid else cid
  s.modVd r.vd fun v => { v with bars := v.bars.map fun (e : Episode) => { e with who := e.who.map name } }

/-- A cut is complete: its records are in the save area that did not hold the newest; a PAUSE completes, a yielded region leaves its cells,
a periodic cut lets the region go on (R109, R113, R171, R184). -/
def State.completeCut (s : State) (rid : Nat) : State :=
  match s.run rid with
  | none => s
  | some r => match r.cut with
    | none => s
    | some c =>
      let c := s.fillCut r c
      let s := if r.eligible then s.cleanSpans (s.writeSpans r) else s
      let chans := r.chans.map fun e => (e.1, { e.2 with buf := e.2.buf ++ e.2.late, late := [], fly := e.2.fly.filter fun f => f.tok.isSome, marked := false : Chan })
      let r' : Run := { r with
        cut := none, savedElems := [], saved := [c], chans := chans
        cutDue := s.now + r.graph.marker * 1800
        st := match c.kind with | .pause => .paused | .yield => .yielded | .periodic => r.st }
      let s := (s.endPauses (if c.kind == CutKind.pause then r else { r with pauseCmds := [] }) 0).modRun rid fun _ =>
        { r' with pauseCmds := if c.kind == CutKind.pause then [] else r.pauseCmds }
      let s := if c.kind == CutKind.periodic then s else (s.stashBars r).holdTokens r
      match c.kind with
      | .periodic => s.freeFires r
      | .pause => s.modRun rid fun r => { r with nodes := r.nodes.map fun e => (e.1, { e.2 with latches := [], latched := false : NodeS }) }
      | .yield => s.clearRegion r

/-- An element's record joins the cut in progress. -/
def State.putSave (s : State) (rid key : Nat) (f : Run → Cut → Cut) : State :=
  s.modRun rid fun r => match r.cut with
    | none => r
    | some c => { r with cut := some (f r c), savedElems := r.savedElems ++ [key] }

/-- A core whose elements have all saved gives its objects to the cut, and under a periodic cut its fires go on (R174). -/
def State.saveCore (s : State) (rid core : Nat) : State :=
  match s.run rid with
  | none => s
  | some r =>
    let all := (s.elemsOn r core).all fun c => r.savedElems.contains ((s.ctx c).elemKey c)
    if !all then s
    else
      let objs := s.coreObjs r core
      let s := s.putSave rid (coreKey core) fun _ c => { c with objs := (c.objs.filter fun o => o.core != core) ++ objs }
      if (r.cut.any fun c => c.kind == CutKind.periodic) then s.modCore core fun k => { k with stopFires := false } else s

/-- A node may save (R167, R174, R176). -/
def State.maySave (s : State) (r : Run) (node : Nat) : Bool :=
  r.active node && !r.savedElems.contains node && !r.rolling && r.cut.isSome && r.isRunning &&
  (r.isSource node || (r.inputs node).all fun i => (r.chan i).marked) &&
  ((s.segCtxs r).all fun c => r.savedElems.contains (segKey c)) &&
  (match r.placeOf node with
   | some (.ctx cid) => s.settled cid && s.received r.id node
   | _ => !(r.nodeS node).midTok)

/-- A device LDS that a context is saved at is withdrawn where the context stays stopped: it issues afresh at resume (R169). -/
def State.dropLds (s : State) (rid cid : Nat) : State :=
  let stays := (s.run rid).any fun r => r.cut.any fun c => c.kind != CutKind.periodic
  match s.ldsReq cid with
  | some q => if stays then s.modCore (coreOf cid) fun k => { k with wq := k.wq.filter fun x => x.id != q.id } else s
  | none => s

/-- A node saves and sends its markers. -/
def State.saveNode (s : State) (r : Run) (node : Nat) : State :=
  let s := s.passDue r.id
  let periodic := r.cut.any fun c => c.kind == CutKind.periodic
  let begun := r.isBegun s node
  let (recs, sent) := match r.placeOf node with
    | some (.ctx cid) => ([s.saveCtx cid], s.sentBy r.id (some cid))
    | _ => ([], [])
  let s := s.putSave r.id node fun r c =>
    { c with chans := r.saveChans node begun c.chans, nodes := tput c.nodes node { r.nodeS node with latches := [], latched := false }
             ctxs := c.ctxs ++ recs, sent := c.sent ++ sent }
  let s := s.modRun r.id fun r => (r.afterSave node periodic).sendMarks node (s.cycleOf r)
  match r.placeOf node with
  | some (.ctx cid) => (s.dropLds r.id cid).saveCore r.id (coreOf cid)
  | _ => s

/-- ELEMENT_SAVE: run `unit`; for `sub` = 0 the node `idx`, for 1 the segment in context `idx`. The last completes the cut (R167, R171). -/
def execElementSave (s : State) : Step :=
  let e := s.ev
  .next (match s.run e.unit with
    | none => s
    | some r =>
      let s' := if e.sub = 0 then (if s.maySave r e.idx then s.saveNode r e.idx else s)
        else if r.cut.isSome && !r.rolling && (s.segCtxs r).contains e.idx && !r.savedElems.contains (segKey e.idx) &&
            (s.segCtxs r).all (fun c => r.savedElems.contains (segKey c) || s.settled c) then
          ((s.putSave r.id (segKey e.idx) fun _ c => { c with ctxs := c.ctxs ++ [s.saveCtx e.idx], sent := c.sent ++ s.sentBy r.id (some e.idx) }).dropLds r.id e.idx).saveCore r.id (coreOf e.idx)
        else s
      match s'.run e.unit with
      | none => s'
      | some r => if r.cut.isSome && s'.allSaved r && r.isRunning && !r.rolling && !(s'.xchunks.any fun x => x.run == r.id) then s'.completeCut r.id else s')

/-! ## Markers (R165, R166, R176) -/

/-- An uncertain segment goes back to the pending set, its buffered effects discarded (R176). -/
def State.abortSeg (s : State) (rid cid : Nat) : State :=
  let id := (s.ctx cid).segid
  let s := s.modCore (coreOf cid) fun k =>
    { k with sbuf := k.sbuf.filter fun e => e.cid != cid, wq := k.wq.filter fun q => q.cid != cid || q.kind.isWrite }
  (s.modRun rid fun r =>
    { r with segs := r.segs.map fun (g : Seg) => if g.id = id then { g with cid := none } else g
             poolParked := r.poolParked.filter fun c => c != cid
             rings := r.rings.map fun (g : Ring) => { g with parked := g.parked.filter fun c => c != cid } }).setCtx cid { Ctx.init with gap := 1 }

/-- Markers are injected at every source: a cut begins (R165, R174, R176). -/
def State.injectMarks (s : State) (rid : Nat) (kind : CutKind) : State :=
  match s.run rid with
  | none => s
  | some r =>
    let s := ((s.segCtxs r).filter fun c => (s.ctx c).uncertain).foldl (fun s c => s.abortSeg rid c) s
    (s.modRun rid fun r =>
      { r with cut := some (r.newCut (r.cutNo + 1) kind), cutNo := r.cutNo + 1, cutReq := none, savedElems := []
               chans := r.chans.map fun e => (e.1, { e.2 with marked := false : Chan }) }).stopSources r

/-- MARKER_INJECT: the cut that run `unit` waits for begins (R165). -/
def execMarkerInject (s : State) : Step :=
  .next (match s.run s.ev.unit with
    | none => s
    | some r => match r.cutReq with
      | none => s
      | some k => if r.cut.isSome || r.rolling || !r.isRunning then s else s.injectMarks r.id k)

/-- PERIODIC_CUT: under `.marker n` a periodic cut of run `unit` is due; one that falls due during a cut is skipped (R165, R184). -/
def execPeriodicCut (s : State) : Step :=
  .next (match s.run s.ev.unit with
    | none => s
    | some r =>
      if r.graph.marker = 0 || s.now < r.cutDue || !r.isRunning || r.rolling then s
      else if r.cut.isSome || r.cutReq.isSome then s.modRun r.id fun r => { r with cutDue := s.now + r.graph.marker * 1800 }
      else s.injectMarks r.id .periodic)

/-- MARKER_ARRIVAL: run `unit`, channel `idx`: the marker at the head of its route reaches the consumer (R166, R167, R174). -/
def execMarkerArrival (s : State) : Step :=
  let e := s.ev
  .next (match s.run e.unit with
    | none => s
    | some r => match (r.chan e.idx).fly with
      | { tok := none, due := due } :: rest =>
        if due > s.cycleOf r || r.cut.isNone || r.rolling then s
        else
          let s := s.modRun r.id fun r => r.setChan e.idx { r.chan e.idx with fly := rest, marked := true }
          (match (r.graph.chans[e.idx]?).bind fun d => r.placeOf d.cnode with
           | some (.ctx cid) => s.modCore (coreOf cid) fun k => { k with stopFires := true }
           | _ => s)
      | _ => s)

end Sys2Proof.Machine
end

