-- ==== Sys2Proof/Machine/Image.lean ====
section
/-! DEFINITION. The snapshot image of a cut, byte by byte (07 R180-R183, 08 R220-R222). -/

namespace Sys2Proof.Machine

/-- Bytes padded with zeros to a length. -/
def padTo (n : Nat) (bs : List Byte) : List Byte := bs ++ List.replicate (n - bs.length) 0

/-- The number of a signed or unsigned field of `n` bytes for each key of a list. -/
def listLe (n : Nat) (l : List Nat) : List Byte := l.flatMap fun x => natLe n x

/-- A record's header and its body (R181). -/
def record (type index : Nat) (body : List Byte) : List Byte :=
  natLe 2 type ++ natLe 2 0 ++ natLe 4 index ++ natLe 8 body.length ++ body

/-- A channel record (R183). -/
def chanBody (kind : Nat) (c : Chan) : List Byte :=
  natLe 2 c.buf.length ++ natLe 1 kind ++ natLe 1 0 ++ natLe 2 c.res ++ natLe 2 0 ++ c.buf.flatMap Token.bytes

def File.num : File → Nat
  | .x => 0
  | .v => 1
  | .p => 2
  | .m => 3
  | .s => 4

/-- A pending result (R182). -/
def Pend.bytes (p : Pend) : List Byte :=
  natLe 1 p.file.num ++ natLe 1 p.reg ++ natLe 1 p.left ++ natLe 13 0 ++ natLe 256 p.val.toNat

/-- BAROUT or BARDONE: a bit for each outstanding arrival of the scopes within a die (R182). -/
def Ctx.barBits (c : Ctx) (done : Bool) : Nat :=
  let parked := match c.park with
    | some p => if p.kind == ParkKind.bar then [{ key := { scope := p.a, id := p.b, domain := p.l.headD 0 }, done := false : Arrival }] else []
    | none => []
  (parked ++ c.bars).foldl (fun m a => if 1 ≤ a.key.scope && a.key.scope ≤ 3 && (!done || a.done) then m ||| 2 ^ (16 * (a.key.scope - 1) + a.key.id) else m) 0

/-- A context record (R182). -/
def SavedCtx.bytes (s : SavedCtx) : List Byte :=
  let c := s.ctx
  natLe 1 s.state ++ natLe 1 c.p.toNat ++ natLe 1 c.pend.length ++ natLe 1 s.park ++ natLe 4 c.pc ++ natLe 8 c.fireno.toNat ++
    natLe 2 c.fflags.toNat ++ natLe 1 c.frm.toNat ++ natLe 1 (Nat.min c.gap 7) ++ natLe 4 c.ccond.toNat ++ natLe 8 c.segid ++
    natLe 6 (c.barBits false) ++ natLe 6 (c.barBits true) ++ natLe 20 0 ++
    (List.range 32).flatMap (fun p => natLe 2 (tget 0 c.moved p)) ++
    (List.range 31).flatMap (fun i => natLe 8 (tget 0 c.x (i + 1)).toNat) ++ natLe 8 0 ++
    (List.range 32).flatMap (fun i => natLe 256 (tget 0 c.v i).toNat) ++
    (List.range 7).flatMap (fun i => natLe 32 (tget 0 c.m (i + 1)).toNat) ++
    (List.range 16).flatMap (fun i => natLe 64 (tget 0 c.sh i).toNat) ++ c.pend.flatMap Pend.bytes

/-- An edge stream's record: its position within the round as i1, i2, i3 or as the indirect steps taken (R183). -/
def edgeBody (r : Run) (node : Nat) (st : NodeS) (seqs : Nat → Nat) : List Byte :=
  let r := r.setNodeS node st
  let (i1, i2, i3) := if (r.strIndex node).isSome then (0, 0, 0) else r.strPos node st.n
  natLe 4 st.round ++ natLe 1 (if st.done then 2 else if st.run then 1 else 0) ++ natLe 3 0 ++ natLe 4 i1 ++ natLe 4 i2 ++ natLe 4 i3 ++
    natLe 4 (if (r.strIndex node).isSome then st.n else 0) ++ natLe 1 st.ovMask ++ natLe 7 0 ++ natLe 8 st.ovBase ++
    (List.range 4).flatMap (fun k => natLe 4 (tget 0 st.ovExt k)) ++ natLe 8 0 ++ (List.range 16).flatMap fun p => natLe 4 (seqs p)

/-- A router operator's record (R183). -/
def routerBody (st : NodeS) : List Byte :=
  natLe 1 st.run.toNat ++ natLe 3 0 ++ natLe 4 st.total ++ natLe 4 st.n ++ natLe 4 0 ++
    (match st.held with | some t => if st.run then t.bytes else [] | none => [])

/-- SHARERS: eight node indices, 0xFFFF where unused. -/
def sharersLe (l : List Nat) : List Byte := (List.range 8).flatMap fun i => natLe 2 (l.getD i 0xFFFF)

/-- The binding of an accumulator record (R183). -/
def Acc.bindBytes (a : Acc) : List Byte :=
  match a.bind with
  | none => natLe 9 0 ++ natLe 1 a.parts ++ natLe 2 a.pchunks ++ natLe 4 0
  | some b =>
    let p := ((List.range 8).filter fun i => bitAt b.amask i).length
    natLe 2 b.k ++ natLe 1 b.stride ++ natLe 1 b.base ++ natLe 1 b.amask ++
      natLe 1 (b.ty + (if b.ca then 16 else 0) + (if b.cb then 32 else 0) + 64) ++ natLe 2 a.fires ++ natLe 1 (a.fires % Nat.max p 1) ++
      natLe 1 a.parts ++ natLe 2 a.pchunks ++ natLe 4 0

/-- A queued MREAD token (R183). -/
def MToken.bytes (t : MToken) : List Byte :=
  natLe 2 t.f ++ natLe 1 t.row ++ natLe 1 (t.ty + t.rm * 16) ++ natLe 1 (ctxOf t.cid) ++ natLe 1 t.d ++ natLe 2 t.node

/-- The first 48 bytes of a core object's body. -/
def objHead (kind num tag flags anchor own : Nat) (sharers : List Nat) (bind : List Byte) (nread : Nat) : List Byte :=
  natLe 1 kind ++ natLe 1 num ++ natLe 1 tag ++ natLe 1 flags ++ natLe 2 anchor ++ natLe 2 own ++ sharersLe sharers ++ bind ++
    natLe 2 nread ++ natLe 6 0

def AccState.num : AccState → Nat
  | .empty => 0
  | .accum => 1
  | .sealed => 2

/-- A core object's record (R183). -/
def SavedObj.bytes : SavedObj → List Byte
  | .tile _ n t => objHead 0 n t.full.toNat 0 0 (t.sharers.headD 0xFFFF) t.sharers (natLe 16 0) 0 ++ mbytes t.data 0 4096
  | .acc _ n a =>
    objHead 1 n a.st.num (3 * a.xw.toNat) a.anchor.toNat (a.sharers.headD 0xFFFF) a.sharers a.bindBytes a.queue.length ++
      (List.range 4096).flatMap (fun i => natLe 16 (tget 0 a.val i).toNat) ++ (List.range 64).flatMap (fun i => natLe 8 (tget 0 a.rho i)) ++
      a.queue.flatMap MToken.bytes
  | .mantel _ n t =>
    objHead 2 n t.full.toNat 0 0 (t.sharers.headD 0xFFFF) t.sharers (natLe 16 0) 0 ++ mbytes t.data 0 2048 ++ (List.range 32).flatMap fun i => natLe 8 (tget 0 t.beta i)
  | .bank _ n d fe own sh =>
    let all := decide (sh.length > 8)
    objHead 3 n 0 (if all then 4 else 0) 0 own sh (natLe 16 0) 0 ++ mbytes d (n * 0x8000) 0x8000 ++
      (List.range 1024).flatMap fun i =>
        natLe 1 ((List.range 8).foldl (fun m b => if tget false fe (n * 0x2000 + 8 * i + b) then m + 2 ^ b else m) 0)

/-- The owner node of a core object, which its record names (R181, R183). -/
def SavedObj.owner : SavedObj → Nat
  | .tile _ _ t => t.sharers.headD 0xFFFF
  | .acc _ _ a => a.sharers.headD 0xFFFF
  | .mantel _ _ t => t.sharers.headD 0xFFFF
  | .bank _ _ _ _ own _ => own

/-- An open condition of the region record (R220). -/
def condBytes (slot : Nat) (c : CondSlot) (e : CondE) : List Byte :=
  let p := e.parent.toNat
  natLe 1 slot ++ natLe 1 c.gen ++ natLe 1 e.site ++ natLe 1 e.depth ++ natLe 2 (p % 2 ^ 16) ++
    natLe 1 (p / 2 ^ 16 % 2 + 2 * (p / 2 ^ 17 % 2)) ++ natLe 1 e.phase ++ natLe 2 (e.ft % 2 ^ 16) ++ natLe 2 (e.fn % 2 ^ 16) ++ natLe 4 0

/-- A pool entry (R222). -/
def Seg.bytes (args : Nat) (g : Seg) : List Byte :=
  natLe 8 g.id ++ natLe 2 g.kind ++ natLe 4 g.ccond.toNat ++ natLe 1 args ++ natLe 1 g.phase ++ padTo 64 g.args

/-- A ring image (R220). -/
def Ring.image (g : Ring) : List Byte :=
  natLe 1 g.id ++ natLe 1 g.vec.toNat ++ natLe 1 g.logn ++ natLe 1 g.ncons ++ natLe 2 g.lwm ++ natLe 2 g.node ++ natLe 4 g.pushed.toNat ++
    natLe 4 g.base ++ (List.range 8).flatMap fun c => natLe 4 (tget 0 g.cur c).toNat

/-- A barrier episode (R183). -/
def Episode.bytes (e : Episode) : List Byte :=
  natLe 1 e.key.scope ++ natLe 1 e.key.id ++ natLe 2 e.count ++ natLe 2 e.arrived ++ natLe 2 e.key.domain

/-- The estimate of a site at a cut (R210, R220). -/
def siteBytes (c : Cut) (d : SiteD) : List Byte := natLe 1 d.id ++ natLe 1 d.shift ++ natLe 2 (tget d.p c.est d.id)

/-- The region record's body (R183, R220). Pending segments are those that stand in no context. -/
def Cut.regionBody (c : Cut) (g : Graph) : List Byte :=
  let conds := c.conds.filterMap fun e => e.2.ent.map fun x => condBytes e.1 e.2 x
  let pend := c.segs.filter fun s => s.cid.isNone
  let args (k : Nat) : Nat := ((g.nodes[k]?).map (·.args)).getD 0
  let bars := c.bars.filter fun b => b.key.scope ≤ 3
  natLe 2 conds.length ++ natLe 2 pend.length ++ natLe 1 g.sites.length ++ natLe 1 c.rings.length ++ natLe 1 bars.length ++
    natLe 1 (if c.conds.isEmpty then 0 else 1) ++ natLe 8 c.nextSeg ++ natLe 48 0 ++ conds.flatMap id ++
    pend.flatMap (fun s => s.bytes (args s.kind)) ++ g.sites.flatMap (siteBytes c) ++ c.rings.flatMap Ring.image ++ bars.flatMap Episode.bytes ++
    (if c.conds.isEmpty then [] else (List.range 256).flatMap fun n =>
      let x := tget CondSlot.init c.conds n
      natLe 1 x.gen ++ natLe 1 (x.pruned.toNat + 2 * x.ent.isSome.toNat))

/-- The records of a cut, in order (R181). -/
def Cut.records (c : Cut) (r : Run) : List (List Byte) :=
  let g := r.graph
  let kindOf (d : ChanD) : Nat := ((g.nodes[d.pnode]?).bind fun n => n.portAt d.pport).elim 0 (·.kind)
  let chans := g.chans.zipIdx.filterMap fun (d, i) => if d.barrier then none else some (record 1 i (chanBody (kindOf d) (tget Chan.init c.chans i)))
  let seqs (n p : Nat) : Nat := ((g.chanOfOut n (16 + p)).map fun i => (tget Chan.init c.chans i).seq).getD 0
  let nodes := g.nodes.zipIdx.flatMap fun (d, n) => match d.kind with
    | 1 => [record 4 n (routerBody (tget NodeS.init c.nodes n))]
    | 2 => [record 3 n (edgeBody r n (tget NodeS.init c.nodes n) (seqs n))]
    | 3 => [record 3 n (edgeBody r n (tget NodeS.init c.nodes n) (seqs n))]
    | _ =>
      let own := c.ctxs.filter fun x => x.node == n
      if d.kind = 4 || !own.isEmpty then own.map fun x => record 2 n x.bytes
      else [record 2 n
        ({ node := n, core := 0, cid := 0, state := 0, park := 0, ctx := tget (r.startCtx n) c.store n } : SavedCtx).bytes]
  chans ++ nodes ++ (c.objs.map fun o => record 5 o.owner o.bytes) ++ [record 6 0 (c.regionBody g)]

/-- The image of a cut (R180). -/
def Cut.image (c : Cut) (r : Run) : List Byte :=
  let rs := c.records r
  let len := 64 + (rs.map List.length).sum
  natLe 4 0x00504E53 ++ natLe 2 1 ++ natLe 1 (match c.kind with | .pause => 0 | .periodic => 1 | .yield => 2) ++ natLe 1 c.phase ++
    natLe 4 r.handle ++ natLe 4 r.id ++ natLe 8 c.no ++ natLe 8 c.time ++ natLe 8 c.sgen ++ natLe 1 c.die ++ natLe 1 c.col ++
    natLe 1 c.width ++ natLe 1 (c.held.getD 0xFE) ++ natLe 4 rs.length ++ natLe 8 len ++
    natLe 8 (r.eligible.toNat + 2 * r.checked.toNat) ++ rs.flatMap id

end Sys2Proof.Machine
end

