-- ==== Sys2Proof/Machine/Signature.lean ====
section
/-! DEFINITION. The SIGNATURE section: both key ids name the enrolled keys and both signatures verify (03 R80, assumption 85). -/

namespace Sys2Proof.Machine

/-- The number that big-endian bytes stand for. -/
def beNat (bs : List Byte) : Nat := bs.foldl (fun n b => 256 * n + b.toNat) 0

/-- `b` to the power of the low `k` bits of `e`, modulo `n`. -/
def powMod (n : Nat) : Nat → Nat → Nat → Nat
  | 0, _, _ => 1 % n
  | k + 1, e, b =>
    let t := powMod n k (e / 2) (b * b % n)
    if e % 2 = 1 then b * t % n else t

/-- MGF1 with SHA-384. -/
def mgf1 (seed : List Byte) (len : Nat) : List Byte :=
  ((List.range ((len + 47) / 48)).flatMap fun i => sha384 (seed ++ (natLe 4 i).reverse)).take len

/-- An encoded message of 384 bytes is the PSS encoding of a message with a salt of 48 bytes, of 3,071 bits. -/
def pssEncodes (em m : List Byte) : Bool :=
  let h := (em.drop 335).take 48
  let db := List.zipWith (· ^^^ ·) (em.take 335) (mgf1 h 335)
  let db := db.modifyHead (· &&& 0x7F)
  let salt := db.drop 287
  em.getD 383 0 == 0xBC && (em.getD 0 0).toNat < 0x80 && (db.take 286).all (· == 0) && db.getD 286 0 == 1 &&
    sha384 (List.replicate 8 0 ++ sha384 m ++ salt) == h

/-- An RSA-3072 PSS signature of a message verifies under a key. -/
def pssVerifies (key : Nat × Nat) (m sig : List Byte) : Bool :=
  let s := beNat sig
  s < key.1 && pssEncodes (natLe 384 (powMod key.1 (key.2.log2 + 1) key.2 s)).reverse m

/-! ## SLH-DSA-SHA2-192s (FIPS 205): n = 24, h = 63 in 7 layers of 9, 17 FORS trees of 14, w = 16 -/

/-- A hash address: its layer, its tree, its type and its last three words. -/
structure SlhAdrs where
  layer : Nat
  tree : Nat
  type : Nat
  w1 : Nat
  w2 : Nat
  w3 : Nat
deriving DecidableEq, Repr

/-- The big-endian bytes of a number. -/
def beBytesOf (n v : Nat) : List Byte := (natLe n v).reverse

/-- A hash address of 32 bytes compressed to 22. -/
def SlhAdrs.bytes (a : SlhAdrs) : List Byte :=
  beBytesOf 1 a.layer ++ beBytesOf 8 a.tree ++ beBytesOf 1 a.type ++ beBytesOf 4 a.w1 ++ beBytesOf 4 a.w2 ++ beBytesOf 4 a.w3

/-- F: the hash of one node. -/
def slhF (seed : List Byte) (a : SlhAdrs) (m : List Byte) : List Byte := (sha256 (seed ++ List.replicate 40 0 ++ a.bytes ++ m)).take 24

/-- H and T: the hash of several nodes. -/
def slhT (seed : List Byte) (a : SlhAdrs) (m : List Byte) : List Byte := (sha512 (seed ++ List.replicate 104 0 ++ a.bytes ++ m)).take 24

/-- The digest of 39 bytes of a message. -/
def slhMsg (r seed root m : List Byte) : List Byte :=
  let x := r ++ seed ++ sha512 (r ++ seed ++ root ++ m)
  (sha512 (x ++ beBytesOf 4 0)).take 39

/-- The `n`th of the values of `b` bits that big-endian bytes hold. -/
def bitsBe (b n : Nat) (bs : List Byte) : Nat := beNat bs / 2 ^ (8 * bs.length - b * (n + 1)) % 2 ^ b

/-- The `i`th string of 24 bytes. -/
def nth24 (bs : List Byte) (i : Nat) : List Byte := (bs.drop (24 * i)).take 24

/-- A root from a leaf of index `i` and the path beside it, whose addresses lie at heights 1 and up; `base` is where the indexes of the leaves begin. -/
def slhClimb (seed : List Byte) (a : SlhAdrs) (path : List Byte) (height base i : Nat) (leaf : List Byte) : List Byte :=
  (List.range height).foldl (fun node j =>
    let a := { a with w2 := j + 1, w3 := (base + i) / 2 ^ (j + 1) }
    if i / 2 ^ j % 2 = 0 then slhT seed a (node ++ nth24 path j) else slhT seed a (nth24 path j ++ node)) leaf

/-- A chain of WOTS+ from step `i`, `n` steps on. -/
def slhChain (seed : List Byte) (a : SlhAdrs) (i n : Nat) (x : List Byte) : List Byte :=
  (List.range n).foldl (fun x j => slhF seed { a with w3 := i + j } x) x

/-- The WOTS+ public key that a signature of a message of 24 bytes gives, under an address of type WOTS_HASH. -/
def slhWots (seed : List Byte) (a : SlhAdrs) (sig m : List Byte) : List Byte :=
  let ds := (List.range 48).map fun i => bitsBe 4 i m
  let sum := beBytesOf 2 ((ds.map fun d => 15 - d).sum * 16)
  let ds := ds ++ (List.range 3).map fun i => bitsBe 4 i sum
  slhT seed { a with type := 1, w2 := 0, w3 := 0 } (ds.zipIdx.flatMap fun (d, i) => slhChain seed { a with w2 := i } d (15 - d) (nth24 sig i))

/-- The root of one layer's tree, from the leaf of index `leaf` and a signature of 60 strings. -/
def slhXmss (seed : List Byte) (layer tree leaf : Nat) (sig m : List Byte) : List Byte :=
  let a : SlhAdrs := { layer := layer, tree := tree, type := 0, w1 := leaf, w2 := 0, w3 := 0 }
  slhClimb seed { a with type := 2, w1 := 0 } (sig.drop (24 * 51)) 9 0 leaf (slhWots seed a sig m)

/-- The FORS public key that a signature of 30 bytes of a digest gives. -/
def slhFors (seed : List Byte) (tree leaf : Nat) (sig md : List Byte) : List Byte :=
  let a : SlhAdrs := { layer := 0, tree := tree, type := 3, w1 := leaf, w2 := 0, w3 := 0 }
  slhT seed { a with type := 4 } ((List.range 17).flatMap fun i =>
    let x := bitsBe 14 i md
    let sg := sig.drop (24 * 15 * i)
    slhClimb seed a (sg.drop 24) 14 (i * 2 ^ 14) x (slhF seed { a with w3 := i * 2 ^ 14 + x } (nth24 sg 0)))

/-- The root of the whole of the trees. -/
def slhRoot (seed : List Byte) (tree leaf : Nat) (sig m : List Byte) : List Byte :=
  (List.range 7).foldl (fun m j =>
    let t := tree * 2 ^ 9 + leaf
    slhXmss seed j (t / 2 ^ (9 * (j + 1))) (t / 2 ^ (9 * j) % 2 ^ 9) (sig.drop (24 * 60 * j)) m) m

/-- An SLH-DSA-SHA2-192s signature of a message, in the pure form with an empty context string, verifies under a key of 48 bytes. -/
def slhVerifies (key m sig : List Byte) : Bool :=
  let seed := key.take 24
  let root := key.drop 24
  let dg := slhMsg (sig.take 24) seed root ([0, 0] ++ m)
  let tree := beNat ((dg.drop 30).take 7) % 2 ^ 54
  let leaf := beNat ((dg.drop 37).take 2) % 2 ^ 9
  sig.length == 16224 && key.length == 48 &&
    slhRoot seed tree leaf (sig.drop (24 * 256)) (slhFors seed tree leaf (sig.drop 24) (dg.take 30)) == root

/-- The key id of a domain's RSA key (R80). -/
def rsaKeyId (domain : Nat) : List Byte := (sha384 (Config.rsaKeyBytes domain)).take 8

/-- The key id of a domain's SLH-DSA key (R80). -/
def slhKeyId (domain : Nat) : List Byte := (sha384 (Config.slhKeyBytes domain)).take 8

/-- A SIGNATURE section over a digest verifies under the keys of a domain (R80). -/
def sigVerifies (domain : Nat) (digest sec : List Byte) : Bool :=
  sec.take 8 == rsaKeyId domain && (sec.drop 8).take 8 == slhKeyId domain &&
    pssVerifies (Config.rsaKey domain) digest ((sec.drop 16).take 384) && slhVerifies (Config.slhKeyBytes domain) digest ((sec.drop 400).take 16224)

end Sys2Proof.Machine
end

