-- ==== Sys2Proof/Machine/Object.lean ====
section
/-! DEFINITION. Aszon objects: their sections, the graph they hold, its expressions and checks (03 R79-R84, 05 R127-R132, 06 R146,
R155-R158, 07 R185). -/

namespace Sys2Proof.Machine

/-! ## Bytes -/

/-- The little-endian number in `n` bytes of a list from an offset. -/
def fld (bs : List Byte) (off n : Nat) : Nat := leNat ((bs.drop off).take n)

def slice (bs : List Byte) (off n : Nat) : List Byte := (bs.drop off).take n

/-- `n` bytes from an offset are all zero. -/
def zeros (bs : List Byte) (off n : Nat) : Bool := (slice bs off n).all (· == 0)

/-- Two intervals of a list share a byte. -/
def clash (a b : Nat × Nat) : Bool := a.1 < b.1 + b.2 && b.1 < a.1 + a.2

/-! ## Sections (R79) -/

structure Sect where
  type : Nat
  off : Nat
  len : Nat
deriving DecidableEq, Repr

/-- The section table. -/
def readSects (bs : List Byte) : List Sect :=
  (List.range (fld bs 0x12 2)).map fun i =>
    let o := fld bs 0x14 4 + 16 * i
    { type := fld bs o 4, off := fld bs (o + 4) 4, len := fld bs (o + 8) 8 }

def isSigned (bs : List Byte) : Bool := bitAt (fld bs 6 2) 0

/-- The section of a type. -/
def sect (ss : List Sect) (t : Nat) : Option Sect := ss.find? fun x => x.type == t

/-- The bytes of a section, none where it is absent. -/
def sectBytes (bs : List Byte) (ss : List Sect) (t : Nat) : List Byte :=
  match sect ss t with
  | some x => slice bs x.off x.len
  | none => []

/-- No two elements of a list clash. -/
def apart : List (Nat × Nat) → Bool
  | [] => true
  | a :: l => !(l.any fun b => clash a b) && apart l

/-- MAGIC, VER and the section rules (R79): step 2 of R84. The section table lies before the SIGNATURE section (assumption 40). -/
def headerOk (bs : List Byte) : Bool :=
  let n := fld bs 0x12 2
  let st := fld bs 0x14 4
  let ss := readSects bs
  let sg := isSigned bs
  let count (t : Nat) : Nat := (ss.filter fun x => x.type == t).length
  let ver := fld bs 4 2
  fld bs 0 4 == 0x00475A41 && (ver == 2 || ver == 3) && fld bs 6 2 ≤ 1 && zeros bs 0x18 40 && 1 ≤ n && n ≤ 32 && st % 8 == 0 &&
  64 ≤ bs.length && st + 16 * n ≤ bs.length && 64 ≤ st &&
  (!sg || (2 ≤ fld bs 0x10 1 && fld bs 0x10 1 ≤ 7 && fld bs 0x11 1 ≤ 64)) &&
  (ss.all fun x => 1 ≤ x.type && x.type ≤ 11 && x.off % 8 == 0 && x.off + x.len ≤ bs.length) &&
  apart ((0, 64) :: (st, 16 * n) :: ss.map fun x => (x.off, x.len)) &&
  count 1 == 1 && count 2 == 1 && count 5 == 1 && ([3, 4, 6, 7, 8, 9, 10].all fun t => count t ≤ 1) && (ver == 3 || count 7 == 0) &&
  (match sect ss 9 with | some x => x.len == 128 | none => true) &&
  (ver == 3 || (match sect ss 8 with | some x => x.len == 0 || fld bs x.off 1 == 1 | none => true)) &&
  (if sg then count 11 == 1 && (match sect ss 11 with
      | some g => g.len == 16624 && (ss.all fun x => x.off + x.len ≤ g.off || x.type == 11) && st + 16 * n ≤ g.off
      | none => false)
   else count 11 == 0)

/-- The signature of a signed object verifies over the region before it (R80). -/
def sigOk (bs : List Byte) : Bool :=
  match sect (readSects bs) 11 with
  | some g => sigVerifies (fld bs 0x10 1) (sha384 (bs.take g.off)) (slice bs g.off g.len)
  | none => false

/-- The FEATURES an object needs: bits of leaves 0-15; without the section, leaf 0 bit 0. -/
def featWords (bs : List Byte) : List Nat :=
  match sect (readSects bs) 9 with
  | some x => (List.range 16).map fun i => fld bs (x.off + 8 * i) 8
  | none => [1]

/-! ## Expressions (R11, R130) -/

/-- What an expression may push. -/
structure EvalIn where
  params : List Nat
  data : Nat
  const : Nat

/-- A binary operator of N2. -/
def evalBin (op : Nat) (a b : Word) : Option Word :=
  match op with
  | 0x52 => some (a * b)
  | 0x53 => if b = 0 then none else some (a.sdiv b)
  | 0x54 => if b = 0 then none else some (a.srem b)
  | 0x55 => some (a + b)
  | 0x56 => some (a - b)
  | 0x57 => if b.toNat > 63 then none else some (a <<< b.toNat)
  | 0x58 => if b.toNat > 63 then none else some (a.sshiftRight b.toNat)
  | 0x59 => some (a &&& b)
  | 0x5A => some (a ^^^ b)
  | 0x5B => some (a ||| b)
  | _ => none

/-- The postfix bytes run on a stack of at most 8 values. -/
def evalGo (x : EvalIn) : Nat → List Byte → List Word → Option Word
  | 0, _, _ => none
  | _ + 1, [], _ => none
  | n + 1, b :: bs, st =>
    let push (v : Word) (rest : List Byte) : Option Word := if st.length ≥ 8 then none else evalGo x n rest (v :: st)
    let op := b.toNat
    if op = 0xFF then (match st with | [v] => some v | _ => none)
    else if op < 0x40 then (match x.params[op]? with | some v => push (BitVec.ofNat 64 v) bs | none => none)
    else if op = 0x40 then (if bs.length < 8 then none else push (BitVec.ofNat 64 (leNat (bs.take 8))) (bs.drop 8))
    else if op = 0x41 then push (BitVec.ofNat 64 x.data) bs
    else if op = 0x42 then push (BitVec.ofNat 64 x.const) bs
    else if op = 0x50 then (match st with | v :: st => evalGo x n bs (-v :: st) | _ => none)
    else if op = 0x51 then (match st with | v :: st => evalGo x n bs (~~~v :: st) | _ => none)
    else match st with
      | b' :: a :: st => (match evalBin op a b' with | some v => evalGo x n bs (v :: st) | none => none)
      | _ => none

def evalExpr (g : Graph) (x : EvalIn) (i : Nat) : Option Word :=
  match g.exprs[i]? with
  | none => none
  | some bs => evalGo x 65 bs []

/-- Whether an expression pushes a parameter. -/
def pushesParam : Nat → List Byte → Bool
  | 0, _ => false
  | _ + 1, [] => false
  | n + 1, b :: bs =>
    if b.toNat = 0xFF then false else if b.toNat < 0x40 then true else if b.toNat = 0x40 then pushesParam n (bs.drop 8) else pushesParam n bs

def Graph.dynExpr (g : Graph) (i : Nat) : Bool := match g.exprs[i]? with | some bs => pushesParam 65 bs | none => false

/-- A value-or-expression field of 32 or of 64 bits. -/
def evalField (g : Graph) (x : EvalIn) (w : Nat) (raw : Nat) : Option Int :=
  if bitAt raw (w - 1) then (evalExpr g x (raw % 2 ^ 16)).map (·.toInt) else some (raw % 2 ^ (w - 1) : Nat)

/-- A field's value between limits. -/
def evalIn (g : Graph) (x : EvalIn) (w raw lo hi : Nat) : Option Nat :=
  match evalField g x w raw with
  | some v => if (lo : Int) ≤ v && v ≤ hi then some v.toNat else none
  | none => none

/-- A value-or-expression field names no expression that is not there, and its constant lies between limits. -/
def fieldOk (nexpr w raw lo hi : Nat) : Bool :=
  if bitAt raw (w - 1) then raw % 2 ^ 16 < nexpr else lo ≤ raw % 2 ^ (w - 1) && raw % 2 ^ (w - 1) ≤ hi

/-! ## The GRAPH section and its companions (R131, R132) -/

/-- A shape record; none where a rule of R131 is broken. -/
def readShape (bs : List Byte) (nexpr : Nat) : Option ShapeD :=
  let img : ShapeBits := BitVec.ofNat 512 (fld bs 0 64)
  let w := img.toNat
  let mode := fld bs 64 1
  let ents := (List.range 3).map fun i => (fld bs (68 + 4 * i) 1, fld bs (69 + 4 * i) 1, fld bs (70 + 4 * i) 2)
  let used := ents.filter fun e => e.1 ≠ 0xFF
  let bases := (used.filter fun e => e.1 = 0).length
  let patched (k : Nat) : Bool := used.any fun e => e.1 == k
  if mode > 3 || !zeros bs 65 3 || (ents.any fun e => e.2.1 ≠ 0) || (used.any fun e => e.1 > 8 || nexpr ≤ e.2.2) then none
  else if bases ≠ (if mode = 3 then 1 else 0) || (mode = 3 && shBase img ≠ 0) then none
  else if bits w 480 32 ≠ 0 || bits w 450 6 ≠ 0 || bits w 460 3 ≠ 0 || shPortDim img = 1 || shPortDim img > 4 || shIndex img > 15 then none
  else if (List.range 4).any fun k => bits w (89 + 32 * k) 7 ≠ 0 || (!patched (k + 1) && (shExt img k = 0 || shExt img k > 2 ^ 24)) then none
  else some { image := img, baseMode := mode, patches := used.map fun e => (e.1, e.2.2) }

/-- A port record; none where it breaks its limits. -/
def readPort (bs : List Byte) (nexpr : Nat) : Option PortD :=
  let c := fld bs 8 4
  let b := fld bs 12 4
  if fld bs 0 1 > 31 || fld bs 1 1 > 2 || !zeros bs 2 6 || !fieldOk nexpr 32 c 1 256 || !fieldOk nexpr 32 b 1 65536 ||
      (!bitAt c 31 && !bitAt b 31 && b < c) then none
  else some { port := fld bs 0 1, kind := fld bs 1 1, count := c, bound := b }

/-- Every element of a list read, if each can be. -/
def allSome {α : Type} : List (Option α) → Option (List α)
  | [] => some []
  | some a :: l => (allSome l).map fun r => a :: r
  | none :: _ => none

/-- The number of records of one port number in a list is at most one. -/
def portsDistinct : List PortD → Bool
  | [] => true
  | p :: l => !(l.any fun q => q.port == p.port) && portsDistinct l

/-- A node record; none where it breaks a rule of R17, R131 or R330. -/
def readNode (bs : List Byte) (ports : List PortD) (shapes : List ShapeD) (nexpr codeLen : Nat) : Option NodeD :=
  let kind := fld bs 0 1
  let np := fld bs 3 1
  let pi := fld bs 4 4
  let shape := fld bs 24 2
  let edge := kind = 2 || kind = 3
  let cf := fld bs 27 1
  let ps := (ports.drop pi).take np
  let outs := ps.any fun p => 16 ≤ p.port
  let bad :=
    kind > 5 || fld bs 1 1 > 15 || (if kind = 1 then fld bs 2 1 > 4 else fld bs 2 1 ≠ 0) || np > 32 || pi + np > ports.length ||
    fld bs 8 4 % 8 ≠ 0 || fld bs 12 4 % 8 ≠ 0 || ((kind = 1 || edge) && fld bs 12 4 ≠ 0) || fld bs 8 4 + fld bs 12 4 > codeLen ||
    (edge && !fieldOk nexpr 64 (fld bs 16 8) 1 (2 ^ 32 - 1)) || (shape ≠ 0xFFFF && shapes.length ≤ shape) || (edge && shape = 0xFFFF) ||
    (kind = 4 && (fld bs 26 1 > 64 || fld bs 26 1 % 8 ≠ 0)) || (if kind = 3 then cf > 1 else cf ≠ 0) ||
    (if cf = 1 then nexpr ≤ fld bs 28 2 else fld bs 28 2 ≠ 0) || !zeros bs 30 2 || !portsDistinct ps || (kind = 3 && outs) ||
    (kind = 5 && ps.any fun p => p.port < 16)
  if bad then none
  else some
    { kind := kind, phase := fld bs 1 1, rkind := fld bs 2 1, ports := ps, codeOff := fld bs 8 4, codeLen := fld bs 12 4
      rounds := fld bs 16 8, shape := if edge then shapes[shape]? else none, args := if kind = 4 then fld bs 26 1 else 0
      coll := if cf = 1 then some (fld bs 28 2) else none }

/-- A channel record; none where it breaks a rule of R31, R40 or R131. A selector's CPORT is zero (assumption 40). -/
def readChan (bs : List Byte) (nodes : List NodeD) : Option ChanD :=
  let pn := fld bs 0 2
  let cn := fld bs 4 2
  let fl := fld bs 7 1
  let pp := (nodes[pn]?).bind fun n => n.portAt (fld bs 2 1)
  let cp := (nodes[cn]?).bind fun n => n.portAt (fld bs 6 1)
  let c : ChanD :=
    { pnode := pn, pport := fld bs 2 1, cnode := cn, cport := fld bs 6 1, barrier := bitAt fl 0, selector := bitAt fl 1
      depth := fld bs 8 2 }
  if fld bs 3 1 ≠ 0 || !zeros bs 10 6 || fl > 2 || nodes.length ≤ pn then none
  else if c.barrier then if c.pport ≠ 0 || c.cport ≠ 0 || c.depth ≠ 0 || nodes.length ≤ cn then none else some c
  else if c.depth < 2 || c.depth > 256 || c.pport < 16 then none
  else if c.selector then
    (match pp with
     | some p => if cn ≠ 0xFFFF || c.cport ≠ 0 || p.kind ≠ 0 then none else some c
     | none => none)
  else match pp, cp with
    | some p, some q => if c.cport > 15 || p.kind ≠ q.kind then none else some c
    | _, _ => none

/-- A RANGES entry. -/
def readRange (bs : List Byte) (nnode nexpr : Nat) : Option RangeD :=
  let fl := fld bs 5 1
  let mode := fl % 4
  let se := bitAt fl 2
  let base := fld bs 8 8
  let size := fld bs 16 8
  if nnode ≤ fld bs 0 2 || fld bs 2 1 > 9 || fld bs 3 1 > 2 || fld bs 4 1 > 15 || fl > 7 || !zeros bs 6 2 || !zeros bs 24 8 ||
      (mode = 3 && (base ≥ 2 ^ 16 || nexpr ≤ base)) || (se && (size ≥ 2 ^ 16 || nexpr ≤ size)) ||
      (!se && (size < 1 || size > 2 ^ 48)) then none
  else some { node := fld bs 0 2, kind := fld bs 2 1, bmode := fld bs 3 1, barid := fld bs 4 1, baseMode := mode, sizeExpr := se
              base := base, size := size }

/-- A SITES entry. -/
def readSite (bs : List Byte) : Option SiteD :=
  if fld bs 0 1 > 63 || fld bs 1 1 < 1 || fld bs 1 1 > 7 || fld bs 2 2 < 0x100 || fld bs 2 2 > 0xFF00 then none
  else some { id := fld bs 0 1, shift := fld bs 1 1, p := fld bs 2 2 }

/-- The PHASES section: its phases and handoffs; without it one phase, which ends the instance. -/
def readPhases (bs : List Byte) (nodes : List NodeD) (selector : Bool) : Option (List PhaseD × List HandD) :=
  if bs.isEmpty then some ([{ next := 0xFF, selected := false }], [])
  else
    let n := fld bs 0 1
    let recs := (List.range n).map fun i => slice bs (8 + 8 * i) 8
    let nh := (bs.length - 8 - 8 * n) / 8
    let hands := (List.range nh).map fun i => slice bs (8 + 8 * n + 8 * i) 8
    let isOp (i : Nat) : Bool := (nodes[i]?).any fun d => d.kind == 0 || d.kind == 5
    let phaseOf (i : Nat) : Nat := ((nodes[i]?).map (·.phase)).getD 0
    let recOk (r : List Byte) : Bool :=
      (fld r 0 1 < n || fld r 0 1 == 0xFF) && fld r 1 1 ≤ 1 && zeros r 6 2 && (fld r 1 1 == 0 || selector)
    let handOk (h : List Byte) : Bool :=
      isOp (fld h 0 2) && isOp (fld h 2 2) && phaseOf (fld h 0 2) < phaseOf (fld h 2 2) && 1 ≤ fld h 6 2
    -- The runs, in phase order, cover the array once; an empty run lies anywhere.
    let runs := recs.zipIdx.filter fun (r, _) => fld r 4 2 ≠ 0
    let cover := runs.foldl (fun (m : Option Nat) (r, p) => match m with
      | none => none
      | some k =>
        if fld r 2 2 = k && k + fld r 4 2 ≤ nh && ((hands.drop k).take (fld r 4 2)).all fun h => phaseOf (fld h 2 2) == p
        then some (k + fld r 4 2) else none) (some 0)
    if n < 1 || n > 16 || !zeros bs 1 7 || bs.length < 8 + 8 * n || (bs.length - 8 - 8 * n) % 8 ≠ 0 || !(recs.all recOk) ||
        !(hands.all handOk) || cover ≠ some nh then none
    else some (recs.map fun r => { next := fld r 0 1, selected := fld r 1 1 == 1 },
      hands.map fun h => { prod := fld h 0 2, cons := fld h 2 2, banks := BitVec.ofNat 16 (fld h 4 2), fires := fld h 6 2 })

/-- The PARAM section: its defaults. -/
def readParams (bs : List Byte) (nexpr : Nat) : Option (List Nat) :=
  let n := fld bs 0 8
  if bs.length < 8 || n > 64 || bs.length < 8 + 72 * n then none
  else
    let ds := (List.range n).map fun i => fld bs (8 + 8 * i) 8
    if ds.any fun d => bitAt d 63 && (d % 2 ^ 63 ≥ 2 ^ 16 || nexpr ≤ d % 2 ^ 16) then none else some ds

/-- A router operator's ports (R32, R146). -/
def routerOk (n : NodeD) : Bool :=
  let k (p : Nat) : Option Nat := (n.portAt p).map (·.kind)
  let only (l : List Nat) : Bool := n.ports.all fun p => l.contains p.port
  let same (l : List Nat) : Bool := match l.filterMap k with
    | [] => true
    | a :: r => r.all (· == a)
  let cnt := n.ports.all fun p => p.count == 1
  cnt && (match n.rkind with
    | 0 => only [0, 1, 16, 17] && k 0 == some 0 && (k 1).isSome && same [1, 16, 17]
    | 1 => only [0, 1, 2, 16] && k 0 == some 0 && (k 1).isSome && (k 2).isSome && same [1, 2, 16]
    | 2 => only [0, 1, 2, 16] && k 0 == some 0 && (k 1).isSome && (k 2).isSome && same [1, 2, 16]
    | 3 => only [0, 1, 16] && k 0 == some 0 && (k 1).isSome && same [1, 16]
    | _ => only ((List.range 16) ++ [16, 17]) && k 0 == some 0 && (k 16).all (· == 0) && (k 17).all (· == 0) &&
        n.ports.any fun p => 1 ≤ p.port && p.port ≤ 15)

/-- Every input port is connected exactly once, every output port once at most (R31). -/
def connected (g : Graph) : Bool :=
  g.nodes.zipIdx.all fun (n, i) => n.ports.all fun p =>
    let c := (g.chans.filter fun c => !c.barrier &&
      (if p.port < 16 then !c.selector && c.cnode == i && c.cport == p.port else c.pnode == i && c.pport == p.port)).length
    if p.port < 16 then c == 1 else c ≤ 1

/-- The graph of an object, its values still fields (R131, R132): step 7 of R84, as far as constants go. Two SITES entries with one ID are refused
(assumption 79). -/
def readGraph (bs : List Byte) : Option Graph :=
  let ss := readSects bs
  let gb := sectBytes bs ss 1
  let code := sectBytes bs ss 2
  let nn := fld gb 0 2
  let nc := fld gb 2 2
  let np := fld gb 4 4
  let ns := fld gb 8 2
  let ne := fld gb 10 2
  let mf := fld gb 12 4
  let o1 := 16 + 32 * nn
  let o2 := o1 + 16 * np
  let o3 := o2 + 16 * nc
  let o4 := o3 + 80 * ns
  if gb.length < 16 || gb.length < o4 + 64 * ne || bits mf 21 11 ≠ 0 || bits mf 0 20 > 1000000 then none
  else
    let exprs := (List.range ne).map fun i => slice gb (o4 + 64 * i) 64
    let many (o w n : Nat) : List (List Byte) := (List.range n).map fun i => slice gb (o + w * i) w
    match allSome ((many o3 80 ns).map fun b => readShape b ne), allSome ((many o1 16 np).map fun b => readPort b ne) with
    | some shapes, some ports => (match allSome ((many 16 32 nn).map fun b => readNode b ports shapes ne code.length) with
      | some nodes =>
        let rb := sectBytes bs ss 6
        let sb := sectBytes bs ss 7
        (match allSome ((many o2 16 nc).map fun b => readChan b nodes),
            allSome ((List.range (rb.length / 32)).map fun i => readRange (slice rb (32 * i) 32) nn ne),
            allSome ((List.range (sb.length / 4)).map fun i => readSite (slice sb (4 * i) 4)),
            readParams (sectBytes bs ss 5) ne with
         | some chans, some ranges, some sites, some params =>
           let sels := (chans.filter (·.selector)).length
           (match readPhases (sectBytes bs ss 8) nodes (sels == 1) with
            | some (phases, hands) =>
              let g : Graph :=
                { nodes := nodes, chans := chans, ranges := ranges, sites := sites, phases := phases, hands := hands, exprs := exprs
                  params := params, marker := bits mf 0 20, fuse := bitAt mf 20 }
              let ids := sites.map (·.id)
              let count (k : Nat) : Nat := (nodes.filter fun n => n.kind == k).length
              if rb.length % 32 ≠ 0 || sb.length % 4 ≠ 0 || sels > 1 || ids.eraseDups.length ≠ ids.length || ranges.length > 256 ||
                  count 0 + count 5 > 4096 || count 5 > 1 || count 4 > 256 || chans.length > 16384 || sites.length > 64 ||
                  (nodes.any fun n => phases.length ≤ n.phase) ||
                  (nodes.any fun n => n.kind == 1 && !routerOk n) || !connected g then none
              else some g
            | none => none)
         | _, _, _, _ => none)
      | none => none)
    | _, _ => none

/-! ## The graph at given values (R130, R155-R158) -/

/-- The base that a base mode makes of a value. -/
def modeBase (x : EvalIn) (mode v : Nat) : Nat :=
  match mode with
  | 1 => (x.data + v) % 2 ^ 64
  | 2 => (x.const + v) % 2 ^ 64
  | _ => v

/-- A shape at given values, base first, then each patch in its field. -/
def resolveShape (g : Graph) (x : EvalIn) (d : ShapeD) : Option ShapeD :=
  let put (b : ShapeBits) (lo n v : Nat) : ShapeBits :=
    let m : ShapeBits := BitVec.ofNat 512 (2 ^ n - 1) <<< lo
    (b &&& ~~~m) ||| ((BitVec.ofNat 512 v <<< lo) &&& m)
  let b0 := put d.image 0 64 (modeBase x d.baseMode (shBase d.image))
  let step (m : Option ShapeBits) (p : Nat × Nat) : Option ShapeBits :=
    match m, evalExpr g x p.2 with
    | some b, some v =>
      if p.1 = 0 then some (put b 0 64 v.toNat)
      else if p.1 ≤ 4 then (if 1 ≤ v.toInt && v.toInt ≤ 2 ^ 24 then some (put b (32 + 32 * p.1) 32 v.toNat) else none)
      else some (put b (192 + 64 * (p.1 - 5)) 64 v.toNat)
    | _, _ => none
  (d.patches.foldl step (some b0)).map fun b => { d with image := b, patches := [] }

/-- A stream's data port number: o0 of a loader, i0 of a storer. -/
def NodeD.dataPort (n : NodeD) : Nat := if n.kind = 2 then 16 else 0

/-- The tests of a stream at given values (R17, R155, R157, R158, R160). -/
def streamOk (g : Graph) (i : Nat) (n : NodeD) : Bool :=
  match n.shape with
  | none => false
  | some d =>
    let b := d.image
    let e := shElem b
    let k := shPortDim b
    let ext (j : Nat) : Nat := shExt b j
    let datas := if n.kind = 2 then n.ports.filter fun p => 16 ≤ p.port else n.ports.filter fun p => p.port = 0
    let lim (kind : Nat) : Nat := match kind with | 0 => 8 | 1 => 256 | _ => 512
    let total := ext 1 * ext 2 * ext 3
    let share (q : Nat) : Nat := if k = 0 then (if q = 0 then total else 0) else if q < ext (k - 1) then total / Nat.max 1 (ext (k - 1)) else 0
    let idx := shIndex b
    let param := n.portAt 15
    let others := n.ports.filter fun p => p.port < 16 && p.port ≠ 15 && !(n.kind = 3 && p.port = 0) && !(idx ≠ 0 && p.port = idx - 1)
    !datas.isEmpty && (n.kind ≠ 2 || (n.portAt 16).isSome) && others.isEmpty && shBase b % e == 0 &&
    (datas.all fun p => ext 0 * e ≤ lim p.kind) &&
    (k = 0 || (n.kind = 2 && 2 ≤ k && ext (k - 1) ≤ datas.length && (List.range (ext (k - 1))).all fun q => (n.portAt (16 + q)).isSome)) &&
    (datas.all fun p => p.kind ≠ 2 || n.kind ≠ 2 || (shTyValid b && shTy b < 13 && tyW (shTy b) == e)) &&
    (if idx = 0 then (datas.all fun p => p.count == share (p.port % 16))
     else ext 2 == 1 && ext 3 == 1 && k == 0 && idx ≠ 16 && !(n.kind = 3 && idx = 1) && datas.length == 1 && (match n.portAt (idx - 1) with
       | some p => p.kind == 0 && (datas.all fun q => q.count == p.count)
       | none => false)) &&
    (match param with
     | some p => p.kind == 0 && p.count == 1 && g.ranges.any fun r => r.node == i
     | none => true) &&
    (n.coll.isNone || ((n.portAt 0).any (·.kind == 2) && param.isNone))

/-- A graph at given values: every field a number, the derived ranges among its ranges; none where an expression does not evaluate or a
stream is refused. -/
def Graph.resolve (g : Graph) (x : EvalIn) : Option Graph :=
  let port (p : PortD) : Option PortD :=
    match evalIn g x 32 p.count 1 256 with
    | none => none
    | some c => (evalIn g x 32 p.bound c 65536).map fun b => { p with count := c, bound := b }
  let node (n : NodeD) : Option NodeD :=
    match allSome (n.ports.map port) with
    | none => none
    | some ps =>
      let edge := n.kind = 2 || n.kind = 3
      let rounds := if edge then evalIn g x 64 n.rounds 1 (2 ^ 32 - 1) else some 0
      let shape : Option (Option ShapeD) := match n.shape with
        | none => some none
        | some d => (resolveShape g x d).map some
      let coll : Option (Option Nat) := match n.coll with
        | none => some none
        | some e => (evalExpr g x e).map fun v => some v.toNat
      (match rounds, shape, coll with
       | some r, some sh, some c => some { n with ports := ps, rounds := r, shape := sh, coll := c }
       | _, _, _ => none)
  let range (r : RangeD) : Option RangeD :=
    let base := if r.baseMode = 3 then (evalExpr g x r.base).map (·.toNat) else some (modeBase x r.baseMode r.base)
    let size := if r.sizeExpr then
        (evalExpr g x r.size).bind fun v => if 1 ≤ v.toInt && v.toInt ≤ 2 ^ 48 then some v.toNat else none
      else some r.size
    match base, size with
    | some b, some z => some { r with base := b, size := z, baseMode := 0, sizeExpr := false }
    | _, _ => none
  match allSome (g.nodes.map node), allSome (g.ranges.map range) with
  | some nodes, some ranges =>
    let own := nodes.zipIdx.filterMap fun (n, i) => match n.shape with
      | some d => if (n.portAt 15).isSome then none else some (derivedRange i n.kind d.image)
      | none => none
    let g' : Graph := { g with nodes := nodes, ranges := ranges ++ own }
    if nodes.zipIdx.all fun (n, i) => !(n.kind = 2 || n.kind = 3) || streamOk { g with ranges := ranges } i n then some g' else none
  | _, _ => none

/-- A range or a shape of the graph depends on a parameter (R127). -/
def Graph.dynamic (g : Graph) : Bool :=
  (g.ranges.any fun r => (r.baseMode == 3 && g.dynExpr r.base) || (r.sizeExpr && g.dynExpr r.size)) ||
  g.nodes.any fun n => match n.shape with
    | some d => d.patches.any fun p => g.dynExpr p.2
    | none => false

/-- The parameters of a launch without a block: the defaults at the bases given (R132). A default whose expression pushes a parameter fails (assumption 79). -/
def Graph.defaults (g : Graph) (data const : Nat) : Option (List Nat) :=
  allSome (g.params.map fun d =>
    if bitAt d 63 then (evalExpr g { params := [], data := data, const := const } (d % 2 ^ 16)).map (·.toNat) else some (d % 2 ^ 63))

/-! ## The pairwise check, and rollback (R127, R129, R185) -/

/-- The words of a body. -/
def bodyWords (code : List Byte) (n : NodeD) : List Word :=
  (List.range (n.codeLen / 8)).map fun i => BitVec.ofNat 64 (fld code (n.codeOff + 8 * i) 8)

def decodes (w : Word) : Bool := match decodeWord w with | .ok _ => true | _ => false

/-- A body arrives at a die barrier (R21). -/
def arrivesAt (code : List Byte) (n : NodeD) (b : Nat) : Bool :=
  (bodyWords code n).any fun w => decodes w && (fOp w == 0x40 || fOp w == 0x41) && bits w.toNat 26 3 == 3 && bits w.toNat 32 4 == b

/-- A body holds an instruction with SCOPE 5. -/
def usesPod (code : List Byte) (n : NodeD) : Bool :=
  (bodyWords code n).any fun w => decodes w &&
    ((0x20 ≤ fOp w && fOp w ≤ 0x3A && bits w.toNat 36 3 == 5) || (0x40 ≤ fOp w && fOp w ≤ 0x42 && bits w.toNat 26 3 == 5))

def usesLaunch (code : List Byte) (n : NodeD) : Bool := (bodyWords code n).any fun w => decodes w && fOp w == 0x4C

/-- The memory-accessing nodes. -/
def Graph.accessing (g : Graph) : List Nat :=
  (List.range g.nodes.length).filter fun i => (g.nodes[i]?).any fun n => n.kind == 2 || n.kind == 3 || g.ranges.any fun r => r.node == i

/-- One relation of R127: an earlier phase, or a stream-barrier edge. -/
def Graph.before1 (g : Graph) (x y : Nat) : Bool :=
  let ph (i : Nat) : Nat := ((g.nodes[i]?).map (·.phase)).getD 0
  decide (ph x < ph y) || g.chans.any fun c => c.barrier && c.pnode == x && c.cnode == y

/-- The nodes ordered after a list of nodes, by chains within a set of nodes. -/
def Graph.after (g : Graph) (all : List Nat) : Nat → List Nat → List Nat
  | 0, l => l
  | n + 1, l =>
    let l' := l ++ all.filter fun y => !l.contains y && l.any fun x => g.before1 x y
    if l'.length = l.length then l else g.after all n l'

/-- X is ordered before Y (R127). -/
def Graph.ordered (g : Graph) (x y : Nat) : Bool :=
  let all := List.range g.nodes.length
  let firsts := all.filter fun z => g.before1 x z
  (g.after all all.length firsts).contains y

def RangeD.meets (a b : RangeD) : Bool := a.base < b.base + b.size && b.base < a.base + a.size

/-- A pair of ranges of two nodes passes. -/
def pairOk (g : Graph) (code : List Byte) (a b : RangeD) : Bool :=
  let seg (i : Nat) : Bool := (g.nodes[i]?).any fun n => n.kind == 4
  let arr (i n : Nat) : Bool := (g.nodes[i]?).any fun d => arrivesAt code d n
  !(a.meets b) || (a.kind == 0 && b.kind == 0) || (2 ≤ a.kind && a.kind == b.kind) ||
  (((a.bmode == 1 && b.bmode == 2) || (a.bmode == 2 && b.bmode == 1)) && a.barid == b.barid && arr a.node a.barid && arr b.node a.barid) ||
  (!(seg a.node && a.kind == 0) && g.ordered a.node b.node) || (!(seg b.node && b.kind == 0) && g.ordered b.node a.node)

/-- Every pair passes, where the graph has at most 256 memory-accessing nodes (R127). -/
def Graph.pairsOk (g : Graph) (code : List Byte) : Bool :=
  g.accessing.length > 256 || (g.ranges.all fun a => g.ranges.all fun b => a.node == b.node || pairOk g code a b)

/-- A graph is checked (R129). -/
def Graph.isChecked (g : Graph) : Bool := g.accessing.length ≤ 256

/-- A graph is rollback-eligible (R185). -/
def Graph.isEligible (g : Graph) (code : List Byte) : Bool :=
  !(g.ranges.any fun a => a.kind ≠ 0 && g.ranges.any fun b => b.kind ≠ 1 && a.meets b) &&
  !(g.nodes.any fun n => usesLaunch code n || usesPod code n || n.coll.isSome)

end Sys2Proof.Machine
end

