-- ==== Sys2Proof/Machine/Lathe.lean ====
section
/-! DEFINITION. The Lathe: candidate regions, the procedure Place with its rip-up passes, the failure-to-fit record, and the placement
cache (05 R118, R135-R142, 07 R189, R190, R193). -/

namespace Sys2Proof.Machine

/-! ## Cells and positions (R136) -/

/-- A range of columns of a die. -/
structure Region where
  die : Nat
  col : Nat
  width : Nat
deriving DecidableEq, Repr

/-- The kind of cell that a kind of node stands in: a context, a router slot or a stream slot. -/
def cellKind (kind : Nat) : Nat :=
  match kind with
  | 1 => 1
  | 2 => 2
  | 3 => 2
  | _ => 0

/-- The core, the router or the edge unit that a cell belongs to. -/
def Place.unit : Place → Nat × Nat
  | .ctx cid => (0, coreOf cid)
  | .slot core _ => (1, core)
  | .edge d c north _ => (2, 2 * (32 * d + c) + north.toNat)

/-- Column and row of a cell; the edge units stand beyond the rows. -/
def Place.pos : Place → Nat × Int
  | .ctx cid => (colOf (coreOf cid), rowOf (coreOf cid))
  | .slot core _ => (colOf core, rowOf core)
  | .edge _ c north _ => (c, if north then 16 else -1)

def Place.isCtx : Place → Bool
  | .ctx _ => true
  | _ => false

/-- The cell of the sound map that a place stands in. -/
def Place.cell : Place → Cell
  | .ctx cid => .core (coreOf cid)
  | .slot core _ => .router core
  | .edge d c north _ => .edge d c north

/-- The sound cells of a kind in a region, in scan order. -/
def regionCells (unsound : List Cell) (rg : Region) (k : Nat) : List Place :=
  let all := (List.range rg.width).flatMap fun c =>
    match k with
    | 0 => (List.range 16).flatMap fun y => (List.range 8).map fun i => Place.ctx (8 * coreId rg.die (rg.col + c) y + i)
    | 1 => (List.range 16).flatMap fun y => (List.range 4).map fun i => Place.slot (coreId rg.die (rg.col + c) y) i
    | _ => [false, true].flatMap fun n => (List.range 4).map fun i => Place.edge rg.die (rg.col + c) n i
  all.filter fun x => !unsound.contains x.cell

/-! ## What keeps a graph from fitting (R142) -/

/-- A failure to fit: the fields of its record. -/
structure Fit where
  reason : Nat
  passes : Nat
  die : Nat
  origin : Nat
  width : Nat
  phase : Nat
  node : Nat
  chan : Nat
  need : Nat
  has : Nat
  core : Nat
  link : Nat
  sgen : Nat
  placed : Nat
  routed : Nat
  freectx : Nat
deriving DecidableEq, Repr

/-- The 64-byte record. -/
def Fit.bytes (f : Fit) (time : Nat) : List Byte :=
  natLe 1 f.reason ++ natLe 1 f.passes ++ natLe 1 f.die ++ natLe 1 f.origin ++ natLe 1 f.width ++ natLe 1 f.phase ++ natLe 2 f.node ++
    natLe 2 f.chan ++ natLe 2 f.need ++ natLe 2 f.has ++ natLe 2 f.core ++ natLe 1 f.link ++ natLe 7 0 ++ natLe 8 f.sgen ++
    natLe 2 f.placed ++ natLe 2 f.routed ++ natLe 2 f.freectx ++ natLe 2 0 ++ natLe 8 time ++ natLe 16 0

/-- A failure of one attempt, before its region's fields are known; `cell` is the cell whose routes failed. -/
structure Miss where
  reason : Nat
  phase : Nat
  node : Nat
  chan : Nat
  need : Nat
  has : Nat
  core : Nat
  link : Nat
  placed : Nat
  routed : Nat
  cell : Option Place
deriving DecidableEq, Repr

/-! ## The attempt (R137, R138) -/

/-- What an attempt has placed and routed so far; lanes are those of the present phase, cells every cell and link used. -/
structure Att where
  place : Table (Option Place)
  lanes : Table Nat
  placed : Nat
  routed : Nat
  cells : List Cell
deriving DecidableEq, Repr

def Att.init : Att := { place := [], lanes := [], placed := 0, routed := 0, cells := [] }

def Att.at' (a : Att) (n : Nat) : Option Place := tget none a.place n

/-- What binds nodes to cores beyond the graph (R126, R190): pairs that share a core, pairs that share a quad, nodes bound to a core or to
its quad, and the core objects that nodes use, as (node, kind, number, old core). -/
structure Pins where
  same : List (Nat × Nat)
  quad : List (Nat × Nat)
  fixed : List (Nat × Nat × Bool)
  objs : List (Nat × Nat × Nat × Nat)
deriving DecidableEq, Repr

/-- A handoff's consumer stands on its producer's core (R126). -/
def Graph.pins (g : Graph) : Pins := { same := g.hands.map fun h => (h.cons, h.prod), quad := [], fixed := [], objs := [] }

/-- The bytes of a node's input buffers (R122). -/
def Graph.bufBytes (g : Graph) (n : Nat) : Nat :=
  ((g.chans.zipIdx.filter fun (c, _) => !c.barrier && !c.selector && c.cnode == n).map fun (c, i) =>
    g.capacity i * (match ((g.nodes[c.pnode]?).bind fun d => d.portAt c.pport).elim 0 (·.kind) with | 0 => 8 | 1 => 256 | _ => 544)).sum

/-- The input buffers that a core, a router slot or an edge unit holds. -/
def bufCap (k : Nat) : Nat :=
  match k with
  | 0 => 32768
  | 1 => 2048
  | _ => 65536

/-- The nodes that stand in cells in a phase: its own, and the handler's in every phase. -/
def Graph.stands (g : Graph) (hs : List Nat) (ph n : Nat) : Bool :=
  (g.nodes[n]?).any fun d => d.kind != 4 && (d.phase == ph || hs.contains n)

/-- The nodes reached level by level from a list of nodes. -/
def bfs (g : Graph) (ns : List Nat) : Nat → List Nat → List Nat → List Nat
  | 0, _, seen => seen
  | f + 1, front, seen =>
    let next := ns.filter fun v => !seen.contains v && g.chans.any fun c => !c.barrier && !c.selector && c.cnode == v && front.contains c.pnode
    if next.isEmpty then seen else bfs g ns f next (seen ++ next)

/-- BreadthOrder over a list of nodes, ascending. -/
def Graph.breadth (g : Graph) (ns : List Nat) : List Nat :=
  let src := ns.filter fun v => !(g.chans.any fun c => !c.barrier && !c.selector && c.cnode == v && ns.contains c.pnode)
  let order := bfs g ns ns.length src src
  order ++ ns.filter fun v => !order.contains v

/-- The order in which a phase's nodes are placed; the handler subgraph follows phase 0's. -/
def Graph.order (g : Graph) (hs : List Nat) (ph : Nat) : List Nat :=
  let own := (List.range g.nodes.length).filter fun n => !hs.contains n && g.stands hs ph n
  let hnd := (List.range g.nodes.length).filter fun n => hs.contains n && g.stands hs ph n
  g.breadth own ++ (if ph = 0 then g.breadth hnd else [])

/-- The links from one router to another, X first, then Y: the origin's core id and the direction, 0 N, 1 E, 2 S, 3 W. -/
def pathOf (a b : Nat) : List (Nat × Nat) :=
  let d := dieOf a
  let (c1, y1, c2, y2) := (colOf a, rowOf a, colOf b, rowOf b)
  let xs := if c1 ≤ c2 then (List.range (c2 - c1)).map fun i => (coreId d (c1 + i) y1, 1)
    else (List.range (c1 - c2)).map fun i => (coreId d (c1 - i) y1, 3)
  let ys := if y1 ≤ y2 then (List.range (y2 - y1)).map fun i => (coreId d c2 (y1 + i), 0)
    else (List.range (y1 - y2)).map fun i => (coreId d c2 (y1 - i), 2)
  xs ++ ys

/-- Route(c): the attempt with the channel's lanes taken, or the router or link that fails. -/
def Att.route (unsound : List Cell) (p q : Place) (a : Att) : Except (Nat × Nat) Att :=
  if p.isCtx && q.isCtx && p.core == q.core then .ok { a with routed := a.routed + 1 }
  else
    let path := pathOf p.core q.core
    let bad := path.findSome? fun l =>
      if unsound.contains (.router l.1) then some (l.1, 0xFF)
      else if unsound.contains (.link l.1 l.2) || 16 ≤ tget 0 a.lanes (4 * l.1 + l.2) then some l
      else none
    match bad with
    | some l => .error l
    | none =>
      if unsound.contains (.router q.core) then .error (q.core, 0xFF)
      else .ok
        { a with lanes := path.foldl (fun t l => tset 0 t (4 * l.1 + l.2) (tget 0 t (4 * l.1 + l.2) + 1)) a.lanes
                 routed := a.routed + 1
                 cells := a.cells ++ (path.flatMap fun l => [Cell.router l.1, Cell.link l.1 l.2]) ++ [Cell.router q.core] }

/-- A cell meets what binds a node to a core (R126, R190). -/
def Pins.allow (pins : Pins) (a : Att) (n : Nat) (x : Place) : Bool :=
  let near (l : List (Nat × Nat)) (ok : Nat → Bool) : Bool := l.all fun e =>
    let other := if e.1 = n then some e.2 else if e.2 = n then some e.1 else none
    match other.bind a.at' with
    | some p => if p.isCtx then ok p.core else true
    | none => true
  !x.isCtx || (near pins.same (fun k => k == x.core) && near pins.quad (fun k => quadOf k == quadOf x.core) &&
    (pins.fixed.all fun f => f.1 != n || (if f.2.2 then quadOf f.2.1 == quadOf x.core else f.2.1 == x.core)) &&
    !(pins.objs.any fun o => o.1 == n && pins.objs.any fun m => m.1 != n && m.2.1 == o.2.1 && m.2.2.1 == o.2.2.1 && m.2.2.2 != o.2.2.2 &&
        (match a.at' m.1 with | some p => p.isCtx && p.core == x.core | none => false)))

/-- Something binds a node to a core. -/
def Pins.binds (pins : Pins) (n : Nat) : Bool :=
  (pins.same.any fun e => e.1 == n || e.2 == n) || (pins.quad.any fun e => e.1 == n || e.2 == n) || pins.fixed.any fun f => f.1 == n

/-- The member of a list with the least cost, the first on a tie. -/
def cheapest (cost : Place → Nat) : List Place → Option Place
  | [] => none
  | x :: l => match cheapest cost l with
    | none => some x
    | some y => if cost y < cost x then some y else some x

/-- The channels of a phase that a newly placed node completes, in declaration order, each routed. -/
def Att.routeAll (g : Graph) (unsound : List Cell) (hs : List Nat) (ph n : Nat) (x : Place) : List (ChanD × Nat) → Att → Except Miss Att
  | [], a => .ok a
  | (c, i) :: cs, a =>
    let here := !c.barrier && !c.selector && (c.pnode == n || c.cnode == n) && g.stands hs ph c.pnode && g.stands hs ph c.cnode
    match here, a.at' c.pnode, a.at' c.cnode with
    | true, some p, some q => (match a.route unsound p q with
      | .ok a => a.routeAll g unsound hs ph n x cs
      | .error (k, d) => .error
        { reason := 5, phase := ph, node := n, chan := i, need := 1, has := 0, core := k, link := d, placed := a.placed, routed := a.routed
          cell := some x })
    | _, _, _ => a.routeAll g unsound hs ph n x cs

/-- One node is placed, or the attempt fails (R138). -/
def Att.put (g : Graph) (unsound : List Cell) (rg : Region) (pins : Pins) (hs : List Nat) (avoid : List (Nat × Place)) (ph n : Nat) (a : Att) :
    Except Miss Att :=
  let k := cellKind (((g.nodes[n]?).map (·.kind)).getD 0)
  let there := a.place.filterMap fun e => match e.2 with
    | some p => if g.stands hs ph e.1 then some (e.1, p) else none
    | none => none
  let free := (regionCells unsound rg k).filter fun x => !(there.any fun e => e.2 == x)
  let need := g.bufBytes n
  let used (x : Place) : Nat := if k = 1 then 0 else ((there.filter fun e => e.2.unit == x.unit).map fun e => g.bufBytes e.1).sum
  let room (l : List Place) : Nat := (l.map fun x => bufCap k - used x).foldl Nat.max 0
  let fits (x : Place) : Bool := need + used x ≤ bufCap k
  let miss (reason need has : Nat) : Except Miss Att := .error
    { reason := reason, phase := ph, node := n, chan := 0xFFFF, need := need, has := has, core := 0xFFFF, link := 0xFF, placed := a.placed
      routed := a.routed, cell := none }
  let held := free.filter (pins.allow a n)
  let short := (need + 7) / 8
  if free.isEmpty then miss (match k with | 0 => 2 | 1 => 4 | _ => 3) 1 0
  else if !(free.any fits) then miss 6 short (room free / 8)
  else if held.isEmpty then miss 2 1 free.length
  else if !(held.any fits) then miss 6 short (room held / 8)
  else
    let ms := (there.filter fun e => g.chans.any fun c => !c.barrier && !c.selector && c.pnode == e.1 && c.cnode == n).map (·.2)
    let dist (x m : Place) : Nat := (x.pos.1 - m.pos.1) + (m.pos.1 - x.pos.1) + (x.pos.2 - m.pos.2).natAbs
    let cost (x : Place) : Nat := (ms.map (dist x)).sum + 2 * (there.filter fun e => e.2.unit == x.unit).length
    match cheapest cost (held.filter fun x => fits x && !avoid.contains (n, x)) with
    | none => miss 5 1 0
    | some x => ({ a with place := tput a.place n (some x), placed := a.placed + 1, cells := a.cells ++ [x.cell] } : Att).routeAll g unsound
        hs ph n x g.chans.zipIdx

/-- The nodes of a phase, one after another. -/
def Att.putAll (g : Graph) (unsound : List Cell) (rg : Region) (pins : Pins) (hs : List Nat) (avoid : List (Nat × Place)) (ph : Nat) :
    List Nat → Att → Except Miss Att
  | [], a => .ok a
  | n :: ns, a => match a.put g unsound rg pins hs avoid ph n with
    | .ok a => a.putAll g unsound rg pins hs avoid ph ns
    | .error m => .error m

/-- Attempt(G, region, avoid): the phases one after another. -/
def attempt (g : Graph) (unsound : List Cell) (rg : Region) (pins : Pins) (avoid : List (Nat × Place)) : List Nat → Att → Except Miss Att
  | [], a => .ok a
  | ph :: phs, a => match ({ a with lanes := [] } : Att).putAll g unsound rg pins g.handlerNodes avoid ph (g.order g.handlerNodes ph) with
    | .ok a => attempt g unsound rg pins avoid phs a
    | .error m => .error m

/-! ## Place (R118, R137, R193) -/

def Graph.countKinds (g : Graph) (ks : List Nat) : Nat := (g.nodes.filter fun n => ks.contains n.kind).length

/-- The declared ranges of a graph at given values: those that no stream derives. -/
def Graph.declaredRanges (g : Graph) : Nat := g.ranges.length - (g.nodes.filter fun n => n.shape.isSome && (n.portAt 15).isNone).length

/-- The first item of R118's table that exceeds the region's limit: its count and the limit. Every channel record counts as a channel (assumption 92). -/
def Graph.limit (g : Graph) (width : Nat) : Option (Nat × Nat) :=
  [(g.countKinds [0, 5], 4096), (g.chans.length, 16384), (g.countKinds [1], 64 * width), (g.countKinds [2, 3], 8 * width),
    (g.sites.length, 64), (g.declaredRanges, 256), (g.phases.length, 16), (g.countKinds [4], 256)].find? fun x => x.2 < x.1

/-- The head checks of one phase: the reason, the cells needed and the free sound cells. -/
def Graph.headMiss (g : Graph) (hs : List Nat) (free : Nat → Nat) (ph : Nat) : Option (Nat × Nat × Nat) :=
  let count (ks : List Nat) : Nat := (g.nodes.zipIdx.filter fun (d, n) => ks.contains d.kind && g.stands hs ph n).length
  let ops := count [0, 5] + (if g.countKinds [4] = 0 then 0 else 1)
  if free 0 < ops then some (2, ops, free 0)
  else if free 1 < count [1] then some (4, count [1], free 1)
  else if free 2 < count [2, 3] then some (3, count [2, 3], free 2)
  else none

/-- The passes with their rip-up: at most five attempts. -/
def passesOf (g : Graph) (unsound : List Cell) (rg : Region) (pins : Pins) : Nat → Nat → List (Nat × Place) → Except (Nat × Miss) Att
  | 0, pass, avoid => (match attempt g unsound rg pins avoid (List.range g.phases.length) Att.init with
    | .ok a => .ok a
    | .error m => .error (pass, m))
  | f + 1, pass, avoid => match attempt g unsound rg pins avoid (List.range g.phases.length) Att.init with
    | .ok a => .ok a
    | .error m => match m.reason == 5, m.cell with
      | true, some x => passesOf g unsound rg pins f (pass + 1) (avoid ++ [(m.node, x)])
      | _, _ => .error (pass, m)

/-- Place(G, region), under a die's sound map and generation. -/
def placeIn (g : Graph) (unsound : List Cell) (sgen : Nat) (rg : Region) (pins : Pins) : Except Fit Att :=
  let free (k : Nat) : Nat := (regionCells unsound rg k).length
  let base : Fit :=
    { reason := 7, passes := 0, die := rg.die, origin := rg.col, width := rg.width, phase := 0, node := 0xFFFF, chan := 0xFFFF, need := 0
      has := 0, core := 0xFFFF, link := 0xFF, sgen := sgen, placed := 0, routed := 0, freectx := free 0 }
  match g.limit rg.width with
  | some (n, l) => .error { base with need := n, has := l }
  | none =>
    match (List.range g.phases.length).findSome? fun ph => (g.headMiss g.handlerNodes free ph).map fun m => (ph, m) with
    | some (ph, reason, n, h) => .error { base with reason := reason, phase := ph, need := n, has := h }
    | none => match passesOf g unsound rg pins 4 0 [] with
      | .ok a => .ok a
      | .error (pass, m) => .error
        { base with reason := m.reason, passes := pass, phase := m.phase, node := m.node, chan := m.chan, need := m.need, has := m.has
                    core := m.core, link := m.link, placed := m.placed, routed := m.routed }

/-! ## Candidate regions (R135) -/

/-- A column holds a configuration of an instance other than one, or is kept for one of the same virtual device that is away from a shared
strip; no column of a die that has tripped is free (assumption 28). -/
def State.colBusy (s : State) (own : Option Nat) (vd die col : Nat) : Bool :=
  (s.die die).tripped ||
  s.runs.any fun r => (r.holdsCells || r.vd == vd) && some r.id != own && r.die == die && r.col ≤ col && col < r.col + r.width

/-- The maximal runs of free columns of a list of adjacent columns, as (first, length). -/
def runsOf (busy : Nat → Bool) : List Nat → List (Nat × Nat)
  | [] => []
  | c :: cs =>
    if busy c then runsOf busy cs
    else match runsOf busy cs with
      | (f, l) :: rest => if f = c + 1 then (c, l + 1) :: rest else (c, 1) :: (f, l) :: rest
      | [] => [(c, 1)]

/-- The free runs of a virtual device's strips on a die, by ascending first column. -/
def State.freeRuns (s : State) (own : Option Nat) (vd die : Nat) : List (Nat × Nat) :=
  (List.range 32).flatMap fun c => match s.strips.find? fun p => p.die == die && p.col == c && p.holders.contains vd with
    | some p => runsOf (s.colBusy own vd die) ((List.range p.width).map fun i => p.col + i)
    | none => []

/-- The minimum width of a graph. -/
def Graph.minWidth (g : Graph) : Nat :=
  Nat.max (Nat.max ((g.countKinds [0, 5] + 127) / 128) ((g.countKinds [1] + 63) / 64)) (Nat.max ((g.countKinds [2, 3] + 7) / 8) 1)

/-- Widths W, 2W, 4W and so on up to a length. -/
def widths : Nat → Nat → Nat → List Nat
  | 0, _, _ => []
  | f + 1, w, l => if w ≤ l then w :: widths f (2 * w) l else []

def regionDie (p : Nat) : Nat := bits p 0 8
def regionFirst (p : Nat) : Nat := bits p 8 8
def regionCount (p : Nat) : Nat := bits p 16 8
def regionDies (p : Nat) : List Nat := if regionDie p = 0xFF then List.range 4 else [regionDie p]

/-- A region field is within its range (R74). -/
def regionOk (p : Nat) : Bool := p < 2 ^ 24 && (regionDie p ≤ 3 || regionDie p == 0xFF) && regionCount p ≤ 32

/-- The candidate regions of a region field, in order. -/
def State.candidates (s : State) (own : Option Nat) (vd : Nat) (g : Graph) (p : Nat) : List Region :=
  (regionDies p).flatMap fun d =>
    let free := s.freeRuns own vd d
    if regionCount p = 0 then
      free.flatMap fun (f, l) => (widths 6 g.minWidth l).map fun w => { die := d, col := f, width := w : Region }
    else if free.any fun (f, l) => f ≤ regionFirst p && regionFirst p + regionCount p ≤ f + l then
      [{ die := d, col := regionFirst p, width := regionCount p }]
    else []

/-- NOREGION: no candidate. Fields of an attempt that was not made are free values where the request names no value (assumption 24). -/
def State.noRegion (s : State) (own : Option Nat) (vd : Nat) (g : Graph) (p : Nat) : Fit :=
  let f (i : Nat) : Nat := Config.freeNat (s.free + i)
  let named := regionCount p ≠ 0
  let one := regionDie p ≤ 3
  { reason := 1, passes := 0, die := if one then regionDie p else f 0, origin := if named then regionFirst p else f 1
    width := if named then regionCount p else f 2, phase := 0, node := 0xFFFF, chan := 0xFFFF
    need := if named then regionCount p else g.minWidth
    has := ((regionDies p).flatMap fun d => (s.freeRuns own vd d).map (·.2)).foldl Nat.max 0, core := 0xFFFF, link := 0xFF
    sgen := if one then (s.die (regionDie p)).sgen else f 3, placed := 0, routed := 0, freectx := f 4 }

/-- The first candidate that succeeds, or the last failure. `check` is what a re-placement asks of a placement beyond Place (R189). -/
def State.tryRegions (s : State) (g : Graph) (pins : Region → Pins) (check : Region → Att → Bool) (last : Fit) :
    List Region → Except Fit (Region × Att)
  | [] => .error last
  | rg :: rest =>
    let die := s.die rg.die
    match placeIn g die.unsound die.sgen rg (pins rg) with
    | .error f => s.tryRegions g pins check f rest
    | .ok a =>
      if check rg a then .ok (rg, a)
      else s.tryRegions g pins check
        { reason := 2, passes := 0, die := rg.die, origin := rg.col, width := rg.width, phase := 0, node := 0xFFFF, chan := 0xFFFF, need := 1
          has := 0, core := 0xFFFF, link := 0xFF, sgen := die.sgen, placed := a.placed, routed := a.routed
          freectx := (regionCells die.unsound rg 0).length } rest

/-! ## The placement cache (R141) -/

/-- The launched values that enter an expression of a graph. -/
def Graph.usedParams (g : Graph) (params : List Nat) : List Nat :=
  (params.zipIdx.filter fun (_, i) => g.exprs.any fun bs => usesParam i 65 bs).map (·.1)
where
  usesParam (i : Nat) : Nat → List Byte → Bool
    | 0, _ => false
    | _, [] => false
    | n + 1, b :: bs =>
      if b.toNat = 0xFF then false else if b.toNat = i then true
      else if b.toNat = 0x40 then usesParam i n (bs.drop 8) else usesParam i n bs

/-- A placement enters its die's cache, or is found there and becomes the newest; of 64 the least recently used leaves. A hit gives what
Place gives, so the placement itself is always that of Place. -/
def Die.cachePut (d : Die) (e : PlaceEntry) : Die :=
  let rest := d.cache.filter fun x => !(x.handle == e.handle && x.width == e.width && x.digest == e.digest)
  let kept := if rest.length < 64 then rest
    else
      let old := rest.foldl (fun m x => Nat.min m x.use) e.use
      rest.filter fun x => x.use != old
  { d with cache := kept ++ [e] }

/-- Handles are a virtual device's own; the key names both. -/
def cacheKey (vd handle : Nat) : Nat := vd * 2 ^ 32 + handle

def State.cachePlace (s : State) (handle : Nat) (digest : List Nat) (rg : Region) (a : Att) : State :=
  let s := s.modDie rg.die fun d => d.cachePut
    { handle := handle, width := rg.width, digest := digest, place := a.place, col := rg.col, cells := a.cells.eraseDups, use := s.order }
  { s with order := s.order + 1 }

/-- Every entry of an object leaves the caches. -/
def State.cacheDrop (s : State) (handle : Nat) : State :=
  (List.range 4).foldl (fun s d => s.modDie d fun x => { x with cache := x.cache.filter fun e => e.handle != handle }) s

end Sys2Proof.Machine
end

