-- ==== Sys2Proof/Machine/Launch.lean ====
section
/-! DEFINITION. Starting an instance: its parameters, areas, region and first configuration, and the LAUNCH instruction
(03 R76, R82, R89, 05 R119, R133, 07 R178, R186, 08 R195, 11 R302, 17 R441-R442). -/

namespace Sys2Proof.Machine

/-- The count of blown fuses of a key domain (R81). -/
def State.fuse (s : State) (domain : Nat) : Nat := tget 0 s.fuses domain

/-- The security version of a signed object is acceptable (R81, R82). -/
def State.secOk (s : State) (o : Obj) : Bool := !o.signed || s.fuse o.domain ≤ o.secver

/-- An object has a live instance (R302). -/
def State.hasInstance (s : State) (vd handle : Nat) : Bool := s.runs.any fun r => r.vd == vd && r.handle == handle

/-- A loaded object of a virtual device that no UNLOAD_OBJECT has withdrawn. -/
def State.object (s : State) (vd handle : Nat) : Option Obj := (s.vd vd).objs.find? fun o => o.handle == handle && !o.unloading

/-- The launched values: the block at an address, or the defaults (R74, R132); none where the block is not mapped or a default does not
evaluate. -/
def State.launchParams (s : State) (vd : Nat) (o : Obj) (addr : Nat) : Option (List Nat) :=
  if addr = 0 then o.graph.defaults o.dataBase o.constBase
  else (s.vBytes vd addr (8 * o.graph.params.length)).map fun bs => (List.range o.graph.params.length).map fun i => fld bs (8 * i) 8

/-- The graph at the launched values, if its expressions evaluate and, where they decide a range or a shape, its pairs pass (R76, R127). -/
def Obj.launched (o : Obj) (params : List Nat) : Option Graph :=
  match o.graph.resolve { params := params, data := o.dataBase, const := o.constBase } with
  | none => none
  | some g => if o.dynamic && !g.pairsOk o.code then none else some g

/-- Bit `b` of leaf `l` as a virtual device has it now (R88, R89). -/
def State.leaf (s : State) (vd l : Nat) : Word :=
  let full : Word := match l with | 0 => 0x3FFFF | 1 => 0x3F | _ => 0
  if vd = 0 then full else full &&& tget (BitVec.allOnes 64) (s.vd vd).featmask l

/-- The sixteen masked leaves. -/
def State.leavesOf (s : State) (vd : Nat) : Table Word := (List.range 16).foldl (fun t l => tset 0 t l (s.leaf vd l)) []

/-- Every bit of the FEATURES words is in the masked leaves. -/
def State.hasWords (s : State) (vd : Nat) (ws : List Nat) : Bool :=
  ws.zipIdx.all fun (w, l) => BitVec.ofNat 64 w &&& ~~~(s.leaf vd l) == 0

/-- The payload words past the `n`th are zero (R74). -/
def restZero (c : Cmd) (n : Nat) : Bool := ([c.p0, c.p1, c.p2, c.p3, c.p4, c.p5].drop n).all (· == 0)

/-- The checks 1 to 6 of R76: the status of the first that fails, or the launched values and the object. -/
def launchChecks (vd : Nat) (s : State) (c : Cmd) : Except Nat (Obj × List Nat) :=
  if !restZero c 4 || !regionOk c.p2.toNat then .error 1
  else match s.object vd c.p0.toNat with
  | none => .error 3
  | some o =>
    if s.hasInstance vd o.handle then .error 5
    else if !s.secOk o then .error 7
    else if !s.hasWords vd o.featReq then .error 13
    else if c.p3 ≠ 0 && !s.mapped vd c.p3.toNat 64 true then .error 8
    else match s.launchParams vd o c.p1.toNat with
    | none => .error 8
    | some ps => if (o.launched ps).isNone then .error 8 else .ok (o, ps)

/-! ## Save areas (R178) -/

def Graph.tokBytes (g : Graph) (c : ChanD) : Nat :=
  match ((g.nodes[c.pnode]?).bind fun d => d.portAt c.pport).elim 0 (·.kind) with
  | 0 => 8
  | 1 => 256
  | _ => 544

/-- The largest image that an instance on so many columns and operator cores can produce: its fixed records, its channels full, the banks and tile
objects of the cores that hold an operator, and as many segment records as its region has contexts (assumption 25). -/
def imageSize (g : Graph) (width cores : Nat) : Nat :=
  let ctxRec := 16 + 9824 + 272 * 12
  let chans := (g.chans.zipIdx.map fun (c, i) => if c.barrier then 0 else 24 + g.capacity i * g.tokBytes c).sum
  let nodes := (g.nodes.map fun n => match n.kind with
    | 1 => 32 + 544
    | 2 => 144
    | 3 => 144
    | 4 => 0
    | _ => ctxRec).sum
  let segs := if g.countKinds [4] = 0 then 0 else 128 * width * ctxRec
  let core := 16 * 33792 + 8 * (64 + 4096) + 4 * (64 + 65536 + 512 + 128) + 256 * (64 + 2048 + 256)
  let region := 80 + 256 * 16 + 1024 * 80 + 4 * g.sites.length + 16 * 48 + 8 * 16 * (16 * width + 4 * width + 1) + 512
  64 + chans + nodes + segs + cores * core + region

/-- The largest image that a placed instance can produce (R178). -/
def imageMax (g : Graph) (rg : Region) (a : Att) : Nat :=
  imageSize g rg.width ((a.place.filterMap fun e => e.2.bind fun p => if p.isCtx then some p.core else none).eraseDups).length

/-- The least that a placement of a graph can need for a save area: one column, and its operators eight to a core. -/
def imageLeast (g : Graph) : Nat := imageSize g 1 ((g.countKinds [0, 5] + 7) / 8)

/-- Bytes of the argument records of a segment pool, which are mapped; the headers, above them, are not (R195, R287). -/
def argLen : Nat := 1024 * 64

/-- Bytes of the segment pool (R195). -/
def poolLen (g : Graph) : Nat := if g.countKinds [4] = 0 then 0 else 1024 * 80

/-! ## The start -/

/-- A new instance in its region, before its configuration (R76, R119, R133). -/
def State.newRun (s : State) (q : LatheReq) (o : Obj) (g : Graph) (rg : Region) (a : Att) (areas : List (Nat × Nat)) : Run :=
  { id := s.nextRun, handle := q.handle, vd := q.vd, die := rg.die, col := rg.col, width := rg.width, graph := g, place := a.place
    st := .running, phase := 0, heldSel := none, chans := [], nodes := [], leaves := q.leaves, argbase := q.argbase
    params := q.params, codeBase := o.codeBase, codeLen := o.codeLen, constBase := o.constBase, constLen := o.constLen, dataBase := o.dataBase
    dataLen := o.dataLen, checked := g.isChecked, eligible := g.isEligible o.code, debug := q.debug, conds := [], segs := []
    nextSeg := 1, est := [], rings := [], bars := [], bankTok := [], watchdog := 0, hq := [], cut := none, cutNo := 0
    cutDue := s.now + g.marker * 1800, cutReq := none, saved := [], savedElems := []
    poolBase := (areas.head?.map fun x => if x.2 = 0 then 0 else devVa x.1).getD 0, reserved := areas.filter fun x => x.2 != 0
    cmd := q.cmd, pauseCmds := [], parent := q.parent
    poolFull := false, poolParked := [], rolling := false, confAt := s.cycle (coreId rg.die rg.col 0), heldFor := 0, fullFor := 0, sgen := (s.die rg.die).sgen
    ctxStore := [], waitSegs := [], resumeCmd := none, fired := false, displaced := false, away := false }

/-- The handler subgraph stands in its cells from the start. -/
def State.configHandler (s : State) (rid : Nat) : State :=
  match s.run rid with
  | none => s
  | some r =>
    let hs := r.graph.handlerNodes
    let strs := hs.filter fun n => (r.node n).any fun d => d.kind == 2 || d.kind == 3
    strs.foldl (fun s n => s.latchStream rid n) (s.unshelve rid hs)

/-- The parameter block of an instance (assumption 4). -/
def argBlock (vd rid : Nat) : Nat := jbase vd + reservedLen + rid % 3568 * 512

/-- An instance starts in its region: its areas are taken, the DATA image and the parameter block are written, and the first configuration
takes effect; none where the grant has no room. -/
def State.startRun (s : State) (q : LatheReq) (o : Obj) (g : Graph) (rg : Region) (a : Att) : Option State :=
  let size := imageMax g rg a
  match s.takeAreas q.vd [poolLen g, size, size] with
  | none => none
  | some areas =>
    let q := { q with argbase := argBlock q.vd s.nextRun }
    let r := s.newRun q o g rg a areas
    let pool := match areas with | x :: _ => areaPages (s.vd q.vd).grant q.vd (x.1, Nat.min x.2 argLen) false | [] => []
    let s := { s with runs := s.runs ++ [r], nextRun := s.nextRun + 1 }
    let s := (s.clearRegion r).addPages q.vd pool
    let s := (s.vWrite q.vd q.argbase (q.params.flatMap fun v => natLe 8 v)).vWrite q.vd o.dataBase o.dataImg
    let s := (s.configure r.id).configHandler r.id
    match s.run r.id with
    | none => some s
    | some r => some (if r.eligible then s.modRun r.id fun x => { x with saved := [s.wholeCut r 0 .periodic] } else s)

/-- A launch ends before its instance starts: the command gets its status, or the parent its report, and goes on (R76, R442). -/
def State.launchFail (s : State) (q : LatheReq) (status result : Nat) : State :=
  let s := s.finishOpt q.cmd status 0 result
  match q.parent with
  | none => s
  | some cid => (s.launchReport q.vd status 0 0 (srcOfCid cid) q.handle 0 result).unpark cid

/-- A child whose object an advance point has barred is not started: its LAUNCH raises SECVER in the context that waits for it (R82, R441). -/
def State.childBarred (s : State) (cid handle : Nat) : State :=
  let s := (s.unpark cid).modCtx cid fun c => { c with pc := c.pc - 8, stepDue := none }
  s.raiseAt cid 0x19 ((s.fetch cid).getD 0) (s.ctx cid).pc handle 0

/-- A launch that a test refuses at its dispatch point. -/
def State.launchRefused (s : State) (q : LatheReq) (status : Nat) : State :=
  match q.parent with
  | some cid => if status = 7 then s.childBarred cid q.handle else s.launchFail q status 0
  | none => s.launchFail q status 0

/-- A write of APBASE is in effect from the next dispatch point on (R85, assumption 84). -/
def State.applyAp (s : State) (vd : Nat) : State := s.modVd vd fun v => { v with apbase := v.apNext.getD v.apbase, apNext := none }

/-- The failure-to-fit record, where one was asked for (R142). -/
def State.fitRecord (s : State) (vd addr : Nat) (f : Fit) : State := if addr = 0 then s else s.vWrite vd addr (f.bytes s.time)

/-- What stands at the dispatch point of a launch: for a host's command the checks of R76 made there, with the parameter block copied and the leaves
latched there (R74, R82, R89); for a child the values that its LAUNCH copied and the leaves of its parent, and the tests of R441 that may come out otherwise
by then. -/
def State.atDispatch (s : State) (q : LatheReq) : Except Nat (LatheReq × Obj) :=
  match q.cmd.bind s.pending with
  | some p => match launchChecks q.vd s p.cmd with
    | .error st => .error st
    | .ok (o, ps) => .ok ({ q with params := ps, leaves := s.leavesOf q.vd }, o)
  | none => match s.object q.vd q.handle with
    | none => .error 3
    | some o => if !s.secOk o then .error 7 else if s.hasInstance q.vd q.handle then .error 5 else .ok (q, o)

/-- A request for a launch is served (R76, R137-R142): the instance starts, or the launch ends with NOFIT or NOMEM. This is a host command's dispatch
point (R75), at which a write of APBASE is in effect (R85). -/
def State.serveLaunch (s : State) (q : LatheReq) : State :=
  let s := if q.cmd.isSome then s.applyAp q.vd else s
  match s.atDispatch q with
  | .error st => s.launchRefused q st
  | .ok (q, o) => match o.launched q.params with
    | none => s.launchFail q 8 0
    | some g =>
      match s.tryRegions g (fun _ => g.pins) (fun _ _ => true) (s.noRegion none q.vd g q.region) (s.candidates none q.vd g q.region) with
      | .error f =>
        let s := { s with free := s.free + 5 }
        if (s.takeAreas q.vd [poolLen g, imageLeast g, imageLeast g]).isNone then s.launchFail q 12 0
        else (s.fitRecord q.vd q.record f).launchFail q 9 f.reason
      | .ok (rg, a) =>
        let s := s.cachePlace (cacheKey q.vd q.handle) (o.graph.usedParams q.params) rg a
        match s.startRun q o g rg a with
        | none => s.launchFail q 12 0
        | some s' =>
          let s' := match q.cmd with
            | some k => s'.modPending k fun c => { c with dispatched := true }
            | none => s'
          match q.parent with
          | some cid => (s'.modCtx cid fun c => { c with child := s.nextRun }).unpark cid
          | none => s'

/-! ## LAUNCH, the instruction (R441, R442) -/

/-- The units that a graph costs at the Lathe's queue: its operators and channels (R101). -/
def Graph.latheUnits (g : Graph) : Nat := g.countKinds [0, 5] + g.chans.length

/-- The tests of R441 in their order; the context parks until the child's dispatch point, or goes on beside a launch report. The parameter block is read
once the parent's own writes have been performed. -/
def deviceLaunchBody (a b c : Reg) (dbg : Bool) (s : State) (cid : Nat) : Eff :=
  let x := s.ctx cid
  let h := (x.xr a).toNat
  let p := (x.xr b).toNat
  let rgn := (x.xr c).toNat
  match s.ctxRun cid with
  | none => .next s
  | some r =>
    let report (status : Nat) : Eff := .next (s.launchReport r.vd status 0 0 (srcOfCid cid) h 0 0)
    match s.object r.vd h with
    | none => report 3
    | some o =>
      if !s.secOk o then .trap 0x19 h 0
      else if rgn ≥ 2 ^ 24 || (regionDie rgn > 3 && regionDie rgn ≠ 0xFF) then report 1
      else if s.unacked cid then .park s (Park.of .fence)
      else match s.launchParams r.vd o p with
      | none => report 8
      | some params =>
        if (o.launched params).isNone then report 8
        else if s.hasInstance r.vd h then report 5
        else
          let q : LatheReq :=
            { vd := r.vd, handle := h, region := rgn, record := 0, argbase := 0, params := params, leaves := r.leaves, debug := dbg
              cmd := none, parent := some cid, replace := none, owed := o.graph.latheUnits }
          .wait { s with lathe := s.lathe ++ [q] } (Park.of .launch)

/-- LAUNCH of an instruction (R441). -/
def execDeviceLaunch (h : Hdr) (a b c : Reg) (dbg : Bool) (s : State) : Step :=
  issue h [(0, 11)] 0 (certain (deviceLaunchBody a b c dbg)) s

end Sys2Proof.Machine
end

