-- ==== Sys2Proof/Machine/Restore.lean ====
section
/-! DEFINITION. The restore of a cut, in its cells or in new ones: RESUME, REPLACE and ROLLBACK; LATHE_PLACE; and FAULT_DELIVERY
(07 R168-R169, R172, R177, R186-R193, 13 R326, R329-R330, R334-R335). -/

namespace Sys2Proof.Machine

/-! ## What maps to what (R189, R190) -/

/-- The operators that the placement of a cut put on a core, by node index. -/
def Cut.opsAt (c : Cut) (core : Nat) : List Nat :=
  c.place.filterMap fun e => match e.2 with
    | some (.ctx cid) => if coreOf cid = core then some e.1 else none
    | _ => none

/-- The core of a region to which a core of a cut's placement maps. -/
def Cut.mapCore (c : Cut) (rg : Region) (place : Table (Option Place)) (core : Nat) : Nat :=
  match c.opsAt core with
  | n :: _ => ((tget none place n).map (·.core)).getD core
  | [] => coreId rg.die (rg.col + (colOf core - c.col)) (rowOf core)

def SavedObj.sharers : SavedObj → List Nat
  | .tile _ _ t => t.sharers
  | .acc _ _ a => a.sharers
  | .mantel _ _ t => t.sharers
  | .bank _ _ _ _ _ sh => sh

/-- The kind and the number of a core object. -/
def SavedObj.name : SavedObj → Nat × Nat
  | .tile _ n _ => (0, n)
  | .acc _ n _ => (1, n)
  | .mantel _ n _ => (2, n)
  | .bank _ n _ _ _ _ => (3, n)

def Run.isOpNode (r : Run) (n : Nat) : Bool := (r.node n).any fun d => d.kind == 0 || d.kind == 5

/-- The saved contexts that have an arrival outstanding at a barrier. -/
def Cut.arrivers (c : Cut) (k : BarKey) : List SavedCtx :=
  c.ctxs.filter fun x => (x.ctx.bars.any fun a => a.key == k) || x.ctx.parkedAt k

/-- The lowest core of an old quad that holds an arriver of an episode. -/
def Cut.quadCore (c : Cut) (k : BarKey) : Nat :=
  ((c.arrivers k).map (·.core)).foldl Nat.min (k.domain + 33)

/-- Every pair of a first element with one of a list. -/
def pairsWith (a : Nat) (l : List Nat) : List (Nat × Nat) := (l.filter (· != a)).map fun x => (a, x)

/-- Every pair of a list. -/
def allPairs : List Nat → List (Nat × Nat)
  | [] => []
  | a :: l => pairsWith a l ++ allPairs l

/-- What binds the nodes of a saved instance in a region (R189, R190). -/
def Run.restorePins (r : Run) (c : Cut) (rg : Region) : Pins :=
  let lead (k : Nat) : List Nat := (c.opsAt k).take 1
  let objPairs := c.objs.flatMap fun o =>
    let sh := (o.owner :: o.sharers).filter r.isOpNode
    let mates := if o.name.1 = 3 && o.sharers.length > 8 then sh ++ c.opsAt o.core else sh
    allPairs (if r.isOpNode o.owner then mates else lead o.core ++ mates)
  let coreEps := (c.bars.filter fun e => e.key.scope == 1).flatMap fun e =>
    allPairs (lead e.key.domain ++ ((c.arrivers e.key).map (·.node)).filter r.isOpNode)
  let quads := (c.bars.filter fun e => e.key.scope == 2).map fun e => (c.quadCore e.key, ((c.arrivers e.key).map (·.node)).filter r.isOpNode)
  { same := r.graph.pins.same ++ objPairs ++ coreEps
    quad := quads.flatMap fun (k, ns) => match lead k with
      | [] => []
      | a :: _ => pairsWith a ns
    fixed := quads.flatMap fun (k, ns) => if (lead k).isEmpty then ns.map fun n => (n, c.mapCore rg [] k, true) else []
    objs := c.objs.flatMap fun o => (((o.owner :: o.sharers).filter r.isOpNode).eraseDups).map fun n => (n, o.name.1, o.name.2, o.core) }

/-- The old cores that carry state of their own: objects and rings of segment kinds, and barrier episodes. -/
def Run.carrying (r : Run) (c : Cut) : List Nat :=
  ((c.objs.filterMap fun o => if r.isOpNode o.owner then none else some o.core) ++
   (c.rings.filterMap fun g => if r.isOpNode g.node then none else some g.core) ++
   (c.bars.filterMap fun e => match e.key.scope with
     | 1 => some e.key.domain
     | 2 => some (c.quadCore e.key)
     | _ => none)).eraseDups

/-- No two of a list are equal. -/
def allApart : List Nat → Bool
  | [] => true
  | a :: l => !l.contains a && allApart l

/-- The core mapping of a placement stands (R189). -/
def State.mapOk (s : State) (r : Run) (c : Cut) (rg : Region) (a : Att) : Bool :=
  let sound (k : Nat) : Bool :=
    dieOf k == rg.die && rg.col ≤ colOf k && colOf k < rg.col + rg.width && !(s.die rg.die).unsound.contains (.core k)
  let segCores := (c.ctxs.filter fun x => x.ctx.role.isSeg).map (·.core)
  let news := (r.carrying c).map (c.mapCore rg a.place)
  news.all sound && (segCores.all fun k => sound (c.mapCore rg a.place k)) && allApart news

/-! ## The restore -/

/-- A barrier's name after a move (R177, R189). -/
def Cut.mapKey (c : Cut) (mc : Nat → Nat) (k : BarKey) : BarKey :=
  match k.scope with
  | 1 => { k with domain := mc k.domain }
  | 2 => { k with domain := quadOf (mc (c.quadCore k)) }
  | _ => k

/-- A saved context's barriers after the restore: an episode that had completed at the cut, or outside the instance since, is one that it may depart
from, or has departed from; the names of the others are mapped (R177). -/
def SavedCtx.rebar (x : SavedCtx) (c : Cut) (mc : Nat → Nat) (rid : Nat) (outer : List Episode) : SavedCtx :=
  let k := x.ctx
  let open' (b : BarKey) : Bool := outer.any fun e => e.key == b && (e.who.contains (awayCid rid x.cid) || e.who.contains x.cid)
  let isOver (b : BarKey) : Bool := (k.bars.any fun a => a.key == b && a.done) || (3 < b.scope && !open' b)
  let map' (l : List Arrival) : List Arrival := l.map fun (a : Arrival) =>
    if a.key.scope ≤ 3 then { a with key := c.mapKey mc a.key } else { a with done := a.done || !open' a.key }
  match k.park with
  | some p =>
    let b : BarKey := { scope := p.a, id := p.b, domain := p.l.headD 0 }
    if p.kind != ParkKind.bar then { x with ctx := { k with bars := map' k.bars } }
    else if isOver b then
      let gone := if b.scope = 3 then insertNew k.departedBars b.id else k.departedBars
      { x with ctx := { k with bars := map' (k.bars.filter fun a => a.key != b), departedBars := gone, park := none } }
    else { x with ctx := { k with bars := map' k.bars, park := some { p with l := if b.scope ≤ 3 then [(c.mapKey mc b).domain] else p.l } } }
  | none => { x with ctx := { k with bars := map' k.bars } }

/-- A restored chunk's residue recomputed (R191): the chunk with its new verifier, or what was found. -/
def recheck (vkind vid : Nat) (h : ChunkHdr) (p : BitVec 4096) : Except Nat Token :=
  match checkChunk h p vkind vid with
  | .ok h' _ => .ok (.chunk { h with vkind := h'.vkind, vid := h'.vid } p)
  | .bad found => .error found

/-- The kind and the coordinate that the consumer of a channel verifies under. -/
def verifierAt (p : Option Place) : Nat × Nat :=
  match p with
  | some (.edge d c n i) => (1, (Place.edge d c n i).core)
  | some p => (0, p.core)
  | none => (0, 0)

/-- A restored token at the node that held it: a chunk is checked, and takes its new verifier by `put`, or raises INTEGRITY (R191). -/
def State.recheckTok (s : State) (r : Run) (node : Nat) (t : Token) (put : Token → Run → Run) : State :=
  let (vk, vid) := verifierAt (r.placeOf node)
  match t with
  | .chunk h p => (match recheck vk vid h p with
    | .ok t => s.modRun r.id (put t)
    | .error found => s.integrity r.id (vid + vk * 2 ^ 14) 7 0 false h.vkind h.vid vk vid h.ident h.res found)
  | _ => s

/-- Every chunk of a run's channels, and every one that an INVARIANT holds, is checked as it is restored; a mismatch raises INTEGRITY at the element
that held it (R191, R278). -/
def State.recheckChans (s : State) (rid : Nat) : State :=
  match s.run rid with
  | none => s
  | some r =>
    let s := r.graph.chans.zipIdx.foldl (fun s (d, i) => (r.chan i).buf.zipIdx.foldl (fun s (t, j) =>
      s.recheckTok r d.cnode t fun t r => r.setChan i { r.chan i with buf := modAt (fun _ => t) j (r.chan i).buf }) s) s
    (List.range r.graph.nodes.length).foldl (fun s n => match (r.nodeS n).held with
      | some t => s.recheckTok r n t fun t r => r.setNodeS n { r.nodeS n with held := some t }
      | none => s) s

/-- The first free segment context of a core. -/
def State.freeCtx (s : State) (core : Nat) : Option Nat :=
  if (s.die (dieOf core)).unsound.contains (.core core) then none
  else ((List.range 8).map fun i => core * 8 + i).find? fun cid => (s.ctx cid).role == Role.idle

/-- Segments by ascending SEGID. -/
def bySegid : List SavedCtx → List SavedCtx
  | [] => []
  | x :: l => ins x (bySegid l)
where
  ins (x : SavedCtx) : List SavedCtx → List SavedCtx
    | [] => [x]
    | y :: l => if x.ctx.segid ≤ y.ctx.segid then x :: y :: l else y :: ins x l

/-- A saved segment context is restored, in its own context or, where it is moved or has waited for one, in a free context of its core; else it waits
under a name of its own. Answers where it is. -/
def State.putSeg (s : State) (rid : Nat) (moved : Bool) (core : Nat) (x : SavedCtx) : State × Nat :=
  let there := if moved || 2 ^ 64 ≤ x.cid then s.freeCtx core else some x.cid
  let w := waitCid rid x.ctx.segid
  match there with
  | some cid => (s.setCtx cid x.restored, cid)
  | none => (s.modRun rid fun r => { r with waitSegs := r.waitSegs ++ [{ x with core := core, cid := w }] }, w)

/-- A cut's records are loaded into a region: in the cells they were saved from, or moved (R188, R189). The region runs on afterwards. -/
def State.restoreCut (s : State) (rid : Nat) (c : Cut) (rg : Region) (place : Table (Option Place)) : State :=
  match s.run rid with
  | none => s
  | some r =>
    let moved : Bool := c.place != place || c.die != rg.die || c.col != rg.col
    let mc (k : Nat) : Nat := if moved then c.mapCore rg place k else k
    let s := if r.holdsCells then (s.holdTokens r).clearRegion r else s
    let outer := (s.vd r.vd).bars
    let r' : Run :=
      { r with
        die := rg.die, col := rg.col, width := rg.width, place := place, st := .running, phase := c.phase, heldSel := c.held
        chans := c.chans.map fun e => (e.1, { e.2 with fly := [], marked := false, late := [] : Chan })
        nodes := c.nodes.map fun e => (e.1, { e.2 with acted := 0 : NodeS }), conds := c.conds, segs := c.segs, est := c.est
        rings := c.rings.map fun (g : Ring) =>
          { g with parked := [], late := [], arriving := [], full := false
                   core := if r.isOpNode g.node then ((tget none place g.node).map (·.core)).getD g.core else mc g.core }
        nextSeg := c.nextSeg, bankTok := c.bankTok, watchdog := 0, cut := none, savedElems := [], poolFull := false, poolParked := []
        rolling := false, confAt := s.cycle (coreId rg.die rg.col 0), heldFor := 0, fullFor := 0, ctxStore := c.store
        waitSegs := [], fired := false, displaced := false, away := false }
    let s := (s.modRun rid fun _ => r').clearRegion r'
    -- Operators.
    let ops := c.ctxs.filter fun x => !x.ctx.role.isSeg
    let new (x : SavedCtx) : Nat := match tget none place x.node with
      | some (.ctx cid) => cid
      | _ => x.cid
    let s := ops.foldl (fun s x => s.setCtx (new x) (x.rebar c mc rid outer).restored) s
    -- Segments.
    let (s, segMap) := (bySegid (c.ctxs.filter fun x => x.ctx.role.isSeg)).foldl (fun (st : State × List (Nat × Nat)) x =>
      let (s, n) := st.1.putSeg rid moved (mc x.core) (x.rebar c mc rid outer)
      (s, st.2 ++ [(x.cid, n)])) (s, [])
    let cidMap := (ops.map fun x => (x.cid, new x)) ++ segMap
    let mcid (k : Nat) : Nat := ((cidMap.find? fun e => e.1 == k).map (·.2)).getD k
    -- Core objects, by their owner.
    let obj (o : SavedObj) : SavedObj := match o with
      | .acc k n a => .acc k n { a with queue := a.queue.map fun (t : MToken) => { t with cid := mcid t.cid } }
      | o => o
    let s := c.objs.foldl (fun s o =>
      let k := if r.isOpNode o.owner then ((tget none place o.owner).map (·.core)).getD o.core else mc o.core
      s.putObj k (obj o)) s
    let s := c.groups.foldl (fun s e => s.modCore (mc e.1) fun k => { k with groups := e.2 }) s
    -- Segments' contexts, barrier episodes, latches, chunks.
    let s := s.modRun rid fun r =>
      { r with segs := r.segs.map fun (g : Seg) => { g with cid := g.cid.map mcid }
               bars := c.bars.map fun (e : Episode) => { e with key := c.mapKey mc e.key, who := e.who.map mcid } }
    let back (w : Nat) : Nat := ((cidMap.find? fun e => awayCid rid e.1 == w || (2 ^ 64 ≤ w && e.1 == w)).map (·.2)).getD w
    let s := s.modVd r.vd fun v => { v with bars := v.bars.map fun (e : Episode) => { e with who := e.who.map back } }
    match s.run rid with
    | none => s
    | some r =>
      let strs := r.activeNodes.filter fun n => (r.node n).any fun d => d.kind == 2 || d.kind == 3
      (strs.foldl (fun s n => s.latchStream rid n) s).recheckChans rid

/-- A run goes on in its own cells from its newest cut (R188). -/
def State.resumeRun (s : State) (rid : Nat) : State :=
  match s.run rid with
  | none => s
  | some r => match r.saved.getLast? with
    | none => s
    | some c => s.restoreCut rid c { die := r.die, col := r.col, width := r.width } r.place

/-! ## Re-placement (R189-R192) -/

/-- A re-placement's areas: the old save areas go back and new ones are taken; none where the grant has no room. -/
def State.retake (s : State) (r : Run) (rg : Region) (a : Att) : Option State :=
  let pool := if r.poolBase = 0 then [] else r.reserved.take 1
  let size := imageMax r.graph rg a
  let s' := s.modRun r.id fun r => { r with reserved := pool }
  (s'.takeAreas r.vd [size, size]).map fun l => s'.modRun r.id fun r => { r with reserved := pool ++ l }

/-- A REPLACE is served: the instance moves and goes on, or stays paused (R189, R192). -/
def State.serveReplace (s : State) (q : LatheReq) (rid : Nat) : State :=
  match s.run rid with
  | none => s.finishOpt q.cmd 3 0 0
  | some r => match r.saved.getLast? with
    | none => s.finishOpt q.cmd 4 0 0
    | some c =>
      if r.st != .paused then s.finishOpt q.cmd 4 0 0
      else match s.tryRegions r.graph (r.restorePins c) (s.mapOk r c) (s.noRegion (some rid) r.vd r.graph q.region)
          (s.candidates (some rid) r.vd r.graph q.region) with
      | .error f => (({ s with free := s.free + 5 }).fitRecord r.vd q.record f).finishOpt q.cmd 9 0 f.reason
      | .ok (rg, a) => match s.retake r rg a with
        | none => s.finishOpt q.cmd 12 0 0
        | some s =>
          let used := ((s.object r.vd r.handle).map fun o => o.graph.usedParams r.params).getD []
          let s := s.cachePlace (cacheKey r.vd r.handle) used rg a
          (s.restoreCut rid c rg a.place).modRun rid fun r => { r with resumeCmd := q.cmd, sgen := (s.die rg.die).sgen }

/-- LATHE_PLACE: the `idx`th request of the Lathe's queue, once its Damper has granted it and no earlier one of its virtual device waits. The
request of a context that is no longer there is dropped; a child starts after every write of its parent (R137, R441). -/
def execLathePlace (s : State) : Step :=
  .next (match s.lathe[s.ev.idx]? with
    | none => s
    | some q =>
      let gone : Bool := match q.parent with
        | some cid => !((s.ctx cid).park.any fun p => p.kind == ParkKind.launch)
        | none => false
      let waits : Bool := match q.parent with
        | some cid => s.unacked cid
        | none => false
      if q.owed ≠ 0 || waits || (s.lathe.take s.ev.idx).any fun x => x.vd == q.vd then s
      else
        let s := { s with lathe := dropAt s.ev.idx s.lathe }
        if gone then s
        else match q.replace with
        | some rid => s.serveReplace q rid
        | none => s.serveLaunch q)

/-! ## Rollback (R186, R187) -/

/-- What an instance has under way outside its region is discarded with the rest of its state; its directed tokens are those that its cut holds (R395). -/
def State.dropFlight (s : State) (r : Run) (c : Cut) : State :=
  { s with directed := (s.directed.filter fun t => t.srcRun != some r.id) ++ c.sent, xchunks := s.xchunks.filter fun x => x.run != r.id
           flue := s.flue.map fun (f : Flt) => if f.run = some r.id then { f with held := none } else f }

/-- ROLLBACK: run `unit` is restored to its newest complete cut: in place, or within its region where the charge of the fault marked a cell of it.
A pause cut that the fault abandoned leaves the instance paused there (R172). A residue fault that the restore itself meets starts it again (R187). A region that no longer fits is lost (assumption 26). -/
def execRollback (s : State) : Step :=
  .next (match s.run s.ev.unit with
    | none => s
    | some r => match r.saved.getLast? with
      | none => s
      | some c =>
        if !r.rolling || r.st == .paused || r.st == .yielded || r.st == .ended || (match r.st with | .halted _ => true | _ => false) then s
        else
          let rg : Region := { die := r.die, col := r.col, width := r.width }
          let s := (s.dropFlight r c).modRun r.id fun r => { r with hq := [] }
          let s' : Option State :=
            if !r.displaced then some (s.restoreCut r.id c rg r.place)
            else match placeIn r.graph (s.die r.die).unsound (s.die r.die).sgen rg (r.restorePins c rg) with
            | .error _ => none
            | .ok a => if s.mapOk r c rg a then some ((s.restoreCut r.id c rg a.place).modRun r.id fun r => { r with sgen := (s.die rg.die).sgen }) else none
          match s' with
          | none => (s.modRun r.id fun r => { r with rolling := false }).haltRun r.id 0x100
          | some s =>
            if r.cutReq != some .pause || (s.run r.id).any (·.rolling) then s
            else (s.endPauses r 0).modRun r.id fun r =>
              { r with st := .paused, cutReq := none, pauseCmds := []
                       nodes := r.nodes.map fun e => (e.1, { e.2 with latches := [], latched := false : NodeS }) })

/-! ## The Flue (R326, R329, R330, R334, R335) -/

/-- The order of tokens for one handler: by TIME, then by the source key. -/
def Flt.before (a b : Flt) : Bool :=
  let key (f : Flt) : Nat := (f.src % 2 ^ 11) * 32 + f.src / 2 ^ 14 * 8 + f.src / 2 ^ 11 % 8
  a.time < b.time || (a.time == b.time && key a < key b)

/-- A window of a guard that is still open will report to the handler of a token's region with an earlier TIME (R116, R117, R326). -/
def State.guardFirst (s : State) (f : Flt) : Bool :=
  (List.range 4).any fun d => (s.die d).guards.any fun g => g.run == f.run && !g.sent && (s.guardToken g false).before f

/-- A token whose context is not held after all: its HELD is 0 (R327, R330). -/
def Flt.unheld (f : Flt) : Flt :=
  { f with isOver := true, held := none, body := if f.held.isSome then f.body.take 14 ++ natLe 1 0 ++ f.body.drop 15 else f.body }

/-- A token reaches its handler's queue, or, that queue being full, the fault queue; no context is held for it, and its context stays halted (R330). -/
def State.toHandler (s : State) (r : Run) (h : Nat) (f : Flt) : State :=
  if r.hq.length < 16 then
    let s := s.modRun r.id fun r => { r with hq := r.hq ++ [f] }
    match r.placeOf h with
    | some (.ctx cid) => s.wakeIdle (coreOf cid)
    | _ => s
  else
    let s := match f.held with
      | some cid => s.modCtx cid fun c => if c.held = some f then { c with held := none, park := c.park.map fun (p : Park) => { p with a := 1 } } else c
      | none => s
    s.fqWrite f.unheld

/-- FAULT_DELIVERY: the `idx`th token of the Flue reaches its handler's queue, or the fault queue where its region has none, has halted or is gone.
No token for one handler overtakes another, nor comes while one of an earlier place in their order may still be raised, and none reaches a handler during a
rollback. With `sub` = 1: the halted instance `unit`, which a
LAUNCH instruction started and whose tokens have all been delivered, leaves its region and its report is written (R335, R442). -/
def execFaultDelivery (s : State) : Step :=
  .next (if s.ev.sub = 1 then (if (s.run s.ev.unit).any fun r => r.cmd.isNone then s.reapHalted s.ev.unit else s)
    else match s.flue[s.ev.idx]? with
    | none => s
    | some f =>
      if (s.flue.zipIdx.any fun (g, i) => i != s.ev.idx && g.run == f.run && (g.before f || (i < s.ev.idx && !f.before g))) then s
      else
        let drop := { s with flue := dropAt s.ev.idx s.flue }
        match f.run.bind s.run with
        | none => drop.fqWrite f
        | some r => match r.graph.handler with
          | none => drop.fqWrite f
          | some h =>
            if (match r.st with | .halted _ => true | .ended => true | _ => false) then drop.fqWrite f
            else if r.rolling || s.time ≤ f.time || s.guardFirst f then s
            else drop.toHandler r h f)

end Sys2Proof.Machine
end

