-- ==== Sys2Proof/Machine/Qos.lean ====
section
/-! DEFINITION. SET_QOS, MAP and UNMAP, the withdrawal of a translation, the grant rounds of the Dampers, and the turns that sharers
take on a strip (03 R86, 04 R93-R99, R104, R109-R110, 11 R287, R290-R291, R299-R300). -/

namespace Sys2Proof.Machine

/-! ## Strips (R93-R95, R97-R99) -/

/-- Bits of a payload word that a field list does not name are zero. -/
def onlyBits (w : Nat) (mask : Nat) : Bool := w &&& mask == w

/-- The parts of a strip outside a range of columns of its die. -/
def Strip.outside (p : Strip) (die c0 c1 : Nat) : List Strip :=
  if p.die ≠ die || p.col + p.width ≤ c0 || c1 < p.col then [p]
  else
    (if p.col < c0 then [{ p with width := c0 - p.col }] else []) ++
    (if c1 + 1 < p.col + p.width then [{ p with col := c1 + 1, width := p.col + p.width - (c1 + 1) }] else [])

/-- An exclusive strip of virtual device 0. -/
def Strip.isFree (p : Strip) : Bool := !p.shared && p.holders == [0]

def Strip.free (die col width : Nat) : Strip :=
  { die := die, col := col, width := width, shared := false, holders := [0], slice := 0, grace := 0, occ := none, since := 0, yielding := false }

/-- Strips by die and first column. -/
def sortStrips (l : List Strip) : List Strip :=
  (List.range 128).flatMap fun i => l.filter fun p => p.die == i / 32 && p.col == i % 32

/-- Adjacent strips of virtual device 0 become one. -/
def mergeFree : List Strip → List Strip
  | [] => []
  | p :: l => match mergeFree l with
    | q :: r => if p.isFree && q.isFree && p.die == q.die && p.col + p.width == q.col then { p with width := p.width + q.width } :: r else p :: q :: r
    | [] => [p]

/-- A core keeps the translations of the virtual devices that hold its column: a column that is lost keeps none that an UNMAP would not reach (R297,
R299, assumption 27). -/
def State.trimTlbs (s : State) : State :=
  let held (core : Nat) (p : Page) : Bool := (s.stripAt (dieOf core) (colOf core)).any fun q => q.holders.contains p.vd
  s.cores.foldl (fun s e => if e.2.tlb.all (held e.1) then s else s.modCore e.1 fun k => { k with tlb := k.tlb.filter (held e.1) }) s

/-- The strips as a strip change leaves them; each core takes the class-8 band of its new strip, and its levels stay (R111). -/
def State.setStrips (s : State) (die : Nat) (l : List Strip) : State :=
  let s' := State.trimTlbs { s with strips := mergeFree (sortStrips l) }
  (List.range 32).foldl (fun t v => (List.range 512).foldl (fun t i =>
    let core := die * 512 + i
    if s.specRate core v = s'.specRate core v then t
    else t.setSpec core v (Nat.min (s.specLevel core v) (64 * s'.specRate core v))) t) s'

/-- A virtual device has a live region on a range of columns. -/
def State.liveOn (s : State) (vd die c0 c1 : Nat) : Bool :=
  s.runs.any fun r => r.vd == vd && r.die == die && r.col ≤ c1 && c0 < r.col + r.width

/-- The strips that a range of columns meets. -/
def State.stripsOn (s : State) (die c0 c1 : Nat) : List Strip := s.strips.filter fun p => p.die == die && p.col ≤ c1 && c0 < p.col + p.width

/-- STRIP_GRANT: the status of a refusal, or the machine with the grant made (R94, R97, R98). A SHARED grant sets the slice and the grace of the strip for
all its sharers, and a grant of columns that the target holds already makes them a strip of their own (assumption 77). -/
def qosStripGrant (s : State) (c : Cmd) : Except Nat State :=
  let t := c.p0.toNat
  let w := c.p2.toNat
  let die := bits w 0 2
  let c0 := bits w 8 5
  let c1 := bits w 16 5
  let shared := bitAt w 24
  let slice := if bits c.p3.toNat 0 32 = 0 then 100 else bits c.p3.toNat 0 32
  let grace := if bits c.p3.toNat 32 32 = 0 then 1000 else bits c.p3.toNat 32 32
  let met := s.stripsOn die c0 c1
  if !onlyBits w 0x11F1F03 || c.p4 ≠ 0 || c.p5 ≠ 0 || c1 < c0 || slice < 10 || 100000 < slice || grace < 10 || 1000000 < grace then .error 1
  else match met.find? (·.shared), shared with
  | some p, true =>
    if met.length ≠ 1 || p.col ≠ c0 || p.col + p.width ≠ c1 + 1 then .error 4
    else if p.holders.contains t then
      .ok { s with strips := s.strips.map fun (q : Strip) => if q = p then { q with slice := slice, grace := grace } else q }
    else if p.holders.length ≥ 8 then .error 4
    else .ok { s with strips := s.strips.map fun (q : Strip) =>
      if q = p then { q with holders := q.holders ++ [t], slice := slice, grace := grace } else q }
  | _, _ =>
    if met.any fun p => p.holders.any fun v => v != 0 && v != t then .error 4
    else if t ≠ 0 && met.any fun p => p.holders.contains 0 && s.liveOn 0 die (Nat.max c0 p.col) (Nat.min c1 (p.col + p.width - 1)) then .error 5
    else
      let new : Strip :=
        { Strip.free die c0 (c1 + 1 - c0) with
          shared := shared, holders := [t], slice := (if shared then slice else 0), grace := (if shared then grace else 0) }
      .ok (s.setStrips die ((s.strips.flatMap fun p => p.outside die c0 c1) ++ [new]))

/-- The columns of a strip that a revoke of a range takes from its target: those of the range, or the whole of a shared strip where a region of another
sharer stands across an end of the range (assumption 77). -/
def State.revoked (s : State) (t c0 c1 : Nat) (p : Strip) : Nat × Nat :=
  let a := Nat.max p.col c0
  let b := Nat.min (p.col + p.width - 1) c1
  let across := s.runs.any fun r => r.vd != t && r.die == p.die && ((r.col < a && a < r.col + r.width) || (r.col ≤ b && b + 1 < r.col + r.width))
  if p.shared && across then (p.col, p.col + p.width - 1) else (a, b)

/-- A virtual device gives up the columns of a range that it holds: they go to virtual device 0, or, on a shared strip, to the other sharers, with the
last of whom they go to virtual device 0 (R94, assumption 27). -/
def State.revoke (s : State) (t die c0 c1 : Nat) : State :=
  let mine := (s.stripsOn die c0 c1).filter fun p => p.holders.contains t
  if t = 0 || mine.isEmpty then s
  else
    let give (p : Strip) : List Strip :=
      if !mine.contains p then [p]
      else
        let (a, b) := s.revoked t c0 c1 p
        let hs := p.holders.filter fun v => v != t
        let rest : Strip := { p with col := a, width := b + 1 - a, holders := hs, occ := if p.occ = some t then none else p.occ }
        p.outside die a b ++ [if hs.isEmpty then Strip.free die a (b + 1 - a) else rest]
    s.setStrips die (s.strips.flatMap give)

/-- STRIP_REVOKE (R94, R97, R98). -/
def qosStripRevoke (s : State) (c : Cmd) : Except Nat State :=
  let t := c.p0.toNat
  let w := c.p2.toNat
  let die := bits w 0 2
  let c0 := bits w 8 5
  let c1 := bits w 16 5
  let mine := (s.stripsOn die c0 c1).filter fun p => p.holders.contains t
  if !onlyBits w 0x1F1F03 || c.p3 ≠ 0 || c.p4 ≠ 0 || c.p5 ≠ 0 || c1 < c0 then .error 1
  else if t ≠ 0 && mine.any fun p =>
      let (a, b) := s.revoked t c0 c1 p
      s.liveOn t die a b then .error 5
  else .ok (s.revoke t die c0 c1)

/-! ## Bands, ways, grants, the pod id (R86, R97-R99, R112) -/

/-- The FLOOR rate of a virtual device at an arbiter, a BAND that waits for the next refill included. -/
def State.floorOf (s : State) (key v : Nat) : Nat :=
  match (s.bandq.filter fun b => b.1 == key && b.2.1 == v).getLast? with
  | some b => b.2.2.1
  | none => (s.damper key).flRate v

/-- BAND: every selected instance takes it at the next refill tick. -/
def qosBand (s : State) (c : Cmd) : Except Nat State :=
  let t := c.p0.toNat
  let w := c.p2.toNat
  let cls := bits w 0 4
  let i0 := bits w 8 12
  let i1 := bits w 20 12
  let fl := bits c.p3.toNat 0 32
  let ce := bits c.p3.toNat 32 32
  let wt := c.p4.toNat
  if !onlyBits w 0xFFFFFF0F || wt > 255 || c.p5 ≠ 0 || i1 < i0 || 8 < cls || dampCount cls ≤ i1 || dampCap cls i0 < ce || dampCap cls i1 < ce ||
      ce < fl || wt = 0 || (cls = 8 && fl ≠ 0) || ((List.range (i1 + 1 - i0)).any fun i => dampCap cls (i0 + i) < ce) then .error 1
  else
    let insts := (List.range (i1 + 1 - i0)).map fun i => i0 + i
    if insts.any fun i =>
        let key := dampKey cls i
        let others := ((List.range 32).map fun v => if v = t then 0 else s.floorOf key v).sum
        dampCap cls i < others + fl then .error 4
    else .ok { s with bandq := s.bandq ++ insts.map fun i => (dampKey cls i, t, fl, ce, wt) }

/-- A virtual device's lines in ways that leave its mask are written back and invalidated (R99). -/
def State.setWays (s : State) (vd die : Nat) (mask : BitVec 16) : State :=
  let x := s.die die
  let leaves (l : L2Line) : Bool := l.vd == vd && !mask.getLsbD l.way
  let gone := x.l2.flatMap fun (e : Nat × List L2Line) => e.2.filter leaves
  let s := { s with dram := gone.foldl writeBack s.dram, sync := gone.foldl writeBackFe s.sync }
  let kept : Table (List L2Line) := x.l2.foldl (fun t (e : Nat × List L2Line) => tset [] t e.1 (e.2.filter fun l => !leaves l)) []
  (s.setDie die { x with l2 := kept }).modVd vd fun v => { v with ways := tset 0xFFFF v.ways die mask }

/-- WAYS. -/
def qosWays (s : State) (c : Cmd) : Except Nat State :=
  let w := c.p2.toNat
  if !onlyBits w 0xFFFFF || c.p3 ≠ 0 || c.p4 ≠ 0 || c.p5 ≠ 0 then .error 1
  else .ok ((List.range 4).foldl (fun s d => if bitAt w (16 + d) then s.setWays c.p0.toNat d (BitVec.ofNat 16 w) else s) s)

/-- A range of physical memory meets another. -/
def meetsExt (b l : Nat) (e : Nat × Nat) : Bool := b < e.1 + e.2 && e.1 < b + l

/-- Every channel that a physical range lies on is a home channel of a strip that a virtual device holds (R96, R289). -/
def State.homeRange (s : State) (vd b l : Nat) : Bool :=
  (List.range ((b + l - 1) / 2 ^ 30 + 1 - b / 2 ^ 30)).all fun i =>
    let ch := b / 2 ^ 30 + i
    (s.stripAt (ch / 64) (ch % 32)).any fun p => p.holders.contains vd

/-- GRANT (R86). -/
def qosGrant (s : State) (c : Cmd) : Except Nat State :=
  let t := c.p0.toNat
  let b := c.p2.toNat
  let l := c.p3.toNat
  if b ≥ 2 ^ 48 || l ≥ 2 ^ 48 || c.p4 ≠ 0 || c.p5 ≠ 0 || b % 4096 ≠ 0 || l % 4096 ≠ 0 || l = 0 || 2 ^ 38 < b + l then .error 1
  else if ((List.range 32).any fun v => v != t && (s.vd v).grant.any (meetsExt b l)) ||
      ((List.range 32).any fun v => meetsExt b l (reservedPa v, 0x400000)) || !s.homeRange t b l || (s.vd t).grant.length ≥ 64 then .error 4
  else .ok (s.modVd t fun v => { v with grant := v.grant ++ [(b, l)] })

/-- Bytes removed from the end of a list of extents, the last first. -/
def trimGrant (n : Nat) : List (Nat × Nat) → List (Nat × Nat)
  | [] => []
  | (b, l) :: g =>
    let rest := (g.map (·.2)).sum
    if n ≤ rest then (b, l) :: trimGrant n g else if n - rest < l then [(b, l - (n - rest))] else []

/-- UNGRANT (R86). -/
def qosUngrant (s : State) (c : Cmd) : Except Nat State :=
  let t := c.p0.toNat
  let n := c.p2.toNat
  let size := (s.vd t).grantSize
  if n ≥ 2 ^ 48 || c.p3 ≠ 0 || c.p4 ≠ 0 || c.p5 ≠ 0 || n % 4096 ≠ 0 || size < n then .error 1
  else if overlapsAny (s.areas t ++ s.mappedOffs t) (size - n) n then .error 5
  else .ok (s.modVd t fun v => { v with grant := if n = 0 then v.grant else trimGrant n v.grant })

/-- POD (R60). -/
def qosPod (s : State) (c : Cmd) : Except Nat State :=
  if c.p0 ≠ 0 || c.p2.toNat ≥ 64 || c.p3 ≠ 0 || c.p4 ≠ 0 || c.p5 ≠ 0 then .error 1
  else if s.colls.any fun k => !k.contribs.isEmpty then .error 5
  else .ok { s with podId := c.p2.toNat }

/-- SET_QOS: issued by a virtual function it completes with PRIV; a target or a SUB that is not there with BADCMD (R97, R98). -/
def qos (fn : Nat) (s : State) (c : Cmd) : Except Nat State :=
  if fn ≠ 0 then .error 2
  else if c.p1.toNat ≥ 256 || c.p0.toNat ≥ 32 then .error 1
  else match c.p1.toNat with
  | 1 => qosStripGrant s c
  | 2 => qosStripRevoke s c
  | 3 => qosBand s c
  | 4 => qosWays s c
  | 5 => qosGrant s c
  | 6 => qosUngrant s c
  | 7 => qosPod s c
  | _ => .error 1

/-! ## MAP and UNMAP (R287, R290, R291) -/

def pageSize (i : Nat) : Nat :=
  match i with
  | 0 => 2 ^ 12
  | 1 => 2 ^ 21
  | 2 => 2 ^ 30
  | _ => 2 ^ 36

/-- A range of addresses meets a page. -/
def Page.meets (p : Page) (va len : Nat) : Bool := p.va < va + len && va < p.va + p.size

/-- Full-empty bits of a physical range are EMPTY, in the L2 slices as in DRAM (R290, R292). -/
def State.clearSync (s : State) (pa len : Nat) : State :=
  let keep (e : Nat × Bool) : Bool := !(pa ≤ 8 * e.1 && 8 * e.1 < pa + len)
  let clear (l : L2Line) : L2Line := { l with fe := l.fe.filter keep }
  let s : State := { s with sync := s.sync.filter keep }
  (List.range 4).foldl (fun s d => s.modDie d fun x => { x with l2 := x.l2.map fun (e : Nat × List L2Line) => (e.1, e.2.map clear) }) s

/-- MAP: the status of a refusal, or the machine with the pages in the tables (R290). -/
def mapPages (vd : Nat) (s : State) (c : Cmd) : Except Nat State :=
  let w := c.p2.toNat
  let sz := pageSize (bits w 0 2)
  let va := c.p0.toNat
  let len := c.p1.toNat
  let off := c.p3.toNat
  let v := s.vd vd
  let n := len / sz
  let new := (List.range n).map fun i => (va + sz * i, off + sz * i)
  if w ≥ 16 || c.p4 ≠ 0 || c.p5 ≠ 0 || va % sz ≠ 0 || len % sz ≠ 0 || off % sz ≠ 0 || len = 0 || 2 ^ 55 < va + len then .error 1
  else if bitAt w 3 && !(s.leaf vd 0).getLsbD 16 then .error 13
  else if (v.pages.any fun p => p.meets va len) || overlapsAny (s.areas vd) off len then .error 4
  else if v.grantSize < off + len then .error 12
  else if new.any fun (_, o) => grantRoom v.grant o < sz || ((grantPa v.grant o).getD 1) % sz ≠ 0 then .error 4
  else
    let ps := new.map fun (a, o) => { vd := vd, va := a, size := sz, pa := (grantPa v.grant o).getD 0, writable := bitAt w 2, sync := bitAt w 3 : Page }
    let s := s.addPages vd ps
    .ok (if bitAt w 3 then ps.foldl (fun s p => s.clearSync p.pa p.size) s else s)

/-! ## Withdrawing translations (R298-R300) -/

/-- The steps 1 to 3 of R299 for a list of ranges of a virtual device: the pages leave its tables, the generations rise, the die TLBs drop them,
and re-latch tokens stand at every core and edge unit of its strips. -/
def State.withdraw (s : State) (vd : Nat) (key : Nat × Nat × Nat) (ranges : List (Nat × Nat)) : State :=
  let hit (p : Page) : Bool := p.vd == vd && ranges.any fun x => p.meets x.1 x.2
  let gone := (s.vd vd).pages.filter hit
  let offs := gone.filterMap fun p => (grantOff (s.vd vd).grant p.pa).map fun o => (key, o, p.size, p.sync)
  let s := s.modVd vd fun v => { v with pages := v.pages.filter fun p => !hit p, held := v.held ++ offs }
  let s := (List.range 4).foldl (fun s d => s.modDie d fun x => { x with tgen := x.tgen + 1, tlb := x.tlb.filter fun p => !hit p }) s
  let toks := ranges.map fun x => { vd := vd, va := x.1, size := x.2, got := false, waits := [], cmd := key : Relatch }
  let cols := (s.strips.filter fun p => p.holders.contains vd).flatMap fun p => (List.range p.width).map fun i => (p.die, p.col + i)
  let s := cols.foldl (fun s (d, c) => (List.range 16).foldl (fun s y => s.modCore (coreId d c y) fun k => { k with relatch := k.relatch ++ toks }) s) s
  { s with edgeRel := s.edgeRel ++ cols.flatMap fun (d, c) => [d * 64 + c, d * 64 + 32 + c].flatMap fun u => toks.map fun t => (u, t) }

/-- Some re-latch token of a command has not emerged. -/
def State.relatching (s : State) (key : Nat × Nat × Nat) : Bool :=
  (s.cores.any fun e => e.2.relatch.any fun t => t.cmd == key) || s.edgeRel.any fun e => e.2.cmd == key

/-- What a command withdrew is free again, and a SYNC page's bits are gone (R291). -/
def State.letGo (s : State) (vd : Nat) (key : Nat × Nat × Nat) : State :=
  let v := s.vd vd
  let mine := v.held.filter fun h => h.1 == key
  let s := (mine.filter fun h => h.2.2.2).foldl (fun s h => s.clearSync ((grantPa v.grant h.2.1).getD 0) h.2.2.1) s
  s.modVd vd fun v => { v with held := v.held.filter fun h => h.1 != key }

/-- UNMAP: the status of a refusal, or the machine with the withdrawal begun (R291). -/
def unmapPages (vd : Nat) (key : Nat × Nat × Nat) (s : State) (c : Cmd) : Except Nat State :=
  let va := c.p0.toNat
  let len := c.p1.toNat
  let ps := (s.vd vd).pages.filter fun p => p.meets va len
  if c.p2 ≠ 0 || c.p3 ≠ 0 || c.p4 ≠ 0 || c.p5 ≠ 0 || len = 0 || 2 ^ 55 < va + len then .error 1
  else if (ps.map (·.size)).sum ≠ len || ps.any fun p => p.va < va || va + len < p.va + p.size then .error 4
  else .ok (s.withdraw vd key [(va, len)])

/-- An access in a core's path was translated under a range. -/
def Relatch.names (t : Relatch) (q : Req) : Bool := q.vd == t.vd && q.todo.any fun u => t.va < u.va + u.len && u.va < t.va + t.size

/-- An LDS that has not taken its word leaves the path, and issues afresh (R300). -/
def State.withdrawLds (s : State) (core : Nat) (q : Req) : State :=
  let s := s.modCore core fun k => { k with wq := k.wq.filter fun x => x.id != q.id }
  (s.modCtx q.cid fun c => { c with pc := q.pc }).unpark q.cid

/-- What is wrong with the page that a unit of a buffered access now lies on: none, a read-only one, a plain one for a full-empty access (R424). -/
def State.unitBad (s : State) (q : Req) (u : Elt) : Option (Nat × Nat) :=
  match s.pageOf q.vd u.va with
  | none => some (0x05, u.va)
  | some p => if !p.writable || (q.kind != .store && !p.sync) then some (0x06, u.va) else none

/-- A buffered device access that a re-latch token names is translated afresh (R212, R300): its effect takes place where its pages now stand, or raises
what they refuse as it drains. -/
def State.afresh (s : State) (t : Relatch) (e : SpecEntry) : SpecEntry :=
  match e.eff with
  | .device q =>
    if !(t.names q) || e.bad.isSome then e
    else match q.todo.findSome? (s.unitBad q) with
      | some x => { e with bad := some x }
      | none => { e with eff := .device { q with todo := q.todo.map fun (u : Elt) => { u with pa := (s.toPa q.vd u.va).getD u.pa } } }
  | _ => e

/-- RELATCH_CORE: the `idx`th re-latch token at core `unit` removes its TLB entries, has the buffered effects that it names translated afresh, and emerges
once the accesses translated under them are done (R300). -/
def execRelatchCore (s : State) : Step :=
  let core := s.ev.unit
  .next (match (s.core core).relatch[s.ev.idx]? with
    | none => s
    | some t =>
      let isLds (q : Req) : Bool := match q.kind with | .lds _ => true | _ => false
      let s := if t.got then s
        else
          let named := (s.core core).wq.filter t.names
          let s := (named.filter isLds).foldl (fun s q => s.withdrawLds core q) s
          let hit (p : Page) : Bool := p.vd == t.vd && p.meets t.va t.size
          s.modCore core fun k =>
            { k with tlb := k.tlb.filter (fun p => !hit p), sbuf := k.sbuf.map (s.afresh t)
                     relatch := modAt (fun x => { x with got := true, waits := (named.filter fun q => !isLds q).map (·.id) }) s.ev.idx k.relatch }
      let waits := (((s.core core).relatch[s.ev.idx]?).map (·.waits)).getD []
      if (s.core core).wq.any fun q => waits.contains q.id then s
      else s.modCore core fun k => { k with relatch := dropAt s.ev.idx k.relatch })

/-! ## Grant rounds (R101, R104) -/

/-- Who waits at an arbiter: an access in a core's path, a copy, the fetch of a context's next word, an edge stream, a collective storer's chunk, a directed
token, a message for another package, an access of the host through a function's BAR 2, or a request at a Lathe. -/
inductive Payer where
  | req (core id : Nat)
  | copy (core tag : Nat)
  | fetch (cid : Nat)
  | stream (run node : Nat)
  | cross (run node : Nat)
  | token (n : Nat)
  | pod (n : Nat)
  | host (vd : Nat)
  | lathe (n : Nat)
deriving DecidableEq, Repr

/-- A request that stands at an arbiter: its Damper, its virtual device, its cost, since when it has stood there, and whose it is (R101, R104). -/
structure Wait where
  key : Nat
  vd : Nat
  cost : Nat
  stood : Nat
  who : Payer
deriving DecidableEq, Repr

/-- The die whose Lathe takes a request first. -/
def LatheReq.die (q : LatheReq) : Nat := if regionDie q.region ≤ 3 then regionDie q.region else 0

/-- A token's units: a chunk with its header counts as five (R101). -/
def Token.units (t : Token) : Nat := if t.kind = 2 then 5 else 1

/-- What a core's accesses and copies wait for. -/
def State.coreWaits (s : State) (core : Nat) (k : Core) : List Wait :=
  (k.wq.zipIdx.filterMap fun (q, n) => if s.canPerform core n then
    (s.toll core q).map fun key => { key := key, vd := q.vd, cost := 1, stood := q.stood, who := .req core q.id } else none) ++
  k.copies.filterMap fun p => (s.copyToll core p).map fun key =>
    { key := key, vd := ((s.run p.run).map (·.vd)).getD 0, cost := 1, stood := p.stood, who := .copy core p.tag }

/-- What a run's edge streams and collective storers wait for. -/
def State.runWaits (s : State) (r : Run) : List Wait :=
  r.activeNodes.flatMap fun n =>
    ((s.streamToll r n).map fun key => { key := key, vd := r.vd, cost := 1, stood := (r.nodeS n).stood, who := .stream r.id n : Wait }).toList ++
    ((s.crossToll r n).map fun key => { key := key, vd := r.vd, cost := 5, stood := (r.nodeS n).stood, who := .cross r.id n : Wait }).toList

/-- What contexts that are ready but for their next word wait for. -/
def State.fetchWaits (s : State) : List Wait :=
  s.ctxs.filterMap fun (e : Nat × Ctx) => if !s.readyBut e.1 then none else (s.fetchToll e.1).map fun key =>
    { key := key, vd := ((s.ctxRun e.1).map (·.vd)).getD 0, cost := 1, stood := e.2.fstood, who := .fetch e.1 }

/-- What the host's accesses through BAR 2 wait for. -/
def State.hostWaits (s : State) : List Wait :=
  s.vds.filterMap fun (e : Nat × Vd) => (s.hostToll e.1).map fun key =>
    { key := key, vd := e.1, cost := 1, stood := (e.2.hostq.head?.map (·.stood)).getD 0, who := .host e.1 }

/-- Every request that stands at an arbiter (R57, R101, R296). What the model charges at none is named in assumption 75. -/
def State.waits (s : State) : List Wait :=
  s.cores.flatMap (fun (e : Nat × Core) => s.coreWaits e.1 e.2) ++ s.fetchWaits ++ s.runs.flatMap s.runWaits ++ s.hostWaits ++
  (s.directed.zipIdx.filterMap fun (t, i) => t.toll.map fun key => { key := key, vd := t.vd, cost := t.tok.units, stood := t.stood, who := .token i }) ++
  (s.podOut.zipIdx.filterMap fun (m, i) => if m.owed = 0 then none else
    some { key := dampKey 4 m.link, vd := m.vd, cost := if m.chunks.isEmpty then 1 else 5, stood := m.stood, who := .pod i }) ++
  s.lathe.zipIdx.filterMap fun (q, i) => if q.owed = 0 then none else some { key := dampKey 6 q.die, vd := q.vd, cost := 1, stood := i, who := .lathe i }

/-- The first request of a virtual device at an arbiter, in order of arrival (R104). -/
def firstWait (ws : List Wait) (v : Nat) : Option Wait :=
  (ws.filter fun w => w.vd == v).foldl (fun m w => match m with
    | none => some w
    | some x => if w.stood < x.stood then some w else some x) none

/-- A request is granted: it goes on to the next arbiter on its path. -/
def State.grantWait (s : State) (p : Payer) : State :=
  match p with
  | .req core id => s.modCore core fun k =>
    { k with wq := replaceFirst (fun q => q.id == id) (fun (q : Req) => { q with paid := q.paid + 1, stood := s.now }) k.wq }
  | .copy core tag => s.modCopy core tag fun q => { q with paid := q.paid + 1, stood := s.now }
  | .fetch cid => s.modCtx cid fun c => { c with fpaid := c.fpaid + 1, fstood := s.now }
  | .host vd => s.hostGrant vd
  | .stream run node => s.modRun run fun r => r.setNodeS node { r.nodeS node with paid := (r.nodeS node).paid + 1, stood := s.now }
  | .cross run node => s.modRun run fun r => r.setNodeS node { r.nodeS node with paid := 1, stood := s.now }
  | .token n => { s with directed := modAt (fun (t : Directed) => { t with paid := t.paid + 1, stood := s.now }) n s.directed }
  | .pod n => { s with podOut := modAt (fun (m : PodMsg) => { m with owed := m.owed - 1, stood := s.now }) n s.podOut }
  | .lathe n => { s with lathe := modAt (fun (q : LatheReq) => { q with owed := q.owed - 1 }) n s.lathe }

/-- One round of a Damper. Each virtual device's head is the first of its requests that stand there; `more` is other traffic, a virtual device and a cost, for
those that have no request of their own there. -/
def State.roundAt (s : State) (cls inst : Nat) (more : List (Nat × Nat)) : State :=
  let key := dampKey cls inst
  let ws := s.waits.filter fun w => w.key == key
  let own := (List.range 32).filterMap fun v => firstWait ws v
  let heads := (own.map fun w => (w.vd, w.cost)) ++ more.filter fun h => !(own.any fun w => w.vd == h.1)
  if heads.isEmpty then s
  else
    let (won, d) := (s.damper key).round (dampCap cls inst) (s.usable cls inst) heads
    let s := s.setDamper key d
    match won.bind fun v => firstWait ws v with
    | none => s
    | some w => s.grantWait w.who

/-- DAMPER_ROUND: one round of instance `sub` of class `unit`. Traffic that the model does not follow comes with the event, as pairs of a virtual device
and a cost. -/
def execDamperRound (s : State) : Step :=
  let cls := s.ev.unit
  let inst := s.ev.sub
  .next (if 8 < cls && cls ≠ 10 || dampCount cls ≤ inst then s
    else s.roundAt cls inst (if cls = 2 || cls = 6 then [] else
      (List.range (s.ev.vals.length / 2)).map fun i => (s.ev.val (2 * i) % 32, s.ev.val (2 * i + 1))))

/-! ## Turns on a shared strip (R109, R110) -/

/-- The runs of a strip. -/
def State.runsOn (s : State) (p : Strip) : List Run := s.runs.filter fun r => p.holds r.die r.col

/-- Some node of a run could start work, or some context could issue, or something of it is on its way. -/
def State.busyRun (s : State) (r : Run) : Bool :=
  let ready := s.ctxs.any fun e => e.2.role.run == some r.id && e.2.running &&
    (match e.2.park with
     | none => true
     | some p => s.wakes e.1 r p || p.kind.pends || p.kind == ParkKind.landing)
  let flight := (r.chans.any fun e => !e.2.fly.isEmpty) || (s.cores.any fun e => r.covers e.1 && (!e.2.wq.isEmpty || !e.2.copies.isEmpty ||
      !e.2.sendq.isEmpty || !e.2.sbuf.isEmpty || e.2.firing.isSome)) || (s.xchunks.any fun x => x.run == r.id)
  let node (n : Nat) : Bool := match r.node n with
    | none => false
    | some d => match d.kind with
      | 1 => (r.inChans n).any fun i => !(r.chan i).buf.isEmpty
      | 2 => (r.nodeS n).run || ((r.nodeS n).latched && s.roundReady r n d)
      | 3 => (r.nodeS n).run || ((r.nodeS n).latched && s.roundReady r n d)
      | 4 => false
      | 5 => !r.hq.isEmpty
      | _ => r.inputsReady n d && r.outputsFree n d
  ready || flight || r.activeNodes.any node || (r.segs.any fun g => g.cid.isNone) || s.drained r

/-- A run has runnable work: it could go on, were its virtual device the occupant; one that has left its cells as its newest cut would find it there
(R109, R110). -/
def State.hasWork (s : State) (r : Run) : Bool :=
  match r.st with
  | .running => s.busyRun r
  | .config _ => true
  | .yielded => r.cutReq == some .pause || (let t := s.resumeRun r.id; (t.run r.id).any fun x => t.busyRun x)
  | _ => false

/-- A virtual device has runnable work on a strip. -/
def State.workOn (s : State) (p : Strip) (v : Nat) : Bool := (s.runsOn p).any fun r => r.vd == v && s.hasWork r

/-- A region lets its strip go: it stands at a phase boundary, is idle, or is saved already (R109). -/
def State.mayYield (s : State) (r : Run) : Bool :=
  !r.rolling && (match r.st with
    | .config _ => s.quiet r
    | .paused => true
    | .yielded => true
    | .running => !s.busyRun r && r.cut.isNone
    | _ => false)

/-- A region is saved whole and leaves its cells, as a paused instance is saved. -/
def State.yieldOut (s : State) (rid : Nat) : State :=
  match s.run rid with
  | none => s
  | some r => match r.st with
    | .paused => (if r.away then s else (s.holdTokens r).clearRegion r).modRun rid fun r => { r with away := true }
    | .yielded => s
    | _ =>
      let s := match r.st with | .config _ => s.finishConfig rid | _ => s
      match s.run rid with
      | none => s
      | some r =>
        let c := s.wholeCut r (r.cutNo + 1) .yield
        let s := if r.eligible then s.cleanSpans (s.writeSpans r) else s
        let s := s.stashBars r
        ((s.holdTokens r).clearRegion r).modRun rid fun r => { r with st := .yielded, cutNo := r.cutNo + 1, saved := [c], cutReq := r.cutReq.filter (· == .pause) }

/-- A strip's occupant from now on. -/
def State.setOcc (s : State) (p : Strip) (v : Option Nat) : State :=
  { s with strips := s.strips.map fun (q : Strip) => if q.die = p.die && q.col = p.col then { q with occ := v, since := s.now, yielding := false } else q }

/-- The regions of a strip's new occupant come back. -/
def State.comeBack (s : State) (p : Strip) (v : Nat) : State :=
  (s.runsOn p).foldl (fun s r => if r.vd = v && r.st == .yielded then s.resumeRun r.id else s) s

/-- An occupancy has ended: its slice has run, its CEIL bucket is empty, or it has no runnable work (R109). -/
def State.occOver (s : State) (p : Strip) (v : Nat) : Bool :=
  p.slice * 1800 ≤ s.now - p.since || (s.damper (dampKey 7 (p.die * 32 + p.col))).cl 1800 v < 16 || !s.workOn p v || p.yielding

/-- The cores of a strip drop their L1 lines; every write-through has been performed, so nothing is left to write back. -/
def State.flushStrip (s : State) (p : Strip) : State :=
  (List.range 16).foldl (fun s y => (List.range p.width).foldl (fun s c => s.l1Flush (coreId p.die (p.col + c) y)) s) s

/-- STRIP_YIELD: the shared strip at column `idx` of die `unit`. Once its occupancy is over and each of its regions stands at a boundary, the next
occupant is chosen by a round of its class-7 Damper; a strip without an occupant takes one (R109, R110). -/
def execStripYield (s : State) : Step :=
  .next (match s.strips.find? fun p => p.die == s.ev.unit && p.col == s.ev.idx && p.shared with
    | none => s
    | some p =>
      let isOver : Bool := match p.occ with | none => true | some v => s.occOver p v
      let there := (s.runsOn p).filter fun r => r.holdsCells
      if !isOver || !(there.all fun r => s.mayYield r || some r.vd != p.occ) || !(there.all fun r => match r.st with | .halted _ => false | _ => true) then s
      else
        let heads := (p.holders.filter fun v => s.workOn p v).map fun v => (v, 1)
        let key := dampKey 7 (p.die * 32 + p.col)
        let (won, d) := (s.damper key).round 1800 1800 heads
        let s := s.setDamper key d
        match won with
        | none => s
        | some v =>
          if p.occ = some v then (s.setOcc p (some v)).comeBack p v
          else
            let s := there.foldl (fun s r => if r.vd = v then s else s.yieldOut r.id) s
            ((s.flushStrip p).setOcc p (some v)).comeBack p v)

/-- YIELD_GRACE_EXPIRY: the slice and the grace of the strip at column `idx` of die `unit` have passed: each region of its occupant that is not at a
boundary is paused by marker drain (R109). -/
def execYieldGraceExpiry (s : State) : Step :=
  .next (match s.strips.find? fun p => p.die == s.ev.unit && p.col == s.ev.idx && p.shared with
    | none => s
    | some p => match p.occ with
      | none => s
      | some v =>
        if p.yielding || s.now - p.since < (p.slice + p.grace) * 1800 then s
        else
          let s := { s with strips := s.strips.map fun (q : Strip) => if q = p then { q with yielding := true } else q }
          (s.runsOn p).foldl (fun s r =>
            if r.vd = v && r.isRunning && !(s.mayYield r) then s.modRun r.id fun r => r.askCut .yield
            else s) s)

end Sys2Proof.Machine
end

