-- ==== Sys2Proof/Machine/Commands.lean ====
section
/-! DEFINITION. The host's commands, from their dispatch to their completion, and the host's writes to registers, to the mailbox and
through BAR 2 (03 R64-R92, 04 R99-R100, 07 R172, R179, 09 R247, 11 R288, R301-R303, 13 R335). -/

namespace Sys2Proof.Machine

/-! ## Instances as commands name them -/

/-- The key by which a command is named: virtual device, port, SEQ. -/
abbrev CmdKey := Nat × Nat × Nat

/-- An ABORT of an instance has been dispatched and waits (R72). -/
def State.doomed (s : State) (vd rid : Nat) : Bool :=
  (List.range 4).any fun p => (((s.vd vd).port p).queue).any fun c => c.kind == 7 && c.dispatched && c.done.isNone && c.cmd.p0.toNat == rid

/-- The instance of a virtual device that a command names (R64). -/
def State.instOf (s : State) (vd rid : Nat) : Option Run :=
  match s.run rid with
  | some r => if r.vd = vd && !s.doomed vd rid then some r else none
  | none => none

/-! ## LOAD_OBJECT and UNLOAD_OBJECT (R84, R301-R303) -/

/-- The features of leaf 0 and leaf 1 that an object needs beyond its FEATURES: its Aszon version, quad fusion, collective storers (R88). -/
def Graph.needs (g : Graph) (ver : Nat) : List (Nat × Nat) :=
  [(1, ver)] ++ (if g.fuse then [(0, 17)] else []) ++ (if g.nodes.any fun n => n.coll.isSome then [(0, 13)] else [])

/-- The lowest free entry of the object directory (R288). -/
def freeSlot (objs : List Obj) : Nat := ((List.range 256).find? fun i => !(objs.any fun o => o.dirSlot == i)).getD 0

/-- An entry of the object directory. -/
def dirEntry (o : Obj) : List Byte := natLe 4 o.handle ++ natLe 4 0 ++ natLe 8 o.dataBase ++ natLe 8 o.constBase ++ natLe 8 o.codeBase

/-- The checks 1 to 6 of R84, and the graph of step 7: the status of the first that fails, or the graph. -/
def State.checkObject (s : State) (vd : Nat) (len : Nat) (bs : List Byte) : Except Nat Graph :=
  let v := s.vd vd
  let d := fld bs 0x10 1
  if fld bs 8 8 ≠ len then .error 8
  else if !headerOk bs then .error 8
  else if !isSigned bs && v.signreq then .error 6
  else if isSigned bs && !sigOk bs then .error 6
  else if isSigned bs && (!v.domok.getLsbD (d - 2) || fld bs 0x11 1 < s.fuse d) then .error 7
  else if !s.hasWords vd (featWords bs) || !(s.leaf vd 1).getLsbD (fld bs 4 2) then .error 13
  else match readGraph bs with
  | none => .error 8
  | some g => if (g.needs (fld bs 4 2)).all fun (l, b) => (s.leaf vd l).getLsbD b then .ok g else .error 13

/-- LOAD_OBJECT: the status of the first check that fails, or the machine with the object loaded and its handle (R84). -/
def loadObj (vd : Nat) (s : State) (c : Cmd) : Except Nat (State × Nat) :=
  let len := c.p1.toNat
  if !restZero c 2 || c.p0.toNat % 8 ≠ 0 then .error 1
  else if 2 ^ 32 < len || !s.mapped vd c.p0.toNat len false then .error 8
  else match s.vBytes vd c.p0.toNat len with
  | none => .error 8
  | some bs => match s.checkObject vd len bs with
    | .error st => .error st
    | .ok g =>
      let ss := readSects bs
      let v := s.vd vd
      let code := sectBytes bs ss 2
      let const := sectBytes bs ss 4
      let data := sectBytes bs ss 3
      let areas := s.takeAreas vd [code.length, const.length, data.length]
      -- Where the grant has no room, the range check of step 7 is made at the addresses that a grant of one large extent would give.
      let tried := areas.getD ((areasAt [(0, 2 ^ 54)] [] [code.length, const.length, data.length]).getD [])
      let at' (i : Nat) : Nat × Nat := tried.getD i (0, 0)
      let base (i n : Nat) : Nat := if n = 0 then 0 else devVa (at' i).1
      match g.resolve { params := (g.defaults (base 2 data.length) (base 1 const.length)).getD [], data := base 2 data.length
                        const := base 1 const.length } with
      | none => .error 8
      | some g' =>
        if (g.defaults (base 2 data.length) (base 1 const.length)).isNone || !g'.pairsOk code then .error 8
        else if v.objs.length ≥ 256 || areas.isNone then .error 12
        else
          let o : Obj :=
            { handle := v.nextHandle, vd := vd, graph := g, codeBase := base 0 code.length, codeLen := code.length, code := code
              constBase := base 1 const.length, constLen := const.length, dataBase := base 2 data.length, dataLen := data.length
              dataImg := data, signed := isSigned bs, domain := fld bs 0x10 1, secver := fld bs 0x11 1, digest := sha384 bs
              featReq := featWords bs, checked := g'.isChecked, dynamic := g.dynamic, eligible := g'.isEligible code
              dirSlot := freeSlot v.objs, areas := tried.filter fun a => a.2 != 0, unloading := false }
          let pages := areaPages v.grant vd (at' 0) false ++ areaPages v.grant vd (at' 1) false ++ areaPages v.grant vd (at' 2) true
          let s := (s.addPages vd pages).modVd vd fun v => { v with objs := v.objs ++ [o], nextHandle := v.nextHandle % (2 ^ 32 - 1) + 1 }
          let s := (s.vWrite vd o.codeBase code).vWrite vd o.constBase const
          .ok (s.vWrite vd (dirBase vd + 32 * o.dirSlot) (dirEntry o), o.handle)

/-- UNLOAD_OBJECT: the withdrawal of the object's areas begins (R75, R303). -/
def unloadObj (vd : Nat) (key : CmdKey) (s : State) (c : Cmd) : Except Nat State :=
  if !restZero c 1 then .error 1
  else match s.object vd c.p0.toNat with
  | none => .error 3
  | some o =>
    if s.runs.any fun r => r.vd == vd && r.handle == o.handle then .error 5
    else
      let s := s.modVd vd fun v => { v with objs := v.objs.map fun (x : Obj) => if x.handle = o.handle then { x with unloading := true } else x }
      .ok (s.withdraw vd key (o.areas.map fun a => (devVa a.1, a.2)))

/-- An object's areas, its directory entry and its placements are gone (R303). -/
def State.dropObj (s : State) (vd handle : Nat) : State :=
  match (s.vd vd).objs.find? fun o => o.handle == handle with
  | none => s
  | some o =>
    let s := (s.vWrite vd (dirBase vd + 32 * o.dirSlot) (List.replicate 32 0)).cacheDrop (cacheKey vd handle)
    s.modVd vd fun v => { v with objs := v.objs.filter fun x => x.handle != handle }

/-! ## LAUNCH (R76) -/

/-- LAUNCH: a failing check completes the command; otherwise its request goes to the Lathe, which answers at the dispatch point. -/
def State.launchCmd (s : State) (key : CmdKey) (c : Cmd) : State :=
  match launchChecks key.1 s c with
  | .error st => s.finishCmd key st 0 0
  | .ok (o, ps) =>
    let q : LatheReq :=
      { vd := key.1, handle := o.handle, region := c.p2.toNat, record := c.p3.toNat, argbase := 0, params := ps, leaves := s.leavesOf key.1
        debug := c.debug, cmd := some key, parent := none, replace := none, owed := o.graph.latheUnits }
    { s.modPending key fun p => { p with begun := true } with lathe := s.lathe ++ [q] }

/-! ## PAUSE, RESUME, REPLACE, ABORT, SNAPSHOT (R75, R172, R179) -/

/-- PAUSE: the command waits for a pause cut; a region that a shared strip has let go is saved already. -/
def State.pauseCmd (s : State) (key : CmdKey) (c : Cmd) : State :=
  if !restZero c 1 then s.finishCmd key 1 0 0
  else match s.instOf key.1 c.p0.toNat with
  | none => s.finishCmd key 3 0 0
  | some r =>
    match r.st with
    | .paused => s.finishCmd key 4 0 0
    | .yielded => (s.modRun r.id fun r => { r with st := .paused, away := true, cutReq := none }).finishCmd key 0 0 0
    | _ => s.modRun r.id fun r =>
      { r with pauseCmds := r.pauseCmds ++ [key]
               cutReq := if r.cut.any fun c => c.kind == CutKind.pause then r.cutReq else some .pause }

/-- A PAUSE that has met a yield: the region is saved, and stands paused. -/
def State.pausedAway (s : State) (key : CmdKey) : State :=
  match s.runs.find? fun r => r.pauseCmds.contains key && r.st == .yielded with
  | none => s
  | some r => (s.endPauses r 0).modRun r.id fun r => { r with st := .paused, away := true, cutReq := none, pauseCmds := [] }

/-- RESUME: the instance goes on from its cut, at once or when its strip is its virtual device's again (R109, R188). -/
def State.resumeCmd (s : State) (key : CmdKey) (c : Cmd) : State :=
  if !restZero c 1 then s.finishCmd key 1 0 0
  else match s.instOf key.1 c.p0.toNat with
  | none => s.finishCmd key 3 0 0
  | some r =>
    if r.st != .paused then s.finishCmd key 4 0 0
    else if r.away && !s.occupied r then s.modRun r.id fun r => { r with st := .yielded, resumeCmd := some key }
    else (s.resumeRun r.id).modRun r.id fun r => { r with resumeCmd := some key }

/-- REPLACE: its request goes to the Lathe (R189). -/
def State.replaceCmd (s : State) (key : CmdKey) (c : Cmd) : State :=
  if !restZero c 3 || !regionOk c.p1.toNat then s.finishCmd key 1 0 0
  else match s.instOf key.1 c.p0.toNat with
  | none => s.finishCmd key 3 0 0
  | some r =>
    if r.st != .paused then s.finishCmd key 4 0 0
    else if c.p2 ≠ 0 && !s.mapped key.1 c.p2.toNat 64 true then s.finishCmd key 8 0 0
    else
      let q : LatheReq :=
        { vd := key.1, handle := r.handle, region := c.p1.toNat, record := c.p2.toNat, argbase := r.argbase, params := r.params
          leaves := r.leaves, debug := r.debug, cmd := some key, parent := none, replace := some r.id, owed := r.graph.latheUnits }
      { s with lathe := s.lathe ++ [q] }

/-- An ABORT that has been dispatched: once no PAUSE waits for the instance's cut, the instance stops, and is removed when what it has issued is done
(R59, R72, R76, R309). A halted instance ends as it has halted. -/
def State.abortNow (s : State) (key : CmdKey) (rid : Nat) : State :=
  match s.run rid with
  | none => s.finishCmd key 0 0 0
  | some r =>
    if r.pauseCmds.isEmpty || (match r.st with | .halted _ => true | _ => false) then
      let s := (s.haltRun rid 0x101).reapHalted rid
      if (s.run rid).isNone then s.finishCmd key 0 0 0 else s
    else s

/-- ABORT. -/
def State.abortCmd (s : State) (key : CmdKey) (c : Cmd) : State :=
  if !restZero c 1 then s.finishCmd key 1 0 0
  else match s.instOf key.1 c.p0.toNat with
  | none => s.finishCmd key 3 0 0
  | some r => (s.collAbort r.id).abortNow key r.id

/-- SNAPSHOT: the status, the result, and the machine with the image written (R179). -/
def snapshotCmd (vd : Nat) (s : State) (c : Cmd) : State × Nat × Nat :=
  if !restZero c 3 then (s, 1, 0)
  else match s.instOf vd c.p0.toNat with
  | none => (s, 3, 0)
  | some r => match r.st, r.saved.getLast? with
    | .paused, some k =>
      let img := k.image r
      if !s.mapped vd c.p1.toNat img.length true then (s, 8, 0)
      else if c.p2.toNat < img.length then (s, 12, img.length)
      else (s.vWrite vd c.p1.toNat img, 0, img.length)
    | _, _ => (s, 4, 0)

/-! ## QUERY (R91, R92) -/

/-- VDPOL as it reads (R83). -/
def Vd.pol (v : Vd) : Nat := v.domok.toNat * 2 ^ 8 + v.signreq.toNat

/-- The first 128 bytes of a quote. -/
def quoteHead (s : State) (vd : Nat) (nonce : List Byte) : List Byte :=
  (List.range 48).map Config.identity ++ (List.range 8).map (fun d => BitVec.ofNat 8 (s.fuse d)) ++ natLe 8 (s.vd vd).pol ++
    natLe 8 (s.leaf vd 0).toNat ++ nonce ++ List.replicate 24 0

/-- The SIGNATURE section of a quote: the key ids of domain 1, and the two signatures that the part makes over the digest, which are free values (R80). -/
def quoteSig (digest : List Byte) : List Byte :=
  let sig := Config.signs digest
  rsaKeyId 1 ++ slhKeyId 1 ++ (List.range 16608).map fun i => sig.getD i 0

/-- QUERY: the status, the result, and the machine with the quote written. A nonce that is not mapped completes with FORMAT, as a buffer that is not
(assumption 80). -/
def queryCmd (vd : Nat) (s : State) (c : Cmd) : State × Nat × Nat :=
  let sel := c.p0.toNat
  if !restZero c 3 || (sel > 15 && sel ≠ 0x20) then (s, 1, 0)
  else if sel ≤ 15 then (s, 0, (s.leaf vd sel).toNat)
  else if !(s.leaf vd 1).getLsbD 5 then (s, 13, 0)
  else match s.vBytes vd c.p1.toNat 32 with
  | none => (s, 8, 0)
  | some nonce =>
    if !s.mapped vd c.p2.toNat 16752 true then (s, 8, 0)
    else
      let head := quoteHead s vd nonce
      (s.vWrite vd c.p2.toNat (head ++ quoteSig (sha384 head)), 0, 16752)

/-! ## Dispatch (R72, R73, R75, R90) -/

/-- A status, or the machine after the command, which completes with OK. -/
def State.settleCmd (s : State) (key : CmdKey) (r : Except Nat State) : State :=
  match r with
  | .error st => s.finishCmd key st 0 0
  | .ok s' => s'.finishCmd key 0 0 0

/-- The status of a command whose header is refused, or whose format or feature is masked (R73, R90); BADCMD first. -/
def State.cmdRefused (s : State) (vd kind : Nat) (c : Cmd) : Option Nat :=
  if c.mbz ≠ 0 || c.cpl.toNat % 32 ≠ 0 || kind = 0 || 13 < kind || (c.debug && kind ≠ 3) then some 1
  else if !(s.leaf vd 1).getLsbD (c.ver.toNat - 2) || ((kind = 6 || kind = 8) && !(s.leaf vd 1).getLsbD 4) then some 13
  else none

/-- A command reaches its dispatch point: it takes effect, and is due to complete where R75 says so. -/
def State.runCmd (s : State) (key : CmdKey) (p : Pending) : State :=
  let vd := key.1
  let c := p.cmd
  let done (s : State) : State := s.modPending key fun p => { p with dispatched := true }
  match s.cmdRefused vd p.kind c with
  | some st => s.finishCmd key st 0 0
  | none => match p.kind with
    | 1 => (match loadObj vd s c with
      | .error st => s.finishCmd key st 0 0
      | .ok (s', h) => s'.finishCmd key 0 0 h)
    | 2 => (match unloadObj vd key s c with
      | .error st => s.finishCmd key st 0 0
      | .ok s' => done s')
    | 3 => s.launchCmd key c
    | 4 => (done s).pauseCmd key c
    | 5 => (done s).resumeCmd key c
    | 6 => (done s).replaceCmd key c
    | 7 => done (s.abortCmd key c)
    | 8 => let (s', st, n) := snapshotCmd vd s c
      s'.finishCmd key st 0 n
    | 9 => s.settleCmd key (mapPages vd s c)
    | 10 => (match unmapPages vd key s c with
      | .error st => s.finishCmd key st 0 0
      | .ok s' => done s')
    | 11 => s.settleCmd key (qos vd s c)
    | 12 => if !restZero c 1 || c.p0.toNat ≥ 16 then s.finishCmd key 1 0 0 else s.finishCmd key 0 0 0
    | _ => let (s', st, n) := queryCmd vd s c
      s'.finishCmd key st 0 n

/-- A HOST_FENCE waits for a command that was accepted before it on a port of its mask (R75). -/
def State.fenced (s : State) (vd : Nat) (p : Pending) : Bool :=
  p.fence.any fun (q, n) => ((s.vd vd).port q).queue.any fun c => c.seq == n

/-- The first command of a port that has not reached its dispatch point is dispatched, if it may be: what the function has written through BAR 2 is in
device memory first (R67), and a write of APBASE is in effect from the dispatch point on (R85). -/
def State.dispatch (s : State) (vd port : Nat) : State :=
  match ((s.vd vd).port port).queue.find? fun c => !c.dispatched with
  | none => s
  | some p =>
    if p.begun || s.fenced vd p || (s.vd vd).posted then s
    else
      let t := s.runCmd (vd, port, p.seq) p
      if (t.pending (vd, port, p.seq)).any (·.dispatched) then t.applyAp vd else t

/-- A command is written to a port: accepted or dropped, and dispatched where nothing before it waits (R69-R72). -/
def State.command (s : State) (vd port kind : Nat) (c : Cmd) : State :=
  let s' := s.accept vd port kind c
  if (s'.vd vd).jidx = (s.vd vd).jidx then s' else s'.dispatch vd port

/-- A payload word with its low byte set. -/
def withLow (w : Word) (b : Nat) : Word := w - BitVec.ofNat 64 (w.toNat % 256) + BitVec.ofNat 64 b

/-- LOAD_OBJECT (R84). -/
def execLoadObject (vd port : Nat) (c : Cmd) (s : State) : Step := .next (s.command vd port 1 c)
/-- UNLOAD_OBJECT (R75, R303). -/
def execUnloadObject (vd port : Nat) (c : Cmd) (s : State) : Step := .next (s.command vd port 2 c)
/-- LAUNCH, the command (R76). -/
def execLaunch (vd port : Nat) (c : Cmd) (s : State) : Step := .next (s.command vd port 3 c)
/-- PAUSE (R75, R172). -/
def execPause (vd port : Nat) (c : Cmd) (s : State) : Step := .next (s.command vd port 4 c)
/-- RESUME (R75, R188). -/
def execResume (vd port : Nat) (c : Cmd) (s : State) : Step := .next (s.command vd port 5 c)
/-- REPLACE (R75, R189). -/
def execReplace (vd port : Nat) (c : Cmd) (s : State) : Step := .next (s.command vd port 6 c)
/-- ABORT (R72, R75). -/
def execAbort (vd port : Nat) (c : Cmd) (s : State) : Step := .next (s.command vd port 7 c)
/-- SNAPSHOT (R179). -/
def execSnapshot (vd port : Nat) (c : Cmd) (s : State) : Step := .next (s.command vd port 8 c)
/-- MAP (R290). -/
def execMap (vd port : Nat) (c : Cmd) (s : State) : Step := .next (s.command vd port 9 c)
/-- UNMAP (R291). -/
def execUnmap (vd port : Nat) (c : Cmd) (s : State) : Step := .next (s.command vd port 10 c)
/-- SET_QOS STRIP_GRANT (R94). -/
def execStripGrant (vd port : Nat) (c : Cmd) (s : State) : Step := .next (s.command vd port 11 { c with p1 := withLow c.p1 1 })
/-- SET_QOS STRIP_REVOKE (R94). -/
def execStripRevoke (vd port : Nat) (c : Cmd) (s : State) : Step := .next (s.command vd port 11 { c with p1 := withLow c.p1 2 })
/-- SET_QOS BAND (R99). -/
def execBand (vd port : Nat) (c : Cmd) (s : State) : Step := .next (s.command vd port 11 { c with p1 := withLow c.p1 3 })
/-- SET_QOS WAYS (R99). -/
def execWays (vd port : Nat) (c : Cmd) (s : State) : Step := .next (s.command vd port 11 { c with p1 := withLow c.p1 4 })
/-- SET_QOS GRANT (R86). -/
def execGrant (vd port : Nat) (c : Cmd) (s : State) : Step := .next (s.command vd port 11 { c with p1 := withLow c.p1 5 })
/-- SET_QOS UNGRANT (R86). -/
def execUngrant (vd port : Nat) (c : Cmd) (s : State) : Step := .next (s.command vd port 11 { c with p1 := withLow c.p1 6 })
/-- SET_QOS POD (R60). -/
def execPod (vd port : Nat) (c : Cmd) (s : State) : Step := .next (s.command vd port 11 { c with p1 := withLow c.p1 7 })
/-- HOST_FENCE (R75). -/
def execHostFence (vd port : Nat) (c : Cmd) (s : State) : Step := .next (s.command vd port 12 c)
/-- QUERY of a feature leaf (R91). -/
def execQueryFeatureLeaf (vd port : Nat) (leaf : BitVec 4) (c : Cmd) (s : State) : Step :=
  .next (s.command vd port 13 { c with p0 := withLow c.p0 leaf.toNat })
/-- QUERY of an attestation quote (R92). -/
def execQueryAttestationQuote (vd port : Nat) (c : Cmd) (s : State) : Step := .next (s.command vd port 13 { c with p0 := withLow c.p0 0x20 })

/-- COMMAND_DISPATCH: the next command of a port reaches its dispatch point (R72). -/
def execCommandDispatch (vd port : Nat) (s : State) : Step := .next (s.dispatch vd port)

/-! ## Completion (R75, R77) -/

/-- A dispatched command reaches its completion point, if it has come (R75). -/
def State.reach (s : State) (key : CmdKey) : State :=
  match s.pending key with
  | none => s
  | some c =>
    if c.done.isSome || !c.dispatched then s
    else match c.kind with
    | 2 => if s.relatching key then s else ((s.letGo key.1 key).dropObj key.1 c.cmd.p0.toNat).finishCmd key 0 0 0
    | 3 => (match s.runs.find? fun r => r.cmd == some key with
      | some r => s.reapHalted r.id
      | none => s)
    | 4 => s.pausedAway key
    | 5 => resumed s
    | 6 => resumed s
    | 7 => s.abortNow key c.cmd.p0.toNat
    | 10 => if s.relatching key then s else (s.letGo key.1 key).finishCmd key 0 0 0
    | _ => s
where
  /-- The first firing after a resume has been issued. -/
  resumed (s : State) : State :=
    match s.runs.find? fun r => r.resumeCmd == some key && r.fired with
    | some r => (s.modRun r.id fun r => { r with resumeCmd := none }).finishCmd key 0 0 0
    | none => s

/-- COMMAND_COMPLETION: a command whose completion point has come gets its record (R77, R78); with `sub` = 1 the host refuses the write of it. -/
def execCommandCompletion (vd port : Nat) (seq : BitVec 32) (s : State) : Step :=
  let key := (vd, port, seq.toNat)
  let s' := s.reach key
  .next (match s'.pending key with
    | none => s'
    | some c => match c.done with
      | some (st, f, r) => s'.complete vd port c st f r (s.ev.sub == 1)
      | none => s')

/-! ## The mailbox (R81, R87) -/

/-- Bytes of IMBUF. -/
def State.imBytes (s : State) (n : Nat) : List Byte := ((List.range ((n + 7) / 8)).flatMap fun i => natLe 8 (tget 0 s.imbuf i).toNat).take n

/-- A request of the mailbox: IMSTAT's STATUS, or the domain and its new count (R87). -/
def fuseCheck (s : State) (len : Nat) (bs : List Byte) : Except Nat (Nat × Nat) :=
  let d := fld bs 4 1
  let n := fld bs 5 1
  if len ≠ 16688 || fld bs 0 4 ≠ 0x00535546 || !zeros bs 6 2 || !zeros bs 48 16 || 7 < d then .error 1
  else if !sigVerifies 0 (sha384 (bs.take 64)) (slice bs 64 16624) then .error 2
  else if n ≤ s.fuse d || 64 < n || fld bs 8 8 ≠ Config.serial.toNat then .error 3
  else .ok (d, n)

/-- The advance point: the new count is in force, and the placements of the objects it bars are gone (R81, R82). -/
def State.advanceFuse (s : State) (d n : Nat) : State :=
  let s := { s with fuses := tset 0 s.fuses d n }
  (List.range 32).foldl (fun s v => (s.vd v).objs.foldl (fun s o =>
    if o.signed && o.domain = d && o.secver < n then s.cacheDrop (cacheKey v o.handle) else s) s) s

/-- A request of the mailbox begins: IMSTAT shows BUSY (R87). -/
def State.startIm (s : State) (op len : Nat) (bs : List Byte) : State :=
  { s with imreq := some { op := op, len := len, bytes := bs }, imstat := BitVec.ofNat 64 (2 ^ 63 + op) }

/-- The request that is running ends: FUSE_ADVANCE by its checks, every other OP with BADREQ (R87). -/
def State.endIm (s : State) (q : ImReq) : State :=
  let s := { s with imreq := none }
  let ends (s : State) (st : Nat) : State := { s with imstat := BitVec.ofNat 64 (st * 2 ^ 8 + q.op) }
  if q.op ≠ 1 then ends s 1
  else match fuseCheck s q.len q.bytes with
  | .error st => ends s st
  | .ok (d, n) => ends (s.advanceFuse d n) 0

/-- A write of IMCMD starts the request that its OP names, on what stands in IMBUF; one that meets a request running is ignored (R87). -/
def State.writeIm (s : State) (op len : Nat) : State :=
  if s.imreq.isSome then s
  else { s with imcmd := BitVec.ofNat 64 (len % 2 ^ 32 * 2 ^ 32 + op) }.startIm op len (s.imBytes 16688)

/-- FUSE_ADVANCE (R87): for `sub` = 0 a request is made, in IMBUF or over I3C, where it completes with BUSY while another is running; for `sub` = 1 the
request that is running ends. -/
def execFuseAdvance (len : BitVec 32) (i3c : Option (List Byte)) (s : State) : Step :=
  .next (if s.ev.sub = 1 then (match s.imreq with | some q => s.endIm q | none => s)
    else match i3c with
    | none => s.writeIm 1 len.toNat
    | some bs => match s.imreq with
      | none => s.startIm 1 len.toNat bs
      | some _ => { s with imstat := BitVec.ofNat 64 (2 ^ 63 + 4 * 2 ^ 8 + 1) })

/-! ## Registers (R7, R49, R53, R65, R68, R83, R87, R89, R99, R247, R335) -/

def clampTo (lo hi v : Nat) : Nat := Nat.max lo (Nat.min hi v)

/-- CHCAP of a die (R49). -/
def execChcapWrite (die : Nat) (value : Word) (s : State) : Step :=
  .next (if die ≥ 4 then s
    else s.modDie die fun d =>
      { d with boilw := clampTo 180 720 (bits value.toNat 32 16), capw := clampTo 180 720 (bits value.toNat 16 16), capEn := value.getLsbD 0 })

/-- VDPOL of a virtual device (R83). -/
def execVdpolWrite (vd : Nat) (value : Word) (s : State) : Step :=
  .next (if vd ≥ 32 then s else s.modVd vd fun v => { v with domok := BitVec.ofNat 6 (bits value.toNat 8 6), signreq := value.getLsbD 0 })

/-- VDQPOL of a virtual device: CTMO, GHALT and LMIN at once, held as written (R99). -/
def execVdqpolWrite (vd : Nat) (value : Word) (s : State) : Step :=
  .next (if vd ≥ 32 then s
    else s.modVd vd fun v =>
      { v with ctmo := bits value.toNat 18 14, ghalt := value.getLsbD 17, lmin := bits value.toNat 0 17 })

/-- FEATMASK of virtual function 1-31; bit 0 of leaf 0 stays 1 (R89). -/
def execFeatmaskWrite (vf leaf : Nat) (value : Word) (s : State) : Step :=
  .next (if vf = 0 || vf ≥ 32 || leaf ≥ 16 then s
    else s.modVd vf fun v =>
      { v with featmask := tset (BitVec.allOnes 64) v.featmask leaf (if leaf = 0 then value ||| 1 else value) })

/-- BELCTL of a die: DMAX (R247). -/
def execBelctlWrite (die : Nat) (value : Word) (s : State) : Step :=
  .next (if die ≥ 4 then s else s.modDie die fun d => { d with dmax := clampTo 16 14400 (bits value.toNat 0 16) })

/-- REGISTER_WRITE: a write of 8 bytes at an offset of function `fn`'s BAR 0, to a register whose field has no behaviour of its own: the
fault queue's EN and VEC, the MSI-X table; in the physical function alone APBASE, CHSTAT, IMBUF and IMCMD. A write to a command port's page that is no command counts in MALF. Every other write
is ignored (R7, R65, R68, R69, R85). With `sub` = 1 it is a write of the function's Resizable BAR capability, of 0 for 1 GiB to 8 for 256 GiB (R66), which
leaves APBASE as it is (assumption 84). -/
def execRegisterWrite (fn off : Nat) (value : Word) (s : State) : Step :=
  let w := value.toNat
  .next (if fn ≥ 32 then s
    else if s.ev.sub = 1 then (if w ≤ 8 then s.modVd fn fun v => { v with aper := 30 + w } else s)
    else if off < 0x4000 then s.modPort fn (off / 0x1000) fun p => { p with malf := p.malf + 1 }
    else if off = 0x4038 then s.modVd fn fun v => { v with fqen := value.getLsbD 3, fqvec := BitVec.ofNat 3 w }
    else if 0xF0000 ≤ off && off < 0xF8000 && off % 8 = 0 then
      s.modVd fn fun v => { v with msixTab := tset 0 v.msixTab ((off - 0xF0000) / 8) value }
    else if fn ≠ 0 then s
    else if off = 0x4010 then s.modVd 0 fun v => { v with apNext := some (BitVec.ofNat 64 (w % 2 ^ 56 / s.aperture 0 * s.aperture 0)) }
    else if 0x20000 ≤ off && off < 0x20400 && off % 0x100 = 8 then
      s.modDie ((off - 0x20000) / 0x100) fun d =>
        { d with trip := d.trip && !value.getLsbD 3, therm := d.therm && !value.getLsbD 2, boil := d.boil && !value.getLsbD 1
                 capped := d.capped && !value.getLsbD 0 }
    else if 0x80000 ≤ off && off < 0x88000 && off % 8 = 0 then { s with imbuf := tset 0 s.imbuf ((off - 0x80000) / 8) value }
    else if off = 0x88000 then s.writeIm (w % 256) (w / 2 ^ 32)
    else s)

/-! ## BAR 2 (R66, R67) -/

/-- The first access of a function passes as many Dampers as grant it now, at most `n`. -/
def State.hostGo (s : State) (vd : Nat) : Nat → State
  | 0 => s
  | n + 1 => match s.hostToll vd with
    | none => s
    | some key =>
      let t := s.roundAt (key / 65536) (key % 65536) []
      if (t.vd vd).hostq == (s.vd vd).hostq then t else t.hostGo vd n

/-- An access through a function's aperture: it stands behind those that the function has made before it, and goes on as the Dampers grant it; an access
outside the aperture, or while the link is down, reaches nothing. -/
def State.hostAccess (s : State) (vd off : Nat) (isRead : Bool) (bs : List Byte) : State :=
  if vd ≥ 32 || s.aperture vd < off + bs.length || !s.up || !s.linkUp then s
  else
    let t := s.hostPut vd isRead (((s.vd vd).apbase.toNat + off) % 2 ^ 56) bs
    t.hostGo vd (((t.vd vd).hostq.map fun a => a.secs.length).sum * 40)

/-- BAR2_WRITE: bytes written through the aperture of a virtual device; those of an unmapped or a read-only page are dropped. -/
def execBar2Write (vd off : Nat) (bytes : List Byte) (s : State) : Step := .next (s.hostAccess vd off false bytes)

/-- BAR2_READ: `len` bytes read through the aperture of a virtual device; those of an unmapped page read as ones. -/
def execBar2Read (vd off len : Nat) (s : State) : Step := .next (s.hostAccess vd off true (List.replicate len 0))

end Sys2Proof.Machine
end

