-- ==== Sys2Proof/Machine/Power.lean ====
section
/-! DEFINITION. Power, the Chimney, resets and links, and soft errors (02 R45-R57, R62-R63, 04 R94, R114, 13 R339-R340). What the
environment does comes with the event. -/

namespace Sys2Proof.Machine

/-! ## Resets (R45, R62, R63) -/

/-- Every line of the L2 slices written back, as a reset leaves DRAM. -/
def State.flushL2 (s : State) : Memory :=
  (List.range 4).foldl (fun m d => (s.die d).l2.foldl (fun m (e : Nat × List L2Line) => e.2.foldl writeBack m) m) s.dram

/-- The full-empty bits of those lines written back with them (R292). -/
def State.flushFe (s : State) : Table Bool :=
  (List.range 4).foldl (fun t d => (s.die d).l2.foldl (fun t (e : Nat × List L2Line) => e.2.foldl writeBackFe t) t) s.sync

/-- The reserved areas of a memory: all that survives a loss of power whose hold-up has completed (R45, R63). -/
def keptJournals (m : Memory) : Memory := m.filter fun e => reservedPa 0 ≤ e.1 && e.1 < reservedPa 0 + 32 * 0x400000

/-- A cell's die, as its sound map knows it. -/
def markCells (cells : List Cell) (n : Nat) : List Cell := (cells.filter fun c => cellDie c == n).eraseDups

/-- The machine that a reset of the package leaves, from the machine before it: the reset state, with what lies outside its scope as it was. -/
def State.fresh (s : State) : State :=
  { State.reset with
    agenda := s.agenda, cur := s.cur, ir := s.ir, ev := s.ev, free := s.free, order := s.order, now := s.now, base := s.now
    fuses := s.fuses, hostMem := s.hostMem, msix := s.msix, reports := s.reports, bar2 := s.bar2, aer := s.aer, refills := s.now * 2 / 225 }

/-- A die after package reset: the sound map, its generation and the charges stay (R63, R337). -/
def Die.keepMap (d : Die) : Die := { Die.init with unsound := d.unsound, sgen := d.sgen, charges := d.charges }

/-- POWER_ON: the input has come good. `sub` = 0 where the firmware verifies; the cells that fail self-test are marked unsound; the host link trains
to the generation and the width of the values, or stays down (R62). -/
def execPowerOn (s : State) : Step :=
  let e := s.ev
  .next (if s.up then s
    else
      let f := { s.fresh with dram := s.dram, inputOk := true, convOk := 15 }
      if e.sub ≠ 0 then { f with up := false, linkUp := false, booted := false }
      else
        let s1 := (List.range 4).foldl (fun s n => s.modDie n fun d =>
          let bad := markCells e.cells n
          { d with unsound := bad, sgen := bad.length }) f
        let gen := e.val 0
        let width := e.val 1
        if gen < 5 || width < 8 then { s1 with linkUp := false, up := false, reports := s1.reports + 1 }
        else { s1 with up := true, linkUp := true, linkGen := Nat.min gen 7, linkWidth := if width < 16 then 8 else 16 })

/-- The journal entries in flight are closed in the time of the hold-up. The status they get is a free value (assumption 32). -/
def State.closeJournals (s : State) : State :=
  (List.range 32).foldl (fun s v => (List.range 4).foldl (fun s p => ((s.vd v).port p).queue.foldl (fun s c =>
    let w := cmdWord (Config.freeNat s.free % 256) c.kind p c.seq
    let j := jbase v + 32 * c.jidx
    { (s.vWrite v j (natLe 8 (w + 2 ^ 63))).vWrite v (j + 24) (natLe 8 s.time) with free := s.free + 1 }) s) s) s

/-- POWER_FAIL: the input has been out of its window for more than 50 µs; `sub` = 0 where the hold-up completed (R45, R63). -/
def execPowerFail (s : State) : Step :=
  let closed := s.closeJournals
  let f := closed.fresh
  .next { f with
    up := false, linkUp := false, booted := false, inputOk := false, convOk := 0
    dram := if s.ev.sub = 0 then keptJournals closed.flushL2 else [] }

/-- PACKAGE_RESET: every virtual device; the unsound map and the fuses stay, and so do the links, the converters and the pod id (R63). -/
def execPackageReset (s : State) : Step :=
  let f := s.fresh
  let f := (List.range 4).foldl (fun t n => t.setDie n ((s.die n).keepMap)) f
  .next { f with
    dram := s.flushL2, sync := s.flushFe, poison := s.poison, podId := s.podId, convOk := s.convOk, inputOk := s.inputOk, pkgLimit := s.pkgLimit
    linkUp := s.linkUp, linkGen := s.linkGen, linkWidth := s.linkWidth, grades := s.grades, podLinks := s.podLinks, up := s.up, booted := s.booted }

/-- The requests of a virtual device at the Lathe are withdrawn: their commands complete with ABORTED. -/
def State.dropLathe (s : State) (vd : Nat) : State :=
  let mine := s.lathe.filter fun q => q.vd == vd
  mine.foldl (fun s q => if q.replace.isSome then s.finishOpt q.cmd 11 0 0 else s.launchFail q 11 0)
    { s with lathe := s.lathe.filter fun q => q.vd != vd }

/-- The LAUNCH commands of a virtual device that have their status get their records before its ports are reset (R76). -/
def State.closeLaunches (s : State) (vd : Nat) : State :=
  (List.range 4).foldl (fun s p => ((s.vd vd).port p).queue.foldl (fun s c => match c.done with
    | some (st, f, r) => if c.kind = 3 then s.complete vd p c st f r false else s
    | none => s) s) s

/-- What a function reset leaves of a virtual device: what the physical function holds for it, that is its grant, its policy words, its feature masks and
its way masks, and the size of its aperture; everything else is as at package reset (R63, R94, assumption 87). -/
def Vd.flr (v : Vd) : Vd :=
  { Vd.init with
    grant := v.grant, domok := v.domok, signreq := v.signreq, ctmo := v.ctmo, ghalt := v.ghalt, lmin := v.lmin, featmask := v.featmask
    ways := v.ways, aper := v.aper }

/-- VF_FLR: virtual function `unit`: its instances are aborted, its strips go to virtual device 0, and its ports, objects, pages, status registers and
interrupt table are reset (R63, R76, R94). -/
def execVfFlr (s : State) : Step :=
  let v := s.ev.unit
  .next (if v = 0 || v ≥ 32 then s
    else
      let s1 := ((s.dropLathe v).runs.filter fun r => r.vd == v).foldl (fun s r => (s.collAbort r.id).endRun r.id 11 0 11) (s.dropLathe v)
      let s2 := ((List.range 4).foldl (fun s d => s.revoke v d 0 31) s1).closeLaunches v
      let s3 := (s2.vd v).objs.foldl (fun s o => (s.vWrite v (dirBase v + 32 * o.dirSlot) (List.replicate 32 0)).cacheDrop (cacheKey v o.handle)) s2
      let s4 := (s3.dropTlbs fun p => p.vd == v).modVd v Vd.flr
      { (List.range 4).foldl (fun s d => s.modDie d fun x => { x with tgen := x.tgen + 1, walks := x.walks.filter fun w => w.1 != v }) s4 with
        directed := s4.directed.filter fun t => t.vd != v, flue := s4.flue.filter fun f => f.vd != v
        bandq := s4.bandq })

/-! ## Conversion, rails and the Chimney (R46-R53) -/

/-- CONVERTER_FAULT: converter `unit` is switched off, and the package limit falls (R46). -/
def execConverterFault (s : State) : Step :=
  .next (if s.ev.unit ≥ 4 || !s.convOk.getLsbD s.ev.unit then s
    else
      let ok := s.convOk &&& ~~~(1 <<< s.ev.unit : BitVec 4)
      let n := ((List.range 4).filter fun i => ok.getLsbD i).length
      { s with convOk := ok, pkgLimit := 900 * n - 320 })

/-- Rails of the compute dies, of the hub die and of the converters (R47). -/
def railCount (d : Nat) : Nat :=
  match d with
  | 4 => 3
  | 5 => 4
  | _ => 5

/-- A telemetry word (R48). -/
def railWord (mv ma temp seq : Nat) : Word := BitVec.ofNat 64 (mv % 2 ^ 16 * 2 ^ 48 + ma % 2 ^ 24 * 2 ^ 24 + temp % 2 ^ 12 * 2 ^ 12 + seq % 4096)

/-- The power of a die by the words of its five rails, in W. -/
def railPower (t : Table Word) : Nat := ((List.range 5).map fun k => bits (tget 0 t k).toNat 48 16 * bits (tget 0 t k).toNat 24 24).sum / 1000000

/-- TEMP of a telemetry word, signed. -/
def railTemp (w : Word) : Int := (BitVec.ofNat 12 (bits w.toNat 12 12)).toInt

/-- The average of a rail's samples, with the SEQ of the newest, which comes first (R48, assumption 81). -/
def railMean (ws : List Word) : Word :=
  let n := Nat.max ws.length 1
  railWord ((ws.map fun w => bits w.toNat 48 16).sum / n) ((ws.map fun w => bits w.toNat 24 24).sum / n)
    (BitVec.ofInt 12 ((ws.map railTemp).sum / (n : Int))).toNat (bits (ws.headD 0).toNat 0 12)

/-- RAIL_SAMPLE: rail `idx` of die `unit` (4 the hub die, 5 the converters), 10 µs after its last sample or later: its sample is replaced whole by what has
been measured (the values: MV, MA and TEMP), its average is that of its last hundred samples, 1 ms, and the die's power goes with them (R48, R53). The
first sample has SEQ 1 (assumption 81). -/
def execRailSample (s : State) : Step :=
  let e := s.ev
  .next (if e.unit > 5 || railCount e.unit ≤ e.idx || s.now < tget 0 (s.die e.unit).railDue e.idx then s
    else s.modDie e.unit fun d =>
      let w := railWord (e.val 0) (e.val 1) (e.val 2) (bits (tget 0 d.rails e.idx).toNat 0 12 + 1)
      let hist := (w :: tget [] d.railHist e.idx).take 100
      let rails := tset 0 d.rails e.idx w
      let avg := tset 0 d.railAvg e.idx (railMean hist)
      { d with rails := rails, railAvg := avg, railHist := tset [] d.railHist e.idx hist, railDue := tset 0 d.railDue e.idx (s.now + 18000)
               pinst := railPower rails % 2 ^ 16, pavg := railPower avg % 2 ^ 16 })

/-- The effective cap of a die (R46, R49): the least of BOILW, CAPW and the converters' share; with EN = 0 the share alone. -/
def State.effCap (s : State) (n : Nat) : Nat :=
  let d := s.die n
  if d.capEn then Nat.min (Nat.min d.boilw d.capw) (s.pkgLimit / 4) else s.pkgLimit / 4

/-- The cap under thermal limiting: 10 W lower for each 0.125 °C above 105 °C (R52). -/
def thermCap (cap temp : Nat) : Nat := cap - 10 * (temp - 840)

/-- The fires that a die can start in a microsecond at a clock (R246, R50). -/
def fireRoom (mhz : Nat) : Nat := 8 * mhz

/-- CHIMNEY_STEP: the Chimney of die `unit`, whose hottest sensor stands at the first value in 0.125 °C, moves its fire ceiling to the second value
(`sub` 0) or its clock by 50 MHz (`sub` 1). Above the cap the ceiling goes down first, and the clock only once the ceiling and the fires started lie
within what the lower clock can start, at a microsecond boundary of the package time base and 10 µs after the step before; below the cap the clock comes
back first (R50, R52, R53, R246). BOIL is set where BOILW is the least of the figures, a tie included (assumption 82). -/
def execChimneyStep (s : State) : Step :=
  let e := s.ev
  let n := e.unit
  let d := s.die n
  let cap := thermCap (s.effCap n) (e.val 0)
  let isOver := decide (cap < d.pavg) || decide (5 * cap < 4 * d.pinst)
  let mark (d : Die) : Die :=
    { d with capped := true, therm := d.therm || decide (840 < e.val 0)
             boil := d.boil || (d.capEn && decide (d.boilw ≤ d.capw) && decide (d.boilw ≤ s.pkgLimit / 4)) }
  let atStep := (s.now - s.base) % 1800 == 0 && d.cyc == 0 && (d.calm = 0 || d.calm + 18000 ≤ s.now)
  .next (if n ≥ 4 then s
    else if isOver then
      if e.sub = 0 then (if e.val 1 < d.fceil then s.setDie n (mark { d with fceil := e.val 1 }) else s)
      else if atStep && 950 ≤ d.fclk && d.fceil ≤ fireRoom (d.fclk - 50) && d.fPrev ≤ fireRoom (d.fclk - 50) then
        s.setDie n (mark { d with fclk := d.fclk - 50, calm := s.now })
      else s
    else if e.sub = 0 then
      (if d.fclk = 1800 && d.fceil < e.val 1 then s.setDie n { d with fceil := Nat.min 14400 (e.val 1) } else s)
    else if atStep && d.fclk + 50 ≤ 1800 then s.setDie n { d with fclk := d.fclk + 50, calm := s.now }
    else s)

/-- A graph is killed with data loss: its region halts and its launch is due to complete with LOST (R52, R76, R114). -/
def State.killRun (s : State) (rid : Nat) : State := s.haltRun rid 0x100

/-- THERMAL_TRIP: the hottest sensor of die `unit` has reached 115 °C, the first value in 0.125 °C (R52, R53). -/
def execThermalTrip (s : State) : Step :=
  let n := s.ev.unit
  .next (if n ≥ 4 || s.ev.val 0 < 920 || (s.die n).tripped then s
    else (s.runs.filter fun r => r.die == n).foldl (fun s r => s.killRun r.id)
      (s.modDie n fun d => { d with tripped := true, trip := true }))

/-! ## Connectors and links (R54, R55, R57) -/

/-- The grade of a connector by the margin in percent of its trained value and the retrains in an hour: 0 GOOD, 1 WORN, 2 FAILING (R54). -/
def gradeOf (margin retrains : Nat) : Nat := if margin < 35 || 100 ≤ retrains then 2 else if margin < 60 || 10 ≤ retrains then 1 else 0

/-- CONNECTOR_GRADE: connector `unit` (0 the host's, 1-8 those of the pod links) is graded by the values measured; while its link stays up a grade never
improves, and a change to WORN or FAILING is an event in the physical function's fault queue, whose bytes the spec does not lay out (assumption 33). -/
def execConnectorGrade (s : State) : Step :=
  let e := s.ev
  let old := tget 0 s.grades e.unit
  let new := Nat.max old (gradeOf (e.val 0) (e.val 1))
  .next (if e.unit > 8 || new = old then s
    else
      let bs := (List.range 64).map fun i => BitVec.ofNat 8 (Config.freeNat (s.free + i))
      { s with grades := tset 0 s.grades e.unit new, free := s.free + 64 }.fqPut 0 bs)

/-- The SPARE levels of the host link's Dampers are kept as its rate changes (R107). -/
def State.pinSpare (s : State) : State :=
  [0, 1].foldl (fun s i => let d := s.damper (dampKey 5 i)
    s.setDamper (dampKey 5 i) (d.setSpare (d.spareLevel (s.usable 5 i)))) s

/-- The messages that have waited for the link are sent, by function and vector (R65). -/
def State.sendMsix (s : State) : State :=
  (List.range 32).foldl (fun s v =>
    let p := (s.vd v).msixPend
    { s with msix := s.msix ++ ((List.range 8).filter fun i => p.getLsbD i).map fun i => (v, i) }.modVd v fun x => { x with msixPend := 0 }) s

/-- HOST_LINK_TRAIN: step 4 of a power-on, and every training after it. Once the steps before have succeeded, the link trains with a partner that reaches
the generation and the width of the values, and the command ports open; or it stays down, which Imeus reports. A link that comes up from down has its
connector graded afresh (R54, R55, R62). -/
def execHostLinkTrain (s : State) : Step :=
  let e := s.ev
  .next (if !s.booted || !s.inputOk then s
    else if e.val 0 < 5 || e.val 1 < 8 then { s.pinSpare with linkUp := false, reports := s.reports + 1 }
    else State.sendMsix { s.pinSpare with
      linkUp := true, up := true, linkGen := Nat.min (e.val 0) 7, linkWidth := if e.val 1 < 16 then 8 else 16
      grades := if s.linkUp then s.grades else tset 0 s.grades 0 0 })

/-- POD_LINK_RETRAIN: pod link `unit` is down (`sub` 1), or trains again from down, its connector graded afresh (`sub` 0) (R54). -/
def execPodLinkRetrain (s : State) : Step :=
  let n := s.ev.unit
  .next (if n ≥ 8 then s
    else if s.ev.sub ≠ 0 then { s with podLinks := s.podLinks &&& ~~~(1 <<< n : BitVec 8) }
    else if s.podLinks.getLsbD n then s
    else { s with podLinks := s.podLinks ||| 1 <<< n, grades := tset 0 s.grades (n + 1) 0 })

/-! ## Soft errors (R114, R339, R340) -/

def State.countUncorr (s : State) (die : Nat) : State := s.modDie die fun d => { d with uncorr := (d.uncorr + 1) % 2 ^ 32 }

/-- The TAGPAR event of an L2 tag (R114, R327). INST and the low bits of SRC, which the spec does not fill, are free values (assumption 34). -/
def State.tagEvent (s : State) (vd die key way : Nat) : State :=
  let f : Flt :=
    { code := 0x15, vd := vd, inst := Config.freeNat s.free % 2 ^ 16, src := die * 512 + Config.freeNat (s.free + 1) % 512, isOver := false
      time := s.time
      body := eccBody 5 0 0xFFFF (key / 256 * 2 ^ 16 + key % 256 * 2 ^ 8 + way) (s.die die).cycles (Config.freeNat (s.free + 2) % 3) 0
      run := none, held := none }
  { s with free := s.free + 3 }.fqWrite f

/-- What becomes of the running instances of a virtual device whose lines may be lost, those off their turn on a shared strip among them: rollback, which
finds one that is off its turn at its newest cut already, or a kill (R110, R114). -/
def State.rollOrKill (s : State) (vd : Nat) : State :=
  (s.runs.filter fun r => r.vd == vd && (r.works || r.st == .yielded)).foldl (fun s r =>
    if !r.eligible then s.killRun r.id else if r.works then s.modRun r.id Run.rollsBack else s) s

/-- TAGPAR: a parity error in an L2 tag of die `unit`: slice and set by the key `idx` (slice · 256 + set), way by the first value; the owner field is
trusted where `sub` = 0 (R114). -/
def execTagpar (s : State) : Step :=
  let e := s.ev
  let d := s.die e.unit
  let key := e.idx
  let way := e.val 0
  .next (if e.unit ≥ 4 || way ≥ 16 || key ≥ 8192 then s
    else
      let ls := tget [] d.l2 key
      let hit := if e.sub = 0 then (ls.filter fun l => l.way == way).map (·.vd)
        else (List.range 32).filter fun v => (s.wayMask v e.unit).getLsbD way
      let s := (s.setDie e.unit { d with l2 := tset [] d.l2 key (ls.filter fun l => l.way != way) }).countUncorr e.unit
      hit.foldl (fun s v => (s.tagEvent v e.unit key way).rollOrKill v) s)

/-- The address ranges that an instance declares contain a physical address. -/
def State.declares (s : State) (r : Run) (pa : Nat) : Bool :=
  r.graph.ranges.any fun g => (s.pagesOf r.vd).any fun p =>
    p.pa ≤ pa && pa < p.pa + p.size && g.base ≤ p.va + (pa - p.pa) && p.va + (pa - p.pa) < g.base + g.size

/-- A sector is poisoned: every read of it raises ECC until it is fully written. -/
def State.poisonSector (s : State) (pa : Nat) : State :=
  { s with poison := (List.range 128).foldl (fun t i => tset false t (pa / 128 * 128 + i) true) s.poison }

/-- An error in an object of a core: the instance that owns it rolls back or halts; with no instance there it is only counted. -/
def State.eccCore (s : State) (core code kind obj node addr : Nat) : State :=
  let s := s.countUncorr (dieOf core)
  match s.regionRun core with
  | none => s
  | some r => s.eccAct r.id code core kind obj node addr (s.cycle core)

/-- The owner that an object's list of sharers names. -/
def ownerOf (l : List Nat) : Nat := l.headD 0xFFFF

/-- The die of a place of error. -/
def siteDie (s : State) : EccSite → Nat
  | .l1 c => dieOf c
  | .coreMem c _ _ => dieOf c
  | .chanBuf c => dieOf c
  | .tileSlot c _ _ => dieOf c
  | .accum c _ => dieOf c
  | .mantel c _ _ => dieOf c
  | .l2data _ pa => paDie pa
  | .dram pa => paDie pa
  | .config r => ((s.run r).map (·.die)).getD 0

/-- The line of the home slice that holds an address's sector, by a fill or by writes (R295). -/
def State.l2Holder (s : State) (pa : Nat) : Option L2Line :=
  (tget [] (s.die (paDie pa)).l2 (l2Key pa)).find? fun l => l.line == pa / 512 &&
    (l.valid.getLsbD (sectorOf pa) || l.dirty.any fun b => b.1 / 128 == pa / 128)

/-- An uncorrectable error in L2 data: the line loses the sector's dirty bytes and full-empty bits (R339). -/
def State.eccL2 (s : State) (pa : Nat) : State :=
  let die := paDie pa
  let clean (l : L2Line) : L2Line :=
    { l with dirty := l.dirty.filter fun (b : Nat × Byte) => b.1 / 128 != pa / 128, fe := l.fe.filter fun (b : Nat × Bool) => b.1 / 16 != pa / 128 }
  let s1 := ((s.countUncorr die).modDie die fun d =>
    { d with l2 := tset [] d.l2 (l2Key pa) (replaceFirst (fun l => l.line == pa / 512) clean (tget [] d.l2 (l2Key pa))) }).poisonSector pa
  match s.l2Holder pa with
  | none => s
  | some l =>
    let hit := s.runs.filter fun r => r.vd == l.vd && s.declares r pa
    let src := die * 512 + Config.freeNat s.free % 512
    let s1 := { s1 with free := s.free + 2 }
    if hit.isEmpty then
      s1.fqWrite { code := 0x14, vd := l.vd, inst := Config.freeNat (s.free + 1) % 2 ^ 16, src := src, isOver := false, time := s.time
                   body := eccBody 5 0 0xFFFF pa (s.die die).cycles 2 0, run := none, held := none }
    else hit.foldl (fun s r => s.eccAct r.id 0x14 src 5 0 0xFFFF pa (s.die die).cycles) s1

/-- An error in the configuration of a run: BLOCKED while its launch is being configured, else ECC, and the region halts. The element's coordinate and
the kind of memory, for which the spec gives no code, are free values (assumption 35). -/
def State.eccConfig (s : State) (rid core : Nat) : State :=
  match s.run rid with
  | none => s
  | some r =>
    let s := (s.countUncorr r.die)
    if r.confAt = s.cycleOf r && r.phase = 0 && r.cutNo = 0 && !r.fired then
      let res := Config.freeNat s.free % 2 ^ 16 + core % 2048 * 2 ^ 16
      (({ s with free := s.free + 1 }).finishOpt r.cmd 14 0 res).endRun rid 14 0 11
    else
      let f : Flt :=
        { code := 0x14, vd := r.vd, inst := rid % 2 ^ 16, src := core, isOver := false, time := s.time
          body := eccBody (Config.freeNat s.free % 256) 0 0xFFFF 0 (s.cycle core) 1 0, run := none, held := none }
      (({ s with free := s.free + 1 }).onFlue f).haltRun rid 0x14

/-- ECC: an error at the place of the event: corrected, and only counted (`sub` 1), or uncorrectable (`sub` 0). For an L1 error the first value is the
line; for a configuration error it is the core of the element. DRAM is read only for a sector that no slice holds (R339, R340). -/
def execEcc (s : State) : Step :=
  let e := s.ev
  .next (match e.site with
    | none => s
    | some site =>
      if e.sub = 1 then s.modDie (siteDie s site) fun d => { d with corr := (d.corr + 1) % 2 ^ 32 }
      else match site with
      | .l1 c => (s.modCore c fun k => { k with l1 := k.l1.filter fun l => l.line != e.val 0 }).countUncorr (dieOf c)
      | .coreMem c b a => s.eccCore c 0x14 0 b (ownerOf (tget [] (s.core c).bankSharers b)) a
      | .chanBuf c => s.eccCore c 0x14 1 0 0xFFFF 0
      | .tileSlot c n tag => s.eccCore c (if tag then 0x15 else 0x14) 2 n (ownerOf (tget Slot.init (s.core c).tiles n).sharers) 0
      | .accum c n => s.eccCore c 0x14 3 n (ownerOf (tget Acc.init (s.core c).accs n).sharers) 0
      | .mantel c n tag => s.eccCore c (if tag then 0x15 else 0x14) 4 n (ownerOf (tget Slot.init (s.core c).mantel n).sharers) 0
      | .l2data _ pa => s.eccL2 pa
      | .dram pa => if (s.l2Holder pa).any fun l => s.l2Has l.vd pa then s else (s.countUncorr (paDie pa)).poisonSector pa
      | .config r => s.eccConfig r (e.val 0))

end Sys2Proof.Machine
end

