-- ==== Sys2Proof/Machine/Vector.lean ====
section
/-! DEFINITION. The vector words on integer elements, masks and permutations (16 R396-R402, R411, R412, R417-R421). -/

namespace Sys2Proof.Machine

/-- WriteLanes: the destination of `n`-byte elements under a mask control (R397). -/
def writeLanes (c : Ctx) (mc : MaskCtl) (d : Reg) (n : Nat) (r : Nat → Nat) : Vec :=
  let m := c.mr mc.ms.toNat
  let old := c.vr d
  mkVec n fun j => if maskAt m n j then r j else if mc.zm then 0 else lane old n j

/-- A vector word that writes elements of type `ty` under a mask, with latency `lat` and no flag. -/
def issueV (h : Hdr) (ty : BitVec 4) (d : Reg) (lat : Nat) (mc : MaskCtl) (r : Ctx → Nat → Nat) (s : State) : Step :=
  issue h [(0, 2)] 1 (fun s cid =>
    .next (s.modCtx cid fun c => c.pendV d (writeLanes c mc d (tyW ty.toNat) (r c)) lat)) s

/-- A vector word that writes its whole destination. -/
def issueVw (h : Hdr) (d : Reg) (lat : Nat) (r : Ctx → Vec) (s : State) : Step :=
  issue h [(0, 2)] 1 (fun s cid => .next (s.modCtx cid fun c => c.pendV d (r c) lat)) s

/-- A vector word that writes a scalar. -/
def issueVx (h : Hdr) (d : Reg) (lat : Nat) (r : Ctx → Word) (s : State) : Step :=
  issue h [(0, 2)] 1 (fun s cid => .next (s.modCtx cid fun c => c.pendX d (r c) lat)) s

/-- A vector word that writes a mask whole. -/
def issueVm (h : Hdr) (d : Reg) (r : Ctx → Mask) (s : State) : Step :=
  issue h [(0, 2)] 1 (fun s cid => .next (s.modCtx cid fun c => c.pendM d (r c) 2)) s

/-- Element `j` of a register read as a number of an integer type (R396). -/
def numAt (ty : BitVec 4) (v : Vec) (j : Nat) : Int := laneI (tyIsSigned ty.toNat) v (tyW ty.toNat) j

/-- Element `j` of a register as a pattern. -/
def patAt (ty : BitVec 4) (v : Vec) (j : Nat) : Nat := lane v (tyW ty.toNat) j

/-- FitW (R401). -/
def fitW (c : Ctx) (ty : Nat) (v : Int) (rm : BitVec 3) : Nat :=
  let w := 8 * tyW ty
  ((if rmMode c rm = 5 then (if tyIsSigned ty then clampS w v else clampU w v) else v) % 2 ^ w).toNat

/-- VADD (R401). -/
def execVadd (h : Hdr) (ty : BitVec 4) (d a b : Reg) (rm : BitVec 3) (mc : MaskCtl) (s : State) : Step :=
  issueV h ty d 2 mc (fun c j => fitW c ty.toNat (numAt ty (c.vr a) j + numAt ty (c.vr b) j) rm) s
/-- VSUB (R401). -/
def execVsub (h : Hdr) (ty : BitVec 4) (d a b : Reg) (rm : BitVec 3) (mc : MaskCtl) (s : State) : Step :=
  issueV h ty d 2 mc (fun c j => fitW c ty.toNat (numAt ty (c.vr a) j - numAt ty (c.vr b) j) rm) s
/-- VMUL (R401). -/
def execVmul (h : Hdr) (ty : BitVec 4) (d a b : Reg) (rm : BitVec 3) (mc : MaskCtl) (s : State) : Step :=
  issueV h ty d 2 mc (fun c j => fitW c ty.toNat (numAt ty (c.vr a) j * numAt ty (c.vr b) j) rm) s
/-- VMULH: the high half of the exact product (R401). -/
def execVmulh (h : Hdr) (ty : BitVec 4) (d a b : Reg) (mc : MaskCtl) (s : State) : Step :=
  issueV h ty d 2 mc (fun c j =>
    let w := 8 * tyW ty.toNat
    (numAt ty (c.vr a) j * numAt ty (c.vr b) j / 2 ^ w % 2 ^ w).toNat) s
/-- VMAC (R401). -/
def execVmac (h : Hdr) (ty : BitVec 4) (d a b c' : Reg) (rm : BitVec 3) (mc : MaskCtl) (s : State) : Step :=
  issueV h ty d 2 mc (fun c j =>
    fitW c ty.toNat (numAt ty (c.vr a) j * numAt ty (c.vr b) j + numAt ty (c.vr c') j) rm) s
/-- VMIN (R401). -/
def execVmin (h : Hdr) (ty : BitVec 4) (d a b : Reg) (mc : MaskCtl) (s : State) : Step :=
  issueV h ty d 2 mc (fun c j =>
    if numAt ty (c.vr a) j < numAt ty (c.vr b) j then patAt ty (c.vr a) j else patAt ty (c.vr b) j) s
/-- VMAX (R401). -/
def execVmax (h : Hdr) (ty : BitVec 4) (d a b : Reg) (mc : MaskCtl) (s : State) : Step :=
  issueV h ty d 2 mc (fun c j =>
    if numAt ty (c.vr a) j < numAt ty (c.vr b) j then patAt ty (c.vr b) j else patAt ty (c.vr a) j) s
/-- VABS (R401). -/
def execVabs (h : Hdr) (ty : BitVec 4) (d a : Reg) (rm : BitVec 3) (mc : MaskCtl) (s : State) : Step :=
  issueV h ty d 2 mc (fun c j => fitW c ty.toNat ((numAt ty (c.vr a) j).natAbs : Int) rm) s
/-- VNEG (R401). -/
def execVneg (h : Hdr) (ty : BitVec 4) (d a : Reg) (rm : BitVec 3) (mc : MaskCtl) (s : State) : Step :=
  issueV h ty d 2 mc (fun c j => fitW c ty.toNat (-(numAt ty (c.vr a) j)) rm) s
/-- VAND (R401). -/
def execVand (h : Hdr) (ty : BitVec 4) (d a b : Reg) (mc : MaskCtl) (s : State) : Step :=
  issueV h ty d 2 mc (fun c j => patAt ty (c.vr a &&& c.vr b) j) s
/-- VOR (R401). -/
def execVor (h : Hdr) (ty : BitVec 4) (d a b : Reg) (mc : MaskCtl) (s : State) : Step :=
  issueV h ty d 2 mc (fun c j => patAt ty (c.vr a ||| c.vr b) j) s
/-- VXOR (R401). -/
def execVxor (h : Hdr) (ty : BitVec 4) (d a b : Reg) (mc : MaskCtl) (s : State) : Step :=
  issueV h ty d 2 mc (fun c j => patAt ty (c.vr a ^^^ c.vr b) j) s
/-- VNOT (R401). -/
def execVnot (h : Hdr) (ty : BitVec 4) (d a : Reg) (mc : MaskCtl) (s : State) : Step :=
  issueV h ty d 2 mc (fun c j => patAt ty (~~~(c.vr a)) j) s
/-- VANDN (R401). -/
def execVandn (h : Hdr) (ty : BitVec 4) (d a b : Reg) (mc : MaskCtl) (s : State) : Step :=
  issueV h ty d 2 mc (fun c j => patAt ty (c.vr a &&& ~~~(c.vr b)) j) s

/-- The count of a vector shift: the low bits of b (R401). -/
def vshamt (ty : BitVec 4) (v : Vec) (j : Nat) : Nat := patAt ty v j % (8 * tyW ty.toNat)

/-- VSHL (R401). -/
def execVshl (h : Hdr) (ty : BitVec 4) (d a b : Reg) (mc : MaskCtl) (s : State) : Step :=
  issueV h ty d 2 mc (fun c j => patAt ty (c.vr a) j * 2 ^ vshamt ty (c.vr b) j) s
/-- VSHR (R401). -/
def execVshr (h : Hdr) (ty : BitVec 4) (d a b : Reg) (mc : MaskCtl) (s : State) : Step :=
  issueV h ty d 2 mc (fun c j => patAt ty (c.vr a) j / 2 ^ vshamt ty (c.vr b) j) s
/-- VSAR: filled with bit w − 1 whatever the signedness of TY (R401). -/
def execVsar (h : Hdr) (ty : BitVec 4) (d a b : Reg) (mc : MaskCtl) (s : State) : Step :=
  issueV h ty d 2 mc (fun c j =>
    (laneI true (c.vr a) (tyW ty.toNat) j / 2 ^ vshamt ty (c.vr b) j % 2 ^ (8 * tyW ty.toNat)).toNat) s
/-- VSEL: every element, chosen by mC (R401). -/
def execVsel (h : Hdr) (ty : BitVec 4) (d a b m : Reg) (s : State) : Step :=
  issueVw h d 2 (fun c => mkVec (tyW ty.toNat) fun j =>
    if maskAt (c.mr m.toNat) (tyW ty.toNat) j then patAt ty (c.vr a) j else patAt ty (c.vr b) j) s

/-- Whether a value of an F type is below another, with -0 equal to +0; false with a NaN (R402). -/
def fLess (a b : FVal) : Bool :=
  match a, b with
  | .nan _, _ => false
  | _, .nan _ => false
  | .inf n, .inf k => n && !k
  | .inf n, _ => n
  | _, .inf k => !k
  | a, b =>
    let m (x : FVal) : Int × Int := match x with | .fin m e => (m, e) | _ => (0, 0)
    let e := min (m a).2 (m b).2
    (m a).1 * 2 ^ ((m a).2 - e).toNat < (m b).1 * 2 ^ ((m b).2 - e).toNat

def FVal.isNan : FVal → Bool
  | .nan _ => true
  | _ => false

def FVal.isSig : FVal → Bool
  | .nan sig => sig
  | _ => false

/-- A value comparison of an F type (R355, R402). -/
def cmpF (cc : BitVec 4) (a b : FVal) : Bool :=
  if a.isNan || b.isNan then cc == 1
  else match cc.toNat with
  | 0 => !fLess a b && !fLess b a
  | 1 => fLess a b || fLess b a
  | 2 => fLess a b
  | 3 => !fLess a b
  | 6 => !fLess b a
  | _ => fLess b a

/-- The unsigned codes of CC: they compare raw bits (R355). -/
def ccUnsigned (cc : BitVec 4) : Bool := cc == 4 || cc == 5 || cc == 8 || cc == 9

/-- One comparison of VCMP (R402). -/
def vcmpAt (cc ty : BitVec 4) (a b : Vec) (j : Nat) : Bool :=
  let w := 8 * tyW ty.toNat
  if tyIsInt ty.toNat || ccUnsigned cc then
    cmpCC cc (BitVec.ofNat w (patAt ty a j)) (BitVec.ofNat w (patAt ty b j))
  else cmpF cc (decodeF ty.toNat (patAt ty a j)) (decodeF ty.toNat (patAt ty b j))

/-- VCMP: every bit of an active element's group; a value comparison that reads a signalling NaN sets NV (R402). -/
def execVcmp (h : Hdr) (cc ty : BitVec 4) (d a b : Reg) (mc : MaskCtl) (s : State) : Step :=
  issue h [(0, 2)] 1 (fun s cid =>
    let c := s.ctx cid
    let w := tyW ty.toNat
    let g := c.mr mc.ms.toNat
    let old := c.mr d.toNat
    let r := mkMask w fun j => maskAt g w j && vcmpAt cc ty (c.vr a) (c.vr b) j
    let keep := mkMask w fun j => !maskAt g w j && !mc.zm
    let nv := !tyIsInt ty.toNat && !ccUnsigned cc && (List.range (256 / w)).any fun j => maskAt g w j &&
      ((decodeF ty.toNat (patAt ty (c.vr a) j)).isSig || (decodeF ty.toNat (patAt ty (c.vr b) j)).isSig)
    .next (s.setCtx cid ((c.pendM d (r ||| (old &&& keep)) 2).orFlags (if nv then flNV else 0)))) s

/-- VPACK (R411). -/
def execVpack (h : Hdr) (ty : BitVec 4) (d a b : Reg) (rm : BitVec 3) (mc : MaskCtl) (s : State) : Step :=
  let dt := ty.toNat - 2
  issueV h (BitVec.ofNat 4 dt) d 3 mc (fun c j =>
    let n := 256 / tyW ty.toNat
    fitW c dt (if j < n then numAt ty (c.vr a) j else numAt ty (c.vr b) (j - n)) rm) s

/-- VUNPK (R411). -/
def execVunpk (h : Hdr) (ty : BitVec 4) (d a : Reg) (hi : Bool) (mc : MaskCtl) (s : State) : Step :=
  let ws := tyW ty.toNat
  issueV h (BitVec.ofNat 4 (ty.toNat + 2)) d 3 mc (fun c j =>
    (numAt ty (c.vr a) ((if hi then 128 / ws else 0) + j) % 2 ^ (16 * ws)).toNat) s

/-- The active elements of a reduction's source, in ascending order (R397). -/
def actives (c : Ctx) (ms : BitVec 3) (n : Nat) : List Nat :=
  (List.range (256 / n)).filter fun j => maskAt (c.mr ms.toNat) n j

/-- VRADD (R412). -/
def execVradd (h : Hdr) (ty : BitVec 4) (d a : Reg) (rm : BitVec 3) (ms : BitVec 3) (s : State) : Step :=
  issueVx h d 6 (fun c => fit64 c ((actives c ms (tyW ty.toNat)).foldl (fun t j => t + numAt ty (c.vr a) j) 0) rm) s
/-- VRMIN (R412). -/
def execVrmin (h : Hdr) (ty : BitVec 4) (d a : Reg) (ms : BitVec 3) (s : State) : Step :=
  let w := tyW ty.toNat
  issueVx h d 6 (fun c => BitVec.ofInt 64
    ((actives c ms w).foldl (fun t j => min t (laneI true (c.vr a) w j)) (2 ^ (8 * w - 1) - 1))) s
/-- VRMAX (R412). -/
def execVrmax (h : Hdr) (ty : BitVec 4) (d a : Reg) (ms : BitVec 3) (s : State) : Step :=
  let w := tyW ty.toNat
  issueVx h d 6 (fun c => BitVec.ofInt 64
    ((actives c ms w).foldl (fun t j => max t (laneI true (c.vr a) w j)) (-(2 ^ (8 * w - 1))))) s
/-- VRMINU (R412). -/
def execVrminu (h : Hdr) (ty : BitVec 4) (d a : Reg) (ms : BitVec 3) (s : State) : Step :=
  let w := tyW ty.toNat
  issueVx h d 6 (fun c => BitVec.ofNat 64
    ((actives c ms w).foldl (fun t j => min t (lane (c.vr a) w j)) (2 ^ (8 * w) - 1))) s
/-- VRMAXU (R412). -/
def execVrmaxu (h : Hdr) (ty : BitVec 4) (d a : Reg) (ms : BitVec 3) (s : State) : Step :=
  let w := tyW ty.toNat
  issueVx h d 6 (fun c => BitVec.ofNat 64 ((actives c ms w).foldl (fun t j => max t (lane (c.vr a) w j)) 0)) s
/-- VRAND (R412). -/
def execVrand (h : Hdr) (ty : BitVec 4) (d a : Reg) (ms : BitVec 3) (s : State) : Step :=
  let w := tyW ty.toNat
  issueVx h d 6 (fun c => BitVec.ofNat 64
    ((actives c ms w).foldl (fun t j => t &&& lane (c.vr a) w j) (2 ^ (8 * w) - 1))) s
/-- VROR (R412). -/
def execVror (h : Hdr) (ty : BitVec 4) (d a : Reg) (ms : BitVec 3) (s : State) : Step :=
  let w := tyW ty.toNat
  issueVx h d 6 (fun c => BitVec.ofNat 64 ((actives c ms w).foldl (fun t j => t ||| lane (c.vr a) w j) 0)) s

/-- VPERM (R417). -/
def execVperm (h : Hdr) (ty : BitVec 4) (d a b : Reg) (mc : MaskCtl) (s : State) : Step :=
  issueV h ty d 3 mc (fun c j => patAt ty (c.vr a) (patAt ty (c.vr b) j % (256 / tyW ty.toNat))) s
/-- VSLIDEUP (R417). -/
def execVslideup (h : Hdr) (ty : BitVec 4) (d a b : Reg) (mc : MaskCtl) (s : State) : Step :=
  issueV h ty d 3 mc (fun c j => if (c.xr b).toNat ≤ j then patAt ty (c.vr a) (j - (c.xr b).toNat) else 0) s
/-- VSLIDEDN (R417). -/
def execVslidedn (h : Hdr) (ty : BitVec 4) (d a b : Reg) (mc : MaskCtl) (s : State) : Step :=
  issueV h ty d 3 mc (fun c j =>
    if j + (c.xr b).toNat < 256 / tyW ty.toNat then patAt ty (c.vr a) (j + (c.xr b).toNat) else 0) s
/-- VZIP (R417). -/
def execVzip (h : Hdr) (ty : BitVec 4) (d a b : Reg) (mc : MaskCtl) (s : State) : Step :=
  issueV h ty d 3 mc (fun c j => if j % 2 = 0 then patAt ty (c.vr a) (j / 2) else patAt ty (c.vr b) (j / 2)) s
/-- VUNZIP (R417). -/
def execVunzip (h : Hdr) (ty : BitVec 4) (d a b : Reg) (mc : MaskCtl) (s : State) : Step :=
  issueV h ty d 3 mc (fun c j =>
    let n := 256 / tyW ty.toNat
    if j < n / 2 then patAt ty (c.vr a) (2 * j) else patAt ty (c.vr b) (2 * (j - n / 2))) s
/-- VREV (R417). -/
def execVrev (h : Hdr) (ty : BitVec 4) (d a : Reg) (mc : MaskCtl) (s : State) : Step :=
  issueV h ty d 3 mc (fun c j => patAt ty (c.vr a) (256 / tyW ty.toNat - 1 - j)) s
/-- VBCAST (R418). -/
def execVbcast (h : Hdr) (ty : BitVec 4) (d a : Reg) (mc : MaskCtl) (s : State) : Step :=
  issueV h ty d 3 mc (fun c _ => (c.xr a).toNat) s
/-- VEXT: sign-extended for I types, zero-extended for U and F types (R418). -/
def execVext (h : Hdr) (ty : BitVec 4) (d a b : Reg) (s : State) : Step :=
  issueVx h d 3 (fun c => BitVec.ofInt 64 (numAt ty (c.vr a) ((c.xr b).toNat % (256 / tyW ty.toNat)))) s
/-- VINS (R418). -/
def execVins (h : Hdr) (ty : BitVec 4) (d a b : Reg) (s : State) : Step :=
  issueVw h d 3 (fun c => mkVec (tyW ty.toNat) fun j =>
    if j = (c.xr b).toNat % (256 / tyW ty.toNat) then (c.xr a).toNat else patAt ty (c.vr d) j) s

/-- The elements of a register that a mask selects, in order (R419). -/
def selected (m : Mask) (n : Nat) : List Nat := (List.range (256 / n)).filter fun j => maskAt m n j

/-- VCOMPRESS (R419). -/
def execVcompress (h : Hdr) (ty : BitVec 4) (d a m : Reg) (s : State) : Step :=
  issueVw h d 3 (fun c =>
    let js := selected (c.mr m.toNat) (tyW ty.toNat)
    mkVec (tyW ty.toNat) fun i => match js[i]? with | some j => patAt ty (c.vr a) j | none => 0) s
/-- VEXPAND (R419). -/
def execVexpand (h : Hdr) (ty : BitVec 4) (d a m : Reg) (s : State) : Step :=
  issueVw h d 3 (fun c =>
    let js := selected (c.mr m.toNat) (tyW ty.toNat)
    mkVec (tyW ty.toNat) fun j => match js.idxOf? j with | some i => patAt ty (c.vr a) i | none => 0) s

/-- VSCAN: each prefix sum exact and fitted once (R420). -/
def execVscan (h : Hdr) (ty : BitVec 4) (d a : Reg) (rm : BitVec 3) (mc : MaskCtl) (s : State) : Step :=
  issueV h ty d 6 mc (fun c j =>
    fitW c ty.toNat (((actives c mc.ms (tyW ty.toNat)).filter fun i => i ≤ j).foldl (fun t i => t + numAt ty (c.vr a) i) 0) rm) s
/-- VIOTA (R420). -/
def execViota (h : Hdr) (ty : BitVec 4) (d : Reg) (mc : MaskCtl) (s : State) : Step := issueV h ty d 2 mc (fun _ j => j) s
/-- VMOV (R420). -/
def execVmov (h : Hdr) (ty : BitVec 4) (d a : Reg) (mc : MaskCtl) (s : State) : Step :=
  issueV h ty d 2 mc (fun c j => patAt ty (c.vr a) j) s

/-- MAND (R421). -/
def execMand (h : Hdr) (d a b : Reg) (s : State) : Step := issueVm h d (fun c => c.mr a.toNat &&& c.mr b.toNat) s
/-- MOR (R421). -/
def execMor (h : Hdr) (d a b : Reg) (s : State) : Step := issueVm h d (fun c => c.mr a.toNat ||| c.mr b.toNat) s
/-- MXOR (R421). -/
def execMxor (h : Hdr) (d a b : Reg) (s : State) : Step := issueVm h d (fun c => c.mr a.toNat ^^^ c.mr b.toNat) s
/-- MNOT (R421). -/
def execMnot (h : Hdr) (d a : Reg) (s : State) : Step := issueVm h d (fun c => ~~~(c.mr a.toNat)) s
/-- MPOPC (R421). -/
def execMpopc (h : Hdr) (ty : BitVec 4) (d a : Reg) (s : State) : Step :=
  issueVx h d 2 (fun c => BitVec.ofNat 64 (selected (c.mr a.toNat) (tyW ty.toNat)).length) s
/-- MFIRST (R421). -/
def execMfirst (h : Hdr) (ty : BitVec 4) (d a : Reg) (s : State) : Step :=
  issueVx h d 2 (fun c => match selected (c.mr a.toNat) (tyW ty.toNat) with
    | j :: _ => BitVec.ofNat 64 j
    | [] => BitVec.allOnes 64) s

end Sys2Proof.Machine
end

