-- ==== Sys2Proof/Machine/VectorFp.lean ====
section
/-! DEFINITION. The vector words on F32 elements, conversions, exact reductions and residues (16 R403-R410, R413-R416, 10 R279-R282). -/

namespace Sys2Proof.Machine

/-! ## One F32 operation on exact values -/

/-- The flag an operation sets that reads a NaN, by whether one is signalling (R404). -/
def nanRes (sig : Bool) : FRes := (canonNaN 12, if sig then flNV else 0)

def FVal.neg : FVal → FVal
  | .fin m e => if m = 0 then .negZero else .fin (-m) e
  | .negZero => .fin 0 0
  | .inf n => .inf (!n)
  | .nan s => .nan s

/-- The sign of a value that is no NaN. -/
def FVal.sign : FVal → Bool
  | .fin m _ => m < 0
  | .negZero => true
  | .inf n => n
  | .nan _ => false

def FVal.isZero : FVal → Bool
  | .fin m _ => m == 0
  | .negZero => true
  | _ => false

def FVal.isInf : FVal → Bool
  | .inf _ => true
  | _ => false

/-- The numerator and the exponent of a finite value. -/
def FVal.dyadic : FVal → Int × Int
  | .fin m e => (m, e)
  | _ => (0, 0)

/-- The exact sum of two finite values. -/
def sumDyadic (a b : Int × Int) : Int × Int :=
  let e := min a.2 b.2
  (a.1 * 2 ^ (a.2 - e).toNat + b.1 * 2 ^ (b.2 - e).toNat, e)

/-- a + b of two values that are no NaN, with the zero signs of R403 and the special cases of R404. -/
def addVals (rm : Nat) (a b : FVal) : FRes :=
  match a, b with
  | .inf n, .inf k => if n = k then (infOf 12 n, 0) else (canonNaN 12, flNV)
  | .inf n, _ => (infOf 12 n, 0)
  | _, .inf n => (infOf 12 n, 0)
  | a, b =>
    if a.isZero && b.isZero && a.sign == b.sign then (zeroOf 12 a.sign, 0)
    else
      let t := sumDyadic a.dyadic b.dyadic
      if t.1 = 0 then (zeroOf 12 (rm == 3), 0) else roundF 12 rm t.1 t.2

/-- The exact product of two values that are no NaN; none for 0 × ∞. -/
def mulVals (a b : FVal) : Option FVal :=
  if (a.isInf && b.isZero) || (a.isZero && b.isInf) then none
  else if a.isInf || b.isInf then some (.inf (a.sign != b.sign))
  else if a.isZero || b.isZero then some (if a.sign != b.sign then .negZero else .fin 0 0)
  else some (.fin (a.dyadic.1 * b.dyadic.1) (a.dyadic.2 + b.dyadic.2))

def f32 (u : Nat) : FVal := decodeF 12 u

/-- VFADD of one pair (R403, R404). -/
def fAdd (rm a b : Nat) : FRes :=
  if (f32 a).isNan || (f32 b).isNan then nanRes ((f32 a).isSig || (f32 b).isSig) else addVals rm (f32 a) (f32 b)

/-- VFSUB of one pair. -/
def fSub (rm a b : Nat) : FRes :=
  if (f32 a).isNan || (f32 b).isNan then nanRes ((f32 a).isSig || (f32 b).isSig) else addVals rm (f32 a) (f32 b).neg

/-- VFMUL of one pair. -/
def fMul (rm a b : Nat) : FRes :=
  if (f32 a).isNan || (f32 b).isNan then nanRes ((f32 a).isSig || (f32 b).isSig)
  else match mulVals (f32 a) (f32 b) with
  | none => (canonNaN 12, flNV)
  | some v => roundV 12 rm v

/-- VFMIN (`less` first) and VFMAX of one pair: -0 below +0, a single NaN gives the other operand (R404). -/
def fPick (max : Bool) (a b : Nat) : FRes :=
  let x := f32 a
  let y := f32 b
  let fl := if x.isSig || y.isSig then flNV else 0
  if x.isNan && y.isNan then (canonNaN 12, fl)
  else if x.isNan then (b, fl)
  else if y.isNan then (a, fl)
  else
    let aLow := fLess x y || (!fLess y x && x.sign)
    (if aLow != max then a else b, fl)

/-- VFABS and VFNEG of an element, by what bit 31 becomes (R404). -/
def fSign (f : Bool → Bool) (a : Nat) : FRes :=
  if (f32 a).isNan then nanRes (f32 a).isSig
  else (a % 2 ^ 31 + (if f (bitAt a 31) then 2 ^ 31 else 0), 0)

/-- The VFMA group: ±(a × b) ± c with one rounding (R405). -/
def fFma (negP negC : Bool) (rm a b c : Nat) : FRes :=
  let x := f32 a
  let y := f32 b
  let z := f32 c
  if (x.isInf && y.isZero) || (x.isZero && y.isInf) then (canonNaN 12, flNV)
  else if x.isNan || y.isNan || z.isNan then nanRes (x.isSig || y.isSig || z.isSig)
  else match mulVals x y with
  | none => (canonNaN 12, flNV)
  | some p => addVals rm (if negP then p.neg else p) (if negC then z.neg else z)

/-- VFCLASS of an element (R406). -/
def fClass (a : Nat) : Nat :=
  match f32 a with
  | .inf n => if n then 1 else 2 ^ 7
  | .negZero => 2 ^ 3
  | .nan sig => if sig then 2 ^ 8 else 2 ^ 9
  | .fin m _ =>
    let sub := a / 2 ^ 23 % 256 == 0
    if m = 0 then 2 ^ 4 else if m < 0 then (if sub then 2 ^ 2 else 2 ^ 1) else (if sub then 2 ^ 5 else 2 ^ 6)

/-- VFSCALE of an element by an I32 (R407). -/
def fScale (rm a : Nat) (k : Int) : FRes :=
  match f32 a with
  | .nan sig => nanRes sig
  | .inf _ => (a, 0)
  | .negZero => (a, 0)
  | .fin m e => if m = 0 then (a, 0) else roundF 12 rm m (e + k)

/-- VFGETEXP of an element (R407). -/
def fGetexp (a : Nat) : FRes :=
  match f32 a with
  | .nan _ => (0x80000000, flNV)
  | .inf _ => (0x7FFFFFFF, flNV)
  | .negZero => (0x80000000, 0)
  | .fin m e => if m = 0 then (0x80000000, 0) else ((((m.natAbs.log2 : Int) + e) % 2 ^ 32).toNat, 0)

/-! ## The element-wise words -/

/-- The flags of the elements a mask selects (R263, R398). -/
def flagsOf (c : Ctx) (mc : MaskCtl) (n : Nat) (r : Nat → FRes) : BitVec 6 :=
  (List.range (256 / n)).foldl (fun f j => if maskAt (c.mr mc.ms.toNat) n j then f ||| (r j).2 else f) 0

/-- A word on F32 elements: its results under the mask, its flags in the issue cycle. -/
def issueF (h : Hdr) (d : Reg) (lat : Nat) (mc : MaskCtl) (r : Ctx → Nat → FRes) (s : State) : Step :=
  issue h [(0, 3)] 1 (fun s cid =>
    .next (s.modCtx cid fun c =>
      (c.pendV d (writeLanes c mc d 4 fun j => (r c j).1) lat).orFlags (flagsOf c mc 4 (r c)))) s

/-- The F32 pattern of an element. -/
def fl (c : Ctx) (a : Reg) (j : Nat) : Nat := lane (c.vr a) 4 j

/-- VFADD (R404). -/
def execVfadd (h : Hdr) (d a b : Reg) (rm : BitVec 3) (mc : MaskCtl) (s : State) : Step :=
  issueF h d 4 mc (fun c j => fAdd (rmMode c rm) (fl c a j) (fl c b j)) s
/-- VFSUB (R404). -/
def execVfsub (h : Hdr) (d a b : Reg) (rm : BitVec 3) (mc : MaskCtl) (s : State) : Step :=
  issueF h d 4 mc (fun c j => fSub (rmMode c rm) (fl c a j) (fl c b j)) s
/-- VFMUL (R404). -/
def execVfmul (h : Hdr) (d a b : Reg) (rm : BitVec 3) (mc : MaskCtl) (s : State) : Step :=
  issueF h d 4 mc (fun c j => fMul (rmMode c rm) (fl c a j) (fl c b j)) s
/-- VFMIN (R404). -/
def execVfmin (h : Hdr) (d a b : Reg) (_rm : BitVec 3) (mc : MaskCtl) (s : State) : Step :=
  issueF h d 4 mc (fun c j => fPick false (fl c a j) (fl c b j)) s
/-- VFMAX (R404). -/
def execVfmax (h : Hdr) (d a b : Reg) (_rm : BitVec 3) (mc : MaskCtl) (s : State) : Step :=
  issueF h d 4 mc (fun c j => fPick true (fl c a j) (fl c b j)) s
/-- VFABS (R404). -/
def execVfabs (h : Hdr) (d a : Reg) (_rm : BitVec 3) (mc : MaskCtl) (s : State) : Step :=
  issueF h d 4 mc (fun c j => fSign (fun _ => false) (fl c a j)) s
/-- VFNEG (R404). -/
def execVfneg (h : Hdr) (d a : Reg) (_rm : BitVec 3) (mc : MaskCtl) (s : State) : Step :=
  issueF h d 4 mc (fun c j => fSign (fun b => !b) (fl c a j)) s

/-- VFMA: a × b + c (R405). -/
def execVfma (h : Hdr) (d a b c' : Reg) (rm : BitVec 3) (mc : MaskCtl) (s : State) : Step :=
  issueF h d 4 mc (fun c j => fFma false false (rmMode c rm) (fl c a j) (fl c b j) (fl c c' j)) s
/-- VFMS: a × b - c (R405). -/
def execVfms (h : Hdr) (d a b c' : Reg) (rm : BitVec 3) (mc : MaskCtl) (s : State) : Step :=
  issueF h d 4 mc (fun c j => fFma false true (rmMode c rm) (fl c a j) (fl c b j) (fl c c' j)) s
/-- VFNMA: -(a × b) - c (R405). -/
def execVfnma (h : Hdr) (d a b c' : Reg) (rm : BitVec 3) (mc : MaskCtl) (s : State) : Step :=
  issueF h d 4 mc (fun c j => fFma true true (rmMode c rm) (fl c a j) (fl c b j) (fl c c' j)) s
/-- VFNMS: -(a × b) + c (R405). -/
def execVfnms (h : Hdr) (d a b c' : Reg) (rm : BitVec 3) (mc : MaskCtl) (s : State) : Step :=
  issueF h d 4 mc (fun c j => fFma true false (rmMode c rm) (fl c a j) (fl c b j) (fl c c' j)) s

/-- The mask control of a word that admits no mask: every element active. -/
def MaskCtl.all : MaskCtl := { zm := false, ms := 0 }

/-- VFRCP: the seed in all 64 lanes (R280-R282). -/
def execVfrcp (h : Hdr) (d a : Reg) (s : State) : Step := issueF h d 6 MaskCtl.all (fun c j => seedRcp (fl c a j)) s
/-- VFRSQ: the seed in all 64 lanes (R280-R282). -/
def execVfrsq (h : Hdr) (d a : Reg) (s : State) : Step := issueF h d 6 MaskCtl.all (fun c j => seedRsq (fl c a j)) s
/-- VFCLASS (R406). -/
def execVfclass (h : Hdr) (d a : Reg) (mc : MaskCtl) (s : State) : Step :=
  issueF h d 4 mc (fun c j => (fClass (fl c a j), 0)) s
/-- VFSCALE (R407). -/
def execVfscale (h : Hdr) (d a b : Reg) (rm : BitVec 3) (mc : MaskCtl) (s : State) : Step :=
  issueF h d 4 mc (fun c j => fScale (rmMode c rm) (fl c a j) (laneI true (c.vr b) 4 j)) s
/-- VFGETEXP (R407). -/
def execVfgetexp (h : Hdr) (d a : Reg) (mc : MaskCtl) (s : State) : Step :=
  issueF h d 4 mc (fun c j => fGetexp (fl c a j)) s

/-! ## VCVT (R408-R410) -/

/-- The elements a conversion converts, as (source, destination) numbers (R409). -/
def cvtWindow (ws wd pos : Nat) : List (Nat × Nat) :=
  let n := 256 / Nat.max ws wd
  (List.range n).map fun i => if wd < ws then (i, pos * n + i) else (pos * n + i, i)

/-- The pattern of an integer type's bound of a sign. -/
def boundOf (ty : Nat) (neg : Bool) : Nat :=
  let w := 8 * tyW ty
  if tyIsSigned ty then (if neg then 2 ^ (w - 1) else 2 ^ (w - 1) - 1) else (if neg then 0 else 2 ^ w - 1)

/-- The result of an overflow element under routing (R410): saturated, a NaN as without. -/
def routed (dt : Nat) (v : FVal) (r : FRes) : FRes :=
  if v.isNan then r else (if tyIsInt dt then boundOf dt v.sign else maxFin dt v.sign, r.2)

/-- A conversion sets OF or NV. -/
def overflowed (r : FRes) : Bool := (r.2 &&& (flOF ||| flNV)) != 0

/-- VCVT's results: the destination, the flags, and the overflow elements (R409, R410). -/
def cvtRes (f : CvtF) (c : Ctx) : Vec × BitVec 6 × List Nat :=
  let ty := f.ty.toNat
  let dt := f.dt.toNat
  let wd := tyW dt
  let win := (cvtWindow (tyW ty) wd f.pos.toNat).filter fun p => maskAt (c.mr f.mc.ms.toNat) wd p.2
  let res := win.map fun p =>
    let v := decodeE ty (lane (c.vr f.a) (tyW ty) p.1)
    let r := roundV dt (rmMode c f.rm) v
    (p.2, overflowed r, if f.ovf ≠ 0 && overflowed r then routed dt v r else r)
  let ts := (cvtWindow (tyW ty) wd f.pos.toNat).map (·.2)
  let old := c.vr f.d
  (mkVec wd fun t => match res.find? fun r => r.1 == t with
      | some r => r.2.2.1
      | none => if ts.contains t && f.mc.zm then 0 else lane old wd t,
   res.foldl (fun a r => a ||| r.2.2.2) 0, (res.filter fun r => r.2.1).map (·.1))

/-- The token of the port form (R279). -/
def cvtToken (f : CvtF) (c : Ctx) (n : Nat) : Token :=
  .scalar (BitVec.ofNat 64 (n * 2 ^ 48 + f.dt.toNat * 2 ^ 44 + (if c.role.isSeg then c.segid else c.fireno.toNat) % 2 ^ 32))

/-- VCVT (R408-R410). -/
def cvtBody (f : CvtF) (s : State) (cid : Nat) : Eff :=
  let c := s.ctx cid
  let (v, fl, ov) := cvtRes f c
  let write (s : State) : State := s.modCtx cid fun c => (c.pendV f.d v 4).orFlags fl
  if f.ovf = 2 then
    match portTest s cid (16 + f.c.toNat) (some 0) with
    | some e => .trap e.1 e.2 0
    | none => .next (write (s.sendTok cid (16 + f.c.toNat) fun _ _ => cvtToken f c ov.length))
  else if f.ovf = 1 then
    .next ((write s).modCtx cid fun c => c.pendM f.c (mkMask (tyW f.dt.toNat) fun t => ov.contains t) 4)
  else .next (write s)

/-- VCVT (R408). -/
def execVcvt (h : Hdr) (f : CvtF) (s : State) : Step := issue h [(0, 3)] (if f.ovf = 1 then 2 else 1) (cvtBody f) s

/-! ## Reductions -/

/-- One level of VRFADD's tree. -/
def treeLevel (rm : Nat) : List Nat → List Nat × BitVec 6
  | a :: b :: t =>
    let r := fAdd rm a b
    let (l, f) := treeLevel rm t
    (r.1 :: l, r.2 ||| f)
  | l => (l, 0)

/-- The tree of VRFADD over a list, level by level (R413). -/
def treeAdd (rm : Nat) : Nat → List Nat → FRes
  | 0, l => (l.headD 0, 0)
  | n + 1, l =>
    let (l', f) := treeLevel rm l
    let r := treeAdd rm n l'
    (r.1, f ||| r.2)

/-- VRFADD: the fixed tree of 63 additions (R413). -/
def execVrfadd (h : Hdr) (d a : Reg) (rm : BitVec 3) (ms : BitVec 3) (s : State) : Step :=
  issue h [(0, 3)] 1 (fun s cid => .next (s.modCtx cid fun c =>
    let r := treeAdd (rmMode c rm) 6 ((List.range 64).map fun j => if maskAt (c.mr ms.toNat) 4 j then fl c a j else 0)
    (c.pendX d (BitVec.ofNat 64 r.1) 8).orFlags r.2)) s

/-- What VRXADD computes (R414): the element's number, whether a value was truncated or clamped, whether it is special, whether it was
clamped, and whether a signalling NaN was read. -/
def rxaddRes (n : BitVec 128) (anchor : BitVec 16) (vs : List FVal) : XaRes × Bool × Bool :=
  let bad (v : FVal) : Bool := v.isNan || v.isInf
  let spec := n = xaSpecial || vs.any bad
  let sig := vs.any FVal.isSig
  let fins := vs.filter fun v => !bad v
  let (t, lost) := fins.foldl (fun (acc : Int × Bool) v =>
    let g := toGrid v.dyadic.1 v.dyadic.2 (anchor.toInt - 96)
    (acc.1 + g.1, acc.2 || g.2)) (n.toInt, false)
  let r := if spec then { n := xaSpecial, xw := true, accwin := false } else xaFit t lost
  (if spec then { r with xw := r.xw || lost } else r, spec, sig)

/-- The descriptor VRXADD writes back (R414). -/
def rxaddDesc (x : Word) (xw spec : Bool) : Word :=
  ((x &&& ~~~(0xFFF : Word)) ||| 13) ||| (if xw then 0x2000 else 0) ||| (if spec then 0x4000 else 0)

/-- What the residue lane compares: Res of the element before with those of the elements added, and Res of the element after, at its weight (R415). -/
def rxaddWant (n : BitVec 128) (anchor : BitVec 16) (vs : List FVal) : Nat :=
  vs.foldl (fun a v => (a + resVal v 0) % resM) (resVal (xaVal n anchor) 0)
def rxaddFound (n : BitVec 128) (anchor : BitVec 16) : Nat := resVal (xaVal n anchor) 0

/-- VRXADD: the active elements added exactly into one XA element (R414), once the residue lane has checked it: a mismatch writes no register and raises
INTEGRITY with POINT 2, charged to the core alone (R415). In an uncertain segment what it would raise waits until the segment is certain. -/
def rxaddBody (ty : BitVec 4) (d a b : Reg) (ms : BitVec 3) (s : State) (cid : Nat) : Eff :=
  let c := s.ctx cid
  let k := (c.xr b).toNat % 32
  let desc := c.xr d
  let pair := c.pair d
  let n := BitVec.ofNat 128 (plane pair 16 k)
  let vs := (actives c ms (tyW ty.toNat)).map fun j => decodeE ty.toNat (patAt ty (c.vr a) j)
  let anchor := BitVec.ofNat 16 (bits desc.toNat 16 16)
  let (r, spec, sig) := rxaddRes n anchor vs
  let want := rxaddWant n anchor vs
  let found := rxaddFound r.n anchor
  let bad := !(r.xw || spec) && want != found
  if (r.accwin || bad) && c.uncertain then .park s (Park.of .spec)
  else if bad then
    .wait (s.integrity (c.role.run.getD 0) (srcOfCid cid) 2 0 true 0 (coreOf cid) 0 (coreOf cid) 0 want found) (Park.of .held)
  else
    let m : BitVec 4096 := (BitVec.allOnes 128).setWidth 4096 <<< (128 * k)
    let pair' := (pair &&& ~~~m) ||| (r.n.setWidth 4096 <<< (128 * k))
    let s := s.modCtx cid fun c =>
      (((c.pendV d (pair'.setWidth 2048) 10).pendV (d + 1) ((pair' >>> 2048).setWidth 2048) 10).pendX d
        (rxaddDesc desc r.xw spec) 10).orFlags ((if r.xw then flXW else 0) ||| (if sig then flNV else 0))
    .next (if r.accwin then s.accwin (c.role.run.getD 0) (srcOfCid cid) 7 d.toNat c.role.node (s.cycle (coreOf cid)) else s)

/-- VRXADD (R414). -/
def execVrxadd (h : Hdr) (ty : BitVec 4) (d a b : Reg) (ms : BitVec 3) (s : State) : Step :=
  issue h [(0, 4)] 3 (rxaddBody ty d a b ms) s

/-- VRES: the residue of the payload in a pair, read under the descriptor in xA (R416). -/
def execVres (h : Hdr) (d a : Reg) (s : State) : Step :=
  issueVx h d 6 (fun c =>
    let w := (c.xr a).toNat
    if bits w 0 4 ≥ 14 then BitVec.allOnes 64
    else
      let hd : ChunkHdr :=
        { type := bits w 0 4, scale := BitVec.ofNat 8 (bits w 4 8), coding := false, partialF := false, special := false, len := 512
          vkind := 0, vid := 0, inst := 0, chan := 0, seq := 0, res := 0, anchor := BitVec.ofNat 16 (bits w 16 16), mbz := false }
      BitVec.ofNat 64 (chunkRes hd (c.pair a))) s

end Sys2Proof.Machine
end

