-- ==== Sys2Proof/Machine/Dispatch.lean ====
section
/-! DEFINITION. The meaning of every instruction and step: one arm a constructor, each a direct call. -/

namespace Sys2Proof.Machine

def exec (i : Instr) (s : State) : Host.Outcome State Fault Refusal :=
  match i with
  | .nop h => Sys2Proof.Machine.execNop h s
  | .add h d a b rm => Sys2Proof.Machine.execAdd h d a b rm s
  | .sub h d a b rm => Sys2Proof.Machine.execSub h d a b rm s
  | .and h d a b => Sys2Proof.Machine.execAnd h d a b s
  | .or h d a b => Sys2Proof.Machine.execOr h d a b s
  | .xor h d a b => Sys2Proof.Machine.execXor h d a b s
  | .andn h d a b => Sys2Proof.Machine.execAndn h d a b s
  | .shl h d a b => Sys2Proof.Machine.execShl h d a b s
  | .shr h d a b => Sys2Proof.Machine.execShr h d a b s
  | .sar h d a b => Sys2Proof.Machine.execSar h d a b s
  | .rol h d a b => Sys2Proof.Machine.execRol h d a b s
  | .ror h d a b => Sys2Proof.Machine.execRor h d a b s
  | .min h d a b => Sys2Proof.Machine.execMin h d a b s
  | .max h d a b => Sys2Proof.Machine.execMax h d a b s
  | .minu h d a b => Sys2Proof.Machine.execMinu h d a b s
  | .maxu h d a b => Sys2Proof.Machine.execMaxu h d a b s
  | .sel h d a b c => Sys2Proof.Machine.execSel h d a b c s
  | .clz h d a => Sys2Proof.Machine.execClz h d a s
  | .ctz h d a => Sys2Proof.Machine.execCtz h d a s
  | .popc h d a => Sys2Proof.Machine.execPopc h d a s
  | .bswap h d a => Sys2Proof.Machine.execBswap h d a s
  | .bfx h d a imm => Sys2Proof.Machine.execBfx h d a imm s
  | .bfi h d a b imm => Sys2Proof.Machine.execBfi h d a b imm s
  | .lea h d a b imm => Sys2Proof.Machine.execLea h d a b imm s
  | .mul h d a b rm => Sys2Proof.Machine.execMul h d a b rm s
  | .mulh h d a b => Sys2Proof.Machine.execMulh h d a b s
  | .mulhu h d a b => Sys2Proof.Machine.execMulhu h d a b s
  | .div h d a b => Sys2Proof.Machine.execDiv h d a b s
  | .divu h d a b => Sys2Proof.Machine.execDivu h d a b s
  | .rem h d a b => Sys2Proof.Machine.execRem h d a b s
  | .remu h d a b => Sys2Proof.Machine.execRemu h d a b s
  | .madd h d a b c rm => Sys2Proof.Machine.execMadd h d a b c rm s
  | .addi h d a imm => Sys2Proof.Machine.execAddi h d a imm s
  | .andi h d a imm => Sys2Proof.Machine.execAndi h d a imm s
  | .ori h d a imm => Sys2Proof.Machine.execOri h d a imm s
  | .xori h d a imm => Sys2Proof.Machine.execXori h d a imm s
  | .shli h d a imm => Sys2Proof.Machine.execShli h d a imm s
  | .shri h d a imm => Sys2Proof.Machine.execShri h d a imm s
  | .sari h d a imm => Sys2Proof.Machine.execSari h d a imm s
  | .mini h d a imm => Sys2Proof.Machine.execMini h d a imm s
  | .maxi h d a imm => Sys2Proof.Machine.execMaxi h d a imm s
  | .muli h d a imm => Sys2Proof.Machine.execMuli h d a imm s
  | .movi h d imm => Sys2Proof.Machine.execMovi h d imm s
  | .movhi h d a imm => Sys2Proof.Machine.execMovhi h d a imm s
  | .cmp h cc d a b => Sys2Proof.Machine.execCmp h cc d a b s
  | .cmpi h cc d a imm => Sys2Proof.Machine.execCmpi h cc d a imm s
  | .pand h d a b => Sys2Proof.Machine.execPand h d a b s
  | .por h d a b => Sys2Proof.Machine.execPor h d a b s
  | .pxor h d a b => Sys2Proof.Machine.execPxor h d a b s
  | .pnot h d a => Sys2Proof.Machine.execPnot h d a s
  | .pmov h d a => Sys2Proof.Machine.execPmov h d a s
  | .br h cc a b off => Sys2Proof.Machine.execBr h cc a b off s
  | .brp h a off => Sys2Proof.Machine.execBrp h a off s
  | .jmp h off => Sys2Proof.Machine.execJmp h off s
  | .jmpr h a => Sys2Proof.Machine.execJmpr h a s
  | .call h off => Sys2Proof.Machine.execCall h off s
  | .ret h => Sys2Proof.Machine.execRet h s
  | .loop h a n => Sys2Proof.Machine.execLoop h a n s
  | .fin h => Sys2Proof.Machine.execFin h s
  | .yield h => Sys2Proof.Machine.execYield h s
  | .wait h a imm => Sys2Proof.Machine.execWait h a imm s
  | .recv h f => Sys2Proof.Machine.execRecv h f s
  | .send h f => Sys2Proof.Machine.execSend h f s
  | .peek h f => Sys2Proof.Machine.execPeek h f s
  | .avail h x port => Sys2Proof.Machine.execAvail h x port s
  | .free h x port => Sys2Proof.Machine.execFree h x port s
  | .sendk h pd nb port x => Sys2Proof.Machine.execSendk h pd nb port x s
  | .recvk h pd nb port x => Sys2Proof.Machine.execRecvk h pd nb port x s
  | .recvkTile h pd nb port slot => Sys2Proof.Machine.execRecvkTile h pd nb port slot s
  | .xsend h f core ctx => Sys2Proof.Machine.execXsend h f core ctx s
  | .ld h m => Sys2Proof.Machine.execLd h m s
  | .st h m => Sys2Proof.Machine.execSt h m s
  | .ldv h m => Sys2Proof.Machine.execLdv h m s
  | .stv h m => Sys2Proof.Machine.execStv h m s
  | .vlds h m => Sys2Proof.Machine.execVlds h m s
  | .vsts h m => Sys2Proof.Machine.execVsts h m s
  | .vgath h m => Sys2Proof.Machine.execVgath h m s
  | .vscat h m => Sys2Proof.Machine.execVscat h m s
  | .lds h m => Sys2Proof.Machine.execLds h m s
  | .stf h m => Sys2Proof.Machine.execStf h m s
  | .feset h m => Sys2Proof.Machine.execFeset h m s
  | .feclr h m => Sys2Proof.Machine.execFeclr h m s
  | .fence h ord scope => Sys2Proof.Machine.execFence h ord scope s
  | .drain h path => Sys2Proof.Machine.execDrain h path s
  | .aadd h m => Sys2Proof.Machine.execAadd h m s
  | .aand h m => Sys2Proof.Machine.execAand h m s
  | .aor h m => Sys2Proof.Machine.execAor h m s
  | .axor h m => Sys2Proof.Machine.execAxor h m s
  | .amin h m => Sys2Proof.Machine.execAmin h m s
  | .amax h m => Sys2Proof.Machine.execAmax h m s
  | .aminu h m => Sys2Proof.Machine.execAminu h m s
  | .amaxu h m => Sys2Proof.Machine.execAmaxu h m s
  | .axchg h m => Sys2Proof.Machine.execAxchg h m s
  | .acas h m => Sys2Proof.Machine.execAcas h m s
  | .atas h m => Sys2Proof.Machine.execAtas h m s
  | .bar h scope id count => Sys2Proof.Machine.execBar h scope id count s
  | .bara h scope id count => Sys2Proof.Machine.execBara h scope id count s
  | .barw h scope id => Sys2Proof.Machine.execBarw h scope id s
  | .rpush h a v ring => Sys2Proof.Machine.execRpush h a v ring s
  | .rpop h d v ring cons => Sys2Proof.Machine.execRpop h d v ring cons s
  | .rpeek h d v ring cons => Sys2Proof.Machine.execRpeek h d v ring cons s
  | .rcur h d ring cons => Sys2Proof.Machine.execRcur h d ring cons s
  | .rinit h a ring => Sys2Proof.Machine.execRinit h a ring s
  | .spawn h a kind => Sys2Proof.Machine.execSpawn h a kind s
  | .cond h d site => Sys2Proof.Machine.execCond h d site s
  | .spawnc h d a taken kind => Sys2Proof.Machine.execSpawnc h d a taken kind s
  | .resolve h a b => Sys2Proof.Machine.execResolve h a b s
  | .deviceLaunch h a b c dbg => Sys2Proof.Machine.execDeviceLaunch h a b c dbg s
  | .lkrd h d a side k => Sys2Proof.Machine.execLkrd h d a side k s
  | .copy h f => Sys2Proof.Machine.execCopy h f s
  | .copyg h f => Sys2Proof.Machine.execCopyg h f s
  | .copys h f => Sys2Proof.Machine.execCopys h f s
  | .shld h d a sp => Sys2Proof.Machine.execShld h d a sp s
  | .shst h d a sp => Sys2Proof.Machine.execShst h d a sp s
  | .shset h d a field => Sys2Proof.Machine.execShset h d a field s
  | .shget h d a field => Sys2Proof.Machine.execShget h d a field s
  | .mbind h f => Sys2Proof.Machine.execMbind h f s
  | .munbind h d => Sys2Proof.Machine.execMunbind h d s
  | .mzero h d => Sys2Proof.Machine.execMzero h d s
  | .mread h f => Sys2Proof.Machine.execMread h f s
  | .mseal h d => Sys2Proof.Machine.execMseal h d s
  | .mstat h d a => Sys2Proof.Machine.execMstat h d a s
  | .twrv h ty mantel slot a b => Sys2Proof.Machine.execTwrv h ty mantel slot a b s
  | .trdv h ty mantel slot d a => Sys2Proof.Machine.execTrdv h ty mantel slot d a s
  | .ttag h slot full => Sys2Proof.Machine.execTtag h slot full s
  | .mgroup h d a => Sys2Proof.Machine.execMgroup h d a s
  | .mreduce h d a acc => Sys2Proof.Machine.execMreduce h d a acc s
  | .mntag h ty slot full => Sys2Proof.Machine.execMntag h ty slot full s
  | .mchk h d a => Sys2Proof.Machine.execMchk h d a s
  | .vadd h ty d a b rm mc => Sys2Proof.Machine.execVadd h ty d a b rm mc s
  | .vsub h ty d a b rm mc => Sys2Proof.Machine.execVsub h ty d a b rm mc s
  | .vmul h ty d a b rm mc => Sys2Proof.Machine.execVmul h ty d a b rm mc s
  | .vmulh h ty d a b mc => Sys2Proof.Machine.execVmulh h ty d a b mc s
  | .vmac h ty d a b c rm mc => Sys2Proof.Machine.execVmac h ty d a b c rm mc s
  | .vmin h ty d a b mc => Sys2Proof.Machine.execVmin h ty d a b mc s
  | .vmax h ty d a b mc => Sys2Proof.Machine.execVmax h ty d a b mc s
  | .vabs h ty d a rm mc => Sys2Proof.Machine.execVabs h ty d a rm mc s
  | .vneg h ty d a rm mc => Sys2Proof.Machine.execVneg h ty d a rm mc s
  | .vand h ty d a b mc => Sys2Proof.Machine.execVand h ty d a b mc s
  | .vor h ty d a b mc => Sys2Proof.Machine.execVor h ty d a b mc s
  | .vxor h ty d a b mc => Sys2Proof.Machine.execVxor h ty d a b mc s
  | .vnot h ty d a mc => Sys2Proof.Machine.execVnot h ty d a mc s
  | .vandn h ty d a b mc => Sys2Proof.Machine.execVandn h ty d a b mc s
  | .vshl h ty d a b mc => Sys2Proof.Machine.execVshl h ty d a b mc s
  | .vshr h ty d a b mc => Sys2Proof.Machine.execVshr h ty d a b mc s
  | .vsar h ty d a b mc => Sys2Proof.Machine.execVsar h ty d a b mc s
  | .vsel h ty d a b c => Sys2Proof.Machine.execVsel h ty d a b c s
  | .vcmp h cc ty d a b mc => Sys2Proof.Machine.execVcmp h cc ty d a b mc s
  | .vfadd h d a b rm mc => Sys2Proof.Machine.execVfadd h d a b rm mc s
  | .vfsub h d a b rm mc => Sys2Proof.Machine.execVfsub h d a b rm mc s
  | .vfmul h d a b rm mc => Sys2Proof.Machine.execVfmul h d a b rm mc s
  | .vfmin h d a b rm mc => Sys2Proof.Machine.execVfmin h d a b rm mc s
  | .vfmax h d a b rm mc => Sys2Proof.Machine.execVfmax h d a b rm mc s
  | .vfabs h d a rm mc => Sys2Proof.Machine.execVfabs h d a rm mc s
  | .vfneg h d a rm mc => Sys2Proof.Machine.execVfneg h d a rm mc s
  | .vfma h d a b c rm mc => Sys2Proof.Machine.execVfma h d a b c rm mc s
  | .vfms h d a b c rm mc => Sys2Proof.Machine.execVfms h d a b c rm mc s
  | .vfnma h d a b c rm mc => Sys2Proof.Machine.execVfnma h d a b c rm mc s
  | .vfnms h d a b c rm mc => Sys2Proof.Machine.execVfnms h d a b c rm mc s
  | .vfrcp h d a => Sys2Proof.Machine.execVfrcp h d a s
  | .vfrsq h d a => Sys2Proof.Machine.execVfrsq h d a s
  | .vfclass h d a mc => Sys2Proof.Machine.execVfclass h d a mc s
  | .vcvt h f => Sys2Proof.Machine.execVcvt h f s
  | .vpack h ty d a b rm mc => Sys2Proof.Machine.execVpack h ty d a b rm mc s
  | .vunpk h ty d a hi mc => Sys2Proof.Machine.execVunpk h ty d a hi mc s
  | .vradd h ty d a rm ms => Sys2Proof.Machine.execVradd h ty d a rm ms s
  | .vrmin h ty d a ms => Sys2Proof.Machine.execVrmin h ty d a ms s
  | .vrmax h ty d a ms => Sys2Proof.Machine.execVrmax h ty d a ms s
  | .vrminu h ty d a ms => Sys2Proof.Machine.execVrminu h ty d a ms s
  | .vrmaxu h ty d a ms => Sys2Proof.Machine.execVrmaxu h ty d a ms s
  | .vrand h ty d a ms => Sys2Proof.Machine.execVrand h ty d a ms s
  | .vror h ty d a ms => Sys2Proof.Machine.execVror h ty d a ms s
  | .vrfadd h d a rm ms => Sys2Proof.Machine.execVrfadd h d a rm ms s
  | .vrxadd h ty d a b ms => Sys2Proof.Machine.execVrxadd h ty d a b ms s
  | .vperm h ty d a b mc => Sys2Proof.Machine.execVperm h ty d a b mc s
  | .vslideup h ty d a b mc => Sys2Proof.Machine.execVslideup h ty d a b mc s
  | .vslidedn h ty d a b mc => Sys2Proof.Machine.execVslidedn h ty d a b mc s
  | .vzip h ty d a b mc => Sys2Proof.Machine.execVzip h ty d a b mc s
  | .vunzip h ty d a b mc => Sys2Proof.Machine.execVunzip h ty d a b mc s
  | .vrev h ty d a mc => Sys2Proof.Machine.execVrev h ty d a mc s
  | .vbcast h ty d a mc => Sys2Proof.Machine.execVbcast h ty d a mc s
  | .vext h ty d a b => Sys2Proof.Machine.execVext h ty d a b s
  | .vins h ty d a b => Sys2Proof.Machine.execVins h ty d a b s
  | .vcompress h ty d a c => Sys2Proof.Machine.execVcompress h ty d a c s
  | .vexpand h ty d a c => Sys2Proof.Machine.execVexpand h ty d a c s
  | .vscan h ty d a rm mc => Sys2Proof.Machine.execVscan h ty d a rm mc s
  | .viota h ty d mc => Sys2Proof.Machine.execViota h ty d mc s
  | .mand h d a b => Sys2Proof.Machine.execMand h d a b s
  | .mor h d a b => Sys2Proof.Machine.execMor h d a b s
  | .mxor h d a b => Sys2Proof.Machine.execMxor h d a b s
  | .mnot h d a => Sys2Proof.Machine.execMnot h d a s
  | .mpopc h ty d a => Sys2Proof.Machine.execMpopc h ty d a s
  | .mfirst h ty d a => Sys2Proof.Machine.execMfirst h ty d a s
  | .vres h d a => Sys2Proof.Machine.execVres h d a s
  | .vmov h ty d a mc => Sys2Proof.Machine.execVmov h ty d a mc s
  | .vfscale h d a b rm mc => Sys2Proof.Machine.execVfscale h d a b rm mc s
  | .vfgetexp h d a mc => Sys2Proof.Machine.execVfgetexp h d a mc s
  | .query h d leaf => Sys2Proof.Machine.execQuery h d leaf s
  | .csrr h d csr => Sys2Proof.Machine.execCsrr h d csr s
  | .csrw h d a csr => Sys2Proof.Machine.execCsrw h d a csr s
  | .csrs h d a csr => Sys2Proof.Machine.execCsrs h d a csr s
  | .csrc h d a csr => Sys2Proof.Machine.execCsrc h d a csr s
  | .trap h k => Sys2Proof.Machine.execTrap h k s
  | .hret h a => Sys2Proof.Machine.execHret h a s
  | .brk h k => Sys2Proof.Machine.execBrk h k s
  | .inj h a v ch => Sys2Proof.Machine.execInj h a v ch s
  | .mark h => Sys2Proof.Machine.execMark h s
  | .idle h => Sys2Proof.Machine.execIdle h s
  | .loadObject vd port c => Sys2Proof.Machine.execLoadObject vd port c s
  | .unloadObject vd port c => Sys2Proof.Machine.execUnloadObject vd port c s
  | .launch vd port c => Sys2Proof.Machine.execLaunch vd port c s
  | .pause vd port c => Sys2Proof.Machine.execPause vd port c s
  | .resume vd port c => Sys2Proof.Machine.execResume vd port c s
  | .replace vd port c => Sys2Proof.Machine.execReplace vd port c s
  | .abort vd port c => Sys2Proof.Machine.execAbort vd port c s
  | .snapshot vd port c => Sys2Proof.Machine.execSnapshot vd port c s
  | .map vd port c => Sys2Proof.Machine.execMap vd port c s
  | .unmap vd port c => Sys2Proof.Machine.execUnmap vd port c s
  | .stripGrant vd port c => Sys2Proof.Machine.execStripGrant vd port c s
  | .stripRevoke vd port c => Sys2Proof.Machine.execStripRevoke vd port c s
  | .band vd port c => Sys2Proof.Machine.execBand vd port c s
  | .ways vd port c => Sys2Proof.Machine.execWays vd port c s
  | .grant vd port c => Sys2Proof.Machine.execGrant vd port c s
  | .ungrant vd port c => Sys2Proof.Machine.execUngrant vd port c s
  | .pod vd port c => Sys2Proof.Machine.execPod vd port c s
  | .hostFence vd port c => Sys2Proof.Machine.execHostFence vd port c s
  | .queryFeatureLeaf vd port leaf c => Sys2Proof.Machine.execQueryFeatureLeaf vd port leaf c s
  | .queryAttestationQuote vd port c => Sys2Proof.Machine.execQueryAttestationQuote vd port c s
  | .commandDispatch vd port => Sys2Proof.Machine.execCommandDispatch vd port s
  | .commandCompletion vd port seq => Sys2Proof.Machine.execCommandCompletion vd port seq s
  | .fuseAdvance len i3c => Sys2Proof.Machine.execFuseAdvance len i3c s
  | .chcapWrite die value => Sys2Proof.Machine.execChcapWrite die value s
  | .vdpolWrite vd value => Sys2Proof.Machine.execVdpolWrite vd value s
  | .vdqpolWrite vd value => Sys2Proof.Machine.execVdqpolWrite vd value s
  | .featmaskWrite vf leaf value => Sys2Proof.Machine.execFeatmaskWrite vf leaf value s
  | .belctlWrite die value => Sys2Proof.Machine.execBelctlWrite die value s
  | .registerWrite fn off value => Sys2Proof.Machine.execRegisterWrite fn off value s
  | .bar2Write vd off bytes => Sys2Proof.Machine.execBar2Write vd off bytes s
  | .bar2Read vd off len => Sys2Proof.Machine.execBar2Read vd off len s
  | .powerOn => Sys2Proof.Machine.execPowerOn s
  | .powerFail => Sys2Proof.Machine.execPowerFail s
  | .packageReset => Sys2Proof.Machine.execPackageReset s
  | .vfFlr => Sys2Proof.Machine.execVfFlr s
  | .converterFault => Sys2Proof.Machine.execConverterFault s
  | .railSample => Sys2Proof.Machine.execRailSample s
  | .chimneyStep => Sys2Proof.Machine.execChimneyStep s
  | .thermalTrip => Sys2Proof.Machine.execThermalTrip s
  | .connectorGrade => Sys2Proof.Machine.execConnectorGrade s
  | .hostLinkTrain => Sys2Proof.Machine.execHostLinkTrain s
  | .damperRefill => Sys2Proof.Machine.execDamperRefill s
  | .damperRound => Sys2Proof.Machine.execDamperRound s
  | .stripYield => Sys2Proof.Machine.execStripYield s
  | .yieldGraceExpiry => Sys2Proof.Machine.execYieldGraceExpiry s
  | .guardDrop => Sys2Proof.Machine.execGuardDrop s
  | .guardReport => Sys2Proof.Machine.execGuardReport s
  | .tagpar => Sys2Proof.Machine.execTagpar s
  | .ecc => Sys2Proof.Machine.execEcc s
  | .collectiveContribution => Sys2Proof.Machine.execCollectiveContribution s
  | .collectiveTimeout => Sys2Proof.Machine.execCollectiveTimeout s
  | .bridgeArrivalCheck => Sys2Proof.Machine.execBridgeArrivalCheck s
  | .podLinkArrivalCheck => Sys2Proof.Machine.execPodLinkArrivalCheck s
  | .lathePlace => Sys2Proof.Machine.execLathePlace s
  | .firingStart => Sys2Proof.Machine.execFiringStart s
  | .handlerFiring => Sys2Proof.Machine.execHandlerFiring s
  | .steerAction => Sys2Proof.Machine.execSteerAction s
  | .mergeAction => Sys2Proof.Machine.execMergeAction s
  | .carryAction => Sys2Proof.Machine.execCarryAction s
  | .invariantAction => Sys2Proof.Machine.execInvariantAction s
  | .loopAction => Sys2Proof.Machine.execLoopAction s
  | .loaderRound => Sys2Proof.Machine.execLoaderRound s
  | .storerRound => Sys2Proof.Machine.execStorerRound s
  | .collectiveRound => Sys2Proof.Machine.execCollectiveRound s
  | .relatchEdge => Sys2Proof.Machine.execRelatchEdge s
  | .relatchCore => Sys2Proof.Machine.execRelatchCore s
  | .pageWalk => Sys2Proof.Machine.execPageWalk s
  | .homeSliceAccess => Sys2Proof.Machine.execHomeSliceAccess s
  | .tokenLand => Sys2Proof.Machine.execTokenLand s
  | .xsendDeliver => Sys2Proof.Machine.execXsendDeliver s
  | .ringAccept => Sys2Proof.Machine.execRingAccept s
  | .selection => Sys2Proof.Machine.execSelection s
  | .phaseDrain => Sys2Proof.Machine.execPhaseDrain s
  | .phaseConfig => Sys2Proof.Machine.execPhaseConfig s
  | .bankHandoff => Sys2Proof.Machine.execBankHandoff s
  | .streamBarrierRelease => Sys2Proof.Machine.execStreamBarrierRelease s
  | .deadlock => Sys2Proof.Machine.execDeadlock s
  | .markerInject => Sys2Proof.Machine.execMarkerInject s
  | .periodicCut => Sys2Proof.Machine.execPeriodicCut s
  | .markerArrival => Sys2Proof.Machine.execMarkerArrival s
  | .elementSave => Sys2Proof.Machine.execElementSave s
  | .rollback => Sys2Proof.Machine.execRollback s
  | .faultDelivery => Sys2Proof.Machine.execFaultDelivery s
  | .segmentSelect => Sys2Proof.Machine.execSegmentSelect s
  | .specDrain => Sys2Proof.Machine.execSpecDrain s
  | .overflowRelease => Sys2Proof.Machine.execOverflowRelease s
  | .fire => Sys2Proof.Machine.execFire s
  | .mreadServe => Sys2Proof.Machine.execMreadServe s
  | .mreduceReceipt => Sys2Proof.Machine.execMreduceReceipt s
  | .bellowsTick => Sys2Proof.Machine.execBellowsTick s
  | .dummyFire => Sys2Proof.Machine.execDummyFire s
  | .copyTransfer => Sys2Proof.Machine.execCopyTransfer s
  | .copyComplete => Sys2Proof.Machine.execCopyComplete s
  | .resultWriteback => Sys2Proof.Machine.execResultWriteback s
  | .landingWrite => Sys2Proof.Machine.execLandingWrite s
  | .waitExpiry => Sys2Proof.Machine.execWaitExpiry s
  | .idleWake => Sys2Proof.Machine.execIdleWake s
  | .podLinkRetrain => Sys2Proof.Machine.execPodLinkRetrain s

end Sys2Proof.Machine
end

