-- ==== Sys2Proof/Machine/Schedule.lean ====
section
/-! DEFINITION. The order in which the machine's own steps follow one another where nothing outside names the next: every event that is due, then the
issues of a cycle, then the passing of the cycle (assumption 36). -/

namespace Sys2Proof.Machine

/-- An event of one agent. -/
def evAt (i : Instr) (unit sub idx : Nat) : Instr × Ev := (i, { Ev.none with unit := unit, sub := sub, idx := idx })

/-- The events of a run's nodes. -/
def nodeEvents (r : Run) (n : Nat) : List (Instr × Ev) :=
  match r.node n with
  | none => []
  | some d => match d.kind with
    | 1 => (match d.rkind with
      | 0 => [evAt .steerAction r.id 0 n]
      | 1 => [evAt .mergeAction r.id 0 n]
      | 2 => [evAt .carryAction r.id 0 n]
      | 3 => [evAt .invariantAction r.id 0 n]
      | _ => [evAt .loopAction r.id 0 n])
    | 2 => [evAt .loaderRound r.id 0 n]
    | 3 =>
      if d.coll.isSome then
        [evAt .bridgeArrivalCheck r.id 0 n, evAt .collectiveContribution r.id 0 n, evAt .bridgeArrivalCheck r.id 1 n, evAt .collectiveRound r.id 0 n]
      else [evAt .storerRound r.id 0 n]
    | 4 => []
    | 5 => [evAt .handlerFiring r.id 0 n]
    | _ => [evAt .firingStart r.id 0 n]

/-- The events of a run. -/
def runEvents (s : State) (r : Run) : List (Instr × Ev) :=
  let nodes := List.range r.graph.nodes.length
  let chans := List.range r.graph.chans.length
  [evAt .rollback r.id 0 0, evAt .phaseConfig r.id 0 0, evAt .markerInject r.id 0 0, evAt .periodicCut r.id 0 0] ++
  chans.flatMap (fun i => [evAt .tokenLand r.id 0 i, evAt .markerArrival r.id 0 i, evAt .streamBarrierRelease r.id 0 i]) ++
  (List.range r.graph.hands.length).map (fun i => evAt .bankHandoff r.id 0 i) ++
  nodes.map (fun n => evAt .elementSave r.id 0 n) ++ (s.segCtxs r).map (fun c => evAt .elementSave r.id 1 c) ++
  nodes.flatMap (nodeEvents r) ++
  r.rings.flatMap (fun g => (List.range g.arriving.length).map fun i => evAt .ringAccept r.id g.id i) ++
  (List.range 17).map (fun i => evAt .overflowRelease r.id i 0) ++
  [evAt .segmentSelect r.id 0 0, evAt .selection r.id 0 0, evAt .phaseDrain r.id 0 0, evAt .deadlock r.id 0 0] ++
  (if r.cmd.isNone then [evAt .faultDelivery r.id 1 0] else [])

/-- The events of a core. -/
def coreEvents (core : Nat) (k : Core) : List (Instr × Ev) :=
  (List.range k.wq.length).map (fun i => evAt .homeSliceAccess core 0 i) ++ (List.range k.relatch.length).map (fun i => evAt .relatchCore core 0 i) ++
  [evAt .fire core 0 0] ++ (List.range 4).map (fun a => evAt .mreadServe core a 0) ++
  (List.range k.copies.length).flatMap (fun i => [evAt .copyComplete core 0 i, evAt .copyTransfer core 0 i]) ++
  (if k.sendq.isEmpty then [] else [evAt .xsendDeliver core 0 0])

/-- The events of a context. -/
def ctxEvents (cid : Nat) (c : Ctx) : List (Instr × Ev) :=
  (if c.pend.isEmpty then [] else [evAt .resultWriteback cid 0 0]) ++ (if c.land.isNone then [] else [evAt .landingWrite cid 0 0]) ++
  (if c.wait.isNone then [] else [evAt .waitExpiry cid 0 0]) ++ (if c.idle.isNone then [] else [evAt .idleWake cid 0 0])

/-- The events of a die. -/
def dieEvents (n : Nat) (d : Die) : List (Instr × Ev) :=
  (List.range d.walks.length).map (fun i => evAt .pageWalk n 0 i) ++ (List.range d.guards.length).map (fun i => evAt .guardReport n 0 i) ++
  [evAt .dummyFire n 0 0]

/-- The steps of a virtual device's ports. -/
def portEvents (vd : Nat) (v : Vd) : List (Instr × Ev) :=
  v.ports.flatMap fun (p : Nat × Port) =>
    (Instr.commandDispatch vd p.1, Ev.none) :: p.2.queue.map fun c => (Instr.commandCompletion vd p.1 (BitVec.ofNat 32 c.seq), Ev.none)

/-- A round of every Damper at which a request waits. -/
def State.dampersAsked (s : State) : List (Instr × Ev) :=
  (s.waits.map (·.key)).eraseDups.map fun k => evAt .damperRound (k / 65536) (k % 65536) 0

/-- The drains of buffers, in scan order (R211, R213). -/
def State.drainEvents (s : State) : List (Instr × Ev) :=
  (scanSort ((s.ctxs.map (·.1)).filter fun cid => !(s.ownEntries cid).isEmpty)).map fun cid => evAt .specDrain cid 0 0

/-- The end of the request that the root of trust works on. -/
def State.imEvents (s : State) : List (Instr × Ev) :=
  if s.imreq.isSome then [(.fuseAdvance 0 none, { Ev.none with sub := 1 })] else []

/-- Every event that may be due, in the order in which they are looked at. -/
def State.events (s : State) : List (Instr × Ev) :=
  [evAt .damperRefill 0 0 0] ++ (List.range 4).map (fun n => evAt .bellowsTick n 0 0) ++ s.ctxs.flatMap (fun (e : Nat × Ctx) => ctxEvents e.1 e.2) ++
  s.drainEvents ++ (List.range s.directed.length).flatMap (fun i => [evAt .guardDrop 0 0 i, evAt .xsendDeliver 0 1 i]) ++
  (List.range s.xchunks.length).map (fun i => evAt .mreduceReceipt 0 0 i) ++ s.dampersAsked ++
  s.cores.flatMap (fun (e : Nat × Core) => coreEvents e.1 e.2) ++ (List.range s.edgeRel.length).map (fun i => evAt .relatchEdge 0 0 i) ++
  s.runs.flatMap (runEvents s) ++ (List.range 4).flatMap (fun n => dieEvents n (s.die n)) ++
  (List.range s.flue.length).map (fun i => evAt .faultDelivery 0 0 i) ++
  (List.range s.colls.length).map (fun i => evAt .collectiveTimeout 0 0 i) ++
  (List.range s.lathe.length).map (fun i => evAt .lathePlace 0 0 i) ++
  s.strips.flatMap (fun p => if p.shared then [evAt .stripYield p.die 0 p.col, evAt .yieldGraceExpiry p.die 0 p.col] else []) ++
  s.vds.flatMap (fun (e : Nat × Vd) => portEvents e.1 e.2) ++ s.imEvents

/-- The first event of a list that changes the machine. -/
def State.firstDue (s : State) : List (Instr × Ev) → Option (Instr × Ev)
  | [] => none
  | (i, e) :: l => match exec i { s with ev := e } with
    | .next s' => if { s' with ev := s.ev } = s then s.firstDue l else some (i, e)
    | _ => s.firstDue l

/-- A context that issues in this cycle: of those that no other goes before, one of the lowest core. -/
def State.issuer (s : State) : Option Nat :=
  let of (core : Nat) : Option Nat := (s.pick core).bind fun x => if s.gated (core * 8 + x.1) then none else some (core * 8 + x.1)
  s.cores.findSome? (fun (e : Nat × Core) => if e.2.issued then none else of e.1) |>.orElse fun _ =>
    s.ctxs.findSome? fun (e : Nat × Ctx) => if (s.core (coreOf e.1)).issued then none else of (coreOf e.1)

/-- What comes next where the agenda names nothing. -/
def State.nextTurn (s : State) : Turn :=
  match s.firstDue s.events with
  | some (i, e) => .op i e
  | none => match s.issuer with
    | some cid => .issue cid
    | none => .tick

/-- One turn: an event of an agent or a write of the host, the issue of a context, or the passing of a cycle. -/
def runTurn (t : Turn) (s : State) : Host.Outcome State Fault Refusal :=
  match t with
  | .op i e => (match exec i { s with ev := e } with
    | .next s' => .next { s' with ev := Ev.none }
    | .fault f => .fault f
    | .refused r => .refused r)
  | .issue cid => (match s.turnOf cid with
    | .stay s' => .next (s.afterIssue s' cid)
    | .word i s' => match exec i s' with
      | .next t => .next (s.afterIssue t cid)
      | .fault f => .fault f
      | .refused r => .refused r)
  | .raw vd port kind c => .next (s.command vd port kind.toNat c)
  | .tick => .next s.tick

/-! ## The instance under which a word is placed for the next step -/

/-- The address at which the word is placed, in the space of virtual device 0 and in physical memory. -/
def fetchAt : Nat := 0

/-- A graph of one operator whose body is one word. -/
def fetchGraph : Graph :=
  { nodes := [{ kind := 0, phase := 0, rkind := 0, ports := [], codeOff := 0, codeLen := 8, rounds := 0, shape := none, args := 0, coll := none }]
    chans := [], ranges := [], sites := [], phases := [{ next := 0xFF, selected := false }], hands := [], exprs := [], params := []
    marker := 0, fuse := false }

/-- Its instance: placed on context 0 of core 0, every feature latched. -/
def fetchRun (s : State) : Run :=
  { id := s.nextRun, handle := 0, vd := 0, die := 0, col := 0, width := 1, graph := fetchGraph, place := [(0, some (.ctx 0))], st := .running
    phase := 0, heldSel := none, chans := [], nodes := [], leaves := [(0, 0x3FFFF), (1, 0x3F)], argbase := 0, params := []
    codeBase := fetchAt, codeLen := 8, constBase := 0, constLen := 0, dataBase := 0, dataLen := 0, checked := true, eligible := false, debug := false
    conds := [], segs := [], nextSeg := 1, est := [], rings := [], bars := [], bankTok := [], watchdog := 0, hq := [], cut := none, cutNo := 0
    cutDue := 0, cutReq := none, saved := [], savedElems := [], poolBase := 0, reserved := [], cmd := none, pauseCmds := [], parent := none
    poolFull := false, poolParked := [], rolling := false, confAt := s.cycle 0, heldFor := 0, fullFor := 0, sgen := 0, ctxStore := [], waitSegs := [], resumeCmd := none, fired := true
    displaced := false, away := false }

end Sys2Proof.Machine
end

