-- ==== Sys2Proof/Machine/Step.lean ====
section
/-! DEFINITION. The step: the next turn of the agenda, or what comes next of itself (assumption 36). -/

namespace Sys2Proof.Machine

/-- One step. -/
def step (s : State) : Host.Outcome State Fault Refusal :=
  match s.agenda with
  | t :: rest => runTurn t { s with agenda := rest }
  | [] => runTurn s.nextTurn s

/-! ## A word where the next step fetches -/

/-- The machine with an instance of that graph in the region of column 0 of die 0, as a load and a launch leave it, the word in its body, and its context
the next to issue. -/
def State.withFetchWord (s : State) (nbits w : Nat) : State :=
  let word := BitVec.ofNat 64 (w % 2 ^ nbits)
  let page : Page := { vd := 0, va := fetchAt, size := 4096, pa := fetchAt, writable := false, sync := false }
  let s1 : State :=
    { s with
      agenda := [.issue 0], cur := none, again := none, skipped := false, runs := fetchRun s :: s.runs, nextRun := s.nextRun + 1, poison := []
      strips := State.reset.strips }
  let s2 := (s1.modVd 0 fun v => { v with pages := page :: v.pages }).devStore fetchAt 8 word.toNat
  (s2.setCtx 0 { Ctx.init with role := .op s.nextRun 0, running := true, line := some (fetchAt / 128) }).modCore 0 fun k =>
    { k with holder := 0, turnLen := 0, turnOver := false, issued := false }

end Sys2Proof.Machine
end

