-- ==== Sys2Proof/Machine/Registers.lean ====
section
/-! DEFINITION. What the host reads from BAR 0 (02 R47-R49, R53, 03 R65, R68, R70, R83, R87, R89, 04 R99, R100, 09 R247, 13 R335, R340). -/

namespace Sys2Proof.Machine

/-- A command port's status block (R70). -/
def Port.status (p : Port) (off : Nat) : Nat :=
  if off = 0x800 then p.accseq.toNat + p.queue.length * 2 ^ 32
  else if off = 0x808 then p.malf.toNat + p.seqerr.toNat * 2 ^ 32
  else if off = 0x810 then p.isOver.toNat
  else 0

/-- VDSTAT (R68, R100, R335). APBASE reads as it was last written (assumption 84). -/
def State.vdstat (s : State) (vd off : Nat) : Nat :=
  let v := s.vd vd
  if off = 0x000 then jbase vd
  else if off = 0x008 then v.jidx + v.jwrap * 2 ^ 16
  else if off = 0x010 then (v.apNext.getD v.apbase).toNat
  else if off = 0x018 then v.xlerr
  else if off = 0x020 then vd
  else if off = 0x028 then v.gdrop
  else if off = 0x030 then v.fqidx + v.fqwrap * 2 ^ 16
  else if off = 0x038 then v.fqvec.toNat + v.fqen.toNat * 2 ^ 3
  else 0

/-- VDQPOL as it reads (R99). -/
def Vd.qpol (v : Vd) : Nat := v.lmin + v.ghalt.toNat * 2 ^ 17 + v.ctmo * 2 ^ 18

/-- The registers of one die in the Chimney's range: CHCAP, CHSTAT, BELCTL and ECCCNT (R49, R53, R247, R340). -/
def Die.register (d : Die) (off : Nat) : Nat :=
  if off = 0x00 then d.capEn.toNat + d.capw * 2 ^ 16 + d.boilw * 2 ^ 32
  else if off = 0x08 then
    d.capped.toNat + d.boil.toNat * 2 + d.therm.toNat * 4 + d.trip.toNat * 8 + d.fceil * 2 ^ 4 + d.fclk * 2 ^ 20 + d.pinst * 2 ^ 32 + d.pavg * 2 ^ 48
  else if off = 0x10 then d.dmax + d.dummyCount * 2 ^ 32
  else if off = 0x18 then d.corr + d.uncorr * 2 ^ 32
  else 0

/-- A read of the 8 bytes at an aligned offset of function `fn`'s BAR 0: zero where no register stands, and zero in a virtual function's
window in the ranges that are the physical function's (R65). -/
def State.bar0 (s : State) (fn off : Nat) : Word :=
  BitVec.ofNat 64 (
    if off < 0x4000 then ((s.vd fn).port (off / 0x1000)).status (off % 0x1000)
    else if off < 0x5000 then s.vdstat fn (off - 0x4000)
    else if 0xF0000 ≤ off && off < 0xF8000 then (tget 0 (s.vd fn).msixTab ((off - 0xF0000) / 8)).toNat
    else if off = 0xF8000 then (s.vd fn).msixPend.toNat
    else if fn ≠ 0 then 0
    else if 0x10000 ≤ off && off < 0x10F80 then (tget (BitVec.allOnes 64) (s.vd ((off - 0x10000) / 0x80 + 1)).featmask ((off - 0x10000) % 0x80 / 8)).toNat
    else if 0x11000 ≤ off && off < 0x11200 then
      let v := s.vd ((off - 0x11000) / 0x10)
      if off % 0x10 = 0 then v.pol else v.qpol
    else if 0x20000 ≤ off && off < 0x20400 then (s.die ((off - 0x20000) / 0x100)).register (off % 0x100)
    else if 0x40000 ≤ off && off < 0x41000 then
      let o := off - 0x40000
      let d := s.die (o / 0x200)
      if o % 0x200 ≥ 0x50 then 0
      else if o % 0x10 = 0 then (tget 0 d.rails (o % 0x200 / 0x10)).toNat else (tget 0 d.railAvg (o % 0x200 / 0x10)).toNat
    else if 0x80000 ≤ off && off < 0x88000 then (tget 0 s.imbuf ((off - 0x80000) / 8)).toNat
    else if off = 0x88000 then s.imcmd.toNat
    else if off = 0x88008 then s.imstat.toNat
    else if off = 0x88010 then Config.serial.toNat
    else 0)

end Sys2Proof.Machine
end

