-- ==== Sys2Proof/Safety.lean ====
section
/-! DEFINITION. What claims call a safe run: the states that the machine's steps reach, the runs that never stop, and the invariants of a state. -/

namespace Sys2Proof.Machine

/-- The states that steps of the machine reach from a state. -/
inductive Reaches (s : State) : State → Prop where
  | start : Reaches s s
  | more {t u : State} (before : Reaches s t) (h : step t = .next u) : Reaches s u

/-- A state from which no step stops the machine: none ends in a fault or in a refusal. -/
def Safe (s : State) : Prop := ∀ t, Reaches s t → ∃ u, step t = .next u

/-- The memories of the package, of the host and of every core are in canonical form. -/
def State.memOk (s : State) : Bool :=
  s.dram.wf && s.hostMem.wf && s.cores.all fun (e : Nat × Core) => e.2.mem.wf

/-- No anti-rollback count of a key domain lies below a bound (R81). -/
def State.fusesAbove (low : Nat → Nat) (s : State) : Prop := ∀ d, low d ≤ s.fuse d

/-- The state that a step answers, if it answers one. -/
def nextOf (o : Host.Outcome State Fault Refusal) : Option State :=
  match o with
  | .next s => some s
  | .fault _ => none
  | .refused _ => none

/-! ## What statements about one word say -/

/-- Context `cid` issues the word of header `h` and the word executes: its run has latched the word's features, its predicate lets it,
and `n` more results find room (R365 tests 4 and 5, R350, R228). -/
structure Issues (s : State) (cid : Nat) (h : Hdr) (feats : List (Nat × Nat)) (n : Nat) : Prop where
  named : s.cur = some cid
  latched : ∀ r, s.ctxRun cid = some r → ∀ f ∈ feats, r.hasFeat f.1 f.2 = true
  lets : (s.ctx cid).pr h.pr.toNat ≠ h.pn
  room : n = 0 ∨ (s.ctx cid).pend.length + n ≤ 12

/-- Executing `i` answers a next state: the one that context `cid`'s issue makes of the effect `e`. -/
def Takes (i : Instr) (s : State) (cid : Nat) (h : Hdr) (e : Eff) : Prop := exec i s = .next (settle s cid h e)

/-- Executing `i` completes: its one effect on the machine is the result `v` for register `n` of file `f`, written `lat` cycles from the
issue, and the next word follows. -/
def Results (i : Instr) (s : State) (cid : Nat) (h : Hdr) (f : File) (n : Nat) (v : Vec) (lat : Nat) : Prop :=
  Takes i s cid h (.next (s.modCtx cid fun c => c.pendW f n v lat))

/-- The result of a word that computes a scalar. -/
def ResultX (i : Instr) (s : State) (cid : Nat) (h : Hdr) (d : Reg) (v : Word) (lat : Nat) : Prop :=
  Results i s cid h .x d.toNat (v.setWidth 2048) lat

/-- The result of a word that computes a predicate. -/
def ResultP (i : Instr) (s : State) (cid : Nat) (h : Hdr) (d : Reg) (b : Bool) (lat : Nat) : Prop :=
  Results i s cid h .p d.toNat (if b then 1 else 0) lat

/-- Executing `i` raises the fault `code`, with INFO and ADDR, and has no other effect (R327, R365). -/
def Traps (i : Instr) (s : State) (cid : Nat) (h : Hdr) (code info addr : Nat) : Prop := Takes i s cid h (.trap code info addr)

/-- Every field of the machine but its contexts and its cores is as before. -/
def SameElsewhere (s t : State) : Prop := t = { s with ctxs := t.ctxs, cores := t.cores }

end Sys2Proof.Machine
end

