-- ==== Sys2Proof/Certificates/Slice0/Obligations.lean ====
section
/-! DEFINITION. The statements of this row, from the spec's numbered rules. -/

open Sys2Proof Sys2Proof.Machine

/-! ## Words and their encoding -/

/-- Every well-formed instruction word has an encoding, and decoding it gives the instruction back: no operand bit is dropped
(R349-R364). -/
def Obligations.EncodedWordDecodesToItsInstruction : Prop :=
  ∀ i : Instr, i.isWord = true → i.wf = true → ∃ w, encode i = some w ∧ decodeWord w = .ok i

/-- A word that decodes is the encoding of the one well-formed instruction that it decodes to: no two words are one instruction, and no bit
of a word is ignored (R352, R365). -/
def Obligations.DecodedWordIsItsInstructionsEncoding : Prop :=
  ∀ (w : Word) (i : Instr), decodeWord w = .ok i → i.isWord = true ∧ i.wf = true ∧ encode i = some w

/-- Words that the spec writes out decode to the instructions they stand for (R333, R350, R365, R377, R379, R381). -/
def Obligations.SpecWordsDecode : Prop :=
  let h : Hdr := { pn := false, pr := 0, sw := false, gap := 0 }
  decodeTableWord 64 0x0000_0000_0000_0000 = some (.nop h) ∧
  decodeTableWord 64 0x0007_0000_39AD_0100 = some (.add h 13 13 14 7) ∧
  decodeTableWord 64 0x0007_0000_0D4D_0200 = some (.mul h 13 10 3 7) ∧
  decodeTableWord 64 0x0000_0038_194A_0300 = some (.sari h 10 10 56) ∧
  decodeTableWord 64 0x0000_0000_00A1_0400 = some (.cmp h 0 1 5 0) ∧
  decodeTableWord 64 0x8E20_0140_00C5_0100 = some (.bfx h 5 6 0x11C4) ∧
  decodeTableWord 64 0xFFFF_FFF9_0000_0A10 = some (.jmp { h with pr := 1 } (-7)) ∧
  decodeTableWord 64 0x0000_0000_0000_0F00 = some (.fin h) ∧
  decodeTableWord 64 0x0000_0000_00A0_F600 = some (.hret h 5) ∧
  decodeTableWord 64 0x0000_3000_0120_F900 = some (.inj h 9 false 3) ∧
  decodeTableWord 64 0x0000_0000_0000_0080 = none ∧
  decodeTableWord 64 0x0000_0000_0000_0700 = none ∧
  decodeTableWord 64 0x0000_0170_0000_0100 = none ∧
  decodeTableWord 64 0x0000_0020_10E9_0400 = none

/-- The opcodes that R358 lists. -/
def unassignedOps : List Nat :=
  [0x07] ++ List.range' 0x12 6 ++ [0x2E, 0x2F] ++ List.range' 0x3B 5 ++ [0x4E, 0x4F, 0x57] ++ List.range' 0x65 11 ++ List.range' 0x89 103 ++
  [0xF8] ++ List.range' 0xFC 4

/-- A word of an opcode that R358 lists, an R-format word with an FN above the last of its family, and the words that tests 2 and 3 of R365
refuse, are no instructions. -/
def UnassignedWordsDoNotDecode : Prop :=
  ∀ w : Word,
    let op := (w.extractLsb' 8 8).toNat
    let fn := (w.extractLsb' 36 8).toNat
    (op ∈ unassignedOps → decodeWord w = .error .unassignedOp) ∧
    (op ∉ unassignedOps → w.getLsbD 7 = true → w.extractLsb' 4 3 = 0 → decodeWord w = .error .reservedPredicate) ∧
    ((op, fn) ∈ [(0x01, 23), (0x02, 8), (0x04, 10), (0x06, 5), (0x70, 18), (0x71, 10), (0x72, 7), (0x73, 4), (0x74, 2), (0x75, 1), (0x76, 1), (0x77, 1), (0x78, 1),
      (0x79, 7), (0x7A, 1), (0x7B, 1), (0x7C, 6), (0x7D, 1), (0x7E, 1), (0x7F, 1), (0x80, 1), (0x81, 1), (0x82, 1), (0x83, 1), (0x84, 6),
      (0x85, 1), (0x86, 1), (0x87, 1), (0x88, 1)].flatMap (fun p => (List.range' p.2 (256 - p.2)).map fun k => (p.1, k)) →
      ∃ e, decodeWord w = .error e)

/-! ## Issue -/

/-- A step in which context `cid` is to issue fetches the word at its PC and executes the instruction that the word decodes to; what stands
around it is the cycle's bookkeeping (`turnOf` before, `afterIssue` after). A word that decodes to none, and a PC past the body, take
ILLEGAL (R348, R365). -/
def Obligations.StepExecutesTheDecodedWord : Prop :=
  ∀ (s : State) (cid : Nat) (rest : List Turn), s.agenda = .issue cid :: rest →
    let s0 := { s with agenda := rest }
    (∀ i s1, s0.turnOf cid = .word i s1 →
      (∃ w, s0.fetch cid = some w ∧ decodeWord w = .ok i ∧ s1.ir = w) ∧ s1.cur = some cid ∧
      (∀ t, exec i s1 = .next t → step s = .next (s0.afterIssue t cid))) ∧
    (∀ s1, s0.turnOf cid = .stay s1 → step s = .next (s0.afterIssue s1 cid))

/-- The word at a context's PC, once nothing stands before it: no breakpoint matches (R343), no step of the word before is due (R342), and the bytes are
sound (R339). Then the decoded instruction executes, its sector filled at its home slice (R295, R301), and a word that decodes to none takes ILLEGAL (R365).
A PC past the body, or on no mapped page, takes it too: that is the model's reading (log entry 15). -/
def PresentedWordDecodesOrTakesIllegal : Prop :=
  ∀ (s : State) (cid : Nat), (s.ctx cid).stepDue = none → ((s.ctx cid).skip = true ∨ s.bpMask cid = 0) → (s.fetchPa cid).any s.poisoned = false →
    let w := (s.fetch cid).getD 0
    let s' := { s with ir := w, cur := some cid, skipped := (s.ctx cid).skip }.setCtx cid { s.ctx cid with skip := false }
    (∀ i, s.fetch cid = some w → decodeWord w = .ok i → s.present cid = .word i (s'.fetchFill cid)) ∧
    (∀ e, s.fetch cid = none ∨ decodeWord w = .error e → s.present cid = .stay (settle s' cid (hdrOf w) (.trap 0x01 0 0)))

/-- The context after a word that has taken its effect (R227, R378, R168, R342): it moves to the next word, or to the target of a taken
transfer, issues again after 1 + GAP cycles, one more after a transfer, and its turn ends with SW, at a park, or after 256 words (R226). A context that
parks stands behind those that parked before it, and one whose word has issued again to no avail keeps its place (R218, R429).
Every other context, every other core and all else is as the word's own effect has left it. -/
def Obligations.IssueMovesItsContextOnAlone : Prop :=
  ∀ (s0 s : State) (cid : Nat) (h : Hdr),
    let c := s.ctx cid
    let due := if (s0.ctx cid).stepEn then some (s0.ir, (s0.ctx cid).pc) else c.stepDue
    let place (p : Park) : Nat := match s.parkedBefore cid p.kind with
      | some q => if q.a = p.a && q.b = p.b then q.order else s.order
      | none => s.order
    let counted (k : Core) (ends : Bool) : Core :=
      if k.holder = ctxOf cid then { k with issued := true, turnLen := k.turnLen + 1, turnOver := ends || decide (k.turnLen + 1 ≥ 256) }
      else { k with issued := true }
    let leaves (t : State) (c' : Ctx) (ends : Bool) : Prop :=
      t.ctx cid = c' ∧ (∀ k, k ≠ cid → t.ctx k = s.ctx k) ∧ t.core (coreOf cid) = counted (s.core (coreOf cid)) ends ∧
      (∀ k, k ≠ coreOf cid → t.core k = s.core k) ∧ SameElsewhere { s with order := t.order } t
    leaves (settle s0 cid h (.next s)) { c with pc := c.pc + 8, gap := 1 + h.gap.toNat, sw := h.sw, stepDue := due } h.sw ∧
    leaves (settle s0 cid h (.last s)) { c with pc := c.pc + 8, gap := 1 + h.gap.toNat, sw := true, stepDue := due } true ∧
    (∀ pc, leaves (settle s0 cid h (.goto s pc)) { c with pc := pc, gap := 2 + h.gap.toNat, sw := h.sw, stepDue := due } h.sw) ∧
    (∀ p, leaves (settle s0 cid h (.wait s p))
      { c with
        pc := c.pc + 8, gap := 1 + h.gap.toNat, sw := true, stepDue := due, park := some { p with order := place p, since := s.cycle (coreOf cid) } } true) ∧
    (∀ p, leaves (settle s0 cid h (.park s p))
      { c with gap := 1, skip := c.skip || s0.skipped, park := some { p with order := place p, since := s.cycle (coreOf cid) } } true)

/-- A false-predicated word has no effect but its issue, whatever its instruction, if its run has the feature; a word whose feature the
run lacks raises FEATURE with the bit and the leaf, whatever its predicate; and a word that would make a thirteenth result waits as under
GAP, with no effect (R29, R228, R327, R350, R365 tests 4 and 5). -/
def Obligations.TestsBeforeAWordsEffect : Prop :=
  ∀ (h : Hdr) (feats : List (Nat × Nat)) (n : Nat) (body : State → Nat → Eff) (s : State) (cid : Nat), s.cur = some cid →
    (∀ r l b, s.ctxRun cid = some r → r.lacks feats = some (l, b) →
      issue h feats n body s = .next (settle s cid h (.trap 0x02 (b + l * 256) 0))) ∧
    ((∀ r, s.ctxRun cid = some r → ∀ f ∈ feats, r.hasFeat f.1 f.2 = true) →
      ((s.ctx cid).pr h.pr.toNat = h.pn → issue h feats n body s = .next (settle s cid h (.next s))) ∧
      ((s.ctx cid).pr h.pr.toNat ≠ h.pn →
        (n ≠ 0 → 12 < (s.ctx cid).pend.length + (if n = 13 then 1 else n) →
          issue h feats n body s = .next (settle s cid h (.hold s)) ∧ settle s cid h (.hold s) = s.modCtx cid fun c => { c with gap := 1, skip := c.skip || s.skipped }) ∧
        (n = 0 ∨ (s.ctx cid).pend.length + (if n = 13 then 1 else n) ≤ 12 → issue h feats n body s = .next (settle s cid h (body s cid)))))

/-! ## Registers and results in flight -/

/-- x0 reads as zero, p0 as true and m0 as all ones, whatever the state holds, and a write to any of them is discarded, at once or in
flight; a write to any other register is what the register then reads, and no other register changes (R354). -/
def Obligations.RegisterWritesReachOneRegister : Prop :=
  ∀ (c : Ctx) (v : Vec),
    c.xr 0 = 0 ∧ c.pr 0 = true ∧ c.mr 0 = BitVec.allOnes 256 ∧
    (∀ l, c.write .x 0 v = c ∧ c.write .p 0 v = c ∧ c.write .m 0 v = c ∧ c.pendW .x 0 v l = c ∧ c.pendW .p 0 v l = c ∧ c.pendW .m 0 v l = c) ∧
    (∀ d : Reg, d ≠ 0 → (c.write .x d.toNat v).xr d = v.setWidth 64 ∧ ∀ r : Reg, r ≠ d → (c.write .x d.toNat v).xr r = c.xr r) ∧
    (∀ d : Reg, (c.write .v d.toNat v).vr d = v ∧ ∀ r : Reg, r ≠ d → (c.write .v d.toNat v).vr r = c.vr r) ∧
    (∀ d : Nat, 0 < d → d < 8 → (c.write .p d v).pr d = v.getLsbD 0 ∧ ∀ r : Nat, r < 8 → r ≠ d → (c.write .p d v).pr r = c.pr r) ∧
    (∀ d : Nat, d ≠ 0 → (c.write .m d v).mr d = v.setWidth 256 ∧ ∀ r : Nat, r ≠ d → (c.write .m d v).mr r = c.mr r) ∧
    (∀ d : Nat, (c.write .s d v).sr d = v.setWidth 512 ∧ ∀ r : Nat, r ≠ d → (c.write .s d v).sr r = c.sr r)

/-- A result of latency L issued in one cycle is in no register in the L - 1 cycles that follow, and is written by the end of the L - 1st: a
read in cycle t + L gives it, a read before gives the register's former value (R227). Nothing else is in flight. -/
def ResultsAreReadAfterTheirLatency : Prop :=
  ∀ (c : Ctx) (d : Reg) (v : Word) (lat : Nat), d ≠ 0 → 0 < lat → c.pend = [] →
    let after (n : Nat) : Ctx := Nat.repeat Ctx.tick n (c.pendX d v lat)
    (∀ n, n < lat → ∀ r, (after n).xr r = c.xr r) ∧
    (∀ n, lat ≤ n → (after n).xr d = v ∧ (∀ r, r ≠ d → (after n).xr r = c.xr r) ∧ (after n).pend = [])

/-- Of two results for one register that fall in one cycle, the later-issued stands (R228); and a writeback leaves in flight exactly the
results whose cycles have not run. -/
def LaterIssuedResultStands : Prop :=
  ∀ (c : Ctx) (d : Reg) (v w : Vec) (others : List Pend), d ≠ 0 → (∀ p ∈ others, p.left ≠ 0) →
    let due (x : Vec) : Pend := { file := .x, reg := d.toNat, left := 0, val := x }
    let c2 := { c with pend := due v :: (others ++ [due w]) }
    c2.writeDue.xr d = w.setWidth 64 ∧ c2.writeDue.pend = others ∧ ∀ r, r ≠ d → c2.writeDue.xr r = c.xr r

/-- A word that the encoding tables do not assign has no meaning, and one that is presented takes ILLEGAL. -/
def Obligations.WordsOutsideTheTableTakeIllegal : Prop := UnassignedWordsDoNotDecode ∧ PresentedWordDecodesOrTakesIllegal

/-- Results are read once their latency has run, and of two that fall due for one register the later issued stands. -/
def Obligations.ResultsAppearWhenTheirCyclesHaveRun : Prop := ResultsAreReadAfterTheirLatency ∧ LaterIssuedResultStands
/-! ## Scalar words -/

/-- The exact value `v` fitted to a register: saturated under mode 5, wrapped otherwise (R371 Fit). -/
def fits (c : Ctx) (rm : BitVec 3) (v : Int) (w : Word) : Prop :=
  if (if rm = 7 then c.frm.toNat else rm.toNat) = 5 then w.toInt = max (-(2 ^ 63)) (min v (2 ^ 63 - 1)) else w = BitVec.ofInt 64 v

/-- ADD, SUB, MUL and MADD execute with their exact results fitted by RM, and MULH and MULHU with the high half of their products
(R371, R372, R374). -/
def Obligations.SumsAndProductsAreFitted : Prop :=
  ∀ (s : State) (cid : Nat) (h : Hdr) (d a b e : Reg) (rm : BitVec 3), Issues s cid h [] 1 →
    let c := s.ctx cid
    let x (r : Reg) : Int := (c.xr r).toInt
    (∃ w, fits c rm (x a + x b) w ∧ ResultX (.add h d a b rm) s cid h d w 1) ∧
    (∃ w, fits c rm (x a - x b) w ∧ ResultX (.sub h d a b rm) s cid h d w 1) ∧
    (∃ w, fits c rm (x a * x b) w ∧ ResultX (.mul h d a b rm) s cid h d w 3) ∧
    (∃ w, fits c rm (x a * x b + x e) w ∧ ResultX (.madd h d a b e rm) s cid h d w 3) ∧
    (∃ w, w.toInt = x a * x b / 2 ^ 64 ∧ ResultX (.mulh h d a b) s cid h d w 3) ∧
    (∃ w, w.toNat = (c.xr a).toNat * (c.xr b).toNat / 2 ^ 64 ∧ ResultX (.mulhu h d a b) s cid h d w 3)

/-- Division never faults: DIV, DIVU, REM and REMU execute on every operand, with quotients truncated toward zero, and by zero with all ones
and the dividend (R374). -/
def Obligations.DivisionAlwaysCompletes : Prop :=
  ∀ (s : State) (cid : Nat) (h : Hdr) (d a b : Reg), Issues s cid h [] 1 →
    let x := (s.ctx cid).xr a
    let y := (s.ctx cid).xr b
    ∃ q r qu ru,
      ResultX (.div h d a b) s cid h d q 12 ∧ ResultX (.rem h d a b) s cid h d r 12 ∧
      ResultX (.divu h d a b) s cid h d qu 12 ∧ ResultX (.remu h d a b) s cid h d ru 12 ∧
      (y = 0 → q = BitVec.allOnes 64 ∧ r = x ∧ qu = BitVec.allOnes 64 ∧ ru = x) ∧
      (y ≠ 0 → qu.toNat = x.toNat / y.toNat ∧ ru.toNat = x.toNat % y.toNat ∧
        (x.toInt = -(2 ^ 63) ∧ y.toInt = -1 → q = x ∧ r = 0) ∧
        (¬(x.toInt = -(2 ^ 63) ∧ y.toInt = -1) → q.toInt = x.toInt.tdiv y.toInt ∧ r.toInt = x.toInt.tmod y.toInt))

/-- The bitwise functions, the shifts and the rotations of ALU execute, their counts taken modulo 64 (R372). -/
def BitwiseWordsComplete : Prop :=
  ∀ (s : State) (cid : Nat) (h : Hdr) (d a b : Reg), Issues s cid h [] 1 →
    let x := (s.ctx cid).xr a
    let y := (s.ctx cid).xr b
    let k := y.toNat % 64
    ∃ an o e n l r sa rl rr,
      ResultX (.and h d a b) s cid h d an 1 ∧ ResultX (.or h d a b) s cid h d o 1 ∧ ResultX (.xor h d a b) s cid h d e 1 ∧
      ResultX (.andn h d a b) s cid h d n 1 ∧ ResultX (.shl h d a b) s cid h d l 1 ∧ ResultX (.shr h d a b) s cid h d r 1 ∧
      ResultX (.sar h d a b) s cid h d sa 1 ∧ ResultX (.rol h d a b) s cid h d rl 1 ∧ ResultX (.ror h d a b) s cid h d rr 1 ∧
      (∀ i, i < 64 →
        an.getLsbD i = (x.getLsbD i && y.getLsbD i) ∧ o.getLsbD i = (x.getLsbD i || y.getLsbD i) ∧
        e.getLsbD i = (x.getLsbD i != y.getLsbD i) ∧ n.getLsbD i = (x.getLsbD i && !y.getLsbD i) ∧
        rl.getLsbD i = x.getLsbD ((i + 64 - k) % 64) ∧ rr.getLsbD i = x.getLsbD ((i + k) % 64)) ∧
      l.toNat = x.toNat * 2 ^ k % 2 ^ 64 ∧ r.toNat = x.toNat / 2 ^ k ∧ sa.toInt = x.toInt / 2 ^ k

/-- MIN, MAX, MINU, MAXU and SEL execute, choosing one of their operands (R372). -/
def ChoosingWordsComplete : Prop :=
  ∀ (s : State) (cid : Nat) (h : Hdr) (d a b e : Reg), Issues s cid h [] 1 →
    let c := s.ctx cid
    let x := c.xr a
    let y := c.xr b
    ∃ mn mx mnu mxu,
      ResultX (.min h d a b) s cid h d mn 1 ∧ mn.toInt = min x.toInt y.toInt ∧
      ResultX (.max h d a b) s cid h d mx 1 ∧ mx.toInt = max x.toInt y.toInt ∧
      ResultX (.minu h d a b) s cid h d mnu 1 ∧ mnu.toNat = min x.toNat y.toNat ∧
      ResultX (.maxu h d a b) s cid h d mxu 1 ∧ mxu.toNat = max x.toNat y.toNat ∧
      ResultX (.sel h d a b e) s cid h d (if c.pr e.toNat then x else y) 1

/-- CLZ, CTZ, POPC and BSWAP execute: the leading, trailing and set bits of a word, 0 to 64, and its bytes reversed (R372). -/
def BitCountsComplete : Prop :=
  ∀ (s : State) (cid : Nat) (h : Hdr) (d a : Reg), Issues s cid h [] 1 →
    let x := (s.ctx cid).xr a
    ∃ lz tz pc sw,
      ResultX (.clz h d a) s cid h d (BitVec.ofNat 64 lz) 1 ∧ ResultX (.ctz h d a) s cid h d (BitVec.ofNat 64 tz) 1 ∧
      ResultX (.popc h d a) s cid h d (BitVec.ofNat 64 pc) 1 ∧ ResultX (.bswap h d a) s cid h d sw 1 ∧
      lz ≤ 64 ∧ (lz < 64 → x.getLsbD (63 - lz) = true) ∧ (∀ i, 64 - lz ≤ i → x.getLsbD i = false) ∧
      tz ≤ 64 ∧ (tz < 64 → x.getLsbD tz = true) ∧ (∀ i, i < tz → x.getLsbD i = false) ∧
      pc = ((List.range 64).filter fun i => x.getLsbD i).length ∧
      (∀ k, k < 8 → sw.extractLsb' (8 * k) 8 = x.extractLsb' (8 * (7 - k)) 8)

/-- BFX, BFI and LEA execute, reading IMM13 as fields (R373): of a width w at a position p, BFX takes the field, sign-extended with SX, and BFI
puts the low bits of B there. -/
def BitFieldsComplete : Prop :=
  ∀ (s : State) (cid : Nat) (h : Hdr) (d a b : Reg) (p w : Nat) (sx : Bool) (sc : BitVec 2), Issues s cid h [] 1 → 1 ≤ w → p + w ≤ 64 →
    let x := (s.ctx cid).xr a
    let y := (s.ctx cid).xr b
    let imm (hi : Bool) : BitVec 13 := BitVec.ofNat 13 (p + (w - 1) * 64 + (if hi then 4096 else 0))
    ∃ f g,
      ResultX (.bfx h d a (imm sx)) s cid h d f 1 ∧ ResultX (.bfi h d a b (imm false)) s cid h d g 1 ∧
      ResultX (.lea h d a b (sc.setWidth 13)) s cid h d (x + y * BitVec.ofNat 64 (2 ^ sc.toNat)) 1 ∧
      (∀ i, i < 64 → f.getLsbD i = if i < w then x.getLsbD (p + i) else sx && x.getLsbD (p + w - 1)) ∧
      (∀ i, i < 64 → g.getLsbD i = if p ≤ i ∧ i < p + w then y.getLsbD (i - p) else x.getLsbD i)

/-- The twelve ALUI words execute: the immediate is sign-extended but in MOVHI, and the sums and products wrap (R375). -/
def Obligations.ImmediateWordsComplete : Prop :=
  ∀ (s : State) (cid : Nat) (h : Hdr) (d a : Reg) (imm : BitVec 32), Issues s cid h [] 1 →
    let x := (s.ctx cid).xr a
    let m : Word := BitVec.ofInt 64 imm.toInt
    ResultX (.addi h d a imm) s cid h d (BitVec.ofInt 64 (x.toInt + imm.toInt)) 1 ∧
    ResultX (.andi h d a imm) s cid h d (x &&& m) 1 ∧
    ResultX (.ori h d a imm) s cid h d (x ||| m) 1 ∧
    ResultX (.xori h d a imm) s cid h d (x ^^^ m) 1 ∧
    ResultX (.muli h d a imm) s cid h d (BitVec.ofInt 64 (x.toInt * imm.toInt)) 3 ∧
    ResultX (.movi h d imm) s cid h d m 1 ∧
    (∃ w, w.toInt = min x.toInt imm.toInt ∧ ResultX (.mini h d a imm) s cid h d w 1) ∧
    (∃ w, w.toInt = max x.toInt imm.toInt ∧ ResultX (.maxi h d a imm) s cid h d w 1) ∧
    (∃ w, w.toNat = imm.toNat * 2 ^ 32 + x.toNat % 2 ^ 32 ∧ ResultX (.movhi h d a imm) s cid h d w 1) ∧
    (imm.toNat ≤ 63 →
      (∃ w, w.toNat = x.toNat * 2 ^ imm.toNat % 2 ^ 64 ∧ ResultX (.shli h d a imm) s cid h d w 1) ∧
      (∃ w, w.toNat = x.toNat / 2 ^ imm.toNat ∧ ResultX (.shri h d a imm) s cid h d w 1) ∧
      (∃ w, w.toInt = x.toInt / 2 ^ imm.toNat ∧ ResultX (.sari h d a imm) s cid h d w 1))

/-- What a comparison code says of two numbers read signed and unsigned (R355). -/
def compares (cc : Nat) (a b : Word) : Prop :=
  match cc with
  | 0 => a = b
  | 1 => a ≠ b
  | 2 => a.toInt < b.toInt
  | 3 => b.toInt ≤ a.toInt
  | 4 => a.toNat < b.toNat
  | 5 => b.toNat ≤ a.toNat
  | 6 => a.toInt ≤ b.toInt
  | 7 => b.toInt < a.toInt
  | 8 => a.toNat ≤ b.toNat
  | _ => b.toNat < a.toNat

/-- CMP and CMPI write the truth of their code's relation to a predicate, and the words of PLOG the logic of theirs, all with latency 1;
a CMP or CMPI of a code from 10 up or of a destination from 8 up, and a CMP with a nonzero TY, RM, C or IMM13, is no instruction (R355, R376, R377). -/
def Obligations.PredicatesAreComputed : Prop :=
  (∀ w : Word, (w.extractLsb' 8 8 = 0x04 ∧ (10 ≤ (w.extractLsb' 36 8).toNat ∨ w.extractLsb' 44 20 ≠ 0 ∨ w.extractLsb' 31 5 ≠ 0)) ∨
      (w.extractLsb' 8 8 = 0x05 ∧ 10 ≤ (w.extractLsb' 26 6).toNat) ∨ ((w.extractLsb' 8 8 = 0x04 ∨ w.extractLsb' 8 8 = 0x05) ∧ 8 ≤ (w.extractLsb' 16 5).toNat) →
    ∃ e, decodeWord w = .error e) ∧
  ∀ (s : State) (cid : Nat) (h : Hdr) (cc : BitVec 4) (d a b : Reg) (imm : BitVec 32), Issues s cid h [] 1 → cc.toNat < 10 →
    let c := s.ctx cid
    (∃ t, (t = true ↔ compares cc.toNat (c.xr a) (c.xr b)) ∧ ResultP (.cmp h cc d a b) s cid h d t 1) ∧
    (∃ t, (t = true ↔ compares cc.toNat (c.xr a) (BitVec.ofInt 64 imm.toInt)) ∧ ResultP (.cmpi h cc d a imm) s cid h d t 1) ∧
    ResultP (.pand h d a b) s cid h d (c.pr a.toNat && c.pr b.toNat) 1 ∧
    ResultP (.por h d a b) s cid h d (c.pr a.toNat || c.pr b.toNat) 1 ∧
    ResultP (.pxor h d a b) s cid h d (c.pr a.toNat != c.pr b.toNat) 1 ∧
    ResultP (.pnot h d a) s cid h d (!c.pr a.toNat) 1 ∧
    ResultP (.pmov h d a) s cid h d (c.pr a.toNat) 1

/-- What a word of one scalar or predicate result leaves when its issue is over (R227, R365): the context's registers, flags, special registers and the rest read
as before, the result joins those in flight, and no memory, no other context and nothing else of the machine changes. -/
def Obligations.ScalarResultsChangeNothingElse : Prop :=
  ∀ (s : State) (cid : Nat) (h : Hdr) (f : File) (n : Nat) (v : Vec) (lat : Nat),
    let c := s.ctx cid
    let t := settle s cid h (.next (s.modCtx cid fun c => c.pendW f n v lat))
    (∃ due, t.ctx cid =
      { c with
        pend := if discards f n then c.pend else c.pend ++ [{ file := f, reg := n, left := lat, val := v }]
        pc := c.pc + 8, gap := 1 + h.gap.toNat, sw := h.sw, stepDue := due }) ∧
    (∀ k, k ≠ cid → t.ctx k = s.ctx k) ∧ (∀ k, (t.core k).mem = (s.core k).mem ∧ (t.core k).fe = (s.core k).fe) ∧
    t.dram = s.dram ∧ SameElsewhere s t

/-- The bitwise, choosing, counting and field words each complete with their result. -/
def Obligations.BitWordsComplete : Prop := BitwiseWordsComplete ∧ ChoosingWordsComplete ∧ BitCountsComplete ∧ BitFieldsComplete
/-! ## Control flow -/

/-- A target is valid when it is a multiple of 8 and lies from 0 to the body length minus 8 (R379). -/
def validTarget (s : State) (cid : Nat) (t : Int) : Prop := t % 8 = 0 ∧ 0 ≤ t ∧ t + 8 ≤ s.bodyLen cid

/-- The word transfers control to a valid target, and raises ILLEGAL with no effect where the target is none (R379). -/
def transfersTo (i : Instr) (s : State) (cid : Nat) (h : Hdr) (t : Int) : Prop :=
  (validTarget s cid t → Takes i s cid h (.goto s t.toNat)) ∧ (¬validTarget s cid t → Traps i s cid h 0x01 0 0)

/-- BR, BRP, JMP, JMPR, CALL and RET transfer control exactly when they are taken, to their targets; a taken transfer to an invalid target
raises ILLEGAL and writes nothing, CALL's link included; one that is not taken goes on with the next word (R378, R379). -/
def TransfersReachTheirTargets : Prop :=
  ∀ (s : State) (cid : Nat) (h : Hdr) (cc : BitVec 4) (a b : Reg) (off : BitVec 32), Issues s cid h [] 1 → cc.toNat < 10 →
    let c := s.ctx cid
    let rel : Int := c.pc + 8 * off.toInt
    (compares cc.toNat (c.xr a) (c.xr b) → transfersTo (.br h cc a b off) s cid h rel) ∧
    (¬compares cc.toNat (c.xr a) (c.xr b) → Takes (.br h cc a b off) s cid h (.next s)) ∧
    (c.pr a.toNat = true → transfersTo (.brp h a off) s cid h rel) ∧
    (c.pr a.toNat = false → Takes (.brp h a off) s cid h (.next s)) ∧
    transfersTo (.jmp h off) s cid h rel ∧
    transfersTo (.jmpr h a) s cid h (c.xr a).toNat ∧
    transfersTo (.ret h) s cid h (c.xr 31).toNat ∧
    (validTarget s cid rel →
      Takes (.call h off) s cid h (.goto (s.modCtx cid fun c => c.pendX 31 (BitVec.ofNat 64 (c.pc + 8)) 1) rel.toNat)) ∧
    (¬validTarget s cid rel → Traps (.call h off) s cid h 0x01 0 0)

/-- LOOP is taken while its register, read signed, is above zero, to the word n - 1 words before it, and writes no register; a body that would
begin before byte 0 raises ILLEGAL, and a LOOP whose OFF32 is 0 or less does not decode (R380). -/
def LoopRunsWhileItsRegisterIsPositive : Prop :=
  ∀ (s : State) (cid : Nat) (h : Hdr) (a : Reg) (n : BitVec 32), Issues s cid h [] 0 →
    let c := s.ctx cid
    let back : Int := c.pc - 8 * (n.toInt - 1)
    ((c.xr a).toInt ≤ 0 → Takes (.loop h a n) s cid h (.next s)) ∧
    (0 < (c.xr a).toInt → transfersTo (.loop h a n) s cid h back ∧ (back < 0 → Traps (.loop h a n) s cid h 0x01 0 0)) ∧
    (n.toInt ≤ 0 → ∀ w, decodeWord w ≠ .ok (.loop h a n))

/-- NOP, YIELD, WAIT and IDLE complete with no effect but their issue: YIELD, WAIT and IDLE end the turn, and a context that waits or idles is not
ready. WAIT's count is the sum of its operands clamped to 0 … 2^24, and its context is not ready for that many cycles after the issue
cycle; an idle ends by itself with 1,024 (R350, R382, R383, R459). -/
def WaitingWordsHoldTheirContext : Prop :=
  ∀ (s : State) (cid : Nat) (h : Hdr) (a : Reg) (imm : BitVec 32), Issues s cid h [] 0 →
    let count : Nat := (min (max (((s.ctx cid).xr a).toInt + imm.toInt) 0) (2 ^ 24)).toNat
    let waits (c : Ctx) (k : Nat) : Ctx := { c with wait := if k = 0 then none else some (k + 1) }
    Takes (.nop h) s cid h (.next s) ∧
    Takes (.yield h) s cid h (.last s) ∧
    Takes (.wait h a imm) s cid h (.last (s.modCtx cid fun c => waits c count)) ∧
    Takes (.idle h) s cid h (.last (s.modCtx cid fun c => { c with idle := some 1025 })) ∧
    (∀ c : Ctx, ∀ n, n ≤ count + 1 → 0 < count → (Nat.repeat Ctx.tick n (waits c count)).wait = some (count + 1 - n)) ∧
    (∀ c : Ctx, ∀ n, n ≤ 1025 → (Nat.repeat Ctx.tick n { c with idle := some 1025 }).idle = some (1025 - n)) ∧
    (∀ t : State, ((t.ctx cid).wait.isSome = true ∨ (t.ctx cid).idle.isSome = true) → t.ready cid = false)

/-- WAIT_EXPIRY and IDLE_WAKE end a wait and an idle whose cycles have run, and change nothing else; before that they change nothing
(R383, R459). -/
def WaitsAndIdlesEnd : Prop :=
  ∀ s : State,
    let c := s.ctx s.ev.unit
    (c.wait = some 0 → exec .waitExpiry s = .next (s.setCtx s.ev.unit { c with wait := none })) ∧
    (c.idle = some 0 → exec .idleWake s = .next (s.setCtx s.ev.unit { c with idle := none })) ∧
    (c.wait ≠ some 0 → exec .waitExpiry s = .next s) ∧ (c.idle ≠ some 0 → exec .idleWake s = .next s)

/-- RESULT_WRITEBACK writes exactly the results of a context whose cycles have run, and LANDING_WRITE writes a staged result whole, once, when
its cycles have run, and ends its park; nothing else of the machine changes (R227-R229). -/
def Obligations.WritebacksWriteWhatIsDue : Prop :=
  ∀ (s : State) (r : Run),
    let cid := s.ev.unit
    let c := s.ctx cid
    s.ctxRun cid = some r → r.goes c.role.node = true → r.stops cid c = false →
      (∃ t, exec .resultWriteback s = .next t ∧ t.ctx cid = c.writeDue ∧ (∀ k, k ≠ cid → t.ctx k = s.ctx k) ∧ SameElsewhere s t ∧
        t.cores = s.cores) ∧
      (∀ ws p lo, c.land = some { writes := ws, left := 0, load := lo } → c.park = some p →
        ∃ t, exec .landingWrite s = .next t ∧ (t.ctx cid).land = none ∧ (t.ctx cid).park = none ∧ 1 ≤ (t.ctx cid).gap ∧
          (let d := ws.foldl (fun c w => c.write w.file w.reg w.val) c.writeDue
           (t.ctx cid).x = d.x ∧ (t.ctx cid).v = d.v ∧ (t.ctx cid).p = d.p ∧ (t.ctx cid).m = d.m ∧ (t.ctx cid).sh = d.sh) ∧
          (∀ k, k ≠ cid → t.ctx k = s.ctx k) ∧ SameElsewhere s t ∧ t.cores = s.cores)

/-- FIN ends an operator's firing whose ports have all moved their counts: FIRENO rises by 1, the PC returns to 0 and the counts start afresh, and
no register changes; while a result is in flight it waits; and a port short of its count raises RATE with the port and the tokens moved
(R121, R327, R381). Under STEPCTL.EN, STEP follows the end (R342). -/
def FinEndsAFiring : Prop :=
  ∀ (s : State) (cid : Nat) (h : Hdr) (rid n : Nat) (r : Run) (nd : NodeD), Issues s cid h [] 0 →
    (s.ctx cid).role = .op rid n → s.run rid = some r → r.node n = some nd →
    let c := s.ctx cid
    let moved (p : PortD) : Nat := tget 0 c.moved p.port
    ((∀ p ∈ nd.ports, p.count ≤ moved p) →
      (c.pend ≠ [] → Takes (.fin h) s cid h (.hold s)) ∧
      (c.pend = [] → ∃ t, exec (.fin h) s = .next t ∧
        (let u := t.ctx cid
         u.fireno = c.fireno + 1 ∧ u.pc = 0 ∧ u.moved = [] ∧ u.running = false ∧ u.role = c.role ∧ u.gap = 1 + h.gap.toNat ∧
         u.x = c.x ∧ u.v = c.v ∧ u.p = c.p ∧ u.m = c.m ∧ u.sh = c.sh ∧ u.fflags = c.fflags ∧ u.frm = c.frm ∧ u.argbase = c.argbase) ∧
        (∀ k, k ≠ cid → t.ctx k = s.ctx k) ∧ (c.stepEn = false → SameElsewhere s t) ∧
        (c.stepEn = true → ∃ f, t.flue = s.flue ++ [f] ∧ f.code = 0x10 ∧ leNat (f.body.take 8) = s.ir.toNat))) ∧
    (∀ p, nd.ports.find? (fun p => decide (moved p < p.count)) = some p → Traps (.fin h) s cid h 0x08 (p.port + 2 ^ 16 * moved p) 0)

/-- FIN ends a certain segment whose effects have all taken place: its context is as right after reset, but for the GAP, and its pool entry
is free (R381). -/
def FinEndsASegment : Prop :=
  ∀ (s : State) (cid : Nat) (h : Hdr) (rid n : Nat) (r : Run), Issues s cid h [] 0 →
    (s.ctx cid).role = .seg rid n → s.run rid = some r → (s.ctx cid).ccond.getLsbD 17 = false → s.undrained cid = false → (s.ctx cid).pend = [] →
      ∃ t r', exec (.fin h) s = .next t ∧ t.ctx cid = { Ctx.init with gap := 1 + h.gap.toNat } ∧ t.run rid = some r' ∧
        r'.segs = r.segs.filter (fun g => g.id != (s.ctx cid).segid) ∧ (∀ k, k ≠ cid → t.ctx k = s.ctx k) ∧ t.dram = s.dram

/-! ## Taking a fault, and the return from one -/

/-- Bytes 16-63 of the token of an instruction fault hold the word, its PC, the node, whether a context is held, ADDR, INFO, FIRENO or in a segment
SEGID, and the cycle (R327). -/
def FaultTokenHoldsItsFields : Prop :=
  ∀ (s : State) (cid code : Nat) (word : Word) (pc info addr : Nat) (held : Bool),
    let f := s.mkFlt cid code word pc info addr held
    let c := s.ctx cid
    let field (lo n : Nat) : Nat := leNat ((f.body.drop (lo - 16)).take n)
    f.code = code ∧ f.body.length = 48 ∧ field 16 8 = word.toNat ∧ field 24 4 = pc % 2 ^ 32 ∧ field 28 2 = c.role.node % 2 ^ 16 ∧
    field 30 1 = held.toNat ∧ field 31 1 = 0 ∧ field 32 8 = addr % 2 ^ 64 ∧ field 40 8 = info % 2 ^ 64 ∧
    field 48 8 = (if c.role.isSeg then c.segid % 2 ^ 64 else c.fireno.toNat) ∧ field 56 8 = s.cycle (coreOf cid) % 2 ^ 64 ∧
    f.src = coreOf cid + ctxOf cid * 2 ^ 11 ∧ f.time = s.time

/-- Taking a fault. In an uncertain segment it is held: the context parks and nothing is reported (R215). Otherwise, in a region without a
handler, or in an operator of the handler subgraph, the token goes onto the Flue and the region halts with the code (R326, R328, R334);
with a handler the token goes onto the Flue for the region and the context is held at its word until the HRET (R328, R329). -/
def FaultsAreTaken : Prop :=
  ∀ (s : State) (cid code : Nat) (word : Word) (pc info addr : Nat) (r : Run), s.ctxRun cid = some r → code ∉ [0x0F, 0x10, 0x11] →
    let c := s.ctx cid
    let own := r.graph.handlerNodes.contains c.role.node
    let f := s.mkFlt cid code word pc info addr (r.graph.handler.isSome && !own)
    let t := s.raiseAt cid code word pc info addr
    (c.uncertain = true → t.flue = s.flue ∧ t.ctx cid = { c with withheld := some f, park := some (Park.of .spec) } ∧ t.runs = s.runs) ∧
    (c.uncertain = false → (r.graph.handler = none ∨ own = true) →
      t.flue = s.flue ++ [{ f with run := none, held := none }] ∧ t.ctx cid = c ∧
      ∃ r', t.run r.id = some r' ∧ (r.st = .running → r'.st = .halted code)) ∧
    (c.uncertain = false → r.graph.handler.isSome = true → own = false →
      let f' := { f with run := some r.id, held := some cid }
      t.flue = s.flue ++ [f'] ∧ t.ctx cid = { c with held := some f', park := some (Park.of .held) } ∧ t.runs = s.runs) ∧
    (∀ k, k ≠ cid → t.ctx k = s.ctx k) ∧ t.dram = s.dram ∧ t.cores = s.cores

/-- Taking TRAP (0x11), BREAK (0x0F) or STEP (0x10): LAST is set to the code and BPHIT is 0 (R344); an uncertain segment holds the fault back (R215); with
a handler the context is held at its word; in an operator of the handler subgraph, and for TRAP in a region without a handler, the region halts with the
code; and BREAK and STEP in a region without a handler pause it: the context stands at its word, or after a BRK that has issued (log entry 22), and the
region waits for a pause cut (R328, R334). -/
def TrapsAndBreaksAreTaken : Prop :=
  ∀ (s : State) (cid code : Nat) (word : Word) (pc info addr : Nat) (r : Run), s.ctxRun cid = some r → code ∈ [0x0F, 0x10, 0x11] →
    let c := { s.ctx cid with last := BitVec.ofNat 8 code, bphit := 0 }
    let own := r.graph.handlerNodes.contains c.role.node
    let f := s.mkFlt cid code word pc info addr (r.graph.handler.isSome && !own)
    let t := s.raiseAt cid code word pc info addr
    (c.uncertain = true → t.flue = s.flue ∧ t.ctx cid = { c with withheld := some f, park := some (Park.of .spec) } ∧ t.runs = s.runs) ∧
    (c.uncertain = false → (own = true ∨ (r.graph.handler = none ∧ code = 0x11)) →
      t.flue = s.flue ++ [{ f with run := none, held := none }] ∧ t.ctx cid = c ∧
      ∃ r', t.run r.id = some r' ∧ (r.st = .running → r'.st = .halted code)) ∧
    (c.uncertain = false → r.graph.handler.isSome = true → own = false →
      let f' := { f with run := some r.id, held := some cid }
      t.flue = s.flue ++ [f'] ∧ t.ctx cid = { c with held := some f', park := some (Park.of .held) } ∧ t.runs = s.runs) ∧
    (c.uncertain = false → r.graph.handler = none → own = false → code ≠ 0x11 →
      t.flue = s.flue ++ [{ f with run := none, held := none }] ∧
      t.ctx cid = { c with park := some (Park.of .held), pc := if code = 0x0F ∧ c.skip = false then c.pc + 8 else c.pc } ∧
      ∃ r', t.run r.id = some r' ∧ r'.st = r.st ∧ (r.cut = none → r'.cutReq = some .pause)) ∧
    (∀ k, k ≠ cid → t.ctx k = s.ctx k) ∧ t.dram = s.dram ∧ t.cores = s.cores

/-- TRAP raises TRAP and BRK raises BREAK, both with INFO = k; BRK belongs to leaf 0 bit 15, and where that bit is not latched it raises
FEATURE. None writes a register (R333). -/
def TrapAndBreakRaiseTheirCodes : Prop :=
  ∀ (s : State) (cid : Nat) (h : Hdr) (k : BitVec 20),
    (Issues s cid h [] 0 → Traps (.trap h k) s cid h 0x11 k.toNat 0) ∧
    (Issues s cid h [(0, 15)] 0 → Traps (.brk h k) s cid h 0x0F k.toNat 0) ∧
    (∀ r, s.cur = some cid → s.ctxRun cid = some r → r.hasFeat 0 15 = false → Traps (.brk h k) s cid h 0x02 15 0)

/-- A word that traps leaves every register, flag and byte of memory as it was: its context has only taken the fault, and its GAP and SW have
acted (R365, R342). -/
def TrappingWordsWriteNothing : Prop :=
  ∀ (s : State) (cid code info addr : Nat) (h : Hdr),
    let c := s.ctx cid
    let t := settle s cid h (.trap code info addr)
    let u := t.ctx cid
    u.x = c.x ∧ u.v = c.v ∧ u.p = c.p ∧ u.m = c.m ∧ u.sh = c.sh ∧ u.fflags = c.fflags ∧ u.frm = c.frm ∧ u.pend = c.pend ∧ u.moved = c.moved ∧
    u.fireno = c.fireno ∧ u.argbase = c.argbase ∧ u.fltrec = c.fltrec ∧ u.gap = 1 + h.gap.toNat ∧
    (∀ k, k ≠ cid → t.ctx k = s.ctx k) ∧ (∀ k, (t.core k).mem = (s.core k).mem ∧ (t.core k).fe = (s.core k).fe ∧ (t.core k).accs = (s.core k).accs) ∧
    t.dram = s.dram

/-- HRET in a firing of the handler entry ends that firing as FIN does and applies bits [1:0] of its register to the token that started it (R331): 0 lets
the held context go on after the faulting word, 1 at it (its monitor may sample the park, R345), 2 ends its firing, and 3 halts the region, whose command
completes FAULT with the token's code (`halted` from 0x200 on). Anywhere else
it raises PRIV. -/
def Obligations.HretReleasesTheHeldContext : Prop :=
  ∀ (s : State) (cid k rid n : Nat) (h : Hdr) (a : Reg) (r : Run) (nd : NodeD) (f : Flt), Issues s cid h [] 0 → s.ctxRun cid = some r →
    ((s.ctx cid).role.isOp = false ∨ r.graph.handler ≠ some (s.ctx cid).role.node ∨ (s.ctx cid).running = false →
      Traps (.hret h a) s cid h 0x03 0 0) ∧
    ((s.ctx cid).role = .op rid n → r.graph.handler = some n → (s.ctx cid).running = true → r.node n = some nd →
      (∀ p ∈ nd.ports, p.count ≤ tget 0 (s.ctx cid).moved p.port) → (s.ctx cid).pend = [] → (s.ctx cid).token = some f → f.held = some k →
      k ≠ cid → (s.ctx k).held = some f → (s.ctx k).role.isOp = true → (s.ctx k).running = true →
      let c := s.ctx k
      let v := ((s.ctx cid).xr a).toNat % 4
      let free := { c with held := none, park := none }
      ∃ t, exec (.hret h a) s = .next t ∧ (t.ctx cid).fireno = (s.ctx cid).fireno + 1 ∧ (t.ctx cid).pc = 0 ∧ (t.ctx cid).running = false ∧
        (v = 0 → f.code ≠ 0x08 → f.code ≠ 0x10 → ∃ m, t.ctx k = { free with pc := c.pc + 8, mon := m }) ∧
        (v = 1 → ∃ m, t.ctx k = { free with mon := m }) ∧
        (v = 2 → (t.ctx k).fireno = c.fireno + 1 ∧ (t.ctx k).pc = 0 ∧ (t.ctx k).running = false ∧ (t.ctx k).held = none ∧
          (t.ctx k).park = none) ∧
        (v = 3 → t.ctx k = c ∧ ((s.ctx cid).stepEn = false → ∃ r', t.run r.id = some r' ∧ (r.st = .running → r'.st = .halted (0x200 + f.code)))) ∧
        (∀ j, j ≠ k → j ≠ cid → t.ctx j = s.ctx j))

/-- Branches and loops reach their targets or take ILLEGAL. -/
def Obligations.ControlTransfersComplete : Prop := TransfersReachTheirTargets ∧ LoopRunsWhileItsRegisterIsPositive

/-- A waiting word holds its context, and the hold ends when its time has run. -/
def Obligations.WaitingWordsHoldAndRelease : Prop := WaitingWordsHoldTheirContext ∧ WaitsAndIdlesEnd

/-- FIN ends a firing with its counts met, and a segment. -/
def Obligations.FinEndsFiringsAndSegments : Prop := FinEndsAFiring ∧ FinEndsASegment

/-- The token of a fault holds the fields the rule names, and taking a fault delivers it. -/
def Obligations.FaultsCarryTheirFieldsAndAreTaken : Prop := FaultTokenHoldsItsFields ∧ FaultsAreTaken ∧ TrapsAndBreaksAreTaken

/-- TRAP and BRK take their own entry, and a word that traps writes nothing else. -/
def Obligations.TrappingWordsTakeEntryAlone : Prop := TrapAndBreakRaiseTheirCodes ∧ TrappingWordsWriteNothing
/-! ## Channels -/

/-- Context `cid` runs a firing of node `n` of run `r`, which declares port `p` under the number `port`. -/
structure AtPort (s : State) (cid port : Nat) (r : Run) (n : Nat) (nd : NodeD) (p : PortD) : Prop where
  runs : s.run r.id = some r
  role : (s.ctx cid).role = .op r.id n
  node : r.node n = some nd
  port : nd.portAt port = some p

/-- The machine after a word that moved one token on a port: in the run only channel `i` differs, the context counts one more token on the
port, and no register, no other context and no memory has changed. -/
def MovesOneToken (s t : State) (cid port : Nat) (r r' : Run) (i : Nat) : Prop :=
  t.run r.id = some r' ∧ (∀ j, j ≠ i → r'.chan j = r.chan j) ∧ r'.graph = r.graph ∧ r'.st = r.st ∧
  (t.ctx cid).moved = tset 0 (s.ctx cid).moved port (tget 0 (s.ctx cid).moved port + 1) ∧ (t.ctx cid).pc = (s.ctx cid).pc + 8 ∧
  (t.ctx cid).x = (s.ctx cid).x ∧ (t.ctx cid).v = (s.ctx cid).v ∧ (t.ctx cid).p = (s.ctx cid).p ∧ (t.ctx cid).m = (s.ctx cid).m ∧
  (t.ctx cid).sh = (s.ctx cid).sh ∧ (t.ctx cid).fflags = (s.ctx cid).fflags ∧
  (∀ k, k ≠ cid → t.ctx k = s.ctx k) ∧ (∀ k, (t.core k).mem = (s.core k).mem ∧ (t.core k).fe = (s.core k).fe) ∧ t.dram = s.dram

/-- The tests of a port in order (R384): no firing, no such port, and a port of another kind answer CHAN; a count already moved answers RATE with
the port and the tokens moved; AVAIL and FREE, which ask for no kind, make the first two alone. -/
def PortsAreTestedInOrder : Prop :=
  ∀ (s : State) (cid port kind : Nat),
    ((s.ctx cid).role.isOp = false → portTest s cid port (some kind) = some (0x09, 0) ∧ portTest s cid port none = some (0x09, 0)) ∧
    (∀ r n nd, s.run r.id = some r → (s.ctx cid).role = .op r.id n → r.node n = some nd → nd.portAt port = none →
      portTest s cid port (some kind) = some (0x09, 0) ∧ portTest s cid port none = some (0x09, 0)) ∧
    (∀ r n nd p, AtPort s cid port r n nd p →
      let moved := tget 0 (s.ctx cid).moved port
      portTest s cid port none = none ∧
      (p.kind ≠ kind → portTest s cid port (some kind) = some (0x09, 0)) ∧
      (p.kind = kind → p.count ≤ moved → portTest s cid port (some kind) = some (0x08, port + 2 ^ 16 * moved)) ∧
      (p.kind = kind → moved < p.count → portTest s cid port (some kind) = none))

/-- RECV takes the oldest token of its port into the landing buffer, for its register whole, written no sooner than 4 cycles from the issue, and the context
parks; PEEK writes it with latency 2 and leaves it standing. NB sets its predicate true with them (R371, R385, R388). -/
def Obligations.ReceivingWordsTakeTheOldestToken : Prop :=
  ∀ (s : State) (cid : Nat) (h : Hdr) (f : ChanF) (r : Run) (n : Nat) (nd : NodeD) (p : PortD) (i : Nat) (t : Token) (rest : List Token),
    AtPort s cid f.port.toNat r n nd p → p.kind = (if f.v then 1 else 0) → tget 0 (s.ctx cid).moved f.port.toNat < p.count →
    r.graph.chanOfIn n f.port.toNat = some i → (r.chan i).buf = t :: rest →
    let file : File := if f.v then .v else .x
    (Issues s cid h [] 1 → ∃ u r', exec (.recv h f) s = .next u ∧ MovesOneToken s u cid f.port.toNat r r' i ∧ (r'.chan i).buf = rest ∧
      (u.ctx cid).land = some
        { writes := { file := file, reg := f.x.toNat, val := tokVal t } :: (if f.nb then [{ file := .p, reg := f.pd.toNat, val := 1 }] else [])
          left := 4, load := none } ∧
      ((u.ctx cid).park.map (·.kind)) = some .landing) ∧
    (Issues s cid h [] (if f.nb then 2 else 1) → Takes (.peek h f) s cid h (.next (s.modCtx cid fun c =>
      let c := c.pendW file f.x.toNat (tokVal t) 2
      if f.nb then c.pendP f.pd.toNat true 2 else c)))

/-- SEND puts its register's value, as it is at issue, at the end of its port's channel, to land no sooner than two cycles of its die later, into a slot
reserved for it; on a port left unconnected the token is discarded and counted all the same (R31, R387, R394). -/
def Obligations.SendAppendsItsToken : Prop :=
  ∀ (s : State) (cid : Nat) (h : Hdr) (f : ChanF) (r : Run) (n : Nat) (nd : NodeD) (p : PortD),
    let port := 16 + f.port.toNat
    let tok : Token := if f.v then .vec ((s.ctx cid).vr f.x) else .scalar ((s.ctx cid).xr f.x)
    AtPort s cid port r n nd p → p.kind = (if f.v then 1 else 0) → tget 0 (s.ctx cid).moved port < p.count →
    Issues s cid h [] (if f.nb then 1 else 0) →
      let answers (u : State) : Prop := (u.ctx cid).pend = (if f.nb then (s.ctx cid).pendP f.pd.toNat true 1 else s.ctx cid).pend
      (∀ i, r.graph.chanOfOut n port = some i → ∃ u r', exec (.send h f) s = .next u ∧ MovesOneToken s u cid port r r' i ∧ answers u ∧
        (r'.chan i).fly = (r.chan i).fly ++ [{ tok := some tok, due := s.cycle (coreOf cid) + 2 }] ∧ (r'.chan i).res = (r.chan i).res - 1 ∧
        (r'.chan i).buf = (r.chan i).buf) ∧
      (r.graph.chanOfOut n port = none → ∃ u, exec (.send h f) s = .next u ∧ answers u ∧ ∀ i, MovesOneToken s u cid port r r i)

/-- AVAIL and FREE give what the firing may still move on an input and on an output port, with latency 2, whatever stands in the channel; a word of either
with a nonzero NB or PD is no instruction (R386). -/
def AvailAndFreeCountTheFiringsTokens : Prop :=
  (∀ w : Word, (w.extractLsb' 8 8 = 0x1B ∨ w.extractLsb' 8 8 = 0x1C) → (w.getLsbD 26 = true ∨ w.extractLsb' 27 3 ≠ 0) → ∃ e, decodeWord w = .error e) ∧
  ∀ (s : State) (cid : Nat) (h : Hdr) (x : Reg) (port : BitVec 4) (r : Run) (n : Nat) (nd : NodeD) (p : PortD), Issues s cid h [] 1 →
    (AtPort s cid port.toNat r n nd p →
      ResultX (.avail h x port) s cid h x (BitVec.ofNat 64 (p.count - tget 0 (s.ctx cid).moved port.toNat)) 2) ∧
    (AtPort s cid (16 + port.toNat) r n nd p →
      ResultX (.free h x port) s cid h x (BitVec.ofNat 64 (p.count - tget 0 (s.ctx cid).moved (16 + port.toNat))) 2)

/-- A port that has moved its declared count: without NB every channel word raises RATE with no effect, and with NB it writes its
predicate false, with latency 1, and does nothing else (R121, R384, R388). -/
def SpentPortsRaiseRateOrAnswerFalse : Prop :=
  ∀ (s : State) (cid : Nat) (h : Hdr) (f : ChanF) (pd : BitVec 3) (nb : Bool) (port : BitVec 4) (x : Reg) (slot : BitVec 3) (r : Run) (n : Nat) (nd : NodeD)
    (p : PortD), Issues s cid h [] 2 →
    let spent (i : Instr) (nb : Bool) (pd : BitVec 3) (q kind : Nat) : Prop :=
      AtPort s cid q r n nd p → p.kind = kind → p.count ≤ tget 0 (s.ctx cid).moved q →
        (nb = true → Takes i s cid h (.next (s.modCtx cid fun c => c.pendP pd.toNat false 1))) ∧
        (nb = false → Traps i s cid h 0x08 (q + 2 ^ 16 * tget 0 (s.ctx cid).moved q) 0)
    spent (.recv h f) f.nb f.pd f.port.toNat (if f.v then 1 else 0) ∧
    spent (.peek h f) f.nb f.pd f.port.toNat (if f.v then 1 else 0) ∧
    spent (.send h f) f.nb f.pd (16 + f.port.toNat) (if f.v then 1 else 0) ∧
    spent (.sendk h pd nb port x) nb pd (16 + port.toNat) 2 ∧
    spent (.recvk h pd nb port x) nb pd port.toNat 2 ∧
    spent (.recvkTile h pd nb port slot) nb pd port.toNat 2

/-- SENDK seals a chunk of its vector pair (R390): its header holds the descriptor's type and scale, the instance, the channel, the channel's count of
chunks and the core, and its residue is that of the plain payload; the chunk joins the end of the channel. A descriptor that R389 or R390 forbids (TYPE above
13, PACK on a type other than F8A and F8B, bit 15, a nonzero ANCHOR without TYPE 13 and a nonzero SCALE with it) raises CHAN and sends nothing. -/
def SendkSealsAChunk : Prop :=
  ∀ (s : State) (cid : Nat) (h : Hdr) (pd : BitVec 3) (nb : Bool) (port : BitVec 4) (x : Reg) (r : Run) (n : Nat) (nd : NodeD) (p : PortD) (i : Nat),
    let q := 16 + port.toNat
    let w := (s.ctx cid).xr x
    let ty := w.toNat % 16
    let payload : BitVec 4096 := (s.ctx cid).vr (x + 1) ++ (s.ctx cid).vr x
    AtPort s cid q r n nd p → p.kind = 2 → tget 0 (s.ctx cid).moved q < p.count → r.graph.chanOfOut n q = some i → Issues s cid h [] (if nb then 1 else 0) →
      (ty < 14 → w.getLsbD 12 = false → w.getLsbD 15 = false → (ty ≠ 13 → w.extractLsb' 16 16 = 0) → (ty = 13 → w.extractLsb' 4 8 = 0) →
        ∃ u r' hd, exec (.sendk h pd nb port x) s = .next u ∧ MovesOneToken s u cid q r r' i ∧
          (r'.chan i).fly = (r.chan i).fly ++ [{ tok := some (.chunk hd payload), due := s.cycle (coreOf cid) + 2 }] ∧
          (r'.chan i).seq = ((r.chan i).seq + 1) % 2 ^ 32 ∧
          hd.type = ty ∧ hd.scale = w.extractLsb' 4 8 ∧ hd.anchor = w.extractLsb' 16 16 ∧ hd.inst = r.id % 2 ^ 16 ∧ hd.chan = i ∧
          hd.seq = (r.chan i).seq % 2 ^ 32 ∧ hd.vkind = 0 ∧ hd.vid = coreOf cid ∧ hd.partialF = w.getLsbD 13 ∧ hd.coding = false ∧ hd.len = 512 ∧
          hd.res = chunkRes hd payload) ∧
      (ty = 8 ∨ ty = 9 → w.getLsbD 12 = true → w.getLsbD 15 = false → w.extractLsb' 16 16 = 0 →
        ∃ u r' hd pl, exec (.sendk h pd nb port x) s = .next u ∧ MovesOneToken s u cid q r r' i ∧
          (r'.chan i).fly = (r.chan i).fly ++ [{ tok := some (.chunk hd pl), due := s.cycle (coreOf cid) + 2 }] ∧ hd.res = chunkRes hd payload ∧
          (hd.coding = true ↔ (packBits ty payload).length < 4096) ∧ (hd.coding = true → hd.len = (packBits ty payload).length) ∧
          (hd.coding = false → hd.len = 512 ∧ pl = payload)) ∧
      (14 ≤ ty ∨ w.getLsbD 15 = true ∨ (w.getLsbD 12 = true ∧ ty ≠ 8 ∧ ty ≠ 9) ∨ (w.extractLsb' 16 16 ≠ 0 ∧ ty ≠ 13) ∨ (w.extractLsb' 4 8 ≠ 0 ∧ ty = 13) →
        Traps (.sendk h pd nb port x) s cid h 0x09 0 0)

/-- RECVK takes the oldest chunk of its port, once the check of its residue passes, into a vector pair with its descriptor, or into the part of a tile slot that its
SEQ chooses; a chunk whose residue differs is not taken, and nothing is written (R278, R391). -/
def RecvkTakesAChunkThatChecks : Prop :=
  ∀ (s : State) (cid : Nat) (h : Hdr) (pd : BitVec 3) (nb : Bool) (port : BitVec 4) (x : Reg) (slot : BitVec 3) (r : Run) (n : Nat) (nd : NodeD) (p : PortD) (i : Nat) (hd : ChunkHdr)
    (pl : BitVec 4096) (rest : List Token),
    let q := port.toNat
    AtPort s cid q r n nd p → p.kind = 2 → tget 0 (s.ctx cid).moved q < p.count → r.graph.chanOfIn n q = some i →
    (r.chan i).buf = .chunk hd pl :: rest → Issues s cid h [] 1 →
      (∀ hd' plain, checkChunk hd pl 0 (coreOf cid) = .ok hd' plain →
        (∃ u r', exec (.recvk h pd nb port x) s = .next u ∧ MovesOneToken s u cid q r r' i ∧ (r'.chan i).buf = rest ∧
          (u.ctx cid).land = some
            { writes :=
                [{ file := .v, reg := x.toNat, val := plain.setWidth 2048 }, { file := .v, reg := x.toNat + 1, val := (plain >>> 2048).setWidth 2048 },
                 { file := .x, reg := x.toNat, val := (hd'.desc).setWidth 2048 }] ++ (if nb then [{ file := .p, reg := pd.toNat, val := 1 }] else [])
              left := 4, load := none }) ∧
        (let sl := tget Slot.init (s.core (coreOf cid)).tiles slot.toNat
         let parts := if hd.type = 10 ∨ hd.type = 11 then 8 else 4
         hd.type ∈ [0, 1, 8, 9, 10, 11] → hd.scale = 0 → sl.full = false → (sl.sharers.contains n ∨ sl.sharers.length < 8) →
          ∃ u r', exec (.recvkTile h pd nb port slot) s = .next u ∧ u.run r.id = some r' ∧ (∀ j, j ≠ i → r'.chan j = r.chan j) ∧ (u.ctx cid).moved = tset 0 (s.ctx cid).moved q (tget 0 (s.ctx cid).moved q + 1) ∧ (r'.chan i).buf = rest ∧
            (let sl' := tget Slot.init (u.core (coreOf cid)).tiles slot.toNat
             sl'.data = mwrite sl.data (512 * (hd.seq % parts)) (natLe 512 plain.toNat) ∧ (sl'.full = true ↔ hd.seq % parts = parts - 1)))) ∧
      (∀ found, checkChunk hd pl 0 (coreOf cid) = .bad found →
        ∃ u r', exec (.recvk h pd nb port x) s = .next u ∧ u.run r.id = some r' ∧ (r'.chan i).buf = (r.chan i).buf ∧
          (u.ctx cid).land = (s.ctx cid).land ∧ (u.ctx cid).x = (s.ctx cid).x ∧ (u.ctx cid).v = (s.ctx cid).v)

/-- Ports are tested in their order, their tokens and slots are counted, and a spent port raises RATE or answers false. -/
def Obligations.PortTestsAndCountsAnswer : Prop := PortsAreTestedInOrder ∧ AvailAndFreeCountTheFiringsTokens ∧ SpentPortsRaiseRateOrAnswerFalse

/-- A sent chunk is sealed, and a received one is checked. -/
def Obligations.ChunksAreSealedAndChecked : Prop := SendkSealsAChunk ∧ RecvkTakesAChunkThatChecks
/-! ## Vector words -/

/-- Element `j` of `w` bytes of a vector (R396). -/
def elem (v : Vec) (w j : Nat) : Nat := v.toNat / 2 ^ (8 * w * j) % 2 ^ (8 * w)

/-- Element `j` read as a number of its type (R396). -/
def number (ty : BitVec 4) (v : Vec) (j : Nat) : Int :=
  let w := tyBytes ty
  if tySigned ty && decide (2 ^ (8 * w - 1) ≤ elem v w j) then (elem v w j : Int) - 2 ^ (8 * w) else elem v w j

/-- The word writes its destination with latency `lat`, element by element: `r j` modulo the width where the mask governs element `j`, and elsewhere
zero under ZM and else what the destination held at issue (R397, R398). -/
def Lanes (i : Instr) (s : State) (cid : Nat) (h : Hdr) (d : Reg) (w lat : Nat) (mc : MaskCtl) (r : Nat → Int) : Prop :=
  let c := s.ctx cid
  ∃ v, Results i s cid h .v d.toNat v lat ∧ ∀ j, j < 256 / w →
    elem v w j = if (c.mr mc.ms.toNat).getLsbD (j * w) then (r j % 2 ^ (8 * w)).toNat else if mc.zm then 0 else elem (c.vr d) w j

/-- The word writes its whole destination with latency `lat` (R399: no mask). -/
def LanesAll (i : Instr) (s : State) (cid : Nat) (h : Hdr) (d : Reg) (w lat : Nat) (r : Nat → Int) : Prop :=
  ∃ v, Results i s cid h .v d.toNat v lat ∧ ∀ j, j < 256 / w → elem v w j = (r j % 2 ^ (8 * w)).toNat

/-- The exact value fitted to the range of a type under mode 5, and itself otherwise (R401 FitW). -/
def fitted (c : Ctx) (ty : BitVec 4) (rm : BitVec 3) (v : Int) : Int :=
  let w := 8 * tyBytes ty
  if (if rm = 7 then c.frm.toNat else rm.toNat) = 5 then
    (if tySigned ty then max (-(2 ^ (w - 1))) (min v (2 ^ (w - 1) - 1)) else max 0 (min v (2 ^ w - 1)))
  else v

/-- The integer element words execute: their exact results fitted element by element under their masks (R397, R401). -/
def Obligations.VectorArithmeticCompletes : Prop :=
  ∀ (s : State) (cid : Nat) (h : Hdr) (ty : BitVec 4) (d a b e : Reg) (rm : BitVec 3) (mc : MaskCtl), Issues s cid h [(0, 2)] 1 → ty.toNat ≤ 7 →
    let c := s.ctx cid
    let x j := number ty (c.vr a) j
    let y j := number ty (c.vr b) j
    let z j := number ty (c.vr e) j
    let w := tyBytes ty
    Lanes (.vadd h ty d a b rm mc) s cid h d w 2 mc (fun j => fitted c ty rm (x j + y j)) ∧
    Lanes (.vsub h ty d a b rm mc) s cid h d w 2 mc (fun j => fitted c ty rm (x j - y j)) ∧
    Lanes (.vmul h ty d a b rm mc) s cid h d w 2 mc (fun j => fitted c ty rm (x j * y j)) ∧
    Lanes (.vmac h ty d a b e rm mc) s cid h d w 2 mc (fun j => fitted c ty rm (x j * y j + z j)) ∧
    Lanes (.vmulh h ty d a b mc) s cid h d w 2 mc (fun j => x j * y j / 2 ^ (8 * w)) ∧
    Lanes (.vmin h ty d a b mc) s cid h d w 2 mc (fun j => min (x j) (y j)) ∧
    Lanes (.vmax h ty d a b mc) s cid h d w 2 mc (fun j => max (x j) (y j)) ∧
    Lanes (.vabs h ty d a rm mc) s cid h d w 2 mc (fun j => fitted c ty rm (max (x j) (-(x j)))) ∧
    Lanes (.vneg h ty d a rm mc) s cid h d w 2 mc (fun j => fitted c ty rm (-(x j))) ∧
    Lanes (.vscan h ty d a rm mc) s cid h d w 6 mc (fun j => fitted c ty rm
      (((List.range (j + 1)).filter fun i => (c.mr mc.ms.toNat).getLsbD (i * w)).foldl (fun t i => t + x i) 0)) ∧
    (2 ≤ ty.toNat → Lanes (.vpack h ty d a b rm mc) s cid h d (w / 2) 3 mc (fun j =>
      fitted c (ty - 2) rm (if j < 256 / w then x j else y (j - 256 / w)))) ∧
    (ty.toNat ≤ 5 → ∀ hi, Lanes (.vunpk h ty d a hi mc) s cid h d (2 * w) 3 mc (fun j => x ((if hi then 128 / w else 0) + j)))

/-- The bitwise words, the shifts, the selection and the moves of elements execute, element by element (R401, R417-R420). -/
def Obligations.VectorMovesComplete : Prop :=
  ∀ (s : State) (cid : Nat) (h : Hdr) (ty : BitVec 4) (d a b m : Reg) (mc : MaskCtl), Issues s cid h [(0, 2)] 1 → ty.toNat ≤ 12 →
    let c := s.ctx cid
    let w := tyBytes ty
    let n := 256 / w
    let x j := elem (c.vr a) w j
    let y j := elem (c.vr b) w j
    let u := (c.xr b).toNat
    let before j := ((List.range j).filter fun i => (c.mr m.toNat).getLsbD (i * w)).length
    Lanes (.vand h ty d a b mc) s cid h d w 2 mc (fun j => ((x j &&& y j : Nat) : Int)) ∧
    Lanes (.vor h ty d a b mc) s cid h d w 2 mc (fun j => ((x j ||| y j : Nat) : Int)) ∧
    Lanes (.vxor h ty d a b mc) s cid h d w 2 mc (fun j => ((x j ^^^ y j : Nat) : Int)) ∧
    Lanes (.vandn h ty d a b mc) s cid h d w 2 mc (fun j => ((x j - (x j &&& y j) : Nat) : Int)) ∧
    Lanes (.vnot h ty d a mc) s cid h d w 2 mc (fun j => -(x j : Int) - 1) ∧
    (ty.toNat ≤ 7 →
      Lanes (.vshl h ty d a b mc) s cid h d w 2 mc (fun j => x j * 2 ^ (y j % (8 * w))) ∧
      Lanes (.vshr h ty d a b mc) s cid h d w 2 mc (fun j => x j / 2 ^ (y j % (8 * w))) ∧
      Lanes (.vsar h ty d a b mc) s cid h d w 2 mc (fun j =>
        (if 2 ^ (8 * w - 1) ≤ x j then (x j : Int) - 2 ^ (8 * w) else x j) / 2 ^ (y j % (8 * w))) ∧
      Lanes (.viota h ty d mc) s cid h d w 2 mc (fun j => j)) ∧
    LanesAll (.vsel h ty d a b m) s cid h d w 2 (fun j => if (c.mr m.toNat).getLsbD (j * w) then x j else y j) ∧
    Lanes (.vperm h ty d a b mc) s cid h d w 3 mc (fun j => x (y j % n)) ∧
    Lanes (.vslideup h ty d a b mc) s cid h d w 3 mc (fun j => if u ≤ j then x (j - u) else 0) ∧
    Lanes (.vslidedn h ty d a b mc) s cid h d w 3 mc (fun j => if j + u < n then x (j + u) else 0) ∧
    Lanes (.vzip h ty d a b mc) s cid h d w 3 mc (fun j => if j % 2 = 0 then x (j / 2) else y (j / 2)) ∧
    Lanes (.vunzip h ty d a b mc) s cid h d w 3 mc (fun j => if j < n / 2 then x (2 * j) else y (2 * (j - n / 2))) ∧
    Lanes (.vrev h ty d a mc) s cid h d w 3 mc (fun j => x (n - 1 - j)) ∧
    Lanes (.vbcast h ty d a mc) s cid h d w 3 mc (fun _ => (c.xr a).toNat) ∧
    Lanes (.vmov h ty d a mc) s cid h d w 2 mc (fun j => x j) ∧
    ResultX (.vext h ty d a b) s cid h d (BitVec.ofInt 64 (number ty (c.vr a) (u % n))) 3 ∧
    LanesAll (.vins h ty d a b) s cid h d w 3 (fun j => if j = u % n then (c.xr a).toNat else elem (c.vr d) w j) ∧
    (∃ v, Results (.vcompress h ty d a m) s cid h .v d.toNat v 3 ∧
      (∀ j, j < n → (c.mr m.toNat).getLsbD (j * w) = true → elem v w (before j) = x j) ∧ (∀ i, before n ≤ i → i < n → elem v w i = 0)) ∧
    LanesAll (.vexpand h ty d a m) s cid h d w 3 (fun j => if (c.mr m.toNat).getLsbD (j * w) then x (before j) else 0)

/-- The fraction bits, the exponent bits and the bias of a floating-point type (R254, R255). -/
def fracBits (ty : Nat) : Nat := match ty with | 8 => 3 | 9 => 2 | 10 => 10 | 11 => 7 | _ => 23
def expBits (ty : Nat) : Nat := match ty with | 8 => 4 | 9 => 5 | 10 => 5 | _ => 8
def biasOf (ty : Nat) : Nat := match ty with | 8 => 8 | 9 => 16 | 10 => 15 | _ => 127

/-- A pattern of a floating-point type is a NaN, a signalling NaN, an infinity, or a zero, or has its sign bit set (R255, R256, R258). -/
def isNaNF (ty u : Nat) : Bool :=
  if ty < 10 then u == 0x80 else u / 2 ^ fracBits ty % 2 ^ expBits ty == 2 ^ expBits ty - 1 && u % 2 ^ fracBits ty != 0
def isSigF (ty u : Nat) : Bool := decide (10 ≤ ty) && isNaNF ty u && !u.testBit (fracBits ty - 1)
def isInfF (ty u : Nat) : Bool := decide (10 ≤ ty) && u / 2 ^ fracBits ty % 2 ^ expBits ty == 2 ^ expBits ty - 1 && u % 2 ^ fracBits ty == 0
def negF (ty u : Nat) : Bool := u.testBit (fracBits ty + expBits ty)
def isZeroF (ty u : Nat) : Bool := u % 2 ^ (fracBits ty + expBits ty) == 0 && !isNaNF ty u

/-- The value of a finite pattern of a floating-point type, in units of 2^-149 (R254, R255). -/
def unitsF (ty u : Nat) : Int :=
  let e := u / 2 ^ fracBits ty % 2 ^ expBits ty
  let f := u % 2 ^ fracBits ty
  let a : Nat := if e = 0 then f * 2 ^ (150 - biasOf ty - fracBits ty) else (2 ^ fracBits ty + f) * 2 ^ (e + 149 - biasOf ty - fracBits ty)
  if negF ty u then -a else a

/-- The place of a value that is no NaN in the order of values, an infinity beyond every finite one. -/
def orderF (ty u : Nat) : Int := if isInfF ty u then (if negF ty u then -(2 ^ 500) else 2 ^ 500) else unitsF ty u

/-- A comparison of two values; with a NaN only `.ne` is true (R355). -/
def comparesValues (cc : Nat) (nan : Bool) (p q : Int) : Prop :=
  if nan then cc = 1
  else match cc with
    | 0 => p = q
    | 1 => p ≠ q
    | 2 => p < q
    | 3 => q ≤ p
    | 6 => p ≤ q
    | _ => q < p

/-- VCMP, the mask logic and the reductions execute: the group of an element holds the truth of its comparison, and a reduction gives the
sum, the least, the greatest, the AND or the OR of the elements its mask selects, or that of none. On the floating-point types VCMP compares values, a NaN being
unequal to all, or raw bits by the unsigned codes, and a signalling NaN that is compared as a value sets NV (R402, R412, R421). -/
def Obligations.MaskAndReductionWordsComplete : Prop :=
  ∀ (s : State) (cid : Nat) (h : Hdr) (cc ty : BitVec 4) (d a b : Reg) (rm ms : BitVec 3) (mc : MaskCtl), Issues s cid h [(0, 2)] 1 → cc.toNat < 10 →
    ty.toNat ≤ 12 →
    let c := s.ctx cid
    let w := tyBytes ty
    let n := 256 / w
    let x j := elem (c.vr a) w j
    let sx (v : Vec) j : Word := BitVec.ofInt 64 (if 2 ^ (8 * w - 1) ≤ elem v w j then (elem v w j : Int) - 2 ^ (8 * w) else elem v w j)
    let zx (v : Vec) j : Word := BitVec.ofNat 64 (elem v w j)
    let unsignedCC := cc = 4 ∨ cc = 5 ∨ cc = 8 ∨ cc = 9
    let on j := (c.mr ms.toNat).getLsbD (j * w) = true
    let some := ∃ j, j < n ∧ on j
    let bounds (signed most : Bool) (r : Word) (none : Word) : Prop :=
      let v j : Word := if signed then sx (c.vr a) j else zx (c.vr a) j
      let le (p q : Word) : Prop := if signed then p.toInt ≤ q.toInt else p.toNat ≤ q.toNat
      (some → (∃ j, j < n ∧ on j ∧ r = v j) ∧ ∀ j, j < n → on j → if most then le (v j) r else le r (v j)) ∧ (¬some → r = none)
    (ty.toNat ≤ 7 →
      (∃ m : Mask, Takes (.vcmp h cc ty d a b mc) s cid h (.next (s.modCtx cid fun c => c.pendM d m 2)) ∧ ∀ k, k < 256 →
        let j := k / w
        if (c.mr mc.ms.toNat).getLsbD (j * w) = true then
          (m.getLsbD k = true ↔ (unsignedCC ∧ compares cc.toNat (zx (c.vr a) j) (zx (c.vr b) j)) ∨
            (¬unsignedCC ∧ compares cc.toNat (sx (c.vr a) j) (sx (c.vr b) j)))
        else m.getLsbD k = (!mc.zm && (c.mr d.toNat).getLsbD k)) ∧
      (∃ r, fits c rm (((List.range n).filter fun j => (c.mr ms.toNat).getLsbD (j * w)).foldl (fun t j => t + number ty (c.vr a) j) 0) r ∧
        ResultX (.vradd h ty d a rm ms) s cid h d r 6) ∧
      (∃ r, ResultX (.vrmin h ty d a ms) s cid h d r 6 ∧ bounds true false r (BitVec.ofNat 64 (2 ^ (8 * w - 1) - 1))) ∧
      (∃ r, ResultX (.vrmax h ty d a ms) s cid h d r 6 ∧ bounds true true r (BitVec.ofInt 64 (-(2 ^ (8 * w - 1))))) ∧
      (∃ r, ResultX (.vrminu h ty d a ms) s cid h d r 6 ∧ bounds false false r (BitVec.ofNat 64 (2 ^ (8 * w) - 1))) ∧
      (∃ r, ResultX (.vrmaxu h ty d a ms) s cid h d r 6 ∧ bounds false true r 0) ∧
      (∃ r, ResultX (.vrand h ty d a ms) s cid h d r 6 ∧ ∀ k, k < 64 →
        (r.getLsbD k = true ↔ k < 8 * w ∧ ∀ j, j < n → on j → (x j).testBit k = true)) ∧
      (∃ r, ResultX (.vror h ty d a ms) s cid h d r 6 ∧ ∀ k, k < 64 →
        (r.getLsbD k = true ↔ ∃ j, j < n ∧ on j ∧ (x j).testBit k = true))) ∧
    (8 ≤ ty.toNat → ∃ (m : Mask) (f : BitVec 6), Takes (.vcmp h cc ty d a b mc) s cid h (.next (s.modCtx cid fun c => (c.pendM d m 2).orFlags f)) ∧
      (let sees := ¬unsignedCC ∧ ∃ j, j < n ∧ (c.mr mc.ms.toNat).getLsbD (j * w) = true ∧
          (isSigF ty.toNat (x j) = true ∨ isSigF ty.toNat (elem (c.vr b) w j) = true)
       (sees → f = 0x20) ∧ (¬sees → f = 0)) ∧
      ∀ k, k < 256 →
        let j := k / w
        let p := x j
        let q := elem (c.vr b) w j
        if (c.mr mc.ms.toNat).getLsbD (j * w) = true then
          (m.getLsbD k = true ↔ (unsignedCC ∧ compares cc.toNat (BitVec.ofNat 64 p) (BitVec.ofNat 64 q)) ∨
            (¬unsignedCC ∧ comparesValues cc.toNat (isNaNF ty.toNat p || isNaNF ty.toNat q) (orderF ty.toNat p) (orderF ty.toNat q)))
        else m.getLsbD k = (!mc.zm && (c.mr d.toNat).getLsbD k)) ∧
    Results (.mand h d a b) s cid h .m d.toNat ((c.mr a.toNat &&& c.mr b.toNat).setWidth 2048) 2 ∧
    Results (.mor h d a b) s cid h .m d.toNat ((c.mr a.toNat ||| c.mr b.toNat).setWidth 2048) 2 ∧
    Results (.mxor h d a b) s cid h .m d.toNat ((c.mr a.toNat ^^^ c.mr b.toNat).setWidth 2048) 2 ∧
    Results (.mnot h d a) s cid h .m d.toNat ((~~~(c.mr a.toNat)).setWidth 2048) 2 ∧
    ResultX (.mpopc h ty d a) s cid h d (BitVec.ofNat 64 ((List.range n).filter fun j => (c.mr a.toNat).getLsbD (j * w)).length) 2 ∧
    (∃ r, ResultX (.mfirst h ty d a) s cid h d r 2 ∧
      ((∀ j, j < n → (c.mr a.toNat).getLsbD (j * w) = false) → r = BitVec.allOnes 64) ∧
      (∀ j, j < n → (c.mr a.toNat).getLsbD (j * w) = true → (∀ i, i < j → (c.mr a.toNat).getLsbD (i * w) = false) → r = BitVec.ofNat 64 j))

/-! ## Floating point -/

/-- An F32 element word writes its lanes under its mask with latency `lat`, and in its issue cycle ORs the flags of its active elements into
FFLAGS: element `j` gives `(r j).1` and raises `(r j).2` (R263, R397, R398). -/
def Floats (i : Instr) (s : State) (cid : Nat) (h : Hdr) (d : Reg) (lat : Nat) (mc : MaskCtl) (r : Nat → Nat × BitVec 6) : Prop :=
  let c := s.ctx cid
  let on j := (c.mr mc.ms.toNat).getLsbD (j * 4)
  ∃ v f, Takes i s cid h (.next (s.modCtx cid fun c => (c.pendW .v d.toNat v lat).orFlags f)) ∧
    (∀ j, j < 64 → elem v 4 j = if on j then (r j).1 % 2 ^ 32 else if mc.zm then 0 else elem (c.vr d) 4 j) ∧
    (∀ k, k < 6 → (f.getLsbD k = true ↔ ∃ j, j < 64 ∧ on j = true ∧ (r j).2.getLsbD k = true))

/-- The canonical NaN, the zero and the infinity of a sign in F32. -/
def quiet32 : Nat := 0x7FC0_0000
def zero32 (neg : Bool) : Nat := if neg then 2 ^ 31 else 0
def inf32 (neg : Bool) : Nat := 0x7F80_0000 + zero32 neg

/-- A NaN among the operands gives the canonical NaN, with NV where one is signalling (R258, R404). -/
def Nans32 (ls : List Nat) (r : Nat × BitVec 6) : Prop :=
  ls.any (isNaNF 12) = true → r = (quiet32, if ls.any (isSigF 12) then 0x20 else 0)

/-- The sum of p · 2^e and q · 2^e, zeros having the given signs: rounded once where it is not zero, with R403's sign where it is (R264, R403). -/
def Sum32 (mode : Nat) (p q e : Int) (sp sq : Bool) (r : Nat × BitVec 6) : Prop :=
  (p = 0 → q = 0 → sp = sq → r = (zero32 sp, 0)) ∧ (p + q = 0 → ¬(p = 0 ∧ q = 0 ∧ sp = sq) → r = (zero32 (mode == 3), 0)) ∧
  (p + q ≠ 0 → r = roundF 12 mode (p + q) e)

/-- VFADD of one pair of elements, or VFSUB (R403, R404). -/
def Adds32 (mode : Nat) (sub : Bool) (x y : Nat) (r : Nat × BitVec 6) : Prop :=
  let sy := negF 12 y != sub
  Nans32 [x, y] r ∧ ([x, y].any (isNaNF 12) = false →
    (isInfF 12 x = true → isInfF 12 y = true → r = if negF 12 x = sy then (x, 0) else (quiet32, 0x20)) ∧
    (isInfF 12 x = true → isInfF 12 y = false → r = (x, 0)) ∧ (isInfF 12 x = false → isInfF 12 y = true → r = (inf32 sy, 0)) ∧
    (isInfF 12 x = false → isInfF 12 y = false →
      Sum32 mode (unitsF 12 x) (if sub then -unitsF 12 y else unitsF 12 y) (-149) (negF 12 x) sy r))

/-- VFMUL of one pair of elements (R403, R404). -/
def Multiplies32 (mode : Nat) (x y : Nat) (r : Nat × BitVec 6) : Prop :=
  let neg := negF 12 x != negF 12 y
  Nans32 [x, y] r ∧ ([x, y].any (isNaNF 12) = false →
    (isInfF 12 x && isZeroF 12 y || isZeroF 12 x && isInfF 12 y → r = (quiet32, 0x20)) ∧
    (isInfF 12 x || isInfF 12 y → ¬(isZeroF 12 x || isZeroF 12 y) → r = (inf32 neg, 0)) ∧
    (¬(isInfF 12 x || isInfF 12 y) → isZeroF 12 x || isZeroF 12 y → r = (zero32 neg, 0)) ∧
    (¬(isInfF 12 x || isInfF 12 y) → ¬(isZeroF 12 x || isZeroF 12 y) → r = roundF 12 mode (unitsF 12 x * unitsF 12 y) (-298)))

/-- A word of the VFMA group on one triple of elements: ±(x · y) ± z, rounded once (R403, R405). -/
def Fused32 (mode : Nat) (flipP flipZ : Bool) (x y z : Nat) (r : Nat × BitVec 6) : Prop :=
  let bad := isInfF 12 x && isZeroF 12 y || isZeroF 12 x && isInfF 12 y
  let sp := (negF 12 x != negF 12 y) != flipP
  let sz := negF 12 z != flipZ
  let p := unitsF 12 x * unitsF 12 y
  let q := unitsF 12 z * 2 ^ 149
  (bad = true → r = (quiet32, 0x20)) ∧ (bad = false → Nans32 [x, y, z] r) ∧
  (bad = false → [x, y, z].any (isNaNF 12) = false →
    (isInfF 12 x || isInfF 12 y → r = if isInfF 12 z = true ∧ sp ≠ sz then (quiet32, 0x20) else (inf32 sp, 0)) ∧
    (¬(isInfF 12 x || isInfF 12 y) → isInfF 12 z = true → r = (inf32 sz, 0)) ∧
    (¬(isInfF 12 x || isInfF 12 y) → isInfF 12 z = false → Sum32 mode (if flipP then -p else p) (if flipZ then -q else q) (-298) sp sz r))

/-- VFMIN and VFMAX of one pair: the lesser and the greater, -0 below +0; of one NaN the other operand (R404). -/
def Picks32 (greater : Bool) (x y : Nat) (r : Nat × BitVec 6) : Prop :=
  let key (u : Nat) : Int := if negF 12 u then -(u % 2 ^ 31 : Nat) - 1 else (u % 2 ^ 31 : Nat)
  r.2 = (if isSigF 12 x || isSigF 12 y then 0x20 else 0) ∧
  (isNaNF 12 x = true → r.1 = if isNaNF 12 y then quiet32 else y) ∧ (isNaNF 12 x = false → isNaNF 12 y = true → r.1 = x) ∧
  (isNaNF 12 x = false → isNaNF 12 y = false → r.1 = if decide (key x ≤ key y) != greater then x else y)

/-- The seeds of one element (R281, R282): with x = ±2^E (1 + F/2^23), the integer nearest to 2^16/(1 + (2j + 1)/1024), or to 2^16/√m, scaled. -/
def Rcp32 (x : Nat) (r : Nat × BitVec 6) : Prop :=
  let n := (unitsF 12 x).natAbs
  let l := n.log2
  let q : Int := 1025 + 2 * ((n * 2 ^ 23 / 2 ^ l - 2 ^ 23) / 2 ^ 14 : Nat)
  Nans32 [x] r ∧ (isNaNF 12 x = false →
    (isZeroF 12 x = true → r = (inf32 (negF 12 x), 0x10)) ∧ (isInfF 12 x = true → r = (zero32 (negF 12 x), 0)) ∧
    (isZeroF 12 x = false → isInfF 12 x = false → ∃ t : Int, (2 * t - 1) * q < 2 ^ 27 ∧ 2 ^ 27 < (2 * t + 1) * q ∧
      r = roundF 12 0 (if negF 12 x then -t else t) (133 - l)))
def Rsq32 (x : Nat) (r : Nat × BitVec 6) : Prop :=
  let n := (unitsF 12 x).natAbs
  let l := n.log2
  let e : Int := l - 149
  let q : Int := 513 + 2 * ((n * 2 ^ 23 / 2 ^ l - 2 ^ 23) / 2 ^ 15 : Nat)
  Nans32 [x] r ∧ (isNaNF 12 x = false →
    (isZeroF 12 x = true → r = (inf32 (negF 12 x), 0x10)) ∧ (isZeroF 12 x = false → negF 12 x = true → r = (quiet32, 0x20)) ∧
    (isInfF 12 x = true → negF 12 x = false → r = (0, 0)) ∧
    (isZeroF 12 x = false → isInfF 12 x = false → negF 12 x = false → ∃ t : Int, 0 < t ∧
      (2 * t - 1) ^ 2 * q < 2 ^ (if e % 2 = 0 then 43 else 42) ∧ 2 ^ (if e % 2 = 0 then 43 else 42) < (2 * t + 1) ^ 2 * q ∧
      r = ((roundF 12 0 t (-16 - e / 2)).1, 0)))

/-- The F32 words execute on every operand, with the results of R403-R407, R413 and R281, R282: sums, products and fused sums of finite elements are their exact values
rounded once, with R403's signs of zeros; NaNs, infinities and invalid operations give R404's and R405's results and NV; VFMIN and VFMAX order values; VFSCALE scales;
VFRCP and VFRSQ give their seeds; VRFADD adds in the tree of R413. Round, which is the model's roundF (R264), leaves every value of the format as it is and sets no flag. -/
def Obligations.FloatWordsComplete : Prop :=
  (∀ mode u, u < 2 ^ 32 → isNaNF 12 u = false → isInfF 12 u = false → isZeroF 12 u = false → roundF 12 mode (unitsF 12 u) (-149) = (u, 0)) ∧
  ∀ (s : State) (cid : Nat) (h : Hdr) (d a b e : Reg) (rm ms : BitVec 3) (mc : MaskCtl), Issues s cid h [(0, 3)] 1 →
    let c := s.ctx cid
    let x j := elem (c.vr a) 4 j
    let y j := elem (c.vr b) 4 j
    let z j := elem (c.vr e) 4 j
    let mode := if rm = 7 then c.frm.toNat else rm.toNat
    let all : MaskCtl := { zm := false, ms := 0 }
    (∃ r, Floats (.vfadd h d a b rm mc) s cid h d 4 mc r ∧ ∀ j, Adds32 mode false (x j) (y j) (r j)) ∧
    (∃ r, Floats (.vfsub h d a b rm mc) s cid h d 4 mc r ∧ ∀ j, Adds32 mode true (x j) (y j) (r j)) ∧
    (∃ r, Floats (.vfmul h d a b rm mc) s cid h d 4 mc r ∧ ∀ j, Multiplies32 mode (x j) (y j) (r j)) ∧
    (∃ r, Floats (.vfmin h d a b rm mc) s cid h d 4 mc r ∧ ∀ j, Picks32 false (x j) (y j) (r j)) ∧
    (∃ r, Floats (.vfmax h d a b rm mc) s cid h d 4 mc r ∧ ∀ j, Picks32 true (x j) (y j) (r j)) ∧
    (∃ r, Floats (.vfabs h d a rm mc) s cid h d 4 mc r ∧ ∀ j, Nans32 [x j] (r j) ∧ (isNaNF 12 (x j) = false → r j = (x j % 2 ^ 31, 0))) ∧
    (∃ r, Floats (.vfneg h d a rm mc) s cid h d 4 mc r ∧ ∀ j, Nans32 [x j] (r j) ∧
      (isNaNF 12 (x j) = false → r j = (x j % 2 ^ 31 + zero32 (!negF 12 (x j)), 0))) ∧
    (∃ r, Floats (.vfma h d a b e rm mc) s cid h d 4 mc r ∧ ∀ j, Fused32 mode false false (x j) (y j) (z j) (r j)) ∧
    (∃ r, Floats (.vfms h d a b e rm mc) s cid h d 4 mc r ∧ ∀ j, Fused32 mode false true (x j) (y j) (z j) (r j)) ∧
    (∃ r, Floats (.vfnma h d a b e rm mc) s cid h d 4 mc r ∧ ∀ j, Fused32 mode true true (x j) (y j) (z j) (r j)) ∧
    (∃ r, Floats (.vfnms h d a b e rm mc) s cid h d 4 mc r ∧ ∀ j, Fused32 mode true false (x j) (y j) (z j) (r j)) ∧
    (∃ r, Floats (.vfrcp h d a) s cid h d 6 all r ∧ ∀ j, Rcp32 (x j) (r j)) ∧
    (∃ r, Floats (.vfrsq h d a) s cid h d 6 all r ∧ ∀ j, Rsq32 (x j) (r j)) ∧
    (∃ r, Floats (.vfclass h d a mc) s cid h d 4 mc r ∧ ∀ j,
      let neg := negF 12 (x j)
      (r j).2 = 0 ∧ (isNaNF 12 (x j) = true → (r j).1 = if isSigF 12 (x j) then 2 ^ 8 else 2 ^ 9) ∧
      (isInfF 12 (x j) = true → (r j).1 = if neg then 1 else 2 ^ 7) ∧ (isZeroF 12 (x j) = true → (r j).1 = if neg then 2 ^ 3 else 2 ^ 4) ∧
      (isNaNF 12 (x j) = false → isInfF 12 (x j) = false → isZeroF 12 (x j) = false →
        (r j).1 = if x j / 2 ^ 23 % 2 ^ 8 = 0 then (if neg then 2 ^ 2 else 2 ^ 5) else (if neg then 2 else 2 ^ 6))) ∧
    (∃ r, Floats (.vfscale h d a b rm mc) s cid h d 4 mc r ∧ ∀ j, Nans32 [x j] (r j) ∧
      (isZeroF 12 (x j) = true ∨ isInfF 12 (x j) = true → r j = (x j, 0)) ∧
      (isNaNF 12 (x j) = false → isInfF 12 (x j) = false → isZeroF 12 (x j) = false →
        r j = roundF 12 mode (unitsF 12 (x j)) (number 4 (c.vr b) j - 149))) ∧
    (∃ r, Floats (.vfgetexp h d a mc) s cid h d 4 mc r ∧ ∀ j, (isZeroF 12 (x j) = true → r j = (2 ^ 31, 0)) ∧
      (isInfF 12 (x j) = true → r j = (2 ^ 31 - 1, 0x20)) ∧ (isNaNF 12 (x j) = true → r j = (2 ^ 31, 0x20)) ∧
      (isNaNF 12 (x j) = false → isInfF 12 (x j) = false → isZeroF 12 (x j) = false →
        r j = (((((unitsF 12 (x j)).natAbs.log2 : Int) - 149) % 2 ^ 32).toNat, 0))) ∧
    (∃ (t : Nat → Nat → Nat × BitVec 6) (f : BitVec 6),
      Takes (.vrfadd h d a rm ms) s cid h (.next (s.modCtx cid fun c => (c.pendX d (BitVec.ofNat 64 (t 6 0).1) 8).orFlags f)) ∧ (t 6 0).1 < 2 ^ 32 ∧
      (∀ i, i < 64 → (t 0 i).1 = if (c.mr ms.toNat).getLsbD (i * 4) then x i else 0) ∧
      (∀ l i, l < 6 → i < 2 ^ (5 - l) → Adds32 mode false (t l (2 * i)).1 (t l (2 * i + 1)).1 (t (l + 1) i)) ∧
      (∀ k, k < 6 → (f.getLsbD k = true ↔ ∃ l i, l < 6 ∧ i < 2 ^ (5 - l) ∧ (t (l + 1) i).2.getLsbD k = true)))
/-- Cvt of one element: an integer is exact; a NaN, an infinity and a zero convert as R264's table says; any other value is rounded once, by the model's Round (R264,
R409). -/
def Cvt (ty dt mode : Nat) (x : Int) (u : Nat) (r : Nat × BitVec 6) : Prop :=
  let w := 8 * tyW dt
  let sat : Bool := mode == 5 || mode == 6
  let quiet : Nat := match dt with | 8 => 0x80 | 9 => 0x80 | 10 => 0x7E00 | 11 => 0x7FC0 | _ => 0x7FC0_0000
  let neg := negF ty u
  let signed := dt = 0 ∨ dt = 2 ∨ dt = 4 ∨ dt = 6
  if ty ≤ 7 then r = roundV dt mode (.fin x 0)
  else if isNaNF ty u then r = if dt ≤ 7 then (0, 0x20) else (quiet, if isSigF ty u then 0x20 else 0)
  else if isInfF ty u then
    r = if dt ≤ 7 then
        (if sat then (if neg then (if signed then 2 ^ (w - 1) else 0) else (if signed then 2 ^ (w - 1) - 1 else 2 ^ w - 1)) else 0, 0x20)
      else if dt ≤ 9 then (if sat then (0x7F + if neg then 0x80 else 0, 0x0A) else (0x80, 0x20))
      else (((2 ^ expBits dt - 1) * 2 ^ fracBits dt) + if neg then 2 ^ (w - 1) else 0, 0)
  else if isZeroF ty u then r = (if neg = true ∧ 10 ≤ dt then 2 ^ (w - 1) else 0, 0)
  else r = roundV dt mode (.fin (unitsF ty u) (-149))

/-- What is written for an element of VCVT: under routing an element that overflows is saturated, and a NaN is delivered as without (R410). -/
def routedTo (ty dt : Nat) (x : Int) (u ovf : Nat) (r : Nat × BitVec 6) : Nat :=
  let w := 8 * tyW dt
  let neg : Bool := if ty ≤ 7 then decide (x < 0) else negF ty u
  let signed := dt = 0 ∨ dt = 2 ∨ dt = 4 ∨ dt = 6
  if ovf = 0 ∨ r.2 &&& 0x28 = 0 ∨ (8 ≤ ty ∧ isNaNF ty u = true) then r.1
  else if dt ≤ 7 then (if neg then (if signed then 2 ^ (w - 1) else 0) else (if signed then 2 ^ (w - 1) - 1 else 2 ^ w - 1))
  else (match dt with | 8 => 0x7F | 9 => 0x7F | 10 => 0x7BFF | 11 => 0x7F7F | _ => 0x7F7F_FFFF) + if neg then 2 ^ (w - 1) else 0

/-- The conversions of VCVT: which elements it converts, what it writes to them, which of them overflow, and its flags (R264, R408-R410). -/
structure Converts (c : Ctx) (f : CvtF) (v : Vec) (fl : BitVec 6) (isOut : Nat → Bool) : Prop where
  /-- Elements outside the window keep their value; those in it that the mask does not govern are kept or zeroed. -/
  others : ∀ t, t < 256 / tyBytes f.dt →
    let n := 256 / max (tyBytes f.ty) (tyBytes f.dt)
    let first := if tyBytes f.dt < tyBytes f.ty then f.pos.toNat * n else 0
    let inside := first ≤ t ∧ t < first + n
    let on := (c.mr f.mc.ms.toNat).getLsbD (t * tyBytes f.dt)
    (¬inside → elem v (tyBytes f.dt) t = elem (c.vr f.d) (tyBytes f.dt) t ∧ isOut t = false) ∧
    (inside → on = false → elem v (tyBytes f.dt) t = (if f.mc.zm then 0 else elem (c.vr f.d) (tyBytes f.dt) t) ∧ isOut t = false)
  /-- An integer that the destination type holds is written as it is, and any other saturates or wraps, with NV. -/
  value : f.ty.toNat ≤ 7 → f.dt.toNat ≤ 7 →
    let n := 256 / max (tyBytes f.ty) (tyBytes f.dt)
    let w := 8 * tyBytes f.dt
    let lo : Int := if tySigned f.dt then -(2 ^ (w - 1)) else 0
    let hi : Int := if tySigned f.dt then 2 ^ (w - 1) - 1 else 2 ^ w - 1
    let mode := if f.rm = 7 then c.frm.toNat else f.rm.toNat
    (∀ i, i < n →
      let p := f.pos.toNat * n + i
      let t := if tyBytes f.dt < tyBytes f.ty then p else i
      let x := number f.ty (c.vr f.a) (if tyBytes f.dt < tyBytes f.ty then i else p)
      (c.mr f.mc.ms.toNat).getLsbD (t * tyBytes f.dt) = true →
        isOut t = !(decide (lo ≤ x) && decide (x ≤ hi)) ∧
        elem v (tyBytes f.dt) t = ((if mode = 5 ∨ mode = 6 ∨ f.ovf ≠ 0 then max lo (min x hi) else x) % 2 ^ w).toNat) ∧
    fl = if (List.range (256 / tyBytes f.dt)).any isOut then 0x20 else 0
  /-- Of any pair of types: each element the mask governs is converted, and routed where it sets OF or NV; the flags are those of all of them. -/
  cvt :
    let n := 256 / max (tyBytes f.ty) (tyBytes f.dt)
    let mode := if f.rm = 7 then c.frm.toNat else f.rm.toNat
    let narrow := tyBytes f.dt < tyBytes f.ty
    let at' i := if narrow then f.pos.toNat * n + i else i
    let on i := (c.mr f.mc.ms.toNat).getLsbD (at' i * tyBytes f.dt) = true
    ∃ r : Nat → Nat × BitVec 6, (∀ i, i < n → on i →
        let from' := if narrow then i else f.pos.toNat * n + i
        let x := number f.ty (c.vr f.a) from'
        let u := elem (c.vr f.a) (tyBytes f.ty) from'
        Cvt f.ty.toNat f.dt.toNat mode x u (r i) ∧ isOut (at' i) = ((r i).2 &&& 0x28 != 0) ∧
        elem v (tyBytes f.dt) (at' i) = routedTo f.ty.toNat f.dt.toNat x u f.ovf.toNat (r i)) ∧
      ∀ k, k < 6 → (fl.getLsbD k = true ↔ ∃ i, i < n ∧ on i ∧ (r i).2.getLsbD k = true)

/-- VCVT executes for every pair of its types: without routing it writes its vector and its flags; in the mask form it also writes the groups of
the elements that overflow to mC; and in the port form it tests its port as SEND does, and sends one token that holds their number, the destination
type and the firing, which a port left unconnected discards (R31, R279, R408-R410). -/
def Obligations.ConversionsComplete : Prop :=
  ∀ (s : State) (cid : Nat) (h : Hdr) (f : CvtF), Issues s cid h [(0, 3)] 2 → f.wf = true →
    let c := s.ctx cid
    let writes (c : Ctx) (v : Vec) (fl : BitVec 6) : Ctx := (c.pendW .v f.d.toNat v 4).orFlags fl
    ∃ v fl isOut, Converts c f v fl isOut ∧
      (f.ovf = 0 → Takes (.vcvt h f) s cid h (.next (s.modCtx cid fun c => writes c v fl))) ∧
      (f.ovf = 1 → ∃ m : Mask, Takes (.vcvt h f) s cid h (.next (s.modCtx cid fun c => (writes c v fl).pendM f.c m 4)) ∧
        ∀ k, k < 256 → m.getLsbD k = isOut (k / tyBytes f.dt)) ∧
      (f.ovf = 2 →
        let port := 16 + f.c.toNat
        let count := ((List.range (256 / tyBytes f.dt)).filter isOut).length
        (∀ code info, portTest s cid port (some 0) = some (code, info) → Traps (.vcvt h f) s cid h code info 0) ∧
        (∀ r n nd p i, AtPort s cid port r n nd p → p.kind = 0 → tget 0 c.moved port < p.count → r.graph.chanOfOut n port = some i →
          ∃ u r' tok, exec (.vcvt h f) s = .next u ∧ u.run r.id = some r' ∧ (∀ j, j ≠ i → r'.chan j = r.chan j) ∧
            (r'.chan i).fly = (r.chan i).fly ++ [{ tok := some (.scalar tok), due := s.cycle (coreOf cid) + 2 }] ∧
            tok.toNat = count * 2 ^ 48 + f.dt.toNat * 2 ^ 44 + c.fireno.toNat % 2 ^ 32 ∧
            (u.ctx cid).pend = (writes c v fl).pend ∧ (u.ctx cid).fflags = c.fflags ||| fl ∧
            (u.ctx cid).moved = tset 0 c.moved port (tget 0 c.moved port + 1) ∧ ∀ k, k ≠ cid → u.ctx k = s.ctx k) ∧
        (∀ r n nd p, AtPort s cid port r n nd p → p.kind = 0 → tget 0 c.moved port < p.count → r.graph.chanOfOut n port = none →
          ∃ u r', exec (.vcvt h f) s = .next u ∧ u.run r.id = some r' ∧ (∀ j, r'.chan j = r.chan j) ∧
            (u.ctx cid).pend = (writes c v fl).pend ∧ (u.ctx cid).fflags = c.fflags ||| fl ∧
            (u.ctx cid).moved = tset 0 c.moved port (tget 0 c.moved port + 1) ∧ ∀ k, k ≠ cid → u.ctx k = s.ctx k))

/-- A value on the grid of an anchor, truncated toward zero, and whether a part of it is lost: an integer, or units of 2^-149 (R414). -/
def onGrid (unit anchor m : Int) : Int × Bool :=
  let sh := unit - (anchor - 96)
  if 0 ≤ sh then (m * 2 ^ sh.toNat, false) else (m.tdiv (2 ^ (-sh).toNat), decide (¬ (2 ^ (-sh).toNat : Int) ∣ m))

/-- VRXADD adds the active elements, on the grid of the descriptor's anchor, exactly into one element of its pair, and changes no other: a NaN, an infinity or a special
element makes it special, with XW, and NV for a signalling NaN; where the sum lies in its window it is exact, a part lost below the grid being told in the
descriptor and by XW. VRES gives a chunk residue of the pair it reads: below 2^61 - 1, the weighted sum of the bytes of a U8 payload, and all ones for no type
(R276, R277, R414, R416). -/
def Obligations.ExactSumsAndResiduesComplete : Prop :=
  ∀ (s : State) (cid : Nat) (h : Hdr) (ty : BitVec 4) (d a b : Reg) (ms : BitVec 3),
    let c := s.ctx cid
    (Issues s cid h [(0, 4)] 3 → ty.toNat ≤ 12 → d.toNat % 2 = 0 →
      let w := tyBytes ty
      let k := (c.xr b).toNat % 32
      let pair : BitVec 4096 := c.vr (d + 1) ++ c.vr d
      let at16 (p : BitVec 4096) (i : Nat) : BitVec 128 := p.extractLsb' (128 * i) 128
      let on := (List.range (256 / w)).filter fun j => (c.mr ms.toNat).getLsbD (j * w)
      let u j := elem (c.vr a) w j
      let anchor := ((c.xr d).extractLsb' 16 16).toInt
      let grid j := if ty.toNat ≤ 7 then onGrid 0 anchor (number ty (c.vr a) j) else onGrid (-149) anchor (unitsF ty.toNat (u j))
      let total := (at16 pair k).toInt + on.foldl (fun t j => t + (grid j).1) 0
      let lost := on.any fun j => (grid j).2
      let odd j : Bool := decide (8 ≤ ty.toNat) && (isNaNF ty.toNat (u j) || isInfF ty.toNat (u j))
      let special := (at16 pair k).toInt = -(2 ^ 127) ∨ on.any odd = true
      let writes (p : BitVec 4096) (x : Word) (f : BitVec 6) : Prop :=
        Takes (.vrxadd h ty d a b ms) s cid h (.next (s.modCtx cid fun c =>
          (((c.pendV d (p.extractLsb' 0 2048) 10).pendV (d + 1) (p.extractLsb' 2048 2048) 10).pendX d x 10).orFlags f)) ∧
        (∀ i, i < 32 → i ≠ k → at16 p i = at16 pair i) ∧ x.extractLsb' 0 12 = 13 ∧ x.getLsbD 12 = (c.xr d).getLsbD 12 ∧
        x.extractLsb' 15 49 = (c.xr d).extractLsb' 15 49
      (special → ∃ p x f, writes p x f ∧ (at16 p k).toInt = -(2 ^ 127) ∧ x.getLsbD 13 = true ∧ x.getLsbD 14 = true ∧
        f = (if on.any fun j => decide (8 ≤ ty.toNat) && isSigF ty.toNat (u j) then 0x21 else 0x01)) ∧
      (¬special → -(2 ^ 127) < total → total < 2 ^ 127 → ∃ p x f, writes p x f ∧ (at16 p k).toInt = total ∧
        x.getLsbD 13 = ((c.xr d).getLsbD 13 || lost) ∧ x.getLsbD 14 = (c.xr d).getLsbD 14 ∧ f = if lost then 0x01 else 0)) ∧
    (Issues s cid h [(0, 2)] 1 → a.toNat % 2 = 0 →
      ∃ r, ResultX (.vres h d a) s cid h d r 6 ∧ ((c.xr a).toNat % 16 ≥ 14 → r = BitVec.allOnes 64) ∧ ((c.xr a).toNat % 16 < 14 → r.toNat < 2 ^ 61 - 1) ∧
        ((c.xr a).toNat % 2 ^ 12 = 1 →
          r.toNat = ((List.range 512).foldl (fun t j => t + (j + 1) * elem (if j < 256 then c.vr a else c.vr (a + 1)) 1 (j % 256)) 0) % (2 ^ 61 - 1)))

/-! ## Special registers -/

/-- CSRR reads every register of the map, QUERY a leaf as the run latched it, and MARK in a handler operator, or in an operator without input
channels, asks for a periodic cut, and raises PRIV anywhere else (R91, R367, R368, R457, R458). -/
def SpecialRegistersAreRead : Prop :=
  ∀ (s : State) (cid : Nat) (h : Hdr) (d : Reg) (csr : BitVec 12) (leaf : BitVec 4) (r : Run), s.ctxRun cid = some r →
    let c := s.ctx cid
    let n := csr.toNat
    let feats := if 0x30 ≤ n ∧ n ≤ 0x35 then [(0, 15)] else if 0x40 ≤ n ∧ n ≤ 0x52 then [(0, 14)] else []
    (Issues s cid h feats 1 → csrListed csr = true → ∃ v, ResultX (.csrr h d csr) s cid h d v 2 ∧
      (n = 0x000 → v.toNat = ctxOf cid) ∧ (n = 0x001 → coreOf cid < 2 ^ 11 → v.toNat = coreOf cid) ∧ (n = 0x002 → r.vd < 32 → v.toNat = r.vd) ∧
      (n = 0x003 → v = c.fireno) ∧ (n = 0x004 → v = BitVec.ofNat 64 c.segid) ∧ (n = 0x005 → v = c.argbase) ∧
      (n = 0x008 → c.ccond.getLsbD 17 = false → (∀ g ∈ r.segs, g.id = c.segid → g.stale = 0 ∧ g.ccond = c.ccond) → v = 0x1_0000) ∧ (n = 0x009 → v = c.ccond.setWidth 64) ∧ (n = 0x010 → v = c.fflags.setWidth 64) ∧
      (n = 0x011 → v = c.frm.setWidth 64) ∧ (n = 0x020 → v = BitVec.ofNat 64 (s.cycle (coreOf cid))) ∧ (n = 0x021 → v = BitVec.ofNat 64 s.time) ∧
      (n = 0x030 → v = if c.stepEn then 1 else 0) ∧ (∀ k, k < 4 → n = 0x031 + k → v = tget 0 c.bpa k) ∧
      (n = 0x035 → v.extractLsb' 0 4 = c.bphit ∧ v.getLsbD 4 = c.skip ∧ v.extractLsb' 16 8 = c.last ∧ v.extractLsb' 32 16 = c.ctag) ∧
      (n = 0x040 → v.getLsbD 63 = c.mon.en ∧ v.getLsbD 62 = false) ∧ (n = 0x041 → v = c.mon.min) ∧ (n = 0x042 → v = c.mon.max) ∧
      (∀ k, k < 16 → n = 0x043 + k → v = BitVec.ofNat 64 (tget 0 c.mon.bins k)) ∧
      (n = 0x060 → v = if c.role.isOp ∧ r.graph.handler = some c.role.node then c.fltrec.setWidth 64 <<< 6 else 0)) ∧
    (Issues s cid h [] 1 → ResultX (.query h d leaf) s cid h d (tget 0 r.leaves leaf.toNat) 2) ∧
    (Issues s cid h [] 0 → s.run r.id = some r →
      let source := c.role.isOp = true ∧ (r.graph.handlerNodes.contains c.role.node = true ∨
        ∀ k ∈ r.graph.chans, k.cnode = c.role.node → k.barrier = true ∨ k.selector = true)
      (¬source → Traps (.mark h) s cid h 0x03 0 0) ∧
      (source → (r.cut.isSome = true ∨ r.cutReq.isSome = true) → Takes (.mark h) s cid h (.next s)) ∧
      (source → r.cut = none → r.cutReq = none → ∃ t, exec (.mark h) s = .next t ∧ t.run r.id = some { r with cutReq := some .periodic } ∧
        (∀ k, k ≠ cid → t.ctx k = s.ctx k) ∧ t.dram = s.dram))

/-- CSRW, CSRS and CSRC write the new value at once and their destination the old one, with latency 2: for the writable registers, and FLTREC in the
handler entry; any other raises PRIV, whatever it would change (R369, R457). -/
def SpecialRegistersAreWritten : Prop :=
  ∀ (s : State) (cid : Nat) (h : Hdr) (d a : Reg) (csr : BitVec 12) (r : Run), s.ctxRun cid = some r → csrListed csr = true →
    let c := s.ctx cid
    let n := csr.toNat
    let feats := if 0x30 ≤ n ∧ n ≤ 0x35 then [(0, 15)] else if 0x40 ≤ n ∧ n ≤ 0x52 then [(0, 14)] else []
    let entry : Bool := c.role.isOp && r.graph.handler == some c.role.node
    let writable : Bool := n ∈ [0x010, 0x011, 0x030, 0x031, 0x032, 0x033, 0x034, 0x040] || (n == 0x060 && entry)
    let old := readCsr s cid n
    let x := c.xr a
    let becomes (i : Instr) (w : Word) : Prop := ∃ c' : Ctx, Takes i s cid h (.next (s.modCtx cid fun _ => c'.pendX d old 2)) ∧
      (n = 0x010 → c' = { c with fflags := w.extractLsb' 0 6 }) ∧
      (n = 0x011 → c' = if w.extractLsb' 0 3 = 7 then c else { c with frm := w.extractLsb' 0 3 }) ∧
      (n = 0x030 → c' = { c with stepEn := w.getLsbD 0 }) ∧
      (∀ k, k < 4 → n = 0x031 + k → (∃ b, c' = { c with bpa := b }) ∧ (tget 0 c'.bpa k).getLsbD 0 = w.getLsbD 0 ∧
        (tget 0 c'.bpa k).extractLsb' 1 2 = 0 ∧ (tget 0 c'.bpa k).extractLsb' 3 53 = w.extractLsb' 3 53 ∧
        (tget 0 c'.bpa k).extractLsb' 56 8 = 0 ∧ ∀ j, j ≠ k → tget 0 c'.bpa j = tget 0 c.bpa j) ∧
      (n = 0x040 → (∃ m, c' = { c with mon := m }) ∧ c'.mon.en = w.getLsbD 63 ∧ c'.mon.event = (w.extractLsb' 56 4).toNat ∧
        c'.mon.port = (w.extractLsb' 52 4).toNat ∧ c'.mon.cls = (w.extractLsb' 48 4).toNat ∧ c'.mon.num = (w.extractLsb' 32 16).toNat ∧
        if w.getLsbD 62 then c'.mon.min = BitVec.allOnes 64 ∧ c'.mon.max = 0 ∧ c'.mon.bins = []
        else c'.mon.min = c.mon.min ∧ c'.mon.max = c.mon.max ∧ c'.mon.bins = c.mon.bins) ∧
      (n = 0x060 → c' = { c with fltrec := w.extractLsb' 6 13 })
    Issues s cid h feats 1 →
      (writable = true → becomes (.csrw h d a csr) x ∧ becomes (.csrs h d a csr) (old ||| x) ∧ becomes (.csrc h d a csr) (old &&& ~~~x)) ∧
      (writable = false → Traps (.csrw h d a csr) s cid h 0x03 0 0 ∧ Traps (.csrs h d a csr) s cid h 0x03 0 0 ∧ Traps (.csrc h d a csr) s cid h 0x03 0 0)

/-- The special registers are read and written as the rules say. -/
def Obligations.SpecialRegistersAreReadAndWritten : Prop := SpecialRegistersAreRead ∧ SpecialRegistersAreWritten
/-! ## Memory -/

/-- The registers, the flags and the results in flight of a context are as before. -/
def SameRegs (c u : Ctx) : Prop :=
  u.x = c.x ∧ u.v = c.v ∧ u.p = c.p ∧ u.m = c.m ∧ u.sh = c.sh ∧ u.fflags = c.fflags ∧ u.frm = c.frm ∧ u.fireno = c.fireno ∧ u.argbase = c.argbase ∧
  u.moved = c.moved ∧ u.pend = c.pend

/-- Nothing that an access of context `cid` has no part in has changed: every other context, every core's memory, full-empty bits, accumulators and
tiles, and DRAM. -/
def SameMemories (s t : State) (cid : Nat) : Prop :=
  (∀ k, k ≠ cid → t.ctx k = s.ctx k) ∧ t.dram = s.dram ∧
  ∀ k, (t.core k).mem = (s.core k).mem ∧ (t.core k).fe = (s.core k).fe ∧ (t.core k).accs = (s.core k).accs ∧ (t.core k).tiles = (s.core k).tiles

/-- Every element of an access to core memory passes the tests of R424, and nothing holds it: it lies aligned in the core's 512 KiB, in no live ring and in no bank that a
handoff keeps from the node, no copy and no acquire of the context is in flight, and no bank is taken in this cycle. -/
structure CoreOpen (s : State) (cid : Nat) (r : Run) (es : List AElt) : Prop where
  run : s.ctxRun cid = some r
  within : ∀ e ∈ es, e.ea < 0x80000 ∧ e.ea % e.len = 0
  rings : ∀ e ∈ es, ∀ g ∈ r.rings, g.core = coreOf cid → e.ea + e.len ≤ g.base ∨ g.base + g.bytes ≤ e.ea
  hands : ∀ e ∈ es, r.bankWaits (s.ctx cid).role.node (e.ea / 0x8000) = false ∧
    r.bankGone (s.ctx cid).role.node (e.ea / 0x8000) (s.ctx cid).fireno.toNat = false
  copies : ∀ p ∈ (s.core (coreOf cid)).copies, p.cid ≠ cid
  acquires : ∀ q ∈ (s.core (coreOf cid)).wq, q.cid = cid → q.acq = false
  banks : ∀ e ∈ es, e.ea / 0x8000 ∉ (s.core (coreOf cid)).banksBusy

/-- Every element of an access to device memory passes the tests of R424, and nothing holds it: it lies aligned in the page that the core's TLB holds first,
which admits it, and in a range of the node, no stream barrier holds the node, and no copy and no acquire of the context is in flight. -/
structure DevOpen (s : State) (cid : Nat) (r : Run) (w : Want) (es : List AElt) (p : Page) : Prop where
  run : s.ctxRun cid = some r
  page : (s.core (coreOf cid)).tlb.head? = some p
  within : ∀ e ∈ es, e.ea < 2 ^ 56 ∧ e.ea % e.len = 0 ∧ p.holds r.vd e.ea = true
  writable : w ≠ .read → p.writable = true ∧ ∀ e ∈ es, writeBarred r e.ea e.len = false
  ranged : ∀ e ∈ es, ∃ g ∈ r.graph.ranges, g.admits (s.ctx cid) (s.ctx cid).role.node w e.ea e.len = true
  edges : ∀ k ∈ r.graph.chans, k.barrier = true → k.cnode ≠ (s.ctx cid).role.node
  copies : ∀ p ∈ (s.core (coreOf cid)).copies, p.cid ≠ cid
  acquires : ∀ q ∈ (s.core (coreOf cid)).wq, q.cid = cid → q.acq = false

/-- The word's access has joined its core's path as the request `q`, for the bytes of its elements where the page puts them, and nothing has
been read or written yet (R305, R428). -/
def Queues (s t : State) (cid : Nat) (h : Hdr) (es : List AElt) (p : Page) (q : Req) : Prop :=
  (t.core (coreOf cid)).wq = (s.core (coreOf cid)).wq ++ [q] ∧ q.cid = cid ∧ (∀ r, s.ctxRun cid = some r → q.vd = r.vd) ∧
  q.todo = unitsAll es (es.map fun e => p.pa + (e.ea - p.va)) ∧
  SameRegs (s.ctx cid) (t.ctx cid) ∧ (t.ctx cid).pc = (s.ctx cid).pc + 8 ∧ (t.ctx cid).gap = 1 + h.gap.toNat ∧ SameMemories s t cid

/-- The address of a memory word: A + B · 2^SC + DISP modulo 2^64, and of the elements of a strided and an indexed one (R423, R427). -/
def Obligations.EffectiveAddressesAreSums : Prop :=
  ∀ (c : Ctx) (m : MemF) (len : Nat),
    let w := if m.sz = 4 then 256 else 2 ^ m.sz.toNat
    let x (r : Reg) : Int := (c.xr r).toInt
    let ea (a : Int) : Nat := (a % 2 ^ 64).toNat
    memOne m c len = [{ ea := ea (x m.a + x m.b * 2 ^ m.sc.toNat + m.disp.toInt), len := len, off := 0 }] ∧
    memStrided m c = (List.range (256 / w)).map (fun j =>
      { ea := ea (x m.a + m.disp.toInt + j * w * (if m.b = 0 then 1 else x m.b)), len := w, off := w * j }) ∧
    memIndexed m c = (List.range (256 / w)).map (fun j =>
      let u : Nat := (c.vr m.b).toNat / 2 ^ (8 * w * j) % 2 ^ (8 * w)
      { ea := ea (x m.a + (if 2 ^ (8 * w - 1) ≤ u then (u : Int) - 2 ^ (8 * w) else u) * 2 ^ m.sc.toNat + m.disp.toInt), len := w, off := w * j })

/-- LD, LDV, VLDS, VGATH and SHLD of core memory execute with latency 4: the register holds the bytes of every element, zero-extended, and nothing else has
changed, whatever the order and the scope (R425); of device memory they park, with the access on the core's path, unless the L1 serves it
(R427, R428, R443). -/
def Obligations.LoadsComplete : Prop :=
  ∀ (s : State) (cid : Nat) (h : Hdr) (m : MemF) (d a : Reg) (r : Run), (s.ctx cid).role.isOp = true →
    let c := s.ctx cid
    let w := if m.sz = 4 then 256 else 2 ^ m.sz.toNat
    let byte (v : Vec) (k : Nat) : Byte := v.extractLsb' (8 * k) 8
    let core (i : Instr) (f : File) (n : Nat) (es : List AElt) : Prop := CoreOpen s cid r es → s.ownEntries cid = [] →
      ∃ v, Takes i s cid h (.next ((s.touchBanks cid es).modCtx cid fun c => c.pendW f n v 4)) ∧
        (∀ e ∈ es, ∀ k, k < e.len → byte v (e.off + k) = mget (s.core (coreOf cid)).mem (e.ea + k)) ∧
        (∀ k, k < 256 → (∀ e ∈ es, k < e.off ∨ e.off + e.len ≤ k) → byte v k = 0)
    let device (i : Instr) (f : File) (n : Nat) (es : List AElt) : Prop := ∀ p, DevOpen s cid r .read es p → s.ownEntries cid = [] →
      (∀ e ∈ es, s.l1Get (coreOf cid) (p.pa + (e.ea - p.va)) = none) → es ≠ [] →
      ∃ t q, exec i s = .next t ∧ Queues s t cid h es p q ∧ q.kind = .load ∧ q.dst = some (f, n) ∧ (t.ctx cid).park.map (·.kind) = some .landing
    let sp := { m with sp := true }
    let cm := { m with sp := false }
    m.ord.toNat ≤ 1 → m.sz.toNat ≤ 4 →
    (Issues s cid h (memFeats false m.scope []) 1 →
      core (.ld h cm) .x m.d.toNat (memOne cm c w) ∧ core (.ldv h cm) .v m.d.toNat (memOne cm c 256) ∧
      (m.sz.toNat ≤ 3 → core (.vlds h cm) .v m.d.toNat (memStrided cm c)) ∧
      (m.sz = 2 ∨ m.sz = 3 → core (.vgath h cm) .v m.d.toNat (memIndexed cm c))) ∧
    (Issues s cid h (memFeats true m.scope []) 1 →
      device (.ld h sp) .x m.d.toNat (memOne sp c w) ∧ device (.ldv h sp) .v m.d.toNat (memOne sp c 256) ∧
      (m.sz.toNat ≤ 3 → device (.vlds h sp) .v m.d.toNat (memStrided sp c)) ∧
      (m.sz = 2 ∨ m.sz = 3 → device (.vgath h sp) .v m.d.toNat (memIndexed sp c))) ∧
    (Issues s cid h [] 1 →
      let es : List AElt := [{ ea := (c.xr a).toNat, len := 64, off := 0 }]
      core (.shld h d a false) .s d.toNat es ∧ device (.shld h d a true) .s d.toNat es)

/-- The words that store to core memory change exactly the bytes of their elements, of elements that write the same byte the highest standing, and
the full-empty bits that STF, FESET and FECLR set and clear, a release with none of its context's writes under way, and with some it joins the core's buffer and its context goes on (R428); to device memory they change no byte yet:
the access joins the core's path (R285, R307, R427-R429, R443). -/
def Obligations.StoresReachTheirBytes : Prop :=
  ∀ (s : State) (cid : Nat) (h : Hdr) (m : MemF) (d a : Reg) (r : Run), (s.ctx cid).role.isOp = true → s.ownEntries cid = [] →
    let c := s.ctx cid
    let w := if m.sz = 4 then 256 else 2 ^ m.sz.toNat
    let xb (v : Word) (k : Nat) : Byte := if k < 8 then v.extractLsb' (8 * k) 8 else 0
    let vb (v : Vec) (k : Nat) : Byte := v.extractLsb' (8 * k) 8
    let core (i : Instr) (es : List AElt) (data : Option (Nat → Byte)) (fe : Option Bool) (rel : Bool) : Prop := CoreOpen s cid r es →
      (rel = true → (∃ q ∈ (s.core (coreOf cid)).wq, q.cid = cid ∧ q.kind.isWrite = true) →
        ∃ t e, exec i s = .next t ∧ (t.core (coreOf cid)).sbuf = (s.core (coreOf cid)).sbuf ++ [e] ∧ e.cid = cid ∧ e.posted = true ∧
          (t.core (coreOf cid)).mem = (s.core (coreOf cid)).mem ∧ (t.core (coreOf cid)).fe = (s.core (coreOf cid)).fe ∧
          SameRegs c (t.ctx cid) ∧ (t.ctx cid).pc = c.pc + 8 ∧ (t.ctx cid).park = c.park) ∧
      ((rel = true → ∀ q ∈ (s.core (coreOf cid)).wq, q.cid = cid → q.kind.isWrite = false) →
      ∃ t, exec i s = .next t ∧
        (let old := s.core (coreOf cid)
         let new := t.core (coreOf cid)
         (∀ x, (∀ e ∈ es, x < e.ea ∨ e.ea + e.len ≤ x) → mget new.mem x = mget old.mem x) ∧
         (∀ b, data = some b → ∀ pre e post, es = pre ++ e :: post → ∀ k, k < e.len →
           (∀ e' ∈ post, e.ea + k < e'.ea ∨ e'.ea + e'.len ≤ e.ea + k) → mget new.mem (e.ea + k) = b (e.off + k)) ∧
         (data = none → new.mem = old.mem) ∧
         (∀ n, tget false new.fe n = match fe with
           | none => tget false old.fe n
           | some b => if ∃ e ∈ es, e.ea ≤ 4 * n ∧ 4 * n < e.ea + e.len then b else tget false old.fe n) ∧
         new.accs = old.accs ∧ new.tiles = old.tiles) ∧
        SameRegs c (t.ctx cid) ∧ (t.ctx cid).pc = c.pc + 8 ∧ (∀ k, k ≠ cid → t.ctx k = s.ctx k) ∧ (∀ k, k ≠ coreOf cid → t.core k = s.core k) ∧ t.dram = s.dram)
    let device (i : Instr) (es : List AElt) (kind : ReqKind) (data : Nat) (rel : Bool) : Prop := ∀ p, DevOpen s cid r .write es p → (kind ≠ .store → p.sync = true) →
      ∃ t q, exec i s = .next t ∧ Queues s t cid h es p q ∧ q.kind = kind ∧ q.data = data ∧ q.rel = rel ∧ q.dst = none
    let sp := { m with sp := true }
    let cm := { m with sp := false }
    let rel := m.ord == 2
    m.sz.toNat ≤ 4 → (m.ord = 0 ∨ m.ord = 2) →
    (Issues s cid h (memFeats false m.scope []) 0 →
      core (.st h cm) (memOne cm c w) (some (xb (c.xr m.d))) none rel ∧ core (.stv h cm) (memOne cm c 256) (some (vb (c.vr m.d))) none rel ∧
      (m.sz.toNat ≤ 3 → core (.vsts h cm) (memStrided cm c) (some (vb (c.vr m.d))) none rel) ∧
      (m.sz = 2 ∨ m.sz = 3 → core (.vscat h cm) (memIndexed cm c) (some (vb (c.vr m.d))) none rel ∧
        core (.stf h cm) (memOne cm c w) (some (xb (c.xr m.d))) (some true) rel ∧
        core (.feset h cm) (memOne cm c w) none (some true) rel ∧ core (.feclr h cm) (memOne cm c w) none (some false) rel)) ∧
    (Issues s cid h (memFeats true m.scope []) 0 →
      device (.st h sp) (memOne sp c w) .store (c.xr m.d).toNat rel ∧ device (.stv h sp) (memOne sp c 256) .store (c.vr m.d).toNat rel ∧
      (m.sz.toNat ≤ 3 → device (.vsts h sp) (memStrided sp c) .store (c.vr m.d).toNat rel) ∧
      (m.sz = 2 ∨ m.sz = 3 → device (.vscat h sp) (memIndexed sp c) .store (c.vr m.d).toNat rel) ∧
      (m.sz = 3 → device (.stf h sp) (memOne sp c 8) .stf (c.xr m.d).toNat rel ∧ device (.feset h sp) (memOne sp c 8) .feset 0 rel ∧
        device (.feclr h sp) (memOne sp c 8) .feclr 0 rel)) ∧
    (Issues s cid h [] 0 →
      let es : List AElt := [{ ea := (c.xr a).toNat, len := 64, off := 0 }]
      core (.shst h d a false) es (some fun k => if k < 64 then (c.sr d.toNat).extractLsb' (8 * k) 8 else 0) none false ∧
      device (.shst h d a true) es .store (c.sr d.toNat).toNat false)

/-- The tests of an access to core memory in order: beyond the 512 KiB PROT, misaligned ALIGN, a full-empty access of another size than
4 or 8 ALIGN, whose word decodes (assumption 12), a live ring RING; each with the address, and with no effect (R285, R424). LDS of a FULL word takes its value, and clears its bits with CLR, and it parks at its word while they are
EMPTY (R429, R430). -/
def Obligations.CoreAccessTestsAndFullEmptyLoads : Prop :=
  ∀ (s : State) (cid : Nat) (h : Hdr) (m : MemF) (r : Run), (s.ctx cid).role.isOp = true → s.ctxRun cid = some r → m.sp = false → m.sz.toNat ≤ 3 → m.scope = 0 →
    s.ownEntries cid = [] → (∀ q ∈ (s.core (coreOf cid)).wq, q.cid = cid → q.acq = false) →
    let c := s.ctx cid
    let w := 2 ^ m.sz.toNat
    let ea := (c.xr m.a + (c.xr m.b <<< m.sc.toNat) + m.disp.signExtend 64).toNat
    let fea := (c.xr m.a + (c.xr m.b <<< m.sz.toNat) + m.disp.signExtend 64).toNat
    let k := s.core (coreOf cid)
    let both (a code info : Nat) (f : Prop) : Prop := f → (Issues s cid h [] 1 → Traps (.ld h m) s cid h code info a) ∧ (Issues s cid h [] 0 → Traps (.st h m) s cid h code info a)
    both ea 0x06 0 (0x80000 ≤ ea) ∧
    both ea 0x04 0 (ea < 0x80000 ∧ ea % w ≠ 0) ∧
    (∀ g ∈ r.rings, ea < 0x80000 → ea % w = 0 → (∀ g' ∈ r.rings, g' = g) → r.graph.hands = [] → g.core = coreOf cid → g.base < ea + w → ea < g.base + g.bytes →
      both ea 0x0D g.id True) ∧
    (Issues s cid h [] 1 → fea < 0x80000 → fea % w = 0 → m.sz.toNat < 2 → Traps (.lds h m) s cid h 0x04 0 fea) ∧
    (Issues s cid h [] 1 → 2 ≤ m.sz.toNat → CoreOpen s cid r [{ ea := fea, len := w, off := 0 }] →
      let full := ∀ n, fea ≤ 4 * n → 4 * n < fea + w → tget false k.fe n = true
      (full → (∀ o, o < 8 → (s.ctx (coreOf cid * 8 + o)).park = none) →
        ∃ t v, exec (.lds h m) s = .next t ∧ (t.ctx cid).land = some { writes := [{ file := .x, reg := m.d.toNat, val := v }], left := 0, load := none } ∧
          v.toNat = mload k.mem fea w ∧ (t.ctx cid).park.map (·.kind) = some .landing ∧ SameRegs c (t.ctx cid) ∧
          (t.core (coreOf cid)).mem = k.mem ∧
          (∀ n, tget false (t.core (coreOf cid)).fe n = if m.sc.getLsbD 0 = true ∧ fea ≤ 4 * n ∧ 4 * n < fea + w then false else tget false k.fe n)) ∧
      (¬full → Takes (.lds h m) s cid h (.park s { kind := .lds, a := fea, b := w, l := [], order := 0, since := 0 })))

/-- The atomics join their core's path with their function, their operands and their destination, none where D is 0, and change no byte yet; FENCE and DRAIN
complete when what they wait for has been performed: FENCE's release half every write of its context, its acquire half the atomics, and it drops the L1
(R308, R431-R434). -/
def Obligations.AtomicsAndFencesComplete : Prop :=
  ∀ (s : State) (cid : Nat) (h : Hdr) (m : AtomF) (r : Run) (p : Page) (ord : BitVec 2) (scope : BitVec 3) (path : Reg), (s.ctx cid).role.isOp = true →
    s.ownEntries cid = [] →
    let c := s.ctx cid
    let w := 2 ^ m.sz.toNat
    let ea := (c.xr m.a + (c.xr m.b <<< m.sc.toNat) + m.disp.signExtend 64).toNat
    let ea0 := (c.xr m.a + m.disp.signExtend 64).toNat
    let joins (i : Instr) (fn a : Nat) : Prop := DevOpen s cid r (.rmw fn) [{ ea := a, len := w, off := 0 }] p →
      ∃ t q, exec i s = .next t ∧ Queues s t cid h [{ ea := a, len := w, off := 0 }] p q ∧ q.kind = .atomic fn ∧ q.data = (c.xr m.c).toNat ∧ q.cmpv = (c.xr m.b).toNat ∧
        q.dst = (if m.d = 0 then none else some (.x, m.d.toNat)) ∧ (m.d = 0 → (t.ctx cid).park = c.park) ∧
        (m.d ≠ 0 → (t.ctx cid).park.map (·.kind) = some .landing)
    (Issues s cid h (memFeats true m.scope []) 1 → (m.sz = 2 ∨ m.sz = 3) →
      joins (.aadd h m) 0 ea ∧ joins (.aand h m) 1 ea ∧ joins (.aor h m) 2 ea ∧ joins (.axor h m) 3 ea ∧ joins (.amin h m) 4 ea ∧ joins (.amax h m) 5 ea ∧
      joins (.aminu h m) 6 ea ∧ joins (.amaxu h m) 7 ea ∧ joins (.axchg h m) 8 ea ∧ joins (.acas h m) 9 ea0 ∧ joins (.atas h m) 10 ea0) ∧
    (Issues s cid h (memFeats false scope []) 0 →
      let pending := ∃ q ∈ (s.core (coreOf cid)).wq, q.cid = cid ∧ q.kind.isWrite = true
      let atomics := ∃ q ∈ (s.core (coreOf cid)).wq, q.cid = cid ∧ ∃ fn, q.kind = .atomic fn
      (ord.getLsbD 1 = true → pending → Takes (.fence h ord scope) s cid h (.park s { kind := .fence, a := 0, b := 0, l := [], order := 0, since := 0 })) ∧
      (ord.getLsbD 1 = false → atomics → Takes (.fence h ord scope) s cid h (.park s { kind := .fence, a := 2, b := 0, l := [], order := 0, since := 0 })) ∧
      ((ord.getLsbD 1 = false ∧ ¬atomics ∨ ¬pending) → ∃ t, exec (.fence h ord scope) s = .next t ∧ SameRegs c (t.ctx cid) ∧ (t.ctx cid).pc = c.pc + 8 ∧ SameMemories s t cid ∧
        (ord.getLsbD 0 = true → 3 ≤ scope.toNat → (t.core (coreOf cid)).l1 = []))) ∧
    (Issues s cid h [] 0 →
      let space := if path = 0 then 1 else if path = 1 then 2 else if path = 2 then 3 else 0
      let into := (s.core (coreOf cid)).copies.filter fun k => k.dsp == space
      path.toNat < 4 → (into = [] → Takes (.drain h path) s cid h (.next s)) ∧
        (into ≠ [] → Takes (.drain h path) s cid h (.wait s { kind := .drain, a := 0, b := 0, l := into.map (·.tag), order := 0, since := 0 })))

/-- HOME_SLICE_ACCESS performs the next unit of an access that every Damper of its path has granted and that no write of a higher key outranks in the cycle,
indivisibly: a load takes its bytes, a store writes them, an atomic gives the old value and writes the new one, and no other byte of device memory changes; the
access leaves the path with its last unit (R292, R295, R296, R305, R325, R433). One that a Damper has still to grant waits. -/
def HomeSlicesPerformAccesses : Prop :=
  ∀ (s : State) (q : Req) (e : Elt) (line : Option L2Line),
    let k := s.ev.unit
    let die := e.pa / 2 ^ 36 % 4
    let set := tget [] (s.die die).l2 (l2Key e.pa)
    let bytes (t : State) (n : Nat) : Nat := t.devLoad e.pa n
    s.canPerform k s.ev.idx = true → (s.core k).wq[s.ev.idx]? = some q → q.todo = [e] → s.poisoned e.pa = false → q.inval = false →
    (∀ q' ∈ (s.core k).wq, q'.id = q.id → q' = q) → e.len ∈ [1, 2, 4, 8] → e.pa % e.len = 0 →
    (set = [] ∨ (set.find? (fun l => l.line == e.pa / 512) = line ∧ ∃ l, line = some l ∧ l.vd = q.vd)) →
    let val := q.data / 2 ^ (8 * e.off) % 2 ^ (8 * e.len)
    let old := bytes s e.len
    let writes (v : Nat) (t : State) : Prop := (∀ a, a < e.pa ∨ e.pa + e.len ≤ a → t.devByte a = s.devByte a) ∧ bytes t e.len = v
    let sgn (x : Nat) : Int := if 2 ^ (8 * e.len - 1) ≤ x then (x : Int) - 2 ^ (8 * e.len) else x
    ((s.toll k q).isSome = true → exec .homeSliceAccess s = .next s) ∧ (s.toll k q = none →
    (∀ a ∈ s.arrivals, a.2.2 ≤ writerKey (coreOf q.cid) 0 (ctxOf q.cid) ∨ a.1 + a.2.1 ≤ e.pa ∨ e.pa + e.len ≤ a.1) →
    ∃ t, exec .homeSliceAccess s = .next t ∧ (t.core k).wq = (s.core k).wq.filter (fun q' => q'.id != q.id) ∧
      (∀ j, j ≠ q.cid → t.ctx j = s.ctx j) ∧ SameRegs (s.ctx q.cid) (t.ctx q.cid) ∧
      (q.kind = .load → writes old t) ∧ (q.kind = .store → writes val t) ∧
      (q.kind = .atomic 0 → writes ((old + val) % 2 ^ (8 * e.len)) t) ∧ (q.kind = .atomic 1 → writes (old &&& val) t) ∧
      (q.kind = .atomic 2 → writes (old ||| val) t) ∧ (q.kind = .atomic 3 → writes (old ^^^ val) t) ∧
      (q.kind = .atomic 4 → writes (if sgn old < sgn val then old else val) t) ∧ (q.kind = .atomic 5 → writes (if sgn old < sgn val then val else old) t) ∧
      (q.kind = .atomic 6 → writes (min old val) t) ∧ (q.kind = .atomic 7 → writes (max old val) t) ∧ (q.kind = .atomic 8 → writes val t) ∧
      (q.kind = .atomic 9 → writes (if old = q.cmpv % 2 ^ (8 * e.len) then val else old) t) ∧
      (q.kind = .atomic 10 → writes (old ||| 2 ^ (q.cmpv % (8 * e.len))) t) ∧
      (∀ f n, q.dst = some (f, n) → q.kind ∈ [.load, .atomic 0, .atomic 8, .atomic 9] → e.off = 0 → q.acc = 0 → q.ovMask = 0 → q.ovData = 0 → q.shared = false →
        (t.ctx q.cid).land = some { writes := [{ file := f, reg := n, val := BitVec.ofNat 2048 old }], left := 0, load := if q.kind = .load then some q.since else none }))

/-- PAGE_WALK ends a walk: the die's TLB takes the page of its address first, unless translations have been dropped since it began, and nothing else
changes (R297, R298). -/
def PageWalksFillTheDieTlb : Prop :=
  ∀ (s : State) (vd va gen : Nat) (p : Page),
    let d := s.ev.unit
    (s.die d).walks[s.ev.idx]? = some (vd, va, gen) → s.pageOf vd va = some p →
    ∃ t, exec .pageWalk s = .next t ∧ (∀ k, k ≠ d → t.die k = s.die k) ∧ t = { s with dies := t.dies } ∧
      (t.die d).walks.length + 1 = (s.die d).walks.length ∧
      (gen = (s.die d).tgen → (t.die d).tlb.head? = some p ∧ ∀ q ∈ (t.die d).tlb, q = p ∨ q ∈ (s.die d).tlb) ∧
      (gen ≠ (s.die d).tgen → (t.die d).tlb = (s.die d).tlb)

/-- A home slice performs the accesses it has granted, and a page walk fills the TLB of its die. -/
def Obligations.HomeSlicesAndWalksPerform : Prop := HomeSlicesPerformAccesses ∧ PageWalksFillTheDieTlb
/-! ## Barriers, rings and segments -/

/-- The episodes in progress that a barrier of a scope belongs to: the instance's up to the die, the virtual device's beyond (R436). -/
def episodesOf (s : State) (r : Run) (scope : Nat) : List Episode :=
  if scope ≤ 3 then ((s.run r.id).map (·.bars)).getD [] else (s.vd r.vd).bars

/-- BAR and BARA count one arrival; the last of an episode completes it, unparks the contexts that wait in it and lets BAR go on, and an earlier BAR
parks. BARW departs from a completed episode, parks for one in progress, and without an arrival completes at once. A count above the scope's limit, or
another count than the episode's, raises ILLEGAL (R435-R437). -/
def Obligations.BarriersCountTheirArrivals : Prop :=
  ∀ (s : State) (cid : Nat) (h : Hdr) (scope : BitVec 3) (id : BitVec 4) (count : BitVec 16) (r : Run), Issues s cid h (memFeats false scope []) 0 →
    s.ctxRun cid = some r → (s.ctx cid).role.isOp = true → s.ownEntries cid = [] → 1 ≤ scope.toNat → scope.toNat ≤ 5 →
    let c := s.ctx cid
    let sc := scope.toNat
    let domain := if sc = 1 then cid / 8 else if sc = 2 then quadOf (cid / 8) else 0
    let k : BarKey := { scope := sc, id := id.toNat, domain := domain }
    let limit := if sc = 1 then 8 else if sc = 2 then 32 else if sc = 3 then 4096 else if sc = 4 then 16384 else 65535
    let eps := episodesOf s r sc
    let mine := c.bars.filter fun a => a.key == k
    let rest := eps.filter fun e => e.key != k
    let parked : Park := { kind := .bar, a := sc, b := id.toNat, l := [domain], order := 0, since := 0 }
    (0 < count.toNat → count.toNat ≤ limit → mine = [] → (∀ q ∈ (s.core (coreOf cid)).wq, q.cid = cid → q.kind.isWrite = false) →
      ∀ e, (eps.find? fun e => e.key == k) = e → (∀ x, e = some x → x.count = count.toNat) →
      let arrived := (e.map (·.arrived)).getD 0
      let who := (e.map (·.who)).getD []
      (arrived + 1 ≠ count.toNat →
        (∃ t, exec (.bar h scope id count) s = .next t ∧ episodesOf t r sc = rest ++ [{ key := k, count := count.toNat, arrived := arrived + 1, who := who ++ [cid] }] ∧
          (∃ o, (t.ctx cid).park = some { parked with order := o, since := s.cycle (coreOf cid) }) ∧ (t.ctx cid).pc = c.pc + 8 ∧ ∀ j, j ≠ cid → t.ctx j = s.ctx j) ∧
        (∃ t, exec (.bara h scope id count) s = .next t ∧ episodesOf t r sc = rest ++ [{ key := k, count := count.toNat, arrived := arrived + 1, who := who ++ [cid] }] ∧
          (t.ctx cid).bars = c.bars ++ [{ key := k, done := false }] ∧ (t.ctx cid).park = c.park ∧ (t.ctx cid).pc = c.pc + 8 ∧
          ∀ j, j ≠ cid → t.ctx j = s.ctx j)) ∧
      (arrived + 1 = count.toNat → cid ∉ who →
        (∃ t, exec (.bar h scope id count) s = .next t ∧ episodesOf t r sc = rest ∧ (t.ctx cid).park = c.park ∧ (t.ctx cid).bars = c.bars ∧ (t.ctx cid).pc = c.pc + 8 ∧
          (∀ j ∈ who, j < 2 ^ 64 → (∃ o n, (s.ctx j).park = some { parked with order := o, since := n }) → (t.ctx j).park = none) ∧ ∀ j, j ≠ cid → j ∉ who → t.ctx j = s.ctx j) ∧
        (∃ t, exec (.bara h scope id count) s = .next t ∧ episodesOf t r sc = rest ∧ (t.ctx cid).bars = c.bars ++ [{ key := k, done := true }] ∧ (t.ctx cid).park = c.park ∧
          ∀ j, j ≠ cid → j ∉ who → t.ctx j = s.ctx j))) ∧
    (limit < count.toNat → Traps (.bar h scope id count) s cid h 0x01 0 0 ∧ Traps (.bara h scope id count) s cid h 0x01 0 0) ∧
    (∀ e, (eps.find? fun e => e.key == k) = some e → e.count ≠ count.toNat → mine = [] →
      Traps (.bar h scope id count) s cid h 0x01 0 0 ∧ Traps (.bara h scope id count) s cid h 0x01 0 0) ∧
    (count.toNat ≤ limit → mine = [{ key := k, done := false }] →
      Takes (.bar h scope id count) s cid h (.park s { parked with kind := .barEarlier }) ∧ Takes (.bara h scope id count) s cid h (.park s { parked with kind := .barEarlier })) ∧
    (mine = [] → Takes (.barw h scope id) s cid h (.next s)) ∧
    (mine = [{ key := k, done := false }] → Takes (.barw h scope id) s cid h (.wait s parked)) ∧
    (mine = [{ key := k, done := true }] → ∃ t, exec (.barw h scope id) s = .next t ∧ (t.ctx cid).bars = c.bars.filter (fun a => a.key != k) ∧
      (t.ctx cid).park = c.park ∧ SameRegs c (t.ctx cid) ∧ (t.ctx cid).pc = c.pc + 8 ∧ SameMemories s t cid)

/-- RINIT sets a ring up from its descriptor; RPUSH writes its item to the slot after the newest, at once on the ring's own core, travelling there from
another, and parks on a full ring, no acquire of its context being under way and no bank taken in the cycle; RPOP and RPEEK take the item at their cursor, which RPOP alone moves, no other context waiting there, and park on an empty
ring; RCUR reads the cursor. A number that names no ring raises RING (R217-R219, R438). -/
def RingsAreQueuesInCoreMemory : Prop :=
  ∀ (s : State) (cid : Nat) (h : Hdr) (a d : Reg) (v : Bool) (ring : BitVec 4) (cons : BitVec 3) (r : Run), Issues s cid h [(0, 9)] 1 → s.ctxRun cid = some r →
    (s.ctx cid).role.isOp = true → s.ownEntries cid = [] → (∀ q ∈ (s.core (coreOf cid)).wq, q.cid = cid → q.acq = false) →
    (s.core (coreOf cid)).banksBusy = [] →
    let c := s.ctx cid
    let n := ring.toNat
    let here := coreOf cid
    let k := cons.toNat
    (r.rings.find? (fun g => g.id == n) = none →
      Traps (.rpush h a v ring) s cid h 0x0D n 0 ∧ Traps (.rpop h d v ring cons) s cid h 0x0D n 0 ∧ Traps (.rpeek h d v ring cons) s cid h 0x0D n 0 ∧
      Traps (.rcur h d ring cons) s cid h 0x0D n 0 ∧
      (∀ (base : Nat) (logn : Nat) (lwm : Nat), 1 ≤ logn → logn ≤ 8 → lwm < 2 ^ logn → base % (if v then 256 else 8) = 0 →
        base + (if v then 256 else 8) * 2 ^ logn ≤ 0x80000 → base < 0x80000 →
        (c.xr a).toNat = base + (if v then 2 ^ 19 else 0) + logn * 2 ^ 20 + k * 2 ^ 24 + lwm * 2 ^ 27 →
        ∃ t r' g, exec (.rinit h a ring) s = .next t ∧ t.run r.id = some r' ∧ r'.rings = r.rings ++ [g] ∧ g.id = n ∧ g.core = here ∧ g.vec = v ∧ g.logn = logn ∧
          g.ncons = k + 1 ∧ g.lwm = (if lwm = 0 then 2 ^ logn / 2 else lwm) ∧ g.base = base ∧ g.pushed = 0 ∧ g.cur = [] ∧ g.full = false)) ∧
    (∀ g, r.rings.find? (fun g => g.id == n) = some g → g.vec = v → g.ncons ≠ 0 →
      let width := if v then 256 else 8
      let size := 2 ^ g.logn
      let slot (i : BitVec 32) : Nat := g.base + width * (i.toNat % size)
      let held := (List.range g.ncons).map fun j => (g.pushed - tget 0 g.cur j).toNat
      let item : Nat := if v then (c.vr a).toNat else (c.xr a).toNat
      let at' (t : State) : Option Ring := (t.run r.id).bind fun r' => r'.rings.find? fun g => g.id == n
      let stores (t : State) : Prop := (∀ i, i < width → mget (t.core g.core).mem (slot g.pushed + i) = BitVec.ofNat 8 (item / 2 ^ (8 * i))) ∧
        (∀ x, x < slot g.pushed ∨ slot g.pushed + width ≤ x → mget (t.core g.core).mem x = mget (s.core g.core).mem x)
      (Traps (.rinit h a ring) s cid h 0x0D n 0) ∧
      ((∀ x ∈ held, x < size) → g.core = here → ∃ t g', exec (.rpush h a v ring) s = .next t ∧ stores t ∧ at' t = some g' ∧ g'.pushed = g.pushed + 1 ∧ g'.cur = g.cur ∧
        SameRegs c (t.ctx cid) ∧ (t.ctx cid).pc = c.pc + 8 ∧ (∀ j, j ≠ cid → t.ctx j = s.ctx j) ∧ t.dram = s.dram) ∧
      ((∀ x ∈ held, x < size) → g.core ≠ here → ∃ t g', exec (.rpush h a v ring) s = .next t ∧ at' t = some g' ∧
        g'.arriving = g.arriving ++ [(cid, if v then .vec (c.vr a) else .scalar (c.xr a))] ∧ g'.pushed = g.pushed ∧ (t.ctx cid).park.map (·.kind) = some .ringRemote ∧
        SameMemories s t cid) ∧
      ((∃ x ∈ held, size ≤ x) → ∃ t g', exec (.rpush h a v ring) s = .next t ∧ at' t = some g' ∧ g'.full = true ∧ g'.pushed = g.pushed ∧
        (t.ctx cid).park.map (·.kind) = some .ringFull ∧ (t.ctx cid).pc = c.pc ∧ SameMemories s t cid) ∧
      (g.core = here → k < g.ncons →
        (∃ t, exec (.rcur h d ring cons) s = .next t ∧ (t.ctx cid).pend = (c.pendX d ((tget 0 g.cur k).setWidth 64) 2).pend ∧ SameMemories s t cid) ∧
        (tget 0 g.cur k = g.pushed → ∃ t, exec (.rpop h d v ring cons) s = .next t ∧ (t.ctx cid).park.map (·.kind) = some .ringEmpty ∧ (t.ctx cid).pc = c.pc ∧ SameMemories s t cid) ∧
        (tget 0 g.cur k ≠ g.pushed → (∀ o, o < 8 → here * 8 + o ≠ cid → (s.ctx (here * 8 + o)).park.map (·.kind) ≠ some .ringEmpty) →
          let takes (i : Instr) (pop : Bool) : Prop := ∃ t g', exec i s = .next t ∧ at' t = some g' ∧
            tget 0 g'.cur k = (if pop then tget 0 g.cur k + 1 else tget 0 g.cur k) ∧ (∀ j, j ≠ k → tget 0 g'.cur j = tget 0 g.cur j) ∧ g'.pushed = g.pushed ∧
            (t.ctx cid).land = some { writes := [{ file := if v then .v else .x, reg := d.toNat, val := BitVec.ofNat 2048 (mload (s.core here).mem (slot (tget 0 g.cur k)) width) }], left := 0, load := none } ∧ SameRegs c (t.ctx cid) ∧ SameMemories s t cid
          takes (.rpop h d v ring cons) true ∧ takes (.rpeek h d v ring cons) false)))

/-- RING_ACCEPT writes an item that has travelled to its ring into the slot after the newest, where the ring has room and its bank is free, and unparks the context that sent
it; OVERFLOW_RELEASE lets the context that has waited longest for the ring issue again (R218, R219). -/
def RingsAcceptWhatTravelled : Prop :=
  ∀ (s : State) (r : Run) (g : Ring), s.run s.ev.unit = some r → r.rings.find? (fun g => g.id == s.ev.sub) = some g → g.ncons ≠ 0 → s.ev.sub < 16 →
    let width := if g.vec then 256 else 8
    let size := 2 ^ g.logn
    let slot := g.base + width * (g.pushed.toNat % size)
    let held := (List.range g.ncons).map fun j => (g.pushed - tget 0 g.cur j).toNat
    (∀ k t, g.arriving[s.ev.idx]? = some (k, t) → (∀ x ∈ g.arriving.take s.ev.idx, x.1 ≠ k) → (∀ x ∈ held, x < size) → (k ∈ g.late → g.full = false ∧ g.late.head? = some k) → slot / 0x8000 ∉ (s.core g.core).banksBusy → (s.ctx k).park.map (·.kind) = some .ringRemote →
      (∀ p, (s.ctx k).park = some p → p.a = s.ev.sub) →
      ∃ u r' g', exec .ringAccept s = .next u ∧ u.run s.ev.unit = some r' ∧ r'.rings.find? (fun g => g.id == s.ev.sub) = some g' ∧ g'.pushed = g.pushed + 1 ∧
        g'.arriving = g.arriving.take s.ev.idx ++ g.arriving.drop (s.ev.idx + 1) ∧ (u.ctx k).park = none ∧
        (∀ i, i < width → mget (u.core g.core).mem (slot + i) = BitVec.ofNat 8 ((tokVal t).toNat / 2 ^ (8 * i))) ∧
        ∀ x, x < slot ∨ slot + width ≤ x → mget (u.core g.core).mem x = mget (s.core g.core).mem x) ∧
    (∀ k rest p, g.parked = k :: rest → g.full = false → (∀ x ∈ held, x < size) → (s.ctx k).park = some p → p.kind = .ringFull → p.b = 0 →
      ∃ u, exec .overflowRelease s = .next u ∧ (u.ctx k).park = none ∧ SameRegs (s.ctx k) (u.ctx k) ∧ (u.ctx k).pc = (s.ctx k).pc ∧
        (∀ j, j ≠ k → u.ctx j = s.ctx j) ∧ SameElsewhere s u)

/-- The words of segments in an operator (R198, R202-R210, R440): SPAWN and SPAWNC put a segment into the pool with its arguments, certain or under a side of an open
entry; COND opens the lowest free slot of the condition table with its site's likelihood and gives its handle; RESOLVE closes an entry, drops the segments under the side that lost
and makes those under the other certain, whose likelihood follows in the next cycle (R209); LKRD reads both likelihoods and counts. A kind or a handle that names nothing raises COND. -/
def SegmentWordsComplete : Prop :=
  ∀ (s : State) (cid : Nat) (h : Hdr) (a b d : Reg) (kind : BitVec 16) (site : BitVec 6) (taken : Bool) (side : BitVec 2) (k : BitVec 32) (r : Run),
    s.ctxRun cid = some r → (s.ctx cid).role.isOp = true → s.ownEntries cid = [] → (s.ctx cid).ccond = 0 → r.poolParked = [] →
    let c := s.ctx cid
    let after (t : State) : Run := (t.run r.id).getD r
    let argument (args i : Nat) : Byte := if i < args then BitVec.ofNat 8 ((c.xr (a + BitVec.ofNat 5 (i / 8))).toNat / 2 ^ (8 * (i % 8))) else 0
    let spawns (i : Instr) (args : Nat) (cc : BitVec 18) : Prop := ∃ t g, exec i s = .next t ∧ (after t).segs = r.segs ++ [g] ∧ (after t).nextSeg = r.nextSeg + 1 ∧
      g.id = r.nextSeg ∧ g.kind = kind.toNat ∧ g.ccond = cc ∧ g.cid = none ∧ g.phase = r.phase ∧ g.args.length = 64 ∧ (∀ i, i < 64 → g.args.getD i 0 = argument args i) ∧
      (∀ x ∈ r.segs, x.slot ≠ g.slot) ∧ SameRegs c (t.ctx cid) ∧ (t.ctx cid).pc = c.pc + 8 ∧ ∀ j, j ≠ cid → t.ctx j = s.ctx j
    (Issues s cid h [(0, 9)] 0 →
      (∀ nd, r.node kind.toNat = some nd → nd.kind = 4 → nd.args ≤ 64 → nd.args % 8 = 0 → a.toNat + nd.args / 8 ≤ 32 → r.segs.length < 1024 →
        spawns (.spawn h a kind) nd.args 0) ∧
      ((∀ nd, r.node kind.toNat = some nd → nd.kind ≠ 4) → Traps (.spawn h a kind) s cid h 0x0E 0 0)) ∧
    (Issues s cid h [(0, 10)] 1 →
      (∀ sd n, (r.graph.sites.find? fun x => x.id == site.toNat) = some sd → n < 256 → (tget CondSlot.init r.conds n).ent = none →
        (∀ j, j < n → (tget CondSlot.init r.conds j).ent ≠ none) →
        let g := (tget CondSlot.init r.conds n).gen
        let gen := if g = 255 then 1 else g + 1
        let p := tget sd.p r.est site.toNat
        ∃ t, exec (.cond h d site) s = .next t ∧
          tget CondSlot.init (after t).conds n = { gen := gen, pruned := false, ent := some { site := site.toNat, parent := 0, depth := 1, ft := p, fn := 65536 - p, phase := r.phase, stale := 0, oldT := 0, oldN := 0 } } ∧
          (∀ j, j ≠ n → tget CondSlot.init (after t).conds j = tget CondSlot.init r.conds j) ∧
          (t.ctx cid).pend = (c.pendX d (BitVec.ofNat 64 (gen * 256 + n)) 2).pend ∧ (t.ctx cid).pc = c.pc + 8) ∧
      (∀ n e, (c.xr d).toNat < 2 ^ 16 → n = (c.xr d).toNat % 256 → (tget CondSlot.init r.conds n).gen = (c.xr d).toNat / 256 →
        (tget CondSlot.init r.conds n).ent = some e → e.parent = 0 → e.depth ≤ 8 →
        ∀ nd, r.node kind.toNat = some nd → nd.kind = 4 → nd.args ≤ 64 → nd.args % 8 = 0 → a.toNat + nd.args / 8 ≤ 32 → r.segs.length < 1024 →
          spawns (.spawnc h d a taken kind) nd.args (BitVec.ofNat 18 ((c.xr d).toNat + (if taken then 2 ^ 16 else 0) + 2 ^ 17))) ∧
      (∀ n e, (c.xr a).toNat < 2 ^ 16 → n = (c.xr a).toNat % 256 → (tget CondSlot.init r.conds n).gen = (c.xr a).toNat / 256 →
        (tget CondSlot.init r.conds n).ent = some e → e.parent = 0 → (∀ j, j ≠ n → (tget CondSlot.init r.conds j).ent = none) → (∀ g ∈ r.segs, g.cid = none) →
        let o := (c.xr b).getLsbD 0
        let won := BitVec.ofNat 18 ((c.xr a).toNat + (if o then 2 ^ 16 else 0) + 2 ^ 17)
        let lost := BitVec.ofNat 18 ((c.xr a).toNat + (if o then 0 else 2 ^ 16) + 2 ^ 17)
        (∀ g ∈ r.segs, g.ccond = 0 ∨ g.ccond = won ∨ g.ccond = lost) →
          ∃ t, exec (.resolve h a b) s = .next t ∧ (tget CondSlot.init (after t).conds n).ent = none ∧ (tget CondSlot.init (after t).conds n).pruned = false ∧
            (after t).segs = (r.segs.filter fun g => g.ccond != lost).map (fun g => if g.ccond = won then { g with ccond := 0, stale := 1, old := r.segLk g } else g) ∧
            (t.ctx cid).pc = c.pc + 8 ∧ SameRegs c (t.ctx cid) ∧ ∀ j, j ≠ cid → t.ctx j = s.ctx j) ∧
      ((c.xr a).toNat ≥ 2 ^ 16 → Traps (.resolve h a b) s cid h 0x0E (c.xr a).toNat 0 ∧ ResultX (.lkrd h d a 0 0) s cid h d 0 2) ∧
      (∀ n e, (c.xr a).toNat < 2 ^ 16 → n = (c.xr a).toNat % 256 → (tget CondSlot.init r.conds n).gen = (c.xr a).toNat / 256 →
        (tget CondSlot.init r.conds n).ent = some e → e.parent = 0 → e.stale = 0 → e.ft ≤ 65536 → e.fn ≤ 65536 →
          ∃ w, ResultX (.lkrd h d a 0 0) s cid h d w 2 ∧ w.toNat % 2 ^ 17 = e.ft ∧ w.toNat / 2 ^ 17 % 2 ^ 17 = e.fn) ∧
      (∀ sd, 1 ≤ sd → sd ≤ 2 → side.toNat = sd → (c.xr a).toNat ≥ 2 ^ 16 →
        ∃ t, exec (.lkrd h d a side k) s = .next t ∧ (t.ctx cid).land = some { writes := [{ file := .x, reg := d.toNat, val := 0 }], left := 0, load := none } ∧
          (t.ctx cid).park.map (·.kind) = some .landing))

/-- SEGMENT_SELECT starts a waiting certain segment in an idle context of its region, with every register as after reset but ARGBASE and SEGID; and SPEC_DRAIN lets the
oldest buffered store of a context that is certain take effect, one a cycle, no write of its spawner and no item of its own being under way and its banks free
(R194, R199, R213, R284, R309). -/
def SegmentsStartAndDrain : Prop :=
  ∀ (s : State) (r : Run) (g : Seg) (k : Nat),
    (s.run s.ev.unit = some r → r.st = .running → r.rolling = false → r.cut = none → s.occupied r = true → r.confAt < s.cycleOf r → (s.idleSegs r).head? = some k → r.waitSegs = [] → r.segs = [g] →
      g.ccond = 0 → g.stale = 0 → g.cid = none →
      ∃ t r' a, exec .segmentSelect s = .next t ∧ t.run s.ev.unit = some r' ∧ r'.segs = [{ g with cid := some k }] ∧
        t.ctx k = { Ctx.init with role := .seg r.id g.kind, running := true, fstood := s.now, segid := g.id, argbase := a, ccond := 0, stepEn := r.debug, gap := 1, eligAt := s.cycle (coreOf k) } ∧
        (∀ j, j ≠ k → t.ctx j = s.ctx j) ∧ t.dram = s.dram) ∧
    (∀ e ws, (s.ctx s.ev.unit).uncertain = false → (s.ctx s.ev.unit).park = none → s.ownEntries s.ev.unit = [e] → e.eff = .core ws true none false →
      s.ev.unit ∉ (s.core (coreOf s.ev.unit)).drained → s.ringTravels s.ev.unit = false → s.afterOf s.ev.unit = [] →
      (∀ w ∈ ws, w.1 / 0x8000 ∉ (s.core (coreOf s.ev.unit)).banksBusy) →
      ∃ t, exec .specDrain s = .next t ∧ t.ownEntries s.ev.unit = [] ∧
        (t.core (coreOf s.ev.unit)).mem = ws.foldl (fun m w => mstore m w.1 w.2.1 w.2.2) (s.core (coreOf s.ev.unit)).mem ∧
        (∀ j, t.ctx j = s.ctx j) ∧ (∀ j, j ≠ coreOf s.ev.unit → t.core j = s.core j) ∧ SameElsewhere s t)

/-- Rings are queues in core memory, and accept what has travelled. -/
def Obligations.RingsComplete : Prop := RingsAreQueuesInCoreMemory ∧ RingsAcceptWhatTravelled

/-- The segment words complete, and segments start and drain. -/
def Obligations.SegmentsComplete : Prop := SegmentWordsComplete ∧ SegmentsStartAndDrain
/-! ## Shapes, copies and the matrix engine -/

/-- The first bit and the width of each field of a shape register, by its T1 code (R231, R444). -/
def shapeField : List (Nat × Nat) :=
  [(0, 64), (64, 32), (96, 32), (128, 32), (160, 32), (192, 64), (256, 64), (320, 64), (384, 64), (448, 8), (456, 8), (464, 8), (472, 8)]

/-- SHSET writes the low bits of its register to one field of a shape register, with latency 1, and leaves every other bit; SHGET reads one field, zero-extended,
with latency 2; a word of either whose T1 is 13 to 15 is no instruction (R444). -/
def Obligations.ShapeFieldsAreSetAndRead : Prop :=
  (∀ w : Word, (w.extractLsb' 8 8 = 0x55 ∨ w.extractLsb' 8 8 = 0x56) → 13 ≤ (w.extractLsb' 36 4).toNat → ∃ e, decodeWord w = .error e) ∧
  ∀ (s : State) (cid : Nat) (h : Hdr) (d a : Reg) (field : BitVec 4) (lo n : Nat), Issues s cid h [] 1 → shapeField[field.toNat]? = some (lo, n) →
    let c := s.ctx cid
    (∃ v, Results (.shset h d a field) s cid h .s d.toNat v 1 ∧
      ∀ i, i < 512 → v.getLsbD i = if lo ≤ i ∧ i < lo + n then (c.xr a).getLsbD (i - lo) else (c.sr d.toNat).getLsbD i) ∧
    (∃ w, ResultX (.shget h d a field) s cid h d w 2 ∧ ∀ i, i < 64 → w.getLsbD i = (decide (i < n) && (c.sr a.toNat).getLsbD (lo + i)))

/-- COPY, COPYG and COPYS whose tests pass join their core's copies with their shapes and offsets as they are at issue, and have moved nothing yet; a copy that
fails a test raises its fault and joins nothing (R232, R446). The nine tests of R447 and the test of a bank that R126 adds stand as the model's `copyTest`,
whose code and INFO are the fault's. -/
def CopiesAreQueuedAsTheyIssue : Prop :=
  ∀ (s : State) (cid : Nat) (h : Hdr) (f : CopyF) (r : Run), Issues s cid h [] 0 → s.ctxRun cid = some r → (s.ctx cid).role.isOp = true → s.ownEntries cid = [] →
    let c := s.ctx cid
    let k := s.core (coreOf cid)
    let is (mode : Nat) : Copy :=
      { tag := k.copyCount, cid := cid, run := r.id, node := c.role.node, mode := mode, src := c.sr f.a.toNat, dst := c.sr f.d.toNat
        soff := if mode = 0 then (c.xr f.c).toNat else 0, doff := (c.xr f.b).toNat, idx := if mode = 0 then 0 else c.vr f.c
        ssp := f.ssp.toNat, dsp := f.dsp.toNat, sf := f.sf, k := 0, count := shCount (c.sr f.a.toNat), word := s.ir, pc := c.pc, done := false, failed := false, since := s.cycle (coreOf cid)
        role := c.role, fireno := c.workNo, arg := c.argbase, arrived := c.arrivedBars, departed := c.departedBars, paid := 0, stood := s.now, secs := [], lat := [] }
    let queues (i : Instr) (mode : Nat) : Prop :=
      (∀ code info, copyTest r (coreOf cid) c (is mode) = some (code, info) → Traps i s cid h code info 0) ∧
      (copyTest r (coreOf cid) c (is mode) = none → f.ssp.toNat ≤ 1 → f.dsp.toNat ≤ 1 → (∀ k ∈ r.graph.chans, k.barrier = true → k.cnode ≠ c.role.node) → r.graph.hands = [] →
        (k.copies.length < 64 → ∃ t, exec i s = .next t ∧ (t.core (coreOf cid)).copies = k.copies ++ [is mode] ∧ (t.core (coreOf cid)).copyCount = k.copyCount + 1 ∧
          (t.ctx cid).ctag = BitVec.ofNat 16 k.copyCount ∧ SameRegs c (t.ctx cid) ∧ (t.ctx cid).pc = c.pc + 8 ∧ SameMemories s t cid) ∧
        (64 ≤ k.copies.length → ∃ t, exec i s = .next t ∧ (t.ctx cid).park.map (·.kind) = some .copyFull ∧ (t.ctx cid).pc = c.pc ∧ (t.core (coreOf cid)).copies = k.copies))
    queues (.copy h f) 0 ∧ queues (.copyg h f) 1 ∧ queues (.copys h f) 2

/-- COPY_TRANSFER moves the next unit of a copy: of an affine copy within core memory, an element from base + offset + its strides' sum to the same place of the destination's
traversal (R446), with it, where it is narrower than 8 bytes, those that follow it into the same aligned 8 bytes of the destination (R305), of which the last written stands, and it
changes no other byte; an element that went with the one before it moves nothing more. What one step moves is the model's choice, log entry 76. COPY_COMPLETE ends a copy that has
moved every element (R449). -/
def CopiesMoveTheirElements : Prop :=
  ∀ (s : State) (p : Copy) (r : Run),
    let k := s.ev.unit
    let mem := (s.core k).mem
    let e := 2 ^ shElog p.src
    let place (b : ShapeBits) (off n : Nat) : Int :=
      shBase b + off + 2 ^ shElog b * ((n % shExt b 0 : Nat) * shStr b 0 + (n / shExt b 0 % shExt b 1 : Nat) * shStr b 1 +
        (n / (shExt b 0 * shExt b 1) % shExt b 2 : Nat) * shStr b 2 + (n / (shExt b 0 * shExt b 1 * shExt b 2) : Nat) * shStr b 3)
    s.ev.idx = 0 → (s.core k).copies[0]? = some p → coreOf p.cid = k →
    (s.run p.run = some r → r.st = .running → s.ev.val 0 = 0 → p.mode = 0 → p.ssp = 1 → p.dsp = 1 → p.sf = false → p.failed = false → p.k < p.count →
      (∀ l ∈ p.lat, l.2 = mload mem (8 * l.1) 8) → (s.core k).banksBusy = [] →
      ∀ a b : Nat → Nat, (∀ n, n < p.count → place p.src p.soff n = a n ∧ place p.dst p.doff n = b n ∧ a n % e = 0 ∧ b n % e = 0 ∧ a n + e ≤ 0x80000 ∧ b n + e ≤ 0x80000) →
      (∀ m n, m < p.count → n < p.count → a m / 8 ≠ b n / 8) →
      let unit := if e = 8 then [p.k] else if 0 < p.k ∧ b (p.k - 1) / 8 = b p.k / 8 then []
        else ((List.range p.count).drop p.k).takeWhile fun n => b n / 8 == b p.k / 8
      ∃ t p', exec .copyTransfer s = .next t ∧ (t.core k).copies[0]? = some p' ∧ p'.k = p.k + 1 ∧ p' = { p with k := p.k + 1, stood := s.now, paid := 0, lat := p'.lat } ∧
        (∀ x, mget (t.core k).mem x = match (unit.filter fun n => decide (b n ≤ x) && decide (x < b n + e)).getLast? with
          | some n => mget mem (a n + (x - b n))
          | none => mget mem x) ∧
        (∀ j, j ≠ k → t.core j = s.core j) ∧ (∀ j, t.ctx j = s.ctx j) ∧ t.dram = s.dram) ∧
    (p.k = p.count → p.sf = false → ∃ t, exec .copyComplete s = .next t ∧ (t.core k).copies = (s.core k).copies.drop 1 ∧ (t.core k).mem = mem ∧
      (∀ j, SameRegs (s.ctx j) (t.ctx j)) ∧ t.dram = s.dram)

/-- An accumulator, a slot of the core, and whether they may be used by a ninth node (R225, R233-R236). -/
def accOf (s : State) (core a : Nat) : Acc := tget Acc.init (s.core core).accs a
def slotAt (s : State) (core : Nat) (mantel : Bool) (n : Nat) : Slot := tget Slot.init (if mantel then (s.core core).mantel else (s.core core).tiles) n

/-- The words of accumulators: MBIND, MUNBIND, MZERO, MSEAL and MREAD change the one that they name as their rules say and no other, MSTAT reads its state, and MCHK
answers 0 where every row's residue holds; on an accumulator in a state that they do not admit they raise TILE (R236, R237, R240, R241, R450, R453, R454). -/
def Obligations.AccumulatorWordsComplete : Prop :=
  ∀ (s : State) (cid : Nat) (h : Hdr) (f : BindF) (g : MReadF) (d a : Reg), (s.ctx cid).role.isOp = true → (s.ctxRun cid).isSome = true → s.ownEntries cid = [] →
    let c := s.ctx cid
    let k := coreOf cid
    let n := c.role.node
    let mayUse (i : Nat) := (accOf s k i).sharers.contains n = true ∨ (accOf s k i).sharers.length < 8
    let changes (i : Instr) (m : Nat) (x : Acc) : Prop := ∃ t, exec i s = .next t ∧ (∃ l, accOf t k m = { x with sharers := l }) ∧
      (∀ j, j ≠ m → accOf t k j = accOf s k j) ∧ SameRegs c (t.ctx cid) ∧ (t.core k).mem = (s.core k).mem ∧ (t.core k).tiles = (s.core k).tiles ∧
      (∀ j, j ≠ cid → t.ctx j = s.ctx j) ∧ t.dram = s.dram
    (d.toNat < 4 → mayUse d.toNat → Issues s cid h [] 1 →
      let x := accOf s k d.toNat
      let free := (s.core k).firing ≠ some d.toNat
      (x.bind = none → changes (.mzero h d) d.toNat { x with val := [], rho := [], anchor := 0, xw := false, fires := 0, st := .empty, pchunks := 0 }) ∧
      (x.bind.isSome = true → Traps (.mzero h d) s cid h 0x0B 0 0) ∧
      (x.bind.isSome = true → free → x.queue = [] → changes (.munbind h d) d.toNat { x with bind := none }) ∧
      (x.bind = none → Traps (.munbind h d) s cid h 0x0B 0 0) ∧
      (x.st = .accum → free → (∀ i, i < 64 → x.rowOk i = true) → changes (.mseal h d) d.toNat { x with st := .sealed }) ∧
      (x.st = .sealed → changes (.mseal h d) d.toNat x) ∧ (x.st = .empty → Traps (.mseal h d) s cid h 0x0B 0 0)) ∧
    (a.toNat < 4 → mayUse a.toNat → Issues s cid h [] 1 →
      let x := accOf s k a.toNat
      (∃ t w, exec (.mstat h d a) s = .next t ∧ (t.ctx cid).pend = (c.pendX d w 2).pend ∧
        w.toNat % 4 = (match x.st with | .empty => 0 | .accum => 1 | .sealed => 2) ∧ w.getLsbD 2 = x.bind.isSome ∧ w.getLsbD 3 = x.xw ∧
        (x.fires < 2 ^ 16 → x.queue.length < 2 ^ 5 → (∀ b, x.bind = some b → b.ty < 16 ∧ b.k < 2 ^ 16) → w.toNat / 2 ^ 16 % 2 ^ 16 = x.fires ∧
          w.toNat / 2 ^ 48 = (x.bind.map (·.k)).getD 0 ∧ w.toNat / 2 ^ 32 % 2 ^ 16 = if x.st = .empty then 0 else x.anchor.toNat)) ∧
      ((s.core k).firing ≠ some a.toNat → (x.st = .empty ∨ x.xw = true ∨ ∀ i, i < 64 → x.rowOk i = true) →
        ∃ t, exec (.mchk h d a) s = .next t ∧ (t.ctx cid).land = some { writes := [{ file := .x, reg := d.toNat, val := 0 }], left := 0, load := none } ∧
          (t.ctx cid).park.map (·.kind) = some .landing)) ∧
    (Issues s cid h [(0, if f.ty.toNat ≤ 1 then 5 else if f.ty.toNat ≤ 9 then 6 else 7)] 0 → mayUse f.acc.toNat →
      let x := accOf s k f.acc.toNat
      (x.bind = none → (tyBytes f.ty = 2 → f.base.toNat % 2 = 0 ∧ f.stride.toNat % 2 = 0) →
        (∀ j b, j < 4 → (accOf s k j).bind = some b → b.amask &&& f.amask.toNat = 0) →
        changes (.mbind h f) f.acc.toNat { x with
          bind := some { k := f.k.toNat, stride := f.stride.toNat, base := f.base.toNat, amask := f.amask.toNat, ty := f.ty.toNat, ca := f.ca, cb := f.cb }
          fires := 0, st := if x.st = .sealed then .accum else x.st, pchunks := if x.st = .sealed then 0 else x.pchunks }) ∧
      (x.bind.isSome = true → Traps (.mbind h f) s cid h 0x0B 0 0)) ∧
    (Issues s cid h [] 1 → g.a.toNat < 4 → mayUse g.a.toNat →
      let x := accOf s k g.a.toNat
      let row := (c.xr g.b).toNat
      let mode := if g.rm = 7 then c.frm.toNat else g.rm.toNat
      (row ≤ 63 → x.queue.length < 16 → ((x.bind = none ∧ x.st = .sealed) ∨ ∃ b, x.bind = some b ∧ 0 < g.f.toNat ∧ x.fires ≤ g.f.toNat ∧ g.f.toNat ≤ b.k) →
        changes (.mread h g) g.a.toNat { x with
          queue := x.queue ++ [{ f := g.f.toNat, row := row, ty := g.ty.toNat, rm := mode, cid := cid, d := g.d.toNat, node := n }] }) ∧
      ((63 < row ∨ (x.bind = none ∧ x.st ≠ .sealed)) → Traps (.mread h g) s cid h 0x0B 0 0))

/-- TWRV writes one row of a tile and TRDV reads one, TTAG and MNTAG set and clear the FULL tag of a slot that no fire reads; a row outside the tile, and a TWRV to a FULL slot, raise
TILE with no effect (R233-R235, R242, R451, R452). -/
def Obligations.TileWordsComplete : Prop :=
  ∀ (s : State) (cid : Nat) (h : Hdr) (ty : BitVec 4) (mantel : Bool) (slot : BitVec 8) (a b d : Reg) (full : Bool), Issues s cid h [] 1 → (s.ctx cid).role.isOp = true →
    (s.ctxRun cid).isSome = true → s.ownEntries cid = [] → (s.core (coreOf cid)).copies = [] → (∀ q ∈ (s.core (coreOf cid)).wq, q.cid = cid → q.acq = false) →
    (ty.toNat ≤ 1 ∨ (8 ≤ ty.toNat ∧ ty.toNat ≤ 11)) → (mantel = true ∨ slot.toNat < 8) →
    (tyBytes ty = 2 → mantel = true → slot.toNat % 2 = 0) →
    let c := s.ctx cid
    let k := coreOf cid
    let w := tyBytes ty
    let row := (c.xr a).toNat
    let per := if mantel then 64 else 32
    let rows := if mantel then 32 else 64
    let size := if mantel then 2048 else 4096
    let m := slot.toNat + per * row * w / size
    let first := per * row * w % size
    let x := slotAt s k mantel m
    let mayUse (l : List Nat) := l.contains c.role.node = true ∨ l.length < 8
    (row < rows → mayUse x.sharers → x.full = false → ∃ t, exec (.twrv h ty mantel slot a b) s = .next t ∧
      (let y := slotAt t k mantel m
       (∀ i, i < per * w → mget y.data (first + i) = (c.vr b).extractLsb' (8 * i) 8) ∧ (∀ i, i < first ∨ first + per * w ≤ i → mget y.data i = mget x.data i) ∧
       y.full = false ∧ y.beta = x.beta) ∧
      (∀ mt n, (mt, n) ≠ (mantel, m) → slotAt t k mt n = slotAt s k mt n) ∧ SameRegs c (t.ctx cid) ∧ (t.core k).mem = (s.core k).mem ∧ (t.core k).accs = (s.core k).accs) ∧
    (row < rows → x.full = true → Traps (.twrv h ty mantel slot a b) s cid h 0x0B 0 0) ∧
    (rows ≤ row → Traps (.twrv h ty mantel slot a b) s cid h 0x0B 0 0 ∧ Traps (.trdv h ty mantel slot d a) s cid h 0x0B 0 0) ∧
    (row < rows → mayUse x.sharers → ∃ t v, exec (.trdv h ty mantel slot d a) s = .next t ∧ (t.ctx cid).pend = (c.pendV d v 4).pend ∧
      (∀ i, i < per * w → v.extractLsb' (8 * i) 8 = mget x.data (first + i)) ∧ (∀ i, per * w ≤ i → i < 256 → v.extractLsb' (8 * i) 8 = 0) ∧
      (slotAt t k mantel m).data = x.data ∧ (slotAt t k mantel m).full = x.full) ∧
    ((s.core k).firing = none → (s.core k).tagq = [] →
      let tags (i : Instr) (mt : Bool) (ns : List Nat) : Prop := (∀ n ∈ ns, mayUse (slotAt s k mt n).sharers) → ∃ t, exec i s = .next t ∧
        (∀ n ∈ ns, (slotAt t k mt n).full = full ∧ (slotAt t k mt n).data = (slotAt s k mt n).data) ∧
        (∀ mt' n, (mt' ≠ mt ∨ n ∉ ns) → slotAt t k mt' n = slotAt s k mt' n) ∧ SameRegs c (t.ctx cid) ∧ (t.core k).mem = (s.core k).mem
      (slot.toNat < 8 → tags (.ttag h slot full) false [slot.toNat]) ∧
      (w = 1 → tags (.mntag h ty slot full) true [slot.toNat]) ∧ (w = 2 → slot.toNat % 2 = 0 → tags (.mntag h ty slot full) true [slot.toNat, slot.toNat + 1]))

/-- MGROUP gives the core's rank, the number of members of a lower id, once every member has joined, and parks until then; MREDUCE sends the 128 chunks of a SEALED accumulator to the member of a
rank; what a descriptor or a state does not admit raises TILE; and MREDUCE_RECEIPT adds the 32 elements of a chunk that checks exactly into its accumulator, on the anchor of the first
(R244, R245, R272, R455, R456). That the descriptor's number of partials goes to the four accumulators as their core joins, and seals one that has them all, is log entry 21 (DEDUCED). -/
def Obligations.GroupsReduceTheirPartials : Prop :=
  ∀ (s : State) (cid : Nat) (h : Hdr) (d a : Reg) (acc : BitVec 4) (r : Run), (s.ctx cid).role.isOp = true → s.ctxRun cid = some r → s.ownEntries cid = [] →
    let c := s.ctx cid
    let k := coreOf cid
    let w := (c.xr a).toNat
    let id := w % 16
    let quads := w / 2 ^ 8 % 16
    let q := w / 2 ^ 16 % 2 ^ 16
    let parts := w / 2 ^ 32
    let ms := (List.range quads).flatMap fun i => [q + 2 * i, q + 2 * i + 1, q + 2 * i + 32, q + 2 * i + 33]
    let joined (m : Nat) : Prop := ∃ g ∈ (s.core m).groups, g.gid = id ∧ g.desc = c.xr a
    let fits : Prop := w < 2 ^ 40 ∧ w / 16 % 16 = 0 ∧ w / 2 ^ 12 % 16 = 0 ∧ 1 ≤ quads ∧ quads ≤ 8 ∧ parts ≤ 31 ∧ q < 2048 ∧ q % 32 % 2 = 0 ∧ q / 32 % 2 = 0 ∧ q % 32 + 2 * quads ≤ 32 ∧
      (∀ m ∈ ms, r.covers m = true) ∧ k ∈ ms ∧ ∀ g ∈ (s.core k).groups, g.gid = id → g.desc = c.xr a
    (Issues s cid h [(0, 8)] 1 →
      let ranked (t : State) : Prop := (t.ctx cid).land =
        some { writes := [{ file := .x, reg := d.toNat, val := BitVec.ofNat 2048 (ms.filter fun m => decide (m < k)).length }], left := 0, load := none } ∧ (t.ctx cid).pc = c.pc + 8
      let parked (t : State) : Prop := (t.ctx cid).park.map (·.kind) = some .mgroup ∧ (t.ctx cid).pc = c.pc
      (fits → joined k → ∃ t, exec (.mgroup h d a) s = .next t ∧ ((∀ m ∈ ms, joined m) → ranked t) ∧ ((∃ m ∈ ms, ¬joined m) → parked t) ∧
        (∀ i, i < 4 → accOf t k i = accOf s k i) ∧ (t.core k).groups = (s.core k).groups ∧ (t.core k).mem = (s.core k).mem) ∧
      (fits → ¬joined k → (∀ i j, i < 4 → j < 64 → (accOf s k i).rowOk j = true) →
        ∃ t, exec (.mgroup h d a) s = .next t ∧ ((∀ m ∈ ms, m ≠ k → joined m) → ranked t) ∧ ((∃ m ∈ ms, m ≠ k ∧ ¬joined m) → parked t) ∧
          (∀ i, i < 4 → let x := accOf s k i
            accOf t k i = { x with
              parts := parts
              st := if x.pchunks == 128 * parts && (match x.bind with | some b => x.fires == b.k | none => parts != 0) then .sealed else x.st }) ∧
          (t.core k).groups = (s.core k).groups ++ [{ gid := id, desc := c.xr a }] ∧ (t.core k).mem = (s.core k).mem) ∧
      (¬fits → Traps (.mgroup h d a) s cid h 0x0B 0 0)) ∧
    (Issues s cid h [(0, 8)] 0 → d.toNat < 4 →
      let x := accOf s k d.toNat
      let rank := w % 32
      (∀ g dst, (s.core k).groups.find? (fun g => g.gid == w / 2 ^ 8 % 16) = some g → (grpMembers g.desc)[rank]? = some dst → dst ≠ k → w < 2 ^ 12 → w / 32 % 8 = 0 → x.st = .sealed →
        (x.sharers.contains c.role.node = true ∨ x.sharers.length < 8) →
        ∃ t cs, exec (.mreduce h d a acc) s = .next t ∧ t.xchunks = s.xchunks ++ cs ∧ cs.length = 128 ∧ (∀ q ∈ cs, q.core = dst ∧ q.acc = acc.toNat ∧ q.srcCid = cid) ∧
          (t.ctx cid).park.map (·.kind) = some .mreduce ∧ (t.ctx cid).pc = c.pc + 8) ∧
      (x.st ≠ .sealed → Traps (.mreduce h d a acc) s cid h 0x0B 0 0)) ∧
    (∀ ch hd pl plain hd', s.xchunks[s.ev.idx]? = some ch → (∀ x ∈ s.xchunks.take s.ev.idx, x.srcCid ≠ ch.srcCid ∨ x.core ≠ ch.core ∨ x.acc ≠ ch.acc) → ch.tok = .chunk hd pl →
      checkChunk hd pl 0 ch.core = .ok hd' plain →
      let x := accOf s ch.core ch.acc
      let added (n : Nat) : BitVec 128 := plain.extractLsb' (128 * (n % 32)) 128
      (x.st = .empty ∨ (x.st = .accum ∧ hd'.anchor = x.anchor)) → (x.pchunks + 1 ≠ 128 * x.parts ∨ ∃ b, x.bind = some b ∧ x.fires ≠ b.k) →
      (∀ n, n / 32 = hd.seq % 128 → (tget 0 x.val n).toInt ≠ -(2 ^ 127) → (added n).toInt ≠ -(2 ^ 127) →
        -(2 ^ 127) < (tget 0 x.val n).toInt + (added n).toInt ∧ (tget 0 x.val n).toInt + (added n).toInt < 2 ^ 127) →
      ∃ t, exec .mreduceReceipt s = .next t ∧ t.xchunks = s.xchunks.take s.ev.idx ++ s.xchunks.drop (s.ev.idx + 1) ∧
        let y := accOf t ch.core ch.acc
        y.anchor = hd'.anchor ∧ y.st = .accum ∧ y.pchunks = x.pchunks + 1 ∧ y.bind = x.bind ∧ y.parts = x.parts ∧ y.fires = x.fires ∧
        (∀ n, n < 4096 → (tget 0 y.val n).toInt =
          if n / 32 ≠ hd.seq % 128 then (tget 0 x.val n).toInt
          else if (tget 0 x.val n).toInt = -(2 ^ 127) ∨ (added n).toInt = -(2 ^ 127) then -(2 ^ 127)
          else (tget 0 x.val n).toInt + (added n).toInt) ∧
        ∀ j, j ≠ ch.acc → accOf t ch.core j = accOf s ch.core j)

/-- FIRE on an array with no fire in progress starts the next eligible binding after the one last started, and a fire of an 8-bit integer type whose cycles have run adds its 4,096 sums of products exactly into its accumulator's values,
in one step, and clears the tags that its binding consumes (R238, R239). -/
def FiresAddExactProducts : Prop :=
  ∀ (s : State) (r : Run) (a : Nat) (b : Binding),
    let k := s.ev.unit
    let x := accOf s k a
    s.regionRun k = some r → r.st = .running → a < 4 → x.bind = some b →
    ((s.core k).firing = none → (s.core k).dummy = false → (s.core k).stopFires = false →
      (let e := s.die (dieOf k); e.cyc < e.fclk ∧ e.fNow * e.fclk < e.hi * (e.cyc + 1)) → (s.core k).lastAcc = (a + 3) % 4 → s.eligible k a = true →
      ∃ t, exec .fire s = .next t ∧ (t.core k).firing = some a ∧ (t.core k).lastAcc = a ∧ (t.core k).fireLeft = 64 * tyW b.ty ∧ (t.core k).accs = (s.core k).accs ∧
        (∀ j, t.ctx j = s.ctx j)) ∧
    (b.ty ≤ 1 → (s.core k).firing = some a → (s.core k).fireLeft = 0 → x.st = .accum → x.anchor.toInt = 96 → x.fires + 1 < b.k → (s.core k).tagq = [] →
      let sa := x.aSlot b
      let sb := (b.base + x.fires * b.stride) % 256
      let byte (m : Memory) (i : Nat) : Int := if b.ty = 0 then (mget m i).toInt else (mget m i).toNat
      let A := (slotAt s k false sa).data
      let B := (slotAt s k true sb).data
      let sum (i j : Nat) : Int := (List.range 32).foldl (fun t n => t + byte A (32 * i + n) * byte B (64 * n + j)) 0
      (∀ n, n < 4096 → (tget 0 x.val n).toInt ≠ -(2 ^ 127) ∧ -(2 ^ 127) < (tget 0 x.val n).toInt + sum (n / 64) (n % 64) ∧
        (tget 0 x.val n).toInt + sum (n / 64) (n % 64) < 2 ^ 127) →
      ∃ t, exec .fire s = .next t ∧ (t.core k).firing = none ∧
        (let y := accOf t k a
         y.fires = x.fires + 1 ∧ y.st = .accum ∧ y.anchor = x.anchor ∧ y.xw = x.xw ∧ y.bind = x.bind ∧
         ∀ n, n < 4096 → (tget 0 y.val n).toInt = (tget 0 x.val n).toInt + sum (n / 64) (n % 64)) ∧
        (∀ j, j ≠ a → accOf t k j = accOf s k j) ∧ (slotAt t k false sa).full = ((slotAt s k false sa).full && !b.ca) ∧
        (slotAt t k true sb).full = ((slotAt s k true sb).full && !b.cb) ∧ (t.core k).mem = (s.core k).mem ∧ ∀ j, t.ctx j = s.ctx j)

/-- MREAD_SERVE stages a row, rounded once to its type, for the context that asked, once the accumulator has made the fires it waits for; BELLOWS_TICK ends a microsecond of a die; and
DUMMY_FIRE starts a dummy fire on the lowest array without a fire that could start while the die's units lag, within the cycles of the microsecond (R240, R246-R248, R453). -/
def ReadTokensAndBellowsAct : Prop :=
  ∀ (s : State) (tk : MToken) (rest : List MToken) (r : Run),
    let k := s.ev.unit
    let x := accOf s k s.ev.sub
    (x.queue = tk :: rest → tk.cid < 2 ^ 64 → (x.bind = none ∨ tk.f = x.fires) → s.regionRun k = some r → r.st = .running → x.rowOk tk.row = true → (tk.ty = 4 ∨ (8 ≤ tk.ty ∧ tk.ty ≤ 12)) →
      ∃ t v, exec .mreadServe s = .next t ∧ (accOf t k s.ev.sub) = { x with queue := rest } ∧ (t.ctx tk.cid).land = some { writes := [{ file := .v, reg := tk.d, val := v }], left := 0, load := none } ∧
        (∀ j, j < 64 → elem v (tyW tk.ty) j = (roundXA (tget 0 x.val (64 * tk.row + j)) x.anchor tk.ty tk.rm).1 % 2 ^ (8 * tyW tk.ty)) ∧
        (∀ j, j ≠ tk.cid → t.ctx j = s.ctx j) ∧ (t.ctx tk.cid).x = (s.ctx tk.cid).x ∧ (t.ctx tk.cid).v = (s.ctx tk.cid).v) ∧
    (let d := s.die k
     let lo := d.fNow - d.dmax
     (d.fclk ≤ d.cyc → ∃ t, exec .bellowsTick s = .next t ∧
       t.die k = { d with fPrev := d.fNow, fNow := 0, cyc := 0, lo := lo, hi := max lo (min d.fceil (d.fNow + d.dmax)) } ∧ (∀ j, j ≠ k → t.die j = s.die j) ∧
       t = { s with dies := t.dies }) ∧
     (d.cyc < d.fclk → d.fNow * d.fclk < d.lo * d.cyc → (∀ i, (s.core (k * 512 + i)).firing = none ∧ (s.core (k * 512 + i)).dummy = false ∧
         (s.nextFire (k * 512 + i) = none ∨ (s.core (k * 512 + i)).stopFires = true ∨ ∀ r, s.regionRun (k * 512 + i) = some r → r.works = false)) →
       ∃ t, exec .dummyFire s = .next t ∧ (t.core (k * 512)).dummy = true ∧ (t.core (k * 512)).fireLeft = 64 ∧
         t.die k = { d with fNow := d.fNow + 1, dummyCount := (d.dummyCount + 1) % 2 ^ 32 } ∧ ∀ j, j ≠ k * 512 → t.core j = s.core j))

/-- A copy is queued as it issues, moves its elements and ends. -/
def Obligations.CopiesComplete : Prop := CopiesAreQueuedAsTheyIssue ∧ CopiesMoveTheirElements

/-- Fires add exact products; read tokens and the Bellows act. -/
def Obligations.FiresAndReadsComplete : Prop := FiresAddExactProducts ∧ ReadTokensAndBellowsAct
/-! ## Tokens on their way, firings and router operators -/

/-- XSEND puts its register's value into its core's send queue, which holds 16: full, it waits, or under NB answers false. INJ in a handler operator puts one at the tail of a scalar or
vector channel of its register's kind with a free slot, parks on a full one, and raises CHAN for a number of no channel, for a channel of another kind (a chunk channel among them),
for the selector channel, and out of an operator that is not of the handler (R332, R392). -/
def Obligations.DirectedAndInjectedTokensAreSent : Prop :=
  ∀ (s : State) (cid : Nat) (h : Hdr) (f : ChanF) (core : BitVec 11) (ctx : BitVec 3) (a : Reg) (v : Bool) (ch : BitVec 14) (r : Run), s.ctxRun cid = some r →
    (s.ctx cid).role.isOp = true → s.ownEntries cid = [] →
    let c := s.ctx cid
    let k := s.core (coreOf cid)
    let reg (v : Bool) (x : Reg) : Token := if v then .vec (c.vr x) else .scalar (c.xr x)
    (Issues s cid h [] (if f.nb then 1 else 0) →
      (k.sendq.length < 16 → ∃ t d, exec (.xsend h f core ctx) s = .next t ∧ (t.core (coreOf cid)).sendq = k.sendq ++ [d] ∧ d.core = core.toNat ∧ d.ctx = ctx.toNat ∧
        d.port = f.port.toNat ∧ d.tok = reg f.v f.x ∧ d.srcCid = cid ∧ (t.ctx cid).pc = c.pc + 8 ∧ (t.ctx cid).x = c.x ∧ (t.ctx cid).moved = c.moved ∧
        (t.ctx cid).pend = (if f.nb then c.pendP f.pd.toNat true 1 else c).pend ∧ SameMemories s t cid) ∧
      (16 ≤ k.sendq.length → f.nb = true → Takes (.xsend h f core ctx) s cid h (.next (s.modCtx cid fun c => c.pendP f.pd.toNat false 1))) ∧
      (16 ≤ k.sendq.length → f.nb = false → Takes (.xsend h f core ctx) s cid h (.hold s))) ∧
    (Issues s cid h [] 0 →
      let n := ch.toNat
      (∀ e nd p, r.graph.chans[n]? = some e → e.selector = false → e.barrier = false → r.node e.pnode = some nd → nd.portAt e.pport = some p → p.kind = (if v then 1 else 0) →
        r.graph.handlerNodes.contains c.role.node = true →
        (0 < r.freeSlots n → ∃ t r', exec (.inj h a v ch) s = .next t ∧ t.run r.id = some r' ∧ (r'.chan n).fly = (r.chan n).fly ++ [{ tok := some (reg v a), due := s.cycle (coreOf cid) + 2 }] ∧
          (r'.chan n).buf = (r.chan n).buf ∧ (∀ i, i ≠ n → r'.chan i = r.chan i) ∧ SameRegs c (t.ctx cid) ∧ (t.ctx cid).pc = c.pc + 8 ∧ SameMemories s t cid) ∧
        (r.freeSlots n = 0 → ∃ t, exec (.inj h a v ch) s = .next t ∧ (t.ctx cid).park.map (·.kind) = some .inj ∧ (t.ctx cid).pc = c.pc ∧ t.runs = s.runs)) ∧
      (r.graph.chans[n]? = none ∨ r.graph.handlerNodes.contains c.role.node = false ∨ (∃ e, r.graph.chans[n]? = some e ∧ e.selector = true) ∨
          (∃ e nd p, r.graph.chans[n]? = some e ∧ r.node e.pnode = some nd ∧ nd.portAt e.pport = some p ∧ p.kind ≠ (if v then 1 else 0)) →
        Traps (.inj h a v ch) s cid h 0x09 0 0))

/-- FIRING_START starts a firing of an idle operator whose inputs stand ready and whose outputs have room: its counts start afresh, its output slots are reserved, and it takes no token yet.
HANDLER_FIRING does the same for the handler entry while its queue holds a token; the queue's head leaves it, is latched and is written to the handler's record as the firing's first word
issues. Without its inputs an operator does not start (R120, R167, R330). -/
def Obligations.FiringsStart : Prop :=
  ∀ (s : State) (r : Run) (nd : NodeD) (cid : Nat) (n : Nat),
    let c := s.ctx cid
    let ready : Prop := ∀ p ∈ nd.ports, p.port < 16 → ∀ i, r.graph.chanOfIn n p.port = some i → p.count ≤ (r.chan i).buf.length
    let room : Prop := ∀ p ∈ nd.ports, 16 ≤ p.port → ∀ i, r.graph.chanOfOut n p.port = some i → p.count ≤ r.freeSlots i
    let starts (t : State) (r' : Run) : Prop := t.run s.ev.unit = some r' ∧ (∀ i, (r'.chan i).buf = (r.chan i).buf ∧ (r'.chan i).fly = (r.chan i).fly) ∧
      (∀ p i, nd.ports.filter (fun p => decide (16 ≤ p.port)) = [p] → r.graph.chanOfOut n p.port = some i → (r'.chan i).res = (r.chan i).res + p.count) ∧
      (let u := t.ctx cid
       u.running = true ∧ u.fresh = true ∧ u.pc = 0 ∧ u.moved = [] ∧ u.x = c.x ∧ u.v = c.v ∧ u.p = c.p ∧ u.m = c.m ∧ u.fireno = c.fireno ∧ u.role = c.role) ∧
      (∀ k, k ≠ cid → t.ctx k = s.ctx k) ∧ t.dram = s.dram ∧ t.cores = s.cores
    s.run s.ev.unit = some r → r.node n = some nd → r.placeOf n = some (.ctx cid) → c.role = .op r.id n →
    (s.mayFire r n = true → c.running = false → c.park = none →
      (s.ev.idx = n → nd.kind = 0 →
        (ready → room → ∃ t r', exec .firingStart s = .next t ∧ starts t r') ∧
        (¬ready → exec .firingStart s = .next s)) ∧
      (∀ f rest, r.graph.handler = some n → r.hq = f :: rest → room →
        ∃ t r', exec .handlerFiring s = .next t ∧ starts t r' ∧ r'.hq = r.hq)) ∧
    (∀ f rest, r.graph.handler = some n → r.hq = f :: rest →
      let t := s.takeFlt cid
      (∃ r', t.run s.ev.unit = some r' ∧ r'.hq = rest) ∧ t.ctx cid = { c with token := some f } ∧
      (let a := c.fltrec.toNat * 64 % 0x80000
       (∀ i, i < f.bytes.length → mget (t.core (coreOf cid)).mem (a + i) = f.bytes.getD i 0) ∧
       ∀ x, x < a ∨ a + f.bytes.length ≤ x → mget (t.core (coreOf cid)).mem x = mget (s.core (coreOf cid)).mem x) ∧
      (∀ k, k ≠ cid → t.ctx k = s.ctx k) ∧ (∀ k, k ≠ coreOf cid → t.core k = s.core k))

/-- What an action of a router operator does to a run's channels: the head of each channel of `ins` is taken, and the token of `out` enters its route for the next cycle. -/
def Acts (s : State) (r r' : Run) (ins : List Nat) (out : Option (Nat × Token)) : Prop :=
  ∀ i, (r'.chan i).buf = (if i ∈ ins then (r.chan i).buf.tail else (r.chan i).buf) ∧
    (r'.chan i).fly = (match out with | some (o, t) => if i = o then (r.chan i).fly ++ [{ tok := some t, due := s.cycleOf r + 1 }] else (r.chan i).fly | none => (r.chan i).fly) ∧
    (r'.chan i).res = (r.chan i).res ∧ (r'.chan i).seq = (r.chan i).seq

/-- The router operators act on the tokens at their heads (R146-R150): STEER sends its data to the output that its decider names, MERGE takes the input that its decider names, CARRY and INVARIANT begin from their
first input and go on or end as their deciders say, and LOOP counts. Nothing else of the machine changes. -/
def Obligations.RouterOperatorsAct : Prop :=
  ∀ (s : State) (r : Run) (n : Nat) (nd : NodeD),
    let st := r.nodeS n
    let acts (i : Instr) (ins : List Nat) (out : Option (Nat × Token)) (then' : NodeS → Prop) : Prop :=
      ∃ t r', exec i s = .next t ∧ t.run s.ev.unit = some r' ∧ Acts s r r' ins out ∧ then' (r'.nodeS n) ∧ t.ctxs = s.ctxs ∧ t.cores = s.cores ∧ t.dram = s.dram
    let isTrue (t : Token) : Bool := (tokVal t).getLsbD 0
    let input (p c : Nat) (t : Token) : Prop := r.graph.chanOfIn n p = some c ∧ (r.chan c).buf.head? = some t
    let output (p o : Nat) : Prop := r.graph.chanOfOut n p = some o ∧ 0 < r.freeSlots o
    s.ev.idx = n → s.run s.ev.unit = some r → r.node n = some nd → nd.kind = 1 → s.mayFire r n = true → st.acted ≤ s.cycleOf r →
    (∀ c0 c1 d t o, nd.rkind = 0 → input 0 c0 d → input 1 c1 t → output (if isTrue d then 16 else 17) o → acts .steerAction [c0, c1] (some (o, t)) fun _ => True) ∧
    (∀ c0 c1 d t o, nd.rkind = 1 → input 0 c0 d → input (if isTrue d then 1 else 2) c1 t → output 16 o → acts .mergeAction [c0, c1] (some (o, t)) fun _ => True) ∧
    (nd.rkind = 2 →
      (∀ c1 t o, st.run = false → input 1 c1 t → output 16 o → acts .carryAction [c1] (some (o, t)) fun x => x.run = true) ∧
      (∀ c0 d, st.run = true → input 0 c0 d → isTrue d = false → acts .carryAction [c0] none fun x => x.run = false) ∧
      (∀ c0 c2 d t o, st.run = true → input 0 c0 d → isTrue d = true → input 2 c2 t → output 16 o → acts .carryAction [c0, c2] (some (o, t)) fun x => x.run = true)) ∧
    (nd.rkind = 3 →
      (∀ c1 t o, st.held = none → input 1 c1 t → output 16 o → acts .invariantAction [c1] (some (o, t)) fun x => x.held = some t) ∧
      (∀ c0 d v, st.held = some v → input 0 c0 d → isTrue d = false → acts .invariantAction [c0] none fun x => x.held = none) ∧
      (∀ c0 d v o, st.held = some v → input 0 c0 d → isTrue d = true → output 16 o → acts .invariantAction [c0] (some (o, v)) fun x => x.held = some v)) ∧
    (nd.rkind = 4 →
      (∀ c0 t, st.run = false → input 0 c0 t →
        let total := (tokVal t).toNat % 2 ^ 32
        (∀ o, total = 0 → output 17 o → acts .loopAction [c0] (some (o, .scalar 0)) fun x => x.run = false) ∧
        (∀ o, total ≠ 0 → output 16 o → acts .loopAction [c0] (some (o, .scalar 0)) fun x => x.run = true ∧ x.total = total ∧ x.n = 0)) ∧
      (∀ p c1 t, st.run = true → nd.ports.filter (fun p => decide (1 ≤ p.port) && decide (p.port ≤ 15)) = [p] → input p.port c1 t →
        (∀ o, st.n + 1 < st.total → output 16 o → acts .loopAction [c1] (some (o, .scalar (BitVec.ofNat 64 (st.n + 1)))) fun x => x.run = true ∧ x.n = st.n + 1) ∧
        (∀ o, st.total ≤ st.n + 1 → output 17 o → acts .loopAction [c1] (some (o, .scalar (BitVec.ofNat 64 st.total))) fun x => x.run = false)))

/-- TOKEN_LAND writes the oldest token of a route into its channel's buffer when it is due, and not before (R122, R394). XSEND_DELIVER moves a token from its core's queue to the
fabric, and the oldest of its sender from there into the port of the operator it names, or of the one that its core holds it for (R393, R395). GUARD_DROP takes a token that a guard refuses out of the fabric and counts it in its
sender's window, and under GHALT reports it at once and halts its instance; GUARD_REPORT closes a window and reports it, once (R115, R116). BANK_HANDOFF gives the consumer of a handoff
the banks that its producer has passed on, when the producer's firings have ended and its stores are done (R126). STREAM_BARRIER_RELEASE lets the contexts that an edge held issue again once every source
of a barrier edge to them has finished (R128). -/
def Obligations.TokensAndBanksPass : Prop :=
  ∀ (s : State) (r : Run) (i : Nat),
    (∀ tk due rest, s.run s.ev.unit = some r → s.ev.idx = i → (r.chan i).fly = { tok := some tk, due := due } :: rest →
      (due ≤ s.cycleOf r → r.st = .running → r.rolling = false → r.cut = none → ∃ t r', exec .tokenLand s = .next t ∧ t.run s.ev.unit = some r' ∧ (r'.chan i).fly = rest ∧
        (r'.chan i).buf = (r.chan i).buf ++ [tk] ∧ (∀ j, j ≠ i → r'.chan j = r.chan j) ∧ (∀ k, SameRegs (s.ctx k) (t.ctx k)) ∧ t.cores = s.cores ∧ t.dram = s.dram) ∧
      (s.cycleOf r < due → exec .tokenLand s = .next s)) ∧
    (∀ d q, s.ev.sub = 0 → (s.core s.ev.unit).sendq = d :: q → ∃ t, exec .xsendDeliver s = .next t ∧ (t.core s.ev.unit).sendq = q ∧ t.directed = s.directed ++ [d] ∧
      (∀ j, j ≠ s.ev.unit → t.core j = s.core j) ∧ t.ctxs = s.ctxs ∧ t.runs = s.runs) ∧
    (∀ (d : Directed) (n : Nat) (nd : NodeD) (p : PortD), s.ev.sub ≠ 0 → s.directed[s.ev.idx]? = some d →
      (∀ u ∈ s.directed.take s.ev.idx, u.srcCid ≠ d.srcCid ∨ u.core ≠ d.core ∨ u.ctx ≠ d.ctx ∨ u.port ≠ d.port) →
      ((d.held = none ∧ s.guardReason d.vd (coreOf d.srcCid) d.core = none ∧ AtPort s (d.core * 8 + d.ctx) d.port r n nd p ∧ p.kind ≠ 2 ∧ p.kind = d.tok.kind) ∨
        (d.held = some (r.id, n) ∧ s.run r.id = some r)) → r.graph.chanOfIn n d.port = some i →
      (d.due ≤ s.cycle (coreOf d.srcCid) → (dieOf (coreOf d.srcCid) = dieOf d.core ∨ d.paid ≠ 0) → 0 < r.freeSlots i → r.goes n = true → r.cut = none →
        ∃ t r', exec .xsendDeliver s = .next t ∧ t.directed = s.directed.take s.ev.idx ++ s.directed.drop (s.ev.idx + 1) ∧ t.run r.id = some r' ∧
          (r'.chan i).buf = (r.chan i).buf ++ [d.tok] ∧ (∀ j, j ≠ i → r'.chan j = r.chan j) ∧ (∀ k, SameRegs (s.ctx k) (t.ctx k)) ∧ t.cores = s.cores) ∧
      ((s.cycle (coreOf d.srcCid) < d.due ∨ r.freeSlots i = 0) → exec .xsendDeliver s = .next s)) ∧
    (∀ d why, s.directed[s.ev.idx]? = some d → d.held = none → s.guardReason d.vd (coreOf d.srcCid) d.core = some why →
      ∃ t, exec .guardDrop s = .next t ∧ t.directed = s.directed.take s.ev.idx ++ s.directed.drop (s.ev.idx + 1) ∧ (t.vd d.vd).gdrop = (s.vd d.vd).gdrop + 1 ∧
        (∃ w ∈ (t.die (dieOf (coreOf d.srcCid))).guards, w.srcCid = d.srcCid ∧ w.left ≠ 0 ∧ w.gdrop = (s.vd d.vd).gdrop + 1) ∧
        ((s.vd d.vd).ghalt = false → t.runs = s.runs ∧ t.ctxs = s.ctxs ∧ t.flue = s.flue) ∧
        (∀ id, (s.vd d.vd).ghalt = true → d.srcRun = some id → s.run id = some r → r.st = .running → (s.die (dieOf (coreOf d.srcCid))).guards = [] →
          ∃ f r', t.flue = s.flue ++ [f] ∧ f.code = 0x12 ∧ f.vd = d.vd ∧ t.run id = some r' ∧ r'.st = .halted 0x12)) ∧
    (∀ g, (s.die s.ev.unit).guards[s.ev.idx]? = some g → g.left = 0 →
      ∃ t, exec .guardReport s = .next t ∧ (t.die s.ev.unit).guards = (s.die s.ev.unit).guards.take s.ev.idx ++ (s.die s.ev.unit).guards.drop (s.ev.idx + 1) ∧
        t.runs = s.runs ∧ t.ctxs = s.ctxs ∧ t.cores = s.cores ∧
        (g.sent = false → ∃ f, t.flue = s.flue ++ [f] ∧ f.code = 0x12 ∧ f.vd = g.vd ∧ f.held = none ∧ f.time = g.first) ∧ (g.sent = true → t.flue = s.flue)) ∧
    (∀ (h : HandD) (cid : Nat), s.run s.ev.unit = some r → r.graph.hands[s.ev.idx]? = some h → r.placeOf h.prod = some (.ctx cid) → (s.ctx cid).role = .op r.id h.prod →
      (h.fires ≤ (s.ctx cid).fireno.toNat → (∀ x ∈ (s.core (coreOf cid)).copies, x.run ≠ r.id ∨ x.node ≠ h.prod) →
          (∀ e ∈ (s.core (coreOf cid)).sbuf, (s.ctx e.cid).role ≠ .op r.id h.prod) →
        ∃ t r', exec .bankHandoff s = .next t ∧ t.run s.ev.unit = some r' ∧ (∀ b, b < 16 → h.banks.getLsbD b = true → (s.ev.idx, b) ∈ r'.bankTok) ∧
          (∀ x ∈ r.bankTok, x ∈ r'.bankTok) ∧ (∀ x ∈ r'.bankTok, x ∈ r.bankTok ∨ (x.1 = s.ev.idx ∧ h.banks.getLsbD x.2 = true)) ∧ t.ctxs = s.ctxs ∧ t.cores = s.cores) ∧
      ((s.ctx cid).fireno.toNat < h.fires → exec .bankHandoff s = .next s)) ∧
    (∀ e, s.run s.ev.unit = some r → r.graph.chans[s.ev.idx]? = some e → e.barrier = true →
      (s.barred r e.cnode = false → ∃ t, exec .streamBarrierRelease s = .next t ∧ (∀ k, SameRegs (s.ctx k) (t.ctx k)) ∧ SameElsewhere s t ∧
        (∀ k p, (s.ctx k).role.run = some r.id → (s.ctx k).role.node = e.cnode → (s.ctx k).park = some p → p.kind = .streamBar → (t.ctx k).park = none)) ∧
      (s.barred r e.cnode = true → exec .streamBarrierRelease s = .next s))
/-! ## Edge streams, re-latch tokens and collectives -/

/-- LOADER_ROUND and STORER_ROUND start a round whose inputs and output slots stand ready with its first sector request, one request a cycle at each edge unit (R120, R153, R167). Once the
Dampers on its path have granted the request, a loader sends the value read at its element's address, and a storer writes the token at its head there and takes it; the round ends with its
last token (R154-R160). That a stream has one request out at a time and moves one token a step is log entry 41 (DEDUCED). -/
def StreamsRunTheirRounds : Prop :=
  ∀ (s : State) (r : Run) (n : Nat) (nd : NodeD) (p : Page) (a : Nat) (i : Instr) (k : Nat),
    let st := r.nodeS n
    let len := shElem (r.image n)
    let pa := p.pa + (a - p.va)
    let set := tget [] (s.die (pa / 2 ^ 36 % 4)).l2 (l2Key pa)
    let more := st.n + 1 < r.strTokens n
    let after (x : NodeS) : Prop := x.asked = none ∧ x.run = decide more ∧ x.n = (if more then st.n + 1 else 0) ∧ x.round = (if more then st.round else st.round + 1)
    let asks (t : State) (m : Nat) : Prop := ∃ r', t.run s.ev.unit = some r' ∧
      (let x := r'.nodeS n
       x.asked = some pa ∧ x.run = true ∧ x.n = m ∧ x.round = st.round ∧ x.latches = st.latches) ∧
      (∀ j, (r'.chan j).buf = (r.chan j).buf ∧ (r'.chan j).fly = (r.chan j).fly) ∧ t = { s with runs := t.runs, edgeTurn := t.edgeTurn }
    (i, k) ∈ [(Instr.loaderRound, 2), (Instr.storerRound, 3)] →
    s.ev.idx = n → s.run s.ev.unit = some r → r.node n = some nd → nd.kind = k → nd.coll = none → s.mayStream r n k = true → r.hasParam n = false → r.strIndex n = none →
    st.latches.find? (fun q => q.holds r.vd a) = some p → a < 2 ^ 56 → (k = 3 → p.writable = true ∧ ∃ c w q, r.graph.chanOfIn n 0 = some c ∧ (r.chan c).buf = .scalar w :: q) →
    (st.run = false → st.asked = none →
      (st.done = false → st.round < nd.rounds → s.barred r n = false → r.inputsReady n nd = true → r.outputsFree n nd = true → s.unitTurn r n = true →
        r.strElems n (r.strPos n 0) = [(0, a)] → ∃ t, exec i s = .next t ∧ asks t 0) ∧
      (nd.rounds ≤ st.round ∨ r.inputsReady n nd = false ∨ r.outputsFree n nd = false → exec i s = .next s)) ∧
    (st.run = true → st.m = 0 → r.strElems n (r.strPos n st.n) = [(0, a)] →
      (st.asked = none → (k = 2 → r.slotFor n (r.strOut n st.n) = true) →
        (s.unitTurn r n = true → ∃ t, exec i s = .next t ∧ asks t st.n) ∧
        (∀ u, r.unitOf n = some u → s.cycleOf r < (tget (0, 0) s.edgeTurn u).1 → exec i s = .next s)) ∧
      (st.asked = some pa → ((s.streamToll r n).isSome = true → exec i s = .next s) ∧
        (s.streamToll r n = none → pa % 128 = a % 128 → pa % len = 0 → s.poisoned pa = false → (set = [] ∨ ∃ l, set.find? (fun l => l.line == pa / 512) = some l ∧ l.vd = r.vd) →
          (∀ c, k = 2 → r.portKind n (r.strOut n st.n) = 0 → r.graph.chanOfOut n (r.strOut n st.n) = some c →
            ∃ t r', exec .loaderRound s = .next t ∧ t.run s.ev.unit = some r' ∧ after (r'.nodeS n) ∧
              (r'.chan c).fly = (r.chan c).fly ++ [{ tok := some (.scalar (BitVec.ofNat 64 (s.devLoad pa len))), due := s.cycleOf r + 1 }] ∧
              (∀ x, t.devByte x = s.devByte x) ∧ t.ctxs = s.ctxs ∧ t.cores = s.cores) ∧
          (∀ c w q, k = 3 → r.graph.chanOfIn n 0 = some c → (r.chan c).buf = .scalar w :: q → s.arrivals = [] →
            ∃ t r', exec .storerRound s = .next t ∧ t.run s.ev.unit = some r' ∧ after (r'.nodeS n) ∧ (r'.chan c).buf = q ∧
              t.devLoad pa len = w.toNat % 2 ^ (8 * len) ∧ (∀ x, x < pa ∨ pa + len ≤ x → t.devByte x = s.devByte x) ∧ t.ctxs = s.ctxs ∧ t.cores = s.cores))))

/-- A re-latch token at a core drops the pages it names from the core's TLB, and one at an edge unit drops them from the latches of the unit's streams; the token is then gone, or
stays until the requests that a stream there had translated are over (R164, R299, R300). -/
def RelatchTokensDropTranslations : Prop :=
  ∀ (s : State), let u := s.ev.unit
    (∀ tk, (s.core u).relatch[s.ev.idx]? = some tk → tk.got = false → (s.core u).wq = [] → ∃ t, exec .relatchCore s = .next t ∧
      (t.core u).tlb = (s.core u).tlb.filter (fun p => !(p.vd == tk.vd && decide (p.va < tk.va + tk.size) && decide (tk.va < p.va + p.size))) ∧
      (t.core u).relatch = (s.core u).relatch.take s.ev.idx ++ (s.core u).relatch.drop (s.ev.idx + 1) ∧ (∀ k, k ≠ u → t.core k = s.core k) ∧ t = { s with cores := t.cores }) ∧
    (∀ e tk, s.edgeRel[s.ev.idx]? = some (e, tk) →
      let gone := s.edgeRel.take s.ev.idx ++ s.edgeRel.drop (s.ev.idx + 1)
      (tk.got = false → ∃ t, exec .relatchEdge s = .next t ∧
        (∀ rid r n d c north k, s.run rid = some r → n < r.graph.nodes.length → r.placeOf n = some (.edge d c north k) → ∃ r', t.run rid = some r' ∧
          (r'.nodeS n).latches = if e = d * 64 + (if north then 32 else 0) + c then
            (r.nodeS n).latches.filter (fun p => !(p.vd == tk.vd && decide (p.va < tk.va + tk.size) && decide (tk.va < p.va + p.size))) else (r.nodeS n).latches) ∧
        ((∀ r ∈ s.runs, ∀ n, (r.nodeS n).asked = none) → t.edgeRel = gone) ∧
        (∀ r ∈ s.runs, ∀ n, n < r.graph.nodes.length → r.unitOf n = some e → (r.nodeS n).asked.isSome = true →
          ∃ tk', t.edgeRel[s.ev.idx]? = some (e, tk') ∧ tk'.got = true ∧ streamKey r.id n ∈ tk'.waits) ∧
        t = { s with runs := t.runs, edgeRel := t.edgeRel }) ∧
      (tk.got = true → tk.waits = [] → exec .relatchEdge s = .next { s with edgeRel := gone }))

/-- A collective storer asks for its descriptor, a request that takes its unit's turn and passes the Dampers, begins its round with it once it is read and raises SHAPE for one that is
not legal (R60, R153; an RM above 7 is refused as 7 is by log entry 74, DESIGN CHOICE), takes its chunks one by one, and its contribution opens the collective at the root (R61);
bridges and pod links check each chunk that arrives and name themselves its verifier (R44, R57), and a pod link that was FAILING as a collective was new brings no chunk of it
(R54); a collective past its expiry, the period after its deadline by log entry 44 (DEDUCED), gives TIMEOUT to every member that is in it (R59). -/
def CollectivesGather : Prop :=
  ∀ (s : State) (r : Run) (n : Nat) (nd : NodeD) (addr : Nat) (p : Page),
    let st := r.nodeS n
    let pa := p.pa + (addr - p.va)
    let w := leNat ((List.range 64).map fun i => s.devByte (pa + i))
    let members := (List.range 64).filter fun i => (bits w 64 64).testBit i
    let legal : Prop := bits w 32 8 ≤ 2 ∧ bits w 40 8 ≤ 6 ∧ bits w 48 16 = 0 ∧ bits w 128 384 = 0 ∧ 2 ≤ members.length ∧ s.podId ∈ members
    s.podId < 64 →
    (s.ev.idx = n → s.run s.ev.unit = some r → r.node n = some nd → nd.coll = some addr → nd.kind = 3 → s.mayStream r n 3 = true →
      (st.run = false → st.asked = none → s.roundReady r n nd = true → st.latches.find? (fun q => q.holds r.vd addr) = some p → addr < 2 ^ 56 →
        (s.unitTurn r n = true → ∃ t r', exec .collectiveRound s = .next t ∧ t.run s.ev.unit = some r' ∧ r'.nodeS n = { st with asked := some pa, paid := 0, stood := s.now } ∧
          t = { s with runs := t.runs, edgeTurn := t.edgeTurn }) ∧
        (∀ u, r.unitOf n = some u → s.cycleOf r < (tget (0, 0) s.edgeTurn u).1 → exec .collectiveRound s = .next s)) ∧
      (st.run = false → st.asked = some pa → (s.streamToll r n).isSome = true → exec .collectiveRound s = .next s) ∧
      (st.run = false → st.asked = some pa → s.streamToll r n = none → s.poisoned pa = false →
        (legal → ∃ t r', exec .collectiveRound s = .next t ∧ t.run s.ev.unit = some r' ∧ t.ctxs = s.ctxs ∧ t.cores = s.cores ∧
          r'.nodeS n = { st with
            run := true, n := 0, sent := false, desc := [bits w 0 32, bits w 32 8, bits w 40 8, bits w 64 64], chunks := [], asked := none, paid := 0 }) ∧
        (¬legal → ∃ t f, exec .collectiveRound s = .next t ∧ t.flue = s.flue ++ [f] ∧ f.code = 0x0C ∧ f.vd = r.vd ∧ t.cores = s.cores)) ∧
      (∀ c tk q, st.run = true → st.sent = false → r.graph.chanOfIn n 0 = some c → (r.chan c).buf = tk :: q → ∃ t r', exec .collectiveRound s = .next t ∧
        t.run s.ev.unit = some r' ∧ (r'.chan c).buf = q ∧ r'.nodeS n = { st with chunks := st.chunks ++ [tk], sent := decide (r.portCount n 0 ≤ st.chunks.length + 1) } ∧
        t = { s with runs := t.runs })) ∧
    (s.ev.idx = n → s.run s.ev.unit = some r → st.run = true → ∀ h q x, st.chunks = [.chunk h q] →
      (s.ev.sub = 0 → h.vkind ≠ 2 → h.partialF = false → h.malformed = false → unpackChunk h q = some x →
        (st.paid = 0 ∨ st.asked.isSome = true → exec .bridgeArrivalCheck s = .next s) ∧
        (st.paid ≠ 0 → st.asked = none → chunkRes h x = h.res → ∃ t r' vid, exec .bridgeArrivalCheck s = .next t ∧ t.run s.ev.unit = some r' ∧ vid / 512 = r.die ∧
          (r'.nodeS n).chunks = [.chunk { h with vkind := 2, vid := vid } q] ∧ t.ctxs = s.ctxs ∧ t.flue = s.flue) ∧
        (st.paid ≠ 0 → st.asked = none → chunkRes h x ≠ h.res → ∃ t f, exec .bridgeArrivalCheck s = .next t ∧ t.flue = s.flue ++ [f] ∧ f.code = 0x13 ∧ f.vd = r.vd)) ∧
      (∀ tag op rm mem, s.ev.sub = 0 → st.sent = true → h.vkind = 2 → h.malformed = false → unpackChunk h q = some x → h.partialF = false → chunkRes h x = h.res →
        st.desc = [tag, op, rm, mem] → s.colls.find? (fun c => c.tag == tag && c.round == st.round) = none → mem.testBit s.podId = true → (∀ i, i < s.podId → mem.testBit i = false) →
        ∃ t, exec .collectiveContribution s = .next t ∧ ∃ c, t.colls = s.colls ++ [c] ∧ c.tag = tag ∧ c.round = st.round ∧ c.op = op ∧ c.rm = rm ∧ c.members = mem ∧
          c.contribs.map (·.pod) = [s.podId] ∧ c.results = none ∧ c.dead = none ∧
          c.deadline = s.now + (if (s.vd r.vd).ctmo = 0 then 100 else min 10000 (s.vd r.vd).ctmo) * 1800000 ∧ t.ctxs = s.ctxs ∧ t.cores = s.cores)) ∧
    (∀ h, s.ev.unit < 8 → s.ev.val 1 = 0 → h = hdrOfNat (s.ev.val 2) → h.partialF = false → h.malformed = false → ∀ x, unpackChunk h (BitVec.ofNat 4096 (s.ev.val 3)) = some x →
      let known (q : Collective) : Bool := q.tag == s.ev.idx && q.round == s.ev.val 0
      let begun (q : PodIn) : Bool := q.tag == s.ev.idx && q.round == s.ev.val 0
      let failing : Prop := tget 0 s.grades (s.ev.unit + 1) = 2
      let open' : Prop := (∃ q, s.colls.find? known = some q ∧ q.shut.getLsbD s.ev.unit = false) ∨
        (s.colls.find? known = none ∧ ((∃ q, s.podIn.find? begun = some q ∧ q.shut.getLsbD s.ev.unit = false) ∨ (s.podIn.find? begun = none ∧ ¬failing)))
      (s.podLinks.getLsbD s.ev.unit = true → open' → chunkRes h x = h.res → ∃ t v m, exec .podLinkArrivalCheck s = .next t ∧
        t.podIn = s.podIn ++ [{ pod := s.ev.sub, tag := s.ev.idx, round := s.ev.val 0, answer := false, shut := m
                                tok := .chunk { h with vkind := 3, vid := v } (BitVec.ofNat 4096 (s.ev.val 3)) }] ∧ t.runs = s.runs ∧ t.ctxs = s.ctxs) ∧
      (¬open' → exec .podLinkArrivalCheck s = .next s) ∧
      (s.podLinks.getLsbD s.ev.unit = false → exec .podLinkArrivalCheck s = .next s)) ∧
    (∀ c, s.colls[s.ev.idx]? = some c → c.results = none → c.dead = none → rootOf c.members = s.podId →
      (s.now ≤ c.deadline → exec .collectiveTimeout s = .next s) ∧
      (c.deadline < s.now → ∃ t, exec .collectiveTimeout s = .next t ∧
        (∀ c' ∈ t.colls, c'.tag = c.tag → c'.round = c.round → c'.dead = some 0x1B ∧ c'.contribs = []) ∧
        (∀ rid u m, s.run rid = some u → m < u.graph.nodes.length → (u.nodeS m).run = true → (u.nodeS m).round = c.round → (u.nodeS m).desc.head? = some c.tag →
          u ∈ s.runs → ∃ f ∈ t.flue, f.code = 0x1B ∧ f.vd = u.vd ∧ f.inst = rid % 2 ^ 16)))

/-- Edge streams, re-latch tokens and the collective unit act as their rules say. -/
def Obligations.StreamsAndCollectivesAct : Prop := StreamsRunTheirRounds ∧ RelatchTokensDropTranslations ∧ CollectivesGather
/-! ## Phases, cuts, rollback and the delivery of faults -/

/-- SELECTION takes the selector's token and holds the phase it names (R125); PHASE_DRAIN moves a drained instance to its next phase, or ends it with OK once nothing of it is under way (R123, R124, R309); PHASE_CONFIG puts the
phase in effect within 64 cycles (R125); DEADLOCK raises its code after 2^20 cycles in which nothing has started while a channel, a ring or the pool has stood full, a selection has been held, or a context has waited at a
stream barrier, for as long, and not before (R125, R128, R200). -/
def PhasesFollowOneAnother : Prop :=
  ∀ (s : State) (r : Run), s.run s.ev.unit = some r → r.rolling = false →
    let ph := (r.graph.phases[r.phase]?).getD { next := 0xFF, selected := false }
    let waitsLong : Prop := ∃ cid p, (s.ctx cid).role.run = some r.id ∧ (s.ctx cid).park = some p ∧ p.kind = .streamBar ∧ p.b + 2 ^ 20 ≤ s.cycle (coreOf cid)
    (∀ i tk q, r.st = .running → r.graph.chans.findIdx? (·.selector) = some i → (r.chan i).buf = tk :: q → r.heldSel = none → ph.selected = true → r.cut = none →
      let v := (tokVal tk).toNat % 256
      (v = 0xFF ∨ v < r.graph.phases.length → ∃ t r', exec .selection s = .next t ∧ t.run s.ev.unit = some r' ∧ r'.heldSel = some v ∧ (r'.chan i).buf = q ∧ r'.phase = r.phase ∧
        t = { s with runs := t.runs }) ∧
      (v ≠ 0xFF → r.graph.phases.length ≤ v → ∃ t r' f, exec .selection s = .next t ∧ t.run s.ev.unit = some r' ∧ r'.st = .halted 0x09 ∧ t.flue = s.flue ++ [f] ∧ f.code = 0x09 ∧
        f.vd = r.vd)) ∧
    (∀ v, r.st = .running → s.drained r = true → s.occupied r = true → (if ph.selected then r.heldSel else some ph.next) = some v →
      (v ≠ 0xFF → ∃ t r', exec .phaseDrain s = .next t ∧ t.run s.ev.unit = some r' ∧ r'.st = .config 64 ∧ r'.phase = v ∧ r'.heldSel = none ∧ t.dram = s.dram ∧ t.vds = s.vds) ∧
      (v = 0xFF → s.quiet r = true → (∀ e ∈ s.cores, ∀ x ∈ e.2.copies, x.run ≠ r.id) → ∃ t, exec .phaseDrain s = .next t ∧ t.run s.ev.unit = none ∧
        (∀ k c, r.cmd = some k → r.pauseCmds = [] → r.resumeCmd = none → r.parent = none → s.pending k = some c → c.done = none →
          ∃ c', t.pending k = some c' ∧ c'.done = some (0, 0, r.id)))) ∧
    (s.drained r = false → exec .phaseDrain s = .next s) ∧
    (∀ left, r.st = .config left →
      (63 < left → exec .phaseConfig s = .next s) ∧
      (left ≤ 63 → (∀ n d, r.node n = some d → d.kind ≠ 2 ∧ d.kind ≠ 3) → ∃ t r', exec .phaseConfig s = .next t ∧ t.run s.ev.unit = some r' ∧ r'.st = .running ∧ r'.phase = r.phase ∧
        r'.confAt = s.cycleOf r ∧ r'.chans = r.chans ∧ t.dram = s.dram ∧ t.flue = s.flue)) ∧
    (r.st = .running →
      (r.watchdog < 2 ^ 20 → exec .deadlock s = .next s) ∧
      (r.fullFor < 2 ^ 20 → r.heldFor < 2 ^ 20 → (∀ e ∈ s.ctxs, ∀ p, e.2.park = some p → p.kind ≠ .streamBar) → exec .deadlock s = .next s) ∧
      (2 ^ 20 ≤ r.watchdog → 2 ^ 20 ≤ r.fullFor ∨ 2 ^ 20 ≤ r.heldFor ∨ waitsLong →
        ∃ t r' f, exec .deadlock s = .next t ∧ t.run s.ev.unit = some r' ∧ r'.watchdog = 0 ∧ t.flue = s.flue ++ [f] ∧ f.code = 0x17 ∧ f.vd = r.vd ∧
          (r.graph.handler = none → r'.st = .halted 0x17) ∧ (r.graph.handler.isSome = true → r'.st = .running)))

/-- MARKER_INJECT begins the cut that an instance waits for, and PERIODIC_CUT one that is due, or skips it while a cut goes on (R165, R184); MARKER_ARRIVAL marks the channel of a consumer and takes
nothing from its buffer (R166); ELEMENT_SAVE saves an element, whose markers follow what it has sent, and the last completes the cut (R167, R171), the one that is kept from then on
(log entry 45, DEDUCED). -/
def CutsAreTaken : Prop :=
  ∀ (s : State) (r : Run), s.run s.ev.unit = some r → r.rolling = false → r.st = .running →
    let begins (i : Instr) (k : CutKind) : Prop := ∃ t r' c, exec i s = .next t ∧ t.run s.ev.unit = some r' ∧ r'.cut = some c ∧ c.kind = k ∧ c.no = r.cutNo + 1 ∧ c.phase = r.phase ∧
      r'.cutNo = r.cutNo + 1 ∧ r'.cutReq = none ∧ r'.savedElems = [] ∧ r'.saved = r.saved ∧ (∀ i, (r'.chan i).buf = (r.chan i).buf ∧ (r'.chan i).fly = (r.chan i).fly) ∧ t.dram = s.dram
    (∀ k, r.cutReq = some k → r.cut = none → begins .markerInject k) ∧
    (r.cutReq = none → exec .markerInject s = .next s) ∧
    (r.graph.marker ≠ 0 → r.cutDue ≤ s.now →
      (r.cut = none → r.cutReq = none → begins .periodicCut .periodic) ∧
      (r.cut.isSome = true → ∃ t r', exec .periodicCut s = .next t ∧ t.run s.ev.unit = some r' ∧ r'.cut = r.cut ∧ r'.cutDue = s.now + r.graph.marker * 1800 ∧ t = { s with runs := t.runs })) ∧
    (r.graph.marker = 0 ∨ s.now < r.cutDue → exec .periodicCut s = .next s) ∧
    (∀ i due q, s.ev.idx = i → (r.chan i).fly = { tok := none, due := due } :: q → r.cut.isSome = true →
      (due ≤ s.cycleOf r → ∃ t r', exec .markerArrival s = .next t ∧ t.run s.ev.unit = some r' ∧ (r'.chan i).marked = true ∧ (r'.chan i).fly = q ∧ (r'.chan i).buf = (r.chan i).buf ∧
        (∀ j, j ≠ i → r'.chan j = r.chan j) ∧ t.ctxs = s.ctxs) ∧
      (s.cycleOf r < due → exec .markerArrival s = .next s)) ∧
    (∀ n c, s.ev.sub = 0 → s.ev.idx = n → r.cut = some c → s.maySave r n = true → ∃ t r', exec .elementSave s = .next t ∧ t.run s.ev.unit = some r' ∧
      (((∃ cores, r'.savedElems = r.savedElems ++ n :: cores) ∧ r'.cut.map (·.no) = some c.no ∧ r'.saved = r.saved ∧
        (∀ i, (r'.chan i).fly = if ∃ d, r.graph.chans[i]? = some d ∧ i ∈ r.outputs n ∧ (d.selector = true ∨ r.active d.cnode = true)
          then (r.chan i).fly ++ [{ tok := none, due := s.cycleOf r + 1 }] else (r.chan i).fly)) ∨
       (r'.savedElems = [] ∧ r'.cut = none ∧ r'.saved.map (·.no) = [c.no] ∧ (c.kind = .pause → r'.st = .paused) ∧ (c.kind = .periodic → r'.st = .running))))

/-- ROLLBACK sets an instance to its newest cut: the phase, the held selection and the tokens of its channels are those the cut saved (R186, R188), and its handler's queue is emptied (log entry 49, DEDUCED). FAULT_DELIVERY brings a token of the Flue to its
handler's queue of 16 in a later nanosecond than it was raised in and behind every token that precedes it (R326), or, full, to the fault queue with OVER set; a token of no handler goes to the fault queue, whose index then advances, with an interrupt where enabled (R329, R330, R335). -/
def RollbackAndFaultDelivery : Prop :=
  ∀ (s : State) (r : Run),
    (∀ c, s.run s.ev.unit = some r → r.saved = [c] → r.rolling = true → r.st = .running → r.displaced = false → r.cutReq = none →
      (∀ n d, r.node n = some d → d.kind ≠ 2 ∧ d.kind ≠ 3) → (∀ e ∈ c.chans, ∀ tk ∈ e.2.buf, tk.kind ≠ 2) → (∀ e ∈ c.nodes, ∀ tk, e.2.held = some tk → tk.kind ≠ 2) →
      ∃ t r', exec .rollback s = .next t ∧ t.run s.ev.unit = some r' ∧ r'.rolling = false ∧ r'.st = .running ∧ r'.phase = c.phase ∧ r'.heldSel = c.held ∧
        (∀ i, (r'.chan i).buf = (tget Chan.init c.chans i).buf ∧ (r'.chan i).fly = []) ∧ r'.conds = c.conds ∧ r'.est = c.est ∧ r'.hq = [] ∧ r'.saved = [c] ∧ t.dram = s.dram) ∧
    (r.rolling = false → s.run s.ev.unit = some r → exec .rollback s = .next s) ∧
    (∀ f, s.flue = [f] → s.ev.sub = 0 → s.ev.idx = 0 →
      let v := s.vd f.vd
      let queued (t : State) : Prop := t.flue = [] ∧ (t.vd f.vd).fqidx = (v.fqidx + 1) % 4096 ∧ t.msix = (if v.fqen && s.linkUp then s.msix ++ [(f.vd, v.fqvec.toNat)] else s.msix) ∧ t.runs = s.runs
      (f.run = none → ∃ t, exec .faultDelivery s = .next t ∧ queued t ∧ t.ctxs = s.ctxs ∧ t.cores = s.cores) ∧
      (∀ rid h, f.run = some rid → s.run rid = some r → r.graph.handler = some h → r.st = .running → r.rolling = false →
        (s.time ≤ f.time → exec .faultDelivery s = .next s) ∧
        (f.time < s.time → (∀ d g, d < 4 → g ∈ (s.die d).guards → g.run = f.run → g.sent = true ∨ f.time < g.first) →
        (r.hq.length < 16 → ∃ t r', exec .faultDelivery s = .next t ∧ t.flue = [] ∧ t.run rid = some r' ∧ r'.hq = r.hq ++ [f] ∧ r'.chans = r.chans ∧ t.dram = s.dram ∧ t.vds = s.vds) ∧
        (16 ≤ r.hq.length → ∃ t, exec .faultDelivery s = .next t ∧ queued t))))

/-- Phases, cuts, rollbacks and the delivery of faults follow their rules. -/
def Obligations.PhasesCutsAndFaultsProceed : Prop := PhasesFollowOneAnother ∧ CutsAreTaken ∧ RollbackAndFaultDelivery
/-! ## The host's commands -/

/-- A command that port `port` of virtual device `vd` accepts and dispatches at once: the device is up, nothing waits at its ports, what was written through its BAR 2 has arrived, SEQ is the next, and no field of
the header is refused (R67, R71, R72, R73). -/
structure Accepts (s : State) (vd port : Nat) (c : Cmd) : Prop where
  up : s.up = true ∧ s.linkUp = true
  there : vd < 32 ∧ port < 4
  idle : ∀ q, q < 4 → ((s.vd vd).port q).queue = []
  arrived : ∀ a ∈ (s.vd vd).hostq, a.isRead = true
  seq : c.seq = ((s.vd vd).port port).accseq + 1
  ver : (c.ver = 2 ∧ c.p4 = 0 ∧ c.p5 = 0) ∨ c.ver = 3
  format : (s.leaf vd 1).getLsbD (c.ver.toNat - 2) = true
  header : c.mbz = 0 ∧ c.cpl.toNat % 32 = 0 ∧ c.debug = false

/-- The command of a step is accepted, and it has reached its dispatch point: it alone stands in its port, with what is due to its record, if that has come. -/
def Dispatched (t : State) (vd port : Nat) (c : Cmd) (kind : Nat) (due : Option (Nat × Nat × Nat)) : Prop :=
  ∃ e, ((t.vd vd).port port).queue = [e] ∧ e.kind = kind ∧ e.seq = c.seq.toNat ∧ e.dispatched = true ∧ e.done = due ∧ ((t.vd vd).port port).accseq = c.seq

/-- The machine's runs, contexts and cores are as before. -/
def SameRuns (s t : State) : Prop := t.runs = s.runs ∧ t.ctxs = s.ctxs ∧ t.cores = s.cores

/-- A write to a port that is no command counts, and has no other effect: an unknown version in MALF, a SEQ that is not the next in SEQERR, a full port in OVER (R71). HOST_FENCE with nothing before it
completes (R75); QUERY answers a feature leaf as masked, or writes a quote (R91, R92). -/
def QueriesAndFencesComplete : Prop :=
  ∀ (s : State) (vd port : Nat) (c : Cmd) (leaf : BitVec 4),
    let v := s.vd vd
    let p := v.port port
    let full : Nat → Word := fun l => if l = 0 then 0x3FFFF else if l = 1 then 0x3F else 0
    (s.up = true → s.linkUp = true → vd < 32 → port < 4 →
      let counts (f : Port → Port) : Prop := ∃ t, exec (.hostFence vd port c) s = .next t ∧ (t.vd vd).port port = f p ∧ (∀ q, q ≠ port → (t.vd vd).port q = v.port q) ∧
        t = { s with vds := t.vds }
      (c.ver ≠ 2 → c.ver ≠ 3 → counts fun p => { p with malf := p.malf + 1 }) ∧
      (c.ver = 3 → c.seq ≠ p.accseq + 1 → counts fun p => { p with seqerr := p.seqerr + 1 }) ∧
      (c.ver = 3 → c.seq = p.accseq + 1 → 256 ≤ p.queue.length → counts fun p => { p with isOver := p.isOver + 1 })) ∧
    (s.linkUp = false → exec (.hostFence vd port c) s = .next s) ∧
    (Accepts s vd port c →
      (c.p0.toNat < 16 → c.p1 = 0 → c.p2 = 0 → c.p3 = 0 → c.p4 = 0 → c.p5 = 0 → ∃ t, exec (.hostFence vd port c) s = .next t ∧ Dispatched t vd port c 12 (some (0, 0, 0)) ∧ SameRuns s t) ∧
      (c.p0.toNat < 256 → c.p3 = 0 → c.p4 = 0 → c.p5 = 0 → ∃ t, exec (.queryFeatureLeaf vd port leaf c) s = .next t ∧ SameRuns s t ∧
        Dispatched t vd port c 13 (some (0, 0, (if vd = 0 then full leaf.toNat else full leaf.toNat &&& tget (BitVec.allOnes 64) v.featmask leaf.toNat).toNat))) ∧
      (c.p0.toNat < 256 → c.p3 = 0 → c.p4 = 0 → c.p5 = 0 → (s.leaf vd 1).getLsbD 5 = true → s.mapped vd c.p1.toNat 32 false = true → s.mapped vd c.p2.toNat 16752 true = true →
        ∃ t, exec (.queryAttestationQuote vd port c) s = .next t ∧ SameRuns s t ∧ Dispatched t vd port c 13 (some (0, 0, 16752))) ∧
      (c.p0.toNat < 256 → c.p3 ≠ 0 → ∃ t, exec (.queryFeatureLeaf vd port leaf c) s = .next t ∧ SameRuns s t ∧ Dispatched t vd port c 13 (some (1, 0, 0))))

/-- SET_QOS of the physical function: each sub-command does what it names and completes with OK; of a virtual function it completes with PRIV and changes nothing. A change of the strips drops from the TLBs of its cores
what no holder of their columns owns, and leaves all else of them (R86, R94, R97, R98, R99, R60, R297). -/
def QosCommandsComplete : Prop :=
  ∀ (s : State) (vd port : Nat) (c : Cmd), Accepts s vd port c → c.p1.toNat < 256 → c.p0.toNat < 32 →
    let tg := c.p0.toNat
    let w := c.p2.toNat
    let die := w % 4
    let c0 := w / 256 % 32
    let c1 := w / 65536 % 32
    let ok (i : Instr) (f : State → Prop) : Prop := ∃ t, exec i s = .next t ∧ Dispatched t vd port c 11 (some (0, 0, 0)) ∧ SameRuns s t ∧ f t
    let okStrip (i : Instr) (f : State → Prop) : Prop := ∃ t, exec i s = .next t ∧ Dispatched t vd port c 11 (some (0, 0, 0)) ∧ t.runs = s.runs ∧ t.ctxs = s.ctxs ∧ f t ∧
      ∀ k, t.core k = { s.core k with tlb := (t.core k).tlb } ∧ ∀ p ∈ (t.core k).tlb, p ∈ (s.core k).tlb
    let others (t : State) : Prop := ∀ k, k ≠ tg → (t.vd k).grant = (s.vd k).grant
    (vd ≠ 0 → ∀ i, i ∈ [Instr.stripGrant vd port c, .stripRevoke vd port c, .band vd port c, .ways vd port c, .grant vd port c, .ungrant vd port c, .pod vd port c] →
      ∃ t, exec i s = .next t ∧ Dispatched t vd port c 11 (some (2, 0, 0)) ∧ SameRuns s t ∧ t.strips = s.strips ∧ t.bandq = s.bandq ∧ t.podId = s.podId ∧
        ∀ k, (t.vd k).grant = (s.vd k).grant ∧ (t.vd k).ways = (s.vd k).ways) ∧
    (vd = 0 →
      (c.p4 = 0 → c.p5 = 0 →
        (w % 4096 = 0 → c.p3.toNat % 4096 = 0 → c.p3 ≠ 0 → w + c.p3.toNat ≤ 2 ^ 38 - 2 ^ 27 → (∀ k, k < 32 → k ≠ tg → (s.vd k).grant = []) → s.homeRange tg w c.p3.toNat = true →
          (s.vd tg).grant.length < 64 → ok (.grant 0 port c) fun t => (t.vd tg).grant = (s.vd tg).grant ++ [(w, c.p3.toNat)] ∧ others t) ∧
        (∀ g b, c.p3 = 0 → (s.vd tg).grant = g ++ [(b, w)] → w % 4096 = 0 → 0 < w → w < 2 ^ 48 → s.runs = [] → (s.vd tg).objs = [] → (s.vd tg).pages = [] → (s.vd tg).held = [] →
          ok (.ungrant 0 port c) fun t => (t.vd tg).grant = g ∧ others t) ∧
        (c.p3 = 0 → w < 2 ^ 20 → ok (.ways 0 port c) fun t => ∀ d, d < 4 → tget 0xFFFF (t.vd tg).ways d = if w.testBit (16 + d) then BitVec.ofNat 16 w else tget 0xFFFF (s.vd tg).ways d) ∧
        (tg = 0 → w < 64 → c.p3 = 0 → (∀ k ∈ s.colls, k.contribs = []) → ok (.pod 0 port c) fun t => t.podId = w) ∧
        (w &&& 0x1F1F03 = w → c0 ≤ c1 → c.p3 = 0 → s.runs = [] → (∀ p ∈ s.strips, 1 ≤ p.width) → tg ≠ 0 →
          okStrip (.stripRevoke 0 port c) fun t => ∀ p ∈ t.strips, p.die = die → c0 ≤ p.col → p.col + p.width ≤ c1 + 1 → tg ∉ p.holders) ∧
        (w &&& 0x1F1F03 = w → c0 ≤ c1 → c.p3 = 0 → s.runs = [] → tg ≠ 0 → (∀ p ∈ s.strips, p.shared = false ∧ p.holders = [0]) →
          okStrip (.stripGrant 0 port c) fun t => (∃ p ∈ t.strips, p.die = die ∧ p.col = c0 ∧ p.width = c1 + 1 - c0 ∧ p.shared = false ∧ p.holders = [tg]) ∧
            ∀ p ∈ t.strips, tg ∈ p.holders → p.die = die ∧ p.col = c0)) ∧
      (let cls := w % 16
       let inst := w / 256 % 4096
       let fl := c.p3.toNat % 2 ^ 32
       let ce := c.p3.toNat / 2 ^ 32
       w &&& 0xFFFFFF0F = w → w / 2 ^ 20 = inst → cls ≤ 8 → inst < dampCount cls → fl ≤ ce → ce ≤ dampCap cls inst → (cls = 8 → fl = 0) → 0 < c.p4.toNat → c.p4.toNat < 256 → c.p5 = 0 →
         c.ver = 3 → s.bandq = [] → (s.damper (dampKey cls inst)).floor = [] → ok (.band 0 port c) fun t => t.bandq = [(dampKey cls inst, tg, fl, ce, c.p4.toNat)]))

/-- LOAD_OBJECT of an object that passes its checks adds it under the next handle; UNLOAD_OBJECT withdraws one that has no instance; MAP adds pages of the grant and UNMAP begins to withdraw one
(R84, R290, R291, R303). -/
def ObjectAndPageCommandsComplete : Prop :=
  ∀ (s : State) (vd port : Nat) (c : Cmd), Accepts s vd port c →
    let v := s.vd vd
    (∀ bs g u, c.p2 = 0 → c.p3 = 0 → c.p4 = 0 → c.p5 = 0 → c.p0.toNat % 8 = 0 → c.p1.toNat ≤ 2 ^ 32 →
      (let s1 := s.accept vd port 1 c
       s1.mapped vd c.p0.toNat c.p1.toNat false = true ∧ s1.vBytes vd c.p0.toNat c.p1.toNat = some bs ∧ s1.checkObject vd c.p1.toNat bs = .ok g ∧ loadObj vd s1 c = .ok u) →
      ∃ t o, exec (.loadObject vd port c) s = .next t ∧ Dispatched t vd port c 1 (some (0, 0, v.nextHandle)) ∧ (t.vd vd).objs = v.objs ++ [o] ∧ o.handle = v.nextHandle ∧ o.graph = g ∧
        o.code = sectBytes bs (readSects bs) 2 ∧ o.dataImg = sectBytes bs (readSects bs) 3 ∧ o.digest = sha384 bs ∧ o.signed = isSigned bs ∧ o.unloading = false ∧
        (t.vd vd).nextHandle = v.nextHandle % (2 ^ 32 - 1) + 1 ∧ SameRuns s t) ∧
    (∀ o, c.p1 = 0 → c.p2 = 0 → c.p3 = 0 → c.p4 = 0 → c.p5 = 0 → v.objs = [o] → o.handle = c.p0.toNat → o.unloading = false →
      ((∀ r ∈ s.runs, r.vd ≠ vd ∨ r.handle ≠ o.handle) → ∃ t, exec (.unloadObject vd port c) s = .next t ∧ Dispatched t vd port c 2 none ∧ (t.vd vd).objs = [{ o with unloading := true }] ∧
        (∀ p ∈ (t.vd vd).pages, p ∈ v.pages) ∧ t.runs = s.runs ∧ t.ctxs = s.ctxs) ∧
      (∀ r ∈ s.runs, r.vd = vd → r.handle = o.handle → ∃ t, exec (.unloadObject vd port c) s = .next t ∧ Dispatched t vd port c 2 (some (5, 0, 0)) ∧ (t.vd vd).objs = [o] ∧ SameRuns s t)) ∧
    (let z := if c.p2.toNat % 4 = 0 then 2 ^ 12 else if c.p2.toNat % 4 = 1 then 2 ^ 21 else if c.p2.toNat % 4 = 2 then 2 ^ 30 else 2 ^ 36
     ∀ b l, c.p2.toNat < 8 → c.p4 = 0 → c.p5 = 0 → c.p0.toNat % z = 0 → c.p1.toNat = z → c.p3.toNat % z = 0 → c.p0.toNat + z ≤ 2 ^ 55 → v.grant = [(b, l)] → b % z = 0 → c.p3.toNat + z ≤ l →
       (∀ q ∈ v.pages, q.va + q.size ≤ c.p0.toNat ∨ c.p0.toNat + z ≤ q.va) → s.areas vd = [] →
       ∃ t, exec (.map vd port c) s = .next t ∧ Dispatched t vd port c 9 (some (0, 0, 0)) ∧ SameRuns s t ∧
         (t.vd vd).pages = v.pages ++ [{ vd := vd, va := c.p0.toNat, size := z, pa := b + c.p3.toNat, writable := c.p2.getLsbD 2, sync := false }]) ∧
    (∀ p, c.p2 = 0 → c.p3 = 0 → c.p4 = 0 → c.p5 = 0 → v.pages = [p] → p.vd = vd → p.va = c.p0.toNat → p.size = c.p1.toNat → 0 < p.size → p.va + p.size ≤ 2 ^ 55 →
      ∃ t, exec (.unmap vd port c) s = .next t ∧ Dispatched t vd port c 10 none ∧ (t.vd vd).pages = [] ∧ (∀ d, d < 4 → (t.die d).tgen = (s.die d).tgen + 1 ∧ p ∉ (t.die d).tlb) ∧
        t.runs = s.runs ∧ t.ctxs = s.ctxs ∧ t.edgeRel.length ≥ s.edgeRel.length)

/-- LAUNCH and REPLACE whose checks pass send their request to the Lathe; PAUSE asks a running instance for its cut and RESUME lets a paused one go on; ABORT stops an instance, and removes it once nothing that it has
issued is under way (R309), and SNAPSHOT writes the image of a paused one (R72, R75, R76, R172, R179, R188, R189). The instruction LAUNCH, its context's own writes done, sends its request and parks until its
child's start (R441). -/
def InstanceCommandsComplete : Prop :=
  ∀ (s : State) (vd port : Nat) (c : Cmd) (r : Run), Accepts s vd port c →
    let key := (vd, port, c.seq.toNat)
    (∀ o ps, (launchChecks vd (s.accept vd port 3 c) c = .ok (o, ps)) → ∃ t q e, exec (.launch vd port c) s = .next t ∧ t.lathe = s.lathe ++ [q] ∧ q.vd = vd ∧ q.handle = c.p0.toNat ∧
      q.region = c.p2.toNat ∧ q.record = c.p3.toNat ∧ q.params = ps ∧ q.cmd = some key ∧ q.parent = none ∧ q.replace = none ∧ ((t.vd vd).port port).queue = [e] ∧ e.dispatched = false ∧ e.done = none ∧
      SameRuns s t) ∧
    (s.run c.p0.toNat = some r → r.vd = vd → c.p3 = 0 → c.p4 = 0 → c.p5 = 0 →
      (c.p1 = 0 → c.p2 = 0 → r.st = .running → r.cut = none → ∃ t r', exec (.pause vd port c) s = .next t ∧ Dispatched t vd port c 4 none ∧ t.run r.id = some r' ∧ r'.cutReq = some .pause ∧
        r'.pauseCmds = r.pauseCmds ++ [key] ∧ r'.st = .running ∧ r'.chans = r.chans ∧ t.ctxs = s.ctxs ∧ t.cores = s.cores) ∧
      (c.p1 = 0 → c.p2 = 0 → r.st = .paused → ∃ t, exec (.pause vd port c) s = .next t ∧ Dispatched t vd port c 4 (some (4, 0, 0)) ∧ SameRuns s t) ∧
      (∀ k, c.p1 = 0 → c.p2 = 0 → r.st = .paused → r.away = false → r.saved = [k] → (∀ n d, r.node n = some d → d.kind ≠ 2 ∧ d.kind ≠ 3) → (∀ e ∈ k.chans, ∀ tk ∈ e.2.buf, tk.kind ≠ 2) →
        (∀ e ∈ k.nodes, ∀ tk, e.2.held = some tk → tk.kind ≠ 2) →
        ∃ t r', exec (.resume vd port c) s = .next t ∧ Dispatched t vd port c 5 none ∧ t.run r.id = some r' ∧ r'.st = .running ∧ r'.phase = k.phase ∧ r'.resumeCmd = some key ∧
          ∀ i, (r'.chan i).buf = (tget Chan.init k.chans i).buf) ∧
      (c.p1 = 0 → c.p2 = 0 → r.st = .running → ∃ t, exec (.resume vd port c) s = .next t ∧ Dispatched t vd port c 5 (some (4, 0, 0)) ∧ SameRuns s t) ∧
      ((s.leaf vd 1).getLsbD 4 = true → c.p1.toNat < 2 ^ 24 → c.p1.toNat % 2 ^ 8 ≤ 3 → c.p1.toNat / 2 ^ 16 ≤ 32 → c.p2 = 0 → r.st = .paused →
        ∃ t q, exec (.replace vd port c) s = .next t ∧ Dispatched t vd port c 6 none ∧ t.lathe = s.lathe ++ [q] ∧ q.replace = some r.id ∧ q.region = c.p1.toNat ∧ q.cmd = some key ∧ SameRuns s t) ∧
      (c.p1 = 0 → c.p2 = 0 → s.colls = [] → (∀ e ∈ r.nodes, e.2.run = false) → r.pauseCmds = [] → r.st = .running → r.away = false → r.cmd = none → r.resumeCmd = none → r.parent = none →
        (s.quiet r = true → (∀ f ∈ s.flue, f.vd ≠ r.vd ∨ f.inst ≠ r.id % 2 ^ 16) →
          ∃ t, exec (.abort vd port c) s = .next t ∧ Dispatched t vd port c 7 (some (0, 0, 0)) ∧ t.run r.id = none ∧ t.flue = s.flue) ∧
        (s.quiet r = false → ∃ t r', exec (.abort vd port c) s = .next t ∧ Dispatched t vd port c 7 none ∧ t.run r.id = some r' ∧ r'.st = .halted 0x101 ∧ t.ctxs = s.ctxs ∧ t.cores = s.cores ∧ t.flue = s.flue)) ∧
      (∀ k, (s.leaf vd 1).getLsbD 4 = true → r.st = .paused → r.saved = [k] → s.mapped vd c.p1.toNat (k.image r).length true = true → (k.image r).length ≤ c.p2.toNat →
        ∃ t, exec (.snapshot vd port c) s = .next t ∧ Dispatched t vd port c 8 (some (0, 0, (k.image r).length)) ∧ SameRuns s t)) ∧
    (∀ (cid : Nat) (h : Hdr) (a b x : Reg) (dbg : Bool) (o : Obj), Issues s cid h [(0, 11)] 0 → s.ctxRun cid = some r → (s.ctx cid).role.isOp = true → s.ownEntries cid = [] →
      let u := s.ctx cid
      s.unacked cid = false → s.object r.vd (u.xr a).toNat = some o → o.signed = false → (u.xr b) = 0 → (u.xr x).toNat < 2 ^ 24 → (u.xr x).toNat % 256 ≤ 3 → s.hasInstance r.vd (u.xr a).toNat = false →
      ∀ ps, o.graph.defaults o.dataBase o.constBase = some ps → (o.launched ps).isSome = true →
      ∃ t q, exec (.deviceLaunch h a b x dbg) s = .next t ∧ t.lathe = s.lathe ++ [q] ∧ q.vd = r.vd ∧ q.handle = (u.xr a).toNat ∧ q.region = (u.xr x).toNat ∧ q.params = ps ∧ q.parent = some cid ∧
        q.leaves = r.leaves ∧ q.debug = dbg ∧ (t.ctx cid).park.map (·.kind) = some .launch ∧ (t.ctx cid).pc = u.pc + 8 ∧ SameRegs u (t.ctx cid) ∧ SameMemories s t cid)

/-- COMMAND_DISPATCH dispatches the next command of a port that nothing holds back; a written APBASE is in force from the first dispatch point of any port, and that of a LAUNCH is where the Lathe serves it (R75, R85;
log entry 84, DESIGN CHOICE). COMMAND_COMPLETION of a command that is due writes its record of 32 bytes where CPL says, raises its interrupt where asked, and takes it from its port; a record that the host refuses, an event
with sub 1, is logged in the AER list (R72, R75, R77; log entry 83, DESIGN CHOICE). LATHE_PLACE serves no request that its Damper has not granted, and drops one whose context is gone (log entry 48, DEDUCED); one that it
serves is checked at its dispatch point, its parameters and its leaves taken there (R74, R76, R82, R89, R101, R137). -/
def CommandsAreDispatchedAndCompleted : Prop :=
  ∀ (s : State) (vd port : Nat) (e : Pending),
    (((s.vd vd).port port).queue = [e] → (∀ a ∈ (s.vd vd).hostq, a.isRead = true) → e.dispatched = false → e.begun = false → e.fence = [] → e.kind = 12 → e.cmd.mbz = 0 → e.cmd.cpl.toNat % 32 = 0 → e.cmd.debug = false →
      (s.leaf vd 1).getLsbD (e.cmd.ver.toNat - 2) = true → e.cmd.p0.toNat < 16 → e.cmd.p1 = 0 → e.cmd.p2 = 0 → e.cmd.p3 = 0 → e.cmd.p4 = 0 → e.cmd.p5 = 0 → e.done = none →
      ∃ t, exec (.commandDispatch vd port) s = .next t ∧ ((t.vd vd).port port).queue = [{ e with dispatched := true, done := some (0, 0, 0) }] ∧
        (t.vd vd).apbase = (s.vd vd).apNext.getD (s.vd vd).apbase ∧ (t.vd vd).apNext = none ∧ SameRuns s t ∧ t.dram = s.dram) ∧
    (((s.vd vd).port port).queue = [] → exec (.commandDispatch vd port) s = .next s) ∧
    (∀ st f res (seq : BitVec 32), ((s.vd vd).port port).queue = [e] → e.seq = seq.toNat → e.done = some (st, f, res) → st < 256 → f < 128 → e.kind < 256 → port < 256 → res < 2 ^ 64 →
      let rec' := natLe 8 (e.seq + port * 2 ^ 32 + e.kind * 2 ^ 40 + st * 2 ^ 48 + f * 2 ^ 56) ++ natLe 8 res ++ natLe 8 s.time ++ natLe 8 (e.jidx + 2 ^ 63)
      let at' := e.cmd.cpl.toNat / 32 * 32
      ∃ t, exec (.commandCompletion vd port seq) s = .next t ∧ ((t.vd vd).port port).queue = [] ∧
        (s.ev.sub ≠ 1 → (∀ i, i < 32 → mget t.hostMem (at' + i) = rec'.getD i 0) ∧ (∀ a, a < at' ∨ at' + 32 ≤ a → mget t.hostMem a = mget s.hostMem a) ∧ t.aer = s.aer) ∧
        (s.ev.sub = 1 → t.hostMem = s.hostMem ∧ t.aer = s.aer ++ [(vd, at')]) ∧ t.msix = (if e.cmd.irq && s.linkUp then s.msix ++ [(vd, e.cmd.vec.toNat)] else s.msix) ∧ SameRuns s t) ∧
    (∀ q, s.lathe[s.ev.idx]? = some q →
      (q.owed ≠ 0 → exec .lathePlace s = .next s) ∧
      (∀ cid, q.owed = 0 → q.parent = some cid → s.unacked cid = false → (∀ x ∈ s.lathe.take s.ev.idx, x.vd ≠ q.vd) → (∀ p, (s.ctx cid).park = some p → p.kind ≠ .launch) →
        exec .lathePlace s = .next { s with lathe := s.lathe.take s.ev.idx ++ s.lathe.drop (s.ev.idx + 1) }) ∧
      (∀ key c st, q.owed = 0 → q.parent = none → q.replace = none → s.ev.idx = 0 → q.cmd = some key → s.pending key = some c → c.done = none →
        (({ s with lathe := s.lathe.drop 1 } : State).applyAp q.vd).atDispatch q = .error st →
        ∃ t c', exec .lathePlace s = .next t ∧ t.lathe = s.lathe.drop 1 ∧ t.pending key = some c' ∧ c'.done = some (st, 0, 0) ∧ SameRuns s t) ∧
      (∀ (q' : LatheReq) (o : Obj) (g : Graph) (rg : Region) (a : Att) (u : State), q.owed = 0 → q.parent = none → q.replace = none → s.ev.idx = 0 → o.launched q'.params = some g →
        (let s0 : State := { s with lathe := s.lathe.drop 1 }
         let s1 := if q.cmd.isSome then s0.applyAp q.vd else s0
         s1.atDispatch q = .ok (q', o) ∧
         s1.tryRegions g (fun _ => g.pins) (fun _ _ => true) (s1.noRegion none q.vd g q.region) (s1.candidates none q.vd g q.region) = .ok (rg, a) ∧
         (s1.cachePlace (cacheKey q.vd q.handle) (o.graph.usedParams q'.params) rg a).startRun q' o g rg a = some u) → (∀ (n : Nat) (d : NodeD), g.nodes[n]? = some d → d.kind ≠ 2 ∧ d.kind ≠ 3) →
        ∃ t r, exec .lathePlace s = .next t ∧ t.lathe = s.lathe.drop 1 ∧ t.nextRun = s.nextRun + 1 ∧ r ∈ t.runs ∧ r.id = s.nextRun ∧ r.st = .running ∧ r.phase = 0 ∧ r.graph = g ∧ r.vd = q.vd ∧
          r.handle = q.handle ∧ r.die = rg.die ∧ r.col = rg.col ∧ r.width = rg.width ∧ r.place = a.place ∧ r.params = q'.params ∧ r.leaves = q'.leaves))

/-- The host's commands are accepted, dispatched and completed as their rules say. -/
def Obligations.HostCommandsComplete : Prop :=
  QueriesAndFencesComplete ∧ QosCommandsComplete ∧ ObjectAndPageCommandsComplete ∧ InstanceCommandsComplete ∧ CommandsAreDispatchedAndCompleted
/-! ## Registers, fuses and BAR 2 -/

/-- The fields of a register written by the host take the values written, bounded as their rules say, and nothing else changes: CHCAP, VDPOL, VDQPOL, FEATMASK, BELCTL, the fault queue's EN and VEC, and
the write-one-to-clear bits of CHSTAT; APBASE waits for the next dispatch point; a read-only register ignores a write, and the Resizable BAR capability sets the
aperture (R7, R49, R53, R66, R68, R83, R85, R89, R99, R247, R335). That the physical function alone writes APBASE, its own, is log entry 60 (DEDUCED); that VDQPOL holds CTMO and LMIN as written is entry 64 (DEDUCED);
that a write of the capability is REGISTER_WRITE with sub 1 and that APBASE's bits below the aperture's size are cleared is entry 84 (DESIGN CHOICE). -/
def RegistersAreWritten : Prop :=
  ∀ (s : State) (n m : Nat) (value : Word),
    let w := value.toNat
    let onDie (i : Instr) (d : Die) : Prop := ∃ t, exec i s = .next t ∧ t.die n = d ∧ (∀ k, k ≠ n → t.die k = s.die k) ∧ t = { s with dies := t.dies }
    let onVd (i : Instr) (v : Vd) : Prop := ∃ t, exec i s = .next t ∧ t.vd n = v ∧ (∀ k, k ≠ n → t.vd k = s.vd k) ∧ t = { s with vds := t.vds }
    let d := s.die n
    let v := s.vd n
    (s.ev.sub ≠ 1 → n < 4 →
      onDie (.chcapWrite n value) { d with boilw := max 180 (min 720 (w / 2 ^ 32 % 2 ^ 16)), capw := max 180 (min 720 (w / 2 ^ 16 % 2 ^ 16)), capEn := value.getLsbD 0 } ∧
      onDie (.belctlWrite n value) { d with dmax := max 16 (min 14400 (w % 2 ^ 16)) } ∧
      onDie (.registerWrite 0 (0x20008 + 0x100 * n) value)
        { d with trip := d.trip && !value.getLsbD 3, therm := d.therm && !value.getLsbD 2, boil := d.boil && !value.getLsbD 1, capped := d.capped && !value.getLsbD 0 }) ∧
    (s.ev.sub ≠ 1 → n < 32 →
      onVd (.vdpolWrite n value) { v with domok := value.extractLsb' 8 6, signreq := value.getLsbD 0 } ∧
      onVd (.vdqpolWrite n value) { v with ctmo := w / 2 ^ 18 % 2 ^ 14, ghalt := value.getLsbD 17, lmin := w % 2 ^ 17 } ∧
      (n = 0 → onVd (.registerWrite n 0x4010 value) { v with apNext := some (BitVec.ofNat 64 (w % 2 ^ 56 / 2 ^ v.aper * 2 ^ v.aper)) }) ∧
      (n ≠ 0 → exec (.registerWrite n 0x4010 value) s = .next s) ∧
      onVd (.registerWrite n 0x4038 value) { v with fqen := value.getLsbD 3, fqvec := value.extractLsb' 0 3 } ∧
      (∀ off, off ∈ [0x4000, 0x4008, 0x4018, 0x4020, 0x4028, 0x4030] → exec (.registerWrite n off value) s = .next s)) ∧
    (s.ev.sub = 1 → n < 32 → w ≤ 8 → onVd (.registerWrite n m value) { v with aper := 30 + w }) ∧
    (0 < n → n < 32 → m < 16 → ∃ t, exec (.featmaskWrite n m value) s = .next t ∧
      (∀ l, tget (BitVec.allOnes 64) (t.vd n).featmask l = if l = m then (if m = 0 then value ||| 1 else value) else tget (BitVec.allOnes 64) v.featmask l) ∧
      t.vd n = { v with featmask := (t.vd n).featmask } ∧ (∀ k, k ≠ n → t.vd k = s.vd k) ∧ t = { s with vds := t.vds }) ∧
    (∀ l, exec (.featmaskWrite 0 l value) s = .next s)

/-- FUSE_ADVANCE makes a request, of what stands in IMBUF or over I3C, that shows BUSY until it ends; a second one over I3C ends with BUSY, and a write of IMCMD then is ignored. The end of a request that verifies blows the
fuses of its domain up to its count; one that does not verify, whose count is not above the present or above 64, or that names another package, changes no fuse (R81, R87). That a DOMAIN above 7 is BADREQ, a COUNT above 64
STATE, and that a request over I3C sets IMSTAT is log entry 59 (DEDUCED). -/
def FusesAdvance : Prop :=
  ∀ (s : State) (bs : List Byte),
    let d := fld bs 4 1
    let n := fld bs 5 1
    let whole : Prop := fld bs 0 4 = 0x00535546 ∧ fld bs 6 2 = 0 ∧ (∀ i, i < 16 → (bs.drop (48 + i)).headD 0 = 0) ∧ d ≤ 7
    let verified := sigVerifies 0 (sha384 (bs.take 64)) ((bs.drop 64).take 16624)
    let asked : ImReq := { op := 1, len := 16688, bytes := bs }
    (∀ len : BitVec 32, s.ev.sub ≠ 1 →
      (s.imreq = none → exec (.fuseAdvance len none) s = .next { s with
        imreq := some { op := 1, len := len.toNat, bytes := (List.range 16688).map fun i => (tget 0 s.imbuf (i / 8)).extractLsb' (8 * (i % 8)) 8 }
        imcmd := BitVec.ofNat 64 (len.toNat * 2 ^ 32 + 1), imstat := BitVec.ofNat 64 (2 ^ 63 + 1) }) ∧
      (s.imreq = none → exec (.fuseAdvance len (some bs)) s = .next { s with imreq := some { op := 1, len := len.toNat, bytes := bs }, imstat := BitVec.ofNat 64 (2 ^ 63 + 1) }) ∧
      (s.imreq.isSome = true → exec (.fuseAdvance len (some bs)) s = .next { s with imstat := BitVec.ofNat 64 (2 ^ 63 + 0x401) } ∧ exec (.fuseAdvance len none) s = .next s)) ∧
    (∀ (len : BitVec 32) (i3c : Option (List Byte)), s.ev.sub = 1 → bs.length = 16688 → s.imreq = some asked →
      (whole → verified = true → s.fuse d < n → n ≤ 64 → fld bs 8 8 = Config.serial.toNat →
        ∃ t, exec (.fuseAdvance len i3c) s = .next t ∧ t.fuse d = n ∧ (∀ k, k ≠ d → t.fuse k = s.fuse k) ∧ t.imreq = none ∧ t.imstat = 1 ∧ t.runs = s.runs ∧ t.ctxs = s.ctxs ∧
          t.vds = s.vds) ∧
      (whole → verified = false → exec (.fuseAdvance len i3c) s = .next { s with imreq := none, imstat := 0x201 }) ∧
      (whole → verified = true → n ≤ s.fuse d ∨ 64 < n ∨ fld bs 8 8 ≠ Config.serial.toNat → exec (.fuseAdvance len i3c) s = .next { s with imreq := none, imstat := 0x301 }) ∧
      (¬whole → exec (.fuseAdvance len i3c) s = .next { s with imreq := none, imstat := 0x101 }))

/-- A byte written through BAR 2 lands in the page that APBASE and the offset name, where that is writable, and one read is that page's; a write of no page or of a read-only one is dropped and a read of no page gives ones,
and either counts once in XLERR and posts an XLATE event with its address to the function's fault queue (R66; log entry 66, DEDUCED). It is made at once where every Damper on its way grants it, and waits in its function's queue while the
first of them, the host link's, does not (R67, R101). -/
def Bar2Reaches : Prop :=
  ∀ (s : State) (vd off : Nat) (b : Byte), vd < 32 → off < 2 ^ (s.vd vd).aper → s.up = true → s.linkUp = true → (s.vd vd).hostq = [] →
    let v := s.vd vd
    let va := (v.apbase.toNat + off) % 2 ^ 56
    let free (k : Nat) : Prop := ∀ w ∈ s.waits, w.key ≠ k
    let granted (isRead : Bool) : Prop := let path := s.hostPath vd isRead va
      path.Nodup ∧ ∀ k ∈ path, free k ∧ 16 ≤ (s.damper k).fl vd ∧ 16 ≤ (s.damper k).cl (dampCap (k / 65536) (k % 65536)) vd
    let barred (isRead : Bool) : Prop := let k := dampKey 5 (if isRead then 0 else 1)
      free k ∧ (s.damper k).cl 2000 vd < 16
    let waits (i : Instr) (isRead : Bool) : Prop := ∃ t a, exec i s = .next t ∧ (t.vd vd).hostq = [a] ∧ a.isRead = isRead ∧ a.secs = [(va, [if isRead then 0 else b])] ∧ (t.vd vd).xlerr = v.xlerr ∧
      (∀ x, t.devByte x = s.devByte x) ∧ SameRuns s t
    let errs (t : State) : Prop := (t.vd vd).hostq = [] ∧ (t.vd vd).xlerr = (v.xlerr + 1) % 2 ^ 32 ∧ (t.vd vd).fqidx = (v.fqidx + 1) % 4096 ∧ SameRuns s t ∧
      t.msix = (if v.fqen then s.msix ++ [(vd, v.fqvec.toNat)] else s.msix) ∧
      ∃ f : Flt, f.code = 0x05 ∧ f.vd = vd ∧ (f.bytes.drop 32).take 8 = natLe 8 va ∧ ∀ x, t.devByte x = (s.vWrite vd (fqBase vd + 64 * v.fqidx) f.bytes).devByte x
    (barred false → waits (.bar2Write vd off [b]) false) ∧ (barred true → waits (.bar2Read vd off 1) true) ∧
    (∀ p, s.pageOf vd va = some p →
      let pa := p.pa + (va - p.va)
      let set := tget [] (s.die (pa / 2 ^ 36 % 4)).l2 (l2Key pa)
      let held : Prop := set = [] ∨ ∃ l, set.find? (fun l => l.line == pa / 512) = some l ∧ l.vd = vd
      (granted false → p.writable = true → held → ∃ t, exec (.bar2Write vd off [b]) s = .next t ∧ t.devByte pa = b ∧ (∀ a, a ≠ pa → t.devByte a = s.devByte a) ∧ SameRuns s t ∧ ∀ k, t.vd k = s.vd k) ∧
      (granted false → p.writable = false → ∃ t, exec (.bar2Write vd off [b]) s = .next t ∧ errs t) ∧
      (granted true → ∃ t, exec (.bar2Read vd off 1) s = .next t ∧ t.bar2 = [s.devByte pa] ∧ SameRuns s t ∧ (held → ∀ x, t.devByte x = s.devByte x) ∧ ∀ k, t.vd k = s.vd k)) ∧
    (s.pageOf vd va = none →
      (granted false → ∃ t, exec (.bar2Write vd off [b]) s = .next t ∧ errs t) ∧
      (granted true → ∃ t, exec (.bar2Read vd off 1) s = .next t ∧ t.bar2 = [0xFF] ∧ errs t))

/-- The host's registers, the fuses and BAR 2 do what their rules say. -/
def Obligations.HostRegistersComplete : Prop := RegistersAreWritten ∧ FusesAdvance ∧ Bar2Reaches

/-! ## Power, links, soft errors and quality of service -/

/-- A converter fault lowers the package limit (R46); a rail sample, 10 µs after the one before or later, replaces its word whole and counts it (R48); the Chimney lowers its ceiling or steps its clock by 50 MHz above the cap and returns
below it (R50); a thermal trip kills the graphs of its die (R52); connectors are graded and links train (R54, R55, R62). That the new fire ceiling comes with the event is log entry 61, that the first sample is its own average
entry 81, that BOILW binds at a tie entry 82, and that pending interrupts go as the link trains entry 83 (each DESIGN CHOICE). -/
def PowerEventsComplete : Prop :=
  ∀ (s : State), let e := s.ev
    let d := s.die e.unit
    let onDie (i : Instr) (x : Die) : Prop := ∃ t, exec i s = .next t ∧ t.die e.unit = x ∧ (∀ k, k ≠ e.unit → t.die k = s.die k) ∧ t = { s with dies := t.dies }
    (e.unit < 4 → s.convOk = 15 → exec .converterFault s = .next { s with convOk := 15 - (1 <<< e.unit), pkgLimit := 2380 }) ∧
    (s.convOk.getLsbD e.unit = false → exec .converterFault s = .next s) ∧
    (e.unit < 4 → e.idx < 5 → s.now < tget 0 d.railDue e.idx → exec .railSample s = .next s) ∧
    (e.unit < 4 → e.idx < 5 → tget 0 d.railDue e.idx ≤ s.now → ∃ t, exec .railSample s = .next t ∧ t = { s with dies := t.dies } ∧ (∀ k, k ≠ e.unit → t.die k = s.die k) ∧
      (let w := (tget 0 (t.die e.unit).rails e.idx).toNat
       w / 2 ^ 48 = e.val 0 % 2 ^ 16 ∧ w / 2 ^ 24 % 2 ^ 24 = e.val 1 % 2 ^ 24 ∧ w / 2 ^ 12 % 2 ^ 12 = e.val 2 % 2 ^ 12 ∧ w % 2 ^ 12 = ((tget 0 d.rails e.idx).toNat + 1) % 2 ^ 12) ∧
      (tget [] d.railHist e.idx = [] → tget 0 (t.die e.unit).railAvg e.idx = tget 0 (t.die e.unit).rails e.idx) ∧
      ∀ k, k ≠ e.idx → tget 0 (t.die e.unit).rails k = tget 0 d.rails k) ∧
    (e.unit < 4 → e.val 0 ≤ 840 → d.capEn = true →
      let cap := min (min d.boilw d.capw) (s.pkgLimit / 4)
      let boils := decide (d.boilw ≤ d.capw ∧ d.boilw ≤ s.pkgLimit / 4)
      (cap < d.pavg → e.sub = 0 → e.val 1 < d.fceil → onDie .chimneyStep { d with capped := true, boil := d.boil || boils, fceil := e.val 1 }) ∧
      (cap < d.pavg → e.sub = 1 → (s.now - s.base) % 1800 = 0 → d.cyc = 0 → d.calm = 0 → 950 ≤ d.fclk → d.fceil ≤ 8 * (d.fclk - 50) → d.fPrev ≤ 8 * (d.fclk - 50) →
        onDie .chimneyStep { d with capped := true, boil := d.boil || boils, fclk := d.fclk - 50, calm := s.now }) ∧
      (d.pavg ≤ cap → 4 * d.pinst ≤ 5 * cap → e.sub = 1 → (s.now - s.base) % 1800 = 0 → d.cyc = 0 → d.calm = 0 → d.fclk + 50 ≤ 1800 → onDie .chimneyStep { d with fclk := d.fclk + 50, calm := s.now }) ∧
      (d.pavg ≤ cap → 4 * d.pinst ≤ 5 * cap → e.sub = 0 → d.fclk < 1800 → exec .chimneyStep s = .next s)) ∧
    (e.val 0 < 920 → exec .thermalTrip s = .next s) ∧
    (e.unit < 4 → 920 ≤ e.val 0 → d.tripped = false → ∃ t, exec .thermalTrip s = .next t ∧ (t.die e.unit).tripped = true ∧ (t.die e.unit).trip = true ∧
      (∀ r ∈ s.runs, s.run r.id = some r → r.die = e.unit → r.st = .running → ∃ r', t.run r.id = some r' ∧ r'.st = .halted 0x100) ∧ t.dram = s.dram ∧ t.ctxs = s.ctxs) ∧
    (e.unit ≤ 8 →
      let g := if e.val 0 < 35 ∨ 100 ≤ e.val 1 then 2 else if e.val 0 < 60 ∨ 10 ≤ e.val 1 then 1 else 0
      (tget 0 s.grades e.unit < g → ∃ t, exec .connectorGrade s = .next t ∧ tget 0 t.grades e.unit = g ∧ (∀ k, k ≠ e.unit → tget 0 t.grades k = tget 0 s.grades k) ∧
        (t.vd 0).fqidx = ((s.vd 0).fqidx + 1) % 4096 ∧ SameRuns s t) ∧
      (g ≤ tget 0 s.grades e.unit → exec .connectorGrade s = .next s)) ∧
    (s.booted = false ∨ s.inputOk = false → exec .hostLinkTrain s = .next s) ∧
    (s.booted = true → s.inputOk = true → 5 ≤ e.val 0 → 8 ≤ e.val 1 → ∃ t, exec .hostLinkTrain s = .next t ∧ t.linkUp = true ∧ t.up = true ∧ t.linkGen = min (e.val 0) 7 ∧ t.linkWidth = (if e.val 1 < 16 then 8 else 16) ∧
      (s.linkUp = true → t.grades = s.grades) ∧ (s.linkUp = false → tget 0 t.grades 0 = 0) ∧ (∀ v, v < 32 → (t.vd v).msixPend = 0) ∧
      t = { s with linkUp := t.linkUp, up := t.up, linkGen := t.linkGen, linkWidth := t.linkWidth, grades := t.grades, dampers := t.dampers, msix := t.msix, vds := t.vds }) ∧
    (s.booted = true → s.inputOk = true → e.val 0 < 5 → ∃ t, exec .hostLinkTrain s = .next t ∧ t = { s with linkUp := false, reports := s.reports + 1, dampers := t.dampers }) ∧
    (e.unit < 8 → e.sub ≠ 0 → ∃ t, exec .podLinkRetrain s = .next t ∧ (∀ k, k < 8 → t.podLinks.getLsbD k = (s.podLinks.getLsbD k && k != e.unit)) ∧ t = { s with podLinks := t.podLinks }) ∧
    (e.unit < 8 → e.sub = 0 → s.podLinks.getLsbD e.unit = false → ∃ t, exec .podLinkRetrain s = .next t ∧ (∀ k, k < 8 → t.podLinks.getLsbD k = (s.podLinks.getLsbD k || k == e.unit)) ∧
      tget 0 t.grades (e.unit + 1) = 0 ∧ t = { s with podLinks := t.podLinks, grades := t.grades })

/-- A power-on that verifies and trains opens the command ports with the cells that failed marked unsound; a loss of power keeps at most the reserved areas of DRAM, and the fuses; a reset of the package
ends every instance and keeps the sound maps, the fuses and the links; a function-level reset ends its own instances, gives up its strips and resets its ports, objects and pages (R45, R62, R63, R94). That a package reset keeps DRAM, the links and the pod id, and a loss of power the reserved
areas, is log entry 57 (DEDUCED); that the reset of a function keeps its grant is entry 87 (DESIGN CHOICE). -/
def ResetsComplete : Prop :=
  ∀ (s : State), let e := s.ev
    let blank (t : State) : Prop := t.runs = [] ∧ t.ctxs = [] ∧ t.cores = [] ∧ t.vds = [] ∧ t.dampers = [] ∧ t.lathe = [] ∧ t.colls = [] ∧ t.flue = [] ∧ t.directed = [] ∧ t.strips = State.reset.strips ∧
      t.fuses = s.fuses ∧ t.hostMem = s.hostMem
    (s.up = false → e.sub = 0 → 5 ≤ e.val 0 → 8 ≤ e.val 1 → ∃ t, exec .powerOn s = .next t ∧ blank t ∧ t.up = true ∧ t.linkUp = true ∧ t.linkGen = min (e.val 0) 7 ∧
      t.linkWidth = (if e.val 1 < 16 then 8 else 16) ∧ t.convOk = 15 ∧ t.pkgLimit = 3600 ∧
      ∀ n, n < 4 → (∀ c, c ∈ (t.die n).unsound ↔ c ∈ e.cells ∧ cellDie c = n) ∧ (t.die n).fclk = 1800 ∧ (t.die n).tripped = false) ∧
    (s.up = false → e.sub ≠ 0 → ∃ t, exec .powerOn s = .next t ∧ t.up = false ∧ t.linkUp = false) ∧
    (s.up = true → exec .powerOn s = .next s) ∧
    (∃ t, exec .powerFail s = .next t ∧ blank t ∧ t.up = false ∧ t.linkUp = false ∧ t.convOk = 0 ∧ (e.sub ≠ 0 → t.dram = []) ∧
      ∀ a, a < 0x3FF8000000 ∨ 0x4000000000 ≤ a → mget t.dram a = 0) ∧
    (∃ t, exec .packageReset s = .next t ∧ blank t ∧ t.up = s.up ∧ t.linkUp = s.linkUp ∧ t.convOk = s.convOk ∧ t.podId = s.podId ∧ t.booted = s.booted ∧
      (∀ n, n < 4 → (t.die n).unsound = (s.die n).unsound ∧ (t.die n).sgen = (s.die n).sgen ∧ (t.die n).fclk = 1800) ∧ ((∀ n, n < 4 → (s.die n).l2 = []) → t.dram = s.dram)) ∧
    (0 < e.unit → e.unit < 32 → s.lathe = [] → s.colls = [] → (∀ r ∈ s.runs, r.vd = e.unit → ∀ k ∈ r.nodes, k.2.run = false) → (∀ p ∈ s.strips, p.die < 4 ∧ 1 ≤ p.width ∧ p.col + p.width ≤ 32) → ∃ t, exec .vfFlr s = .next t ∧
      (∀ r ∈ t.runs, r.vd ≠ e.unit ∧ r ∈ s.runs) ∧ (∀ p ∈ t.strips, e.unit ∉ p.holders) ∧ t.fuses = s.fuses ∧
      (let v := t.vd e.unit
       v.objs = [] ∧ v.pages = [] ∧ (∀ p, v.port p = Port.init) ∧ v.grant = (s.vd e.unit).grant ∧ v.fqidx = 0 ∧ v.fqen = false)) ∧
    (e.unit = 0 → exec .vfFlr s = .next s)

/-- A corrected error is counted alone; an uncorrectable one in DRAM, which is read for a sector that no L2 line holds, poisons its sector, and in a core's object it halts the instance there, or rolls it back where it may (R339, R340). A parity error in an
L2 tag drops the line and is told to its owner, in an entry of its fault queue, whose write alone may take the set again (R114). -/
def SoftErrorsComplete : Prop :=
  ∀ (s : State) (pa core n : Nat) (r : Run), let e := s.ev
    (e.sub = 1 → e.site = some (.dram pa) → ∃ t, exec .ecc s = .next t ∧ (t.die (paDie pa)).corr = ((s.die (paDie pa)).corr + 1) % 2 ^ 32 ∧ t = { s with dies := t.dies }) ∧
    (e.sub = 0 → e.site = some (.dram pa) → (s.l2Holder pa).any (fun l => s.l2Has l.vd pa) = true → exec .ecc s = .next s) ∧
    (e.sub = 0 → e.site = some (.dram pa) → (s.l2Holder pa).any (fun l => s.l2Has l.vd pa) = false → ∃ t, exec .ecc s = .next t ∧ (t.die (paDie pa)).uncorr = ((s.die (paDie pa)).uncorr + 1) % 2 ^ 32 ∧
      (∀ a, t.poisoned a = (s.poisoned a || decide (a / 128 = pa / 128))) ∧ t.dram = s.dram ∧ SameRuns s t) ∧
    (e.sub = 0 → e.site = some (.accum core n) → s.regionRun core = some r → r.st = .running → s.run r.id = some r → ∃ t r' f, exec .ecc s = .next t ∧
      (t.die (dieOf core)).uncorr = ((s.die (dieOf core)).uncorr + 1) % 2 ^ 32 ∧ t.flue = s.flue ++ [f] ∧ f.code = 0x14 ∧ f.vd = r.vd ∧ t.run r.id = some r' ∧
      (r.eligible = true → r'.rolling = true ∧ r'.st = .running) ∧ (r.eligible = false → r'.st = .halted 0x14) ∧ t.ctxs = s.ctxs ∧ t.cores = s.cores) ∧
    (∀ l key, e.sub = 0 → e.unit < 4 → e.idx = key → key < 8192 → e.val 0 < 16 → tget [] (s.die e.unit).l2 key = [l] → l.way = e.val 0 → (∀ u ∈ s.runs, u.vd ≠ l.vd) →
      ∃ t, exec .tagpar s = .next t ∧ (t.die e.unit).uncorr = ((s.die e.unit).uncorr + 1) % 2 ^ 32 ∧ (t.vd l.vd).fqidx = ((s.vd l.vd).fqidx + 1) % 4096 ∧ SameRuns s t ∧
        ((∀ pa, s.toPa l.vd (fqBase l.vd + 64 * (s.vd l.vd).fqidx) = some pa → paDie pa = e.unit → l2Key pa ≠ key) → tget [] (t.die e.unit).l2 key = []))

/-- A refill adds its rate to every bucket, cut to the depth (R103); a round grants the head that its FLOOR and CEIL buckets pay for, and charges both (R104), for the sectors that an access waits to send among others (R101); a shared strip without an occupant takes the
one that has work (R109), and the expiry of the grace marks the strip as yielding (R109). What a round serves beside the requests of the machine comes with its event, which is log entry 53 (DESIGN CHOICE). -/
def QosEventsComplete : Prop :=
  ∀ (s : State), let e := s.ev
    (s.now * 2 / 225 ≤ s.refills → exec .damperRefill s = .next s) ∧
    (∀ key d, s.refills < s.now * 2 / 225 → s.bandq = [] → s.dampers = [(key, d)] → key / 65536 < 8 → (d.floor.map (·.2)).sum ≤ s.usable (key / 65536) (key % 65536) →
      ∃ t, exec .damperRefill s = .next t ∧ t.refills = s.refills + 1 ∧ ∀ v, v < 32 →
        let cap := dampCap (key / 65536) (key % 65536)
        let u := t.damper key
        u.flRate v = d.flRate v ∧ u.clRate cap v = d.clRate cap v ∧ u.fl v = min (d.fl v + d.flRate v) (64 * d.flRate v) ∧ u.cl cap v = min (d.cl cap v + d.clRate cap v) (64 * d.clRate cap v)) ∧
    (∀ v cost, e.unit = 0 → e.sub < 256 → e.vals = [v, cost] → v < 32 → (∀ w ∈ s.waits, w.key ≠ dampKey 0 e.sub) →
      let key := dampKey 0 e.sub
      let d := s.damper key
      16 * cost ≤ d.fl v → 16 * cost ≤ d.cl 1000 v → ∃ t, exec .damperRound s = .next t ∧ t = { s with dampers := t.dampers } ∧ (∀ k, k ≠ key → t.damper k = s.damper k) ∧
        (t.damper key).last0 = v ∧ (t.damper key).fl v = d.fl v - 16 * cost ∧ (t.damper key).cl 1000 v = d.cl 1000 v - 16 * cost ∧
        ∀ u, u ≠ v → (t.damper key).fl u = d.fl u ∧ (t.damper key).cl 1000 u = d.cl 1000 u) ∧
    (∀ (w : Wait) core id, e.unit ≤ 8 → e.sub < dampCount e.unit → e.vals = [] → w.vd < 32 → w.who = .req core id →
      let key := dampKey e.unit e.sub
      let cap := dampCap e.unit e.sub
      s.waits.filter (fun x => x.key == key) = [w] → 16 * w.cost ≤ (s.damper key).fl w.vd → 16 * w.cost ≤ (s.damper key).cl cap w.vd →
      ∃ t, exec .damperRound s = .next t ∧ (t.damper key).last0 = w.vd ∧ (t.damper key).fl w.vd = (s.damper key).fl w.vd - 16 * w.cost ∧
        (t.core core).wq = replaceFirst (fun q => q.id == id) (fun (q : Req) => { q with paid := q.paid + 1, stood := s.now }) (s.core core).wq ∧ t.runs = s.runs ∧ t.ctxs = s.ctxs) ∧
    (∀ p v, s.strips.find? (fun q => q.die == e.unit && q.col == e.idx && q.shared) = some p →
      (p.occ = none → p.holders = [v] → v < 32 → s.workOn p v = true → (∀ r ∈ s.runs, p.holds r.die r.col = true → r.holdsCells = false) →
        let d := s.damper (dampKey 7 (p.die * 32 + p.col))
        16 ≤ d.fl v → 16 ≤ d.cl 1800 v → ∃ t, exec .stripYield s = .next t ∧ ∃ q ∈ t.strips, q.die = p.die ∧ q.col = p.col ∧ q.occ = some v ∧ q.since = s.now ∧ q.yielding = false ∧ q.holders = [v]) ∧
      (p.occ = some v → p.yielding = false → (p.slice + p.grace) * 1800 ≤ s.now - p.since → ∃ t, exec .yieldGraceExpiry s = .next t ∧
        (∃ q ∈ t.strips, q = { p with yielding := true }) ∧ t.ctxs = s.ctxs ∧ t.cores = s.cores ∧ t.dram = s.dram) ∧
      (p.occ = some v → s.now - p.since < (p.slice + p.grace) * 1800 → exec .yieldGraceExpiry s = .next s)) ∧
    (s.strips.find? (fun q => q.die == e.unit && q.col == e.idx && q.shared) = none → exec .stripYield s = .next s ∧ exec .yieldGraceExpiry s = .next s)

/-- Power, resets, soft errors and the arbiters act as their rules say. -/
def Obligations.PowerResetsErrorsAndArbitersAct : Prop := PowerEventsComplete ∧ ResetsComplete ∧ SoftErrorsComplete ∧ QosEventsComplete

/-! ## Invariants and reset -/

/-- No step lowers an anti-rollback count: whatever a step answers a next state for, every count stays at or above where it was (R81). -/
def Obligations.NoStepLowersAFuseCount : Prop :=
  ∀ (s t : State) (low : Nat → Nat), s.fusesAbove low → step s = .next t → t.fusesAbove low

/-- Every step keeps the memories canonical: device memory, the host's memory and every core's memory list rising addresses, none with what an unlisted address reads as. -/
def Obligations.MemoriesStayCanonical : Prop :=
  ∀ (s t : State), s.memOk = true → step s = .next t → t.memOk = true

/-- After reset the memories are canonical, and the registers whose reset values the spec states read so: the caps, BELCTL, VDPOL, VDQPOL, FEATMASK, the ports' status, the fault queue's index; the bands are FLOOR 0,
CEIL = capacity, WEIGHT 1, every strip belongs to virtual device 0, and the way masks are 0xFFFF (R49, R68, R70, R83, R89, R94, R99, R102, R247, R335). -/
def Obligations.ResetLeavesTheStatedValues : Prop :=
  let s := State.reset
  s.memOk = true ∧ s.up = true ∧ s.runs = [] ∧
  (∀ n, n < 4 → s.bar0 0 (0x20000 + 0x100 * n) = 720 * 2 ^ 32 + 720 * 2 ^ 16 + 1 ∧ s.bar0 0 (0x20010 + 0x100 * n) = 720 ∧ s.bar0 0 (0x20018 + 0x100 * n) = 0) ∧
  (∀ v, v < 32 → s.bar0 0 (0x11000 + 0x10 * v) = 0x3F00 ∧ s.bar0 0 (0x11008 + 0x10 * v) = 0 ∧
    (∀ p, p < 4 → s.bar0 v (0x1000 * p + 0x800) = 0 ∧ s.bar0 v (0x1000 * p + 0x808) = 0 ∧ s.bar0 v (0x1000 * p + 0x810) = 0) ∧
    s.bar0 v 0x4008 = 0 ∧ s.bar0 v 0x4010 = 0 ∧ s.bar0 v 0x4018 = 0 ∧ s.bar0 v 0x4020 = BitVec.ofNat 64 v ∧ s.bar0 v 0x4028 = 0 ∧ s.bar0 v 0x4030 = 0 ∧ s.bar0 v 0x4038 = 0) ∧
  (∀ f l, 0 < f → f < 32 → l < 16 → s.bar0 0 (0x10000 + 0x80 * (f - 1) + 8 * l) = BitVec.allOnes 64) ∧
  (∀ cls inst v, cls < 9 → inst < dampCount cls → let d := s.damper (dampKey cls inst)
    d.flRate v = 0 ∧ d.clRate (dampCap cls inst) v = dampCap cls inst ∧ d.wt v = 1 ∧ d.cl (dampCap cls inst) v = 64 * dampCap cls inst ∧ d.fl v = 0 ∧ d.pool = 0 ∧ d.last0 = 31) ∧
  (∀ p ∈ s.strips, p.holders = [0] ∧ p.shared = false) ∧ (∀ v d, s.wayMask v d = 0xFFFF)
end

