-- ==== Sys2Proof/Laws/Encoding.lean ====
section
/-! SUPPORT. The fields of a word that is put together from parts: what each field of a layout takes back, and which layouts' must-be-zero fields are zero. -/
namespace Sys2Proof
namespace Laws

set_option linter.unusedSimpArgs false
set_option Elab.async false


theorem extract_low {n m : Nat} (a : BitVec n) (b : BitVec m) (lo len : Nat) (h : lo + len ≤ m) :
    @BitVec.extractLsb' (no_index (n + m)) lo len (@HAppend.hAppend (BitVec n) (BitVec m) (BitVec (no_index (n + m))) _ a b) = b.extractLsb' lo len := by
  ext i hi
  simp only [BitVec.getElem_extractLsb', BitVec.getLsbD_append]
  have : lo + i < m := by omega
  simp [this]

theorem extract_high {n m : Nat} (a : BitVec n) (b : BitVec m) (lo len : Nat) (h : m ≤ lo) :
    @BitVec.extractLsb' (no_index (n + m)) lo len (@HAppend.hAppend (BitVec n) (BitVec m) (BitVec (no_index (n + m))) _ a b) = a.extractLsb' (lo - m) len := by
  ext i hi
  simp only [BitVec.getElem_extractLsb', BitVec.getLsbD_append]
  have : ¬ lo + i < m := by omega
  have h2 : lo + i - m = lo - m + i := by omega
  simp [this, h2]

theorem extract_all {n : Nat} (a : BitVec n) : a.extractLsb' 0 n = a := by
  ext i hi; simp

theorem zeroAt_eq (w : Word) (lo len : Nat) : zeroAt w lo len = (w.extractLsb' lo len == 0) := by
  unfold zeroAt
  rw [Bool.eq_iff_iff]
  simp [BitVec.toNat_eq, BitVec.extractLsb'_toNat]

theorem extract_zero {n : Nat} (lo len : Nat) : (0#n).extractLsb' lo len = 0#len := by
  ext i hi; simp
/-- A field that spans two parts is zero where both its pieces are. -/
theorem extract_span {n m : Nat} (a : BitVec n) (b : BitVec m) (lo len : Nat) (h : lo < m) (h2 : m < lo + len) :
    (@BitVec.extractLsb' (no_index (n + m)) lo len (@HAppend.hAppend (BitVec n) (BitVec m) (BitVec (no_index (n + m))) _ a b) == 0#len) = ((a.extractLsb' 0 (lo + len - m) == 0#(lo + len - m)) && (b.extractLsb' lo (m - lo) == 0#(m-lo))) := by
  rw [Bool.eq_iff_iff]
  simp only [Bool.and_eq_true, beq_iff_eq]
  constructor
  · intro e
    constructor
    · ext i hi
      have := congrArg (fun v => v.getLsbD (m - lo + i)) e
      simp only [BitVec.getLsbD_extractLsb', BitVec.getLsbD_append, BitVec.getLsbD_zero] at this
      have h3 : ¬ lo + (m - lo + i) < m := by omega
      have h4 : lo + (m - lo + i) - m = i := by omega
      have h5 : m - lo + i < len := by omega
      simpa [h3, h4, h5] using this
    · ext i hi
      have := congrArg (fun v => v.getLsbD i) e
      simp only [BitVec.getLsbD_extractLsb', BitVec.getLsbD_append, BitVec.getLsbD_zero] at this
      have h3 : lo + i < m := by omega
      have h5 : i < len := by omega
      simpa [h3, h5] using this
  · rintro ⟨e1, e2⟩
    ext i hi
    simp only [BitVec.getElem_extractLsb', BitVec.getLsbD_append, BitVec.getElem_zero]
    split
    · have := congrArg (fun v => v.getLsbD i) e2
      have h3 : i < m - lo := by omega
      simpa [h3] using this
    · have := congrArg (fun v => v.getLsbD (lo + i - m)) e1
      have h3 : lo + i - m < lo + len - m := by omega
      simpa [h3] using this

theorem getLsbD_app {n m : Nat} (a : BitVec n) (b : BitVec m) (i : Nat) :
    @BitVec.getLsbD (no_index (n + m)) (@HAppend.hAppend (BitVec n) (BitVec m) (BitVec (no_index (n + m))) _ a b) i = if i < m then b.getLsbD i else a.getLsbD (i - m) := BitVec.getLsbD_append

theorem app_beq_zero {n m : Nat} (a : BitVec n) (b : BitVec m) :
    (@BEq.beq (BitVec (no_index (n + m))) _ (@HAppend.hAppend (BitVec n) (BitVec m) (BitVec (no_index (n + m))) _ a b) (0#(no_index (n + m)))) =
      (a == 0#n && b == 0#m) := by
  rw [Bool.eq_iff_iff]
  simp only [Bool.and_eq_true, beq_iff_eq]
  constructor
  · intro e
    have h1 := extract_high a b m n (Nat.le_refl m)
    have h2 := extract_low a b 0 m (by omega)
    have h1' : a = (a ++ b).extractLsb' m n := by rw [h1, Nat.sub_self, extract_all]
    have h2' : b = (a ++ b).extractLsb' 0 m := by rw [h2, extract_all]
    exact ⟨h1'.trans (by rw [e, extract_zero]), h2'.trans (by rw [e, extract_zero])⟩
  · rintro ⟨rfl, rfl⟩
    simp

theorem ofBool_beq_zero (b : Bool) : (BitVec.ofBool b == 0#1) = !b := by cases b <;> rfl

theorem ofBool_getLsbD_zero (b : Bool) : (BitVec.ofBool b).getLsbD 0 = b := by cases b <;> rfl

theorem extract_ofBool (b : Bool) : (BitVec.ofBool b).extractLsb' 0 1 = BitVec.ofBool b := extract_all _

theorem and_left {a b : Bool} (h : (a && b) = true) : a = true := by simp_all

theorem hdrOf_packR (op : BitVec 8) (h : Hdr) (imm : BitVec 13) (rm : BitVec 3) (ty : BitVec 4) (fn : BitVec 8) (c b a d : Reg) : hdrOf (packR op h imm rm ty fn c b a d) = h := by
  obtain ⟨pn, pr, sw, gap⟩ := h
  simp [-BitVec.getLsbD_eq_getElem, hdrOf, packR, lowBits, extract_low, extract_high, extract_all, getLsbD_app]

theorem fOp_packR (op : BitVec 8) (h : Hdr) (imm : BitVec 13) (rm : BitVec 3) (ty : BitVec 4) (fn : BitVec 8) (c b a d : Reg) : fOp (packR op h imm rm ty fn c b a d) = op.toNat := by
  simp [-BitVec.extractLsb'_toNat, fOp, packR, lowBits, extract_low, extract_high, extract_all]

theorem hdrOf_packI (op : BitVec 8) (h : Hdr) (imm : BitVec 32) (fn : BitVec 6) (a d : Reg) : hdrOf (packI op h imm fn a d) = h := by
  obtain ⟨pn, pr, sw, gap⟩ := h
  simp [-BitVec.getLsbD_eq_getElem, hdrOf, packI, lowBits, extract_low, extract_high, extract_all, getLsbD_app]

theorem fOp_packI (op : BitVec 8) (h : Hdr) (imm : BitVec 32) (fn : BitVec 6) (a d : Reg) : fOp (packI op h imm fn a d) = op.toNat := by
  simp [-BitVec.extractLsb'_toNat, fOp, packI, lowBits, extract_low, extract_high, extract_all]

theorem hdrOf_packB (op : BitVec 8) (h : Hdr) (off : BitVec 32) (cc : BitVec 4) (b a : Reg) : hdrOf (packB op h off cc b a) = h := by
  obtain ⟨pn, pr, sw, gap⟩ := h
  simp [-BitVec.getLsbD_eq_getElem, hdrOf, packB, lowBits, extract_low, extract_high, extract_all, getLsbD_app]

theorem fOp_packB (op : BitVec 8) (h : Hdr) (off : BitVec 32) (cc : BitVec 4) (b a : Reg) : fOp (packB op h off cc b a) = op.toNat := by
  simp [-BitVec.extractLsb'_toNat, fOp, packB, lowBits, extract_low, extract_high, extract_all]

theorem hdrOf_packC (op : BitVec 8) (h : Hdr) (imm : BitVec 20) (fn : BitVec 8) (pd : BitVec 3) (nb v : Bool) (port : BitVec 4) (x : Reg) : hdrOf (packC op h imm fn pd nb v port x) = h := by
  obtain ⟨pn, pr, sw, gap⟩ := h
  simp [-BitVec.getLsbD_eq_getElem, hdrOf, packC, lowBits, extract_low, extract_high, extract_all, getLsbD_app]

theorem fOp_packC (op : BitVec 8) (h : Hdr) (imm : BitVec 20) (fn : BitVec 8) (pd : BitVec 3) (nb v : Bool) (port : BitVec 4) (x : Reg) : fOp (packC op h imm fn pd nb v port x) = op.toNat := by
  simp [-BitVec.extractLsb'_toNat, fOp, packC, lowBits, extract_low, extract_high, extract_all]

theorem hdrOf_packM (op : BitVec 8) (h : Hdr) (m : MemF) : hdrOf (packM op h m) = h := by
  obtain ⟨pn, pr, sw, gap⟩ := h
  simp [-BitVec.getLsbD_eq_getElem, hdrOf, packM, lowBits, extract_low, extract_high, extract_all, getLsbD_app]

theorem fOp_packM (op : BitVec 8) (h : Hdr) (m : MemF) : fOp (packM op h m) = op.toNat := by
  simp [-BitVec.extractLsb'_toNat, fOp, packM, lowBits, extract_low, extract_high, extract_all]

theorem hdrOf_packAtom (op : BitVec 8) (h : Hdr) (m : AtomF) : hdrOf (packAtom op h m) = h := by
  obtain ⟨pn, pr, sw, gap⟩ := h
  simp [-BitVec.getLsbD_eq_getElem, hdrOf, packAtom, lowBits, extract_low, extract_high, extract_all, getLsbD_app]

theorem fOp_packAtom (op : BitVec 8) (h : Hdr) (m : AtomF) : fOp (packAtom op h m) = op.toNat := by
  simp [-BitVec.extractLsb'_toNat, fOp, packAtom, lowBits, extract_low, extract_high, extract_all]

theorem hdrOf_packX (op : BitVec 8) (h : Hdr) (imm : BitVec 8) (t2 t1 : BitVec 4) (c b a d : Reg) : hdrOf (packX op h imm t2 t1 c b a d) = h := by
  obtain ⟨pn, pr, sw, gap⟩ := h
  simp [-BitVec.getLsbD_eq_getElem, hdrOf, packX, lowBits, extract_low, extract_high, extract_all, getLsbD_app]

theorem fOp_packX (op : BitVec 8) (h : Hdr) (imm : BitVec 8) (t2 t1 : BitVec 4) (c b a d : Reg) : fOp (packX op h imm t2 t1 c b a d) = op.toNat := by
  simp [-BitVec.extractLsb'_toNat, fOp, packX, lowBits, extract_low, extract_high, extract_all]

theorem hdrOf_packS (op : BitVec 8) (h : Hdr) (imm : BitVec 20) (fn : BitVec 6) (csr : BitVec 12) (a d : Reg) : hdrOf (packS op h imm fn csr a d) = h := by
  obtain ⟨pn, pr, sw, gap⟩ := h
  simp [-BitVec.getLsbD_eq_getElem, hdrOf, packS, lowBits, extract_low, extract_high, extract_all, getLsbD_app]

theorem fOp_packS (op : BitVec 8) (h : Hdr) (imm : BitVec 20) (fn : BitVec 6) (csr : BitVec 12) (a d : Reg) : fOp (packS op h imm fn csr a d) = op.toNat := by
  simp [-BitVec.extractLsb'_toNat, fOp, packS, lowBits, extract_low, extract_high, extract_all]

theorem fD_packR (op : BitVec 8) (h : Hdr) (imm : BitVec 13) (rm : BitVec 3) (ty : BitVec 4) (fn : BitVec 8) (c b a d : Reg) : fD (packR op h imm rm ty fn c b a d) = d := by
  simp [-BitVec.extractLsb'_toNat, fD, packR, lowBits, extract_low, extract_high, extract_all, extract_span, Bool.and_assoc]

theorem fA_packR (op : BitVec 8) (h : Hdr) (imm : BitVec 13) (rm : BitVec 3) (ty : BitVec 4) (fn : BitVec 8) (c b a d : Reg) : fA (packR op h imm rm ty fn c b a d) = a := by
  simp [-BitVec.extractLsb'_toNat, fA, packR, lowBits, extract_low, extract_high, extract_all, extract_span, Bool.and_assoc]

theorem fB_packR (op : BitVec 8) (h : Hdr) (imm : BitVec 13) (rm : BitVec 3) (ty : BitVec 4) (fn : BitVec 8) (c b a d : Reg) : fB (packR op h imm rm ty fn c b a d) = b := by
  simp [-BitVec.extractLsb'_toNat, fB, packR, lowBits, extract_low, extract_high, extract_all, extract_span, Bool.and_assoc]

theorem fC_packR (op : BitVec 8) (h : Hdr) (imm : BitVec 13) (rm : BitVec 3) (ty : BitVec 4) (fn : BitVec 8) (c b a d : Reg) : fC (packR op h imm rm ty fn c b a d) = c := by
  simp [-BitVec.extractLsb'_toNat, fC, packR, lowBits, extract_low, extract_high, extract_all, extract_span, Bool.and_assoc]

theorem fFnR_packR (op : BitVec 8) (h : Hdr) (imm : BitVec 13) (rm : BitVec 3) (ty : BitVec 4) (fn : BitVec 8) (c b a d : Reg) : fFnR (packR op h imm rm ty fn c b a d) = fn.toNat := by
  simp [-BitVec.extractLsb'_toNat, fFnR, packR, lowBits, extract_low, extract_high, extract_all, extract_span, Bool.and_assoc]

theorem fTy_packR (op : BitVec 8) (h : Hdr) (imm : BitVec 13) (rm : BitVec 3) (ty : BitVec 4) (fn : BitVec 8) (c b a d : Reg) : fTy (packR op h imm rm ty fn c b a d) = ty := by
  simp [-BitVec.extractLsb'_toNat, fTy, packR, lowBits, extract_low, extract_high, extract_all, extract_span, Bool.and_assoc]

theorem fRm_packR (op : BitVec 8) (h : Hdr) (imm : BitVec 13) (rm : BitVec 3) (ty : BitVec 4) (fn : BitVec 8) (c b a d : Reg) : fRm (packR op h imm rm ty fn c b a d) = rm := by
  simp [-BitVec.extractLsb'_toNat, fRm, packR, lowBits, extract_low, extract_high, extract_all, extract_span, Bool.and_assoc]

theorem fImm13_packR (op : BitVec 8) (h : Hdr) (imm : BitVec 13) (rm : BitVec 3) (ty : BitVec 4) (fn : BitVec 8) (c b a d : Reg) : fImm13 (packR op h imm rm ty fn c b a d) = imm := by
  simp [-BitVec.extractLsb'_toNat, fImm13, packR, lowBits, extract_low, extract_high, extract_all, extract_span, Bool.and_assoc]

theorem zR3_packR (op : BitVec 8) (h : Hdr) (imm : BitVec 13) (rm : BitVec 3) (ty : BitVec 4) (fn : BitVec 8) (c b a d : Reg) : zR3 (packR op h imm rm ty fn c b a d) = (imm == 0 && rm == 0 && ty == 0 && c == 0) := by
  simp [-BitVec.extractLsb'_toNat, zR3, zeroAt_eq, app_beq_zero, packR, lowBits, extract_low, extract_high, extract_all, extract_span, Bool.and_assoc]

theorem zR3rm_packR (op : BitVec 8) (h : Hdr) (imm : BitVec 13) (rm : BitVec 3) (ty : BitVec 4) (fn : BitVec 8) (c b a d : Reg) : zR3rm (packR op h imm rm ty fn c b a d) = (imm == 0 && ty == 0 && c == 0) := by
  simp [-BitVec.extractLsb'_toNat, zR3rm, zeroAt_eq, app_beq_zero, packR, lowBits, extract_low, extract_high, extract_all, extract_span, Bool.and_assoc]

theorem zR2_packR (op : BitVec 8) (h : Hdr) (imm : BitVec 13) (rm : BitVec 3) (ty : BitVec 4) (fn : BitVec 8) (c b a d : Reg) : zR2 (packR op h imm rm ty fn c b a d) = (imm == 0 && rm == 0 && ty == 0 && (c == 0 && b == 0)) := by
  simp [-BitVec.extractLsb'_toNat, zR2, zeroAt_eq, app_beq_zero, packR, lowBits, extract_low, extract_high, extract_all, extract_span, Bool.and_assoc]

theorem zVn_packR (op : BitVec 8) (h : Hdr) (imm : BitVec 13) (rm : BitVec 3) (ty : BitVec 4) (fn : BitVec 8) (c b a d : Reg) : zVn (packR op h imm rm ty fn c b a d) = (imm == 0 && rm == 0) := by
  simp [-BitVec.extractLsb'_toNat, zVn, zeroAt_eq, app_beq_zero, packR, lowBits, extract_low, extract_high, extract_all, extract_span, Bool.and_assoc]

theorem zeroAt_31_5_packR (op : BitVec 8) (h : Hdr) (imm : BitVec 13) (rm : BitVec 3) (ty : BitVec 4) (fn : BitVec 8) (c b a d : Reg) : zeroAt (packR op h imm rm ty fn c b a d) 31 5 = (c == 0) := by
  simp [-BitVec.extractLsb'_toNat, zeroAt_eq, app_beq_zero, packR, lowBits, extract_low, extract_high, extract_all, extract_span, Bool.and_assoc]

theorem zeroAt_26_10_packR (op : BitVec 8) (h : Hdr) (imm : BitVec 13) (rm : BitVec 3) (ty : BitVec 4) (fn : BitVec 8) (c b a d : Reg) : zeroAt (packR op h imm rm ty fn c b a d) 26 10 = (c == 0 && b == 0) := by
  simp [-BitVec.extractLsb'_toNat, zeroAt_eq, app_beq_zero, packR, lowBits, extract_low, extract_high, extract_all, extract_span, Bool.and_assoc]

theorem zeroAt_26_5_packR (op : BitVec 8) (h : Hdr) (imm : BitVec 13) (rm : BitVec 3) (ty : BitVec 4) (fn : BitVec 8) (c b a d : Reg) : zeroAt (packR op h imm rm ty fn c b a d) 26 5 = (b == 0) := by
  simp [-BitVec.extractLsb'_toNat, zeroAt_eq, app_beq_zero, packR, lowBits, extract_low, extract_high, extract_all, extract_span, Bool.and_assoc]

theorem zeroAt_44_20_packR (op : BitVec 8) (h : Hdr) (imm : BitVec 13) (rm : BitVec 3) (ty : BitVec 4) (fn : BitVec 8) (c b a d : Reg) : zeroAt (packR op h imm rm ty fn c b a d) 44 20 = (imm == 0 && rm == 0 && ty == 0) := by
  simp [-BitVec.extractLsb'_toNat, zeroAt_eq, app_beq_zero, packR, lowBits, extract_low, extract_high, extract_all, extract_span, Bool.and_assoc]

theorem zeroAt_48_3_packR (op : BitVec 8) (h : Hdr) (imm : BitVec 13) (rm : BitVec 3) (ty : BitVec 4) (fn : BitVec 8) (c b a d : Reg) : zeroAt (packR op h imm rm ty fn c b a d) 48 3 = (rm == 0) := by
  simp [-BitVec.extractLsb'_toNat, zeroAt_eq, app_beq_zero, packR, lowBits, extract_low, extract_high, extract_all, extract_span, Bool.and_assoc]

theorem zeroAt_44_4_packR (op : BitVec 8) (h : Hdr) (imm : BitVec 13) (rm : BitVec 3) (ty : BitVec 4) (fn : BitVec 8) (c b a d : Reg) : zeroAt (packR op h imm rm ty fn c b a d) 44 4 = (ty == 0) := by
  simp [-BitVec.extractLsb'_toNat, zeroAt_eq, app_beq_zero, packR, lowBits, extract_low, extract_high, extract_all, extract_span, Bool.and_assoc]

theorem zeroAt_51_13_packR (op : BitVec 8) (h : Hdr) (imm : BitVec 13) (rm : BitVec 3) (ty : BitVec 4) (fn : BitVec 8) (c b a d : Reg) : zeroAt (packR op h imm rm ty fn c b a d) 51 13 = (imm == 0) := by
  simp [-BitVec.extractLsb'_toNat, zeroAt_eq, app_beq_zero, packR, lowBits, extract_low, extract_high, extract_all, extract_span, Bool.and_assoc]

theorem zeroAt_44_7_packR (op : BitVec 8) (h : Hdr) (imm : BitVec 13) (rm : BitVec 3) (ty : BitVec 4) (fn : BitVec 8) (c b a d : Reg) : zeroAt (packR op h imm rm ty fn c b a d) 44 7 = (rm == 0 && ty == 0) := by
  simp [-BitVec.extractLsb'_toNat, zeroAt_eq, app_beq_zero, packR, lowBits, extract_low, extract_high, extract_all, extract_span, Bool.and_assoc]

theorem fMc_packR (op : BitVec 8) (h : Hdr) (mc : MaskCtl) (rm : BitVec 3) (ty : BitVec 4) (fn : BitVec 8) (c b a d : Reg) :
    fMc (packR op h (mcImm mc) rm ty fn c b a d) = mc := by
  simp [-BitVec.getLsbD_eq_getElem, -BitVec.extractLsb'_toNat, fMc, mcImm, packR, lowBits, extract_low, extract_high, extract_all, getLsbD_app]

theorem zVm_packR (op : BitVec 8) (h : Hdr) (mc : MaskCtl) (rm : BitVec 3) (ty : BitVec 4) (fn : BitVec 8) (c b a d : Reg) :
    zVm (packR op h (mcImm mc) rm ty fn c b a d) = (rm == 0) := by
  simp [zVm, zeroAt_eq, mcImm, packR, lowBits, extract_low, extract_high, extract_all, extract_zero, extract_span]

theorem zVrm_packR (op : BitVec 8) (h : Hdr) (mc : MaskCtl) (rm : BitVec 3) (ty : BitVec 4) (fn : BitVec 8) (c b a d : Reg) :
    zVrm (packR op h (mcImm mc) rm ty fn c b a d) = true := by
  simp [zVrm, zeroAt_eq, mcImm, packR, lowBits, extract_low, extract_high, extract_all, extract_zero, extract_span]

theorem one_getLsbD_zero : (1#1).getLsbD 0 = true := rfl

theorem fMem_packM (op : BitVec 8) (h : Hdr) (m : MemF) : fMem (packM op h m) = m := by
  obtain ⟨disp, sp, ord, scope, sc, sz, b, a, d⟩ := m
  simp [-BitVec.getLsbD_eq_getElem, -BitVec.extractLsb'_toNat, fMem, fD, fA, fB, packM, lowBits, extract_low, extract_high, extract_all, getLsbD_app]

theorem fAtom_packAtom (op : BitVec 8) (h : Hdr) (m : AtomF) : fAtom (packAtom op h m) = m := by
  obtain ⟨disp, c, ord, scope, sc, sz, b, a, d⟩ := m
  simp [-BitVec.getLsbD_eq_getElem, -BitVec.extractLsb'_toNat, fAtom, fD, fA, fB, packAtom, lowBits, extract_low, extract_high, extract_all, getLsbD_app]

theorem sp_packAtom (op : BitVec 8) (h : Hdr) (m : AtomF) : (packAtom op h m).getLsbD 41 = true := by
  simp [-BitVec.getLsbD_eq_getElem, packAtom, lowBits, getLsbD_app, one_getLsbD_zero]

theorem fD_packI (op : BitVec 8) (h : Hdr) (imm : BitVec 32) (fn : BitVec 6) (a d : Reg) : fD (packI op h imm fn a d) = d := by
  simp [-BitVec.extractLsb'_toNat, fD, packI, lowBits, extract_low, extract_high, extract_all]

theorem fA_packI (op : BitVec 8) (h : Hdr) (imm : BitVec 32) (fn : BitVec 6) (a d : Reg) : fA (packI op h imm fn a d) = a := by
  simp [-BitVec.extractLsb'_toNat, fA, packI, lowBits, extract_low, extract_high, extract_all]

theorem fFnI_packI (op : BitVec 8) (h : Hdr) (imm : BitVec 32) (fn : BitVec 6) (a d : Reg) : fFnI (packI op h imm fn a d) = fn.toNat := by
  simp [-BitVec.extractLsb'_toNat, fFnI, packI, lowBits, extract_low, extract_high, extract_all]

theorem fImm32_packI (op : BitVec 8) (h : Hdr) (imm : BitVec 32) (fn : BitVec 6) (a d : Reg) : fImm32 (packI op h imm fn a d) = imm := by
  simp [-BitVec.extractLsb'_toNat, fImm32, packI, lowBits, extract_low, extract_high, extract_all]

theorem fD_packX (op : BitVec 8) (h : Hdr) (imm : BitVec 8) (t2 t1 : BitVec 4) (c b a d : Reg) : fD (packX op h imm t2 t1 c b a d) = d := by
  simp [-BitVec.extractLsb'_toNat, fD, packX, lowBits, extract_low, extract_high, extract_all]

theorem fA_packX (op : BitVec 8) (h : Hdr) (imm : BitVec 8) (t2 t1 : BitVec 4) (c b a d : Reg) : fA (packX op h imm t2 t1 c b a d) = a := by
  simp [-BitVec.extractLsb'_toNat, fA, packX, lowBits, extract_low, extract_high, extract_all]

theorem fB_packX (op : BitVec 8) (h : Hdr) (imm : BitVec 8) (t2 t1 : BitVec 4) (c b a d : Reg) : fB (packX op h imm t2 t1 c b a d) = b := by
  simp [-BitVec.extractLsb'_toNat, fB, packX, lowBits, extract_low, extract_high, extract_all]

theorem fC_packX (op : BitVec 8) (h : Hdr) (imm : BitVec 8) (t2 t1 : BitVec 4) (c b a d : Reg) : fC (packX op h imm t2 t1 c b a d) = c := by
  simp [-BitVec.extractLsb'_toNat, fC, packX, lowBits, extract_low, extract_high, extract_all]

theorem hdrOf_bind (op : BitVec 8) (h : Hdr) (f : BindF) : hdrOf (f.k ++ f.stride ++ f.base ++ f.amask ++ f.ty ++ BitVec.ofBool f.ca ++ BitVec.ofBool f.cb ++ f.acc ++ lowBits op h) = h := by
  obtain ⟨pn, pr, sw, gap⟩ := h
  simp [-BitVec.getLsbD_eq_getElem, hdrOf, lowBits, extract_low, extract_high, extract_all, getLsbD_app]

theorem fOp_bind (op : BitVec 8) (h : Hdr) (f : BindF) : fOp (f.k ++ f.stride ++ f.base ++ f.amask ++ f.ty ++ BitVec.ofBool f.ca ++ BitVec.ofBool f.cb ++ f.acc ++ lowBits op h) = op.toNat := by
  simp [-BitVec.extractLsb'_toNat, fOp, lowBits, extract_low, extract_high, extract_all]

theorem hdrOf_mread (op : BitVec 8) (h : Hdr) (f : MReadF) : hdrOf (f.f ++ f.ty ++ f.rm ++ 0#10 ++ f.b ++ f.a ++ f.d ++ lowBits op h) = h := by
  obtain ⟨pn, pr, sw, gap⟩ := h
  simp [-BitVec.getLsbD_eq_getElem, hdrOf, lowBits, extract_low, extract_high, extract_all, getLsbD_app]

theorem fOp_mread (op : BitVec 8) (h : Hdr) (f : MReadF) : fOp (f.f ++ f.ty ++ f.rm ++ 0#10 ++ f.b ++ f.a ++ f.d ++ lowBits op h) = op.toNat := by
  simp [-BitVec.extractLsb'_toNat, fOp, lowBits, extract_low, extract_high, extract_all]

end Laws
end Sys2Proof
end

