-- ==== Sys2Proof/Laws/Table.lean ====
section
/-! SUPPORT. What a sparse table and a memory do: a key reads what was last written, every other key as before, and the canonical form is kept. -/

namespace Sys2Proof.Machine

section tables

variable {α : Type} {d v : α} {t : Table α} {b k j : Nat}

@[simp] theorem tget_nil : tget d [] k = d := rfl

@[simp] theorem tget_tput_self : tget d (tput t k v) k = v := by
  induction t with
  | nil => simp [tput, tget]
  | cons e t ih => simp only [tput]; split <;> (try split) <;> simp_all [tget]

theorem tget_tput_other (hj : j ≠ k) : tget d (tput t k v) j = tget d t j := by
  induction t with
  | nil => simp [tput, tget, hj]
  | cons e t ih => simp only [tput]; split <;> (try split) <;> simp_all [tget]

@[simp] theorem tget_tdel_self : tget d (tdel t k) k = d := by
  induction t with
  | nil => rfl
  | cons e t ih => simp only [tdel]; split <;> simp_all [tget]

theorem tget_tdel_other (hj : j ≠ k) : tget d (tdel t k) j = tget d t j := by
  induction t with
  | nil => rfl
  | cons e t ih => simp only [tdel]; split <;> simp_all [tget]

variable [DecidableEq α]

/-- A key reads what has been written there. -/
@[simp] theorem tget_tset_self : tget d (tset d t k v) k = v := by
  unfold tset
  split <;> simp_all

/-- Every other key reads as before. -/
theorem tget_tset_other (hj : j ≠ k) : tget d (tset d t k v) j = tget d t j := by
  unfold tset
  split
  · exact tget_tdel_other hj
  · exact tget_tput_other hj

/-- What any key reads after a write. -/
theorem tget_tset : tget d (tset d t k v) j = if j = k then v else tget d t j := by
  split
  · subst_vars; exact tget_tset_self
  · exact tget_tset_other ‹_›

/-- A bound may be lowered. -/
theorem twf_mono {c : Nat} (h : twf d b t = true) (hc : c ≤ b) : twf d c t = true := by
  cases t with
  | nil => rfl
  | cons e t =>
    simp only [twf, Bool.and_eq_true, decide_eq_true_eq] at h ⊢
    exact ⟨⟨Nat.le_trans hc h.1.1, h.1.2⟩, h.2⟩

theorem twf_tput (h : twf d b t = true) (hb : b ≤ k) (hv : v ≠ d) : twf d b (tput t k v) = true := by
  induction t generalizing b with
  | nil => simp [tput, twf, hb, hv]
  | cons e t ih =>
    simp only [twf, Bool.and_eq_true, decide_eq_true_eq] at h
    simp only [tput]
    split
    · rename_i h1
      subst h1
      simp [twf, hb, hv, h.2]
    · split
      · rename_i h1 h2
        simp [twf, hb, hv, h.1.2, h.2, Nat.succ_le_of_lt h2]
      · rename_i h1 h2
        have hk : e.1 + 1 ≤ k := Nat.succ_le_of_lt (Nat.lt_of_le_of_ne (Nat.le_of_not_lt h2) (fun x => h1 x.symm))
        simp [twf, h.1.1, h.1.2, ih h.2 hk]

theorem twf_tdel (h : twf d b t = true) : twf d b (tdel t k) = true := by
  induction t generalizing b with
  | nil => rfl
  | cons e t ih =>
    simp only [twf, Bool.and_eq_true, decide_eq_true_eq] at h
    simp only [tdel]
    split
    · exact twf_mono (ih h.2) (Nat.le_succ_of_le h.1.1)
    · simp [twf, h.1.1, h.1.2, ih h.2]

/-- A write keeps the canonical form. -/
theorem twf_tset (h : twf d b t = true) (hb : b ≤ k) : twf d b (tset d t k v) = true := by
  unfold tset
  split
  · exact twf_tdel h
  · exact twf_tput h hb ‹_›

end tables

/-! ## Memory -/

variable {m : Memory} {a : Nat}

theorem mset_wf (h : m.wf = true) (a : Nat) (x : Byte) : (mset m a x).wf = true := twf_tset h (Nat.zero_le _)

/-- A byte reads what has been written there. -/
@[simp] theorem mget_mset_self (x : Byte) : mget (mset m a x) a = x := tget_tset_self

/-- Every other byte reads as before. -/
theorem mget_mset_other {c : Nat} (hc : c ≠ a) (x : Byte) : mget (mset m a x) c = mget m c := tget_tset_other hc

theorem mstore_wf (h : m.wf = true) (a n w : Nat) : (mstore m a n w).wf = true := by
  induction n generalizing m a w with
  | zero => exact h
  | succ n ih => exact ih (mset_wf h _ _) _ _

theorem mwrite_wf (h : m.wf = true) (a : Nat) (bs : List Byte) : (mwrite m a bs).wf = true := by
  induction bs generalizing m a with
  | nil => exact h
  | cons x bs ih => exact ih (mset_wf h _ _) _

/-- Bytes outside a store read as before. -/
theorem mget_mstore_other (a n w : Nat) {c : Nat} (hc : c < a ∨ a + n ≤ c) : mget (mstore m a n w) c = mget m c := by
  induction n generalizing m a w with
  | zero => rfl
  | succ n ih =>
    simp only [mstore]
    rw [ih _ _ (by omega), mget_mset_other (by omega)]

/-- Writing many bytes one at a time keeps the canonical form. -/
theorem foldl_mset_wf (l : List (Nat × Byte)) (h : m.wf = true) : (l.foldl (fun m e => mset m e.1 e.2) m).wf = true := by
  induction l generalizing m with
  | nil => exact h
  | cons e l ih => exact ih (mset_wf h _ _)

/-- A load takes back the number that a store has put there, its low `n` bytes. -/
theorem mload_mstore (a n w : Nat) : mload (mstore m a n w) a n = w % 256 ^ n := by
  induction n generalizing m a w with
  | zero => simp [mload, Nat.mod_one]
  | succ n ih =>
    simp only [mload, mstore]
    rw [mget_mstore_other _ _ _ (Or.inl (Nat.lt_succ_self a)), mget_mset_self, ih]
    have h1 : (BitVec.ofNat 8 (w % 256)).toNat = w % 256 := by simp [BitVec.toNat_ofNat]
    rw [h1, Nat.pow_succ, Nat.mul_comm (256 ^ n) 256, Nat.mod_mul]

end Sys2Proof.Machine
end

