-- ==== Sys2Proof/Laws/State.lean ====
section
/-! SUPPORT. What each update of the state leaves in each of its fields, and what each accessor reads after it. -/

namespace Sys2Proof.Machine

variable (s : State)

/-! ## setCtx -/

@[simp] theorem State.setCtx_agenda (cid : Nat) (x : Ctx) : (s.setCtx cid x).agenda = s.agenda := rfl
@[simp] theorem State.setCtx_cur (cid : Nat) (x : Ctx) : (s.setCtx cid x).cur = s.cur := rfl
@[simp] theorem State.setCtx_ir (cid : Nat) (x : Ctx) : (s.setCtx cid x).ir = s.ir := rfl
@[simp] theorem State.setCtx_again (cid : Nat) (x : Ctx) : (s.setCtx cid x).again = s.again := rfl
@[simp] theorem State.setCtx_skipped (cid : Nat) (x : Ctx) : (s.setCtx cid x).skipped = s.skipped := rfl
@[simp] theorem State.setCtx_ev (cid : Nat) (x : Ctx) : (s.setCtx cid x).ev = s.ev := rfl
@[simp] theorem State.setCtx_free (cid : Nat) (x : Ctx) : (s.setCtx cid x).free = s.free := rfl
@[simp] theorem State.setCtx_order (cid : Nat) (x : Ctx) : (s.setCtx cid x).order = s.order := rfl
@[simp] theorem State.setCtx_now (cid : Nat) (x : Ctx) : (s.setCtx cid x).now = s.now := rfl
@[simp] theorem State.setCtx_base (cid : Nat) (x : Ctx) : (s.setCtx cid x).base = s.base := rfl
@[simp] theorem State.setCtx_cores (cid : Nat) (x : Ctx) : (s.setCtx cid x).cores = s.cores := rfl
@[simp] theorem State.setCtx_runs (cid : Nat) (x : Ctx) : (s.setCtx cid x).runs = s.runs := rfl
@[simp] theorem State.setCtx_nextRun (cid : Nat) (x : Ctx) : (s.setCtx cid x).nextRun = s.nextRun := rfl
@[simp] theorem State.setCtx_dies (cid : Nat) (x : Ctx) : (s.setCtx cid x).dies = s.dies := rfl
@[simp] theorem State.setCtx_vds (cid : Nat) (x : Ctx) : (s.setCtx cid x).vds = s.vds := rfl
@[simp] theorem State.setCtx_dampers (cid : Nat) (x : Ctx) : (s.setCtx cid x).dampers = s.dampers := rfl
@[simp] theorem State.setCtx_dram (cid : Nat) (x : Ctx) : (s.setCtx cid x).dram = s.dram := rfl
@[simp] theorem State.setCtx_sync (cid : Nat) (x : Ctx) : (s.setCtx cid x).sync = s.sync := rfl
@[simp] theorem State.setCtx_poison (cid : Nat) (x : Ctx) : (s.setCtx cid x).poison = s.poison := rfl
@[simp] theorem State.setCtx_arrivals (cid : Nat) (x : Ctx) : (s.setCtx cid x).arrivals = s.arrivals := rfl
@[simp] theorem State.setCtx_flue (cid : Nat) (x : Ctx) : (s.setCtx cid x).flue = s.flue := rfl
@[simp] theorem State.setCtx_directed (cid : Nat) (x : Ctx) : (s.setCtx cid x).directed = s.directed := rfl
@[simp] theorem State.setCtx_xchunks (cid : Nat) (x : Ctx) : (s.setCtx cid x).xchunks = s.xchunks := rfl
@[simp] theorem State.setCtx_lathe (cid : Nat) (x : Ctx) : (s.setCtx cid x).lathe = s.lathe := rfl
@[simp] theorem State.setCtx_strips (cid : Nat) (x : Ctx) : (s.setCtx cid x).strips = s.strips := rfl
@[simp] theorem State.setCtx_colls (cid : Nat) (x : Ctx) : (s.setCtx cid x).colls = s.colls := rfl
@[simp] theorem State.setCtx_podOut (cid : Nat) (x : Ctx) : (s.setCtx cid x).podOut = s.podOut := rfl
@[simp] theorem State.setCtx_podIn (cid : Nat) (x : Ctx) : (s.setCtx cid x).podIn = s.podIn := rfl
@[simp] theorem State.setCtx_fuses (cid : Nat) (x : Ctx) : (s.setCtx cid x).fuses = s.fuses := rfl
@[simp] theorem State.setCtx_imbuf (cid : Nat) (x : Ctx) : (s.setCtx cid x).imbuf = s.imbuf := rfl
@[simp] theorem State.setCtx_imcmd (cid : Nat) (x : Ctx) : (s.setCtx cid x).imcmd = s.imcmd := rfl
@[simp] theorem State.setCtx_imstat (cid : Nat) (x : Ctx) : (s.setCtx cid x).imstat = s.imstat := rfl
@[simp] theorem State.setCtx_podId (cid : Nat) (x : Ctx) : (s.setCtx cid x).podId = s.podId := rfl
@[simp] theorem State.setCtx_convOk (cid : Nat) (x : Ctx) : (s.setCtx cid x).convOk = s.convOk := rfl
@[simp] theorem State.setCtx_inputOk (cid : Nat) (x : Ctx) : (s.setCtx cid x).inputOk = s.inputOk := rfl
@[simp] theorem State.setCtx_pkgLimit (cid : Nat) (x : Ctx) : (s.setCtx cid x).pkgLimit = s.pkgLimit := rfl
@[simp] theorem State.setCtx_linkUp (cid : Nat) (x : Ctx) : (s.setCtx cid x).linkUp = s.linkUp := rfl
@[simp] theorem State.setCtx_linkGen (cid : Nat) (x : Ctx) : (s.setCtx cid x).linkGen = s.linkGen := rfl
@[simp] theorem State.setCtx_linkWidth (cid : Nat) (x : Ctx) : (s.setCtx cid x).linkWidth = s.linkWidth := rfl
@[simp] theorem State.setCtx_grades (cid : Nat) (x : Ctx) : (s.setCtx cid x).grades = s.grades := rfl
@[simp] theorem State.setCtx_podLinks (cid : Nat) (x : Ctx) : (s.setCtx cid x).podLinks = s.podLinks := rfl
@[simp] theorem State.setCtx_hostMem (cid : Nat) (x : Ctx) : (s.setCtx cid x).hostMem = s.hostMem := rfl
@[simp] theorem State.setCtx_msix (cid : Nat) (x : Ctx) : (s.setCtx cid x).msix = s.msix := rfl
@[simp] theorem State.setCtx_reports (cid : Nat) (x : Ctx) : (s.setCtx cid x).reports = s.reports := rfl
@[simp] theorem State.setCtx_bar2 (cid : Nat) (x : Ctx) : (s.setCtx cid x).bar2 = s.bar2 := rfl
@[simp] theorem State.setCtx_up (cid : Nat) (x : Ctx) : (s.setCtx cid x).up = s.up := rfl
@[simp] theorem State.setCtx_booted (cid : Nat) (x : Ctx) : (s.setCtx cid x).booted = s.booted := rfl
@[simp] theorem State.setCtx_aer (cid : Nat) (x : Ctx) : (s.setCtx cid x).aer = s.aer := rfl
@[simp] theorem State.setCtx_imreq (cid : Nat) (x : Ctx) : (s.setCtx cid x).imreq = s.imreq := rfl
@[simp] theorem State.setCtx_refills (cid : Nat) (x : Ctx) : (s.setCtx cid x).refills = s.refills := rfl
@[simp] theorem State.setCtx_edgeRel (cid : Nat) (x : Ctx) : (s.setCtx cid x).edgeRel = s.edgeRel := rfl
@[simp] theorem State.setCtx_edgeTurn (cid : Nat) (x : Ctx) : (s.setCtx cid x).edgeTurn = s.edgeTurn := rfl
@[simp] theorem State.setCtx_bandq (cid : Nat) (x : Ctx) : (s.setCtx cid x).bandq = s.bandq := rfl

/-! ## setCore -/

@[simp] theorem State.setCore_agenda (k : Nat) (x : Core) : (s.setCore k x).agenda = s.agenda := rfl
@[simp] theorem State.setCore_cur (k : Nat) (x : Core) : (s.setCore k x).cur = s.cur := rfl
@[simp] theorem State.setCore_ir (k : Nat) (x : Core) : (s.setCore k x).ir = s.ir := rfl
@[simp] theorem State.setCore_again (k : Nat) (x : Core) : (s.setCore k x).again = s.again := rfl
@[simp] theorem State.setCore_skipped (k : Nat) (x : Core) : (s.setCore k x).skipped = s.skipped := rfl
@[simp] theorem State.setCore_ev (k : Nat) (x : Core) : (s.setCore k x).ev = s.ev := rfl
@[simp] theorem State.setCore_free (k : Nat) (x : Core) : (s.setCore k x).free = s.free := rfl
@[simp] theorem State.setCore_order (k : Nat) (x : Core) : (s.setCore k x).order = s.order := rfl
@[simp] theorem State.setCore_now (k : Nat) (x : Core) : (s.setCore k x).now = s.now := rfl
@[simp] theorem State.setCore_base (k : Nat) (x : Core) : (s.setCore k x).base = s.base := rfl
@[simp] theorem State.setCore_ctxs (k : Nat) (x : Core) : (s.setCore k x).ctxs = s.ctxs := rfl
@[simp] theorem State.setCore_runs (k : Nat) (x : Core) : (s.setCore k x).runs = s.runs := rfl
@[simp] theorem State.setCore_nextRun (k : Nat) (x : Core) : (s.setCore k x).nextRun = s.nextRun := rfl
@[simp] theorem State.setCore_dies (k : Nat) (x : Core) : (s.setCore k x).dies = s.dies := rfl
@[simp] theorem State.setCore_vds (k : Nat) (x : Core) : (s.setCore k x).vds = s.vds := rfl
@[simp] theorem State.setCore_dampers (k : Nat) (x : Core) : (s.setCore k x).dampers = s.dampers := rfl
@[simp] theorem State.setCore_dram (k : Nat) (x : Core) : (s.setCore k x).dram = s.dram := rfl
@[simp] theorem State.setCore_sync (k : Nat) (x : Core) : (s.setCore k x).sync = s.sync := rfl
@[simp] theorem State.setCore_poison (k : Nat) (x : Core) : (s.setCore k x).poison = s.poison := rfl
@[simp] theorem State.setCore_arrivals (k : Nat) (x : Core) : (s.setCore k x).arrivals = s.arrivals := rfl
@[simp] theorem State.setCore_flue (k : Nat) (x : Core) : (s.setCore k x).flue = s.flue := rfl
@[simp] theorem State.setCore_directed (k : Nat) (x : Core) : (s.setCore k x).directed = s.directed := rfl
@[simp] theorem State.setCore_xchunks (k : Nat) (x : Core) : (s.setCore k x).xchunks = s.xchunks := rfl
@[simp] theorem State.setCore_lathe (k : Nat) (x : Core) : (s.setCore k x).lathe = s.lathe := rfl
@[simp] theorem State.setCore_strips (k : Nat) (x : Core) : (s.setCore k x).strips = s.strips := rfl
@[simp] theorem State.setCore_colls (k : Nat) (x : Core) : (s.setCore k x).colls = s.colls := rfl
@[simp] theorem State.setCore_podOut (k : Nat) (x : Core) : (s.setCore k x).podOut = s.podOut := rfl
@[simp] theorem State.setCore_podIn (k : Nat) (x : Core) : (s.setCore k x).podIn = s.podIn := rfl
@[simp] theorem State.setCore_fuses (k : Nat) (x : Core) : (s.setCore k x).fuses = s.fuses := rfl
@[simp] theorem State.setCore_imbuf (k : Nat) (x : Core) : (s.setCore k x).imbuf = s.imbuf := rfl
@[simp] theorem State.setCore_imcmd (k : Nat) (x : Core) : (s.setCore k x).imcmd = s.imcmd := rfl
@[simp] theorem State.setCore_imstat (k : Nat) (x : Core) : (s.setCore k x).imstat = s.imstat := rfl
@[simp] theorem State.setCore_podId (k : Nat) (x : Core) : (s.setCore k x).podId = s.podId := rfl
@[simp] theorem State.setCore_convOk (k : Nat) (x : Core) : (s.setCore k x).convOk = s.convOk := rfl
@[simp] theorem State.setCore_inputOk (k : Nat) (x : Core) : (s.setCore k x).inputOk = s.inputOk := rfl
@[simp] theorem State.setCore_pkgLimit (k : Nat) (x : Core) : (s.setCore k x).pkgLimit = s.pkgLimit := rfl
@[simp] theorem State.setCore_linkUp (k : Nat) (x : Core) : (s.setCore k x).linkUp = s.linkUp := rfl
@[simp] theorem State.setCore_linkGen (k : Nat) (x : Core) : (s.setCore k x).linkGen = s.linkGen := rfl
@[simp] theorem State.setCore_linkWidth (k : Nat) (x : Core) : (s.setCore k x).linkWidth = s.linkWidth := rfl
@[simp] theorem State.setCore_grades (k : Nat) (x : Core) : (s.setCore k x).grades = s.grades := rfl
@[simp] theorem State.setCore_podLinks (k : Nat) (x : Core) : (s.setCore k x).podLinks = s.podLinks := rfl
@[simp] theorem State.setCore_hostMem (k : Nat) (x : Core) : (s.setCore k x).hostMem = s.hostMem := rfl
@[simp] theorem State.setCore_msix (k : Nat) (x : Core) : (s.setCore k x).msix = s.msix := rfl
@[simp] theorem State.setCore_reports (k : Nat) (x : Core) : (s.setCore k x).reports = s.reports := rfl
@[simp] theorem State.setCore_bar2 (k : Nat) (x : Core) : (s.setCore k x).bar2 = s.bar2 := rfl
@[simp] theorem State.setCore_up (k : Nat) (x : Core) : (s.setCore k x).up = s.up := rfl
@[simp] theorem State.setCore_booted (k : Nat) (x : Core) : (s.setCore k x).booted = s.booted := rfl
@[simp] theorem State.setCore_aer (k : Nat) (x : Core) : (s.setCore k x).aer = s.aer := rfl
@[simp] theorem State.setCore_imreq (k : Nat) (x : Core) : (s.setCore k x).imreq = s.imreq := rfl
@[simp] theorem State.setCore_refills (k : Nat) (x : Core) : (s.setCore k x).refills = s.refills := rfl
@[simp] theorem State.setCore_edgeRel (k : Nat) (x : Core) : (s.setCore k x).edgeRel = s.edgeRel := rfl
@[simp] theorem State.setCore_edgeTurn (k : Nat) (x : Core) : (s.setCore k x).edgeTurn = s.edgeTurn := rfl
@[simp] theorem State.setCore_bandq (k : Nat) (x : Core) : (s.setCore k x).bandq = s.bandq := rfl

/-! ## setDie -/

@[simp] theorem State.setDie_agenda (d : Nat) (x : Die) : (s.setDie d x).agenda = s.agenda := rfl
@[simp] theorem State.setDie_cur (d : Nat) (x : Die) : (s.setDie d x).cur = s.cur := rfl
@[simp] theorem State.setDie_ir (d : Nat) (x : Die) : (s.setDie d x).ir = s.ir := rfl
@[simp] theorem State.setDie_again (d : Nat) (x : Die) : (s.setDie d x).again = s.again := rfl
@[simp] theorem State.setDie_skipped (d : Nat) (x : Die) : (s.setDie d x).skipped = s.skipped := rfl
@[simp] theorem State.setDie_ev (d : Nat) (x : Die) : (s.setDie d x).ev = s.ev := rfl
@[simp] theorem State.setDie_free (d : Nat) (x : Die) : (s.setDie d x).free = s.free := rfl
@[simp] theorem State.setDie_order (d : Nat) (x : Die) : (s.setDie d x).order = s.order := rfl
@[simp] theorem State.setDie_now (d : Nat) (x : Die) : (s.setDie d x).now = s.now := rfl
@[simp] theorem State.setDie_base (d : Nat) (x : Die) : (s.setDie d x).base = s.base := rfl
@[simp] theorem State.setDie_ctxs (d : Nat) (x : Die) : (s.setDie d x).ctxs = s.ctxs := rfl
@[simp] theorem State.setDie_cores (d : Nat) (x : Die) : (s.setDie d x).cores = s.cores := rfl
@[simp] theorem State.setDie_runs (d : Nat) (x : Die) : (s.setDie d x).runs = s.runs := rfl
@[simp] theorem State.setDie_nextRun (d : Nat) (x : Die) : (s.setDie d x).nextRun = s.nextRun := rfl
@[simp] theorem State.setDie_vds (d : Nat) (x : Die) : (s.setDie d x).vds = s.vds := rfl
@[simp] theorem State.setDie_dampers (d : Nat) (x : Die) : (s.setDie d x).dampers = s.dampers := rfl
@[simp] theorem State.setDie_dram (d : Nat) (x : Die) : (s.setDie d x).dram = s.dram := rfl
@[simp] theorem State.setDie_sync (d : Nat) (x : Die) : (s.setDie d x).sync = s.sync := rfl
@[simp] theorem State.setDie_poison (d : Nat) (x : Die) : (s.setDie d x).poison = s.poison := rfl
@[simp] theorem State.setDie_arrivals (d : Nat) (x : Die) : (s.setDie d x).arrivals = s.arrivals := rfl
@[simp] theorem State.setDie_flue (d : Nat) (x : Die) : (s.setDie d x).flue = s.flue := rfl
@[simp] theorem State.setDie_directed (d : Nat) (x : Die) : (s.setDie d x).directed = s.directed := rfl
@[simp] theorem State.setDie_xchunks (d : Nat) (x : Die) : (s.setDie d x).xchunks = s.xchunks := rfl
@[simp] theorem State.setDie_lathe (d : Nat) (x : Die) : (s.setDie d x).lathe = s.lathe := rfl
@[simp] theorem State.setDie_strips (d : Nat) (x : Die) : (s.setDie d x).strips = s.strips := rfl
@[simp] theorem State.setDie_colls (d : Nat) (x : Die) : (s.setDie d x).colls = s.colls := rfl
@[simp] theorem State.setDie_podOut (d : Nat) (x : Die) : (s.setDie d x).podOut = s.podOut := rfl
@[simp] theorem State.setDie_podIn (d : Nat) (x : Die) : (s.setDie d x).podIn = s.podIn := rfl
@[simp] theorem State.setDie_fuses (d : Nat) (x : Die) : (s.setDie d x).fuses = s.fuses := rfl
@[simp] theorem State.setDie_imbuf (d : Nat) (x : Die) : (s.setDie d x).imbuf = s.imbuf := rfl
@[simp] theorem State.setDie_imcmd (d : Nat) (x : Die) : (s.setDie d x).imcmd = s.imcmd := rfl
@[simp] theorem State.setDie_imstat (d : Nat) (x : Die) : (s.setDie d x).imstat = s.imstat := rfl
@[simp] theorem State.setDie_podId (d : Nat) (x : Die) : (s.setDie d x).podId = s.podId := rfl
@[simp] theorem State.setDie_convOk (d : Nat) (x : Die) : (s.setDie d x).convOk = s.convOk := rfl
@[simp] theorem State.setDie_inputOk (d : Nat) (x : Die) : (s.setDie d x).inputOk = s.inputOk := rfl
@[simp] theorem State.setDie_pkgLimit (d : Nat) (x : Die) : (s.setDie d x).pkgLimit = s.pkgLimit := rfl
@[simp] theorem State.setDie_linkUp (d : Nat) (x : Die) : (s.setDie d x).linkUp = s.linkUp := rfl
@[simp] theorem State.setDie_linkGen (d : Nat) (x : Die) : (s.setDie d x).linkGen = s.linkGen := rfl
@[simp] theorem State.setDie_linkWidth (d : Nat) (x : Die) : (s.setDie d x).linkWidth = s.linkWidth := rfl
@[simp] theorem State.setDie_grades (d : Nat) (x : Die) : (s.setDie d x).grades = s.grades := rfl
@[simp] theorem State.setDie_podLinks (d : Nat) (x : Die) : (s.setDie d x).podLinks = s.podLinks := rfl
@[simp] theorem State.setDie_hostMem (d : Nat) (x : Die) : (s.setDie d x).hostMem = s.hostMem := rfl
@[simp] theorem State.setDie_msix (d : Nat) (x : Die) : (s.setDie d x).msix = s.msix := rfl
@[simp] theorem State.setDie_reports (d : Nat) (x : Die) : (s.setDie d x).reports = s.reports := rfl
@[simp] theorem State.setDie_bar2 (d : Nat) (x : Die) : (s.setDie d x).bar2 = s.bar2 := rfl
@[simp] theorem State.setDie_up (d : Nat) (x : Die) : (s.setDie d x).up = s.up := rfl
@[simp] theorem State.setDie_booted (d : Nat) (x : Die) : (s.setDie d x).booted = s.booted := rfl
@[simp] theorem State.setDie_aer (d : Nat) (x : Die) : (s.setDie d x).aer = s.aer := rfl
@[simp] theorem State.setDie_imreq (d : Nat) (x : Die) : (s.setDie d x).imreq = s.imreq := rfl
@[simp] theorem State.setDie_refills (d : Nat) (x : Die) : (s.setDie d x).refills = s.refills := rfl
@[simp] theorem State.setDie_edgeRel (d : Nat) (x : Die) : (s.setDie d x).edgeRel = s.edgeRel := rfl
@[simp] theorem State.setDie_edgeTurn (d : Nat) (x : Die) : (s.setDie d x).edgeTurn = s.edgeTurn := rfl
@[simp] theorem State.setDie_bandq (d : Nat) (x : Die) : (s.setDie d x).bandq = s.bandq := rfl

/-! ## setVd -/

@[simp] theorem State.setVd_agenda (n : Nat) (x : Vd) : (s.setVd n x).agenda = s.agenda := rfl
@[simp] theorem State.setVd_cur (n : Nat) (x : Vd) : (s.setVd n x).cur = s.cur := rfl
@[simp] theorem State.setVd_ir (n : Nat) (x : Vd) : (s.setVd n x).ir = s.ir := rfl
@[simp] theorem State.setVd_again (n : Nat) (x : Vd) : (s.setVd n x).again = s.again := rfl
@[simp] theorem State.setVd_skipped (n : Nat) (x : Vd) : (s.setVd n x).skipped = s.skipped := rfl
@[simp] theorem State.setVd_ev (n : Nat) (x : Vd) : (s.setVd n x).ev = s.ev := rfl
@[simp] theorem State.setVd_free (n : Nat) (x : Vd) : (s.setVd n x).free = s.free := rfl
@[simp] theorem State.setVd_order (n : Nat) (x : Vd) : (s.setVd n x).order = s.order := rfl
@[simp] theorem State.setVd_now (n : Nat) (x : Vd) : (s.setVd n x).now = s.now := rfl
@[simp] theorem State.setVd_base (n : Nat) (x : Vd) : (s.setVd n x).base = s.base := rfl
@[simp] theorem State.setVd_ctxs (n : Nat) (x : Vd) : (s.setVd n x).ctxs = s.ctxs := rfl
@[simp] theorem State.setVd_cores (n : Nat) (x : Vd) : (s.setVd n x).cores = s.cores := rfl
@[simp] theorem State.setVd_runs (n : Nat) (x : Vd) : (s.setVd n x).runs = s.runs := rfl
@[simp] theorem State.setVd_nextRun (n : Nat) (x : Vd) : (s.setVd n x).nextRun = s.nextRun := rfl
@[simp] theorem State.setVd_dies (n : Nat) (x : Vd) : (s.setVd n x).dies = s.dies := rfl
@[simp] theorem State.setVd_dampers (n : Nat) (x : Vd) : (s.setVd n x).dampers = s.dampers := rfl
@[simp] theorem State.setVd_dram (n : Nat) (x : Vd) : (s.setVd n x).dram = s.dram := rfl
@[simp] theorem State.setVd_sync (n : Nat) (x : Vd) : (s.setVd n x).sync = s.sync := rfl
@[simp] theorem State.setVd_poison (n : Nat) (x : Vd) : (s.setVd n x).poison = s.poison := rfl
@[simp] theorem State.setVd_arrivals (n : Nat) (x : Vd) : (s.setVd n x).arrivals = s.arrivals := rfl
@[simp] theorem State.setVd_flue (n : Nat) (x : Vd) : (s.setVd n x).flue = s.flue := rfl
@[simp] theorem State.setVd_directed (n : Nat) (x : Vd) : (s.setVd n x).directed = s.directed := rfl
@[simp] theorem State.setVd_xchunks (n : Nat) (x : Vd) : (s.setVd n x).xchunks = s.xchunks := rfl
@[simp] theorem State.setVd_lathe (n : Nat) (x : Vd) : (s.setVd n x).lathe = s.lathe := rfl
@[simp] theorem State.setVd_strips (n : Nat) (x : Vd) : (s.setVd n x).strips = s.strips := rfl
@[simp] theorem State.setVd_colls (n : Nat) (x : Vd) : (s.setVd n x).colls = s.colls := rfl
@[simp] theorem State.setVd_podOut (n : Nat) (x : Vd) : (s.setVd n x).podOut = s.podOut := rfl
@[simp] theorem State.setVd_podIn (n : Nat) (x : Vd) : (s.setVd n x).podIn = s.podIn := rfl
@[simp] theorem State.setVd_fuses (n : Nat) (x : Vd) : (s.setVd n x).fuses = s.fuses := rfl
@[simp] theorem State.setVd_imbuf (n : Nat) (x : Vd) : (s.setVd n x).imbuf = s.imbuf := rfl
@[simp] theorem State.setVd_imcmd (n : Nat) (x : Vd) : (s.setVd n x).imcmd = s.imcmd := rfl
@[simp] theorem State.setVd_imstat (n : Nat) (x : Vd) : (s.setVd n x).imstat = s.imstat := rfl
@[simp] theorem State.setVd_podId (n : Nat) (x : Vd) : (s.setVd n x).podId = s.podId := rfl
@[simp] theorem State.setVd_convOk (n : Nat) (x : Vd) : (s.setVd n x).convOk = s.convOk := rfl
@[simp] theorem State.setVd_inputOk (n : Nat) (x : Vd) : (s.setVd n x).inputOk = s.inputOk := rfl
@[simp] theorem State.setVd_pkgLimit (n : Nat) (x : Vd) : (s.setVd n x).pkgLimit = s.pkgLimit := rfl
@[simp] theorem State.setVd_linkUp (n : Nat) (x : Vd) : (s.setVd n x).linkUp = s.linkUp := rfl
@[simp] theorem State.setVd_linkGen (n : Nat) (x : Vd) : (s.setVd n x).linkGen = s.linkGen := rfl
@[simp] theorem State.setVd_linkWidth (n : Nat) (x : Vd) : (s.setVd n x).linkWidth = s.linkWidth := rfl
@[simp] theorem State.setVd_grades (n : Nat) (x : Vd) : (s.setVd n x).grades = s.grades := rfl
@[simp] theorem State.setVd_podLinks (n : Nat) (x : Vd) : (s.setVd n x).podLinks = s.podLinks := rfl
@[simp] theorem State.setVd_hostMem (n : Nat) (x : Vd) : (s.setVd n x).hostMem = s.hostMem := rfl
@[simp] theorem State.setVd_msix (n : Nat) (x : Vd) : (s.setVd n x).msix = s.msix := rfl
@[simp] theorem State.setVd_reports (n : Nat) (x : Vd) : (s.setVd n x).reports = s.reports := rfl
@[simp] theorem State.setVd_bar2 (n : Nat) (x : Vd) : (s.setVd n x).bar2 = s.bar2 := rfl
@[simp] theorem State.setVd_up (n : Nat) (x : Vd) : (s.setVd n x).up = s.up := rfl
@[simp] theorem State.setVd_booted (n : Nat) (x : Vd) : (s.setVd n x).booted = s.booted := rfl
@[simp] theorem State.setVd_aer (n : Nat) (x : Vd) : (s.setVd n x).aer = s.aer := rfl
@[simp] theorem State.setVd_imreq (n : Nat) (x : Vd) : (s.setVd n x).imreq = s.imreq := rfl
@[simp] theorem State.setVd_refills (n : Nat) (x : Vd) : (s.setVd n x).refills = s.refills := rfl
@[simp] theorem State.setVd_edgeRel (n : Nat) (x : Vd) : (s.setVd n x).edgeRel = s.edgeRel := rfl
@[simp] theorem State.setVd_edgeTurn (n : Nat) (x : Vd) : (s.setVd n x).edgeTurn = s.edgeTurn := rfl
@[simp] theorem State.setVd_bandq (n : Nat) (x : Vd) : (s.setVd n x).bandq = s.bandq := rfl

/-! ## modCtx -/

@[simp] theorem State.modCtx_agenda (cid : Nat) (f : Ctx → Ctx) : (s.modCtx cid f).agenda = s.agenda := rfl
@[simp] theorem State.modCtx_cur (cid : Nat) (f : Ctx → Ctx) : (s.modCtx cid f).cur = s.cur := rfl
@[simp] theorem State.modCtx_ir (cid : Nat) (f : Ctx → Ctx) : (s.modCtx cid f).ir = s.ir := rfl
@[simp] theorem State.modCtx_again (cid : Nat) (f : Ctx → Ctx) : (s.modCtx cid f).again = s.again := rfl
@[simp] theorem State.modCtx_skipped (cid : Nat) (f : Ctx → Ctx) : (s.modCtx cid f).skipped = s.skipped := rfl
@[simp] theorem State.modCtx_ev (cid : Nat) (f : Ctx → Ctx) : (s.modCtx cid f).ev = s.ev := rfl
@[simp] theorem State.modCtx_free (cid : Nat) (f : Ctx → Ctx) : (s.modCtx cid f).free = s.free := rfl
@[simp] theorem State.modCtx_order (cid : Nat) (f : Ctx → Ctx) : (s.modCtx cid f).order = s.order := rfl
@[simp] theorem State.modCtx_now (cid : Nat) (f : Ctx → Ctx) : (s.modCtx cid f).now = s.now := rfl
@[simp] theorem State.modCtx_base (cid : Nat) (f : Ctx → Ctx) : (s.modCtx cid f).base = s.base := rfl
@[simp] theorem State.modCtx_cores (cid : Nat) (f : Ctx → Ctx) : (s.modCtx cid f).cores = s.cores := rfl
@[simp] theorem State.modCtx_runs (cid : Nat) (f : Ctx → Ctx) : (s.modCtx cid f).runs = s.runs := rfl
@[simp] theorem State.modCtx_nextRun (cid : Nat) (f : Ctx → Ctx) : (s.modCtx cid f).nextRun = s.nextRun := rfl
@[simp] theorem State.modCtx_dies (cid : Nat) (f : Ctx → Ctx) : (s.modCtx cid f).dies = s.dies := rfl
@[simp] theorem State.modCtx_vds (cid : Nat) (f : Ctx → Ctx) : (s.modCtx cid f).vds = s.vds := rfl
@[simp] theorem State.modCtx_dampers (cid : Nat) (f : Ctx → Ctx) : (s.modCtx cid f).dampers = s.dampers := rfl
@[simp] theorem State.modCtx_dram (cid : Nat) (f : Ctx → Ctx) : (s.modCtx cid f).dram = s.dram := rfl
@[simp] theorem State.modCtx_sync (cid : Nat) (f : Ctx → Ctx) : (s.modCtx cid f).sync = s.sync := rfl
@[simp] theorem State.modCtx_poison (cid : Nat) (f : Ctx → Ctx) : (s.modCtx cid f).poison = s.poison := rfl
@[simp] theorem State.modCtx_arrivals (cid : Nat) (f : Ctx → Ctx) : (s.modCtx cid f).arrivals = s.arrivals := rfl
@[simp] theorem State.modCtx_flue (cid : Nat) (f : Ctx → Ctx) : (s.modCtx cid f).flue = s.flue := rfl
@[simp] theorem State.modCtx_directed (cid : Nat) (f : Ctx → Ctx) : (s.modCtx cid f).directed = s.directed := rfl
@[simp] theorem State.modCtx_xchunks (cid : Nat) (f : Ctx → Ctx) : (s.modCtx cid f).xchunks = s.xchunks := rfl
@[simp] theorem State.modCtx_lathe (cid : Nat) (f : Ctx → Ctx) : (s.modCtx cid f).lathe = s.lathe := rfl
@[simp] theorem State.modCtx_strips (cid : Nat) (f : Ctx → Ctx) : (s.modCtx cid f).strips = s.strips := rfl
@[simp] theorem State.modCtx_colls (cid : Nat) (f : Ctx → Ctx) : (s.modCtx cid f).colls = s.colls := rfl
@[simp] theorem State.modCtx_podOut (cid : Nat) (f : Ctx → Ctx) : (s.modCtx cid f).podOut = s.podOut := rfl
@[simp] theorem State.modCtx_podIn (cid : Nat) (f : Ctx → Ctx) : (s.modCtx cid f).podIn = s.podIn := rfl
@[simp] theorem State.modCtx_fuses (cid : Nat) (f : Ctx → Ctx) : (s.modCtx cid f).fuses = s.fuses := rfl
@[simp] theorem State.modCtx_imbuf (cid : Nat) (f : Ctx → Ctx) : (s.modCtx cid f).imbuf = s.imbuf := rfl
@[simp] theorem State.modCtx_imcmd (cid : Nat) (f : Ctx → Ctx) : (s.modCtx cid f).imcmd = s.imcmd := rfl
@[simp] theorem State.modCtx_imstat (cid : Nat) (f : Ctx → Ctx) : (s.modCtx cid f).imstat = s.imstat := rfl
@[simp] theorem State.modCtx_podId (cid : Nat) (f : Ctx → Ctx) : (s.modCtx cid f).podId = s.podId := rfl
@[simp] theorem State.modCtx_convOk (cid : Nat) (f : Ctx → Ctx) : (s.modCtx cid f).convOk = s.convOk := rfl
@[simp] theorem State.modCtx_inputOk (cid : Nat) (f : Ctx → Ctx) : (s.modCtx cid f).inputOk = s.inputOk := rfl
@[simp] theorem State.modCtx_pkgLimit (cid : Nat) (f : Ctx → Ctx) : (s.modCtx cid f).pkgLimit = s.pkgLimit := rfl
@[simp] theorem State.modCtx_linkUp (cid : Nat) (f : Ctx → Ctx) : (s.modCtx cid f).linkUp = s.linkUp := rfl
@[simp] theorem State.modCtx_linkGen (cid : Nat) (f : Ctx → Ctx) : (s.modCtx cid f).linkGen = s.linkGen := rfl
@[simp] theorem State.modCtx_linkWidth (cid : Nat) (f : Ctx → Ctx) : (s.modCtx cid f).linkWidth = s.linkWidth := rfl
@[simp] theorem State.modCtx_grades (cid : Nat) (f : Ctx → Ctx) : (s.modCtx cid f).grades = s.grades := rfl
@[simp] theorem State.modCtx_podLinks (cid : Nat) (f : Ctx → Ctx) : (s.modCtx cid f).podLinks = s.podLinks := rfl
@[simp] theorem State.modCtx_hostMem (cid : Nat) (f : Ctx → Ctx) : (s.modCtx cid f).hostMem = s.hostMem := rfl
@[simp] theorem State.modCtx_msix (cid : Nat) (f : Ctx → Ctx) : (s.modCtx cid f).msix = s.msix := rfl
@[simp] theorem State.modCtx_reports (cid : Nat) (f : Ctx → Ctx) : (s.modCtx cid f).reports = s.reports := rfl
@[simp] theorem State.modCtx_bar2 (cid : Nat) (f : Ctx → Ctx) : (s.modCtx cid f).bar2 = s.bar2 := rfl
@[simp] theorem State.modCtx_up (cid : Nat) (f : Ctx → Ctx) : (s.modCtx cid f).up = s.up := rfl
@[simp] theorem State.modCtx_booted (cid : Nat) (f : Ctx → Ctx) : (s.modCtx cid f).booted = s.booted := rfl
@[simp] theorem State.modCtx_aer (cid : Nat) (f : Ctx → Ctx) : (s.modCtx cid f).aer = s.aer := rfl
@[simp] theorem State.modCtx_imreq (cid : Nat) (f : Ctx → Ctx) : (s.modCtx cid f).imreq = s.imreq := rfl
@[simp] theorem State.modCtx_refills (cid : Nat) (f : Ctx → Ctx) : (s.modCtx cid f).refills = s.refills := rfl
@[simp] theorem State.modCtx_edgeRel (cid : Nat) (f : Ctx → Ctx) : (s.modCtx cid f).edgeRel = s.edgeRel := rfl
@[simp] theorem State.modCtx_edgeTurn (cid : Nat) (f : Ctx → Ctx) : (s.modCtx cid f).edgeTurn = s.edgeTurn := rfl
@[simp] theorem State.modCtx_bandq (cid : Nat) (f : Ctx → Ctx) : (s.modCtx cid f).bandq = s.bandq := rfl

/-! ## modCore -/

@[simp] theorem State.modCore_agenda (k : Nat) (f : Core → Core) : (s.modCore k f).agenda = s.agenda := rfl
@[simp] theorem State.modCore_cur (k : Nat) (f : Core → Core) : (s.modCore k f).cur = s.cur := rfl
@[simp] theorem State.modCore_ir (k : Nat) (f : Core → Core) : (s.modCore k f).ir = s.ir := rfl
@[simp] theorem State.modCore_again (k : Nat) (f : Core → Core) : (s.modCore k f).again = s.again := rfl
@[simp] theorem State.modCore_skipped (k : Nat) (f : Core → Core) : (s.modCore k f).skipped = s.skipped := rfl
@[simp] theorem State.modCore_ev (k : Nat) (f : Core → Core) : (s.modCore k f).ev = s.ev := rfl
@[simp] theorem State.modCore_free (k : Nat) (f : Core → Core) : (s.modCore k f).free = s.free := rfl
@[simp] theorem State.modCore_order (k : Nat) (f : Core → Core) : (s.modCore k f).order = s.order := rfl
@[simp] theorem State.modCore_now (k : Nat) (f : Core → Core) : (s.modCore k f).now = s.now := rfl
@[simp] theorem State.modCore_base (k : Nat) (f : Core → Core) : (s.modCore k f).base = s.base := rfl
@[simp] theorem State.modCore_ctxs (k : Nat) (f : Core → Core) : (s.modCore k f).ctxs = s.ctxs := rfl
@[simp] theorem State.modCore_runs (k : Nat) (f : Core → Core) : (s.modCore k f).runs = s.runs := rfl
@[simp] theorem State.modCore_nextRun (k : Nat) (f : Core → Core) : (s.modCore k f).nextRun = s.nextRun := rfl
@[simp] theorem State.modCore_dies (k : Nat) (f : Core → Core) : (s.modCore k f).dies = s.dies := rfl
@[simp] theorem State.modCore_vds (k : Nat) (f : Core → Core) : (s.modCore k f).vds = s.vds := rfl
@[simp] theorem State.modCore_dampers (k : Nat) (f : Core → Core) : (s.modCore k f).dampers = s.dampers := rfl
@[simp] theorem State.modCore_dram (k : Nat) (f : Core → Core) : (s.modCore k f).dram = s.dram := rfl
@[simp] theorem State.modCore_sync (k : Nat) (f : Core → Core) : (s.modCore k f).sync = s.sync := rfl
@[simp] theorem State.modCore_poison (k : Nat) (f : Core → Core) : (s.modCore k f).poison = s.poison := rfl
@[simp] theorem State.modCore_arrivals (k : Nat) (f : Core → Core) : (s.modCore k f).arrivals = s.arrivals := rfl
@[simp] theorem State.modCore_flue (k : Nat) (f : Core → Core) : (s.modCore k f).flue = s.flue := rfl
@[simp] theorem State.modCore_directed (k : Nat) (f : Core → Core) : (s.modCore k f).directed = s.directed := rfl
@[simp] theorem State.modCore_xchunks (k : Nat) (f : Core → Core) : (s.modCore k f).xchunks = s.xchunks := rfl
@[simp] theorem State.modCore_lathe (k : Nat) (f : Core → Core) : (s.modCore k f).lathe = s.lathe := rfl
@[simp] theorem State.modCore_strips (k : Nat) (f : Core → Core) : (s.modCore k f).strips = s.strips := rfl
@[simp] theorem State.modCore_colls (k : Nat) (f : Core → Core) : (s.modCore k f).colls = s.colls := rfl
@[simp] theorem State.modCore_podOut (k : Nat) (f : Core → Core) : (s.modCore k f).podOut = s.podOut := rfl
@[simp] theorem State.modCore_podIn (k : Nat) (f : Core → Core) : (s.modCore k f).podIn = s.podIn := rfl
@[simp] theorem State.modCore_fuses (k : Nat) (f : Core → Core) : (s.modCore k f).fuses = s.fuses := rfl
@[simp] theorem State.modCore_imbuf (k : Nat) (f : Core → Core) : (s.modCore k f).imbuf = s.imbuf := rfl
@[simp] theorem State.modCore_imcmd (k : Nat) (f : Core → Core) : (s.modCore k f).imcmd = s.imcmd := rfl
@[simp] theorem State.modCore_imstat (k : Nat) (f : Core → Core) : (s.modCore k f).imstat = s.imstat := rfl
@[simp] theorem State.modCore_podId (k : Nat) (f : Core → Core) : (s.modCore k f).podId = s.podId := rfl
@[simp] theorem State.modCore_convOk (k : Nat) (f : Core → Core) : (s.modCore k f).convOk = s.convOk := rfl
@[simp] theorem State.modCore_inputOk (k : Nat) (f : Core → Core) : (s.modCore k f).inputOk = s.inputOk := rfl
@[simp] theorem State.modCore_pkgLimit (k : Nat) (f : Core → Core) : (s.modCore k f).pkgLimit = s.pkgLimit := rfl
@[simp] theorem State.modCore_linkUp (k : Nat) (f : Core → Core) : (s.modCore k f).linkUp = s.linkUp := rfl
@[simp] theorem State.modCore_linkGen (k : Nat) (f : Core → Core) : (s.modCore k f).linkGen = s.linkGen := rfl
@[simp] theorem State.modCore_linkWidth (k : Nat) (f : Core → Core) : (s.modCore k f).linkWidth = s.linkWidth := rfl
@[simp] theorem State.modCore_grades (k : Nat) (f : Core → Core) : (s.modCore k f).grades = s.grades := rfl
@[simp] theorem State.modCore_podLinks (k : Nat) (f : Core → Core) : (s.modCore k f).podLinks = s.podLinks := rfl
@[simp] theorem State.modCore_hostMem (k : Nat) (f : Core → Core) : (s.modCore k f).hostMem = s.hostMem := rfl
@[simp] theorem State.modCore_msix (k : Nat) (f : Core → Core) : (s.modCore k f).msix = s.msix := rfl
@[simp] theorem State.modCore_reports (k : Nat) (f : Core → Core) : (s.modCore k f).reports = s.reports := rfl
@[simp] theorem State.modCore_bar2 (k : Nat) (f : Core → Core) : (s.modCore k f).bar2 = s.bar2 := rfl
@[simp] theorem State.modCore_up (k : Nat) (f : Core → Core) : (s.modCore k f).up = s.up := rfl
@[simp] theorem State.modCore_booted (k : Nat) (f : Core → Core) : (s.modCore k f).booted = s.booted := rfl
@[simp] theorem State.modCore_aer (k : Nat) (f : Core → Core) : (s.modCore k f).aer = s.aer := rfl
@[simp] theorem State.modCore_imreq (k : Nat) (f : Core → Core) : (s.modCore k f).imreq = s.imreq := rfl
@[simp] theorem State.modCore_refills (k : Nat) (f : Core → Core) : (s.modCore k f).refills = s.refills := rfl
@[simp] theorem State.modCore_edgeRel (k : Nat) (f : Core → Core) : (s.modCore k f).edgeRel = s.edgeRel := rfl
@[simp] theorem State.modCore_edgeTurn (k : Nat) (f : Core → Core) : (s.modCore k f).edgeTurn = s.edgeTurn := rfl
@[simp] theorem State.modCore_bandq (k : Nat) (f : Core → Core) : (s.modCore k f).bandq = s.bandq := rfl

/-! ## modDie -/

@[simp] theorem State.modDie_agenda (d : Nat) (f : Die → Die) : (s.modDie d f).agenda = s.agenda := rfl
@[simp] theorem State.modDie_cur (d : Nat) (f : Die → Die) : (s.modDie d f).cur = s.cur := rfl
@[simp] theorem State.modDie_ir (d : Nat) (f : Die → Die) : (s.modDie d f).ir = s.ir := rfl
@[simp] theorem State.modDie_again (d : Nat) (f : Die → Die) : (s.modDie d f).again = s.again := rfl
@[simp] theorem State.modDie_skipped (d : Nat) (f : Die → Die) : (s.modDie d f).skipped = s.skipped := rfl
@[simp] theorem State.modDie_ev (d : Nat) (f : Die → Die) : (s.modDie d f).ev = s.ev := rfl
@[simp] theorem State.modDie_free (d : Nat) (f : Die → Die) : (s.modDie d f).free = s.free := rfl
@[simp] theorem State.modDie_order (d : Nat) (f : Die → Die) : (s.modDie d f).order = s.order := rfl
@[simp] theorem State.modDie_now (d : Nat) (f : Die → Die) : (s.modDie d f).now = s.now := rfl
@[simp] theorem State.modDie_base (d : Nat) (f : Die → Die) : (s.modDie d f).base = s.base := rfl
@[simp] theorem State.modDie_ctxs (d : Nat) (f : Die → Die) : (s.modDie d f).ctxs = s.ctxs := rfl
@[simp] theorem State.modDie_cores (d : Nat) (f : Die → Die) : (s.modDie d f).cores = s.cores := rfl
@[simp] theorem State.modDie_runs (d : Nat) (f : Die → Die) : (s.modDie d f).runs = s.runs := rfl
@[simp] theorem State.modDie_nextRun (d : Nat) (f : Die → Die) : (s.modDie d f).nextRun = s.nextRun := rfl
@[simp] theorem State.modDie_vds (d : Nat) (f : Die → Die) : (s.modDie d f).vds = s.vds := rfl
@[simp] theorem State.modDie_dampers (d : Nat) (f : Die → Die) : (s.modDie d f).dampers = s.dampers := rfl
@[simp] theorem State.modDie_dram (d : Nat) (f : Die → Die) : (s.modDie d f).dram = s.dram := rfl
@[simp] theorem State.modDie_sync (d : Nat) (f : Die → Die) : (s.modDie d f).sync = s.sync := rfl
@[simp] theorem State.modDie_poison (d : Nat) (f : Die → Die) : (s.modDie d f).poison = s.poison := rfl
@[simp] theorem State.modDie_arrivals (d : Nat) (f : Die → Die) : (s.modDie d f).arrivals = s.arrivals := rfl
@[simp] theorem State.modDie_flue (d : Nat) (f : Die → Die) : (s.modDie d f).flue = s.flue := rfl
@[simp] theorem State.modDie_directed (d : Nat) (f : Die → Die) : (s.modDie d f).directed = s.directed := rfl
@[simp] theorem State.modDie_xchunks (d : Nat) (f : Die → Die) : (s.modDie d f).xchunks = s.xchunks := rfl
@[simp] theorem State.modDie_lathe (d : Nat) (f : Die → Die) : (s.modDie d f).lathe = s.lathe := rfl
@[simp] theorem State.modDie_strips (d : Nat) (f : Die → Die) : (s.modDie d f).strips = s.strips := rfl
@[simp] theorem State.modDie_colls (d : Nat) (f : Die → Die) : (s.modDie d f).colls = s.colls := rfl
@[simp] theorem State.modDie_podOut (d : Nat) (f : Die → Die) : (s.modDie d f).podOut = s.podOut := rfl
@[simp] theorem State.modDie_podIn (d : Nat) (f : Die → Die) : (s.modDie d f).podIn = s.podIn := rfl
@[simp] theorem State.modDie_fuses (d : Nat) (f : Die → Die) : (s.modDie d f).fuses = s.fuses := rfl
@[simp] theorem State.modDie_imbuf (d : Nat) (f : Die → Die) : (s.modDie d f).imbuf = s.imbuf := rfl
@[simp] theorem State.modDie_imcmd (d : Nat) (f : Die → Die) : (s.modDie d f).imcmd = s.imcmd := rfl
@[simp] theorem State.modDie_imstat (d : Nat) (f : Die → Die) : (s.modDie d f).imstat = s.imstat := rfl
@[simp] theorem State.modDie_podId (d : Nat) (f : Die → Die) : (s.modDie d f).podId = s.podId := rfl
@[simp] theorem State.modDie_convOk (d : Nat) (f : Die → Die) : (s.modDie d f).convOk = s.convOk := rfl
@[simp] theorem State.modDie_inputOk (d : Nat) (f : Die → Die) : (s.modDie d f).inputOk = s.inputOk := rfl
@[simp] theorem State.modDie_pkgLimit (d : Nat) (f : Die → Die) : (s.modDie d f).pkgLimit = s.pkgLimit := rfl
@[simp] theorem State.modDie_linkUp (d : Nat) (f : Die → Die) : (s.modDie d f).linkUp = s.linkUp := rfl
@[simp] theorem State.modDie_linkGen (d : Nat) (f : Die → Die) : (s.modDie d f).linkGen = s.linkGen := rfl
@[simp] theorem State.modDie_linkWidth (d : Nat) (f : Die → Die) : (s.modDie d f).linkWidth = s.linkWidth := rfl
@[simp] theorem State.modDie_grades (d : Nat) (f : Die → Die) : (s.modDie d f).grades = s.grades := rfl
@[simp] theorem State.modDie_podLinks (d : Nat) (f : Die → Die) : (s.modDie d f).podLinks = s.podLinks := rfl
@[simp] theorem State.modDie_hostMem (d : Nat) (f : Die → Die) : (s.modDie d f).hostMem = s.hostMem := rfl
@[simp] theorem State.modDie_msix (d : Nat) (f : Die → Die) : (s.modDie d f).msix = s.msix := rfl
@[simp] theorem State.modDie_reports (d : Nat) (f : Die → Die) : (s.modDie d f).reports = s.reports := rfl
@[simp] theorem State.modDie_bar2 (d : Nat) (f : Die → Die) : (s.modDie d f).bar2 = s.bar2 := rfl
@[simp] theorem State.modDie_up (d : Nat) (f : Die → Die) : (s.modDie d f).up = s.up := rfl
@[simp] theorem State.modDie_booted (d : Nat) (f : Die → Die) : (s.modDie d f).booted = s.booted := rfl
@[simp] theorem State.modDie_aer (d : Nat) (f : Die → Die) : (s.modDie d f).aer = s.aer := rfl
@[simp] theorem State.modDie_imreq (d : Nat) (f : Die → Die) : (s.modDie d f).imreq = s.imreq := rfl
@[simp] theorem State.modDie_refills (d : Nat) (f : Die → Die) : (s.modDie d f).refills = s.refills := rfl
@[simp] theorem State.modDie_edgeRel (d : Nat) (f : Die → Die) : (s.modDie d f).edgeRel = s.edgeRel := rfl
@[simp] theorem State.modDie_edgeTurn (d : Nat) (f : Die → Die) : (s.modDie d f).edgeTurn = s.edgeTurn := rfl
@[simp] theorem State.modDie_bandq (d : Nat) (f : Die → Die) : (s.modDie d f).bandq = s.bandq := rfl

/-! ## modVd -/

@[simp] theorem State.modVd_agenda (n : Nat) (f : Vd → Vd) : (s.modVd n f).agenda = s.agenda := rfl
@[simp] theorem State.modVd_cur (n : Nat) (f : Vd → Vd) : (s.modVd n f).cur = s.cur := rfl
@[simp] theorem State.modVd_ir (n : Nat) (f : Vd → Vd) : (s.modVd n f).ir = s.ir := rfl
@[simp] theorem State.modVd_again (n : Nat) (f : Vd → Vd) : (s.modVd n f).again = s.again := rfl
@[simp] theorem State.modVd_skipped (n : Nat) (f : Vd → Vd) : (s.modVd n f).skipped = s.skipped := rfl
@[simp] theorem State.modVd_ev (n : Nat) (f : Vd → Vd) : (s.modVd n f).ev = s.ev := rfl
@[simp] theorem State.modVd_free (n : Nat) (f : Vd → Vd) : (s.modVd n f).free = s.free := rfl
@[simp] theorem State.modVd_order (n : Nat) (f : Vd → Vd) : (s.modVd n f).order = s.order := rfl
@[simp] theorem State.modVd_now (n : Nat) (f : Vd → Vd) : (s.modVd n f).now = s.now := rfl
@[simp] theorem State.modVd_base (n : Nat) (f : Vd → Vd) : (s.modVd n f).base = s.base := rfl
@[simp] theorem State.modVd_ctxs (n : Nat) (f : Vd → Vd) : (s.modVd n f).ctxs = s.ctxs := rfl
@[simp] theorem State.modVd_cores (n : Nat) (f : Vd → Vd) : (s.modVd n f).cores = s.cores := rfl
@[simp] theorem State.modVd_runs (n : Nat) (f : Vd → Vd) : (s.modVd n f).runs = s.runs := rfl
@[simp] theorem State.modVd_nextRun (n : Nat) (f : Vd → Vd) : (s.modVd n f).nextRun = s.nextRun := rfl
@[simp] theorem State.modVd_dies (n : Nat) (f : Vd → Vd) : (s.modVd n f).dies = s.dies := rfl
@[simp] theorem State.modVd_dampers (n : Nat) (f : Vd → Vd) : (s.modVd n f).dampers = s.dampers := rfl
@[simp] theorem State.modVd_dram (n : Nat) (f : Vd → Vd) : (s.modVd n f).dram = s.dram := rfl
@[simp] theorem State.modVd_sync (n : Nat) (f : Vd → Vd) : (s.modVd n f).sync = s.sync := rfl
@[simp] theorem State.modVd_poison (n : Nat) (f : Vd → Vd) : (s.modVd n f).poison = s.poison := rfl
@[simp] theorem State.modVd_arrivals (n : Nat) (f : Vd → Vd) : (s.modVd n f).arrivals = s.arrivals := rfl
@[simp] theorem State.modVd_flue (n : Nat) (f : Vd → Vd) : (s.modVd n f).flue = s.flue := rfl
@[simp] theorem State.modVd_directed (n : Nat) (f : Vd → Vd) : (s.modVd n f).directed = s.directed := rfl
@[simp] theorem State.modVd_xchunks (n : Nat) (f : Vd → Vd) : (s.modVd n f).xchunks = s.xchunks := rfl
@[simp] theorem State.modVd_lathe (n : Nat) (f : Vd → Vd) : (s.modVd n f).lathe = s.lathe := rfl
@[simp] theorem State.modVd_strips (n : Nat) (f : Vd → Vd) : (s.modVd n f).strips = s.strips := rfl
@[simp] theorem State.modVd_colls (n : Nat) (f : Vd → Vd) : (s.modVd n f).colls = s.colls := rfl
@[simp] theorem State.modVd_podOut (n : Nat) (f : Vd → Vd) : (s.modVd n f).podOut = s.podOut := rfl
@[simp] theorem State.modVd_podIn (n : Nat) (f : Vd → Vd) : (s.modVd n f).podIn = s.podIn := rfl
@[simp] theorem State.modVd_fuses (n : Nat) (f : Vd → Vd) : (s.modVd n f).fuses = s.fuses := rfl
@[simp] theorem State.modVd_imbuf (n : Nat) (f : Vd → Vd) : (s.modVd n f).imbuf = s.imbuf := rfl
@[simp] theorem State.modVd_imcmd (n : Nat) (f : Vd → Vd) : (s.modVd n f).imcmd = s.imcmd := rfl
@[simp] theorem State.modVd_imstat (n : Nat) (f : Vd → Vd) : (s.modVd n f).imstat = s.imstat := rfl
@[simp] theorem State.modVd_podId (n : Nat) (f : Vd → Vd) : (s.modVd n f).podId = s.podId := rfl
@[simp] theorem State.modVd_convOk (n : Nat) (f : Vd → Vd) : (s.modVd n f).convOk = s.convOk := rfl
@[simp] theorem State.modVd_inputOk (n : Nat) (f : Vd → Vd) : (s.modVd n f).inputOk = s.inputOk := rfl
@[simp] theorem State.modVd_pkgLimit (n : Nat) (f : Vd → Vd) : (s.modVd n f).pkgLimit = s.pkgLimit := rfl
@[simp] theorem State.modVd_linkUp (n : Nat) (f : Vd → Vd) : (s.modVd n f).linkUp = s.linkUp := rfl
@[simp] theorem State.modVd_linkGen (n : Nat) (f : Vd → Vd) : (s.modVd n f).linkGen = s.linkGen := rfl
@[simp] theorem State.modVd_linkWidth (n : Nat) (f : Vd → Vd) : (s.modVd n f).linkWidth = s.linkWidth := rfl
@[simp] theorem State.modVd_grades (n : Nat) (f : Vd → Vd) : (s.modVd n f).grades = s.grades := rfl
@[simp] theorem State.modVd_podLinks (n : Nat) (f : Vd → Vd) : (s.modVd n f).podLinks = s.podLinks := rfl
@[simp] theorem State.modVd_hostMem (n : Nat) (f : Vd → Vd) : (s.modVd n f).hostMem = s.hostMem := rfl
@[simp] theorem State.modVd_msix (n : Nat) (f : Vd → Vd) : (s.modVd n f).msix = s.msix := rfl
@[simp] theorem State.modVd_reports (n : Nat) (f : Vd → Vd) : (s.modVd n f).reports = s.reports := rfl
@[simp] theorem State.modVd_bar2 (n : Nat) (f : Vd → Vd) : (s.modVd n f).bar2 = s.bar2 := rfl
@[simp] theorem State.modVd_up (n : Nat) (f : Vd → Vd) : (s.modVd n f).up = s.up := rfl
@[simp] theorem State.modVd_booted (n : Nat) (f : Vd → Vd) : (s.modVd n f).booted = s.booted := rfl
@[simp] theorem State.modVd_aer (n : Nat) (f : Vd → Vd) : (s.modVd n f).aer = s.aer := rfl
@[simp] theorem State.modVd_imreq (n : Nat) (f : Vd → Vd) : (s.modVd n f).imreq = s.imreq := rfl
@[simp] theorem State.modVd_refills (n : Nat) (f : Vd → Vd) : (s.modVd n f).refills = s.refills := rfl
@[simp] theorem State.modVd_edgeRel (n : Nat) (f : Vd → Vd) : (s.modVd n f).edgeRel = s.edgeRel := rfl
@[simp] theorem State.modVd_edgeTurn (n : Nat) (f : Vd → Vd) : (s.modVd n f).edgeTurn = s.edgeTurn := rfl
@[simp] theorem State.modVd_bandq (n : Nat) (f : Vd → Vd) : (s.modVd n f).bandq = s.bandq := rfl

/-! ## modRun -/

@[simp] theorem State.modRun_agenda (id : Nat) (f : Run → Run) : (s.modRun id f).agenda = s.agenda := rfl
@[simp] theorem State.modRun_cur (id : Nat) (f : Run → Run) : (s.modRun id f).cur = s.cur := rfl
@[simp] theorem State.modRun_ir (id : Nat) (f : Run → Run) : (s.modRun id f).ir = s.ir := rfl
@[simp] theorem State.modRun_again (id : Nat) (f : Run → Run) : (s.modRun id f).again = s.again := rfl
@[simp] theorem State.modRun_skipped (id : Nat) (f : Run → Run) : (s.modRun id f).skipped = s.skipped := rfl
@[simp] theorem State.modRun_ev (id : Nat) (f : Run → Run) : (s.modRun id f).ev = s.ev := rfl
@[simp] theorem State.modRun_free (id : Nat) (f : Run → Run) : (s.modRun id f).free = s.free := rfl
@[simp] theorem State.modRun_order (id : Nat) (f : Run → Run) : (s.modRun id f).order = s.order := rfl
@[simp] theorem State.modRun_now (id : Nat) (f : Run → Run) : (s.modRun id f).now = s.now := rfl
@[simp] theorem State.modRun_base (id : Nat) (f : Run → Run) : (s.modRun id f).base = s.base := rfl
@[simp] theorem State.modRun_ctxs (id : Nat) (f : Run → Run) : (s.modRun id f).ctxs = s.ctxs := rfl
@[simp] theorem State.modRun_cores (id : Nat) (f : Run → Run) : (s.modRun id f).cores = s.cores := rfl
@[simp] theorem State.modRun_nextRun (id : Nat) (f : Run → Run) : (s.modRun id f).nextRun = s.nextRun := rfl
@[simp] theorem State.modRun_dies (id : Nat) (f : Run → Run) : (s.modRun id f).dies = s.dies := rfl
@[simp] theorem State.modRun_vds (id : Nat) (f : Run → Run) : (s.modRun id f).vds = s.vds := rfl
@[simp] theorem State.modRun_dampers (id : Nat) (f : Run → Run) : (s.modRun id f).dampers = s.dampers := rfl
@[simp] theorem State.modRun_dram (id : Nat) (f : Run → Run) : (s.modRun id f).dram = s.dram := rfl
@[simp] theorem State.modRun_sync (id : Nat) (f : Run → Run) : (s.modRun id f).sync = s.sync := rfl
@[simp] theorem State.modRun_poison (id : Nat) (f : Run → Run) : (s.modRun id f).poison = s.poison := rfl
@[simp] theorem State.modRun_arrivals (id : Nat) (f : Run → Run) : (s.modRun id f).arrivals = s.arrivals := rfl
@[simp] theorem State.modRun_flue (id : Nat) (f : Run → Run) : (s.modRun id f).flue = s.flue := rfl
@[simp] theorem State.modRun_directed (id : Nat) (f : Run → Run) : (s.modRun id f).directed = s.directed := rfl
@[simp] theorem State.modRun_xchunks (id : Nat) (f : Run → Run) : (s.modRun id f).xchunks = s.xchunks := rfl
@[simp] theorem State.modRun_lathe (id : Nat) (f : Run → Run) : (s.modRun id f).lathe = s.lathe := rfl
@[simp] theorem State.modRun_strips (id : Nat) (f : Run → Run) : (s.modRun id f).strips = s.strips := rfl
@[simp] theorem State.modRun_colls (id : Nat) (f : Run → Run) : (s.modRun id f).colls = s.colls := rfl
@[simp] theorem State.modRun_podOut (id : Nat) (f : Run → Run) : (s.modRun id f).podOut = s.podOut := rfl
@[simp] theorem State.modRun_podIn (id : Nat) (f : Run → Run) : (s.modRun id f).podIn = s.podIn := rfl
@[simp] theorem State.modRun_fuses (id : Nat) (f : Run → Run) : (s.modRun id f).fuses = s.fuses := rfl
@[simp] theorem State.modRun_imbuf (id : Nat) (f : Run → Run) : (s.modRun id f).imbuf = s.imbuf := rfl
@[simp] theorem State.modRun_imcmd (id : Nat) (f : Run → Run) : (s.modRun id f).imcmd = s.imcmd := rfl
@[simp] theorem State.modRun_imstat (id : Nat) (f : Run → Run) : (s.modRun id f).imstat = s.imstat := rfl
@[simp] theorem State.modRun_podId (id : Nat) (f : Run → Run) : (s.modRun id f).podId = s.podId := rfl
@[simp] theorem State.modRun_convOk (id : Nat) (f : Run → Run) : (s.modRun id f).convOk = s.convOk := rfl
@[simp] theorem State.modRun_inputOk (id : Nat) (f : Run → Run) : (s.modRun id f).inputOk = s.inputOk := rfl
@[simp] theorem State.modRun_pkgLimit (id : Nat) (f : Run → Run) : (s.modRun id f).pkgLimit = s.pkgLimit := rfl
@[simp] theorem State.modRun_linkUp (id : Nat) (f : Run → Run) : (s.modRun id f).linkUp = s.linkUp := rfl
@[simp] theorem State.modRun_linkGen (id : Nat) (f : Run → Run) : (s.modRun id f).linkGen = s.linkGen := rfl
@[simp] theorem State.modRun_linkWidth (id : Nat) (f : Run → Run) : (s.modRun id f).linkWidth = s.linkWidth := rfl
@[simp] theorem State.modRun_grades (id : Nat) (f : Run → Run) : (s.modRun id f).grades = s.grades := rfl
@[simp] theorem State.modRun_podLinks (id : Nat) (f : Run → Run) : (s.modRun id f).podLinks = s.podLinks := rfl
@[simp] theorem State.modRun_hostMem (id : Nat) (f : Run → Run) : (s.modRun id f).hostMem = s.hostMem := rfl
@[simp] theorem State.modRun_msix (id : Nat) (f : Run → Run) : (s.modRun id f).msix = s.msix := rfl
@[simp] theorem State.modRun_reports (id : Nat) (f : Run → Run) : (s.modRun id f).reports = s.reports := rfl
@[simp] theorem State.modRun_bar2 (id : Nat) (f : Run → Run) : (s.modRun id f).bar2 = s.bar2 := rfl
@[simp] theorem State.modRun_up (id : Nat) (f : Run → Run) : (s.modRun id f).up = s.up := rfl
@[simp] theorem State.modRun_booted (id : Nat) (f : Run → Run) : (s.modRun id f).booted = s.booted := rfl
@[simp] theorem State.modRun_aer (id : Nat) (f : Run → Run) : (s.modRun id f).aer = s.aer := rfl
@[simp] theorem State.modRun_imreq (id : Nat) (f : Run → Run) : (s.modRun id f).imreq = s.imreq := rfl
@[simp] theorem State.modRun_refills (id : Nat) (f : Run → Run) : (s.modRun id f).refills = s.refills := rfl
@[simp] theorem State.modRun_edgeRel (id : Nat) (f : Run → Run) : (s.modRun id f).edgeRel = s.edgeRel := rfl
@[simp] theorem State.modRun_edgeTurn (id : Nat) (f : Run → Run) : (s.modRun id f).edgeTurn = s.edgeTurn := rfl
@[simp] theorem State.modRun_bandq (id : Nat) (f : Run → Run) : (s.modRun id f).bandq = s.bandq := rfl

/-! ## What the accessors read -/

@[simp] theorem State.ctx_setCtx_self (k : Nat) (x : Ctx) : (s.setCtx k x).ctx k = x := tget_tset_self
theorem State.ctx_setCtx_other {j k : Nat} (x : Ctx) (h : j ≠ k) : (s.setCtx k x).ctx j = s.ctx j := tget_tset_other h
@[simp] theorem State.ctx_modCtx_self (k : Nat) (f : Ctx → Ctx) : (s.modCtx k f).ctx k = f (s.ctx k) := tget_tset_self
theorem State.ctx_modCtx_other {j k : Nat} (f : Ctx → Ctx) (h : j ≠ k) : (s.modCtx k f).ctx j = s.ctx j := tget_tset_other h
theorem State.ctx_modCtx (j k : Nat) (f : Ctx → Ctx) : (s.modCtx k f).ctx j = if j = k then f (s.ctx k) else s.ctx j := tget_tset
@[simp] theorem State.ctx_setCore (j k : Nat) (x : Core) : (s.setCore k x).ctx j = s.ctx j := rfl
@[simp] theorem State.ctx_modCore (j k : Nat) (f : Core → Core) : (s.modCore k f).ctx j = s.ctx j := rfl
@[simp] theorem State.ctx_setDie (j k : Nat) (x : Die) : (s.setDie k x).ctx j = s.ctx j := rfl
@[simp] theorem State.ctx_modDie (j k : Nat) (f : Die → Die) : (s.modDie k f).ctx j = s.ctx j := rfl
@[simp] theorem State.ctx_setVd (j k : Nat) (x : Vd) : (s.setVd k x).ctx j = s.ctx j := rfl
@[simp] theorem State.ctx_modVd (j k : Nat) (f : Vd → Vd) : (s.modVd k f).ctx j = s.ctx j := rfl
@[simp] theorem State.ctx_modRun (j k : Nat) (f : Run → Run) : (s.modRun k f).ctx j = s.ctx j := rfl

@[simp] theorem State.core_setCore_self (k : Nat) (x : Core) : (s.setCore k x).core k = x := tget_tset_self
theorem State.core_setCore_other {j k : Nat} (x : Core) (h : j ≠ k) : (s.setCore k x).core j = s.core j := tget_tset_other h
@[simp] theorem State.core_modCore_self (k : Nat) (f : Core → Core) : (s.modCore k f).core k = f (s.core k) := tget_tset_self
theorem State.core_modCore_other {j k : Nat} (f : Core → Core) (h : j ≠ k) : (s.modCore k f).core j = s.core j := tget_tset_other h
theorem State.core_modCore (j k : Nat) (f : Core → Core) : (s.modCore k f).core j = if j = k then f (s.core k) else s.core j := tget_tset
@[simp] theorem State.core_setCtx (j k : Nat) (x : Ctx) : (s.setCtx k x).core j = s.core j := rfl
@[simp] theorem State.core_modCtx (j k : Nat) (f : Ctx → Ctx) : (s.modCtx k f).core j = s.core j := rfl
@[simp] theorem State.core_setDie (j k : Nat) (x : Die) : (s.setDie k x).core j = s.core j := rfl
@[simp] theorem State.core_modDie (j k : Nat) (f : Die → Die) : (s.modDie k f).core j = s.core j := rfl
@[simp] theorem State.core_setVd (j k : Nat) (x : Vd) : (s.setVd k x).core j = s.core j := rfl
@[simp] theorem State.core_modVd (j k : Nat) (f : Vd → Vd) : (s.modVd k f).core j = s.core j := rfl
@[simp] theorem State.core_modRun (j k : Nat) (f : Run → Run) : (s.modRun k f).core j = s.core j := rfl

@[simp] theorem State.die_setDie_self (k : Nat) (x : Die) : (s.setDie k x).die k = x := tget_tset_self
theorem State.die_setDie_other {j k : Nat} (x : Die) (h : j ≠ k) : (s.setDie k x).die j = s.die j := tget_tset_other h
@[simp] theorem State.die_modDie_self (k : Nat) (f : Die → Die) : (s.modDie k f).die k = f (s.die k) := tget_tset_self
theorem State.die_modDie_other {j k : Nat} (f : Die → Die) (h : j ≠ k) : (s.modDie k f).die j = s.die j := tget_tset_other h
theorem State.die_modDie (j k : Nat) (f : Die → Die) : (s.modDie k f).die j = if j = k then f (s.die k) else s.die j := tget_tset
@[simp] theorem State.die_setCtx (j k : Nat) (x : Ctx) : (s.setCtx k x).die j = s.die j := rfl
@[simp] theorem State.die_modCtx (j k : Nat) (f : Ctx → Ctx) : (s.modCtx k f).die j = s.die j := rfl
@[simp] theorem State.die_setCore (j k : Nat) (x : Core) : (s.setCore k x).die j = s.die j := rfl
@[simp] theorem State.die_modCore (j k : Nat) (f : Core → Core) : (s.modCore k f).die j = s.die j := rfl
@[simp] theorem State.die_setVd (j k : Nat) (x : Vd) : (s.setVd k x).die j = s.die j := rfl
@[simp] theorem State.die_modVd (j k : Nat) (f : Vd → Vd) : (s.modVd k f).die j = s.die j := rfl
@[simp] theorem State.die_modRun (j k : Nat) (f : Run → Run) : (s.modRun k f).die j = s.die j := rfl

@[simp] theorem State.vd_setVd_self (k : Nat) (x : Vd) : (s.setVd k x).vd k = x := tget_tset_self
theorem State.vd_setVd_other {j k : Nat} (x : Vd) (h : j ≠ k) : (s.setVd k x).vd j = s.vd j := tget_tset_other h
@[simp] theorem State.vd_modVd_self (k : Nat) (f : Vd → Vd) : (s.modVd k f).vd k = f (s.vd k) := tget_tset_self
theorem State.vd_modVd_other {j k : Nat} (f : Vd → Vd) (h : j ≠ k) : (s.modVd k f).vd j = s.vd j := tget_tset_other h
theorem State.vd_modVd (j k : Nat) (f : Vd → Vd) : (s.modVd k f).vd j = if j = k then f (s.vd k) else s.vd j := tget_tset
@[simp] theorem State.vd_setCtx (j k : Nat) (x : Ctx) : (s.setCtx k x).vd j = s.vd j := rfl
@[simp] theorem State.vd_modCtx (j k : Nat) (f : Ctx → Ctx) : (s.modCtx k f).vd j = s.vd j := rfl
@[simp] theorem State.vd_setCore (j k : Nat) (x : Core) : (s.setCore k x).vd j = s.vd j := rfl
@[simp] theorem State.vd_modCore (j k : Nat) (f : Core → Core) : (s.modCore k f).vd j = s.vd j := rfl
@[simp] theorem State.vd_setDie (j k : Nat) (x : Die) : (s.setDie k x).vd j = s.vd j := rfl
@[simp] theorem State.vd_modDie (j k : Nat) (f : Die → Die) : (s.modDie k f).vd j = s.vd j := rfl
@[simp] theorem State.vd_modRun (j k : Nat) (f : Run → Run) : (s.modRun k f).vd j = s.vd j := rfl

@[simp] theorem State.run_setCtx (id k : Nat) (x : Ctx) : (s.setCtx k x).run id = s.run id := rfl
@[simp] theorem State.run_modCtx (id k : Nat) (f : Ctx → Ctx) : (s.modCtx k f).run id = s.run id := rfl
@[simp] theorem State.run_setCore (id k : Nat) (x : Core) : (s.setCore k x).run id = s.run id := rfl
@[simp] theorem State.run_modCore (id k : Nat) (f : Core → Core) : (s.modCore k f).run id = s.run id := rfl
@[simp] theorem State.run_setDie (id k : Nat) (x : Die) : (s.setDie k x).run id = s.run id := rfl
@[simp] theorem State.run_modDie (id k : Nat) (f : Die → Die) : (s.modDie k f).run id = s.run id := rfl
@[simp] theorem State.run_setVd (id k : Nat) (x : Vd) : (s.setVd k x).run id = s.run id := rfl
@[simp] theorem State.run_modVd (id k : Nat) (f : Vd → Vd) : (s.modVd k f).run id = s.run id := rfl

/-- The run a context works for is as before where its role is. -/
theorem State.ctxRun_modCtx (cid k : Nat) (f : Ctx → Ctx) (h : (f (s.ctx k)).role = (s.ctx k).role) :
    (s.modCtx k f).ctxRun cid = s.ctxRun cid := by
  unfold State.ctxRun
  rw [State.ctx_modCtx]
  split
  · rename_i e
    subst e
    rw [h]
    rfl
  · rfl

@[simp] theorem State.ctxRun_setCore (cid k : Nat) (x : Core) : (s.setCore k x).ctxRun cid = s.ctxRun cid := rfl
@[simp] theorem State.ctxRun_modCore (cid k : Nat) (f : Core → Core) : (s.modCore k f).ctxRun cid = s.ctxRun cid := rfl

/-! ## Register writes -/

variable (c : Ctx)

/-! A register write, a result in flight, a flag set and a staged result leave every other field as it was. -/

@[simp] theorem Ctx.write_pc (k : File) (n : Nat) (w : Vec) : (c.write k n w).pc = c.pc := by cases k <;> simp only [Ctx.write] <;> (try split) <;> rfl
@[simp] theorem Ctx.write_fireno (k : File) (n : Nat) (w : Vec) : (c.write k n w).fireno = c.fireno := by cases k <;> simp only [Ctx.write] <;> (try split) <;> rfl
@[simp] theorem Ctx.write_fflags (k : File) (n : Nat) (w : Vec) : (c.write k n w).fflags = c.fflags := by cases k <;> simp only [Ctx.write] <;> (try split) <;> rfl
@[simp] theorem Ctx.write_frm (k : File) (n : Nat) (w : Vec) : (c.write k n w).frm = c.frm := by cases k <;> simp only [Ctx.write] <;> (try split) <;> rfl
@[simp] theorem Ctx.write_segid (k : File) (n : Nat) (w : Vec) : (c.write k n w).segid = c.segid := by cases k <;> simp only [Ctx.write] <;> (try split) <;> rfl
@[simp] theorem Ctx.write_argbase (k : File) (n : Nat) (w : Vec) : (c.write k n w).argbase = c.argbase := by cases k <;> simp only [Ctx.write] <;> (try split) <;> rfl
@[simp] theorem Ctx.write_ccond (k : File) (n : Nat) (w : Vec) : (c.write k n w).ccond = c.ccond := by cases k <;> simp only [Ctx.write] <;> (try split) <;> rfl
@[simp] theorem Ctx.write_stepEn (k : File) (n : Nat) (w : Vec) : (c.write k n w).stepEn = c.stepEn := by cases k <;> simp only [Ctx.write] <;> (try split) <;> rfl
@[simp] theorem Ctx.write_bpa (k : File) (n : Nat) (w : Vec) : (c.write k n w).bpa = c.bpa := by cases k <;> simp only [Ctx.write] <;> (try split) <;> rfl
@[simp] theorem Ctx.write_ctag (k : File) (n : Nat) (w : Vec) : (c.write k n w).ctag = c.ctag := by cases k <;> simp only [Ctx.write] <;> (try split) <;> rfl
@[simp] theorem Ctx.write_last (k : File) (n : Nat) (w : Vec) : (c.write k n w).last = c.last := by cases k <;> simp only [Ctx.write] <;> (try split) <;> rfl
@[simp] theorem Ctx.write_skip (k : File) (n : Nat) (w : Vec) : (c.write k n w).skip = c.skip := by cases k <;> simp only [Ctx.write] <;> (try split) <;> rfl
@[simp] theorem Ctx.write_bphit (k : File) (n : Nat) (w : Vec) : (c.write k n w).bphit = c.bphit := by cases k <;> simp only [Ctx.write] <;> (try split) <;> rfl
@[simp] theorem Ctx.write_mon (k : File) (n : Nat) (w : Vec) : (c.write k n w).mon = c.mon := by cases k <;> simp only [Ctx.write] <;> (try split) <;> rfl
@[simp] theorem Ctx.write_fltrec (k : File) (n : Nat) (w : Vec) : (c.write k n w).fltrec = c.fltrec := by cases k <;> simp only [Ctx.write] <;> (try split) <;> rfl
@[simp] theorem Ctx.write_pend (k : File) (n : Nat) (w : Vec) : (c.write k n w).pend = c.pend := by cases k <;> simp only [Ctx.write] <;> (try split) <;> rfl
@[simp] theorem Ctx.write_land (k : File) (n : Nat) (w : Vec) : (c.write k n w).land = c.land := by cases k <;> simp only [Ctx.write] <;> (try split) <;> rfl
@[simp] theorem Ctx.write_park (k : File) (n : Nat) (w : Vec) : (c.write k n w).park = c.park := by cases k <;> simp only [Ctx.write] <;> (try split) <;> rfl
@[simp] theorem Ctx.write_gap (k : File) (n : Nat) (w : Vec) : (c.write k n w).gap = c.gap := by cases k <;> simp only [Ctx.write] <;> (try split) <;> rfl
@[simp] theorem Ctx.write_wait (k : File) (n : Nat) (w : Vec) : (c.write k n w).wait = c.wait := by cases k <;> simp only [Ctx.write] <;> (try split) <;> rfl
@[simp] theorem Ctx.write_idle (k : File) (n : Nat) (w : Vec) : (c.write k n w).idle = c.idle := by cases k <;> simp only [Ctx.write] <;> (try split) <;> rfl
@[simp] theorem Ctx.write_role (k : File) (n : Nat) (w : Vec) : (c.write k n w).role = c.role := by cases k <;> simp only [Ctx.write] <;> (try split) <;> rfl
@[simp] theorem Ctx.write_running (k : File) (n : Nat) (w : Vec) : (c.write k n w).running = c.running := by cases k <;> simp only [Ctx.write] <;> (try split) <;> rfl
@[simp] theorem Ctx.write_fresh (k : File) (n : Nat) (w : Vec) : (c.write k n w).fresh = c.fresh := by cases k <;> simp only [Ctx.write] <;> (try split) <;> rfl
@[simp] theorem Ctx.write_moved (k : File) (n : Nat) (w : Vec) : (c.write k n w).moved = c.moved := by cases k <;> simp only [Ctx.write] <;> (try split) <;> rfl
@[simp] theorem Ctx.write_bars (k : File) (n : Nat) (w : Vec) : (c.write k n w).bars = c.bars := by cases k <;> simp only [Ctx.write] <;> (try split) <;> rfl
@[simp] theorem Ctx.write_arrivedBars (k : File) (n : Nat) (w : Vec) : (c.write k n w).arrivedBars = c.arrivedBars := by cases k <;> simp only [Ctx.write] <;> (try split) <;> rfl
@[simp] theorem Ctx.write_departedBars (k : File) (n : Nat) (w : Vec) : (c.write k n w).departedBars = c.departedBars := by cases k <;> simp only [Ctx.write] <;> (try split) <;> rfl
@[simp] theorem Ctx.write_held (k : File) (n : Nat) (w : Vec) : (c.write k n w).held = c.held := by cases k <;> simp only [Ctx.write] <;> (try split) <;> rfl
@[simp] theorem Ctx.write_withheld (k : File) (n : Nat) (w : Vec) : (c.write k n w).withheld = c.withheld := by cases k <;> simp only [Ctx.write] <;> (try split) <;> rfl
@[simp] theorem Ctx.write_fires (k : File) (n : Nat) (w : Vec) : (c.write k n w).fires = c.fires := by cases k <;> simp only [Ctx.write] <;> (try split) <;> rfl
@[simp] theorem Ctx.write_eligAt (k : File) (n : Nat) (w : Vec) : (c.write k n w).eligAt = c.eligAt := by cases k <;> simp only [Ctx.write] <;> (try split) <;> rfl
@[simp] theorem Ctx.write_token (k : File) (n : Nat) (w : Vec) : (c.write k n w).token = c.token := by cases k <;> simp only [Ctx.write] <;> (try split) <;> rfl
@[simp] theorem Ctx.write_ringsUsed (k : File) (n : Nat) (w : Vec) : (c.write k n w).ringsUsed = c.ringsUsed := by cases k <;> simp only [Ctx.write] <;> (try split) <;> rfl
@[simp] theorem Ctx.write_stepDue (k : File) (n : Nat) (w : Vec) : (c.write k n w).stepDue = c.stepDue := by cases k <;> simp only [Ctx.write] <;> (try split) <;> rfl
@[simp] theorem Ctx.write_sw (k : File) (n : Nat) (w : Vec) : (c.write k n w).sw = c.sw := by cases k <;> simp only [Ctx.write] <;> (try split) <;> rfl
@[simp] theorem Ctx.write_child (k : File) (n : Nat) (w : Vec) : (c.write k n w).child = c.child := by cases k <;> simp only [Ctx.write] <;> (try split) <;> rfl
@[simp] theorem Ctx.write_line (k : File) (n : Nat) (w : Vec) : (c.write k n w).line = c.line := by cases k <;> simp only [Ctx.write] <;> (try split) <;> rfl
@[simp] theorem Ctx.write_fpaid (k : File) (n : Nat) (w : Vec) : (c.write k n w).fpaid = c.fpaid := by cases k <;> simp only [Ctx.write] <;> (try split) <;> rfl
@[simp] theorem Ctx.write_fstood (k : File) (n : Nat) (w : Vec) : (c.write k n w).fstood = c.fstood := by cases k <;> simp only [Ctx.write] <;> (try split) <;> rfl
@[simp] theorem Ctx.pendW_x (k : File) (n : Nat) (w : Vec) (l : Nat) : (c.pendW k n w l).x = c.x := by unfold Ctx.pendW; split <;> rfl
@[simp] theorem Ctx.pendW_v (k : File) (n : Nat) (w : Vec) (l : Nat) : (c.pendW k n w l).v = c.v := by unfold Ctx.pendW; split <;> rfl
@[simp] theorem Ctx.pendW_p (k : File) (n : Nat) (w : Vec) (l : Nat) : (c.pendW k n w l).p = c.p := by unfold Ctx.pendW; split <;> rfl
@[simp] theorem Ctx.pendW_m (k : File) (n : Nat) (w : Vec) (l : Nat) : (c.pendW k n w l).m = c.m := by unfold Ctx.pendW; split <;> rfl
@[simp] theorem Ctx.pendW_sh (k : File) (n : Nat) (w : Vec) (l : Nat) : (c.pendW k n w l).sh = c.sh := by unfold Ctx.pendW; split <;> rfl
@[simp] theorem Ctx.pendW_pc (k : File) (n : Nat) (w : Vec) (l : Nat) : (c.pendW k n w l).pc = c.pc := by unfold Ctx.pendW; split <;> rfl
@[simp] theorem Ctx.pendW_fireno (k : File) (n : Nat) (w : Vec) (l : Nat) : (c.pendW k n w l).fireno = c.fireno := by unfold Ctx.pendW; split <;> rfl
@[simp] theorem Ctx.pendW_fflags (k : File) (n : Nat) (w : Vec) (l : Nat) : (c.pendW k n w l).fflags = c.fflags := by unfold Ctx.pendW; split <;> rfl
@[simp] theorem Ctx.pendW_frm (k : File) (n : Nat) (w : Vec) (l : Nat) : (c.pendW k n w l).frm = c.frm := by unfold Ctx.pendW; split <;> rfl
@[simp] theorem Ctx.pendW_segid (k : File) (n : Nat) (w : Vec) (l : Nat) : (c.pendW k n w l).segid = c.segid := by unfold Ctx.pendW; split <;> rfl
@[simp] theorem Ctx.pendW_argbase (k : File) (n : Nat) (w : Vec) (l : Nat) : (c.pendW k n w l).argbase = c.argbase := by unfold Ctx.pendW; split <;> rfl
@[simp] theorem Ctx.pendW_ccond (k : File) (n : Nat) (w : Vec) (l : Nat) : (c.pendW k n w l).ccond = c.ccond := by unfold Ctx.pendW; split <;> rfl
@[simp] theorem Ctx.pendW_stepEn (k : File) (n : Nat) (w : Vec) (l : Nat) : (c.pendW k n w l).stepEn = c.stepEn := by unfold Ctx.pendW; split <;> rfl
@[simp] theorem Ctx.pendW_bpa (k : File) (n : Nat) (w : Vec) (l : Nat) : (c.pendW k n w l).bpa = c.bpa := by unfold Ctx.pendW; split <;> rfl
@[simp] theorem Ctx.pendW_ctag (k : File) (n : Nat) (w : Vec) (l : Nat) : (c.pendW k n w l).ctag = c.ctag := by unfold Ctx.pendW; split <;> rfl
@[simp] theorem Ctx.pendW_last (k : File) (n : Nat) (w : Vec) (l : Nat) : (c.pendW k n w l).last = c.last := by unfold Ctx.pendW; split <;> rfl
@[simp] theorem Ctx.pendW_skip (k : File) (n : Nat) (w : Vec) (l : Nat) : (c.pendW k n w l).skip = c.skip := by unfold Ctx.pendW; split <;> rfl
@[simp] theorem Ctx.pendW_bphit (k : File) (n : Nat) (w : Vec) (l : Nat) : (c.pendW k n w l).bphit = c.bphit := by unfold Ctx.pendW; split <;> rfl
@[simp] theorem Ctx.pendW_mon (k : File) (n : Nat) (w : Vec) (l : Nat) : (c.pendW k n w l).mon = c.mon := by unfold Ctx.pendW; split <;> rfl
@[simp] theorem Ctx.pendW_fltrec (k : File) (n : Nat) (w : Vec) (l : Nat) : (c.pendW k n w l).fltrec = c.fltrec := by unfold Ctx.pendW; split <;> rfl
@[simp] theorem Ctx.pendW_land (k : File) (n : Nat) (w : Vec) (l : Nat) : (c.pendW k n w l).land = c.land := by unfold Ctx.pendW; split <;> rfl
@[simp] theorem Ctx.pendW_park (k : File) (n : Nat) (w : Vec) (l : Nat) : (c.pendW k n w l).park = c.park := by unfold Ctx.pendW; split <;> rfl
@[simp] theorem Ctx.pendW_gap (k : File) (n : Nat) (w : Vec) (l : Nat) : (c.pendW k n w l).gap = c.gap := by unfold Ctx.pendW; split <;> rfl
@[simp] theorem Ctx.pendW_wait (k : File) (n : Nat) (w : Vec) (l : Nat) : (c.pendW k n w l).wait = c.wait := by unfold Ctx.pendW; split <;> rfl
@[simp] theorem Ctx.pendW_idle (k : File) (n : Nat) (w : Vec) (l : Nat) : (c.pendW k n w l).idle = c.idle := by unfold Ctx.pendW; split <;> rfl
@[simp] theorem Ctx.pendW_role (k : File) (n : Nat) (w : Vec) (l : Nat) : (c.pendW k n w l).role = c.role := by unfold Ctx.pendW; split <;> rfl
@[simp] theorem Ctx.pendW_running (k : File) (n : Nat) (w : Vec) (l : Nat) : (c.pendW k n w l).running = c.running := by unfold Ctx.pendW; split <;> rfl
@[simp] theorem Ctx.pendW_fresh (k : File) (n : Nat) (w : Vec) (l : Nat) : (c.pendW k n w l).fresh = c.fresh := by unfold Ctx.pendW; split <;> rfl
@[simp] theorem Ctx.pendW_moved (k : File) (n : Nat) (w : Vec) (l : Nat) : (c.pendW k n w l).moved = c.moved := by unfold Ctx.pendW; split <;> rfl
@[simp] theorem Ctx.pendW_bars (k : File) (n : Nat) (w : Vec) (l : Nat) : (c.pendW k n w l).bars = c.bars := by unfold Ctx.pendW; split <;> rfl
@[simp] theorem Ctx.pendW_arrivedBars (k : File) (n : Nat) (w : Vec) (l : Nat) : (c.pendW k n w l).arrivedBars = c.arrivedBars := by unfold Ctx.pendW; split <;> rfl
@[simp] theorem Ctx.pendW_departedBars (k : File) (n : Nat) (w : Vec) (l : Nat) : (c.pendW k n w l).departedBars = c.departedBars := by unfold Ctx.pendW; split <;> rfl
@[simp] theorem Ctx.pendW_held (k : File) (n : Nat) (w : Vec) (l : Nat) : (c.pendW k n w l).held = c.held := by unfold Ctx.pendW; split <;> rfl
@[simp] theorem Ctx.pendW_withheld (k : File) (n : Nat) (w : Vec) (l : Nat) : (c.pendW k n w l).withheld = c.withheld := by unfold Ctx.pendW; split <;> rfl
@[simp] theorem Ctx.pendW_fires (k : File) (n : Nat) (w : Vec) (l : Nat) : (c.pendW k n w l).fires = c.fires := by unfold Ctx.pendW; split <;> rfl
@[simp] theorem Ctx.pendW_eligAt (k : File) (n : Nat) (w : Vec) (l : Nat) : (c.pendW k n w l).eligAt = c.eligAt := by unfold Ctx.pendW; split <;> rfl
@[simp] theorem Ctx.pendW_token (k : File) (n : Nat) (w : Vec) (l : Nat) : (c.pendW k n w l).token = c.token := by unfold Ctx.pendW; split <;> rfl
@[simp] theorem Ctx.pendW_ringsUsed (k : File) (n : Nat) (w : Vec) (l : Nat) : (c.pendW k n w l).ringsUsed = c.ringsUsed := by unfold Ctx.pendW; split <;> rfl
@[simp] theorem Ctx.pendW_stepDue (k : File) (n : Nat) (w : Vec) (l : Nat) : (c.pendW k n w l).stepDue = c.stepDue := by unfold Ctx.pendW; split <;> rfl
@[simp] theorem Ctx.pendW_sw (k : File) (n : Nat) (w : Vec) (l : Nat) : (c.pendW k n w l).sw = c.sw := by unfold Ctx.pendW; split <;> rfl
@[simp] theorem Ctx.pendW_child (k : File) (n : Nat) (w : Vec) (l : Nat) : (c.pendW k n w l).child = c.child := by unfold Ctx.pendW; split <;> rfl
@[simp] theorem Ctx.pendW_line (k : File) (n : Nat) (w : Vec) (l : Nat) : (c.pendW k n w l).line = c.line := by unfold Ctx.pendW; split <;> rfl
@[simp] theorem Ctx.pendW_fpaid (k : File) (n : Nat) (w : Vec) (l : Nat) : (c.pendW k n w l).fpaid = c.fpaid := by unfold Ctx.pendW; split <;> rfl
@[simp] theorem Ctx.pendW_fstood (k : File) (n : Nat) (w : Vec) (l : Nat) : (c.pendW k n w l).fstood = c.fstood := by unfold Ctx.pendW; split <;> rfl
@[simp] theorem Ctx.orFlags_x (g : BitVec 6) : (c.orFlags g).x = c.x := rfl
@[simp] theorem Ctx.orFlags_v (g : BitVec 6) : (c.orFlags g).v = c.v := rfl
@[simp] theorem Ctx.orFlags_p (g : BitVec 6) : (c.orFlags g).p = c.p := rfl
@[simp] theorem Ctx.orFlags_m (g : BitVec 6) : (c.orFlags g).m = c.m := rfl
@[simp] theorem Ctx.orFlags_sh (g : BitVec 6) : (c.orFlags g).sh = c.sh := rfl
@[simp] theorem Ctx.orFlags_pc (g : BitVec 6) : (c.orFlags g).pc = c.pc := rfl
@[simp] theorem Ctx.orFlags_fireno (g : BitVec 6) : (c.orFlags g).fireno = c.fireno := rfl
@[simp] theorem Ctx.orFlags_frm (g : BitVec 6) : (c.orFlags g).frm = c.frm := rfl
@[simp] theorem Ctx.orFlags_segid (g : BitVec 6) : (c.orFlags g).segid = c.segid := rfl
@[simp] theorem Ctx.orFlags_argbase (g : BitVec 6) : (c.orFlags g).argbase = c.argbase := rfl
@[simp] theorem Ctx.orFlags_ccond (g : BitVec 6) : (c.orFlags g).ccond = c.ccond := rfl
@[simp] theorem Ctx.orFlags_stepEn (g : BitVec 6) : (c.orFlags g).stepEn = c.stepEn := rfl
@[simp] theorem Ctx.orFlags_bpa (g : BitVec 6) : (c.orFlags g).bpa = c.bpa := rfl
@[simp] theorem Ctx.orFlags_ctag (g : BitVec 6) : (c.orFlags g).ctag = c.ctag := rfl
@[simp] theorem Ctx.orFlags_last (g : BitVec 6) : (c.orFlags g).last = c.last := rfl
@[simp] theorem Ctx.orFlags_skip (g : BitVec 6) : (c.orFlags g).skip = c.skip := rfl
@[simp] theorem Ctx.orFlags_bphit (g : BitVec 6) : (c.orFlags g).bphit = c.bphit := rfl
@[simp] theorem Ctx.orFlags_mon (g : BitVec 6) : (c.orFlags g).mon = c.mon := rfl
@[simp] theorem Ctx.orFlags_fltrec (g : BitVec 6) : (c.orFlags g).fltrec = c.fltrec := rfl
@[simp] theorem Ctx.orFlags_pend (g : BitVec 6) : (c.orFlags g).pend = c.pend := rfl
@[simp] theorem Ctx.orFlags_land (g : BitVec 6) : (c.orFlags g).land = c.land := rfl
@[simp] theorem Ctx.orFlags_park (g : BitVec 6) : (c.orFlags g).park = c.park := rfl
@[simp] theorem Ctx.orFlags_gap (g : BitVec 6) : (c.orFlags g).gap = c.gap := rfl
@[simp] theorem Ctx.orFlags_wait (g : BitVec 6) : (c.orFlags g).wait = c.wait := rfl
@[simp] theorem Ctx.orFlags_idle (g : BitVec 6) : (c.orFlags g).idle = c.idle := rfl
@[simp] theorem Ctx.orFlags_role (g : BitVec 6) : (c.orFlags g).role = c.role := rfl
@[simp] theorem Ctx.orFlags_running (g : BitVec 6) : (c.orFlags g).running = c.running := rfl
@[simp] theorem Ctx.orFlags_fresh (g : BitVec 6) : (c.orFlags g).fresh = c.fresh := rfl
@[simp] theorem Ctx.orFlags_moved (g : BitVec 6) : (c.orFlags g).moved = c.moved := rfl
@[simp] theorem Ctx.orFlags_bars (g : BitVec 6) : (c.orFlags g).bars = c.bars := rfl
@[simp] theorem Ctx.orFlags_arrivedBars (g : BitVec 6) : (c.orFlags g).arrivedBars = c.arrivedBars := rfl
@[simp] theorem Ctx.orFlags_departedBars (g : BitVec 6) : (c.orFlags g).departedBars = c.departedBars := rfl
@[simp] theorem Ctx.orFlags_held (g : BitVec 6) : (c.orFlags g).held = c.held := rfl
@[simp] theorem Ctx.orFlags_withheld (g : BitVec 6) : (c.orFlags g).withheld = c.withheld := rfl
@[simp] theorem Ctx.orFlags_fires (g : BitVec 6) : (c.orFlags g).fires = c.fires := rfl
@[simp] theorem Ctx.orFlags_eligAt (g : BitVec 6) : (c.orFlags g).eligAt = c.eligAt := rfl
@[simp] theorem Ctx.orFlags_token (g : BitVec 6) : (c.orFlags g).token = c.token := rfl
@[simp] theorem Ctx.orFlags_ringsUsed (g : BitVec 6) : (c.orFlags g).ringsUsed = c.ringsUsed := rfl
@[simp] theorem Ctx.orFlags_stepDue (g : BitVec 6) : (c.orFlags g).stepDue = c.stepDue := rfl
@[simp] theorem Ctx.orFlags_sw (g : BitVec 6) : (c.orFlags g).sw = c.sw := rfl
@[simp] theorem Ctx.orFlags_child (g : BitVec 6) : (c.orFlags g).child = c.child := rfl
@[simp] theorem Ctx.orFlags_line (g : BitVec 6) : (c.orFlags g).line = c.line := rfl
@[simp] theorem Ctx.orFlags_fpaid (g : BitVec 6) : (c.orFlags g).fpaid = c.fpaid := rfl
@[simp] theorem Ctx.orFlags_fstood (g : BitVec 6) : (c.orFlags g).fstood = c.fstood := rfl
@[simp] theorem Ctx.stage_x (ws : List RegWrite) (n : Nat) : (c.stage ws n).x = c.x := rfl
@[simp] theorem Ctx.stageLoad_x (w : RegWrite) (since : Nat) : (c.stageLoad w since).x = c.x := rfl
@[simp] theorem Ctx.stage_v (ws : List RegWrite) (n : Nat) : (c.stage ws n).v = c.v := rfl
@[simp] theorem Ctx.stageLoad_v (w : RegWrite) (since : Nat) : (c.stageLoad w since).v = c.v := rfl
@[simp] theorem Ctx.stage_p (ws : List RegWrite) (n : Nat) : (c.stage ws n).p = c.p := rfl
@[simp] theorem Ctx.stageLoad_p (w : RegWrite) (since : Nat) : (c.stageLoad w since).p = c.p := rfl
@[simp] theorem Ctx.stage_m (ws : List RegWrite) (n : Nat) : (c.stage ws n).m = c.m := rfl
@[simp] theorem Ctx.stageLoad_m (w : RegWrite) (since : Nat) : (c.stageLoad w since).m = c.m := rfl
@[simp] theorem Ctx.stage_sh (ws : List RegWrite) (n : Nat) : (c.stage ws n).sh = c.sh := rfl
@[simp] theorem Ctx.stageLoad_sh (w : RegWrite) (since : Nat) : (c.stageLoad w since).sh = c.sh := rfl
@[simp] theorem Ctx.stage_pc (ws : List RegWrite) (n : Nat) : (c.stage ws n).pc = c.pc := rfl
@[simp] theorem Ctx.stageLoad_pc (w : RegWrite) (since : Nat) : (c.stageLoad w since).pc = c.pc := rfl
@[simp] theorem Ctx.stage_fireno (ws : List RegWrite) (n : Nat) : (c.stage ws n).fireno = c.fireno := rfl
@[simp] theorem Ctx.stageLoad_fireno (w : RegWrite) (since : Nat) : (c.stageLoad w since).fireno = c.fireno := rfl
@[simp] theorem Ctx.stage_fflags (ws : List RegWrite) (n : Nat) : (c.stage ws n).fflags = c.fflags := rfl
@[simp] theorem Ctx.stageLoad_fflags (w : RegWrite) (since : Nat) : (c.stageLoad w since).fflags = c.fflags := rfl
@[simp] theorem Ctx.stage_frm (ws : List RegWrite) (n : Nat) : (c.stage ws n).frm = c.frm := rfl
@[simp] theorem Ctx.stageLoad_frm (w : RegWrite) (since : Nat) : (c.stageLoad w since).frm = c.frm := rfl
@[simp] theorem Ctx.stage_segid (ws : List RegWrite) (n : Nat) : (c.stage ws n).segid = c.segid := rfl
@[simp] theorem Ctx.stageLoad_segid (w : RegWrite) (since : Nat) : (c.stageLoad w since).segid = c.segid := rfl
@[simp] theorem Ctx.stage_argbase (ws : List RegWrite) (n : Nat) : (c.stage ws n).argbase = c.argbase := rfl
@[simp] theorem Ctx.stageLoad_argbase (w : RegWrite) (since : Nat) : (c.stageLoad w since).argbase = c.argbase := rfl
@[simp] theorem Ctx.stage_ccond (ws : List RegWrite) (n : Nat) : (c.stage ws n).ccond = c.ccond := rfl
@[simp] theorem Ctx.stageLoad_ccond (w : RegWrite) (since : Nat) : (c.stageLoad w since).ccond = c.ccond := rfl
@[simp] theorem Ctx.stage_stepEn (ws : List RegWrite) (n : Nat) : (c.stage ws n).stepEn = c.stepEn := rfl
@[simp] theorem Ctx.stageLoad_stepEn (w : RegWrite) (since : Nat) : (c.stageLoad w since).stepEn = c.stepEn := rfl
@[simp] theorem Ctx.stage_bpa (ws : List RegWrite) (n : Nat) : (c.stage ws n).bpa = c.bpa := rfl
@[simp] theorem Ctx.stageLoad_bpa (w : RegWrite) (since : Nat) : (c.stageLoad w since).bpa = c.bpa := rfl
@[simp] theorem Ctx.stage_ctag (ws : List RegWrite) (n : Nat) : (c.stage ws n).ctag = c.ctag := rfl
@[simp] theorem Ctx.stageLoad_ctag (w : RegWrite) (since : Nat) : (c.stageLoad w since).ctag = c.ctag := rfl
@[simp] theorem Ctx.stage_last (ws : List RegWrite) (n : Nat) : (c.stage ws n).last = c.last := rfl
@[simp] theorem Ctx.stageLoad_last (w : RegWrite) (since : Nat) : (c.stageLoad w since).last = c.last := rfl
@[simp] theorem Ctx.stage_skip (ws : List RegWrite) (n : Nat) : (c.stage ws n).skip = c.skip := rfl
@[simp] theorem Ctx.stageLoad_skip (w : RegWrite) (since : Nat) : (c.stageLoad w since).skip = c.skip := rfl
@[simp] theorem Ctx.stage_bphit (ws : List RegWrite) (n : Nat) : (c.stage ws n).bphit = c.bphit := rfl
@[simp] theorem Ctx.stageLoad_bphit (w : RegWrite) (since : Nat) : (c.stageLoad w since).bphit = c.bphit := rfl
@[simp] theorem Ctx.stage_mon (ws : List RegWrite) (n : Nat) : (c.stage ws n).mon = c.mon := rfl
@[simp] theorem Ctx.stageLoad_mon (w : RegWrite) (since : Nat) : (c.stageLoad w since).mon = c.mon := rfl
@[simp] theorem Ctx.stage_fltrec (ws : List RegWrite) (n : Nat) : (c.stage ws n).fltrec = c.fltrec := rfl
@[simp] theorem Ctx.stageLoad_fltrec (w : RegWrite) (since : Nat) : (c.stageLoad w since).fltrec = c.fltrec := rfl
@[simp] theorem Ctx.stage_pend (ws : List RegWrite) (n : Nat) : (c.stage ws n).pend = c.pend := rfl
@[simp] theorem Ctx.stageLoad_pend (w : RegWrite) (since : Nat) : (c.stageLoad w since).pend = c.pend := rfl
@[simp] theorem Ctx.stage_park (ws : List RegWrite) (n : Nat) : (c.stage ws n).park = c.park := rfl
@[simp] theorem Ctx.stageLoad_park (w : RegWrite) (since : Nat) : (c.stageLoad w since).park = c.park := rfl
@[simp] theorem Ctx.stage_gap (ws : List RegWrite) (n : Nat) : (c.stage ws n).gap = c.gap := rfl
@[simp] theorem Ctx.stageLoad_gap (w : RegWrite) (since : Nat) : (c.stageLoad w since).gap = c.gap := rfl
@[simp] theorem Ctx.stage_wait (ws : List RegWrite) (n : Nat) : (c.stage ws n).wait = c.wait := rfl
@[simp] theorem Ctx.stageLoad_wait (w : RegWrite) (since : Nat) : (c.stageLoad w since).wait = c.wait := rfl
@[simp] theorem Ctx.stage_idle (ws : List RegWrite) (n : Nat) : (c.stage ws n).idle = c.idle := rfl
@[simp] theorem Ctx.stageLoad_idle (w : RegWrite) (since : Nat) : (c.stageLoad w since).idle = c.idle := rfl
@[simp] theorem Ctx.stage_role (ws : List RegWrite) (n : Nat) : (c.stage ws n).role = c.role := rfl
@[simp] theorem Ctx.stageLoad_role (w : RegWrite) (since : Nat) : (c.stageLoad w since).role = c.role := rfl
@[simp] theorem Ctx.stage_running (ws : List RegWrite) (n : Nat) : (c.stage ws n).running = c.running := rfl
@[simp] theorem Ctx.stageLoad_running (w : RegWrite) (since : Nat) : (c.stageLoad w since).running = c.running := rfl
@[simp] theorem Ctx.stage_fresh (ws : List RegWrite) (n : Nat) : (c.stage ws n).fresh = c.fresh := rfl
@[simp] theorem Ctx.stageLoad_fresh (w : RegWrite) (since : Nat) : (c.stageLoad w since).fresh = c.fresh := rfl
@[simp] theorem Ctx.stage_moved (ws : List RegWrite) (n : Nat) : (c.stage ws n).moved = c.moved := rfl
@[simp] theorem Ctx.stageLoad_moved (w : RegWrite) (since : Nat) : (c.stageLoad w since).moved = c.moved := rfl
@[simp] theorem Ctx.stage_bars (ws : List RegWrite) (n : Nat) : (c.stage ws n).bars = c.bars := rfl
@[simp] theorem Ctx.stageLoad_bars (w : RegWrite) (since : Nat) : (c.stageLoad w since).bars = c.bars := rfl
@[simp] theorem Ctx.stage_arrivedBars (ws : List RegWrite) (n : Nat) : (c.stage ws n).arrivedBars = c.arrivedBars := rfl
@[simp] theorem Ctx.stageLoad_arrivedBars (w : RegWrite) (since : Nat) : (c.stageLoad w since).arrivedBars = c.arrivedBars := rfl
@[simp] theorem Ctx.stage_departedBars (ws : List RegWrite) (n : Nat) : (c.stage ws n).departedBars = c.departedBars := rfl
@[simp] theorem Ctx.stageLoad_departedBars (w : RegWrite) (since : Nat) : (c.stageLoad w since).departedBars = c.departedBars := rfl
@[simp] theorem Ctx.stage_held (ws : List RegWrite) (n : Nat) : (c.stage ws n).held = c.held := rfl
@[simp] theorem Ctx.stageLoad_held (w : RegWrite) (since : Nat) : (c.stageLoad w since).held = c.held := rfl
@[simp] theorem Ctx.stage_withheld (ws : List RegWrite) (n : Nat) : (c.stage ws n).withheld = c.withheld := rfl
@[simp] theorem Ctx.stageLoad_withheld (w : RegWrite) (since : Nat) : (c.stageLoad w since).withheld = c.withheld := rfl
@[simp] theorem Ctx.stage_fires (ws : List RegWrite) (n : Nat) : (c.stage ws n).fires = c.fires := rfl
@[simp] theorem Ctx.stageLoad_fires (w : RegWrite) (since : Nat) : (c.stageLoad w since).fires = c.fires := rfl
@[simp] theorem Ctx.stage_eligAt (ws : List RegWrite) (n : Nat) : (c.stage ws n).eligAt = c.eligAt := rfl
@[simp] theorem Ctx.stageLoad_eligAt (w : RegWrite) (since : Nat) : (c.stageLoad w since).eligAt = c.eligAt := rfl
@[simp] theorem Ctx.stage_token (ws : List RegWrite) (n : Nat) : (c.stage ws n).token = c.token := rfl
@[simp] theorem Ctx.stageLoad_token (w : RegWrite) (since : Nat) : (c.stageLoad w since).token = c.token := rfl
@[simp] theorem Ctx.stage_ringsUsed (ws : List RegWrite) (n : Nat) : (c.stage ws n).ringsUsed = c.ringsUsed := rfl
@[simp] theorem Ctx.stageLoad_ringsUsed (w : RegWrite) (since : Nat) : (c.stageLoad w since).ringsUsed = c.ringsUsed := rfl
@[simp] theorem Ctx.stage_stepDue (ws : List RegWrite) (n : Nat) : (c.stage ws n).stepDue = c.stepDue := rfl
@[simp] theorem Ctx.stageLoad_stepDue (w : RegWrite) (since : Nat) : (c.stageLoad w since).stepDue = c.stepDue := rfl
@[simp] theorem Ctx.stage_sw (ws : List RegWrite) (n : Nat) : (c.stage ws n).sw = c.sw := rfl
@[simp] theorem Ctx.stageLoad_sw (w : RegWrite) (since : Nat) : (c.stageLoad w since).sw = c.sw := rfl
@[simp] theorem Ctx.stage_child (ws : List RegWrite) (n : Nat) : (c.stage ws n).child = c.child := rfl
@[simp] theorem Ctx.stageLoad_child (w : RegWrite) (since : Nat) : (c.stageLoad w since).child = c.child := rfl
@[simp] theorem Ctx.stage_line (ws : List RegWrite) (n : Nat) : (c.stage ws n).line = c.line := rfl
@[simp] theorem Ctx.stageLoad_line (w : RegWrite) (since : Nat) : (c.stageLoad w since).line = c.line := rfl
@[simp] theorem Ctx.stage_fpaid (ws : List RegWrite) (n : Nat) : (c.stage ws n).fpaid = c.fpaid := rfl
@[simp] theorem Ctx.stageLoad_fpaid (w : RegWrite) (since : Nat) : (c.stageLoad w since).fpaid = c.fpaid := rfl
@[simp] theorem Ctx.stage_fstood (ws : List RegWrite) (n : Nat) : (c.stage ws n).fstood = c.fstood := rfl
@[simp] theorem Ctx.stageLoad_fstood (w : RegWrite) (since : Nat) : (c.stageLoad w since).fstood = c.fstood := rfl

@[simp] theorem Ctx.orFlags_fflags (g : BitVec 6) : (c.orFlags g).fflags = c.fflags ||| g := rfl
@[simp] theorem Ctx.stage_land (ws : List RegWrite) (n : Nat) : (c.stage ws n).land = some { writes := ws, left := n, load := none } := rfl
@[simp] theorem Ctx.stageLoad_land (w : RegWrite) (since : Nat) : (c.stageLoad w since).land = some { writes := [w], left := 0, load := some since } := rfl

/-- A result in flight is added to the context, unless its register discards it. -/
theorem Ctx.pendW_pend (k : File) (n : Nat) (w : Vec) (l : Nat) :
    (c.pendW k n w l).pend = if discards k n then c.pend else c.pend ++ [{ file := k, reg := n, left := l, val := w }] := by
  unfold Ctx.pendW
  split <;> simp_all

end Sys2Proof.Machine
end

