-- ==== Sys2Proof/Laws/Issue.lean ====
section
/-! SUPPORT. What the issue of a word does: the tests before its effect, and what each outcome makes of the machine. -/

namespace Sys2Proof.Machine

/-- A run that has latched every feature of a list lacks none. -/
theorem Run.lacks_none (r : Run) (fs : List (Nat × Nat)) (h : ∀ f ∈ fs, r.hasFeat f.1 f.2 = true) : r.lacks fs = none := by
  induction fs with
  | nil => rfl
  | cons f fs ih =>
    simp only [Run.lacks, h f (by simp), ite_true]
    exact ih fun g hg => h g (by simp [hg])

theorem State.lacks_none {s : State} {cid : Nat} {fs : List (Nat × Nat)}
    (h : ∀ r, s.ctxRun cid = some r → ∀ f ∈ fs, r.hasFeat f.1 f.2 = true) : (s.ctxRun cid).bind (·.lacks fs) = none := by
  cases e : s.ctxRun cid with
  | none => rfl
  | some r => exact r.lacks_none fs (h r e)

/-- A word that the tests let through has its own effect. -/
theorem issueEff_body {s : State} {cid : Nat} {h : Hdr} {fs : List (Nat × Nat)} {n : Nat} (body : State → Nat → Eff)
    (hf : ∀ r, s.ctxRun cid = some r → ∀ f ∈ fs, r.hasFeat f.1 f.2 = true) (hp : (s.ctx cid).pr h.pr.toNat ≠ h.pn)
    (hr : n = 0 ∨ (s.ctx cid).pend.length + (if n = 13 then 1 else n) ≤ 12) : issueEff h fs n body s cid = body s cid := by
  simp only [issueEff, State.lacks_none hf, beq_iff_eq, hp, if_false]
  rw [if_neg]
  simp only [Bool.and_eq_true, decide_eq_true_eq, not_and, Nat.not_lt]
  intro h0
  exact hr.resolve_left h0

/-- The issue of a word that executes; `k` is 1 for a word that parks for its result. -/
theorem Issues.issue {s : State} {cid : Nat} {h : Hdr} {fs : List (Nat × Nat)} {k : Nat} (g : Issues s cid h fs k) (n : Nat)
    (body : State → Nat → Eff) (hk : n = k ∧ n ≠ 13 ∨ n = 13 ∧ k = 1) :
    Machine.issue h fs n body s = .next (settle s cid h (body s cid)) := by
  simp only [Machine.issue, g.named]
  rw [issueEff_body body g.latched g.lets]
  rcases hk with ⟨rfl, h13⟩ | ⟨rfl, rfl⟩
  · simpa [h13] using g.room
  · right; simpa using g.room

/-- A word of `n` results that executes. -/
theorem Issues.runs {s : State} {cid : Nat} {h : Hdr} {fs : List (Nat × Nat)} {n : Nat} (g : Issues s cid h fs n)
    (body : State → Nat → Eff) (hn : n ≠ 13 := by decide) : Machine.issue h fs n body s = .next (settle s cid h (body s cid)) :=
  g.issue n body (.inl ⟨rfl, hn⟩)

/-- A word that parks for its result and executes. -/
theorem Issues.parks {s : State} {cid : Nat} {h : Hdr} {fs : List (Nat × Nat)} (g : Issues s cid h fs 1) (body : State → Nat → Eff) :
    Machine.issue h fs 13 body s = .next (settle s cid h (body s cid)) := g.issue 13 body (.inr ⟨rfl, rfl⟩)

/-- A word of one scalar result that executes. -/
theorem Issues.scalar {s : State} {cid : Nat} {h : Hdr} (g : Issues s cid h [] 1) (d : Reg) (lat : Nat) (f : Ctx → Word) :
    issueX h d lat f s = .next (settle s cid h (.next (s.modCtx cid fun c => c.pendX d (f c) lat))) := g.runs _

/-! ## What an outcome leaves -/

/-- An issue that counts on a core. -/
def Core.counted (cid : Nat) (k : Core) (ends : Bool) : Core :=
  if k.holder = ctxOf cid then { k with issued := true, turnLen := k.turnLen + 1, turnOver := ends || decide (k.turnLen + 1 ≥ 256) }
  else { k with issued := true }

section
variable (s s0 : State) (cid : Nat) (h : Hdr)

@[simp] theorem State.ctx_countIssue (k : Nat) (sw : Bool) : (s.countIssue cid sw).ctx k = s.ctx k := rfl

theorem State.core_countIssue_self (sw : Bool) :
    (s.countIssue cid sw).core (coreOf cid) = Core.counted cid (s.core (coreOf cid)) sw := by
  simp only [State.countIssue, State.core_modCore_self, Core.counted]

theorem State.core_countIssue_other (sw : Bool) {k : Nat} (hk : k ≠ coreOf cid) : (s.countIssue cid sw).core k = s.core k :=
  State.core_modCore_other _ _ hk

@[simp] theorem State.core_noteIssue (k : Nat) (sw : Bool) : (s.noteIssue s0 cid sw).core k = s.core k := rfl
@[simp] theorem State.core_advance (k pc extra : Nat) : (s.advance cid h pc extra).core k = s.core k := rfl
@[simp] theorem State.core_parkCtx (k : Nat) (p : Park) : (s.parkCtx cid p).core k = s.core k := rfl

theorem State.ctx_noteIssue_self (sw : Bool) : (s.noteIssue s0 cid sw).ctx cid =
    { s.ctx cid with sw := sw, stepDue := if (s0.ctx cid).stepEn then some (s0.ir, (s0.ctx cid).pc) else (s.ctx cid).stepDue } := by
  simp [State.noteIssue]

theorem State.ctx_advance_self (pc extra : Nat) :
    (s.advance cid h pc extra).ctx cid = { s.ctx cid with pc := pc, gap := 1 + h.gap.toNat + extra } := by simp [State.advance]

theorem State.ctx_parkCtx_self (p : Park) :
    (s.parkCtx cid p).ctx cid = { s.ctx cid with park := some { p with order := s.parkPlace cid p, since := s.cycle (coreOf cid) } } := by
  exact State.ctx_modCtx_self s cid fun c => { c with park := some { p with order := s.parkPlace cid p, since := s.cycle (coreOf cid) } }

variable {k : Nat}

theorem State.ctx_noteIssue_other (sw : Bool) (hk : k ≠ cid) : (s.noteIssue s0 cid sw).ctx k = s.ctx k := State.ctx_modCtx_other _ _ hk
theorem State.ctx_advance_other (pc extra : Nat) (hk : k ≠ cid) : (s.advance cid h pc extra).ctx k = s.ctx k :=
  State.ctx_modCtx_other _ _ hk
theorem State.ctx_parkCtx_other (p : Park) (hk : k ≠ cid) : (s.parkCtx cid p).ctx k = s.ctx k := by
  exact State.ctx_modCtx_other s (fun c => { c with park := some { p with order := s.parkPlace cid p, since := s.cycle (coreOf cid) } }) hk

end

end Sys2Proof.Machine
end

