-- ==== Sys2Proof/Laws/PerInstr.lean ====
section
/-! SUPPORT. Of every constructor: a well-formed instruction word is encoded, and its word decodes to the instruction again, every operand at every value;
a command or an event has no word. -/

namespace Sys2Proof
namespace Laws
namespace Encoding

set_option linter.unusedSimpArgs false
set_option Elab.async false

/-- What the encoding says of one instruction. -/
def Statement (i : Instr) : Prop :=
  (i.isWord = true → i.wf = true → ∃ w, encode i = some w ∧ decodeWord w = .ok i) ∧ (i.isWord = false → encode i = none)

theorem words_of {i : Instr} {w : Word} {h : Hdr} {n : Nat} (he : encode i = some w) (hh : hdrOf w = h) (ho : fOp w = n)
    (hwf : i.wf = true → h.wf = true) (hop : opAssigned n = true) (hd : i.wf = true → decodeFields n w h = .ok i)
    (hi : i.isWord = true := by rfl) : Statement i :=
  ⟨fun _ hw => ⟨w, he, by simp [decodeWord, hh, ho, hop, hwf hw, hd hw]⟩, fun h => by rw [hi] at h; cases h⟩

theorem nop (h : Hdr) : Statement (.nop h) :=
  words_of rfl (hdrOf_packR ..) (fOp_packR ..) (fun w => w) rfl (fun w => by
    show mkIf _ _ = _
    simp only [packR, lowBits, mcImm, msImm, bit4, fD, fA, fB, fC, fFnR, fTy, fRm, fImm13, fFnI, fImm32, fPort, fPd, fImm20, fMc, fMem, fAtom, fChan, fCopy, fCvt, fBind, fMRead, zR3, zR3rm, zR2, zVm, zVrm, zVn, extract_low, extract_high, extract_all, extract_zero, extract_span, app_beq_zero, ofBool_beq_zero, getLsbD_app, zeroAt_eq, ofBool_getLsbD_zero, Bool.not_false, Bool.not_true, extract_ofBool, Nat.reduceLT, Nat.zero_add, Nat.zero_le, Nat.le_refl, BitVec.reduceBEq, Nat.reduceBEq, BitVec.ofNat_eq_ofNat, BitVec.reduceToNat, Nat.reduceMod, Nat.reduceLeDiff, Nat.reduceEqDiff, if_false, if_true, reduceIte, Nat.reduceAdd, Nat.reduceSub, beq_self_eq_true, Bool.and_self, Bool.and_true, Bool.true_and, Bool.or_false, Bool.false_or, Bool.or_true, Bool.true_or, decide_true, decide_false, Bool.false_eq_true, mkIf, w])

theorem add (h : Hdr) (d a b : Reg) (rm : BitVec 3) : Statement (.add h d a b rm) :=
  words_of rfl (hdrOf_packR ..) (fOp_packR ..) (fun w => w) rfl (fun w => by
    show decAlu _ _ = _
    unfold decAlu
    rw [fFnR_packR]
    show mkIf _ _ = _
    simp only [fD_packR, fA_packR, fB_packR, fC_packR, fTy_packR, fRm_packR, fImm13_packR, zR3_packR, zR3rm_packR, zR2_packR, zVn_packR, fMc_packR, zVm_packR, zVrm_packR, zeroAt_31_5_packR, zeroAt_26_10_packR, zeroAt_26_5_packR, zeroAt_44_20_packR, zeroAt_48_3_packR, zeroAt_44_4_packR, zeroAt_51_13_packR, zeroAt_44_7_packR, ofBool_getLsbD_zero, Bool.not_false, Bool.not_true, extract_ofBool, Nat.reduceLT, Nat.zero_add, Nat.zero_le, Nat.le_refl, BitVec.reduceBEq, Nat.reduceBEq, BitVec.ofNat_eq_ofNat, BitVec.reduceToNat, Nat.reduceMod, Nat.reduceLeDiff, Nat.reduceEqDiff, if_false, if_true, reduceIte, Nat.reduceAdd, Nat.reduceSub, beq_self_eq_true, Bool.and_self, Bool.and_true, Bool.true_and, Bool.or_false, Bool.false_or, Bool.or_true, Bool.true_or, decide_true, decide_false, Bool.false_eq_true, mkIf, w])

theorem sub (h : Hdr) (d a b : Reg) (rm : BitVec 3) : Statement (.sub h d a b rm) :=
  words_of rfl (hdrOf_packR ..) (fOp_packR ..) (fun w => w) rfl (fun w => by
    show decAlu _ _ = _
    unfold decAlu
    rw [fFnR_packR]
    show mkIf _ _ = _
    simp only [fD_packR, fA_packR, fB_packR, fC_packR, fTy_packR, fRm_packR, fImm13_packR, zR3_packR, zR3rm_packR, zR2_packR, zVn_packR, fMc_packR, zVm_packR, zVrm_packR, zeroAt_31_5_packR, zeroAt_26_10_packR, zeroAt_26_5_packR, zeroAt_44_20_packR, zeroAt_48_3_packR, zeroAt_44_4_packR, zeroAt_51_13_packR, zeroAt_44_7_packR, ofBool_getLsbD_zero, Bool.not_false, Bool.not_true, extract_ofBool, Nat.reduceLT, Nat.zero_add, Nat.zero_le, Nat.le_refl, BitVec.reduceBEq, Nat.reduceBEq, BitVec.ofNat_eq_ofNat, BitVec.reduceToNat, Nat.reduceMod, Nat.reduceLeDiff, Nat.reduceEqDiff, if_false, if_true, reduceIte, Nat.reduceAdd, Nat.reduceSub, beq_self_eq_true, Bool.and_self, Bool.and_true, Bool.true_and, Bool.or_false, Bool.false_or, Bool.or_true, Bool.true_or, decide_true, decide_false, Bool.false_eq_true, mkIf, w])

theorem and (h : Hdr) (d a b : Reg) : Statement (.and h d a b) :=
  words_of rfl (hdrOf_packR ..) (fOp_packR ..) (fun w => w) rfl (fun w => by
    show decAlu _ _ = _
    unfold decAlu
    rw [fFnR_packR]
    show mkIf _ _ = _
    simp only [fD_packR, fA_packR, fB_packR, fC_packR, fTy_packR, fRm_packR, fImm13_packR, zR3_packR, zR3rm_packR, zR2_packR, zVn_packR, fMc_packR, zVm_packR, zVrm_packR, zeroAt_31_5_packR, zeroAt_26_10_packR, zeroAt_26_5_packR, zeroAt_44_20_packR, zeroAt_48_3_packR, zeroAt_44_4_packR, zeroAt_51_13_packR, zeroAt_44_7_packR, ofBool_getLsbD_zero, Bool.not_false, Bool.not_true, extract_ofBool, Nat.reduceLT, Nat.zero_add, Nat.zero_le, Nat.le_refl, BitVec.reduceBEq, Nat.reduceBEq, BitVec.ofNat_eq_ofNat, BitVec.reduceToNat, Nat.reduceMod, Nat.reduceLeDiff, Nat.reduceEqDiff, if_false, if_true, reduceIte, Nat.reduceAdd, Nat.reduceSub, beq_self_eq_true, Bool.and_self, Bool.and_true, Bool.true_and, Bool.or_false, Bool.false_or, Bool.or_true, Bool.true_or, decide_true, decide_false, Bool.false_eq_true, mkIf, w])

theorem or (h : Hdr) (d a b : Reg) : Statement (.or h d a b) :=
  words_of rfl (hdrOf_packR ..) (fOp_packR ..) (fun w => w) rfl (fun w => by
    show decAlu _ _ = _
    unfold decAlu
    rw [fFnR_packR]
    show mkIf _ _ = _
    simp only [fD_packR, fA_packR, fB_packR, fC_packR, fTy_packR, fRm_packR, fImm13_packR, zR3_packR, zR3rm_packR, zR2_packR, zVn_packR, fMc_packR, zVm_packR, zVrm_packR, zeroAt_31_5_packR, zeroAt_26_10_packR, zeroAt_26_5_packR, zeroAt_44_20_packR, zeroAt_48_3_packR, zeroAt_44_4_packR, zeroAt_51_13_packR, zeroAt_44_7_packR, ofBool_getLsbD_zero, Bool.not_false, Bool.not_true, extract_ofBool, Nat.reduceLT, Nat.zero_add, Nat.zero_le, Nat.le_refl, BitVec.reduceBEq, Nat.reduceBEq, BitVec.ofNat_eq_ofNat, BitVec.reduceToNat, Nat.reduceMod, Nat.reduceLeDiff, Nat.reduceEqDiff, if_false, if_true, reduceIte, Nat.reduceAdd, Nat.reduceSub, beq_self_eq_true, Bool.and_self, Bool.and_true, Bool.true_and, Bool.or_false, Bool.false_or, Bool.or_true, Bool.true_or, decide_true, decide_false, Bool.false_eq_true, mkIf, w])

theorem xor (h : Hdr) (d a b : Reg) : Statement (.xor h d a b) :=
  words_of rfl (hdrOf_packR ..) (fOp_packR ..) (fun w => w) rfl (fun w => by
    show decAlu _ _ = _
    unfold decAlu
    rw [fFnR_packR]
    show mkIf _ _ = _
    simp only [fD_packR, fA_packR, fB_packR, fC_packR, fTy_packR, fRm_packR, fImm13_packR, zR3_packR, zR3rm_packR, zR2_packR, zVn_packR, fMc_packR, zVm_packR, zVrm_packR, zeroAt_31_5_packR, zeroAt_26_10_packR, zeroAt_26_5_packR, zeroAt_44_20_packR, zeroAt_48_3_packR, zeroAt_44_4_packR, zeroAt_51_13_packR, zeroAt_44_7_packR, ofBool_getLsbD_zero, Bool.not_false, Bool.not_true, extract_ofBool, Nat.reduceLT, Nat.zero_add, Nat.zero_le, Nat.le_refl, BitVec.reduceBEq, Nat.reduceBEq, BitVec.ofNat_eq_ofNat, BitVec.reduceToNat, Nat.reduceMod, Nat.reduceLeDiff, Nat.reduceEqDiff, if_false, if_true, reduceIte, Nat.reduceAdd, Nat.reduceSub, beq_self_eq_true, Bool.and_self, Bool.and_true, Bool.true_and, Bool.or_false, Bool.false_or, Bool.or_true, Bool.true_or, decide_true, decide_false, Bool.false_eq_true, mkIf, w])

theorem andn (h : Hdr) (d a b : Reg) : Statement (.andn h d a b) :=
  words_of rfl (hdrOf_packR ..) (fOp_packR ..) (fun w => w) rfl (fun w => by
    show decAlu _ _ = _
    unfold decAlu
    rw [fFnR_packR]
    show mkIf _ _ = _
    simp only [fD_packR, fA_packR, fB_packR, fC_packR, fTy_packR, fRm_packR, fImm13_packR, zR3_packR, zR3rm_packR, zR2_packR, zVn_packR, fMc_packR, zVm_packR, zVrm_packR, zeroAt_31_5_packR, zeroAt_26_10_packR, zeroAt_26_5_packR, zeroAt_44_20_packR, zeroAt_48_3_packR, zeroAt_44_4_packR, zeroAt_51_13_packR, zeroAt_44_7_packR, ofBool_getLsbD_zero, Bool.not_false, Bool.not_true, extract_ofBool, Nat.reduceLT, Nat.zero_add, Nat.zero_le, Nat.le_refl, BitVec.reduceBEq, Nat.reduceBEq, BitVec.ofNat_eq_ofNat, BitVec.reduceToNat, Nat.reduceMod, Nat.reduceLeDiff, Nat.reduceEqDiff, if_false, if_true, reduceIte, Nat.reduceAdd, Nat.reduceSub, beq_self_eq_true, Bool.and_self, Bool.and_true, Bool.true_and, Bool.or_false, Bool.false_or, Bool.or_true, Bool.true_or, decide_true, decide_false, Bool.false_eq_true, mkIf, w])

theorem shl (h : Hdr) (d a b : Reg) : Statement (.shl h d a b) :=
  words_of rfl (hdrOf_packR ..) (fOp_packR ..) (fun w => w) rfl (fun w => by
    show decAlu _ _ = _
    unfold decAlu
    rw [fFnR_packR]
    show mkIf _ _ = _
    simp only [fD_packR, fA_packR, fB_packR, fC_packR, fTy_packR, fRm_packR, fImm13_packR, zR3_packR, zR3rm_packR, zR2_packR, zVn_packR, fMc_packR, zVm_packR, zVrm_packR, zeroAt_31_5_packR, zeroAt_26_10_packR, zeroAt_26_5_packR, zeroAt_44_20_packR, zeroAt_48_3_packR, zeroAt_44_4_packR, zeroAt_51_13_packR, zeroAt_44_7_packR, ofBool_getLsbD_zero, Bool.not_false, Bool.not_true, extract_ofBool, Nat.reduceLT, Nat.zero_add, Nat.zero_le, Nat.le_refl, BitVec.reduceBEq, Nat.reduceBEq, BitVec.ofNat_eq_ofNat, BitVec.reduceToNat, Nat.reduceMod, Nat.reduceLeDiff, Nat.reduceEqDiff, if_false, if_true, reduceIte, Nat.reduceAdd, Nat.reduceSub, beq_self_eq_true, Bool.and_self, Bool.and_true, Bool.true_and, Bool.or_false, Bool.false_or, Bool.or_true, Bool.true_or, decide_true, decide_false, Bool.false_eq_true, mkIf, w])

theorem shr (h : Hdr) (d a b : Reg) : Statement (.shr h d a b) :=
  words_of rfl (hdrOf_packR ..) (fOp_packR ..) (fun w => w) rfl (fun w => by
    show decAlu _ _ = _
    unfold decAlu
    rw [fFnR_packR]
    show mkIf _ _ = _
    simp only [fD_packR, fA_packR, fB_packR, fC_packR, fTy_packR, fRm_packR, fImm13_packR, zR3_packR, zR3rm_packR, zR2_packR, zVn_packR, fMc_packR, zVm_packR, zVrm_packR, zeroAt_31_5_packR, zeroAt_26_10_packR, zeroAt_26_5_packR, zeroAt_44_20_packR, zeroAt_48_3_packR, zeroAt_44_4_packR, zeroAt_51_13_packR, zeroAt_44_7_packR, ofBool_getLsbD_zero, Bool.not_false, Bool.not_true, extract_ofBool, Nat.reduceLT, Nat.zero_add, Nat.zero_le, Nat.le_refl, BitVec.reduceBEq, Nat.reduceBEq, BitVec.ofNat_eq_ofNat, BitVec.reduceToNat, Nat.reduceMod, Nat.reduceLeDiff, Nat.reduceEqDiff, if_false, if_true, reduceIte, Nat.reduceAdd, Nat.reduceSub, beq_self_eq_true, Bool.and_self, Bool.and_true, Bool.true_and, Bool.or_false, Bool.false_or, Bool.or_true, Bool.true_or, decide_true, decide_false, Bool.false_eq_true, mkIf, w])

theorem sar (h : Hdr) (d a b : Reg) : Statement (.sar h d a b) :=
  words_of rfl (hdrOf_packR ..) (fOp_packR ..) (fun w => w) rfl (fun w => by
    show decAlu _ _ = _
    unfold decAlu
    rw [fFnR_packR]
    show mkIf _ _ = _
    simp only [fD_packR, fA_packR, fB_packR, fC_packR, fTy_packR, fRm_packR, fImm13_packR, zR3_packR, zR3rm_packR, zR2_packR, zVn_packR, fMc_packR, zVm_packR, zVrm_packR, zeroAt_31_5_packR, zeroAt_26_10_packR, zeroAt_26_5_packR, zeroAt_44_20_packR, zeroAt_48_3_packR, zeroAt_44_4_packR, zeroAt_51_13_packR, zeroAt_44_7_packR, ofBool_getLsbD_zero, Bool.not_false, Bool.not_true, extract_ofBool, Nat.reduceLT, Nat.zero_add, Nat.zero_le, Nat.le_refl, BitVec.reduceBEq, Nat.reduceBEq, BitVec.ofNat_eq_ofNat, BitVec.reduceToNat, Nat.reduceMod, Nat.reduceLeDiff, Nat.reduceEqDiff, if_false, if_true, reduceIte, Nat.reduceAdd, Nat.reduceSub, beq_self_eq_true, Bool.and_self, Bool.and_true, Bool.true_and, Bool.or_false, Bool.false_or, Bool.or_true, Bool.true_or, decide_true, decide_false, Bool.false_eq_true, mkIf, w])

theorem rol (h : Hdr) (d a b : Reg) : Statement (.rol h d a b) :=
  words_of rfl (hdrOf_packR ..) (fOp_packR ..) (fun w => w) rfl (fun w => by
    show decAlu _ _ = _
    unfold decAlu
    rw [fFnR_packR]
    show mkIf _ _ = _
    simp only [fD_packR, fA_packR, fB_packR, fC_packR, fTy_packR, fRm_packR, fImm13_packR, zR3_packR, zR3rm_packR, zR2_packR, zVn_packR, fMc_packR, zVm_packR, zVrm_packR, zeroAt_31_5_packR, zeroAt_26_10_packR, zeroAt_26_5_packR, zeroAt_44_20_packR, zeroAt_48_3_packR, zeroAt_44_4_packR, zeroAt_51_13_packR, zeroAt_44_7_packR, ofBool_getLsbD_zero, Bool.not_false, Bool.not_true, extract_ofBool, Nat.reduceLT, Nat.zero_add, Nat.zero_le, Nat.le_refl, BitVec.reduceBEq, Nat.reduceBEq, BitVec.ofNat_eq_ofNat, BitVec.reduceToNat, Nat.reduceMod, Nat.reduceLeDiff, Nat.reduceEqDiff, if_false, if_true, reduceIte, Nat.reduceAdd, Nat.reduceSub, beq_self_eq_true, Bool.and_self, Bool.and_true, Bool.true_and, Bool.or_false, Bool.false_or, Bool.or_true, Bool.true_or, decide_true, decide_false, Bool.false_eq_true, mkIf, w])

theorem ror (h : Hdr) (d a b : Reg) : Statement (.ror h d a b) :=
  words_of rfl (hdrOf_packR ..) (fOp_packR ..) (fun w => w) rfl (fun w => by
    show decAlu _ _ = _
    unfold decAlu
    rw [fFnR_packR]
    show mkIf _ _ = _
    simp only [fD_packR, fA_packR, fB_packR, fC_packR, fTy_packR, fRm_packR, fImm13_packR, zR3_packR, zR3rm_packR, zR2_packR, zVn_packR, fMc_packR, zVm_packR, zVrm_packR, zeroAt_31_5_packR, zeroAt_26_10_packR, zeroAt_26_5_packR, zeroAt_44_20_packR, zeroAt_48_3_packR, zeroAt_44_4_packR, zeroAt_51_13_packR, zeroAt_44_7_packR, ofBool_getLsbD_zero, Bool.not_false, Bool.not_true, extract_ofBool, Nat.reduceLT, Nat.zero_add, Nat.zero_le, Nat.le_refl, BitVec.reduceBEq, Nat.reduceBEq, BitVec.ofNat_eq_ofNat, BitVec.reduceToNat, Nat.reduceMod, Nat.reduceLeDiff, Nat.reduceEqDiff, if_false, if_true, reduceIte, Nat.reduceAdd, Nat.reduceSub, beq_self_eq_true, Bool.and_self, Bool.and_true, Bool.true_and, Bool.or_false, Bool.false_or, Bool.or_true, Bool.true_or, decide_true, decide_false, Bool.false_eq_true, mkIf, w])

theorem min (h : Hdr) (d a b : Reg) : Statement (.min h d a b) :=
  words_of rfl (hdrOf_packR ..) (fOp_packR ..) (fun w => w) rfl (fun w => by
    show decAlu _ _ = _
    unfold decAlu
    rw [fFnR_packR]
    show mkIf _ _ = _
    simp only [fD_packR, fA_packR, fB_packR, fC_packR, fTy_packR, fRm_packR, fImm13_packR, zR3_packR, zR3rm_packR, zR2_packR, zVn_packR, fMc_packR, zVm_packR, zVrm_packR, zeroAt_31_5_packR, zeroAt_26_10_packR, zeroAt_26_5_packR, zeroAt_44_20_packR, zeroAt_48_3_packR, zeroAt_44_4_packR, zeroAt_51_13_packR, zeroAt_44_7_packR, ofBool_getLsbD_zero, Bool.not_false, Bool.not_true, extract_ofBool, Nat.reduceLT, Nat.zero_add, Nat.zero_le, Nat.le_refl, BitVec.reduceBEq, Nat.reduceBEq, BitVec.ofNat_eq_ofNat, BitVec.reduceToNat, Nat.reduceMod, Nat.reduceLeDiff, Nat.reduceEqDiff, if_false, if_true, reduceIte, Nat.reduceAdd, Nat.reduceSub, beq_self_eq_true, Bool.and_self, Bool.and_true, Bool.true_and, Bool.or_false, Bool.false_or, Bool.or_true, Bool.true_or, decide_true, decide_false, Bool.false_eq_true, mkIf, w])

theorem max (h : Hdr) (d a b : Reg) : Statement (.max h d a b) :=
  words_of rfl (hdrOf_packR ..) (fOp_packR ..) (fun w => w) rfl (fun w => by
    show decAlu _ _ = _
    unfold decAlu
    rw [fFnR_packR]
    show mkIf _ _ = _
    simp only [fD_packR, fA_packR, fB_packR, fC_packR, fTy_packR, fRm_packR, fImm13_packR, zR3_packR, zR3rm_packR, zR2_packR, zVn_packR, fMc_packR, zVm_packR, zVrm_packR, zeroAt_31_5_packR, zeroAt_26_10_packR, zeroAt_26_5_packR, zeroAt_44_20_packR, zeroAt_48_3_packR, zeroAt_44_4_packR, zeroAt_51_13_packR, zeroAt_44_7_packR, ofBool_getLsbD_zero, Bool.not_false, Bool.not_true, extract_ofBool, Nat.reduceLT, Nat.zero_add, Nat.zero_le, Nat.le_refl, BitVec.reduceBEq, Nat.reduceBEq, BitVec.ofNat_eq_ofNat, BitVec.reduceToNat, Nat.reduceMod, Nat.reduceLeDiff, Nat.reduceEqDiff, if_false, if_true, reduceIte, Nat.reduceAdd, Nat.reduceSub, beq_self_eq_true, Bool.and_self, Bool.and_true, Bool.true_and, Bool.or_false, Bool.false_or, Bool.or_true, Bool.true_or, decide_true, decide_false, Bool.false_eq_true, mkIf, w])

theorem minu (h : Hdr) (d a b : Reg) : Statement (.minu h d a b) :=
  words_of rfl (hdrOf_packR ..) (fOp_packR ..) (fun w => w) rfl (fun w => by
    show decAlu _ _ = _
    unfold decAlu
    rw [fFnR_packR]
    show mkIf _ _ = _
    simp only [fD_packR, fA_packR, fB_packR, fC_packR, fTy_packR, fRm_packR, fImm13_packR, zR3_packR, zR3rm_packR, zR2_packR, zVn_packR, fMc_packR, zVm_packR, zVrm_packR, zeroAt_31_5_packR, zeroAt_26_10_packR, zeroAt_26_5_packR, zeroAt_44_20_packR, zeroAt_48_3_packR, zeroAt_44_4_packR, zeroAt_51_13_packR, zeroAt_44_7_packR, ofBool_getLsbD_zero, Bool.not_false, Bool.not_true, extract_ofBool, Nat.reduceLT, Nat.zero_add, Nat.zero_le, Nat.le_refl, BitVec.reduceBEq, Nat.reduceBEq, BitVec.ofNat_eq_ofNat, BitVec.reduceToNat, Nat.reduceMod, Nat.reduceLeDiff, Nat.reduceEqDiff, if_false, if_true, reduceIte, Nat.reduceAdd, Nat.reduceSub, beq_self_eq_true, Bool.and_self, Bool.and_true, Bool.true_and, Bool.or_false, Bool.false_or, Bool.or_true, Bool.true_or, decide_true, decide_false, Bool.false_eq_true, mkIf, w])

theorem maxu (h : Hdr) (d a b : Reg) : Statement (.maxu h d a b) :=
  words_of rfl (hdrOf_packR ..) (fOp_packR ..) (fun w => w) rfl (fun w => by
    show decAlu _ _ = _
    unfold decAlu
    rw [fFnR_packR]
    show mkIf _ _ = _
    simp only [fD_packR, fA_packR, fB_packR, fC_packR, fTy_packR, fRm_packR, fImm13_packR, zR3_packR, zR3rm_packR, zR2_packR, zVn_packR, fMc_packR, zVm_packR, zVrm_packR, zeroAt_31_5_packR, zeroAt_26_10_packR, zeroAt_26_5_packR, zeroAt_44_20_packR, zeroAt_48_3_packR, zeroAt_44_4_packR, zeroAt_51_13_packR, zeroAt_44_7_packR, ofBool_getLsbD_zero, Bool.not_false, Bool.not_true, extract_ofBool, Nat.reduceLT, Nat.zero_add, Nat.zero_le, Nat.le_refl, BitVec.reduceBEq, Nat.reduceBEq, BitVec.ofNat_eq_ofNat, BitVec.reduceToNat, Nat.reduceMod, Nat.reduceLeDiff, Nat.reduceEqDiff, if_false, if_true, reduceIte, Nat.reduceAdd, Nat.reduceSub, beq_self_eq_true, Bool.and_self, Bool.and_true, Bool.true_and, Bool.or_false, Bool.false_or, Bool.or_true, Bool.true_or, decide_true, decide_false, Bool.false_eq_true, mkIf, w])

theorem sel (h : Hdr) (d a b c : Reg) : Statement (.sel h d a b c) :=
  words_of rfl (hdrOf_packR ..) (fOp_packR ..) (fun w => and_left w) rfl (fun w => by
    show decAlu _ _ = _
    unfold decAlu
    rw [fFnR_packR]
    show mkIf _ _ = _
    simp only [fD_packR, fA_packR, fB_packR, fC_packR, fTy_packR, fRm_packR, fImm13_packR, zR3_packR, zR3rm_packR, zR2_packR, zVn_packR, fMc_packR, zVm_packR, zVrm_packR, zeroAt_31_5_packR, zeroAt_26_10_packR, zeroAt_26_5_packR, zeroAt_44_20_packR, zeroAt_48_3_packR, zeroAt_44_4_packR, zeroAt_51_13_packR, zeroAt_44_7_packR, ofBool_getLsbD_zero, Bool.not_false, Bool.not_true, extract_ofBool, Nat.reduceLT, Nat.zero_add, Nat.zero_le, Nat.le_refl, BitVec.reduceBEq, Nat.reduceBEq, BitVec.ofNat_eq_ofNat, BitVec.reduceToNat, Nat.reduceMod, Nat.reduceLeDiff, Nat.reduceEqDiff, if_false, if_true, reduceIte, Nat.reduceAdd, Nat.reduceSub, beq_self_eq_true, Bool.and_self, Bool.and_true, Bool.true_and, Bool.or_false, Bool.false_or, Bool.or_true, Bool.true_or, decide_true, decide_false, Bool.false_eq_true, mkIf, w])

theorem clz (h : Hdr) (d a : Reg) : Statement (.clz h d a) :=
  words_of rfl (hdrOf_packR ..) (fOp_packR ..) (fun w => w) rfl (fun w => by
    show decAlu _ _ = _
    unfold decAlu
    rw [fFnR_packR]
    show mkIf _ _ = _
    simp only [fD_packR, fA_packR, fB_packR, fC_packR, fTy_packR, fRm_packR, fImm13_packR, zR3_packR, zR3rm_packR, zR2_packR, zVn_packR, fMc_packR, zVm_packR, zVrm_packR, zeroAt_31_5_packR, zeroAt_26_10_packR, zeroAt_26_5_packR, zeroAt_44_20_packR, zeroAt_48_3_packR, zeroAt_44_4_packR, zeroAt_51_13_packR, zeroAt_44_7_packR, ofBool_getLsbD_zero, Bool.not_false, Bool.not_true, extract_ofBool, Nat.reduceLT, Nat.zero_add, Nat.zero_le, Nat.le_refl, BitVec.reduceBEq, Nat.reduceBEq, BitVec.ofNat_eq_ofNat, BitVec.reduceToNat, Nat.reduceMod, Nat.reduceLeDiff, Nat.reduceEqDiff, if_false, if_true, reduceIte, Nat.reduceAdd, Nat.reduceSub, beq_self_eq_true, Bool.and_self, Bool.and_true, Bool.true_and, Bool.or_false, Bool.false_or, Bool.or_true, Bool.true_or, decide_true, decide_false, Bool.false_eq_true, mkIf, w])

theorem ctz (h : Hdr) (d a : Reg) : Statement (.ctz h d a) :=
  words_of rfl (hdrOf_packR ..) (fOp_packR ..) (fun w => w) rfl (fun w => by
    show decAlu _ _ = _
    unfold decAlu
    rw [fFnR_packR]
    show mkIf _ _ = _
    simp only [fD_packR, fA_packR, fB_packR, fC_packR, fTy_packR, fRm_packR, fImm13_packR, zR3_packR, zR3rm_packR, zR2_packR, zVn_packR, fMc_packR, zVm_packR, zVrm_packR, zeroAt_31_5_packR, zeroAt_26_10_packR, zeroAt_26_5_packR, zeroAt_44_20_packR, zeroAt_48_3_packR, zeroAt_44_4_packR, zeroAt_51_13_packR, zeroAt_44_7_packR, ofBool_getLsbD_zero, Bool.not_false, Bool.not_true, extract_ofBool, Nat.reduceLT, Nat.zero_add, Nat.zero_le, Nat.le_refl, BitVec.reduceBEq, Nat.reduceBEq, BitVec.ofNat_eq_ofNat, BitVec.reduceToNat, Nat.reduceMod, Nat.reduceLeDiff, Nat.reduceEqDiff, if_false, if_true, reduceIte, Nat.reduceAdd, Nat.reduceSub, beq_self_eq_true, Bool.and_self, Bool.and_true, Bool.true_and, Bool.or_false, Bool.false_or, Bool.or_true, Bool.true_or, decide_true, decide_false, Bool.false_eq_true, mkIf, w])

theorem popc (h : Hdr) (d a : Reg) : Statement (.popc h d a) :=
  words_of rfl (hdrOf_packR ..) (fOp_packR ..) (fun w => w) rfl (fun w => by
    show decAlu _ _ = _
    unfold decAlu
    rw [fFnR_packR]
    show mkIf _ _ = _
    simp only [fD_packR, fA_packR, fB_packR, fC_packR, fTy_packR, fRm_packR, fImm13_packR, zR3_packR, zR3rm_packR, zR2_packR, zVn_packR, fMc_packR, zVm_packR, zVrm_packR, zeroAt_31_5_packR, zeroAt_26_10_packR, zeroAt_26_5_packR, zeroAt_44_20_packR, zeroAt_48_3_packR, zeroAt_44_4_packR, zeroAt_51_13_packR, zeroAt_44_7_packR, ofBool_getLsbD_zero, Bool.not_false, Bool.not_true, extract_ofBool, Nat.reduceLT, Nat.zero_add, Nat.zero_le, Nat.le_refl, BitVec.reduceBEq, Nat.reduceBEq, BitVec.ofNat_eq_ofNat, BitVec.reduceToNat, Nat.reduceMod, Nat.reduceLeDiff, Nat.reduceEqDiff, if_false, if_true, reduceIte, Nat.reduceAdd, Nat.reduceSub, beq_self_eq_true, Bool.and_self, Bool.and_true, Bool.true_and, Bool.or_false, Bool.false_or, Bool.or_true, Bool.true_or, decide_true, decide_false, Bool.false_eq_true, mkIf, w])

theorem bswap (h : Hdr) (d a : Reg) : Statement (.bswap h d a) :=
  words_of rfl (hdrOf_packR ..) (fOp_packR ..) (fun w => w) rfl (fun w => by
    show decAlu _ _ = _
    unfold decAlu
    rw [fFnR_packR]
    show mkIf _ _ = _
    simp only [fD_packR, fA_packR, fB_packR, fC_packR, fTy_packR, fRm_packR, fImm13_packR, zR3_packR, zR3rm_packR, zR2_packR, zVn_packR, fMc_packR, zVm_packR, zVrm_packR, zeroAt_31_5_packR, zeroAt_26_10_packR, zeroAt_26_5_packR, zeroAt_44_20_packR, zeroAt_48_3_packR, zeroAt_44_4_packR, zeroAt_51_13_packR, zeroAt_44_7_packR, ofBool_getLsbD_zero, Bool.not_false, Bool.not_true, extract_ofBool, Nat.reduceLT, Nat.zero_add, Nat.zero_le, Nat.le_refl, BitVec.reduceBEq, Nat.reduceBEq, BitVec.ofNat_eq_ofNat, BitVec.reduceToNat, Nat.reduceMod, Nat.reduceLeDiff, Nat.reduceEqDiff, if_false, if_true, reduceIte, Nat.reduceAdd, Nat.reduceSub, beq_self_eq_true, Bool.and_self, Bool.and_true, Bool.true_and, Bool.or_false, Bool.false_or, Bool.or_true, Bool.true_or, decide_true, decide_false, Bool.false_eq_true, mkIf, w])

theorem bfx (h : Hdr) (d a : Reg) (imm : BitVec 13) : Statement (.bfx h d a imm) :=
  words_of rfl (hdrOf_packR ..) (fOp_packR ..) (fun w => and_left w) rfl (fun w => by
    show decAlu _ _ = _
    unfold decAlu
    rw [fFnR_packR]
    show mkIf _ _ = _
    simp only [packR, lowBits, mcImm, msImm, bit4, fD, fA, fB, fC, fTy, fRm, fImm13, fFnI, fImm32, fPort, fPd, fImm20, fMc, fMem, fAtom, fChan, fCopy, fCvt, fBind, fMRead, zR3, zR3rm, zR2, zVm, zVrm, zVn, extract_low, extract_high, extract_all, extract_zero, extract_span, app_beq_zero, ofBool_beq_zero, getLsbD_app, zeroAt_eq, ofBool_getLsbD_zero, Bool.not_false, Bool.not_true, extract_ofBool, Nat.reduceLT, Nat.zero_add, Nat.zero_le, Nat.le_refl, BitVec.reduceBEq, Nat.reduceBEq, BitVec.ofNat_eq_ofNat, BitVec.reduceToNat, Nat.reduceMod, Nat.reduceLeDiff, Nat.reduceEqDiff, if_false, if_true, reduceIte, Nat.reduceAdd, Nat.reduceSub, beq_self_eq_true, Bool.and_self, Bool.and_true, Bool.true_and, Bool.or_false, Bool.false_or, Bool.or_true, Bool.true_or, decide_true, decide_false, Bool.false_eq_true, mkIf, w])

theorem bfi (h : Hdr) (d a b : Reg) (imm : BitVec 13) : Statement (.bfi h d a b imm) :=
  words_of rfl (hdrOf_packR ..) (fOp_packR ..) (fun w => and_left (and_left w)) rfl (fun w => by
    show decAlu _ _ = _
    unfold decAlu
    rw [fFnR_packR]
    show mkIf _ _ = _
    simp only [packR, lowBits, mcImm, msImm, bit4, fD, fA, fB, fC, fTy, fRm, fImm13, fFnI, fImm32, fPort, fPd, fImm20, fMc, fMem, fAtom, fChan, fCopy, fCvt, fBind, fMRead, zR3, zR3rm, zR2, zVm, zVrm, zVn, extract_low, extract_high, extract_all, extract_zero, extract_span, app_beq_zero, ofBool_beq_zero, getLsbD_app, zeroAt_eq, ofBool_getLsbD_zero, Bool.not_false, Bool.not_true, extract_ofBool, Nat.reduceLT, Nat.zero_add, Nat.zero_le, Nat.le_refl, BitVec.reduceBEq, Nat.reduceBEq, BitVec.ofNat_eq_ofNat, BitVec.reduceToNat, Nat.reduceMod, Nat.reduceLeDiff, Nat.reduceEqDiff, if_false, if_true, reduceIte, Nat.reduceAdd, Nat.reduceSub, beq_self_eq_true, Bool.and_self, Bool.and_true, Bool.true_and, Bool.or_false, Bool.false_or, Bool.or_true, Bool.true_or, decide_true, decide_false, Bool.false_eq_true, mkIf, w])

theorem lea (h : Hdr) (d a b : Reg) (imm : BitVec 13) : Statement (.lea h d a b imm) :=
  words_of rfl (hdrOf_packR ..) (fOp_packR ..) (fun w => and_left w) rfl (fun w => by
    show decAlu _ _ = _
    unfold decAlu
    rw [fFnR_packR]
    show mkIf _ _ = _
    simp only [packR, lowBits, mcImm, msImm, bit4, fD, fA, fB, fC, fTy, fRm, fImm13, fFnI, fImm32, fPort, fPd, fImm20, fMc, fMem, fAtom, fChan, fCopy, fCvt, fBind, fMRead, zR3, zR3rm, zR2, zVm, zVrm, zVn, extract_low, extract_high, extract_all, extract_zero, extract_span, app_beq_zero, ofBool_beq_zero, getLsbD_app, zeroAt_eq, ofBool_getLsbD_zero, Bool.not_false, Bool.not_true, extract_ofBool, Nat.reduceLT, Nat.zero_add, Nat.zero_le, Nat.le_refl, BitVec.reduceBEq, Nat.reduceBEq, BitVec.ofNat_eq_ofNat, BitVec.reduceToNat, Nat.reduceMod, Nat.reduceLeDiff, Nat.reduceEqDiff, if_false, if_true, reduceIte, Nat.reduceAdd, Nat.reduceSub, beq_self_eq_true, Bool.and_self, Bool.and_true, Bool.true_and, Bool.or_false, Bool.false_or, Bool.or_true, Bool.true_or, decide_true, decide_false, Bool.false_eq_true, mkIf, w])

theorem mul (h : Hdr) (d a b : Reg) (rm : BitVec 3) : Statement (.mul h d a b rm) :=
  words_of rfl (hdrOf_packR ..) (fOp_packR ..) (fun w => w) rfl (fun w => by
    show decMulDiv _ _ = _
    unfold decMulDiv
    rw [fFnR_packR]
    show mkIf _ _ = _
    simp only [fD_packR, fA_packR, fB_packR, fC_packR, fTy_packR, fRm_packR, fImm13_packR, zR3_packR, zR3rm_packR, zR2_packR, zVn_packR, fMc_packR, zVm_packR, zVrm_packR, zeroAt_31_5_packR, zeroAt_26_10_packR, zeroAt_26_5_packR, zeroAt_44_20_packR, zeroAt_48_3_packR, zeroAt_44_4_packR, zeroAt_51_13_packR, zeroAt_44_7_packR, ofBool_getLsbD_zero, Bool.not_false, Bool.not_true, extract_ofBool, Nat.reduceLT, Nat.zero_add, Nat.zero_le, Nat.le_refl, BitVec.reduceBEq, Nat.reduceBEq, BitVec.ofNat_eq_ofNat, BitVec.reduceToNat, Nat.reduceMod, Nat.reduceLeDiff, Nat.reduceEqDiff, if_false, if_true, reduceIte, Nat.reduceAdd, Nat.reduceSub, beq_self_eq_true, Bool.and_self, Bool.and_true, Bool.true_and, Bool.or_false, Bool.false_or, Bool.or_true, Bool.true_or, decide_true, decide_false, Bool.false_eq_true, mkIf, w])

theorem mulh (h : Hdr) (d a b : Reg) : Statement (.mulh h d a b) :=
  words_of rfl (hdrOf_packR ..) (fOp_packR ..) (fun w => w) rfl (fun w => by
    show decMulDiv _ _ = _
    unfold decMulDiv
    rw [fFnR_packR]
    show mkIf _ _ = _
    simp only [fD_packR, fA_packR, fB_packR, fC_packR, fTy_packR, fRm_packR, fImm13_packR, zR3_packR, zR3rm_packR, zR2_packR, zVn_packR, fMc_packR, zVm_packR, zVrm_packR, zeroAt_31_5_packR, zeroAt_26_10_packR, zeroAt_26_5_packR, zeroAt_44_20_packR, zeroAt_48_3_packR, zeroAt_44_4_packR, zeroAt_51_13_packR, zeroAt_44_7_packR, ofBool_getLsbD_zero, Bool.not_false, Bool.not_true, extract_ofBool, Nat.reduceLT, Nat.zero_add, Nat.zero_le, Nat.le_refl, BitVec.reduceBEq, Nat.reduceBEq, BitVec.ofNat_eq_ofNat, BitVec.reduceToNat, Nat.reduceMod, Nat.reduceLeDiff, Nat.reduceEqDiff, if_false, if_true, reduceIte, Nat.reduceAdd, Nat.reduceSub, beq_self_eq_true, Bool.and_self, Bool.and_true, Bool.true_and, Bool.or_false, Bool.false_or, Bool.or_true, Bool.true_or, decide_true, decide_false, Bool.false_eq_true, mkIf, w])

theorem mulhu (h : Hdr) (d a b : Reg) : Statement (.mulhu h d a b) :=
  words_of rfl (hdrOf_packR ..) (fOp_packR ..) (fun w => w) rfl (fun w => by
    show decMulDiv _ _ = _
    unfold decMulDiv
    rw [fFnR_packR]
    show mkIf _ _ = _
    simp only [fD_packR, fA_packR, fB_packR, fC_packR, fTy_packR, fRm_packR, fImm13_packR, zR3_packR, zR3rm_packR, zR2_packR, zVn_packR, fMc_packR, zVm_packR, zVrm_packR, zeroAt_31_5_packR, zeroAt_26_10_packR, zeroAt_26_5_packR, zeroAt_44_20_packR, zeroAt_48_3_packR, zeroAt_44_4_packR, zeroAt_51_13_packR, zeroAt_44_7_packR, ofBool_getLsbD_zero, Bool.not_false, Bool.not_true, extract_ofBool, Nat.reduceLT, Nat.zero_add, Nat.zero_le, Nat.le_refl, BitVec.reduceBEq, Nat.reduceBEq, BitVec.ofNat_eq_ofNat, BitVec.reduceToNat, Nat.reduceMod, Nat.reduceLeDiff, Nat.reduceEqDiff, if_false, if_true, reduceIte, Nat.reduceAdd, Nat.reduceSub, beq_self_eq_true, Bool.and_self, Bool.and_true, Bool.true_and, Bool.or_false, Bool.false_or, Bool.or_true, Bool.true_or, decide_true, decide_false, Bool.false_eq_true, mkIf, w])

theorem div (h : Hdr) (d a b : Reg) : Statement (.div h d a b) :=
  words_of rfl (hdrOf_packR ..) (fOp_packR ..) (fun w => w) rfl (fun w => by
    show decMulDiv _ _ = _
    unfold decMulDiv
    rw [fFnR_packR]
    show mkIf _ _ = _
    simp only [fD_packR, fA_packR, fB_packR, fC_packR, fTy_packR, fRm_packR, fImm13_packR, zR3_packR, zR3rm_packR, zR2_packR, zVn_packR, fMc_packR, zVm_packR, zVrm_packR, zeroAt_31_5_packR, zeroAt_26_10_packR, zeroAt_26_5_packR, zeroAt_44_20_packR, zeroAt_48_3_packR, zeroAt_44_4_packR, zeroAt_51_13_packR, zeroAt_44_7_packR, ofBool_getLsbD_zero, Bool.not_false, Bool.not_true, extract_ofBool, Nat.reduceLT, Nat.zero_add, Nat.zero_le, Nat.le_refl, BitVec.reduceBEq, Nat.reduceBEq, BitVec.ofNat_eq_ofNat, BitVec.reduceToNat, Nat.reduceMod, Nat.reduceLeDiff, Nat.reduceEqDiff, if_false, if_true, reduceIte, Nat.reduceAdd, Nat.reduceSub, beq_self_eq_true, Bool.and_self, Bool.and_true, Bool.true_and, Bool.or_false, Bool.false_or, Bool.or_true, Bool.true_or, decide_true, decide_false, Bool.false_eq_true, mkIf, w])

theorem divu (h : Hdr) (d a b : Reg) : Statement (.divu h d a b) :=
  words_of rfl (hdrOf_packR ..) (fOp_packR ..) (fun w => w) rfl (fun w => by
    show decMulDiv _ _ = _
    unfold decMulDiv
    rw [fFnR_packR]
    show mkIf _ _ = _
    simp only [fD_packR, fA_packR, fB_packR, fC_packR, fTy_packR, fRm_packR, fImm13_packR, zR3_packR, zR3rm_packR, zR2_packR, zVn_packR, fMc_packR, zVm_packR, zVrm_packR, zeroAt_31_5_packR, zeroAt_26_10_packR, zeroAt_26_5_packR, zeroAt_44_20_packR, zeroAt_48_3_packR, zeroAt_44_4_packR, zeroAt_51_13_packR, zeroAt_44_7_packR, ofBool_getLsbD_zero, Bool.not_false, Bool.not_true, extract_ofBool, Nat.reduceLT, Nat.zero_add, Nat.zero_le, Nat.le_refl, BitVec.reduceBEq, Nat.reduceBEq, BitVec.ofNat_eq_ofNat, BitVec.reduceToNat, Nat.reduceMod, Nat.reduceLeDiff, Nat.reduceEqDiff, if_false, if_true, reduceIte, Nat.reduceAdd, Nat.reduceSub, beq_self_eq_true, Bool.and_self, Bool.and_true, Bool.true_and, Bool.or_false, Bool.false_or, Bool.or_true, Bool.true_or, decide_true, decide_false, Bool.false_eq_true, mkIf, w])

theorem rem (h : Hdr) (d a b : Reg) : Statement (.rem h d a b) :=
  words_of rfl (hdrOf_packR ..) (fOp_packR ..) (fun w => w) rfl (fun w => by
    show decMulDiv _ _ = _
    unfold decMulDiv
    rw [fFnR_packR]
    show mkIf _ _ = _
    simp only [fD_packR, fA_packR, fB_packR, fC_packR, fTy_packR, fRm_packR, fImm13_packR, zR3_packR, zR3rm_packR, zR2_packR, zVn_packR, fMc_packR, zVm_packR, zVrm_packR, zeroAt_31_5_packR, zeroAt_26_10_packR, zeroAt_26_5_packR, zeroAt_44_20_packR, zeroAt_48_3_packR, zeroAt_44_4_packR, zeroAt_51_13_packR, zeroAt_44_7_packR, ofBool_getLsbD_zero, Bool.not_false, Bool.not_true, extract_ofBool, Nat.reduceLT, Nat.zero_add, Nat.zero_le, Nat.le_refl, BitVec.reduceBEq, Nat.reduceBEq, BitVec.ofNat_eq_ofNat, BitVec.reduceToNat, Nat.reduceMod, Nat.reduceLeDiff, Nat.reduceEqDiff, if_false, if_true, reduceIte, Nat.reduceAdd, Nat.reduceSub, beq_self_eq_true, Bool.and_self, Bool.and_true, Bool.true_and, Bool.or_false, Bool.false_or, Bool.or_true, Bool.true_or, decide_true, decide_false, Bool.false_eq_true, mkIf, w])

theorem remu (h : Hdr) (d a b : Reg) : Statement (.remu h d a b) :=
  words_of rfl (hdrOf_packR ..) (fOp_packR ..) (fun w => w) rfl (fun w => by
    show decMulDiv _ _ = _
    unfold decMulDiv
    rw [fFnR_packR]
    show mkIf _ _ = _
    simp only [fD_packR, fA_packR, fB_packR, fC_packR, fTy_packR, fRm_packR, fImm13_packR, zR3_packR, zR3rm_packR, zR2_packR, zVn_packR, fMc_packR, zVm_packR, zVrm_packR, zeroAt_31_5_packR, zeroAt_26_10_packR, zeroAt_26_5_packR, zeroAt_44_20_packR, zeroAt_48_3_packR, zeroAt_44_4_packR, zeroAt_51_13_packR, zeroAt_44_7_packR, ofBool_getLsbD_zero, Bool.not_false, Bool.not_true, extract_ofBool, Nat.reduceLT, Nat.zero_add, Nat.zero_le, Nat.le_refl, BitVec.reduceBEq, Nat.reduceBEq, BitVec.ofNat_eq_ofNat, BitVec.reduceToNat, Nat.reduceMod, Nat.reduceLeDiff, Nat.reduceEqDiff, if_false, if_true, reduceIte, Nat.reduceAdd, Nat.reduceSub, beq_self_eq_true, Bool.and_self, Bool.and_true, Bool.true_and, Bool.or_false, Bool.false_or, Bool.or_true, Bool.true_or, decide_true, decide_false, Bool.false_eq_true, mkIf, w])

theorem madd (h : Hdr) (d a b c : Reg) (rm : BitVec 3) : Statement (.madd h d a b c rm) :=
  words_of rfl (hdrOf_packR ..) (fOp_packR ..) (fun w => w) rfl (fun w => by
    show decMulDiv _ _ = _
    unfold decMulDiv
    rw [fFnR_packR]
    show mkIf _ _ = _
    simp only [fD_packR, fA_packR, fB_packR, fC_packR, fTy_packR, fRm_packR, fImm13_packR, zR3_packR, zR3rm_packR, zR2_packR, zVn_packR, fMc_packR, zVm_packR, zVrm_packR, zeroAt_31_5_packR, zeroAt_26_10_packR, zeroAt_26_5_packR, zeroAt_44_20_packR, zeroAt_48_3_packR, zeroAt_44_4_packR, zeroAt_51_13_packR, zeroAt_44_7_packR, ofBool_getLsbD_zero, Bool.not_false, Bool.not_true, extract_ofBool, Nat.reduceLT, Nat.zero_add, Nat.zero_le, Nat.le_refl, BitVec.reduceBEq, Nat.reduceBEq, BitVec.ofNat_eq_ofNat, BitVec.reduceToNat, Nat.reduceMod, Nat.reduceLeDiff, Nat.reduceEqDiff, if_false, if_true, reduceIte, Nat.reduceAdd, Nat.reduceSub, beq_self_eq_true, Bool.and_self, Bool.and_true, Bool.true_and, Bool.or_false, Bool.false_or, Bool.or_true, Bool.true_or, decide_true, decide_false, Bool.false_eq_true, mkIf, w])

theorem addi (h : Hdr) (d a : Reg) (imm : BitVec 32) : Statement (.addi h d a imm) :=
  words_of rfl (hdrOf_packI ..) (fOp_packI ..) (fun w => w) rfl (fun w => by
    show decAlui _ _ = _
    unfold decAlui
    rw [fFnI_packI]
    show mkIf _ _ = _
    simp only [fD_packI, fA_packI, fImm32_packI, ofBool_getLsbD_zero, Bool.not_false, Bool.not_true, extract_ofBool, Nat.reduceLT, Nat.zero_add, Nat.zero_le, Nat.le_refl, BitVec.reduceBEq, Nat.reduceBEq, BitVec.ofNat_eq_ofNat, BitVec.reduceToNat, Nat.reduceMod, Nat.reduceLeDiff, Nat.reduceEqDiff, if_false, if_true, reduceIte, Nat.reduceAdd, Nat.reduceSub, beq_self_eq_true, Bool.and_self, Bool.and_true, Bool.true_and, Bool.or_false, Bool.false_or, Bool.or_true, Bool.true_or, decide_true, decide_false, Bool.false_eq_true, mkIf, w])

theorem andi (h : Hdr) (d a : Reg) (imm : BitVec 32) : Statement (.andi h d a imm) :=
  words_of rfl (hdrOf_packI ..) (fOp_packI ..) (fun w => w) rfl (fun w => by
    show decAlui _ _ = _
    unfold decAlui
    rw [fFnI_packI]
    show mkIf _ _ = _
    simp only [fD_packI, fA_packI, fImm32_packI, ofBool_getLsbD_zero, Bool.not_false, Bool.not_true, extract_ofBool, Nat.reduceLT, Nat.zero_add, Nat.zero_le, Nat.le_refl, BitVec.reduceBEq, Nat.reduceBEq, BitVec.ofNat_eq_ofNat, BitVec.reduceToNat, Nat.reduceMod, Nat.reduceLeDiff, Nat.reduceEqDiff, if_false, if_true, reduceIte, Nat.reduceAdd, Nat.reduceSub, beq_self_eq_true, Bool.and_self, Bool.and_true, Bool.true_and, Bool.or_false, Bool.false_or, Bool.or_true, Bool.true_or, decide_true, decide_false, Bool.false_eq_true, mkIf, w])

theorem ori (h : Hdr) (d a : Reg) (imm : BitVec 32) : Statement (.ori h d a imm) :=
  words_of rfl (hdrOf_packI ..) (fOp_packI ..) (fun w => w) rfl (fun w => by
    show decAlui _ _ = _
    unfold decAlui
    rw [fFnI_packI]
    show mkIf _ _ = _
    simp only [fD_packI, fA_packI, fImm32_packI, ofBool_getLsbD_zero, Bool.not_false, Bool.not_true, extract_ofBool, Nat.reduceLT, Nat.zero_add, Nat.zero_le, Nat.le_refl, BitVec.reduceBEq, Nat.reduceBEq, BitVec.ofNat_eq_ofNat, BitVec.reduceToNat, Nat.reduceMod, Nat.reduceLeDiff, Nat.reduceEqDiff, if_false, if_true, reduceIte, Nat.reduceAdd, Nat.reduceSub, beq_self_eq_true, Bool.and_self, Bool.and_true, Bool.true_and, Bool.or_false, Bool.false_or, Bool.or_true, Bool.true_or, decide_true, decide_false, Bool.false_eq_true, mkIf, w])

theorem xori (h : Hdr) (d a : Reg) (imm : BitVec 32) : Statement (.xori h d a imm) :=
  words_of rfl (hdrOf_packI ..) (fOp_packI ..) (fun w => w) rfl (fun w => by
    show decAlui _ _ = _
    unfold decAlui
    rw [fFnI_packI]
    show mkIf _ _ = _
    simp only [fD_packI, fA_packI, fImm32_packI, ofBool_getLsbD_zero, Bool.not_false, Bool.not_true, extract_ofBool, Nat.reduceLT, Nat.zero_add, Nat.zero_le, Nat.le_refl, BitVec.reduceBEq, Nat.reduceBEq, BitVec.ofNat_eq_ofNat, BitVec.reduceToNat, Nat.reduceMod, Nat.reduceLeDiff, Nat.reduceEqDiff, if_false, if_true, reduceIte, Nat.reduceAdd, Nat.reduceSub, beq_self_eq_true, Bool.and_self, Bool.and_true, Bool.true_and, Bool.or_false, Bool.false_or, Bool.or_true, Bool.true_or, decide_true, decide_false, Bool.false_eq_true, mkIf, w])

theorem shli (h : Hdr) (d a : Reg) (imm : BitVec 32) : Statement (.shli h d a imm) :=
  words_of rfl (hdrOf_packI ..) (fOp_packI ..) (fun w => and_left w) rfl (fun w => by
    show decAlui _ _ = _
    unfold decAlui
    rw [fFnI_packI]
    show mkIf _ _ = _
    simp only [fD_packI, fA_packI, fImm32_packI, ofBool_getLsbD_zero, Bool.not_false, Bool.not_true, extract_ofBool, Nat.reduceLT, Nat.zero_add, Nat.zero_le, Nat.le_refl, BitVec.reduceBEq, Nat.reduceBEq, BitVec.ofNat_eq_ofNat, BitVec.reduceToNat, Nat.reduceMod, Nat.reduceLeDiff, Nat.reduceEqDiff, if_false, if_true, reduceIte, Nat.reduceAdd, Nat.reduceSub, beq_self_eq_true, Bool.and_self, Bool.and_true, Bool.true_and, Bool.or_false, Bool.false_or, Bool.or_true, Bool.true_or, decide_true, decide_false, Bool.false_eq_true, mkIf, w])

theorem shri (h : Hdr) (d a : Reg) (imm : BitVec 32) : Statement (.shri h d a imm) :=
  words_of rfl (hdrOf_packI ..) (fOp_packI ..) (fun w => and_left w) rfl (fun w => by
    show decAlui _ _ = _
    unfold decAlui
    rw [fFnI_packI]
    show mkIf _ _ = _
    simp only [fD_packI, fA_packI, fImm32_packI, ofBool_getLsbD_zero, Bool.not_false, Bool.not_true, extract_ofBool, Nat.reduceLT, Nat.zero_add, Nat.zero_le, Nat.le_refl, BitVec.reduceBEq, Nat.reduceBEq, BitVec.ofNat_eq_ofNat, BitVec.reduceToNat, Nat.reduceMod, Nat.reduceLeDiff, Nat.reduceEqDiff, if_false, if_true, reduceIte, Nat.reduceAdd, Nat.reduceSub, beq_self_eq_true, Bool.and_self, Bool.and_true, Bool.true_and, Bool.or_false, Bool.false_or, Bool.or_true, Bool.true_or, decide_true, decide_false, Bool.false_eq_true, mkIf, w])

theorem sari (h : Hdr) (d a : Reg) (imm : BitVec 32) : Statement (.sari h d a imm) :=
  words_of rfl (hdrOf_packI ..) (fOp_packI ..) (fun w => and_left w) rfl (fun w => by
    show decAlui _ _ = _
    unfold decAlui
    rw [fFnI_packI]
    show mkIf _ _ = _
    simp only [fD_packI, fA_packI, fImm32_packI, ofBool_getLsbD_zero, Bool.not_false, Bool.not_true, extract_ofBool, Nat.reduceLT, Nat.zero_add, Nat.zero_le, Nat.le_refl, BitVec.reduceBEq, Nat.reduceBEq, BitVec.ofNat_eq_ofNat, BitVec.reduceToNat, Nat.reduceMod, Nat.reduceLeDiff, Nat.reduceEqDiff, if_false, if_true, reduceIte, Nat.reduceAdd, Nat.reduceSub, beq_self_eq_true, Bool.and_self, Bool.and_true, Bool.true_and, Bool.or_false, Bool.false_or, Bool.or_true, Bool.true_or, decide_true, decide_false, Bool.false_eq_true, mkIf, w])

theorem mini (h : Hdr) (d a : Reg) (imm : BitVec 32) : Statement (.mini h d a imm) :=
  words_of rfl (hdrOf_packI ..) (fOp_packI ..) (fun w => w) rfl (fun w => by
    show decAlui _ _ = _
    unfold decAlui
    rw [fFnI_packI]
    show mkIf _ _ = _
    simp only [fD_packI, fA_packI, fImm32_packI, ofBool_getLsbD_zero, Bool.not_false, Bool.not_true, extract_ofBool, Nat.reduceLT, Nat.zero_add, Nat.zero_le, Nat.le_refl, BitVec.reduceBEq, Nat.reduceBEq, BitVec.ofNat_eq_ofNat, BitVec.reduceToNat, Nat.reduceMod, Nat.reduceLeDiff, Nat.reduceEqDiff, if_false, if_true, reduceIte, Nat.reduceAdd, Nat.reduceSub, beq_self_eq_true, Bool.and_self, Bool.and_true, Bool.true_and, Bool.or_false, Bool.false_or, Bool.or_true, Bool.true_or, decide_true, decide_false, Bool.false_eq_true, mkIf, w])

theorem maxi (h : Hdr) (d a : Reg) (imm : BitVec 32) : Statement (.maxi h d a imm) :=
  words_of rfl (hdrOf_packI ..) (fOp_packI ..) (fun w => w) rfl (fun w => by
    show decAlui _ _ = _
    unfold decAlui
    rw [fFnI_packI]
    show mkIf _ _ = _
    simp only [fD_packI, fA_packI, fImm32_packI, ofBool_getLsbD_zero, Bool.not_false, Bool.not_true, extract_ofBool, Nat.reduceLT, Nat.zero_add, Nat.zero_le, Nat.le_refl, BitVec.reduceBEq, Nat.reduceBEq, BitVec.ofNat_eq_ofNat, BitVec.reduceToNat, Nat.reduceMod, Nat.reduceLeDiff, Nat.reduceEqDiff, if_false, if_true, reduceIte, Nat.reduceAdd, Nat.reduceSub, beq_self_eq_true, Bool.and_self, Bool.and_true, Bool.true_and, Bool.or_false, Bool.false_or, Bool.or_true, Bool.true_or, decide_true, decide_false, Bool.false_eq_true, mkIf, w])

theorem muli (h : Hdr) (d a : Reg) (imm : BitVec 32) : Statement (.muli h d a imm) :=
  words_of rfl (hdrOf_packI ..) (fOp_packI ..) (fun w => w) rfl (fun w => by
    show decAlui _ _ = _
    unfold decAlui
    rw [fFnI_packI]
    show mkIf _ _ = _
    simp only [fD_packI, fA_packI, fImm32_packI, ofBool_getLsbD_zero, Bool.not_false, Bool.not_true, extract_ofBool, Nat.reduceLT, Nat.zero_add, Nat.zero_le, Nat.le_refl, BitVec.reduceBEq, Nat.reduceBEq, BitVec.ofNat_eq_ofNat, BitVec.reduceToNat, Nat.reduceMod, Nat.reduceLeDiff, Nat.reduceEqDiff, if_false, if_true, reduceIte, Nat.reduceAdd, Nat.reduceSub, beq_self_eq_true, Bool.and_self, Bool.and_true, Bool.true_and, Bool.or_false, Bool.false_or, Bool.or_true, Bool.true_or, decide_true, decide_false, Bool.false_eq_true, mkIf, w])

theorem movi (h : Hdr) (d : Reg) (imm : BitVec 32) : Statement (.movi h d imm) :=
  words_of rfl (hdrOf_packI ..) (fOp_packI ..) (fun w => w) rfl (fun w => by
    show decAlui _ _ = _
    unfold decAlui
    rw [fFnI_packI]
    show mkIf _ _ = _
    simp only [fD_packI, fA_packI, fImm32_packI, ofBool_getLsbD_zero, Bool.not_false, Bool.not_true, extract_ofBool, Nat.reduceLT, Nat.zero_add, Nat.zero_le, Nat.le_refl, BitVec.reduceBEq, Nat.reduceBEq, BitVec.ofNat_eq_ofNat, BitVec.reduceToNat, Nat.reduceMod, Nat.reduceLeDiff, Nat.reduceEqDiff, if_false, if_true, reduceIte, Nat.reduceAdd, Nat.reduceSub, beq_self_eq_true, Bool.and_self, Bool.and_true, Bool.true_and, Bool.or_false, Bool.false_or, Bool.or_true, Bool.true_or, decide_true, decide_false, Bool.false_eq_true, mkIf, w])

theorem movhi (h : Hdr) (d a : Reg) (imm : BitVec 32) : Statement (.movhi h d a imm) :=
  words_of rfl (hdrOf_packI ..) (fOp_packI ..) (fun w => w) rfl (fun w => by
    show decAlui _ _ = _
    unfold decAlui
    rw [fFnI_packI]
    show mkIf _ _ = _
    simp only [fD_packI, fA_packI, fImm32_packI, ofBool_getLsbD_zero, Bool.not_false, Bool.not_true, extract_ofBool, Nat.reduceLT, Nat.zero_add, Nat.zero_le, Nat.le_refl, BitVec.reduceBEq, Nat.reduceBEq, BitVec.ofNat_eq_ofNat, BitVec.reduceToNat, Nat.reduceMod, Nat.reduceLeDiff, Nat.reduceEqDiff, if_false, if_true, reduceIte, Nat.reduceAdd, Nat.reduceSub, beq_self_eq_true, Bool.and_self, Bool.and_true, Bool.true_and, Bool.or_false, Bool.false_or, Bool.or_true, Bool.true_or, decide_true, decide_false, Bool.false_eq_true, mkIf, w])

theorem cmp (h : Hdr) (cc : BitVec 4) (d a b : Reg) : Statement (.cmp h cc d a b) :=
  words_of rfl (hdrOf_packR ..) (fOp_packR ..) (fun w => and_left (and_left w)) rfl (fun w => by
    show mkIf _ _ = _
    simp only [packR, lowBits, mcImm, msImm, bit4, fD, fA, fB, fC, fFnR, fTy, fRm, fImm13, fFnI, fImm32, fPort, fPd, fImm20, fMc, fMem, fAtom, fChan, fCopy, fCvt, fBind, fMRead, zR3, zR3rm, zR2, zVm, zVrm, zVn, extract_low, extract_high, extract_all, extract_zero, extract_span, app_beq_zero, ofBool_beq_zero, getLsbD_app, zeroAt_eq, ofBool_getLsbD_zero, Bool.not_false, Bool.not_true, extract_ofBool, Nat.reduceLT, Nat.zero_add, Nat.zero_le, Nat.le_refl, BitVec.reduceBEq, Nat.reduceBEq, BitVec.ofNat_eq_ofNat, BitVec.reduceToNat, Nat.reduceMod, Nat.reduceLeDiff, Nat.reduceEqDiff, if_false, if_true, reduceIte, Nat.reduceAdd, Nat.reduceSub, beq_self_eq_true, Bool.and_self, Bool.and_true, Bool.true_and, Bool.or_false, Bool.false_or, Bool.or_true, Bool.true_or, decide_true, decide_false, Bool.false_eq_true, mkIf, w])

theorem cmpi (h : Hdr) (cc : BitVec 4) (d a : Reg) (imm : BitVec 32) : Statement (.cmpi h cc d a imm) :=
  words_of rfl (hdrOf_packI ..) (fOp_packI ..) (fun w => and_left (and_left w)) rfl (fun w => by
    show mkIf _ _ = _
    simp only [packI, lowBits, mcImm, msImm, bit4, fD, fA, fB, fC, fFnR, fTy, fRm, fImm13, fFnI, fImm32, fPort, fPd, fImm20, fMc, fMem, fAtom, fChan, fCopy, fCvt, fBind, fMRead, zR3, zR3rm, zR2, zVm, zVrm, zVn, extract_low, extract_high, extract_all, extract_zero, extract_span, app_beq_zero, ofBool_beq_zero, getLsbD_app, zeroAt_eq, ofBool_getLsbD_zero, Bool.not_false, Bool.not_true, extract_ofBool, Nat.reduceLT, Nat.zero_add, Nat.zero_le, Nat.le_refl, BitVec.reduceBEq, Nat.reduceBEq, BitVec.ofNat_eq_ofNat, BitVec.reduceToNat, Nat.reduceMod, Nat.reduceLeDiff, Nat.reduceEqDiff, if_false, if_true, reduceIte, Nat.reduceAdd, Nat.reduceSub, beq_self_eq_true, Bool.and_self, Bool.and_true, Bool.true_and, Bool.or_false, Bool.false_or, Bool.or_true, Bool.true_or, decide_true, decide_false, Bool.false_eq_true, mkIf, w])

theorem pand (h : Hdr) (d a b : Reg) : Statement (.pand h d a b) :=
  words_of rfl (hdrOf_packR ..) (fOp_packR ..) (fun w => and_left (and_left (and_left w))) rfl (fun w => by
    show decPlog _ _ = _
    unfold decPlog
    rw [fFnR_packR]
    show mkIf _ _ = _
    simp only [fD_packR, fA_packR, fB_packR, fC_packR, fTy_packR, fRm_packR, fImm13_packR, zR3_packR, zR3rm_packR, zR2_packR, zVn_packR, fMc_packR, zVm_packR, zVrm_packR, zeroAt_31_5_packR, zeroAt_26_10_packR, zeroAt_26_5_packR, zeroAt_44_20_packR, zeroAt_48_3_packR, zeroAt_44_4_packR, zeroAt_51_13_packR, zeroAt_44_7_packR, ofBool_getLsbD_zero, Bool.not_false, Bool.not_true, extract_ofBool, Nat.reduceLT, Nat.zero_add, Nat.zero_le, Nat.le_refl, BitVec.reduceBEq, Nat.reduceBEq, BitVec.ofNat_eq_ofNat, BitVec.reduceToNat, Nat.reduceMod, Nat.reduceLeDiff, Nat.reduceEqDiff, if_false, if_true, reduceIte, Nat.reduceAdd, Nat.reduceSub, beq_self_eq_true, Bool.and_self, Bool.and_true, Bool.true_and, Bool.or_false, Bool.false_or, Bool.or_true, Bool.true_or, decide_true, decide_false, Bool.false_eq_true, mkIf, w])

theorem por (h : Hdr) (d a b : Reg) : Statement (.por h d a b) :=
  words_of rfl (hdrOf_packR ..) (fOp_packR ..) (fun w => and_left (and_left (and_left w))) rfl (fun w => by
    show decPlog _ _ = _
    unfold decPlog
    rw [fFnR_packR]
    show mkIf _ _ = _
    simp only [fD_packR, fA_packR, fB_packR, fC_packR, fTy_packR, fRm_packR, fImm13_packR, zR3_packR, zR3rm_packR, zR2_packR, zVn_packR, fMc_packR, zVm_packR, zVrm_packR, zeroAt_31_5_packR, zeroAt_26_10_packR, zeroAt_26_5_packR, zeroAt_44_20_packR, zeroAt_48_3_packR, zeroAt_44_4_packR, zeroAt_51_13_packR, zeroAt_44_7_packR, ofBool_getLsbD_zero, Bool.not_false, Bool.not_true, extract_ofBool, Nat.reduceLT, Nat.zero_add, Nat.zero_le, Nat.le_refl, BitVec.reduceBEq, Nat.reduceBEq, BitVec.ofNat_eq_ofNat, BitVec.reduceToNat, Nat.reduceMod, Nat.reduceLeDiff, Nat.reduceEqDiff, if_false, if_true, reduceIte, Nat.reduceAdd, Nat.reduceSub, beq_self_eq_true, Bool.and_self, Bool.and_true, Bool.true_and, Bool.or_false, Bool.false_or, Bool.or_true, Bool.true_or, decide_true, decide_false, Bool.false_eq_true, mkIf, w])

theorem pxor (h : Hdr) (d a b : Reg) : Statement (.pxor h d a b) :=
  words_of rfl (hdrOf_packR ..) (fOp_packR ..) (fun w => and_left (and_left (and_left w))) rfl (fun w => by
    show decPlog _ _ = _
    unfold decPlog
    rw [fFnR_packR]
    show mkIf _ _ = _
    simp only [fD_packR, fA_packR, fB_packR, fC_packR, fTy_packR, fRm_packR, fImm13_packR, zR3_packR, zR3rm_packR, zR2_packR, zVn_packR, fMc_packR, zVm_packR, zVrm_packR, zeroAt_31_5_packR, zeroAt_26_10_packR, zeroAt_26_5_packR, zeroAt_44_20_packR, zeroAt_48_3_packR, zeroAt_44_4_packR, zeroAt_51_13_packR, zeroAt_44_7_packR, ofBool_getLsbD_zero, Bool.not_false, Bool.not_true, extract_ofBool, Nat.reduceLT, Nat.zero_add, Nat.zero_le, Nat.le_refl, BitVec.reduceBEq, Nat.reduceBEq, BitVec.ofNat_eq_ofNat, BitVec.reduceToNat, Nat.reduceMod, Nat.reduceLeDiff, Nat.reduceEqDiff, if_false, if_true, reduceIte, Nat.reduceAdd, Nat.reduceSub, beq_self_eq_true, Bool.and_self, Bool.and_true, Bool.true_and, Bool.or_false, Bool.false_or, Bool.or_true, Bool.true_or, decide_true, decide_false, Bool.false_eq_true, mkIf, w])

theorem pnot (h : Hdr) (d a : Reg) : Statement (.pnot h d a) :=
  words_of rfl (hdrOf_packR ..) (fOp_packR ..) (fun w => and_left (and_left w)) rfl (fun w => by
    show decPlog _ _ = _
    unfold decPlog
    rw [fFnR_packR]
    show mkIf _ _ = _
    simp only [fD_packR, fA_packR, fB_packR, fC_packR, fTy_packR, fRm_packR, fImm13_packR, zR3_packR, zR3rm_packR, zR2_packR, zVn_packR, fMc_packR, zVm_packR, zVrm_packR, zeroAt_31_5_packR, zeroAt_26_10_packR, zeroAt_26_5_packR, zeroAt_44_20_packR, zeroAt_48_3_packR, zeroAt_44_4_packR, zeroAt_51_13_packR, zeroAt_44_7_packR, ofBool_getLsbD_zero, Bool.not_false, Bool.not_true, extract_ofBool, Nat.reduceLT, Nat.zero_add, Nat.zero_le, Nat.le_refl, BitVec.reduceBEq, Nat.reduceBEq, BitVec.ofNat_eq_ofNat, BitVec.reduceToNat, Nat.reduceMod, Nat.reduceLeDiff, Nat.reduceEqDiff, if_false, if_true, reduceIte, Nat.reduceAdd, Nat.reduceSub, beq_self_eq_true, Bool.and_self, Bool.and_true, Bool.true_and, Bool.or_false, Bool.false_or, Bool.or_true, Bool.true_or, decide_true, decide_false, Bool.false_eq_true, mkIf, w])

theorem pmov (h : Hdr) (d a : Reg) : Statement (.pmov h d a) :=
  words_of rfl (hdrOf_packR ..) (fOp_packR ..) (fun w => and_left (and_left w)) rfl (fun w => by
    show decPlog _ _ = _
    unfold decPlog
    rw [fFnR_packR]
    show mkIf _ _ = _
    simp only [fD_packR, fA_packR, fB_packR, fC_packR, fTy_packR, fRm_packR, fImm13_packR, zR3_packR, zR3rm_packR, zR2_packR, zVn_packR, fMc_packR, zVm_packR, zVrm_packR, zeroAt_31_5_packR, zeroAt_26_10_packR, zeroAt_26_5_packR, zeroAt_44_20_packR, zeroAt_48_3_packR, zeroAt_44_4_packR, zeroAt_51_13_packR, zeroAt_44_7_packR, ofBool_getLsbD_zero, Bool.not_false, Bool.not_true, extract_ofBool, Nat.reduceLT, Nat.zero_add, Nat.zero_le, Nat.le_refl, BitVec.reduceBEq, Nat.reduceBEq, BitVec.ofNat_eq_ofNat, BitVec.reduceToNat, Nat.reduceMod, Nat.reduceLeDiff, Nat.reduceEqDiff, if_false, if_true, reduceIte, Nat.reduceAdd, Nat.reduceSub, beq_self_eq_true, Bool.and_self, Bool.and_true, Bool.true_and, Bool.or_false, Bool.false_or, Bool.or_true, Bool.true_or, decide_true, decide_false, Bool.false_eq_true, mkIf, w])

theorem br (h : Hdr) (cc : BitVec 4) (a b : Reg) (off : BitVec 32) : Statement (.br h cc a b off) :=
  words_of rfl (hdrOf_packB ..) (fOp_packB ..) (fun w => and_left w) rfl (fun w => by
    show mkIf _ _ = _
    simp only [packB, lowBits, mcImm, msImm, bit4, fD, fA, fB, fC, fFnR, fTy, fRm, fImm13, fFnI, fImm32, fPort, fPd, fImm20, fMc, fMem, fAtom, fChan, fCopy, fCvt, fBind, fMRead, zR3, zR3rm, zR2, zVm, zVrm, zVn, extract_low, extract_high, extract_all, extract_zero, extract_span, app_beq_zero, ofBool_beq_zero, getLsbD_app, zeroAt_eq, ofBool_getLsbD_zero, Bool.not_false, Bool.not_true, extract_ofBool, Nat.reduceLT, Nat.zero_add, Nat.zero_le, Nat.le_refl, BitVec.reduceBEq, Nat.reduceBEq, BitVec.ofNat_eq_ofNat, BitVec.reduceToNat, Nat.reduceMod, Nat.reduceLeDiff, Nat.reduceEqDiff, if_false, if_true, reduceIte, Nat.reduceAdd, Nat.reduceSub, beq_self_eq_true, Bool.and_self, Bool.and_true, Bool.true_and, Bool.or_false, Bool.false_or, Bool.or_true, Bool.true_or, decide_true, decide_false, Bool.false_eq_true, mkIf, w])

theorem brp (h : Hdr) (a : Reg) (off : BitVec 32) : Statement (.brp h a off) :=
  words_of rfl (hdrOf_packB ..) (fOp_packB ..) (fun w => and_left w) rfl (fun w => by
    show mkIf _ _ = _
    simp only [packB, lowBits, mcImm, msImm, bit4, fD, fA, fB, fC, fFnR, fTy, fRm, fImm13, fFnI, fImm32, fPort, fPd, fImm20, fMc, fMem, fAtom, fChan, fCopy, fCvt, fBind, fMRead, zR3, zR3rm, zR2, zVm, zVrm, zVn, extract_low, extract_high, extract_all, extract_zero, extract_span, app_beq_zero, ofBool_beq_zero, getLsbD_app, zeroAt_eq, ofBool_getLsbD_zero, Bool.not_false, Bool.not_true, extract_ofBool, Nat.reduceLT, Nat.zero_add, Nat.zero_le, Nat.le_refl, BitVec.reduceBEq, Nat.reduceBEq, BitVec.ofNat_eq_ofNat, BitVec.reduceToNat, Nat.reduceMod, Nat.reduceLeDiff, Nat.reduceEqDiff, if_false, if_true, reduceIte, Nat.reduceAdd, Nat.reduceSub, beq_self_eq_true, Bool.and_self, Bool.and_true, Bool.true_and, Bool.or_false, Bool.false_or, Bool.or_true, Bool.true_or, decide_true, decide_false, Bool.false_eq_true, mkIf, w])

theorem jmp (h : Hdr) (off : BitVec 32) : Statement (.jmp h off) :=
  words_of rfl (hdrOf_packB ..) (fOp_packB ..) (fun w => w) rfl (fun w => by
    show mkIf _ _ = _
    simp only [packB, lowBits, mcImm, msImm, bit4, fD, fA, fB, fC, fFnR, fTy, fRm, fImm13, fFnI, fImm32, fPort, fPd, fImm20, fMc, fMem, fAtom, fChan, fCopy, fCvt, fBind, fMRead, zR3, zR3rm, zR2, zVm, zVrm, zVn, extract_low, extract_high, extract_all, extract_zero, extract_span, app_beq_zero, ofBool_beq_zero, getLsbD_app, zeroAt_eq, ofBool_getLsbD_zero, Bool.not_false, Bool.not_true, extract_ofBool, Nat.reduceLT, Nat.zero_add, Nat.zero_le, Nat.le_refl, BitVec.reduceBEq, Nat.reduceBEq, BitVec.ofNat_eq_ofNat, BitVec.reduceToNat, Nat.reduceMod, Nat.reduceLeDiff, Nat.reduceEqDiff, if_false, if_true, reduceIte, Nat.reduceAdd, Nat.reduceSub, beq_self_eq_true, Bool.and_self, Bool.and_true, Bool.true_and, Bool.or_false, Bool.false_or, Bool.or_true, Bool.true_or, decide_true, decide_false, Bool.false_eq_true, mkIf, w])

theorem jmpr (h : Hdr) (a : Reg) : Statement (.jmpr h a) :=
  words_of rfl (hdrOf_packR ..) (fOp_packR ..) (fun w => w) rfl (fun w => by
    show mkIf _ _ = _
    simp only [packR, lowBits, mcImm, msImm, bit4, fD, fA, fB, fC, fFnR, fTy, fRm, fImm13, fFnI, fImm32, fPort, fPd, fImm20, fMc, fMem, fAtom, fChan, fCopy, fCvt, fBind, fMRead, zR3, zR3rm, zR2, zVm, zVrm, zVn, extract_low, extract_high, extract_all, extract_zero, extract_span, app_beq_zero, ofBool_beq_zero, getLsbD_app, zeroAt_eq, ofBool_getLsbD_zero, Bool.not_false, Bool.not_true, extract_ofBool, Nat.reduceLT, Nat.zero_add, Nat.zero_le, Nat.le_refl, BitVec.reduceBEq, Nat.reduceBEq, BitVec.ofNat_eq_ofNat, BitVec.reduceToNat, Nat.reduceMod, Nat.reduceLeDiff, Nat.reduceEqDiff, if_false, if_true, reduceIte, Nat.reduceAdd, Nat.reduceSub, beq_self_eq_true, Bool.and_self, Bool.and_true, Bool.true_and, Bool.or_false, Bool.false_or, Bool.or_true, Bool.true_or, decide_true, decide_false, Bool.false_eq_true, mkIf, w])

theorem call (h : Hdr) (off : BitVec 32) : Statement (.call h off) :=
  words_of rfl (hdrOf_packB ..) (fOp_packB ..) (fun w => w) rfl (fun w => by
    show mkIf _ _ = _
    simp only [packB, lowBits, mcImm, msImm, bit4, fD, fA, fB, fC, fFnR, fTy, fRm, fImm13, fFnI, fImm32, fPort, fPd, fImm20, fMc, fMem, fAtom, fChan, fCopy, fCvt, fBind, fMRead, zR3, zR3rm, zR2, zVm, zVrm, zVn, extract_low, extract_high, extract_all, extract_zero, extract_span, app_beq_zero, ofBool_beq_zero, getLsbD_app, zeroAt_eq, ofBool_getLsbD_zero, Bool.not_false, Bool.not_true, extract_ofBool, Nat.reduceLT, Nat.zero_add, Nat.zero_le, Nat.le_refl, BitVec.reduceBEq, Nat.reduceBEq, BitVec.ofNat_eq_ofNat, BitVec.reduceToNat, Nat.reduceMod, Nat.reduceLeDiff, Nat.reduceEqDiff, if_false, if_true, reduceIte, Nat.reduceAdd, Nat.reduceSub, beq_self_eq_true, Bool.and_self, Bool.and_true, Bool.true_and, Bool.or_false, Bool.false_or, Bool.or_true, Bool.true_or, decide_true, decide_false, Bool.false_eq_true, mkIf, w])

theorem ret (h : Hdr) : Statement (.ret h) :=
  words_of rfl (hdrOf_packR ..) (fOp_packR ..) (fun w => w) rfl (fun w => by
    show mkIf _ _ = _
    simp only [packR, lowBits, mcImm, msImm, bit4, fD, fA, fB, fC, fFnR, fTy, fRm, fImm13, fFnI, fImm32, fPort, fPd, fImm20, fMc, fMem, fAtom, fChan, fCopy, fCvt, fBind, fMRead, zR3, zR3rm, zR2, zVm, zVrm, zVn, extract_low, extract_high, extract_all, extract_zero, extract_span, app_beq_zero, ofBool_beq_zero, getLsbD_app, zeroAt_eq, ofBool_getLsbD_zero, Bool.not_false, Bool.not_true, extract_ofBool, Nat.reduceLT, Nat.zero_add, Nat.zero_le, Nat.le_refl, BitVec.reduceBEq, Nat.reduceBEq, BitVec.ofNat_eq_ofNat, BitVec.reduceToNat, Nat.reduceMod, Nat.reduceLeDiff, Nat.reduceEqDiff, if_false, if_true, reduceIte, Nat.reduceAdd, Nat.reduceSub, beq_self_eq_true, Bool.and_self, Bool.and_true, Bool.true_and, Bool.or_false, Bool.false_or, Bool.or_true, Bool.true_or, decide_true, decide_false, Bool.false_eq_true, mkIf, w])

theorem loop (h : Hdr) (a : Reg) (n : BitVec 32) : Statement (.loop h a n) :=
  words_of rfl (hdrOf_packB ..) (fOp_packB ..) (fun w => and_left w) rfl (fun w => by
    show mkIf _ _ = _
    simp only [packB, lowBits, mcImm, msImm, bit4, fD, fA, fB, fC, fFnR, fTy, fRm, fImm13, fFnI, fImm32, fPort, fPd, fImm20, fMc, fMem, fAtom, fChan, fCopy, fCvt, fBind, fMRead, zR3, zR3rm, zR2, zVm, zVrm, zVn, extract_low, extract_high, extract_all, extract_zero, extract_span, app_beq_zero, ofBool_beq_zero, getLsbD_app, zeroAt_eq, ofBool_getLsbD_zero, Bool.not_false, Bool.not_true, extract_ofBool, Nat.reduceLT, Nat.zero_add, Nat.zero_le, Nat.le_refl, BitVec.reduceBEq, Nat.reduceBEq, BitVec.ofNat_eq_ofNat, BitVec.reduceToNat, Nat.reduceMod, Nat.reduceLeDiff, Nat.reduceEqDiff, if_false, if_true, reduceIte, Nat.reduceAdd, Nat.reduceSub, beq_self_eq_true, Bool.and_self, Bool.and_true, Bool.true_and, Bool.or_false, Bool.false_or, Bool.or_true, Bool.true_or, decide_true, decide_false, Bool.false_eq_true, mkIf, w])

theorem fin (h : Hdr) : Statement (.fin h) :=
  words_of rfl (hdrOf_packR ..) (fOp_packR ..) (fun w => w) rfl (fun w => by
    show mkIf _ _ = _
    simp only [packR, lowBits, mcImm, msImm, bit4, fD, fA, fB, fC, fFnR, fTy, fRm, fImm13, fFnI, fImm32, fPort, fPd, fImm20, fMc, fMem, fAtom, fChan, fCopy, fCvt, fBind, fMRead, zR3, zR3rm, zR2, zVm, zVrm, zVn, extract_low, extract_high, extract_all, extract_zero, extract_span, app_beq_zero, ofBool_beq_zero, getLsbD_app, zeroAt_eq, ofBool_getLsbD_zero, Bool.not_false, Bool.not_true, extract_ofBool, Nat.reduceLT, Nat.zero_add, Nat.zero_le, Nat.le_refl, BitVec.reduceBEq, Nat.reduceBEq, BitVec.ofNat_eq_ofNat, BitVec.reduceToNat, Nat.reduceMod, Nat.reduceLeDiff, Nat.reduceEqDiff, if_false, if_true, reduceIte, Nat.reduceAdd, Nat.reduceSub, beq_self_eq_true, Bool.and_self, Bool.and_true, Bool.true_and, Bool.or_false, Bool.false_or, Bool.or_true, Bool.true_or, decide_true, decide_false, Bool.false_eq_true, mkIf, w])

theorem yield (h : Hdr) : Statement (.yield h) :=
  words_of rfl (hdrOf_packR ..) (fOp_packR ..) (fun w => w) rfl (fun w => by
    show mkIf _ _ = _
    simp only [packR, lowBits, mcImm, msImm, bit4, fD, fA, fB, fC, fFnR, fTy, fRm, fImm13, fFnI, fImm32, fPort, fPd, fImm20, fMc, fMem, fAtom, fChan, fCopy, fCvt, fBind, fMRead, zR3, zR3rm, zR2, zVm, zVrm, zVn, extract_low, extract_high, extract_all, extract_zero, extract_span, app_beq_zero, ofBool_beq_zero, getLsbD_app, zeroAt_eq, ofBool_getLsbD_zero, Bool.not_false, Bool.not_true, extract_ofBool, Nat.reduceLT, Nat.zero_add, Nat.zero_le, Nat.le_refl, BitVec.reduceBEq, Nat.reduceBEq, BitVec.ofNat_eq_ofNat, BitVec.reduceToNat, Nat.reduceMod, Nat.reduceLeDiff, Nat.reduceEqDiff, if_false, if_true, reduceIte, Nat.reduceAdd, Nat.reduceSub, beq_self_eq_true, Bool.and_self, Bool.and_true, Bool.true_and, Bool.or_false, Bool.false_or, Bool.or_true, Bool.true_or, decide_true, decide_false, Bool.false_eq_true, mkIf, w])

theorem wait (h : Hdr) (a : Reg) (imm : BitVec 32) : Statement (.wait h a imm) :=
  words_of rfl (hdrOf_packI ..) (fOp_packI ..) (fun w => w) rfl (fun w => by
    show mkIf _ _ = _
    simp only [packI, lowBits, mcImm, msImm, bit4, fD, fA, fB, fC, fFnR, fTy, fRm, fImm13, fFnI, fImm32, fPort, fPd, fImm20, fMc, fMem, fAtom, fChan, fCopy, fCvt, fBind, fMRead, zR3, zR3rm, zR2, zVm, zVrm, zVn, extract_low, extract_high, extract_all, extract_zero, extract_span, app_beq_zero, ofBool_beq_zero, getLsbD_app, zeroAt_eq, ofBool_getLsbD_zero, Bool.not_false, Bool.not_true, extract_ofBool, Nat.reduceLT, Nat.zero_add, Nat.zero_le, Nat.le_refl, BitVec.reduceBEq, Nat.reduceBEq, BitVec.ofNat_eq_ofNat, BitVec.reduceToNat, Nat.reduceMod, Nat.reduceLeDiff, Nat.reduceEqDiff, if_false, if_true, reduceIte, Nat.reduceAdd, Nat.reduceSub, beq_self_eq_true, Bool.and_self, Bool.and_true, Bool.true_and, Bool.or_false, Bool.false_or, Bool.or_true, Bool.true_or, decide_true, decide_false, Bool.false_eq_true, mkIf, w])

theorem recv (h : Hdr) (f : ChanF) : Statement (.recv h f) :=
  words_of rfl (hdrOf_packC ..) (fOp_packC ..) (fun w => and_left w) rfl (fun w => by
    show mkIf _ _ = _
    simp only [packChan, packC, lowBits, mcImm, msImm, bit4, fD, fA, fB, fC, fFnR, fTy, fRm, fImm13, fFnI, fImm32, fPort, fPd, fImm20, fMc, fMem, fAtom, fChan, fCopy, fCvt, fBind, fMRead, zR3, zR3rm, zR2, zVm, zVrm, zVn, extract_low, extract_high, extract_all, extract_zero, extract_span, app_beq_zero, ofBool_beq_zero, getLsbD_app, zeroAt_eq, ofBool_getLsbD_zero, Bool.not_false, Bool.not_true, extract_ofBool, Nat.reduceLT, Nat.zero_add, Nat.zero_le, Nat.le_refl, BitVec.reduceBEq, Nat.reduceBEq, BitVec.ofNat_eq_ofNat, BitVec.reduceToNat, Nat.reduceMod, Nat.reduceLeDiff, Nat.reduceEqDiff, if_false, if_true, reduceIte, Nat.reduceAdd, Nat.reduceSub, beq_self_eq_true, Bool.and_self, Bool.and_true, Bool.true_and, Bool.or_false, Bool.false_or, Bool.or_true, Bool.true_or, decide_true, decide_false, Bool.false_eq_true, mkIf, w])

theorem send (h : Hdr) (f : ChanF) : Statement (.send h f) :=
  words_of rfl (hdrOf_packC ..) (fOp_packC ..) (fun w => and_left w) rfl (fun w => by
    show mkIf _ _ = _
    simp only [packChan, packC, lowBits, mcImm, msImm, bit4, fD, fA, fB, fC, fFnR, fTy, fRm, fImm13, fFnI, fImm32, fPort, fPd, fImm20, fMc, fMem, fAtom, fChan, fCopy, fCvt, fBind, fMRead, zR3, zR3rm, zR2, zVm, zVrm, zVn, extract_low, extract_high, extract_all, extract_zero, extract_span, app_beq_zero, ofBool_beq_zero, getLsbD_app, zeroAt_eq, ofBool_getLsbD_zero, Bool.not_false, Bool.not_true, extract_ofBool, Nat.reduceLT, Nat.zero_add, Nat.zero_le, Nat.le_refl, BitVec.reduceBEq, Nat.reduceBEq, BitVec.ofNat_eq_ofNat, BitVec.reduceToNat, Nat.reduceMod, Nat.reduceLeDiff, Nat.reduceEqDiff, if_false, if_true, reduceIte, Nat.reduceAdd, Nat.reduceSub, beq_self_eq_true, Bool.and_self, Bool.and_true, Bool.true_and, Bool.or_false, Bool.false_or, Bool.or_true, Bool.true_or, decide_true, decide_false, Bool.false_eq_true, mkIf, w])

theorem peek (h : Hdr) (f : ChanF) : Statement (.peek h f) :=
  words_of rfl (hdrOf_packC ..) (fOp_packC ..) (fun w => and_left w) rfl (fun w => by
    show mkIf _ _ = _
    simp only [packChan, packC, lowBits, mcImm, msImm, bit4, fD, fA, fB, fC, fFnR, fTy, fRm, fImm13, fFnI, fImm32, fPort, fPd, fImm20, fMc, fMem, fAtom, fChan, fCopy, fCvt, fBind, fMRead, zR3, zR3rm, zR2, zVm, zVrm, zVn, extract_low, extract_high, extract_all, extract_zero, extract_span, app_beq_zero, ofBool_beq_zero, getLsbD_app, zeroAt_eq, ofBool_getLsbD_zero, Bool.not_false, Bool.not_true, extract_ofBool, Nat.reduceLT, Nat.zero_add, Nat.zero_le, Nat.le_refl, BitVec.reduceBEq, Nat.reduceBEq, BitVec.ofNat_eq_ofNat, BitVec.reduceToNat, Nat.reduceMod, Nat.reduceLeDiff, Nat.reduceEqDiff, if_false, if_true, reduceIte, Nat.reduceAdd, Nat.reduceSub, beq_self_eq_true, Bool.and_self, Bool.and_true, Bool.true_and, Bool.or_false, Bool.false_or, Bool.or_true, Bool.true_or, decide_true, decide_false, Bool.false_eq_true, mkIf, w])

theorem avail (h : Hdr) (x : Reg) (port : BitVec 4) : Statement (.avail h x port) :=
  words_of rfl (hdrOf_packC ..) (fOp_packC ..) (fun w => w) rfl (fun w => by
    show mkIf _ _ = _
    simp only [packC, lowBits, mcImm, msImm, bit4, fD, fA, fB, fC, fFnR, fTy, fRm, fImm13, fFnI, fImm32, fPort, fPd, fImm20, fMc, fMem, fAtom, fChan, fCopy, fCvt, fBind, fMRead, zR3, zR3rm, zR2, zVm, zVrm, zVn, extract_low, extract_high, extract_all, extract_zero, extract_span, app_beq_zero, ofBool_beq_zero, getLsbD_app, zeroAt_eq, ofBool_getLsbD_zero, Bool.not_false, Bool.not_true, extract_ofBool, Nat.reduceLT, Nat.zero_add, Nat.zero_le, Nat.le_refl, BitVec.reduceBEq, Nat.reduceBEq, BitVec.ofNat_eq_ofNat, BitVec.reduceToNat, Nat.reduceMod, Nat.reduceLeDiff, Nat.reduceEqDiff, if_false, if_true, reduceIte, Nat.reduceAdd, Nat.reduceSub, beq_self_eq_true, Bool.and_self, Bool.and_true, Bool.true_and, Bool.or_false, Bool.false_or, Bool.or_true, Bool.true_or, decide_true, decide_false, Bool.false_eq_true, mkIf, w])

theorem free (h : Hdr) (x : Reg) (port : BitVec 4) : Statement (.free h x port) :=
  words_of rfl (hdrOf_packC ..) (fOp_packC ..) (fun w => w) rfl (fun w => by
    show mkIf _ _ = _
    simp only [packC, lowBits, mcImm, msImm, bit4, fD, fA, fB, fC, fFnR, fTy, fRm, fImm13, fFnI, fImm32, fPort, fPd, fImm20, fMc, fMem, fAtom, fChan, fCopy, fCvt, fBind, fMRead, zR3, zR3rm, zR2, zVm, zVrm, zVn, extract_low, extract_high, extract_all, extract_zero, extract_span, app_beq_zero, ofBool_beq_zero, getLsbD_app, zeroAt_eq, ofBool_getLsbD_zero, Bool.not_false, Bool.not_true, extract_ofBool, Nat.reduceLT, Nat.zero_add, Nat.zero_le, Nat.le_refl, BitVec.reduceBEq, Nat.reduceBEq, BitVec.ofNat_eq_ofNat, BitVec.reduceToNat, Nat.reduceMod, Nat.reduceLeDiff, Nat.reduceEqDiff, if_false, if_true, reduceIte, Nat.reduceAdd, Nat.reduceSub, beq_self_eq_true, Bool.and_self, Bool.and_true, Bool.true_and, Bool.or_false, Bool.false_or, Bool.or_true, Bool.true_or, decide_true, decide_false, Bool.false_eq_true, mkIf, w])

theorem sendk (h : Hdr) (pd : BitVec 3) (nb : Bool) (port : BitVec 4) (x : Reg) : Statement (.sendk h pd nb port x) :=
  words_of rfl (hdrOf_packC ..) (fOp_packC ..) (fun w => and_left (and_left w)) rfl (fun w => by
    show mkIf _ _ = _
    simp only [packC, lowBits, mcImm, msImm, bit4, fD, fA, fB, fC, fFnR, fTy, fRm, fImm13, fFnI, fImm32, fPort, fPd, fImm20, fMc, fMem, fAtom, fChan, fCopy, fCvt, fBind, fMRead, zR3, zR3rm, zR2, zVm, zVrm, zVn, extract_low, extract_high, extract_all, extract_zero, extract_span, app_beq_zero, ofBool_beq_zero, getLsbD_app, zeroAt_eq, ofBool_getLsbD_zero, Bool.not_false, Bool.not_true, extract_ofBool, Nat.reduceLT, Nat.zero_add, Nat.zero_le, Nat.le_refl, BitVec.reduceBEq, Nat.reduceBEq, BitVec.ofNat_eq_ofNat, BitVec.reduceToNat, Nat.reduceMod, Nat.reduceLeDiff, Nat.reduceEqDiff, if_false, if_true, reduceIte, Nat.reduceAdd, Nat.reduceSub, beq_self_eq_true, Bool.and_self, Bool.and_true, Bool.true_and, Bool.or_false, Bool.false_or, Bool.or_true, Bool.true_or, decide_true, decide_false, Bool.false_eq_true, mkIf, w])

theorem recvk (h : Hdr) (pd : BitVec 3) (nb : Bool) (port : BitVec 4) (x : Reg) : Statement (.recvk h pd nb port x) :=
  words_of rfl (hdrOf_packC ..) (fOp_packC ..) (fun w => and_left (and_left w)) rfl (fun w => by
    simp only [decodeFields, decChannel, packC, lowBits, mcImm, msImm, bit4, fD, fA, fB, fC, fFnR, fTy, fRm, fImm13, fFnI, fImm32, fPort, fPd, fImm20, fMc, fMem, fAtom, fChan, fCopy, fCvt, fBind, fMRead, zR3, zR3rm, zR2, zVm, zVrm, zVn, extract_low, extract_high, extract_all, extract_zero, extract_span, app_beq_zero, ofBool_beq_zero, getLsbD_app, zeroAt_eq, ofBool_getLsbD_zero, Bool.not_false, Bool.not_true, extract_ofBool, Nat.reduceLT, Nat.zero_add, Nat.zero_le, Nat.le_refl, BitVec.reduceBEq, Nat.reduceBEq, BitVec.ofNat_eq_ofNat, BitVec.reduceToNat, Nat.reduceMod, Nat.reduceLeDiff, Nat.reduceEqDiff, if_false, if_true, reduceIte, Nat.reduceAdd, Nat.reduceSub, beq_self_eq_true, Bool.and_self, Bool.and_true, Bool.true_and, Bool.or_false, Bool.false_or, Bool.or_true, Bool.true_or, decide_true, decide_false, Bool.false_eq_true, mkIf, w])

theorem recvkTile (h : Hdr) (pd : BitVec 3) (nb : Bool) (port : BitVec 4) (slot : BitVec 3) : Statement (.recvkTile h pd nb port slot) :=
  words_of rfl (hdrOf_packC ..) (fOp_packC ..) (fun w => and_left w) rfl (fun w => by
    simp only [decodeFields, decChannel, packC, lowBits, mcImm, msImm, bit4, fD, fA, fB, fC, fFnR, fTy, fRm, fImm13, fFnI, fImm32, fPort, fPd, fImm20, fMc, fMem, fAtom, fChan, fCopy, fCvt, fBind, fMRead, zR3, zR3rm, zR2, zVm, zVrm, zVn, extract_low, extract_high, extract_all, extract_zero, extract_span, app_beq_zero, ofBool_beq_zero, getLsbD_app, zeroAt_eq, ofBool_getLsbD_zero, Bool.not_false, Bool.not_true, extract_ofBool, Nat.reduceLT, Nat.zero_add, Nat.zero_le, Nat.le_refl, BitVec.reduceBEq, Nat.reduceBEq, BitVec.ofNat_eq_ofNat, BitVec.reduceToNat, Nat.reduceMod, Nat.reduceLeDiff, Nat.reduceEqDiff, if_false, if_true, reduceIte, Nat.reduceAdd, Nat.reduceSub, beq_self_eq_true, Bool.and_self, Bool.and_true, Bool.true_and, Bool.or_false, Bool.false_or, Bool.or_true, Bool.true_or, decide_true, decide_false, Bool.false_eq_true, mkIf, w])

theorem xsend (h : Hdr) (f : ChanF) (core : BitVec 11) (ctx : BitVec 3) : Statement (.xsend h f core ctx) :=
  words_of rfl (hdrOf_packC ..) (fOp_packC ..) (fun w => and_left w) rfl (fun w => by
    show mkIf _ _ = _
    simp only [packChan, packC, lowBits, mcImm, msImm, bit4, fD, fA, fB, fC, fFnR, fTy, fRm, fImm13, fFnI, fImm32, fPort, fPd, fImm20, fMc, fMem, fAtom, fChan, fCopy, fCvt, fBind, fMRead, zR3, zR3rm, zR2, zVm, zVrm, zVn, extract_low, extract_high, extract_all, extract_zero, extract_span, app_beq_zero, ofBool_beq_zero, getLsbD_app, zeroAt_eq, ofBool_getLsbD_zero, Bool.not_false, Bool.not_true, extract_ofBool, Nat.reduceLT, Nat.zero_add, Nat.zero_le, Nat.le_refl, BitVec.reduceBEq, Nat.reduceBEq, BitVec.ofNat_eq_ofNat, BitVec.reduceToNat, Nat.reduceMod, Nat.reduceLeDiff, Nat.reduceEqDiff, if_false, if_true, reduceIte, Nat.reduceAdd, Nat.reduceSub, beq_self_eq_true, Bool.and_self, Bool.and_true, Bool.true_and, Bool.or_false, Bool.false_or, Bool.or_true, Bool.true_or, decide_true, decide_false, Bool.false_eq_true, mkIf, w])

theorem ld (h : Hdr) (m : MemF) : Statement (.ld h m) :=
  words_of rfl (hdrOf_packM ..) (fOp_packM ..) (fun w => and_left (and_left w)) rfl (fun w => by
    show mkIf _ _ = _
    simp only [fMem_packM, ofBool_getLsbD_zero, Bool.not_false, Bool.not_true, extract_ofBool, Nat.reduceLT, Nat.zero_add, Nat.zero_le, Nat.le_refl, BitVec.reduceBEq, Nat.reduceBEq, BitVec.ofNat_eq_ofNat, BitVec.reduceToNat, Nat.reduceMod, Nat.reduceLeDiff, Nat.reduceEqDiff, if_false, if_true, reduceIte, Nat.reduceAdd, Nat.reduceSub, beq_self_eq_true, Bool.and_self, Bool.and_true, Bool.true_and, Bool.or_false, Bool.false_or, Bool.or_true, Bool.true_or, decide_true, decide_false, Bool.false_eq_true, mkIf, w])

theorem st (h : Hdr) (m : MemF) : Statement (.st h m) :=
  words_of rfl (hdrOf_packM ..) (fOp_packM ..) (fun w => and_left (and_left w)) rfl (fun w => by
    show mkIf _ _ = _
    simp only [fMem_packM, ofBool_getLsbD_zero, Bool.not_false, Bool.not_true, extract_ofBool, Nat.reduceLT, Nat.zero_add, Nat.zero_le, Nat.le_refl, BitVec.reduceBEq, Nat.reduceBEq, BitVec.ofNat_eq_ofNat, BitVec.reduceToNat, Nat.reduceMod, Nat.reduceLeDiff, Nat.reduceEqDiff, if_false, if_true, reduceIte, Nat.reduceAdd, Nat.reduceSub, beq_self_eq_true, Bool.and_self, Bool.and_true, Bool.true_and, Bool.or_false, Bool.false_or, Bool.or_true, Bool.true_or, decide_true, decide_false, Bool.false_eq_true, mkIf, w])

theorem ldv (h : Hdr) (m : MemF) : Statement (.ldv h m) :=
  words_of rfl (hdrOf_packM ..) (fOp_packM ..) (fun w => and_left (and_left w)) rfl (fun w => by
    show mkIf _ _ = _
    simp only [fMem_packM, ofBool_getLsbD_zero, Bool.not_false, Bool.not_true, extract_ofBool, Nat.reduceLT, Nat.zero_add, Nat.zero_le, Nat.le_refl, BitVec.reduceBEq, Nat.reduceBEq, BitVec.ofNat_eq_ofNat, BitVec.reduceToNat, Nat.reduceMod, Nat.reduceLeDiff, Nat.reduceEqDiff, if_false, if_true, reduceIte, Nat.reduceAdd, Nat.reduceSub, beq_self_eq_true, Bool.and_self, Bool.and_true, Bool.true_and, Bool.or_false, Bool.false_or, Bool.or_true, Bool.true_or, decide_true, decide_false, Bool.false_eq_true, mkIf, w])

theorem stv (h : Hdr) (m : MemF) : Statement (.stv h m) :=
  words_of rfl (hdrOf_packM ..) (fOp_packM ..) (fun w => and_left (and_left w)) rfl (fun w => by
    show mkIf _ _ = _
    simp only [fMem_packM, ofBool_getLsbD_zero, Bool.not_false, Bool.not_true, extract_ofBool, Nat.reduceLT, Nat.zero_add, Nat.zero_le, Nat.le_refl, BitVec.reduceBEq, Nat.reduceBEq, BitVec.ofNat_eq_ofNat, BitVec.reduceToNat, Nat.reduceMod, Nat.reduceLeDiff, Nat.reduceEqDiff, if_false, if_true, reduceIte, Nat.reduceAdd, Nat.reduceSub, beq_self_eq_true, Bool.and_self, Bool.and_true, Bool.true_and, Bool.or_false, Bool.false_or, Bool.or_true, Bool.true_or, decide_true, decide_false, Bool.false_eq_true, mkIf, w])

theorem vlds (h : Hdr) (m : MemF) : Statement (.vlds h m) :=
  words_of rfl (hdrOf_packM ..) (fOp_packM ..) (fun w => and_left (and_left (and_left w))) rfl (fun w => by
    show mkIf _ _ = _
    simp only [fMem_packM, ofBool_getLsbD_zero, Bool.not_false, Bool.not_true, extract_ofBool, Nat.reduceLT, Nat.zero_add, Nat.zero_le, Nat.le_refl, BitVec.reduceBEq, Nat.reduceBEq, BitVec.ofNat_eq_ofNat, BitVec.reduceToNat, Nat.reduceMod, Nat.reduceLeDiff, Nat.reduceEqDiff, if_false, if_true, reduceIte, Nat.reduceAdd, Nat.reduceSub, beq_self_eq_true, Bool.and_self, Bool.and_true, Bool.true_and, Bool.or_false, Bool.false_or, Bool.or_true, Bool.true_or, decide_true, decide_false, Bool.false_eq_true, mkIf, w])

theorem vsts (h : Hdr) (m : MemF) : Statement (.vsts h m) :=
  words_of rfl (hdrOf_packM ..) (fOp_packM ..) (fun w => and_left (and_left (and_left w))) rfl (fun w => by
    show mkIf _ _ = _
    simp only [fMem_packM, ofBool_getLsbD_zero, Bool.not_false, Bool.not_true, extract_ofBool, Nat.reduceLT, Nat.zero_add, Nat.zero_le, Nat.le_refl, BitVec.reduceBEq, Nat.reduceBEq, BitVec.ofNat_eq_ofNat, BitVec.reduceToNat, Nat.reduceMod, Nat.reduceLeDiff, Nat.reduceEqDiff, if_false, if_true, reduceIte, Nat.reduceAdd, Nat.reduceSub, beq_self_eq_true, Bool.and_self, Bool.and_true, Bool.true_and, Bool.or_false, Bool.false_or, Bool.or_true, Bool.true_or, decide_true, decide_false, Bool.false_eq_true, mkIf, w])

theorem vgath (h : Hdr) (m : MemF) : Statement (.vgath h m) :=
  words_of rfl (hdrOf_packM ..) (fOp_packM ..) (fun w => and_left (and_left w)) rfl (fun w => by
    show mkIf _ _ = _
    simp only [fMem_packM, ofBool_getLsbD_zero, Bool.not_false, Bool.not_true, extract_ofBool, Nat.reduceLT, Nat.zero_add, Nat.zero_le, Nat.le_refl, BitVec.reduceBEq, Nat.reduceBEq, BitVec.ofNat_eq_ofNat, BitVec.reduceToNat, Nat.reduceMod, Nat.reduceLeDiff, Nat.reduceEqDiff, if_false, if_true, reduceIte, Nat.reduceAdd, Nat.reduceSub, beq_self_eq_true, Bool.and_self, Bool.and_true, Bool.true_and, Bool.or_false, Bool.false_or, Bool.or_true, Bool.true_or, decide_true, decide_false, Bool.false_eq_true, mkIf, w])

theorem vscat (h : Hdr) (m : MemF) : Statement (.vscat h m) :=
  words_of rfl (hdrOf_packM ..) (fOp_packM ..) (fun w => and_left (and_left w)) rfl (fun w => by
    show mkIf _ _ = _
    simp only [fMem_packM, ofBool_getLsbD_zero, Bool.not_false, Bool.not_true, extract_ofBool, Nat.reduceLT, Nat.zero_add, Nat.zero_le, Nat.le_refl, BitVec.reduceBEq, Nat.reduceBEq, BitVec.ofNat_eq_ofNat, BitVec.reduceToNat, Nat.reduceMod, Nat.reduceLeDiff, Nat.reduceEqDiff, if_false, if_true, reduceIte, Nat.reduceAdd, Nat.reduceSub, beq_self_eq_true, Bool.and_self, Bool.and_true, Bool.true_and, Bool.or_false, Bool.false_or, Bool.or_true, Bool.true_or, decide_true, decide_false, Bool.false_eq_true, mkIf, w])

theorem lds (h : Hdr) (m : MemF) : Statement (.lds h m) :=
  words_of rfl (hdrOf_packM ..) (fOp_packM ..) (fun w => and_left (and_left (and_left w))) rfl (fun w => by
    show mkIf _ _ = _
    simp only [fMem_packM, ofBool_getLsbD_zero, Bool.not_false, Bool.not_true, extract_ofBool, Nat.reduceLT, Nat.zero_add, Nat.zero_le, Nat.le_refl, BitVec.reduceBEq, Nat.reduceBEq, BitVec.ofNat_eq_ofNat, BitVec.reduceToNat, Nat.reduceMod, Nat.reduceLeDiff, Nat.reduceEqDiff, if_false, if_true, reduceIte, Nat.reduceAdd, Nat.reduceSub, beq_self_eq_true, Bool.and_self, Bool.and_true, Bool.true_and, Bool.or_false, Bool.false_or, Bool.or_true, Bool.true_or, decide_true, decide_false, Bool.false_eq_true, mkIf, w])

theorem stf (h : Hdr) (m : MemF) : Statement (.stf h m) :=
  words_of rfl (hdrOf_packM ..) (fOp_packM ..) (fun w => and_left (and_left w)) rfl (fun w => by
    show mkIf _ _ = _
    simp only [fMem_packM, ofBool_getLsbD_zero, Bool.not_false, Bool.not_true, extract_ofBool, Nat.reduceLT, Nat.zero_add, Nat.zero_le, Nat.le_refl, BitVec.reduceBEq, Nat.reduceBEq, BitVec.ofNat_eq_ofNat, BitVec.reduceToNat, Nat.reduceMod, Nat.reduceLeDiff, Nat.reduceEqDiff, if_false, if_true, reduceIte, Nat.reduceAdd, Nat.reduceSub, beq_self_eq_true, Bool.and_self, Bool.and_true, Bool.true_and, Bool.or_false, Bool.false_or, Bool.or_true, Bool.true_or, decide_true, decide_false, Bool.false_eq_true, mkIf, w])

theorem feset (h : Hdr) (m : MemF) : Statement (.feset h m) :=
  words_of rfl (hdrOf_packM ..) (fOp_packM ..) (fun w => and_left (and_left (and_left w))) rfl (fun w => by
    show mkIf _ _ = _
    simp only [fMem_packM, ofBool_getLsbD_zero, Bool.not_false, Bool.not_true, extract_ofBool, Nat.reduceLT, Nat.zero_add, Nat.zero_le, Nat.le_refl, BitVec.reduceBEq, Nat.reduceBEq, BitVec.ofNat_eq_ofNat, BitVec.reduceToNat, Nat.reduceMod, Nat.reduceLeDiff, Nat.reduceEqDiff, if_false, if_true, reduceIte, Nat.reduceAdd, Nat.reduceSub, beq_self_eq_true, Bool.and_self, Bool.and_true, Bool.true_and, Bool.or_false, Bool.false_or, Bool.or_true, Bool.true_or, decide_true, decide_false, Bool.false_eq_true, mkIf, w])

theorem feclr (h : Hdr) (m : MemF) : Statement (.feclr h m) :=
  words_of rfl (hdrOf_packM ..) (fOp_packM ..) (fun w => and_left (and_left (and_left w))) rfl (fun w => by
    show mkIf _ _ = _
    simp only [fMem_packM, ofBool_getLsbD_zero, Bool.not_false, Bool.not_true, extract_ofBool, Nat.reduceLT, Nat.zero_add, Nat.zero_le, Nat.le_refl, BitVec.reduceBEq, Nat.reduceBEq, BitVec.ofNat_eq_ofNat, BitVec.reduceToNat, Nat.reduceMod, Nat.reduceLeDiff, Nat.reduceEqDiff, if_false, if_true, reduceIte, Nat.reduceAdd, Nat.reduceSub, beq_self_eq_true, Bool.and_self, Bool.and_true, Bool.true_and, Bool.or_false, Bool.false_or, Bool.or_true, Bool.true_or, decide_true, decide_false, Bool.false_eq_true, mkIf, w])

theorem fence (h : Hdr) (ord : BitVec 2) (scope : BitVec 3) : Statement (.fence h ord scope) :=
  words_of rfl (hdrOf_packM ..) (fOp_packM ..) (fun w => and_left (and_left (and_left w))) rfl (fun w => by
    show mkIf _ _ = _
    simp only [packM, lowBits, mcImm, msImm, bit4, fD, fA, fB, fC, fFnR, fTy, fRm, fImm13, fFnI, fImm32, fPort, fPd, fImm20, fMc, fMem, fAtom, fChan, fCopy, fCvt, fBind, fMRead, zR3, zR3rm, zR2, zVm, zVrm, zVn, extract_low, extract_high, extract_all, extract_zero, extract_span, app_beq_zero, ofBool_beq_zero, getLsbD_app, zeroAt_eq, ofBool_getLsbD_zero, Bool.not_false, Bool.not_true, extract_ofBool, Nat.reduceLT, Nat.zero_add, Nat.zero_le, Nat.le_refl, BitVec.reduceBEq, Nat.reduceBEq, BitVec.ofNat_eq_ofNat, BitVec.reduceToNat, Nat.reduceMod, Nat.reduceLeDiff, Nat.reduceEqDiff, if_false, if_true, reduceIte, Nat.reduceAdd, Nat.reduceSub, beq_self_eq_true, Bool.and_self, Bool.and_true, Bool.true_and, Bool.or_false, Bool.false_or, Bool.or_true, Bool.true_or, decide_true, decide_false, Bool.false_eq_true, mkIf, w])

theorem drain (h : Hdr) (path : Reg) : Statement (.drain h path) :=
  words_of rfl (hdrOf_packM ..) (fOp_packM ..) (fun w => and_left w) rfl (fun w => by
    show mkIf _ _ = _
    simp only [packM, lowBits, mcImm, msImm, bit4, fD, fA, fB, fC, fFnR, fTy, fRm, fImm13, fFnI, fImm32, fPort, fPd, fImm20, fMc, fMem, fAtom, fChan, fCopy, fCvt, fBind, fMRead, zR3, zR3rm, zR2, zVm, zVrm, zVn, extract_low, extract_high, extract_all, extract_zero, extract_span, app_beq_zero, ofBool_beq_zero, getLsbD_app, zeroAt_eq, ofBool_getLsbD_zero, Bool.not_false, Bool.not_true, extract_ofBool, Nat.reduceLT, Nat.zero_add, Nat.zero_le, Nat.le_refl, BitVec.reduceBEq, Nat.reduceBEq, BitVec.ofNat_eq_ofNat, BitVec.reduceToNat, Nat.reduceMod, Nat.reduceLeDiff, Nat.reduceEqDiff, if_false, if_true, reduceIte, Nat.reduceAdd, Nat.reduceSub, beq_self_eq_true, Bool.and_self, Bool.and_true, Bool.true_and, Bool.or_false, Bool.false_or, Bool.or_true, Bool.true_or, decide_true, decide_false, Bool.false_eq_true, mkIf, w])

theorem aadd (h : Hdr) (m : AtomF) : Statement (.aadd h m) :=
  words_of rfl (hdrOf_packAtom ..) (fOp_packAtom ..) (fun w => and_left w) rfl (fun w => by
    show mkIf _ _ = _
    simp only [fAtom_packAtom, sp_packAtom, ofBool_getLsbD_zero, Bool.not_false, Bool.not_true, extract_ofBool, Nat.reduceLT, Nat.zero_add, Nat.zero_le, Nat.le_refl, BitVec.reduceBEq, Nat.reduceBEq, BitVec.ofNat_eq_ofNat, BitVec.reduceToNat, Nat.reduceMod, Nat.reduceLeDiff, Nat.reduceEqDiff, if_false, if_true, reduceIte, Nat.reduceAdd, Nat.reduceSub, beq_self_eq_true, Bool.and_self, Bool.and_true, Bool.true_and, Bool.or_false, Bool.false_or, Bool.or_true, Bool.true_or, decide_true, decide_false, Bool.false_eq_true, mkIf, w])

theorem aand (h : Hdr) (m : AtomF) : Statement (.aand h m) :=
  words_of rfl (hdrOf_packAtom ..) (fOp_packAtom ..) (fun w => and_left w) rfl (fun w => by
    show mkIf _ _ = _
    simp only [fAtom_packAtom, sp_packAtom, ofBool_getLsbD_zero, Bool.not_false, Bool.not_true, extract_ofBool, Nat.reduceLT, Nat.zero_add, Nat.zero_le, Nat.le_refl, BitVec.reduceBEq, Nat.reduceBEq, BitVec.ofNat_eq_ofNat, BitVec.reduceToNat, Nat.reduceMod, Nat.reduceLeDiff, Nat.reduceEqDiff, if_false, if_true, reduceIte, Nat.reduceAdd, Nat.reduceSub, beq_self_eq_true, Bool.and_self, Bool.and_true, Bool.true_and, Bool.or_false, Bool.false_or, Bool.or_true, Bool.true_or, decide_true, decide_false, Bool.false_eq_true, mkIf, w])

theorem aor (h : Hdr) (m : AtomF) : Statement (.aor h m) :=
  words_of rfl (hdrOf_packAtom ..) (fOp_packAtom ..) (fun w => and_left w) rfl (fun w => by
    show mkIf _ _ = _
    simp only [fAtom_packAtom, sp_packAtom, ofBool_getLsbD_zero, Bool.not_false, Bool.not_true, extract_ofBool, Nat.reduceLT, Nat.zero_add, Nat.zero_le, Nat.le_refl, BitVec.reduceBEq, Nat.reduceBEq, BitVec.ofNat_eq_ofNat, BitVec.reduceToNat, Nat.reduceMod, Nat.reduceLeDiff, Nat.reduceEqDiff, if_false, if_true, reduceIte, Nat.reduceAdd, Nat.reduceSub, beq_self_eq_true, Bool.and_self, Bool.and_true, Bool.true_and, Bool.or_false, Bool.false_or, Bool.or_true, Bool.true_or, decide_true, decide_false, Bool.false_eq_true, mkIf, w])

theorem axor (h : Hdr) (m : AtomF) : Statement (.axor h m) :=
  words_of rfl (hdrOf_packAtom ..) (fOp_packAtom ..) (fun w => and_left w) rfl (fun w => by
    show mkIf _ _ = _
    simp only [fAtom_packAtom, sp_packAtom, ofBool_getLsbD_zero, Bool.not_false, Bool.not_true, extract_ofBool, Nat.reduceLT, Nat.zero_add, Nat.zero_le, Nat.le_refl, BitVec.reduceBEq, Nat.reduceBEq, BitVec.ofNat_eq_ofNat, BitVec.reduceToNat, Nat.reduceMod, Nat.reduceLeDiff, Nat.reduceEqDiff, if_false, if_true, reduceIte, Nat.reduceAdd, Nat.reduceSub, beq_self_eq_true, Bool.and_self, Bool.and_true, Bool.true_and, Bool.or_false, Bool.false_or, Bool.or_true, Bool.true_or, decide_true, decide_false, Bool.false_eq_true, mkIf, w])

theorem amin (h : Hdr) (m : AtomF) : Statement (.amin h m) :=
  words_of rfl (hdrOf_packAtom ..) (fOp_packAtom ..) (fun w => and_left w) rfl (fun w => by
    show mkIf _ _ = _
    simp only [fAtom_packAtom, sp_packAtom, ofBool_getLsbD_zero, Bool.not_false, Bool.not_true, extract_ofBool, Nat.reduceLT, Nat.zero_add, Nat.zero_le, Nat.le_refl, BitVec.reduceBEq, Nat.reduceBEq, BitVec.ofNat_eq_ofNat, BitVec.reduceToNat, Nat.reduceMod, Nat.reduceLeDiff, Nat.reduceEqDiff, if_false, if_true, reduceIte, Nat.reduceAdd, Nat.reduceSub, beq_self_eq_true, Bool.and_self, Bool.and_true, Bool.true_and, Bool.or_false, Bool.false_or, Bool.or_true, Bool.true_or, decide_true, decide_false, Bool.false_eq_true, mkIf, w])

theorem amax (h : Hdr) (m : AtomF) : Statement (.amax h m) :=
  words_of rfl (hdrOf_packAtom ..) (fOp_packAtom ..) (fun w => and_left w) rfl (fun w => by
    show mkIf _ _ = _
    simp only [fAtom_packAtom, sp_packAtom, ofBool_getLsbD_zero, Bool.not_false, Bool.not_true, extract_ofBool, Nat.reduceLT, Nat.zero_add, Nat.zero_le, Nat.le_refl, BitVec.reduceBEq, Nat.reduceBEq, BitVec.ofNat_eq_ofNat, BitVec.reduceToNat, Nat.reduceMod, Nat.reduceLeDiff, Nat.reduceEqDiff, if_false, if_true, reduceIte, Nat.reduceAdd, Nat.reduceSub, beq_self_eq_true, Bool.and_self, Bool.and_true, Bool.true_and, Bool.or_false, Bool.false_or, Bool.or_true, Bool.true_or, decide_true, decide_false, Bool.false_eq_true, mkIf, w])

theorem aminu (h : Hdr) (m : AtomF) : Statement (.aminu h m) :=
  words_of rfl (hdrOf_packAtom ..) (fOp_packAtom ..) (fun w => and_left w) rfl (fun w => by
    show mkIf _ _ = _
    simp only [fAtom_packAtom, sp_packAtom, ofBool_getLsbD_zero, Bool.not_false, Bool.not_true, extract_ofBool, Nat.reduceLT, Nat.zero_add, Nat.zero_le, Nat.le_refl, BitVec.reduceBEq, Nat.reduceBEq, BitVec.ofNat_eq_ofNat, BitVec.reduceToNat, Nat.reduceMod, Nat.reduceLeDiff, Nat.reduceEqDiff, if_false, if_true, reduceIte, Nat.reduceAdd, Nat.reduceSub, beq_self_eq_true, Bool.and_self, Bool.and_true, Bool.true_and, Bool.or_false, Bool.false_or, Bool.or_true, Bool.true_or, decide_true, decide_false, Bool.false_eq_true, mkIf, w])

theorem amaxu (h : Hdr) (m : AtomF) : Statement (.amaxu h m) :=
  words_of rfl (hdrOf_packAtom ..) (fOp_packAtom ..) (fun w => and_left w) rfl (fun w => by
    show mkIf _ _ = _
    simp only [fAtom_packAtom, sp_packAtom, ofBool_getLsbD_zero, Bool.not_false, Bool.not_true, extract_ofBool, Nat.reduceLT, Nat.zero_add, Nat.zero_le, Nat.le_refl, BitVec.reduceBEq, Nat.reduceBEq, BitVec.ofNat_eq_ofNat, BitVec.reduceToNat, Nat.reduceMod, Nat.reduceLeDiff, Nat.reduceEqDiff, if_false, if_true, reduceIte, Nat.reduceAdd, Nat.reduceSub, beq_self_eq_true, Bool.and_self, Bool.and_true, Bool.true_and, Bool.or_false, Bool.false_or, Bool.or_true, Bool.true_or, decide_true, decide_false, Bool.false_eq_true, mkIf, w])

theorem axchg (h : Hdr) (m : AtomF) : Statement (.axchg h m) :=
  words_of rfl (hdrOf_packAtom ..) (fOp_packAtom ..) (fun w => and_left w) rfl (fun w => by
    show mkIf _ _ = _
    simp only [fAtom_packAtom, sp_packAtom, ofBool_getLsbD_zero, Bool.not_false, Bool.not_true, extract_ofBool, Nat.reduceLT, Nat.zero_add, Nat.zero_le, Nat.le_refl, BitVec.reduceBEq, Nat.reduceBEq, BitVec.ofNat_eq_ofNat, BitVec.reduceToNat, Nat.reduceMod, Nat.reduceLeDiff, Nat.reduceEqDiff, if_false, if_true, reduceIte, Nat.reduceAdd, Nat.reduceSub, beq_self_eq_true, Bool.and_self, Bool.and_true, Bool.true_and, Bool.or_false, Bool.false_or, Bool.or_true, Bool.true_or, decide_true, decide_false, Bool.false_eq_true, mkIf, w])

theorem acas (h : Hdr) (m : AtomF) : Statement (.acas h m) :=
  words_of rfl (hdrOf_packAtom ..) (fOp_packAtom ..) (fun w => and_left (and_left w)) rfl (fun w => by
    show mkIf _ _ = _
    simp only [fAtom_packAtom, sp_packAtom, ofBool_getLsbD_zero, Bool.not_false, Bool.not_true, extract_ofBool, Nat.reduceLT, Nat.zero_add, Nat.zero_le, Nat.le_refl, BitVec.reduceBEq, Nat.reduceBEq, BitVec.ofNat_eq_ofNat, BitVec.reduceToNat, Nat.reduceMod, Nat.reduceLeDiff, Nat.reduceEqDiff, if_false, if_true, reduceIte, Nat.reduceAdd, Nat.reduceSub, beq_self_eq_true, Bool.and_self, Bool.and_true, Bool.true_and, Bool.or_false, Bool.false_or, Bool.or_true, Bool.true_or, decide_true, decide_false, Bool.false_eq_true, mkIf, w])

theorem atas (h : Hdr) (m : AtomF) : Statement (.atas h m) :=
  words_of rfl (hdrOf_packAtom ..) (fOp_packAtom ..) (fun w => and_left (and_left (and_left w))) rfl (fun w => by
    show mkIf _ _ = _
    simp only [fAtom_packAtom, sp_packAtom, ofBool_getLsbD_zero, Bool.not_false, Bool.not_true, extract_ofBool, Nat.reduceLT, Nat.zero_add, Nat.zero_le, Nat.le_refl, BitVec.reduceBEq, Nat.reduceBEq, BitVec.ofNat_eq_ofNat, BitVec.reduceToNat, Nat.reduceMod, Nat.reduceLeDiff, Nat.reduceEqDiff, if_false, if_true, reduceIte, Nat.reduceAdd, Nat.reduceSub, beq_self_eq_true, Bool.and_self, Bool.and_true, Bool.true_and, Bool.or_false, Bool.false_or, Bool.or_true, Bool.true_or, decide_true, decide_false, Bool.false_eq_true, mkIf, w])

theorem bar (h : Hdr) (scope : BitVec 3) (id : BitVec 4) (count : BitVec 16) : Statement (.bar h scope id count) :=
  words_of rfl (hdrOf_packI ..) (fOp_packI ..) (fun w => and_left (and_left (and_left w))) rfl (fun w => by
    show mkIf _ _ = _
    simp only [packI, lowBits, mcImm, msImm, bit4, fD, fA, fB, fC, fFnR, fTy, fRm, fImm13, fFnI, fImm32, fPort, fPd, fImm20, fMc, fMem, fAtom, fChan, fCopy, fCvt, fBind, fMRead, zR3, zR3rm, zR2, zVm, zVrm, zVn, extract_low, extract_high, extract_all, extract_zero, extract_span, app_beq_zero, ofBool_beq_zero, getLsbD_app, zeroAt_eq, ofBool_getLsbD_zero, Bool.not_false, Bool.not_true, extract_ofBool, Nat.reduceLT, Nat.zero_add, Nat.zero_le, Nat.le_refl, BitVec.reduceBEq, Nat.reduceBEq, BitVec.ofNat_eq_ofNat, BitVec.reduceToNat, Nat.reduceMod, Nat.reduceLeDiff, Nat.reduceEqDiff, if_false, if_true, reduceIte, Nat.reduceAdd, Nat.reduceSub, beq_self_eq_true, Bool.and_self, Bool.and_true, Bool.true_and, Bool.or_false, Bool.false_or, Bool.or_true, Bool.true_or, decide_true, decide_false, Bool.false_eq_true, mkIf, w])

theorem bara (h : Hdr) (scope : BitVec 3) (id : BitVec 4) (count : BitVec 16) : Statement (.bara h scope id count) :=
  words_of rfl (hdrOf_packI ..) (fOp_packI ..) (fun w => and_left (and_left (and_left w))) rfl (fun w => by
    show mkIf _ _ = _
    simp only [packI, lowBits, mcImm, msImm, bit4, fD, fA, fB, fC, fFnR, fTy, fRm, fImm13, fFnI, fImm32, fPort, fPd, fImm20, fMc, fMem, fAtom, fChan, fCopy, fCvt, fBind, fMRead, zR3, zR3rm, zR2, zVm, zVrm, zVn, extract_low, extract_high, extract_all, extract_zero, extract_span, app_beq_zero, ofBool_beq_zero, getLsbD_app, zeroAt_eq, ofBool_getLsbD_zero, Bool.not_false, Bool.not_true, extract_ofBool, Nat.reduceLT, Nat.zero_add, Nat.zero_le, Nat.le_refl, BitVec.reduceBEq, Nat.reduceBEq, BitVec.ofNat_eq_ofNat, BitVec.reduceToNat, Nat.reduceMod, Nat.reduceLeDiff, Nat.reduceEqDiff, if_false, if_true, reduceIte, Nat.reduceAdd, Nat.reduceSub, beq_self_eq_true, Bool.and_self, Bool.and_true, Bool.true_and, Bool.or_false, Bool.false_or, Bool.or_true, Bool.true_or, decide_true, decide_false, Bool.false_eq_true, mkIf, w])

theorem barw (h : Hdr) (scope : BitVec 3) (id : BitVec 4) : Statement (.barw h scope id) :=
  words_of rfl (hdrOf_packI ..) (fOp_packI ..) (fun w => and_left (and_left w)) rfl (fun w => by
    show mkIf _ _ = _
    simp only [packI, lowBits, mcImm, msImm, bit4, fD, fA, fB, fC, fFnR, fTy, fRm, fImm13, fFnI, fImm32, fPort, fPd, fImm20, fMc, fMem, fAtom, fChan, fCopy, fCvt, fBind, fMRead, zR3, zR3rm, zR2, zVm, zVrm, zVn, extract_low, extract_high, extract_all, extract_zero, extract_span, app_beq_zero, ofBool_beq_zero, getLsbD_app, zeroAt_eq, ofBool_getLsbD_zero, Bool.not_false, Bool.not_true, extract_ofBool, Nat.reduceLT, Nat.zero_add, Nat.zero_le, Nat.le_refl, BitVec.reduceBEq, Nat.reduceBEq, BitVec.ofNat_eq_ofNat, BitVec.reduceToNat, Nat.reduceMod, Nat.reduceLeDiff, Nat.reduceEqDiff, if_false, if_true, reduceIte, Nat.reduceAdd, Nat.reduceSub, beq_self_eq_true, Bool.and_self, Bool.and_true, Bool.true_and, Bool.or_false, Bool.false_or, Bool.or_true, Bool.true_or, decide_true, decide_false, Bool.false_eq_true, mkIf, w])

theorem rpush (h : Hdr) (a : Reg) (v : Bool) (ring : BitVec 4) : Statement (.rpush h a v ring) :=
  words_of rfl (hdrOf_packI ..) (fOp_packI ..) (fun w => w) rfl (fun w => by
    show mkIf _ _ = _
    simp only [packI, lowBits, mcImm, msImm, bit4, fD, fA, fB, fC, fFnR, fTy, fRm, fImm13, fFnI, fImm32, fPort, fPd, fImm20, fMc, fMem, fAtom, fChan, fCopy, fCvt, fBind, fMRead, zR3, zR3rm, zR2, zVm, zVrm, zVn, extract_low, extract_high, extract_all, extract_zero, extract_span, app_beq_zero, ofBool_beq_zero, getLsbD_app, zeroAt_eq, ofBool_getLsbD_zero, Bool.not_false, Bool.not_true, extract_ofBool, Nat.reduceLT, Nat.zero_add, Nat.zero_le, Nat.le_refl, BitVec.reduceBEq, Nat.reduceBEq, BitVec.ofNat_eq_ofNat, BitVec.reduceToNat, Nat.reduceMod, Nat.reduceLeDiff, Nat.reduceEqDiff, if_false, if_true, reduceIte, Nat.reduceAdd, Nat.reduceSub, beq_self_eq_true, Bool.and_self, Bool.and_true, Bool.true_and, Bool.or_false, Bool.false_or, Bool.or_true, Bool.true_or, decide_true, decide_false, Bool.false_eq_true, mkIf, w])

theorem rpop (h : Hdr) (d : Reg) (v : Bool) (ring : BitVec 4) (cons : BitVec 3) : Statement (.rpop h d v ring cons) :=
  words_of rfl (hdrOf_packI ..) (fOp_packI ..) (fun w => w) rfl (fun w => by
    show mkIf _ _ = _
    simp only [packI, lowBits, mcImm, msImm, bit4, fD, fA, fB, fC, fFnR, fTy, fRm, fImm13, fFnI, fImm32, fPort, fPd, fImm20, fMc, fMem, fAtom, fChan, fCopy, fCvt, fBind, fMRead, zR3, zR3rm, zR2, zVm, zVrm, zVn, extract_low, extract_high, extract_all, extract_zero, extract_span, app_beq_zero, ofBool_beq_zero, getLsbD_app, zeroAt_eq, ofBool_getLsbD_zero, Bool.not_false, Bool.not_true, extract_ofBool, Nat.reduceLT, Nat.zero_add, Nat.zero_le, Nat.le_refl, BitVec.reduceBEq, Nat.reduceBEq, BitVec.ofNat_eq_ofNat, BitVec.reduceToNat, Nat.reduceMod, Nat.reduceLeDiff, Nat.reduceEqDiff, if_false, if_true, reduceIte, Nat.reduceAdd, Nat.reduceSub, beq_self_eq_true, Bool.and_self, Bool.and_true, Bool.true_and, Bool.or_false, Bool.false_or, Bool.or_true, Bool.true_or, decide_true, decide_false, Bool.false_eq_true, mkIf, w])

theorem rpeek (h : Hdr) (d : Reg) (v : Bool) (ring : BitVec 4) (cons : BitVec 3) : Statement (.rpeek h d v ring cons) :=
  words_of rfl (hdrOf_packI ..) (fOp_packI ..) (fun w => w) rfl (fun w => by
    show mkIf _ _ = _
    simp only [packI, lowBits, mcImm, msImm, bit4, fD, fA, fB, fC, fFnR, fTy, fRm, fImm13, fFnI, fImm32, fPort, fPd, fImm20, fMc, fMem, fAtom, fChan, fCopy, fCvt, fBind, fMRead, zR3, zR3rm, zR2, zVm, zVrm, zVn, extract_low, extract_high, extract_all, extract_zero, extract_span, app_beq_zero, ofBool_beq_zero, getLsbD_app, zeroAt_eq, ofBool_getLsbD_zero, Bool.not_false, Bool.not_true, extract_ofBool, Nat.reduceLT, Nat.zero_add, Nat.zero_le, Nat.le_refl, BitVec.reduceBEq, Nat.reduceBEq, BitVec.ofNat_eq_ofNat, BitVec.reduceToNat, Nat.reduceMod, Nat.reduceLeDiff, Nat.reduceEqDiff, if_false, if_true, reduceIte, Nat.reduceAdd, Nat.reduceSub, beq_self_eq_true, Bool.and_self, Bool.and_true, Bool.true_and, Bool.or_false, Bool.false_or, Bool.or_true, Bool.true_or, decide_true, decide_false, Bool.false_eq_true, mkIf, w])

theorem rcur (h : Hdr) (d : Reg) (ring : BitVec 4) (cons : BitVec 3) : Statement (.rcur h d ring cons) :=
  words_of rfl (hdrOf_packI ..) (fOp_packI ..) (fun w => w) rfl (fun w => by
    show mkIf _ _ = _
    simp only [packI, lowBits, mcImm, msImm, bit4, fD, fA, fB, fC, fFnR, fTy, fRm, fImm13, fFnI, fImm32, fPort, fPd, fImm20, fMc, fMem, fAtom, fChan, fCopy, fCvt, fBind, fMRead, zR3, zR3rm, zR2, zVm, zVrm, zVn, extract_low, extract_high, extract_all, extract_zero, extract_span, app_beq_zero, ofBool_beq_zero, getLsbD_app, zeroAt_eq, ofBool_getLsbD_zero, Bool.not_false, Bool.not_true, extract_ofBool, Nat.reduceLT, Nat.zero_add, Nat.zero_le, Nat.le_refl, BitVec.reduceBEq, Nat.reduceBEq, BitVec.ofNat_eq_ofNat, BitVec.reduceToNat, Nat.reduceMod, Nat.reduceLeDiff, Nat.reduceEqDiff, if_false, if_true, reduceIte, Nat.reduceAdd, Nat.reduceSub, beq_self_eq_true, Bool.and_self, Bool.and_true, Bool.true_and, Bool.or_false, Bool.false_or, Bool.or_true, Bool.true_or, decide_true, decide_false, Bool.false_eq_true, mkIf, w])

theorem rinit (h : Hdr) (a : Reg) (ring : BitVec 4) : Statement (.rinit h a ring) :=
  words_of rfl (hdrOf_packI ..) (fOp_packI ..) (fun w => w) rfl (fun w => by
    show mkIf _ _ = _
    simp only [packI, lowBits, mcImm, msImm, bit4, fD, fA, fB, fC, fFnR, fTy, fRm, fImm13, fFnI, fImm32, fPort, fPd, fImm20, fMc, fMem, fAtom, fChan, fCopy, fCvt, fBind, fMRead, zR3, zR3rm, zR2, zVm, zVrm, zVn, extract_low, extract_high, extract_all, extract_zero, extract_span, app_beq_zero, ofBool_beq_zero, getLsbD_app, zeroAt_eq, ofBool_getLsbD_zero, Bool.not_false, Bool.not_true, extract_ofBool, Nat.reduceLT, Nat.zero_add, Nat.zero_le, Nat.le_refl, BitVec.reduceBEq, Nat.reduceBEq, BitVec.ofNat_eq_ofNat, BitVec.reduceToNat, Nat.reduceMod, Nat.reduceLeDiff, Nat.reduceEqDiff, if_false, if_true, reduceIte, Nat.reduceAdd, Nat.reduceSub, beq_self_eq_true, Bool.and_self, Bool.and_true, Bool.true_and, Bool.or_false, Bool.false_or, Bool.or_true, Bool.true_or, decide_true, decide_false, Bool.false_eq_true, mkIf, w])

theorem spawn (h : Hdr) (a : Reg) (kind : BitVec 16) : Statement (.spawn h a kind) :=
  words_of rfl (hdrOf_packI ..) (fOp_packI ..) (fun w => w) rfl (fun w => by
    show mkIf _ _ = _
    simp only [packI, lowBits, mcImm, msImm, bit4, fD, fA, fB, fC, fFnR, fTy, fRm, fImm13, fFnI, fImm32, fPort, fPd, fImm20, fMc, fMem, fAtom, fChan, fCopy, fCvt, fBind, fMRead, zR3, zR3rm, zR2, zVm, zVrm, zVn, extract_low, extract_high, extract_all, extract_zero, extract_span, app_beq_zero, ofBool_beq_zero, getLsbD_app, zeroAt_eq, ofBool_getLsbD_zero, Bool.not_false, Bool.not_true, extract_ofBool, Nat.reduceLT, Nat.zero_add, Nat.zero_le, Nat.le_refl, BitVec.reduceBEq, Nat.reduceBEq, BitVec.ofNat_eq_ofNat, BitVec.reduceToNat, Nat.reduceMod, Nat.reduceLeDiff, Nat.reduceEqDiff, if_false, if_true, reduceIte, Nat.reduceAdd, Nat.reduceSub, beq_self_eq_true, Bool.and_self, Bool.and_true, Bool.true_and, Bool.or_false, Bool.false_or, Bool.or_true, Bool.true_or, decide_true, decide_false, Bool.false_eq_true, mkIf, w])

theorem cond (h : Hdr) (d : Reg) (site : BitVec 6) : Statement (.cond h d site) :=
  words_of rfl (hdrOf_packI ..) (fOp_packI ..) (fun w => w) rfl (fun w => by
    show mkIf _ _ = _
    simp only [packI, lowBits, mcImm, msImm, bit4, fD, fA, fB, fC, fFnR, fTy, fRm, fImm13, fFnI, fImm32, fPort, fPd, fImm20, fMc, fMem, fAtom, fChan, fCopy, fCvt, fBind, fMRead, zR3, zR3rm, zR2, zVm, zVrm, zVn, extract_low, extract_high, extract_all, extract_zero, extract_span, app_beq_zero, ofBool_beq_zero, getLsbD_app, zeroAt_eq, ofBool_getLsbD_zero, Bool.not_false, Bool.not_true, extract_ofBool, Nat.reduceLT, Nat.zero_add, Nat.zero_le, Nat.le_refl, BitVec.reduceBEq, Nat.reduceBEq, BitVec.ofNat_eq_ofNat, BitVec.reduceToNat, Nat.reduceMod, Nat.reduceLeDiff, Nat.reduceEqDiff, if_false, if_true, reduceIte, Nat.reduceAdd, Nat.reduceSub, beq_self_eq_true, Bool.and_self, Bool.and_true, Bool.true_and, Bool.or_false, Bool.false_or, Bool.or_true, Bool.true_or, decide_true, decide_false, Bool.false_eq_true, mkIf, w])

theorem spawnc (h : Hdr) (d a : Reg) (taken : Bool) (kind : BitVec 16) : Statement (.spawnc h d a taken kind) :=
  words_of rfl (hdrOf_packI ..) (fOp_packI ..) (fun w => w) rfl (fun w => by
    show mkIf _ _ = _
    simp only [packI, lowBits, mcImm, msImm, bit4, fD, fA, fB, fC, fFnR, fTy, fRm, fImm13, fFnI, fImm32, fPort, fPd, fImm20, fMc, fMem, fAtom, fChan, fCopy, fCvt, fBind, fMRead, zR3, zR3rm, zR2, zVm, zVrm, zVn, extract_low, extract_high, extract_all, extract_zero, extract_span, app_beq_zero, ofBool_beq_zero, getLsbD_app, zeroAt_eq, ofBool_getLsbD_zero, Bool.not_false, Bool.not_true, extract_ofBool, Nat.reduceLT, Nat.zero_add, Nat.zero_le, Nat.le_refl, BitVec.reduceBEq, Nat.reduceBEq, BitVec.ofNat_eq_ofNat, BitVec.reduceToNat, Nat.reduceMod, Nat.reduceLeDiff, Nat.reduceEqDiff, if_false, if_true, reduceIte, Nat.reduceAdd, Nat.reduceSub, beq_self_eq_true, Bool.and_self, Bool.and_true, Bool.true_and, Bool.or_false, Bool.false_or, Bool.or_true, Bool.true_or, decide_true, decide_false, Bool.false_eq_true, mkIf, w])

theorem resolve (h : Hdr) (a b : Reg) : Statement (.resolve h a b) :=
  words_of rfl (hdrOf_packR ..) (fOp_packR ..) (fun w => w) rfl (fun w => by
    show mkIf _ _ = _
    simp only [packR, lowBits, mcImm, msImm, bit4, fD, fA, fB, fC, fFnR, fTy, fRm, fImm13, fFnI, fImm32, fPort, fPd, fImm20, fMc, fMem, fAtom, fChan, fCopy, fCvt, fBind, fMRead, zR3, zR3rm, zR2, zVm, zVrm, zVn, extract_low, extract_high, extract_all, extract_zero, extract_span, app_beq_zero, ofBool_beq_zero, getLsbD_app, zeroAt_eq, ofBool_getLsbD_zero, Bool.not_false, Bool.not_true, extract_ofBool, Nat.reduceLT, Nat.zero_add, Nat.zero_le, Nat.le_refl, BitVec.reduceBEq, Nat.reduceBEq, BitVec.ofNat_eq_ofNat, BitVec.reduceToNat, Nat.reduceMod, Nat.reduceLeDiff, Nat.reduceEqDiff, if_false, if_true, reduceIte, Nat.reduceAdd, Nat.reduceSub, beq_self_eq_true, Bool.and_self, Bool.and_true, Bool.true_and, Bool.or_false, Bool.false_or, Bool.or_true, Bool.true_or, decide_true, decide_false, Bool.false_eq_true, mkIf, w])

theorem deviceLaunch (h : Hdr) (a b c : Reg) (dbg : Bool) : Statement (.deviceLaunch h a b c dbg) :=
  words_of rfl (hdrOf_packR ..) (fOp_packR ..) (fun w => w) rfl (fun w => by
    show mkIf _ _ = _
    simp only [packR, lowBits, mcImm, msImm, bit4, fD, fA, fB, fC, fFnR, fTy, fRm, fImm13, fFnI, fImm32, fPort, fPd, fImm20, fMc, fMem, fAtom, fChan, fCopy, fCvt, fBind, fMRead, zR3, zR3rm, zR2, zVm, zVrm, zVn, extract_low, extract_high, extract_all, extract_zero, extract_span, app_beq_zero, ofBool_beq_zero, getLsbD_app, zeroAt_eq, ofBool_getLsbD_zero, Bool.not_false, Bool.not_true, extract_ofBool, Nat.reduceLT, Nat.zero_add, Nat.zero_le, Nat.le_refl, BitVec.reduceBEq, Nat.reduceBEq, BitVec.ofNat_eq_ofNat, BitVec.reduceToNat, Nat.reduceMod, Nat.reduceLeDiff, Nat.reduceEqDiff, if_false, if_true, reduceIte, Nat.reduceAdd, Nat.reduceSub, beq_self_eq_true, Bool.and_self, Bool.and_true, Bool.true_and, Bool.or_false, Bool.false_or, Bool.or_true, Bool.true_or, decide_true, decide_false, Bool.false_eq_true, mkIf, w])

theorem lkrd (h : Hdr) (d a : Reg) (side : BitVec 2) (k : BitVec 32) : Statement (.lkrd h d a side k) :=
  words_of rfl (hdrOf_packI ..) (fOp_packI ..) (fun w => and_left (and_left w)) rfl (fun w => by
    show mkIf _ _ = _
    simp only [packI, lowBits, mcImm, msImm, bit4, fD, fA, fB, fC, fFnR, fTy, fRm, fImm13, fFnI, fImm32, fPort, fPd, fImm20, fMc, fMem, fAtom, fChan, fCopy, fCvt, fBind, fMRead, zR3, zR3rm, zR2, zVm, zVrm, zVn, extract_low, extract_high, extract_all, extract_zero, extract_span, app_beq_zero, ofBool_beq_zero, getLsbD_app, zeroAt_eq, ofBool_getLsbD_zero, Bool.not_false, Bool.not_true, extract_ofBool, Nat.reduceLT, Nat.zero_add, Nat.zero_le, Nat.le_refl, BitVec.reduceBEq, Nat.reduceBEq, BitVec.ofNat_eq_ofNat, BitVec.reduceToNat, Nat.reduceMod, Nat.reduceLeDiff, Nat.reduceEqDiff, if_false, if_true, reduceIte, Nat.reduceAdd, Nat.reduceSub, beq_self_eq_true, Bool.and_self, Bool.and_true, Bool.true_and, Bool.or_false, Bool.false_or, Bool.or_true, Bool.true_or, decide_true, decide_false, Bool.false_eq_true, mkIf, w])

theorem copy (h : Hdr) (f : CopyF) : Statement (.copy h f) :=
  words_of rfl (hdrOf_packX ..) (fOp_packX ..) (fun w => and_left w) rfl (fun w => by
    show mkIf _ _ = _
    simp only [packCopy, packX, lowBits, mcImm, msImm, bit4, fD, fA, fB, fC, fFnR, fTy, fRm, fImm13, fFnI, fImm32, fPort, fPd, fImm20, fMc, fMem, fAtom, fChan, fCopy, fCvt, fBind, fMRead, zR3, zR3rm, zR2, zVm, zVrm, zVn, extract_low, extract_high, extract_all, extract_zero, extract_span, app_beq_zero, ofBool_beq_zero, getLsbD_app, zeroAt_eq, ofBool_getLsbD_zero, Bool.not_false, Bool.not_true, extract_ofBool, Nat.reduceLT, Nat.zero_add, Nat.zero_le, Nat.le_refl, BitVec.reduceBEq, Nat.reduceBEq, BitVec.ofNat_eq_ofNat, BitVec.reduceToNat, Nat.reduceMod, Nat.reduceLeDiff, Nat.reduceEqDiff, if_false, if_true, reduceIte, Nat.reduceAdd, Nat.reduceSub, beq_self_eq_true, Bool.and_self, Bool.and_true, Bool.true_and, Bool.or_false, Bool.false_or, Bool.or_true, Bool.true_or, decide_true, decide_false, Bool.false_eq_true, mkIf, w])

theorem copyg (h : Hdr) (f : CopyF) : Statement (.copyg h f) :=
  words_of rfl (hdrOf_packX ..) (fOp_packX ..) (fun w => and_left w) rfl (fun w => by
    show mkIf _ _ = _
    simp only [packCopy, packX, lowBits, mcImm, msImm, bit4, fD, fA, fB, fC, fFnR, fTy, fRm, fImm13, fFnI, fImm32, fPort, fPd, fImm20, fMc, fMem, fAtom, fChan, fCopy, fCvt, fBind, fMRead, zR3, zR3rm, zR2, zVm, zVrm, zVn, extract_low, extract_high, extract_all, extract_zero, extract_span, app_beq_zero, ofBool_beq_zero, getLsbD_app, zeroAt_eq, ofBool_getLsbD_zero, Bool.not_false, Bool.not_true, extract_ofBool, Nat.reduceLT, Nat.zero_add, Nat.zero_le, Nat.le_refl, BitVec.reduceBEq, Nat.reduceBEq, BitVec.ofNat_eq_ofNat, BitVec.reduceToNat, Nat.reduceMod, Nat.reduceLeDiff, Nat.reduceEqDiff, if_false, if_true, reduceIte, Nat.reduceAdd, Nat.reduceSub, beq_self_eq_true, Bool.and_self, Bool.and_true, Bool.true_and, Bool.or_false, Bool.false_or, Bool.or_true, Bool.true_or, decide_true, decide_false, Bool.false_eq_true, mkIf, w])

theorem copys (h : Hdr) (f : CopyF) : Statement (.copys h f) :=
  words_of rfl (hdrOf_packX ..) (fOp_packX ..) (fun w => and_left w) rfl (fun w => by
    show mkIf _ _ = _
    simp only [packCopy, packX, lowBits, mcImm, msImm, bit4, fD, fA, fB, fC, fFnR, fTy, fRm, fImm13, fFnI, fImm32, fPort, fPd, fImm20, fMc, fMem, fAtom, fChan, fCopy, fCvt, fBind, fMRead, zR3, zR3rm, zR2, zVm, zVrm, zVn, extract_low, extract_high, extract_all, extract_zero, extract_span, app_beq_zero, ofBool_beq_zero, getLsbD_app, zeroAt_eq, ofBool_getLsbD_zero, Bool.not_false, Bool.not_true, extract_ofBool, Nat.reduceLT, Nat.zero_add, Nat.zero_le, Nat.le_refl, BitVec.reduceBEq, Nat.reduceBEq, BitVec.ofNat_eq_ofNat, BitVec.reduceToNat, Nat.reduceMod, Nat.reduceLeDiff, Nat.reduceEqDiff, if_false, if_true, reduceIte, Nat.reduceAdd, Nat.reduceSub, beq_self_eq_true, Bool.and_self, Bool.and_true, Bool.true_and, Bool.or_false, Bool.false_or, Bool.or_true, Bool.true_or, decide_true, decide_false, Bool.false_eq_true, mkIf, w])

theorem shld (h : Hdr) (d a : Reg) (sp : Bool) : Statement (.shld h d a sp) :=
  words_of rfl (hdrOf_packX ..) (fOp_packX ..) (fun w => and_left w) rfl (fun w => by
    show mkIf _ _ = _
    simp only [packX, lowBits, mcImm, msImm, bit4, fD, fA, fB, fC, fFnR, fTy, fRm, fImm13, fFnI, fImm32, fPort, fPd, fImm20, fMc, fMem, fAtom, fChan, fCopy, fCvt, fBind, fMRead, zR3, zR3rm, zR2, zVm, zVrm, zVn, extract_low, extract_high, extract_all, extract_zero, extract_span, app_beq_zero, ofBool_beq_zero, getLsbD_app, zeroAt_eq, ofBool_getLsbD_zero, Bool.not_false, Bool.not_true, extract_ofBool, Nat.reduceLT, Nat.zero_add, Nat.zero_le, Nat.le_refl, BitVec.reduceBEq, Nat.reduceBEq, BitVec.ofNat_eq_ofNat, BitVec.reduceToNat, Nat.reduceMod, Nat.reduceLeDiff, Nat.reduceEqDiff, if_false, if_true, reduceIte, Nat.reduceAdd, Nat.reduceSub, beq_self_eq_true, Bool.and_self, Bool.and_true, Bool.true_and, Bool.or_false, Bool.false_or, Bool.or_true, Bool.true_or, decide_true, decide_false, Bool.false_eq_true, mkIf, w])

theorem shst (h : Hdr) (d a : Reg) (sp : Bool) : Statement (.shst h d a sp) :=
  words_of rfl (hdrOf_packX ..) (fOp_packX ..) (fun w => and_left w) rfl (fun w => by
    show mkIf _ _ = _
    simp only [packX, lowBits, mcImm, msImm, bit4, fD, fA, fB, fC, fFnR, fTy, fRm, fImm13, fFnI, fImm32, fPort, fPd, fImm20, fMc, fMem, fAtom, fChan, fCopy, fCvt, fBind, fMRead, zR3, zR3rm, zR2, zVm, zVrm, zVn, extract_low, extract_high, extract_all, extract_zero, extract_span, app_beq_zero, ofBool_beq_zero, getLsbD_app, zeroAt_eq, ofBool_getLsbD_zero, Bool.not_false, Bool.not_true, extract_ofBool, Nat.reduceLT, Nat.zero_add, Nat.zero_le, Nat.le_refl, BitVec.reduceBEq, Nat.reduceBEq, BitVec.ofNat_eq_ofNat, BitVec.reduceToNat, Nat.reduceMod, Nat.reduceLeDiff, Nat.reduceEqDiff, if_false, if_true, reduceIte, Nat.reduceAdd, Nat.reduceSub, beq_self_eq_true, Bool.and_self, Bool.and_true, Bool.true_and, Bool.or_false, Bool.false_or, Bool.or_true, Bool.true_or, decide_true, decide_false, Bool.false_eq_true, mkIf, w])

theorem shset (h : Hdr) (d a : Reg) (field : BitVec 4) : Statement (.shset h d a field) :=
  words_of rfl (hdrOf_packX ..) (fOp_packX ..) (fun w => and_left (and_left w)) rfl (fun w => by
    show mkIf _ _ = _
    simp only [packX, lowBits, mcImm, msImm, bit4, fD, fA, fB, fC, fFnR, fTy, fRm, fImm13, fFnI, fImm32, fPort, fPd, fImm20, fMc, fMem, fAtom, fChan, fCopy, fCvt, fBind, fMRead, zR3, zR3rm, zR2, zVm, zVrm, zVn, extract_low, extract_high, extract_all, extract_zero, extract_span, app_beq_zero, ofBool_beq_zero, getLsbD_app, zeroAt_eq, ofBool_getLsbD_zero, Bool.not_false, Bool.not_true, extract_ofBool, Nat.reduceLT, Nat.zero_add, Nat.zero_le, Nat.le_refl, BitVec.reduceBEq, Nat.reduceBEq, BitVec.ofNat_eq_ofNat, BitVec.reduceToNat, Nat.reduceMod, Nat.reduceLeDiff, Nat.reduceEqDiff, if_false, if_true, reduceIte, Nat.reduceAdd, Nat.reduceSub, beq_self_eq_true, Bool.and_self, Bool.and_true, Bool.true_and, Bool.or_false, Bool.false_or, Bool.or_true, Bool.true_or, decide_true, decide_false, Bool.false_eq_true, mkIf, w])

theorem shget (h : Hdr) (d a : Reg) (field : BitVec 4) : Statement (.shget h d a field) :=
  words_of rfl (hdrOf_packX ..) (fOp_packX ..) (fun w => and_left (and_left w)) rfl (fun w => by
    show mkIf _ _ = _
    simp only [packX, lowBits, mcImm, msImm, bit4, fD, fA, fB, fC, fFnR, fTy, fRm, fImm13, fFnI, fImm32, fPort, fPd, fImm20, fMc, fMem, fAtom, fChan, fCopy, fCvt, fBind, fMRead, zR3, zR3rm, zR2, zVm, zVrm, zVn, extract_low, extract_high, extract_all, extract_zero, extract_span, app_beq_zero, ofBool_beq_zero, getLsbD_app, zeroAt_eq, ofBool_getLsbD_zero, Bool.not_false, Bool.not_true, extract_ofBool, Nat.reduceLT, Nat.zero_add, Nat.zero_le, Nat.le_refl, BitVec.reduceBEq, Nat.reduceBEq, BitVec.ofNat_eq_ofNat, BitVec.reduceToNat, Nat.reduceMod, Nat.reduceLeDiff, Nat.reduceEqDiff, if_false, if_true, reduceIte, Nat.reduceAdd, Nat.reduceSub, beq_self_eq_true, Bool.and_self, Bool.and_true, Bool.true_and, Bool.or_false, Bool.false_or, Bool.or_true, Bool.true_or, decide_true, decide_false, Bool.false_eq_true, mkIf, w])

theorem mbind (h : Hdr) (f : BindF) : Statement (.mbind h f) :=
  words_of rfl (hdrOf_bind _ _ f) (fOp_bind _ _ f) (fun w => and_left (and_left (and_left w))) rfl (fun w => by
    show mkIf _ _ = _
    simp only [lowBits, mcImm, msImm, bit4, fD, fA, fB, fC, fFnR, fTy, fRm, fImm13, fFnI, fImm32, fPort, fPd, fImm20, fMc, fMem, fAtom, fChan, fCopy, fCvt, fBind, fMRead, zR3, zR3rm, zR2, zVm, zVrm, zVn, extract_low, extract_high, extract_all, extract_zero, extract_span, app_beq_zero, ofBool_beq_zero, getLsbD_app, zeroAt_eq, ofBool_getLsbD_zero, Bool.not_false, Bool.not_true, extract_ofBool, Nat.reduceLT, Nat.zero_add, Nat.zero_le, Nat.le_refl, BitVec.reduceBEq, Nat.reduceBEq, BitVec.ofNat_eq_ofNat, BitVec.reduceToNat, Nat.reduceMod, Nat.reduceLeDiff, Nat.reduceEqDiff, if_false, if_true, reduceIte, Nat.reduceAdd, Nat.reduceSub, beq_self_eq_true, Bool.and_self, Bool.and_true, Bool.true_and, Bool.or_false, Bool.false_or, Bool.or_true, Bool.true_or, decide_true, decide_false, Bool.false_eq_true, mkIf, w])

theorem munbind (h : Hdr) (d : Reg) : Statement (.munbind h d) :=
  words_of rfl (hdrOf_packX ..) (fOp_packX ..) (fun w => and_left w) rfl (fun w => by
    show mkIf _ _ = _
    simp only [packX, lowBits, mcImm, msImm, bit4, fD, fA, fB, fC, fFnR, fTy, fRm, fImm13, fFnI, fImm32, fPort, fPd, fImm20, fMc, fMem, fAtom, fChan, fCopy, fCvt, fBind, fMRead, zR3, zR3rm, zR2, zVm, zVrm, zVn, extract_low, extract_high, extract_all, extract_zero, extract_span, app_beq_zero, ofBool_beq_zero, getLsbD_app, zeroAt_eq, ofBool_getLsbD_zero, Bool.not_false, Bool.not_true, extract_ofBool, Nat.reduceLT, Nat.zero_add, Nat.zero_le, Nat.le_refl, BitVec.reduceBEq, Nat.reduceBEq, BitVec.ofNat_eq_ofNat, BitVec.reduceToNat, Nat.reduceMod, Nat.reduceLeDiff, Nat.reduceEqDiff, if_false, if_true, reduceIte, Nat.reduceAdd, Nat.reduceSub, beq_self_eq_true, Bool.and_self, Bool.and_true, Bool.true_and, Bool.or_false, Bool.false_or, Bool.or_true, Bool.true_or, decide_true, decide_false, Bool.false_eq_true, mkIf, w])

theorem mzero (h : Hdr) (d : Reg) : Statement (.mzero h d) :=
  words_of rfl (hdrOf_packX ..) (fOp_packX ..) (fun w => and_left w) rfl (fun w => by
    show mkIf _ _ = _
    simp only [packX, lowBits, mcImm, msImm, bit4, fD, fA, fB, fC, fFnR, fTy, fRm, fImm13, fFnI, fImm32, fPort, fPd, fImm20, fMc, fMem, fAtom, fChan, fCopy, fCvt, fBind, fMRead, zR3, zR3rm, zR2, zVm, zVrm, zVn, extract_low, extract_high, extract_all, extract_zero, extract_span, app_beq_zero, ofBool_beq_zero, getLsbD_app, zeroAt_eq, ofBool_getLsbD_zero, Bool.not_false, Bool.not_true, extract_ofBool, Nat.reduceLT, Nat.zero_add, Nat.zero_le, Nat.le_refl, BitVec.reduceBEq, Nat.reduceBEq, BitVec.ofNat_eq_ofNat, BitVec.reduceToNat, Nat.reduceMod, Nat.reduceLeDiff, Nat.reduceEqDiff, if_false, if_true, reduceIte, Nat.reduceAdd, Nat.reduceSub, beq_self_eq_true, Bool.and_self, Bool.and_true, Bool.true_and, Bool.or_false, Bool.false_or, Bool.or_true, Bool.true_or, decide_true, decide_false, Bool.false_eq_true, mkIf, w])

theorem mread (h : Hdr) (f : MReadF) : Statement (.mread h f) :=
  words_of rfl (hdrOf_mread _ _ f) (fOp_mread _ _ f) (fun w => and_left (and_left w)) rfl (fun w => by
    show mkIf _ _ = _
    simp only [lowBits, mcImm, msImm, bit4, fD, fA, fB, fC, fFnR, fTy, fRm, fImm13, fFnI, fImm32, fPort, fPd, fImm20, fMc, fMem, fAtom, fChan, fCopy, fCvt, fBind, fMRead, zR3, zR3rm, zR2, zVm, zVrm, zVn, extract_low, extract_high, extract_all, extract_zero, extract_span, app_beq_zero, ofBool_beq_zero, getLsbD_app, zeroAt_eq, ofBool_getLsbD_zero, Bool.not_false, Bool.not_true, extract_ofBool, Nat.reduceLT, Nat.zero_add, Nat.zero_le, Nat.le_refl, BitVec.reduceBEq, Nat.reduceBEq, BitVec.ofNat_eq_ofNat, BitVec.reduceToNat, Nat.reduceMod, Nat.reduceLeDiff, Nat.reduceEqDiff, if_false, if_true, reduceIte, Nat.reduceAdd, Nat.reduceSub, beq_self_eq_true, Bool.and_self, Bool.and_true, Bool.true_and, Bool.or_false, Bool.false_or, Bool.or_true, Bool.true_or, decide_true, decide_false, Bool.false_eq_true, mkIf, w])

theorem mseal (h : Hdr) (d : Reg) : Statement (.mseal h d) :=
  words_of rfl (hdrOf_packX ..) (fOp_packX ..) (fun w => and_left w) rfl (fun w => by
    show mkIf _ _ = _
    simp only [packX, lowBits, mcImm, msImm, bit4, fD, fA, fB, fC, fFnR, fTy, fRm, fImm13, fFnI, fImm32, fPort, fPd, fImm20, fMc, fMem, fAtom, fChan, fCopy, fCvt, fBind, fMRead, zR3, zR3rm, zR2, zVm, zVrm, zVn, extract_low, extract_high, extract_all, extract_zero, extract_span, app_beq_zero, ofBool_beq_zero, getLsbD_app, zeroAt_eq, ofBool_getLsbD_zero, Bool.not_false, Bool.not_true, extract_ofBool, Nat.reduceLT, Nat.zero_add, Nat.zero_le, Nat.le_refl, BitVec.reduceBEq, Nat.reduceBEq, BitVec.ofNat_eq_ofNat, BitVec.reduceToNat, Nat.reduceMod, Nat.reduceLeDiff, Nat.reduceEqDiff, if_false, if_true, reduceIte, Nat.reduceAdd, Nat.reduceSub, beq_self_eq_true, Bool.and_self, Bool.and_true, Bool.true_and, Bool.or_false, Bool.false_or, Bool.or_true, Bool.true_or, decide_true, decide_false, Bool.false_eq_true, mkIf, w])

theorem mstat (h : Hdr) (d a : Reg) : Statement (.mstat h d a) :=
  words_of rfl (hdrOf_packX ..) (fOp_packX ..) (fun w => and_left w) rfl (fun w => by
    show mkIf _ _ = _
    simp only [packX, lowBits, mcImm, msImm, bit4, fD, fA, fB, fC, fFnR, fTy, fRm, fImm13, fFnI, fImm32, fPort, fPd, fImm20, fMc, fMem, fAtom, fChan, fCopy, fCvt, fBind, fMRead, zR3, zR3rm, zR2, zVm, zVrm, zVn, extract_low, extract_high, extract_all, extract_zero, extract_span, app_beq_zero, ofBool_beq_zero, getLsbD_app, zeroAt_eq, ofBool_getLsbD_zero, Bool.not_false, Bool.not_true, extract_ofBool, Nat.reduceLT, Nat.zero_add, Nat.zero_le, Nat.le_refl, BitVec.reduceBEq, Nat.reduceBEq, BitVec.ofNat_eq_ofNat, BitVec.reduceToNat, Nat.reduceMod, Nat.reduceLeDiff, Nat.reduceEqDiff, if_false, if_true, reduceIte, Nat.reduceAdd, Nat.reduceSub, beq_self_eq_true, Bool.and_self, Bool.and_true, Bool.true_and, Bool.or_false, Bool.false_or, Bool.or_true, Bool.true_or, decide_true, decide_false, Bool.false_eq_true, mkIf, w])

theorem twrv (h : Hdr) (ty : BitVec 4) (mantel : Bool) (slot : BitVec 8) (a b : Reg) : Statement (.twrv h ty mantel slot a b) :=
  words_of rfl (hdrOf_packX ..) (fOp_packX ..) (fun w => and_left (and_left w)) rfl (fun w => by
    show mkIf _ _ = _
    simp only [packX, lowBits, mcImm, msImm, bit4, fD, fA, fB, fC, fFnR, fTy, fRm, fImm13, fFnI, fImm32, fPort, fPd, fImm20, fMc, fMem, fAtom, fChan, fCopy, fCvt, fBind, fMRead, zR3, zR3rm, zR2, zVm, zVrm, zVn, extract_low, extract_high, extract_all, extract_zero, extract_span, app_beq_zero, ofBool_beq_zero, getLsbD_app, zeroAt_eq, ofBool_getLsbD_zero, Bool.not_false, Bool.not_true, extract_ofBool, Nat.reduceLT, Nat.zero_add, Nat.zero_le, Nat.le_refl, BitVec.reduceBEq, Nat.reduceBEq, BitVec.ofNat_eq_ofNat, BitVec.reduceToNat, Nat.reduceMod, Nat.reduceLeDiff, Nat.reduceEqDiff, if_false, if_true, reduceIte, Nat.reduceAdd, Nat.reduceSub, beq_self_eq_true, Bool.and_self, Bool.and_true, Bool.true_and, Bool.or_false, Bool.false_or, Bool.or_true, Bool.true_or, decide_true, decide_false, Bool.false_eq_true, mkIf, w])

theorem trdv (h : Hdr) (ty : BitVec 4) (mantel : Bool) (slot : BitVec 8) (d a : Reg) : Statement (.trdv h ty mantel slot d a) :=
  words_of rfl (hdrOf_packX ..) (fOp_packX ..) (fun w => and_left (and_left w)) rfl (fun w => by
    show mkIf _ _ = _
    simp only [packX, lowBits, mcImm, msImm, bit4, fD, fA, fB, fC, fFnR, fTy, fRm, fImm13, fFnI, fImm32, fPort, fPd, fImm20, fMc, fMem, fAtom, fChan, fCopy, fCvt, fBind, fMRead, zR3, zR3rm, zR2, zVm, zVrm, zVn, extract_low, extract_high, extract_all, extract_zero, extract_span, app_beq_zero, ofBool_beq_zero, getLsbD_app, zeroAt_eq, ofBool_getLsbD_zero, Bool.not_false, Bool.not_true, extract_ofBool, Nat.reduceLT, Nat.zero_add, Nat.zero_le, Nat.le_refl, BitVec.reduceBEq, Nat.reduceBEq, BitVec.ofNat_eq_ofNat, BitVec.reduceToNat, Nat.reduceMod, Nat.reduceLeDiff, Nat.reduceEqDiff, if_false, if_true, reduceIte, Nat.reduceAdd, Nat.reduceSub, beq_self_eq_true, Bool.and_self, Bool.and_true, Bool.true_and, Bool.or_false, Bool.false_or, Bool.or_true, Bool.true_or, decide_true, decide_false, Bool.false_eq_true, mkIf, w])

theorem ttag (h : Hdr) (slot : BitVec 8) (full : Bool) : Statement (.ttag h slot full) :=
  words_of rfl (hdrOf_packX ..) (fOp_packX ..) (fun w => and_left w) rfl (fun w => by
    show mkIf _ _ = _
    simp only [packX, lowBits, mcImm, msImm, bit4, fD, fA, fB, fC, fFnR, fTy, fRm, fImm13, fFnI, fImm32, fPort, fPd, fImm20, fMc, fMem, fAtom, fChan, fCopy, fCvt, fBind, fMRead, zR3, zR3rm, zR2, zVm, zVrm, zVn, extract_low, extract_high, extract_all, extract_zero, extract_span, app_beq_zero, ofBool_beq_zero, getLsbD_app, zeroAt_eq, ofBool_getLsbD_zero, Bool.not_false, Bool.not_true, extract_ofBool, Nat.reduceLT, Nat.zero_add, Nat.zero_le, Nat.le_refl, BitVec.reduceBEq, Nat.reduceBEq, BitVec.ofNat_eq_ofNat, BitVec.reduceToNat, Nat.reduceMod, Nat.reduceLeDiff, Nat.reduceEqDiff, if_false, if_true, reduceIte, Nat.reduceAdd, Nat.reduceSub, beq_self_eq_true, Bool.and_self, Bool.and_true, Bool.true_and, Bool.or_false, Bool.false_or, Bool.or_true, Bool.true_or, decide_true, decide_false, Bool.false_eq_true, mkIf, w])

theorem mgroup (h : Hdr) (d a : Reg) : Statement (.mgroup h d a) :=
  words_of rfl (hdrOf_packX ..) (fOp_packX ..) (fun w => w) rfl (fun w => by
    show mkIf _ _ = _
    simp only [packX, lowBits, mcImm, msImm, bit4, fD, fA, fB, fC, fFnR, fTy, fRm, fImm13, fFnI, fImm32, fPort, fPd, fImm20, fMc, fMem, fAtom, fChan, fCopy, fCvt, fBind, fMRead, zR3, zR3rm, zR2, zVm, zVrm, zVn, extract_low, extract_high, extract_all, extract_zero, extract_span, app_beq_zero, ofBool_beq_zero, getLsbD_app, zeroAt_eq, ofBool_getLsbD_zero, Bool.not_false, Bool.not_true, extract_ofBool, Nat.reduceLT, Nat.zero_add, Nat.zero_le, Nat.le_refl, BitVec.reduceBEq, Nat.reduceBEq, BitVec.ofNat_eq_ofNat, BitVec.reduceToNat, Nat.reduceMod, Nat.reduceLeDiff, Nat.reduceEqDiff, if_false, if_true, reduceIte, Nat.reduceAdd, Nat.reduceSub, beq_self_eq_true, Bool.and_self, Bool.and_true, Bool.true_and, Bool.or_false, Bool.false_or, Bool.or_true, Bool.true_or, decide_true, decide_false, Bool.false_eq_true, mkIf, w])

theorem mreduce (h : Hdr) (d a : Reg) (acc : BitVec 4) : Statement (.mreduce h d a acc) :=
  words_of rfl (hdrOf_packX ..) (fOp_packX ..) (fun w => and_left (and_left w)) rfl (fun w => by
    show mkIf _ _ = _
    simp only [packX, lowBits, mcImm, msImm, bit4, fD, fA, fB, fC, fFnR, fTy, fRm, fImm13, fFnI, fImm32, fPort, fPd, fImm20, fMc, fMem, fAtom, fChan, fCopy, fCvt, fBind, fMRead, zR3, zR3rm, zR2, zVm, zVrm, zVn, extract_low, extract_high, extract_all, extract_zero, extract_span, app_beq_zero, ofBool_beq_zero, getLsbD_app, zeroAt_eq, ofBool_getLsbD_zero, Bool.not_false, Bool.not_true, extract_ofBool, Nat.reduceLT, Nat.zero_add, Nat.zero_le, Nat.le_refl, BitVec.reduceBEq, Nat.reduceBEq, BitVec.ofNat_eq_ofNat, BitVec.reduceToNat, Nat.reduceMod, Nat.reduceLeDiff, Nat.reduceEqDiff, if_false, if_true, reduceIte, Nat.reduceAdd, Nat.reduceSub, beq_self_eq_true, Bool.and_self, Bool.and_true, Bool.true_and, Bool.or_false, Bool.false_or, Bool.or_true, Bool.true_or, decide_true, decide_false, Bool.false_eq_true, mkIf, w])

theorem mntag (h : Hdr) (ty : BitVec 4) (slot : BitVec 8) (full : Bool) : Statement (.mntag h ty slot full) :=
  words_of rfl (hdrOf_packX ..) (fOp_packX ..) (fun w => and_left w) rfl (fun w => by
    show mkIf _ _ = _
    simp only [packX, lowBits, mcImm, msImm, bit4, fD, fA, fB, fC, fFnR, fTy, fRm, fImm13, fFnI, fImm32, fPort, fPd, fImm20, fMc, fMem, fAtom, fChan, fCopy, fCvt, fBind, fMRead, zR3, zR3rm, zR2, zVm, zVrm, zVn, extract_low, extract_high, extract_all, extract_zero, extract_span, app_beq_zero, ofBool_beq_zero, getLsbD_app, zeroAt_eq, ofBool_getLsbD_zero, Bool.not_false, Bool.not_true, extract_ofBool, Nat.reduceLT, Nat.zero_add, Nat.zero_le, Nat.le_refl, BitVec.reduceBEq, Nat.reduceBEq, BitVec.ofNat_eq_ofNat, BitVec.reduceToNat, Nat.reduceMod, Nat.reduceLeDiff, Nat.reduceEqDiff, if_false, if_true, reduceIte, Nat.reduceAdd, Nat.reduceSub, beq_self_eq_true, Bool.and_self, Bool.and_true, Bool.true_and, Bool.or_false, Bool.false_or, Bool.or_true, Bool.true_or, decide_true, decide_false, Bool.false_eq_true, mkIf, w])

theorem mchk (h : Hdr) (d a : Reg) : Statement (.mchk h d a) :=
  words_of rfl (hdrOf_packX ..) (fOp_packX ..) (fun w => and_left w) rfl (fun w => by
    show mkIf _ _ = _
    simp only [packX, lowBits, mcImm, msImm, bit4, fD, fA, fB, fC, fFnR, fTy, fRm, fImm13, fFnI, fImm32, fPort, fPd, fImm20, fMc, fMem, fAtom, fChan, fCopy, fCvt, fBind, fMRead, zR3, zR3rm, zR2, zVm, zVrm, zVn, extract_low, extract_high, extract_all, extract_zero, extract_span, app_beq_zero, ofBool_beq_zero, getLsbD_app, zeroAt_eq, ofBool_getLsbD_zero, Bool.not_false, Bool.not_true, extract_ofBool, Nat.reduceLT, Nat.zero_add, Nat.zero_le, Nat.le_refl, BitVec.reduceBEq, Nat.reduceBEq, BitVec.ofNat_eq_ofNat, BitVec.reduceToNat, Nat.reduceMod, Nat.reduceLeDiff, Nat.reduceEqDiff, if_false, if_true, reduceIte, Nat.reduceAdd, Nat.reduceSub, beq_self_eq_true, Bool.and_self, Bool.and_true, Bool.true_and, Bool.or_false, Bool.false_or, Bool.or_true, Bool.true_or, decide_true, decide_false, Bool.false_eq_true, mkIf, w])

theorem vadd (h : Hdr) (ty : BitVec 4) (d a b : Reg) (rm : BitVec 3) (mc : MaskCtl) : Statement (.vadd h ty d a b rm mc) :=
  words_of rfl (hdrOf_packR ..) (fOp_packR ..) (fun w => and_left w) rfl (fun w => by
    show decValu _ _ = _
    unfold decValu
    rw [fFnR_packR]
    show mkIf _ _ = _
    simp only [fD_packR, fA_packR, fB_packR, fC_packR, fTy_packR, fRm_packR, fImm13_packR, zR3_packR, zR3rm_packR, zR2_packR, zVn_packR, fMc_packR, zVm_packR, zVrm_packR, zeroAt_31_5_packR, zeroAt_26_10_packR, zeroAt_26_5_packR, zeroAt_44_20_packR, zeroAt_48_3_packR, zeroAt_44_4_packR, zeroAt_51_13_packR, zeroAt_44_7_packR, ofBool_getLsbD_zero, Bool.not_false, Bool.not_true, extract_ofBool, Nat.reduceLT, Nat.zero_add, Nat.zero_le, Nat.le_refl, BitVec.reduceBEq, Nat.reduceBEq, BitVec.ofNat_eq_ofNat, BitVec.reduceToNat, Nat.reduceMod, Nat.reduceLeDiff, Nat.reduceEqDiff, if_false, if_true, reduceIte, Nat.reduceAdd, Nat.reduceSub, beq_self_eq_true, Bool.and_self, Bool.and_true, Bool.true_and, Bool.or_false, Bool.false_or, Bool.or_true, Bool.true_or, decide_true, decide_false, Bool.false_eq_true, mkIf, w])

theorem vsub (h : Hdr) (ty : BitVec 4) (d a b : Reg) (rm : BitVec 3) (mc : MaskCtl) : Statement (.vsub h ty d a b rm mc) :=
  words_of rfl (hdrOf_packR ..) (fOp_packR ..) (fun w => and_left w) rfl (fun w => by
    show decValu _ _ = _
    unfold decValu
    rw [fFnR_packR]
    show mkIf _ _ = _
    simp only [fD_packR, fA_packR, fB_packR, fC_packR, fTy_packR, fRm_packR, fImm13_packR, zR3_packR, zR3rm_packR, zR2_packR, zVn_packR, fMc_packR, zVm_packR, zVrm_packR, zeroAt_31_5_packR, zeroAt_26_10_packR, zeroAt_26_5_packR, zeroAt_44_20_packR, zeroAt_48_3_packR, zeroAt_44_4_packR, zeroAt_51_13_packR, zeroAt_44_7_packR, ofBool_getLsbD_zero, Bool.not_false, Bool.not_true, extract_ofBool, Nat.reduceLT, Nat.zero_add, Nat.zero_le, Nat.le_refl, BitVec.reduceBEq, Nat.reduceBEq, BitVec.ofNat_eq_ofNat, BitVec.reduceToNat, Nat.reduceMod, Nat.reduceLeDiff, Nat.reduceEqDiff, if_false, if_true, reduceIte, Nat.reduceAdd, Nat.reduceSub, beq_self_eq_true, Bool.and_self, Bool.and_true, Bool.true_and, Bool.or_false, Bool.false_or, Bool.or_true, Bool.true_or, decide_true, decide_false, Bool.false_eq_true, mkIf, w])

theorem vmul (h : Hdr) (ty : BitVec 4) (d a b : Reg) (rm : BitVec 3) (mc : MaskCtl) : Statement (.vmul h ty d a b rm mc) :=
  words_of rfl (hdrOf_packR ..) (fOp_packR ..) (fun w => and_left w) rfl (fun w => by
    show decValu _ _ = _
    unfold decValu
    rw [fFnR_packR]
    show mkIf _ _ = _
    simp only [fD_packR, fA_packR, fB_packR, fC_packR, fTy_packR, fRm_packR, fImm13_packR, zR3_packR, zR3rm_packR, zR2_packR, zVn_packR, fMc_packR, zVm_packR, zVrm_packR, zeroAt_31_5_packR, zeroAt_26_10_packR, zeroAt_26_5_packR, zeroAt_44_20_packR, zeroAt_48_3_packR, zeroAt_44_4_packR, zeroAt_51_13_packR, zeroAt_44_7_packR, ofBool_getLsbD_zero, Bool.not_false, Bool.not_true, extract_ofBool, Nat.reduceLT, Nat.zero_add, Nat.zero_le, Nat.le_refl, BitVec.reduceBEq, Nat.reduceBEq, BitVec.ofNat_eq_ofNat, BitVec.reduceToNat, Nat.reduceMod, Nat.reduceLeDiff, Nat.reduceEqDiff, if_false, if_true, reduceIte, Nat.reduceAdd, Nat.reduceSub, beq_self_eq_true, Bool.and_self, Bool.and_true, Bool.true_and, Bool.or_false, Bool.false_or, Bool.or_true, Bool.true_or, decide_true, decide_false, Bool.false_eq_true, mkIf, w])

theorem vmulh (h : Hdr) (ty : BitVec 4) (d a b : Reg) (mc : MaskCtl) : Statement (.vmulh h ty d a b mc) :=
  words_of rfl (hdrOf_packR ..) (fOp_packR ..) (fun w => and_left w) rfl (fun w => by
    show decValu _ _ = _
    unfold decValu
    rw [fFnR_packR]
    show mkIf _ _ = _
    simp only [fD_packR, fA_packR, fB_packR, fC_packR, fTy_packR, fRm_packR, fImm13_packR, zR3_packR, zR3rm_packR, zR2_packR, zVn_packR, fMc_packR, zVm_packR, zVrm_packR, zeroAt_31_5_packR, zeroAt_26_10_packR, zeroAt_26_5_packR, zeroAt_44_20_packR, zeroAt_48_3_packR, zeroAt_44_4_packR, zeroAt_51_13_packR, zeroAt_44_7_packR, ofBool_getLsbD_zero, Bool.not_false, Bool.not_true, extract_ofBool, Nat.reduceLT, Nat.zero_add, Nat.zero_le, Nat.le_refl, BitVec.reduceBEq, Nat.reduceBEq, BitVec.ofNat_eq_ofNat, BitVec.reduceToNat, Nat.reduceMod, Nat.reduceLeDiff, Nat.reduceEqDiff, if_false, if_true, reduceIte, Nat.reduceAdd, Nat.reduceSub, beq_self_eq_true, Bool.and_self, Bool.and_true, Bool.true_and, Bool.or_false, Bool.false_or, Bool.or_true, Bool.true_or, decide_true, decide_false, Bool.false_eq_true, mkIf, w])

theorem vmac (h : Hdr) (ty : BitVec 4) (d a b c : Reg) (rm : BitVec 3) (mc : MaskCtl) : Statement (.vmac h ty d a b c rm mc) :=
  words_of rfl (hdrOf_packR ..) (fOp_packR ..) (fun w => and_left w) rfl (fun w => by
    show decValu _ _ = _
    unfold decValu
    rw [fFnR_packR]
    show mkIf _ _ = _
    simp only [fD_packR, fA_packR, fB_packR, fC_packR, fTy_packR, fRm_packR, fImm13_packR, zR3_packR, zR3rm_packR, zR2_packR, zVn_packR, fMc_packR, zVm_packR, zVrm_packR, zeroAt_31_5_packR, zeroAt_26_10_packR, zeroAt_26_5_packR, zeroAt_44_20_packR, zeroAt_48_3_packR, zeroAt_44_4_packR, zeroAt_51_13_packR, zeroAt_44_7_packR, ofBool_getLsbD_zero, Bool.not_false, Bool.not_true, extract_ofBool, Nat.reduceLT, Nat.zero_add, Nat.zero_le, Nat.le_refl, BitVec.reduceBEq, Nat.reduceBEq, BitVec.ofNat_eq_ofNat, BitVec.reduceToNat, Nat.reduceMod, Nat.reduceLeDiff, Nat.reduceEqDiff, if_false, if_true, reduceIte, Nat.reduceAdd, Nat.reduceSub, beq_self_eq_true, Bool.and_self, Bool.and_true, Bool.true_and, Bool.or_false, Bool.false_or, Bool.or_true, Bool.true_or, decide_true, decide_false, Bool.false_eq_true, mkIf, w])

theorem vmin (h : Hdr) (ty : BitVec 4) (d a b : Reg) (mc : MaskCtl) : Statement (.vmin h ty d a b mc) :=
  words_of rfl (hdrOf_packR ..) (fOp_packR ..) (fun w => and_left w) rfl (fun w => by
    show decValu _ _ = _
    unfold decValu
    rw [fFnR_packR]
    show mkIf _ _ = _
    simp only [fD_packR, fA_packR, fB_packR, fC_packR, fTy_packR, fRm_packR, fImm13_packR, zR3_packR, zR3rm_packR, zR2_packR, zVn_packR, fMc_packR, zVm_packR, zVrm_packR, zeroAt_31_5_packR, zeroAt_26_10_packR, zeroAt_26_5_packR, zeroAt_44_20_packR, zeroAt_48_3_packR, zeroAt_44_4_packR, zeroAt_51_13_packR, zeroAt_44_7_packR, ofBool_getLsbD_zero, Bool.not_false, Bool.not_true, extract_ofBool, Nat.reduceLT, Nat.zero_add, Nat.zero_le, Nat.le_refl, BitVec.reduceBEq, Nat.reduceBEq, BitVec.ofNat_eq_ofNat, BitVec.reduceToNat, Nat.reduceMod, Nat.reduceLeDiff, Nat.reduceEqDiff, if_false, if_true, reduceIte, Nat.reduceAdd, Nat.reduceSub, beq_self_eq_true, Bool.and_self, Bool.and_true, Bool.true_and, Bool.or_false, Bool.false_or, Bool.or_true, Bool.true_or, decide_true, decide_false, Bool.false_eq_true, mkIf, w])

theorem vmax (h : Hdr) (ty : BitVec 4) (d a b : Reg) (mc : MaskCtl) : Statement (.vmax h ty d a b mc) :=
  words_of rfl (hdrOf_packR ..) (fOp_packR ..) (fun w => and_left w) rfl (fun w => by
    show decValu _ _ = _
    unfold decValu
    rw [fFnR_packR]
    show mkIf _ _ = _
    simp only [fD_packR, fA_packR, fB_packR, fC_packR, fTy_packR, fRm_packR, fImm13_packR, zR3_packR, zR3rm_packR, zR2_packR, zVn_packR, fMc_packR, zVm_packR, zVrm_packR, zeroAt_31_5_packR, zeroAt_26_10_packR, zeroAt_26_5_packR, zeroAt_44_20_packR, zeroAt_48_3_packR, zeroAt_44_4_packR, zeroAt_51_13_packR, zeroAt_44_7_packR, ofBool_getLsbD_zero, Bool.not_false, Bool.not_true, extract_ofBool, Nat.reduceLT, Nat.zero_add, Nat.zero_le, Nat.le_refl, BitVec.reduceBEq, Nat.reduceBEq, BitVec.ofNat_eq_ofNat, BitVec.reduceToNat, Nat.reduceMod, Nat.reduceLeDiff, Nat.reduceEqDiff, if_false, if_true, reduceIte, Nat.reduceAdd, Nat.reduceSub, beq_self_eq_true, Bool.and_self, Bool.and_true, Bool.true_and, Bool.or_false, Bool.false_or, Bool.or_true, Bool.true_or, decide_true, decide_false, Bool.false_eq_true, mkIf, w])

theorem vabs (h : Hdr) (ty : BitVec 4) (d a : Reg) (rm : BitVec 3) (mc : MaskCtl) : Statement (.vabs h ty d a rm mc) :=
  words_of rfl (hdrOf_packR ..) (fOp_packR ..) (fun w => and_left w) rfl (fun w => by
    show decValu _ _ = _
    unfold decValu
    rw [fFnR_packR]
    show mkIf _ _ = _
    simp only [fD_packR, fA_packR, fB_packR, fC_packR, fTy_packR, fRm_packR, fImm13_packR, zR3_packR, zR3rm_packR, zR2_packR, zVn_packR, fMc_packR, zVm_packR, zVrm_packR, zeroAt_31_5_packR, zeroAt_26_10_packR, zeroAt_26_5_packR, zeroAt_44_20_packR, zeroAt_48_3_packR, zeroAt_44_4_packR, zeroAt_51_13_packR, zeroAt_44_7_packR, ofBool_getLsbD_zero, Bool.not_false, Bool.not_true, extract_ofBool, Nat.reduceLT, Nat.zero_add, Nat.zero_le, Nat.le_refl, BitVec.reduceBEq, Nat.reduceBEq, BitVec.ofNat_eq_ofNat, BitVec.reduceToNat, Nat.reduceMod, Nat.reduceLeDiff, Nat.reduceEqDiff, if_false, if_true, reduceIte, Nat.reduceAdd, Nat.reduceSub, beq_self_eq_true, Bool.and_self, Bool.and_true, Bool.true_and, Bool.or_false, Bool.false_or, Bool.or_true, Bool.true_or, decide_true, decide_false, Bool.false_eq_true, mkIf, w])

theorem vneg (h : Hdr) (ty : BitVec 4) (d a : Reg) (rm : BitVec 3) (mc : MaskCtl) : Statement (.vneg h ty d a rm mc) :=
  words_of rfl (hdrOf_packR ..) (fOp_packR ..) (fun w => and_left w) rfl (fun w => by
    show decValu _ _ = _
    unfold decValu
    rw [fFnR_packR]
    show mkIf _ _ = _
    simp only [fD_packR, fA_packR, fB_packR, fC_packR, fTy_packR, fRm_packR, fImm13_packR, zR3_packR, zR3rm_packR, zR2_packR, zVn_packR, fMc_packR, zVm_packR, zVrm_packR, zeroAt_31_5_packR, zeroAt_26_10_packR, zeroAt_26_5_packR, zeroAt_44_20_packR, zeroAt_48_3_packR, zeroAt_44_4_packR, zeroAt_51_13_packR, zeroAt_44_7_packR, ofBool_getLsbD_zero, Bool.not_false, Bool.not_true, extract_ofBool, Nat.reduceLT, Nat.zero_add, Nat.zero_le, Nat.le_refl, BitVec.reduceBEq, Nat.reduceBEq, BitVec.ofNat_eq_ofNat, BitVec.reduceToNat, Nat.reduceMod, Nat.reduceLeDiff, Nat.reduceEqDiff, if_false, if_true, reduceIte, Nat.reduceAdd, Nat.reduceSub, beq_self_eq_true, Bool.and_self, Bool.and_true, Bool.true_and, Bool.or_false, Bool.false_or, Bool.or_true, Bool.true_or, decide_true, decide_false, Bool.false_eq_true, mkIf, w])

theorem vand (h : Hdr) (ty : BitVec 4) (d a b : Reg) (mc : MaskCtl) : Statement (.vand h ty d a b mc) :=
  words_of rfl (hdrOf_packR ..) (fOp_packR ..) (fun w => and_left w) rfl (fun w => by
    show decValu _ _ = _
    unfold decValu
    rw [fFnR_packR]
    show mkIf _ _ = _
    simp only [fD_packR, fA_packR, fB_packR, fC_packR, fTy_packR, fRm_packR, fImm13_packR, zR3_packR, zR3rm_packR, zR2_packR, zVn_packR, fMc_packR, zVm_packR, zVrm_packR, zeroAt_31_5_packR, zeroAt_26_10_packR, zeroAt_26_5_packR, zeroAt_44_20_packR, zeroAt_48_3_packR, zeroAt_44_4_packR, zeroAt_51_13_packR, zeroAt_44_7_packR, ofBool_getLsbD_zero, Bool.not_false, Bool.not_true, extract_ofBool, Nat.reduceLT, Nat.zero_add, Nat.zero_le, Nat.le_refl, BitVec.reduceBEq, Nat.reduceBEq, BitVec.ofNat_eq_ofNat, BitVec.reduceToNat, Nat.reduceMod, Nat.reduceLeDiff, Nat.reduceEqDiff, if_false, if_true, reduceIte, Nat.reduceAdd, Nat.reduceSub, beq_self_eq_true, Bool.and_self, Bool.and_true, Bool.true_and, Bool.or_false, Bool.false_or, Bool.or_true, Bool.true_or, decide_true, decide_false, Bool.false_eq_true, mkIf, w])

theorem vor (h : Hdr) (ty : BitVec 4) (d a b : Reg) (mc : MaskCtl) : Statement (.vor h ty d a b mc) :=
  words_of rfl (hdrOf_packR ..) (fOp_packR ..) (fun w => and_left w) rfl (fun w => by
    show decValu _ _ = _
    unfold decValu
    rw [fFnR_packR]
    show mkIf _ _ = _
    simp only [fD_packR, fA_packR, fB_packR, fC_packR, fTy_packR, fRm_packR, fImm13_packR, zR3_packR, zR3rm_packR, zR2_packR, zVn_packR, fMc_packR, zVm_packR, zVrm_packR, zeroAt_31_5_packR, zeroAt_26_10_packR, zeroAt_26_5_packR, zeroAt_44_20_packR, zeroAt_48_3_packR, zeroAt_44_4_packR, zeroAt_51_13_packR, zeroAt_44_7_packR, ofBool_getLsbD_zero, Bool.not_false, Bool.not_true, extract_ofBool, Nat.reduceLT, Nat.zero_add, Nat.zero_le, Nat.le_refl, BitVec.reduceBEq, Nat.reduceBEq, BitVec.ofNat_eq_ofNat, BitVec.reduceToNat, Nat.reduceMod, Nat.reduceLeDiff, Nat.reduceEqDiff, if_false, if_true, reduceIte, Nat.reduceAdd, Nat.reduceSub, beq_self_eq_true, Bool.and_self, Bool.and_true, Bool.true_and, Bool.or_false, Bool.false_or, Bool.or_true, Bool.true_or, decide_true, decide_false, Bool.false_eq_true, mkIf, w])

theorem vxor (h : Hdr) (ty : BitVec 4) (d a b : Reg) (mc : MaskCtl) : Statement (.vxor h ty d a b mc) :=
  words_of rfl (hdrOf_packR ..) (fOp_packR ..) (fun w => and_left w) rfl (fun w => by
    show decValu _ _ = _
    unfold decValu
    rw [fFnR_packR]
    show mkIf _ _ = _
    simp only [fD_packR, fA_packR, fB_packR, fC_packR, fTy_packR, fRm_packR, fImm13_packR, zR3_packR, zR3rm_packR, zR2_packR, zVn_packR, fMc_packR, zVm_packR, zVrm_packR, zeroAt_31_5_packR, zeroAt_26_10_packR, zeroAt_26_5_packR, zeroAt_44_20_packR, zeroAt_48_3_packR, zeroAt_44_4_packR, zeroAt_51_13_packR, zeroAt_44_7_packR, ofBool_getLsbD_zero, Bool.not_false, Bool.not_true, extract_ofBool, Nat.reduceLT, Nat.zero_add, Nat.zero_le, Nat.le_refl, BitVec.reduceBEq, Nat.reduceBEq, BitVec.ofNat_eq_ofNat, BitVec.reduceToNat, Nat.reduceMod, Nat.reduceLeDiff, Nat.reduceEqDiff, if_false, if_true, reduceIte, Nat.reduceAdd, Nat.reduceSub, beq_self_eq_true, Bool.and_self, Bool.and_true, Bool.true_and, Bool.or_false, Bool.false_or, Bool.or_true, Bool.true_or, decide_true, decide_false, Bool.false_eq_true, mkIf, w])

theorem vnot (h : Hdr) (ty : BitVec 4) (d a : Reg) (mc : MaskCtl) : Statement (.vnot h ty d a mc) :=
  words_of rfl (hdrOf_packR ..) (fOp_packR ..) (fun w => and_left w) rfl (fun w => by
    show decValu _ _ = _
    unfold decValu
    rw [fFnR_packR]
    show mkIf _ _ = _
    simp only [fD_packR, fA_packR, fB_packR, fC_packR, fTy_packR, fRm_packR, fImm13_packR, zR3_packR, zR3rm_packR, zR2_packR, zVn_packR, fMc_packR, zVm_packR, zVrm_packR, zeroAt_31_5_packR, zeroAt_26_10_packR, zeroAt_26_5_packR, zeroAt_44_20_packR, zeroAt_48_3_packR, zeroAt_44_4_packR, zeroAt_51_13_packR, zeroAt_44_7_packR, ofBool_getLsbD_zero, Bool.not_false, Bool.not_true, extract_ofBool, Nat.reduceLT, Nat.zero_add, Nat.zero_le, Nat.le_refl, BitVec.reduceBEq, Nat.reduceBEq, BitVec.ofNat_eq_ofNat, BitVec.reduceToNat, Nat.reduceMod, Nat.reduceLeDiff, Nat.reduceEqDiff, if_false, if_true, reduceIte, Nat.reduceAdd, Nat.reduceSub, beq_self_eq_true, Bool.and_self, Bool.and_true, Bool.true_and, Bool.or_false, Bool.false_or, Bool.or_true, Bool.true_or, decide_true, decide_false, Bool.false_eq_true, mkIf, w])

theorem vandn (h : Hdr) (ty : BitVec 4) (d a b : Reg) (mc : MaskCtl) : Statement (.vandn h ty d a b mc) :=
  words_of rfl (hdrOf_packR ..) (fOp_packR ..) (fun w => and_left w) rfl (fun w => by
    show decValu _ _ = _
    unfold decValu
    rw [fFnR_packR]
    show mkIf _ _ = _
    simp only [fD_packR, fA_packR, fB_packR, fC_packR, fTy_packR, fRm_packR, fImm13_packR, zR3_packR, zR3rm_packR, zR2_packR, zVn_packR, fMc_packR, zVm_packR, zVrm_packR, zeroAt_31_5_packR, zeroAt_26_10_packR, zeroAt_26_5_packR, zeroAt_44_20_packR, zeroAt_48_3_packR, zeroAt_44_4_packR, zeroAt_51_13_packR, zeroAt_44_7_packR, ofBool_getLsbD_zero, Bool.not_false, Bool.not_true, extract_ofBool, Nat.reduceLT, Nat.zero_add, Nat.zero_le, Nat.le_refl, BitVec.reduceBEq, Nat.reduceBEq, BitVec.ofNat_eq_ofNat, BitVec.reduceToNat, Nat.reduceMod, Nat.reduceLeDiff, Nat.reduceEqDiff, if_false, if_true, reduceIte, Nat.reduceAdd, Nat.reduceSub, beq_self_eq_true, Bool.and_self, Bool.and_true, Bool.true_and, Bool.or_false, Bool.false_or, Bool.or_true, Bool.true_or, decide_true, decide_false, Bool.false_eq_true, mkIf, w])

theorem vshl (h : Hdr) (ty : BitVec 4) (d a b : Reg) (mc : MaskCtl) : Statement (.vshl h ty d a b mc) :=
  words_of rfl (hdrOf_packR ..) (fOp_packR ..) (fun w => and_left w) rfl (fun w => by
    show decValu _ _ = _
    unfold decValu
    rw [fFnR_packR]
    show mkIf _ _ = _
    simp only [fD_packR, fA_packR, fB_packR, fC_packR, fTy_packR, fRm_packR, fImm13_packR, zR3_packR, zR3rm_packR, zR2_packR, zVn_packR, fMc_packR, zVm_packR, zVrm_packR, zeroAt_31_5_packR, zeroAt_26_10_packR, zeroAt_26_5_packR, zeroAt_44_20_packR, zeroAt_48_3_packR, zeroAt_44_4_packR, zeroAt_51_13_packR, zeroAt_44_7_packR, ofBool_getLsbD_zero, Bool.not_false, Bool.not_true, extract_ofBool, Nat.reduceLT, Nat.zero_add, Nat.zero_le, Nat.le_refl, BitVec.reduceBEq, Nat.reduceBEq, BitVec.ofNat_eq_ofNat, BitVec.reduceToNat, Nat.reduceMod, Nat.reduceLeDiff, Nat.reduceEqDiff, if_false, if_true, reduceIte, Nat.reduceAdd, Nat.reduceSub, beq_self_eq_true, Bool.and_self, Bool.and_true, Bool.true_and, Bool.or_false, Bool.false_or, Bool.or_true, Bool.true_or, decide_true, decide_false, Bool.false_eq_true, mkIf, w])

theorem vshr (h : Hdr) (ty : BitVec 4) (d a b : Reg) (mc : MaskCtl) : Statement (.vshr h ty d a b mc) :=
  words_of rfl (hdrOf_packR ..) (fOp_packR ..) (fun w => and_left w) rfl (fun w => by
    show decValu _ _ = _
    unfold decValu
    rw [fFnR_packR]
    show mkIf _ _ = _
    simp only [fD_packR, fA_packR, fB_packR, fC_packR, fTy_packR, fRm_packR, fImm13_packR, zR3_packR, zR3rm_packR, zR2_packR, zVn_packR, fMc_packR, zVm_packR, zVrm_packR, zeroAt_31_5_packR, zeroAt_26_10_packR, zeroAt_26_5_packR, zeroAt_44_20_packR, zeroAt_48_3_packR, zeroAt_44_4_packR, zeroAt_51_13_packR, zeroAt_44_7_packR, ofBool_getLsbD_zero, Bool.not_false, Bool.not_true, extract_ofBool, Nat.reduceLT, Nat.zero_add, Nat.zero_le, Nat.le_refl, BitVec.reduceBEq, Nat.reduceBEq, BitVec.ofNat_eq_ofNat, BitVec.reduceToNat, Nat.reduceMod, Nat.reduceLeDiff, Nat.reduceEqDiff, if_false, if_true, reduceIte, Nat.reduceAdd, Nat.reduceSub, beq_self_eq_true, Bool.and_self, Bool.and_true, Bool.true_and, Bool.or_false, Bool.false_or, Bool.or_true, Bool.true_or, decide_true, decide_false, Bool.false_eq_true, mkIf, w])

theorem vsar (h : Hdr) (ty : BitVec 4) (d a b : Reg) (mc : MaskCtl) : Statement (.vsar h ty d a b mc) :=
  words_of rfl (hdrOf_packR ..) (fOp_packR ..) (fun w => and_left w) rfl (fun w => by
    show decValu _ _ = _
    unfold decValu
    rw [fFnR_packR]
    show mkIf _ _ = _
    simp only [fD_packR, fA_packR, fB_packR, fC_packR, fTy_packR, fRm_packR, fImm13_packR, zR3_packR, zR3rm_packR, zR2_packR, zVn_packR, fMc_packR, zVm_packR, zVrm_packR, zeroAt_31_5_packR, zeroAt_26_10_packR, zeroAt_26_5_packR, zeroAt_44_20_packR, zeroAt_48_3_packR, zeroAt_44_4_packR, zeroAt_51_13_packR, zeroAt_44_7_packR, ofBool_getLsbD_zero, Bool.not_false, Bool.not_true, extract_ofBool, Nat.reduceLT, Nat.zero_add, Nat.zero_le, Nat.le_refl, BitVec.reduceBEq, Nat.reduceBEq, BitVec.ofNat_eq_ofNat, BitVec.reduceToNat, Nat.reduceMod, Nat.reduceLeDiff, Nat.reduceEqDiff, if_false, if_true, reduceIte, Nat.reduceAdd, Nat.reduceSub, beq_self_eq_true, Bool.and_self, Bool.and_true, Bool.true_and, Bool.or_false, Bool.false_or, Bool.or_true, Bool.true_or, decide_true, decide_false, Bool.false_eq_true, mkIf, w])

theorem vsel (h : Hdr) (ty : BitVec 4) (d a b c : Reg) : Statement (.vsel h ty d a b c) :=
  words_of rfl (hdrOf_packR ..) (fOp_packR ..) (fun w => and_left (and_left w)) rfl (fun w => by
    show decValu _ _ = _
    unfold decValu
    rw [fFnR_packR]
    show mkIf _ _ = _
    simp only [fD_packR, fA_packR, fB_packR, fC_packR, fTy_packR, fRm_packR, fImm13_packR, zR3_packR, zR3rm_packR, zR2_packR, zVn_packR, fMc_packR, zVm_packR, zVrm_packR, zeroAt_31_5_packR, zeroAt_26_10_packR, zeroAt_26_5_packR, zeroAt_44_20_packR, zeroAt_48_3_packR, zeroAt_44_4_packR, zeroAt_51_13_packR, zeroAt_44_7_packR, ofBool_getLsbD_zero, Bool.not_false, Bool.not_true, extract_ofBool, Nat.reduceLT, Nat.zero_add, Nat.zero_le, Nat.le_refl, BitVec.reduceBEq, Nat.reduceBEq, BitVec.ofNat_eq_ofNat, BitVec.reduceToNat, Nat.reduceMod, Nat.reduceLeDiff, Nat.reduceEqDiff, if_false, if_true, reduceIte, Nat.reduceAdd, Nat.reduceSub, beq_self_eq_true, Bool.and_self, Bool.and_true, Bool.true_and, Bool.or_false, Bool.false_or, Bool.or_true, Bool.true_or, decide_true, decide_false, Bool.false_eq_true, mkIf, w])

theorem vcmp (h : Hdr) (cc : BitVec 4) (ty : BitVec 4) (d a b : Reg) (mc : MaskCtl) : Statement (.vcmp h cc ty d a b mc) :=
  words_of rfl (hdrOf_packR ..) (fOp_packR ..) (fun w => and_left (and_left (and_left w))) rfl (fun w => by
    show mkIf _ _ = _
    simp only [packR, lowBits, mcImm, msImm, bit4, fD, fA, fB, fC, fFnR, fTy, fRm, fImm13, fFnI, fImm32, fPort, fPd, fImm20, fMc, fMem, fAtom, fChan, fCopy, fCvt, fBind, fMRead, zR3, zR3rm, zR2, zVm, zVrm, zVn, extract_low, extract_high, extract_all, extract_zero, extract_span, app_beq_zero, ofBool_beq_zero, getLsbD_app, zeroAt_eq, ofBool_getLsbD_zero, Bool.not_false, Bool.not_true, extract_ofBool, Nat.reduceLT, Nat.zero_add, Nat.zero_le, Nat.le_refl, BitVec.reduceBEq, Nat.reduceBEq, BitVec.ofNat_eq_ofNat, BitVec.reduceToNat, Nat.reduceMod, Nat.reduceLeDiff, Nat.reduceEqDiff, if_false, if_true, reduceIte, Nat.reduceAdd, Nat.reduceSub, beq_self_eq_true, Bool.and_self, Bool.and_true, Bool.true_and, Bool.or_false, Bool.false_or, Bool.or_true, Bool.true_or, decide_true, decide_false, Bool.false_eq_true, mkIf, w])

theorem vfadd (h : Hdr) (d a b : Reg) (rm : BitVec 3) (mc : MaskCtl) : Statement (.vfadd h d a b rm mc) :=
  words_of rfl (hdrOf_packR ..) (fOp_packR ..) (fun w => w) rfl (fun w => by
    show decVfp _ _ _ = _
    unfold decVfp
    rw [fFnR_packR]
    show mkIf _ _ = _
    simp only [fD_packR, fA_packR, fB_packR, fC_packR, fTy_packR, fRm_packR, fImm13_packR, zR3_packR, zR3rm_packR, zR2_packR, zVn_packR, fMc_packR, zVm_packR, zVrm_packR, zeroAt_31_5_packR, zeroAt_26_10_packR, zeroAt_26_5_packR, zeroAt_44_20_packR, zeroAt_48_3_packR, zeroAt_44_4_packR, zeroAt_51_13_packR, zeroAt_44_7_packR, ofBool_getLsbD_zero, Bool.not_false, Bool.not_true, extract_ofBool, Nat.reduceLT, Nat.zero_add, Nat.zero_le, Nat.le_refl, BitVec.reduceBEq, Nat.reduceBEq, BitVec.ofNat_eq_ofNat, BitVec.reduceToNat, Nat.reduceMod, Nat.reduceLeDiff, Nat.reduceEqDiff, if_false, if_true, reduceIte, Nat.reduceAdd, Nat.reduceSub, beq_self_eq_true, Bool.and_self, Bool.and_true, Bool.true_and, Bool.or_false, Bool.false_or, Bool.or_true, Bool.true_or, decide_true, decide_false, Bool.false_eq_true, mkIf, w])

theorem vfsub (h : Hdr) (d a b : Reg) (rm : BitVec 3) (mc : MaskCtl) : Statement (.vfsub h d a b rm mc) :=
  words_of rfl (hdrOf_packR ..) (fOp_packR ..) (fun w => w) rfl (fun w => by
    show decVfp _ _ _ = _
    unfold decVfp
    rw [fFnR_packR]
    show mkIf _ _ = _
    simp only [fD_packR, fA_packR, fB_packR, fC_packR, fTy_packR, fRm_packR, fImm13_packR, zR3_packR, zR3rm_packR, zR2_packR, zVn_packR, fMc_packR, zVm_packR, zVrm_packR, zeroAt_31_5_packR, zeroAt_26_10_packR, zeroAt_26_5_packR, zeroAt_44_20_packR, zeroAt_48_3_packR, zeroAt_44_4_packR, zeroAt_51_13_packR, zeroAt_44_7_packR, ofBool_getLsbD_zero, Bool.not_false, Bool.not_true, extract_ofBool, Nat.reduceLT, Nat.zero_add, Nat.zero_le, Nat.le_refl, BitVec.reduceBEq, Nat.reduceBEq, BitVec.ofNat_eq_ofNat, BitVec.reduceToNat, Nat.reduceMod, Nat.reduceLeDiff, Nat.reduceEqDiff, if_false, if_true, reduceIte, Nat.reduceAdd, Nat.reduceSub, beq_self_eq_true, Bool.and_self, Bool.and_true, Bool.true_and, Bool.or_false, Bool.false_or, Bool.or_true, Bool.true_or, decide_true, decide_false, Bool.false_eq_true, mkIf, w])

theorem vfmul (h : Hdr) (d a b : Reg) (rm : BitVec 3) (mc : MaskCtl) : Statement (.vfmul h d a b rm mc) :=
  words_of rfl (hdrOf_packR ..) (fOp_packR ..) (fun w => w) rfl (fun w => by
    show decVfp _ _ _ = _
    unfold decVfp
    rw [fFnR_packR]
    show mkIf _ _ = _
    simp only [fD_packR, fA_packR, fB_packR, fC_packR, fTy_packR, fRm_packR, fImm13_packR, zR3_packR, zR3rm_packR, zR2_packR, zVn_packR, fMc_packR, zVm_packR, zVrm_packR, zeroAt_31_5_packR, zeroAt_26_10_packR, zeroAt_26_5_packR, zeroAt_44_20_packR, zeroAt_48_3_packR, zeroAt_44_4_packR, zeroAt_51_13_packR, zeroAt_44_7_packR, ofBool_getLsbD_zero, Bool.not_false, Bool.not_true, extract_ofBool, Nat.reduceLT, Nat.zero_add, Nat.zero_le, Nat.le_refl, BitVec.reduceBEq, Nat.reduceBEq, BitVec.ofNat_eq_ofNat, BitVec.reduceToNat, Nat.reduceMod, Nat.reduceLeDiff, Nat.reduceEqDiff, if_false, if_true, reduceIte, Nat.reduceAdd, Nat.reduceSub, beq_self_eq_true, Bool.and_self, Bool.and_true, Bool.true_and, Bool.or_false, Bool.false_or, Bool.or_true, Bool.true_or, decide_true, decide_false, Bool.false_eq_true, mkIf, w])

theorem vfmin (h : Hdr) (d a b : Reg) (rm : BitVec 3) (mc : MaskCtl) : Statement (.vfmin h d a b rm mc) :=
  words_of rfl (hdrOf_packR ..) (fOp_packR ..) (fun w => w) rfl (fun w => by
    show decVfp _ _ _ = _
    unfold decVfp
    rw [fFnR_packR]
    show mkIf _ _ = _
    simp only [fD_packR, fA_packR, fB_packR, fC_packR, fTy_packR, fRm_packR, fImm13_packR, zR3_packR, zR3rm_packR, zR2_packR, zVn_packR, fMc_packR, zVm_packR, zVrm_packR, zeroAt_31_5_packR, zeroAt_26_10_packR, zeroAt_26_5_packR, zeroAt_44_20_packR, zeroAt_48_3_packR, zeroAt_44_4_packR, zeroAt_51_13_packR, zeroAt_44_7_packR, ofBool_getLsbD_zero, Bool.not_false, Bool.not_true, extract_ofBool, Nat.reduceLT, Nat.zero_add, Nat.zero_le, Nat.le_refl, BitVec.reduceBEq, Nat.reduceBEq, BitVec.ofNat_eq_ofNat, BitVec.reduceToNat, Nat.reduceMod, Nat.reduceLeDiff, Nat.reduceEqDiff, if_false, if_true, reduceIte, Nat.reduceAdd, Nat.reduceSub, beq_self_eq_true, Bool.and_self, Bool.and_true, Bool.true_and, Bool.or_false, Bool.false_or, Bool.or_true, Bool.true_or, decide_true, decide_false, Bool.false_eq_true, mkIf, w])

theorem vfmax (h : Hdr) (d a b : Reg) (rm : BitVec 3) (mc : MaskCtl) : Statement (.vfmax h d a b rm mc) :=
  words_of rfl (hdrOf_packR ..) (fOp_packR ..) (fun w => w) rfl (fun w => by
    show decVfp _ _ _ = _
    unfold decVfp
    rw [fFnR_packR]
    show mkIf _ _ = _
    simp only [fD_packR, fA_packR, fB_packR, fC_packR, fTy_packR, fRm_packR, fImm13_packR, zR3_packR, zR3rm_packR, zR2_packR, zVn_packR, fMc_packR, zVm_packR, zVrm_packR, zeroAt_31_5_packR, zeroAt_26_10_packR, zeroAt_26_5_packR, zeroAt_44_20_packR, zeroAt_48_3_packR, zeroAt_44_4_packR, zeroAt_51_13_packR, zeroAt_44_7_packR, ofBool_getLsbD_zero, Bool.not_false, Bool.not_true, extract_ofBool, Nat.reduceLT, Nat.zero_add, Nat.zero_le, Nat.le_refl, BitVec.reduceBEq, Nat.reduceBEq, BitVec.ofNat_eq_ofNat, BitVec.reduceToNat, Nat.reduceMod, Nat.reduceLeDiff, Nat.reduceEqDiff, if_false, if_true, reduceIte, Nat.reduceAdd, Nat.reduceSub, beq_self_eq_true, Bool.and_self, Bool.and_true, Bool.true_and, Bool.or_false, Bool.false_or, Bool.or_true, Bool.true_or, decide_true, decide_false, Bool.false_eq_true, mkIf, w])

theorem vfabs (h : Hdr) (d a : Reg) (rm : BitVec 3) (mc : MaskCtl) : Statement (.vfabs h d a rm mc) :=
  words_of rfl (hdrOf_packR ..) (fOp_packR ..) (fun w => w) rfl (fun w => by
    show decVfp _ _ _ = _
    unfold decVfp
    rw [fFnR_packR]
    show mkIf _ _ = _
    simp only [fD_packR, fA_packR, fB_packR, fC_packR, fTy_packR, fRm_packR, fImm13_packR, zR3_packR, zR3rm_packR, zR2_packR, zVn_packR, fMc_packR, zVm_packR, zVrm_packR, zeroAt_31_5_packR, zeroAt_26_10_packR, zeroAt_26_5_packR, zeroAt_44_20_packR, zeroAt_48_3_packR, zeroAt_44_4_packR, zeroAt_51_13_packR, zeroAt_44_7_packR, ofBool_getLsbD_zero, Bool.not_false, Bool.not_true, extract_ofBool, Nat.reduceLT, Nat.zero_add, Nat.zero_le, Nat.le_refl, BitVec.reduceBEq, Nat.reduceBEq, BitVec.ofNat_eq_ofNat, BitVec.reduceToNat, Nat.reduceMod, Nat.reduceLeDiff, Nat.reduceEqDiff, if_false, if_true, reduceIte, Nat.reduceAdd, Nat.reduceSub, beq_self_eq_true, Bool.and_self, Bool.and_true, Bool.true_and, Bool.or_false, Bool.false_or, Bool.or_true, Bool.true_or, decide_true, decide_false, Bool.false_eq_true, mkIf, w])

theorem vfneg (h : Hdr) (d a : Reg) (rm : BitVec 3) (mc : MaskCtl) : Statement (.vfneg h d a rm mc) :=
  words_of rfl (hdrOf_packR ..) (fOp_packR ..) (fun w => w) rfl (fun w => by
    show decVfp _ _ _ = _
    unfold decVfp
    rw [fFnR_packR]
    show mkIf _ _ = _
    simp only [fD_packR, fA_packR, fB_packR, fC_packR, fTy_packR, fRm_packR, fImm13_packR, zR3_packR, zR3rm_packR, zR2_packR, zVn_packR, fMc_packR, zVm_packR, zVrm_packR, zeroAt_31_5_packR, zeroAt_26_10_packR, zeroAt_26_5_packR, zeroAt_44_20_packR, zeroAt_48_3_packR, zeroAt_44_4_packR, zeroAt_51_13_packR, zeroAt_44_7_packR, ofBool_getLsbD_zero, Bool.not_false, Bool.not_true, extract_ofBool, Nat.reduceLT, Nat.zero_add, Nat.zero_le, Nat.le_refl, BitVec.reduceBEq, Nat.reduceBEq, BitVec.ofNat_eq_ofNat, BitVec.reduceToNat, Nat.reduceMod, Nat.reduceLeDiff, Nat.reduceEqDiff, if_false, if_true, reduceIte, Nat.reduceAdd, Nat.reduceSub, beq_self_eq_true, Bool.and_self, Bool.and_true, Bool.true_and, Bool.or_false, Bool.false_or, Bool.or_true, Bool.true_or, decide_true, decide_false, Bool.false_eq_true, mkIf, w])

theorem vfma (h : Hdr) (d a b c : Reg) (rm : BitVec 3) (mc : MaskCtl) : Statement (.vfma h d a b c rm mc) :=
  words_of rfl (hdrOf_packR ..) (fOp_packR ..) (fun w => w) rfl (fun w => by
    show decVfp _ _ _ = _
    unfold decVfp
    rw [fFnR_packR]
    show mkIf _ _ = _
    simp only [fD_packR, fA_packR, fB_packR, fC_packR, fTy_packR, fRm_packR, fImm13_packR, zR3_packR, zR3rm_packR, zR2_packR, zVn_packR, fMc_packR, zVm_packR, zVrm_packR, zeroAt_31_5_packR, zeroAt_26_10_packR, zeroAt_26_5_packR, zeroAt_44_20_packR, zeroAt_48_3_packR, zeroAt_44_4_packR, zeroAt_51_13_packR, zeroAt_44_7_packR, ofBool_getLsbD_zero, Bool.not_false, Bool.not_true, extract_ofBool, Nat.reduceLT, Nat.zero_add, Nat.zero_le, Nat.le_refl, BitVec.reduceBEq, Nat.reduceBEq, BitVec.ofNat_eq_ofNat, BitVec.reduceToNat, Nat.reduceMod, Nat.reduceLeDiff, Nat.reduceEqDiff, if_false, if_true, reduceIte, Nat.reduceAdd, Nat.reduceSub, beq_self_eq_true, Bool.and_self, Bool.and_true, Bool.true_and, Bool.or_false, Bool.false_or, Bool.or_true, Bool.true_or, decide_true, decide_false, Bool.false_eq_true, mkIf, w])

theorem vfms (h : Hdr) (d a b c : Reg) (rm : BitVec 3) (mc : MaskCtl) : Statement (.vfms h d a b c rm mc) :=
  words_of rfl (hdrOf_packR ..) (fOp_packR ..) (fun w => w) rfl (fun w => by
    show decVfp _ _ _ = _
    unfold decVfp
    rw [fFnR_packR]
    show mkIf _ _ = _
    simp only [fD_packR, fA_packR, fB_packR, fC_packR, fTy_packR, fRm_packR, fImm13_packR, zR3_packR, zR3rm_packR, zR2_packR, zVn_packR, fMc_packR, zVm_packR, zVrm_packR, zeroAt_31_5_packR, zeroAt_26_10_packR, zeroAt_26_5_packR, zeroAt_44_20_packR, zeroAt_48_3_packR, zeroAt_44_4_packR, zeroAt_51_13_packR, zeroAt_44_7_packR, ofBool_getLsbD_zero, Bool.not_false, Bool.not_true, extract_ofBool, Nat.reduceLT, Nat.zero_add, Nat.zero_le, Nat.le_refl, BitVec.reduceBEq, Nat.reduceBEq, BitVec.ofNat_eq_ofNat, BitVec.reduceToNat, Nat.reduceMod, Nat.reduceLeDiff, Nat.reduceEqDiff, if_false, if_true, reduceIte, Nat.reduceAdd, Nat.reduceSub, beq_self_eq_true, Bool.and_self, Bool.and_true, Bool.true_and, Bool.or_false, Bool.false_or, Bool.or_true, Bool.true_or, decide_true, decide_false, Bool.false_eq_true, mkIf, w])

theorem vfnma (h : Hdr) (d a b c : Reg) (rm : BitVec 3) (mc : MaskCtl) : Statement (.vfnma h d a b c rm mc) :=
  words_of rfl (hdrOf_packR ..) (fOp_packR ..) (fun w => w) rfl (fun w => by
    show decVfp _ _ _ = _
    unfold decVfp
    rw [fFnR_packR]
    show mkIf _ _ = _
    simp only [fD_packR, fA_packR, fB_packR, fC_packR, fTy_packR, fRm_packR, fImm13_packR, zR3_packR, zR3rm_packR, zR2_packR, zVn_packR, fMc_packR, zVm_packR, zVrm_packR, zeroAt_31_5_packR, zeroAt_26_10_packR, zeroAt_26_5_packR, zeroAt_44_20_packR, zeroAt_48_3_packR, zeroAt_44_4_packR, zeroAt_51_13_packR, zeroAt_44_7_packR, ofBool_getLsbD_zero, Bool.not_false, Bool.not_true, extract_ofBool, Nat.reduceLT, Nat.zero_add, Nat.zero_le, Nat.le_refl, BitVec.reduceBEq, Nat.reduceBEq, BitVec.ofNat_eq_ofNat, BitVec.reduceToNat, Nat.reduceMod, Nat.reduceLeDiff, Nat.reduceEqDiff, if_false, if_true, reduceIte, Nat.reduceAdd, Nat.reduceSub, beq_self_eq_true, Bool.and_self, Bool.and_true, Bool.true_and, Bool.or_false, Bool.false_or, Bool.or_true, Bool.true_or, decide_true, decide_false, Bool.false_eq_true, mkIf, w])

theorem vfnms (h : Hdr) (d a b c : Reg) (rm : BitVec 3) (mc : MaskCtl) : Statement (.vfnms h d a b c rm mc) :=
  words_of rfl (hdrOf_packR ..) (fOp_packR ..) (fun w => w) rfl (fun w => by
    show decVfp _ _ _ = _
    unfold decVfp
    rw [fFnR_packR]
    show mkIf _ _ = _
    simp only [fD_packR, fA_packR, fB_packR, fC_packR, fTy_packR, fRm_packR, fImm13_packR, zR3_packR, zR3rm_packR, zR2_packR, zVn_packR, fMc_packR, zVm_packR, zVrm_packR, zeroAt_31_5_packR, zeroAt_26_10_packR, zeroAt_26_5_packR, zeroAt_44_20_packR, zeroAt_48_3_packR, zeroAt_44_4_packR, zeroAt_51_13_packR, zeroAt_44_7_packR, ofBool_getLsbD_zero, Bool.not_false, Bool.not_true, extract_ofBool, Nat.reduceLT, Nat.zero_add, Nat.zero_le, Nat.le_refl, BitVec.reduceBEq, Nat.reduceBEq, BitVec.ofNat_eq_ofNat, BitVec.reduceToNat, Nat.reduceMod, Nat.reduceLeDiff, Nat.reduceEqDiff, if_false, if_true, reduceIte, Nat.reduceAdd, Nat.reduceSub, beq_self_eq_true, Bool.and_self, Bool.and_true, Bool.true_and, Bool.or_false, Bool.false_or, Bool.or_true, Bool.true_or, decide_true, decide_false, Bool.false_eq_true, mkIf, w])

theorem vfrcp (h : Hdr) (d a : Reg) : Statement (.vfrcp h d a) :=
  words_of rfl (hdrOf_packR ..) (fOp_packR ..) (fun w => w) rfl (fun w => by
    show decVfp _ _ _ = _
    unfold decVfp
    rw [fFnR_packR]
    show mkIf _ _ = _
    simp only [fD_packR, fA_packR, fB_packR, fC_packR, fTy_packR, fRm_packR, fImm13_packR, zR3_packR, zR3rm_packR, zR2_packR, zVn_packR, fMc_packR, zVm_packR, zVrm_packR, zeroAt_31_5_packR, zeroAt_26_10_packR, zeroAt_26_5_packR, zeroAt_44_20_packR, zeroAt_48_3_packR, zeroAt_44_4_packR, zeroAt_51_13_packR, zeroAt_44_7_packR, ofBool_getLsbD_zero, Bool.not_false, Bool.not_true, extract_ofBool, Nat.reduceLT, Nat.zero_add, Nat.zero_le, Nat.le_refl, BitVec.reduceBEq, Nat.reduceBEq, BitVec.ofNat_eq_ofNat, BitVec.reduceToNat, Nat.reduceMod, Nat.reduceLeDiff, Nat.reduceEqDiff, if_false, if_true, reduceIte, Nat.reduceAdd, Nat.reduceSub, beq_self_eq_true, Bool.and_self, Bool.and_true, Bool.true_and, Bool.or_false, Bool.false_or, Bool.or_true, Bool.true_or, decide_true, decide_false, Bool.false_eq_true, mkIf, w])

theorem vfrsq (h : Hdr) (d a : Reg) : Statement (.vfrsq h d a) :=
  words_of rfl (hdrOf_packR ..) (fOp_packR ..) (fun w => w) rfl (fun w => by
    show decVfp _ _ _ = _
    unfold decVfp
    rw [fFnR_packR]
    show mkIf _ _ = _
    simp only [fD_packR, fA_packR, fB_packR, fC_packR, fTy_packR, fRm_packR, fImm13_packR, zR3_packR, zR3rm_packR, zR2_packR, zVn_packR, fMc_packR, zVm_packR, zVrm_packR, zeroAt_31_5_packR, zeroAt_26_10_packR, zeroAt_26_5_packR, zeroAt_44_20_packR, zeroAt_48_3_packR, zeroAt_44_4_packR, zeroAt_51_13_packR, zeroAt_44_7_packR, ofBool_getLsbD_zero, Bool.not_false, Bool.not_true, extract_ofBool, Nat.reduceLT, Nat.zero_add, Nat.zero_le, Nat.le_refl, BitVec.reduceBEq, Nat.reduceBEq, BitVec.ofNat_eq_ofNat, BitVec.reduceToNat, Nat.reduceMod, Nat.reduceLeDiff, Nat.reduceEqDiff, if_false, if_true, reduceIte, Nat.reduceAdd, Nat.reduceSub, beq_self_eq_true, Bool.and_self, Bool.and_true, Bool.true_and, Bool.or_false, Bool.false_or, Bool.or_true, Bool.true_or, decide_true, decide_false, Bool.false_eq_true, mkIf, w])

theorem vfclass (h : Hdr) (d a : Reg) (mc : MaskCtl) : Statement (.vfclass h d a mc) :=
  words_of rfl (hdrOf_packR ..) (fOp_packR ..) (fun w => w) rfl (fun w => by
    show decVfp _ _ _ = _
    unfold decVfp
    rw [fFnR_packR]
    show mkIf _ _ = _
    simp only [fD_packR, fA_packR, fB_packR, fC_packR, fTy_packR, fRm_packR, fImm13_packR, zR3_packR, zR3rm_packR, zR2_packR, zVn_packR, fMc_packR, zVm_packR, zVrm_packR, zeroAt_31_5_packR, zeroAt_26_10_packR, zeroAt_26_5_packR, zeroAt_44_20_packR, zeroAt_48_3_packR, zeroAt_44_4_packR, zeroAt_51_13_packR, zeroAt_44_7_packR, ofBool_getLsbD_zero, Bool.not_false, Bool.not_true, extract_ofBool, Nat.reduceLT, Nat.zero_add, Nat.zero_le, Nat.le_refl, BitVec.reduceBEq, Nat.reduceBEq, BitVec.ofNat_eq_ofNat, BitVec.reduceToNat, Nat.reduceMod, Nat.reduceLeDiff, Nat.reduceEqDiff, if_false, if_true, reduceIte, Nat.reduceAdd, Nat.reduceSub, beq_self_eq_true, Bool.and_self, Bool.and_true, Bool.true_and, Bool.or_false, Bool.false_or, Bool.or_true, Bool.true_or, decide_true, decide_false, Bool.false_eq_true, mkIf, w])

theorem vcvt (h : Hdr) (f : CvtF) : Statement (.vcvt h f) :=
  words_of rfl (hdrOf_packR ..) (fOp_packR ..) (fun w => and_left w) rfl (fun w => by
    show decVmove _ _ _ = _
    unfold decVmove
    rw [fFnR_packR]
    show mkIf _ _ = _
    simp only [packR, lowBits, mcImm, msImm, bit4, fD, fA, fB, fC, fTy, fRm, fImm13, fFnI, fImm32, fPort, fPd, fImm20, fMc, fMem, fAtom, fChan, fCopy, fCvt, fBind, fMRead, zR3, zR3rm, zR2, zVm, zVrm, zVn, extract_low, extract_high, extract_all, extract_zero, extract_span, app_beq_zero, ofBool_beq_zero, getLsbD_app, zeroAt_eq, ofBool_getLsbD_zero, Bool.not_false, Bool.not_true, extract_ofBool, Nat.reduceLT, Nat.zero_add, Nat.zero_le, Nat.le_refl, BitVec.reduceBEq, Nat.reduceBEq, BitVec.ofNat_eq_ofNat, BitVec.reduceToNat, Nat.reduceMod, Nat.reduceLeDiff, Nat.reduceEqDiff, if_false, if_true, reduceIte, Nat.reduceAdd, Nat.reduceSub, beq_self_eq_true, Bool.and_self, Bool.and_true, Bool.true_and, Bool.or_false, Bool.false_or, Bool.or_true, Bool.true_or, decide_true, decide_false, Bool.false_eq_true, mkIf, w])

theorem vpack (h : Hdr) (ty : BitVec 4) (d a b : Reg) (rm : BitVec 3) (mc : MaskCtl) : Statement (.vpack h ty d a b rm mc) :=
  words_of rfl (hdrOf_packR ..) (fOp_packR ..) (fun w => and_left (and_left w)) rfl (fun w => by
    show decVmove _ _ _ = _
    unfold decVmove
    rw [fFnR_packR]
    show mkIf _ _ = _
    simp only [fD_packR, fA_packR, fB_packR, fC_packR, fTy_packR, fRm_packR, fImm13_packR, zR3_packR, zR3rm_packR, zR2_packR, zVn_packR, fMc_packR, zVm_packR, zVrm_packR, zeroAt_31_5_packR, zeroAt_26_10_packR, zeroAt_26_5_packR, zeroAt_44_20_packR, zeroAt_48_3_packR, zeroAt_44_4_packR, zeroAt_51_13_packR, zeroAt_44_7_packR, ofBool_getLsbD_zero, Bool.not_false, Bool.not_true, extract_ofBool, Nat.reduceLT, Nat.zero_add, Nat.zero_le, Nat.le_refl, BitVec.reduceBEq, Nat.reduceBEq, BitVec.ofNat_eq_ofNat, BitVec.reduceToNat, Nat.reduceMod, Nat.reduceLeDiff, Nat.reduceEqDiff, if_false, if_true, reduceIte, Nat.reduceAdd, Nat.reduceSub, beq_self_eq_true, Bool.and_self, Bool.and_true, Bool.true_and, Bool.or_false, Bool.false_or, Bool.or_true, Bool.true_or, decide_true, decide_false, Bool.false_eq_true, mkIf, w])

theorem vunpk (h : Hdr) (ty : BitVec 4) (d a : Reg) (hi : Bool) (mc : MaskCtl) : Statement (.vunpk h ty d a hi mc) :=
  words_of rfl (hdrOf_packR ..) (fOp_packR ..) (fun w => and_left w) rfl (fun w => by
    show decVmove _ _ _ = _
    unfold decVmove
    rw [fFnR_packR]
    show mkIf _ _ = _
    simp only [packR, lowBits, mcImm, msImm, bit4, fD, fA, fB, fC, fTy, fRm, fImm13, fFnI, fImm32, fPort, fPd, fImm20, fMc, fMem, fAtom, fChan, fCopy, fCvt, fBind, fMRead, zR3, zR3rm, zR2, zVm, zVrm, zVn, extract_low, extract_high, extract_all, extract_zero, extract_span, app_beq_zero, ofBool_beq_zero, getLsbD_app, zeroAt_eq, ofBool_getLsbD_zero, Bool.not_false, Bool.not_true, extract_ofBool, Nat.reduceLT, Nat.zero_add, Nat.zero_le, Nat.le_refl, BitVec.reduceBEq, Nat.reduceBEq, BitVec.ofNat_eq_ofNat, BitVec.reduceToNat, Nat.reduceMod, Nat.reduceLeDiff, Nat.reduceEqDiff, if_false, if_true, reduceIte, Nat.reduceAdd, Nat.reduceSub, beq_self_eq_true, Bool.and_self, Bool.and_true, Bool.true_and, Bool.or_false, Bool.false_or, Bool.or_true, Bool.true_or, decide_true, decide_false, Bool.false_eq_true, mkIf, w])

theorem vradd (h : Hdr) (ty : BitVec 4) (d a : Reg) (rm : BitVec 3) (ms : BitVec 3) : Statement (.vradd h ty d a rm ms) :=
  words_of rfl (hdrOf_packR ..) (fOp_packR ..) (fun w => and_left w) rfl (fun w => by
    show decVmove _ _ _ = _
    unfold decVmove
    rw [fFnR_packR]
    show mkIf _ _ = _
    simp only [packR, lowBits, mcImm, msImm, bit4, fD, fA, fB, fC, fTy, fRm, fImm13, fFnI, fImm32, fPort, fPd, fImm20, fMc, fMem, fAtom, fChan, fCopy, fCvt, fBind, fMRead, zR3, zR3rm, zR2, zVm, zVrm, zVn, extract_low, extract_high, extract_all, extract_zero, extract_span, app_beq_zero, ofBool_beq_zero, getLsbD_app, zeroAt_eq, ofBool_getLsbD_zero, Bool.not_false, Bool.not_true, extract_ofBool, Nat.reduceLT, Nat.zero_add, Nat.zero_le, Nat.le_refl, BitVec.reduceBEq, Nat.reduceBEq, BitVec.ofNat_eq_ofNat, BitVec.reduceToNat, Nat.reduceMod, Nat.reduceLeDiff, Nat.reduceEqDiff, if_false, if_true, reduceIte, Nat.reduceAdd, Nat.reduceSub, beq_self_eq_true, Bool.and_self, Bool.and_true, Bool.true_and, Bool.or_false, Bool.false_or, Bool.or_true, Bool.true_or, decide_true, decide_false, Bool.false_eq_true, mkIf, w])

theorem vrmin (h : Hdr) (ty : BitVec 4) (d a : Reg) (ms : BitVec 3) : Statement (.vrmin h ty d a ms) :=
  words_of rfl (hdrOf_packR ..) (fOp_packR ..) (fun w => and_left w) rfl (fun w => by
    show decVmove _ _ _ = _
    unfold decVmove
    rw [fFnR_packR]
    show mkIf _ _ = _
    simp only [packR, lowBits, mcImm, msImm, bit4, fD, fA, fB, fC, fTy, fRm, fImm13, fFnI, fImm32, fPort, fPd, fImm20, fMc, fMem, fAtom, fChan, fCopy, fCvt, fBind, fMRead, zR3, zR3rm, zR2, zVm, zVrm, zVn, extract_low, extract_high, extract_all, extract_zero, extract_span, app_beq_zero, ofBool_beq_zero, getLsbD_app, zeroAt_eq, ofBool_getLsbD_zero, Bool.not_false, Bool.not_true, extract_ofBool, Nat.reduceLT, Nat.zero_add, Nat.zero_le, Nat.le_refl, BitVec.reduceBEq, Nat.reduceBEq, BitVec.ofNat_eq_ofNat, BitVec.reduceToNat, Nat.reduceMod, Nat.reduceLeDiff, Nat.reduceEqDiff, if_false, if_true, reduceIte, Nat.reduceAdd, Nat.reduceSub, beq_self_eq_true, Bool.and_self, Bool.and_true, Bool.true_and, Bool.or_false, Bool.false_or, Bool.or_true, Bool.true_or, decide_true, decide_false, Bool.false_eq_true, mkIf, w])

theorem vrmax (h : Hdr) (ty : BitVec 4) (d a : Reg) (ms : BitVec 3) : Statement (.vrmax h ty d a ms) :=
  words_of rfl (hdrOf_packR ..) (fOp_packR ..) (fun w => and_left w) rfl (fun w => by
    show decVmove _ _ _ = _
    unfold decVmove
    rw [fFnR_packR]
    show mkIf _ _ = _
    simp only [packR, lowBits, mcImm, msImm, bit4, fD, fA, fB, fC, fTy, fRm, fImm13, fFnI, fImm32, fPort, fPd, fImm20, fMc, fMem, fAtom, fChan, fCopy, fCvt, fBind, fMRead, zR3, zR3rm, zR2, zVm, zVrm, zVn, extract_low, extract_high, extract_all, extract_zero, extract_span, app_beq_zero, ofBool_beq_zero, getLsbD_app, zeroAt_eq, ofBool_getLsbD_zero, Bool.not_false, Bool.not_true, extract_ofBool, Nat.reduceLT, Nat.zero_add, Nat.zero_le, Nat.le_refl, BitVec.reduceBEq, Nat.reduceBEq, BitVec.ofNat_eq_ofNat, BitVec.reduceToNat, Nat.reduceMod, Nat.reduceLeDiff, Nat.reduceEqDiff, if_false, if_true, reduceIte, Nat.reduceAdd, Nat.reduceSub, beq_self_eq_true, Bool.and_self, Bool.and_true, Bool.true_and, Bool.or_false, Bool.false_or, Bool.or_true, Bool.true_or, decide_true, decide_false, Bool.false_eq_true, mkIf, w])

theorem vrminu (h : Hdr) (ty : BitVec 4) (d a : Reg) (ms : BitVec 3) : Statement (.vrminu h ty d a ms) :=
  words_of rfl (hdrOf_packR ..) (fOp_packR ..) (fun w => and_left w) rfl (fun w => by
    show decVmove _ _ _ = _
    unfold decVmove
    rw [fFnR_packR]
    show mkIf _ _ = _
    simp only [packR, lowBits, mcImm, msImm, bit4, fD, fA, fB, fC, fTy, fRm, fImm13, fFnI, fImm32, fPort, fPd, fImm20, fMc, fMem, fAtom, fChan, fCopy, fCvt, fBind, fMRead, zR3, zR3rm, zR2, zVm, zVrm, zVn, extract_low, extract_high, extract_all, extract_zero, extract_span, app_beq_zero, ofBool_beq_zero, getLsbD_app, zeroAt_eq, ofBool_getLsbD_zero, Bool.not_false, Bool.not_true, extract_ofBool, Nat.reduceLT, Nat.zero_add, Nat.zero_le, Nat.le_refl, BitVec.reduceBEq, Nat.reduceBEq, BitVec.ofNat_eq_ofNat, BitVec.reduceToNat, Nat.reduceMod, Nat.reduceLeDiff, Nat.reduceEqDiff, if_false, if_true, reduceIte, Nat.reduceAdd, Nat.reduceSub, beq_self_eq_true, Bool.and_self, Bool.and_true, Bool.true_and, Bool.or_false, Bool.false_or, Bool.or_true, Bool.true_or, decide_true, decide_false, Bool.false_eq_true, mkIf, w])

theorem vrmaxu (h : Hdr) (ty : BitVec 4) (d a : Reg) (ms : BitVec 3) : Statement (.vrmaxu h ty d a ms) :=
  words_of rfl (hdrOf_packR ..) (fOp_packR ..) (fun w => and_left w) rfl (fun w => by
    show decVmove _ _ _ = _
    unfold decVmove
    rw [fFnR_packR]
    show mkIf _ _ = _
    simp only [packR, lowBits, mcImm, msImm, bit4, fD, fA, fB, fC, fTy, fRm, fImm13, fFnI, fImm32, fPort, fPd, fImm20, fMc, fMem, fAtom, fChan, fCopy, fCvt, fBind, fMRead, zR3, zR3rm, zR2, zVm, zVrm, zVn, extract_low, extract_high, extract_all, extract_zero, extract_span, app_beq_zero, ofBool_beq_zero, getLsbD_app, zeroAt_eq, ofBool_getLsbD_zero, Bool.not_false, Bool.not_true, extract_ofBool, Nat.reduceLT, Nat.zero_add, Nat.zero_le, Nat.le_refl, BitVec.reduceBEq, Nat.reduceBEq, BitVec.ofNat_eq_ofNat, BitVec.reduceToNat, Nat.reduceMod, Nat.reduceLeDiff, Nat.reduceEqDiff, if_false, if_true, reduceIte, Nat.reduceAdd, Nat.reduceSub, beq_self_eq_true, Bool.and_self, Bool.and_true, Bool.true_and, Bool.or_false, Bool.false_or, Bool.or_true, Bool.true_or, decide_true, decide_false, Bool.false_eq_true, mkIf, w])

theorem vrand (h : Hdr) (ty : BitVec 4) (d a : Reg) (ms : BitVec 3) : Statement (.vrand h ty d a ms) :=
  words_of rfl (hdrOf_packR ..) (fOp_packR ..) (fun w => and_left w) rfl (fun w => by
    show decVmove _ _ _ = _
    unfold decVmove
    rw [fFnR_packR]
    show mkIf _ _ = _
    simp only [packR, lowBits, mcImm, msImm, bit4, fD, fA, fB, fC, fTy, fRm, fImm13, fFnI, fImm32, fPort, fPd, fImm20, fMc, fMem, fAtom, fChan, fCopy, fCvt, fBind, fMRead, zR3, zR3rm, zR2, zVm, zVrm, zVn, extract_low, extract_high, extract_all, extract_zero, extract_span, app_beq_zero, ofBool_beq_zero, getLsbD_app, zeroAt_eq, ofBool_getLsbD_zero, Bool.not_false, Bool.not_true, extract_ofBool, Nat.reduceLT, Nat.zero_add, Nat.zero_le, Nat.le_refl, BitVec.reduceBEq, Nat.reduceBEq, BitVec.ofNat_eq_ofNat, BitVec.reduceToNat, Nat.reduceMod, Nat.reduceLeDiff, Nat.reduceEqDiff, if_false, if_true, reduceIte, Nat.reduceAdd, Nat.reduceSub, beq_self_eq_true, Bool.and_self, Bool.and_true, Bool.true_and, Bool.or_false, Bool.false_or, Bool.or_true, Bool.true_or, decide_true, decide_false, Bool.false_eq_true, mkIf, w])

theorem vror (h : Hdr) (ty : BitVec 4) (d a : Reg) (ms : BitVec 3) : Statement (.vror h ty d a ms) :=
  words_of rfl (hdrOf_packR ..) (fOp_packR ..) (fun w => and_left w) rfl (fun w => by
    show decVmove _ _ _ = _
    unfold decVmove
    rw [fFnR_packR]
    show mkIf _ _ = _
    simp only [packR, lowBits, mcImm, msImm, bit4, fD, fA, fB, fC, fTy, fRm, fImm13, fFnI, fImm32, fPort, fPd, fImm20, fMc, fMem, fAtom, fChan, fCopy, fCvt, fBind, fMRead, zR3, zR3rm, zR2, zVm, zVrm, zVn, extract_low, extract_high, extract_all, extract_zero, extract_span, app_beq_zero, ofBool_beq_zero, getLsbD_app, zeroAt_eq, ofBool_getLsbD_zero, Bool.not_false, Bool.not_true, extract_ofBool, Nat.reduceLT, Nat.zero_add, Nat.zero_le, Nat.le_refl, BitVec.reduceBEq, Nat.reduceBEq, BitVec.ofNat_eq_ofNat, BitVec.reduceToNat, Nat.reduceMod, Nat.reduceLeDiff, Nat.reduceEqDiff, if_false, if_true, reduceIte, Nat.reduceAdd, Nat.reduceSub, beq_self_eq_true, Bool.and_self, Bool.and_true, Bool.true_and, Bool.or_false, Bool.false_or, Bool.or_true, Bool.true_or, decide_true, decide_false, Bool.false_eq_true, mkIf, w])

theorem vrfadd (h : Hdr) (d a : Reg) (rm : BitVec 3) (ms : BitVec 3) : Statement (.vrfadd h d a rm ms) :=
  words_of rfl (hdrOf_packR ..) (fOp_packR ..) (fun w => w) rfl (fun w => by
    show decVfp _ _ _ = _
    unfold decVfp
    rw [fFnR_packR]
    show mkIf _ _ = _
    simp only [packR, lowBits, mcImm, msImm, bit4, fD, fA, fB, fC, fTy, fRm, fImm13, fFnI, fImm32, fPort, fPd, fImm20, fMc, fMem, fAtom, fChan, fCopy, fCvt, fBind, fMRead, zR3, zR3rm, zR2, zVm, zVrm, zVn, extract_low, extract_high, extract_all, extract_zero, extract_span, app_beq_zero, ofBool_beq_zero, getLsbD_app, zeroAt_eq, ofBool_getLsbD_zero, Bool.not_false, Bool.not_true, extract_ofBool, Nat.reduceLT, Nat.zero_add, Nat.zero_le, Nat.le_refl, BitVec.reduceBEq, Nat.reduceBEq, BitVec.ofNat_eq_ofNat, BitVec.reduceToNat, Nat.reduceMod, Nat.reduceLeDiff, Nat.reduceEqDiff, if_false, if_true, reduceIte, Nat.reduceAdd, Nat.reduceSub, beq_self_eq_true, Bool.and_self, Bool.and_true, Bool.true_and, Bool.or_false, Bool.false_or, Bool.or_true, Bool.true_or, decide_true, decide_false, Bool.false_eq_true, mkIf, w])

theorem vrxadd (h : Hdr) (ty : BitVec 4) (d a b : Reg) (ms : BitVec 3) : Statement (.vrxadd h ty d a b ms) :=
  words_of rfl (hdrOf_packR ..) (fOp_packR ..) (fun w => and_left (and_left w)) rfl (fun w => by
    show decVmove _ _ _ = _
    unfold decVmove
    rw [fFnR_packR]
    show mkIf _ _ = _
    simp only [packR, lowBits, mcImm, msImm, bit4, fD, fA, fB, fC, fTy, fRm, fImm13, fFnI, fImm32, fPort, fPd, fImm20, fMc, fMem, fAtom, fChan, fCopy, fCvt, fBind, fMRead, zR3, zR3rm, zR2, zVm, zVrm, zVn, extract_low, extract_high, extract_all, extract_zero, extract_span, app_beq_zero, ofBool_beq_zero, getLsbD_app, zeroAt_eq, ofBool_getLsbD_zero, Bool.not_false, Bool.not_true, extract_ofBool, Nat.reduceLT, Nat.zero_add, Nat.zero_le, Nat.le_refl, BitVec.reduceBEq, Nat.reduceBEq, BitVec.ofNat_eq_ofNat, BitVec.reduceToNat, Nat.reduceMod, Nat.reduceLeDiff, Nat.reduceEqDiff, if_false, if_true, reduceIte, Nat.reduceAdd, Nat.reduceSub, beq_self_eq_true, Bool.and_self, Bool.and_true, Bool.true_and, Bool.or_false, Bool.false_or, Bool.or_true, Bool.true_or, decide_true, decide_false, Bool.false_eq_true, mkIf, w])

theorem vperm (h : Hdr) (ty : BitVec 4) (d a b : Reg) (mc : MaskCtl) : Statement (.vperm h ty d a b mc) :=
  words_of rfl (hdrOf_packR ..) (fOp_packR ..) (fun w => and_left w) rfl (fun w => by
    show decVmove _ _ _ = _
    unfold decVmove
    rw [fFnR_packR]
    show mkIf _ _ = _
    simp only [fD_packR, fA_packR, fB_packR, fC_packR, fTy_packR, fRm_packR, fImm13_packR, zR3_packR, zR3rm_packR, zR2_packR, zVn_packR, fMc_packR, zVm_packR, zVrm_packR, zeroAt_31_5_packR, zeroAt_26_10_packR, zeroAt_26_5_packR, zeroAt_44_20_packR, zeroAt_48_3_packR, zeroAt_44_4_packR, zeroAt_51_13_packR, zeroAt_44_7_packR, ofBool_getLsbD_zero, Bool.not_false, Bool.not_true, extract_ofBool, Nat.reduceLT, Nat.zero_add, Nat.zero_le, Nat.le_refl, BitVec.reduceBEq, Nat.reduceBEq, BitVec.ofNat_eq_ofNat, BitVec.reduceToNat, Nat.reduceMod, Nat.reduceLeDiff, Nat.reduceEqDiff, if_false, if_true, reduceIte, Nat.reduceAdd, Nat.reduceSub, beq_self_eq_true, Bool.and_self, Bool.and_true, Bool.true_and, Bool.or_false, Bool.false_or, Bool.or_true, Bool.true_or, decide_true, decide_false, Bool.false_eq_true, mkIf, w])

theorem vslideup (h : Hdr) (ty : BitVec 4) (d a b : Reg) (mc : MaskCtl) : Statement (.vslideup h ty d a b mc) :=
  words_of rfl (hdrOf_packR ..) (fOp_packR ..) (fun w => and_left w) rfl (fun w => by
    show decVmove _ _ _ = _
    unfold decVmove
    rw [fFnR_packR]
    show mkIf _ _ = _
    simp only [fD_packR, fA_packR, fB_packR, fC_packR, fTy_packR, fRm_packR, fImm13_packR, zR3_packR, zR3rm_packR, zR2_packR, zVn_packR, fMc_packR, zVm_packR, zVrm_packR, zeroAt_31_5_packR, zeroAt_26_10_packR, zeroAt_26_5_packR, zeroAt_44_20_packR, zeroAt_48_3_packR, zeroAt_44_4_packR, zeroAt_51_13_packR, zeroAt_44_7_packR, ofBool_getLsbD_zero, Bool.not_false, Bool.not_true, extract_ofBool, Nat.reduceLT, Nat.zero_add, Nat.zero_le, Nat.le_refl, BitVec.reduceBEq, Nat.reduceBEq, BitVec.ofNat_eq_ofNat, BitVec.reduceToNat, Nat.reduceMod, Nat.reduceLeDiff, Nat.reduceEqDiff, if_false, if_true, reduceIte, Nat.reduceAdd, Nat.reduceSub, beq_self_eq_true, Bool.and_self, Bool.and_true, Bool.true_and, Bool.or_false, Bool.false_or, Bool.or_true, Bool.true_or, decide_true, decide_false, Bool.false_eq_true, mkIf, w])

theorem vslidedn (h : Hdr) (ty : BitVec 4) (d a b : Reg) (mc : MaskCtl) : Statement (.vslidedn h ty d a b mc) :=
  words_of rfl (hdrOf_packR ..) (fOp_packR ..) (fun w => and_left w) rfl (fun w => by
    show decVmove _ _ _ = _
    unfold decVmove
    rw [fFnR_packR]
    show mkIf _ _ = _
    simp only [fD_packR, fA_packR, fB_packR, fC_packR, fTy_packR, fRm_packR, fImm13_packR, zR3_packR, zR3rm_packR, zR2_packR, zVn_packR, fMc_packR, zVm_packR, zVrm_packR, zeroAt_31_5_packR, zeroAt_26_10_packR, zeroAt_26_5_packR, zeroAt_44_20_packR, zeroAt_48_3_packR, zeroAt_44_4_packR, zeroAt_51_13_packR, zeroAt_44_7_packR, ofBool_getLsbD_zero, Bool.not_false, Bool.not_true, extract_ofBool, Nat.reduceLT, Nat.zero_add, Nat.zero_le, Nat.le_refl, BitVec.reduceBEq, Nat.reduceBEq, BitVec.ofNat_eq_ofNat, BitVec.reduceToNat, Nat.reduceMod, Nat.reduceLeDiff, Nat.reduceEqDiff, if_false, if_true, reduceIte, Nat.reduceAdd, Nat.reduceSub, beq_self_eq_true, Bool.and_self, Bool.and_true, Bool.true_and, Bool.or_false, Bool.false_or, Bool.or_true, Bool.true_or, decide_true, decide_false, Bool.false_eq_true, mkIf, w])

theorem vzip (h : Hdr) (ty : BitVec 4) (d a b : Reg) (mc : MaskCtl) : Statement (.vzip h ty d a b mc) :=
  words_of rfl (hdrOf_packR ..) (fOp_packR ..) (fun w => and_left w) rfl (fun w => by
    show decVmove _ _ _ = _
    unfold decVmove
    rw [fFnR_packR]
    show mkIf _ _ = _
    simp only [fD_packR, fA_packR, fB_packR, fC_packR, fTy_packR, fRm_packR, fImm13_packR, zR3_packR, zR3rm_packR, zR2_packR, zVn_packR, fMc_packR, zVm_packR, zVrm_packR, zeroAt_31_5_packR, zeroAt_26_10_packR, zeroAt_26_5_packR, zeroAt_44_20_packR, zeroAt_48_3_packR, zeroAt_44_4_packR, zeroAt_51_13_packR, zeroAt_44_7_packR, ofBool_getLsbD_zero, Bool.not_false, Bool.not_true, extract_ofBool, Nat.reduceLT, Nat.zero_add, Nat.zero_le, Nat.le_refl, BitVec.reduceBEq, Nat.reduceBEq, BitVec.ofNat_eq_ofNat, BitVec.reduceToNat, Nat.reduceMod, Nat.reduceLeDiff, Nat.reduceEqDiff, if_false, if_true, reduceIte, Nat.reduceAdd, Nat.reduceSub, beq_self_eq_true, Bool.and_self, Bool.and_true, Bool.true_and, Bool.or_false, Bool.false_or, Bool.or_true, Bool.true_or, decide_true, decide_false, Bool.false_eq_true, mkIf, w])

theorem vunzip (h : Hdr) (ty : BitVec 4) (d a b : Reg) (mc : MaskCtl) : Statement (.vunzip h ty d a b mc) :=
  words_of rfl (hdrOf_packR ..) (fOp_packR ..) (fun w => and_left w) rfl (fun w => by
    show decVmove _ _ _ = _
    unfold decVmove
    rw [fFnR_packR]
    show mkIf _ _ = _
    simp only [fD_packR, fA_packR, fB_packR, fC_packR, fTy_packR, fRm_packR, fImm13_packR, zR3_packR, zR3rm_packR, zR2_packR, zVn_packR, fMc_packR, zVm_packR, zVrm_packR, zeroAt_31_5_packR, zeroAt_26_10_packR, zeroAt_26_5_packR, zeroAt_44_20_packR, zeroAt_48_3_packR, zeroAt_44_4_packR, zeroAt_51_13_packR, zeroAt_44_7_packR, ofBool_getLsbD_zero, Bool.not_false, Bool.not_true, extract_ofBool, Nat.reduceLT, Nat.zero_add, Nat.zero_le, Nat.le_refl, BitVec.reduceBEq, Nat.reduceBEq, BitVec.ofNat_eq_ofNat, BitVec.reduceToNat, Nat.reduceMod, Nat.reduceLeDiff, Nat.reduceEqDiff, if_false, if_true, reduceIte, Nat.reduceAdd, Nat.reduceSub, beq_self_eq_true, Bool.and_self, Bool.and_true, Bool.true_and, Bool.or_false, Bool.false_or, Bool.or_true, Bool.true_or, decide_true, decide_false, Bool.false_eq_true, mkIf, w])

theorem vrev (h : Hdr) (ty : BitVec 4) (d a : Reg) (mc : MaskCtl) : Statement (.vrev h ty d a mc) :=
  words_of rfl (hdrOf_packR ..) (fOp_packR ..) (fun w => and_left w) rfl (fun w => by
    show decVmove _ _ _ = _
    unfold decVmove
    rw [fFnR_packR]
    show mkIf _ _ = _
    simp only [fD_packR, fA_packR, fB_packR, fC_packR, fTy_packR, fRm_packR, fImm13_packR, zR3_packR, zR3rm_packR, zR2_packR, zVn_packR, fMc_packR, zVm_packR, zVrm_packR, zeroAt_31_5_packR, zeroAt_26_10_packR, zeroAt_26_5_packR, zeroAt_44_20_packR, zeroAt_48_3_packR, zeroAt_44_4_packR, zeroAt_51_13_packR, zeroAt_44_7_packR, ofBool_getLsbD_zero, Bool.not_false, Bool.not_true, extract_ofBool, Nat.reduceLT, Nat.zero_add, Nat.zero_le, Nat.le_refl, BitVec.reduceBEq, Nat.reduceBEq, BitVec.ofNat_eq_ofNat, BitVec.reduceToNat, Nat.reduceMod, Nat.reduceLeDiff, Nat.reduceEqDiff, if_false, if_true, reduceIte, Nat.reduceAdd, Nat.reduceSub, beq_self_eq_true, Bool.and_self, Bool.and_true, Bool.true_and, Bool.or_false, Bool.false_or, Bool.or_true, Bool.true_or, decide_true, decide_false, Bool.false_eq_true, mkIf, w])

theorem vbcast (h : Hdr) (ty : BitVec 4) (d a : Reg) (mc : MaskCtl) : Statement (.vbcast h ty d a mc) :=
  words_of rfl (hdrOf_packR ..) (fOp_packR ..) (fun w => and_left w) rfl (fun w => by
    show decVmove _ _ _ = _
    unfold decVmove
    rw [fFnR_packR]
    show mkIf _ _ = _
    simp only [fD_packR, fA_packR, fB_packR, fC_packR, fTy_packR, fRm_packR, fImm13_packR, zR3_packR, zR3rm_packR, zR2_packR, zVn_packR, fMc_packR, zVm_packR, zVrm_packR, zeroAt_31_5_packR, zeroAt_26_10_packR, zeroAt_26_5_packR, zeroAt_44_20_packR, zeroAt_48_3_packR, zeroAt_44_4_packR, zeroAt_51_13_packR, zeroAt_44_7_packR, ofBool_getLsbD_zero, Bool.not_false, Bool.not_true, extract_ofBool, Nat.reduceLT, Nat.zero_add, Nat.zero_le, Nat.le_refl, BitVec.reduceBEq, Nat.reduceBEq, BitVec.ofNat_eq_ofNat, BitVec.reduceToNat, Nat.reduceMod, Nat.reduceLeDiff, Nat.reduceEqDiff, if_false, if_true, reduceIte, Nat.reduceAdd, Nat.reduceSub, beq_self_eq_true, Bool.and_self, Bool.and_true, Bool.true_and, Bool.or_false, Bool.false_or, Bool.or_true, Bool.true_or, decide_true, decide_false, Bool.false_eq_true, mkIf, w])

theorem vext (h : Hdr) (ty : BitVec 4) (d a b : Reg) : Statement (.vext h ty d a b) :=
  words_of rfl (hdrOf_packR ..) (fOp_packR ..) (fun w => and_left w) rfl (fun w => by
    show decVmove _ _ _ = _
    unfold decVmove
    rw [fFnR_packR]
    show mkIf _ _ = _
    simp only [fD_packR, fA_packR, fB_packR, fC_packR, fTy_packR, fRm_packR, fImm13_packR, zR3_packR, zR3rm_packR, zR2_packR, zVn_packR, fMc_packR, zVm_packR, zVrm_packR, zeroAt_31_5_packR, zeroAt_26_10_packR, zeroAt_26_5_packR, zeroAt_44_20_packR, zeroAt_48_3_packR, zeroAt_44_4_packR, zeroAt_51_13_packR, zeroAt_44_7_packR, ofBool_getLsbD_zero, Bool.not_false, Bool.not_true, extract_ofBool, Nat.reduceLT, Nat.zero_add, Nat.zero_le, Nat.le_refl, BitVec.reduceBEq, Nat.reduceBEq, BitVec.ofNat_eq_ofNat, BitVec.reduceToNat, Nat.reduceMod, Nat.reduceLeDiff, Nat.reduceEqDiff, if_false, if_true, reduceIte, Nat.reduceAdd, Nat.reduceSub, beq_self_eq_true, Bool.and_self, Bool.and_true, Bool.true_and, Bool.or_false, Bool.false_or, Bool.or_true, Bool.true_or, decide_true, decide_false, Bool.false_eq_true, mkIf, w])

theorem vins (h : Hdr) (ty : BitVec 4) (d a b : Reg) : Statement (.vins h ty d a b) :=
  words_of rfl (hdrOf_packR ..) (fOp_packR ..) (fun w => and_left w) rfl (fun w => by
    show decVmove _ _ _ = _
    unfold decVmove
    rw [fFnR_packR]
    show mkIf _ _ = _
    simp only [fD_packR, fA_packR, fB_packR, fC_packR, fTy_packR, fRm_packR, fImm13_packR, zR3_packR, zR3rm_packR, zR2_packR, zVn_packR, fMc_packR, zVm_packR, zVrm_packR, zeroAt_31_5_packR, zeroAt_26_10_packR, zeroAt_26_5_packR, zeroAt_44_20_packR, zeroAt_48_3_packR, zeroAt_44_4_packR, zeroAt_51_13_packR, zeroAt_44_7_packR, ofBool_getLsbD_zero, Bool.not_false, Bool.not_true, extract_ofBool, Nat.reduceLT, Nat.zero_add, Nat.zero_le, Nat.le_refl, BitVec.reduceBEq, Nat.reduceBEq, BitVec.ofNat_eq_ofNat, BitVec.reduceToNat, Nat.reduceMod, Nat.reduceLeDiff, Nat.reduceEqDiff, if_false, if_true, reduceIte, Nat.reduceAdd, Nat.reduceSub, beq_self_eq_true, Bool.and_self, Bool.and_true, Bool.true_and, Bool.or_false, Bool.false_or, Bool.or_true, Bool.true_or, decide_true, decide_false, Bool.false_eq_true, mkIf, w])

theorem vcompress (h : Hdr) (ty : BitVec 4) (d a c : Reg) : Statement (.vcompress h ty d a c) :=
  words_of rfl (hdrOf_packR ..) (fOp_packR ..) (fun w => and_left (and_left w)) rfl (fun w => by
    show decVmove _ _ _ = _
    unfold decVmove
    rw [fFnR_packR]
    show mkIf _ _ = _
    simp only [fD_packR, fA_packR, fB_packR, fC_packR, fTy_packR, fRm_packR, fImm13_packR, zR3_packR, zR3rm_packR, zR2_packR, zVn_packR, fMc_packR, zVm_packR, zVrm_packR, zeroAt_31_5_packR, zeroAt_26_10_packR, zeroAt_26_5_packR, zeroAt_44_20_packR, zeroAt_48_3_packR, zeroAt_44_4_packR, zeroAt_51_13_packR, zeroAt_44_7_packR, ofBool_getLsbD_zero, Bool.not_false, Bool.not_true, extract_ofBool, Nat.reduceLT, Nat.zero_add, Nat.zero_le, Nat.le_refl, BitVec.reduceBEq, Nat.reduceBEq, BitVec.ofNat_eq_ofNat, BitVec.reduceToNat, Nat.reduceMod, Nat.reduceLeDiff, Nat.reduceEqDiff, if_false, if_true, reduceIte, Nat.reduceAdd, Nat.reduceSub, beq_self_eq_true, Bool.and_self, Bool.and_true, Bool.true_and, Bool.or_false, Bool.false_or, Bool.or_true, Bool.true_or, decide_true, decide_false, Bool.false_eq_true, mkIf, w])

theorem vexpand (h : Hdr) (ty : BitVec 4) (d a c : Reg) : Statement (.vexpand h ty d a c) :=
  words_of rfl (hdrOf_packR ..) (fOp_packR ..) (fun w => and_left (and_left w)) rfl (fun w => by
    show decVmove _ _ _ = _
    unfold decVmove
    rw [fFnR_packR]
    show mkIf _ _ = _
    simp only [fD_packR, fA_packR, fB_packR, fC_packR, fTy_packR, fRm_packR, fImm13_packR, zR3_packR, zR3rm_packR, zR2_packR, zVn_packR, fMc_packR, zVm_packR, zVrm_packR, zeroAt_31_5_packR, zeroAt_26_10_packR, zeroAt_26_5_packR, zeroAt_44_20_packR, zeroAt_48_3_packR, zeroAt_44_4_packR, zeroAt_51_13_packR, zeroAt_44_7_packR, ofBool_getLsbD_zero, Bool.not_false, Bool.not_true, extract_ofBool, Nat.reduceLT, Nat.zero_add, Nat.zero_le, Nat.le_refl, BitVec.reduceBEq, Nat.reduceBEq, BitVec.ofNat_eq_ofNat, BitVec.reduceToNat, Nat.reduceMod, Nat.reduceLeDiff, Nat.reduceEqDiff, if_false, if_true, reduceIte, Nat.reduceAdd, Nat.reduceSub, beq_self_eq_true, Bool.and_self, Bool.and_true, Bool.true_and, Bool.or_false, Bool.false_or, Bool.or_true, Bool.true_or, decide_true, decide_false, Bool.false_eq_true, mkIf, w])

theorem vscan (h : Hdr) (ty : BitVec 4) (d a : Reg) (rm : BitVec 3) (mc : MaskCtl) : Statement (.vscan h ty d a rm mc) :=
  words_of rfl (hdrOf_packR ..) (fOp_packR ..) (fun w => and_left w) rfl (fun w => by
    show decVmove _ _ _ = _
    unfold decVmove
    rw [fFnR_packR]
    show mkIf _ _ = _
    simp only [fD_packR, fA_packR, fB_packR, fC_packR, fTy_packR, fRm_packR, fImm13_packR, zR3_packR, zR3rm_packR, zR2_packR, zVn_packR, fMc_packR, zVm_packR, zVrm_packR, zeroAt_31_5_packR, zeroAt_26_10_packR, zeroAt_26_5_packR, zeroAt_44_20_packR, zeroAt_48_3_packR, zeroAt_44_4_packR, zeroAt_51_13_packR, zeroAt_44_7_packR, ofBool_getLsbD_zero, Bool.not_false, Bool.not_true, extract_ofBool, Nat.reduceLT, Nat.zero_add, Nat.zero_le, Nat.le_refl, BitVec.reduceBEq, Nat.reduceBEq, BitVec.ofNat_eq_ofNat, BitVec.reduceToNat, Nat.reduceMod, Nat.reduceLeDiff, Nat.reduceEqDiff, if_false, if_true, reduceIte, Nat.reduceAdd, Nat.reduceSub, beq_self_eq_true, Bool.and_self, Bool.and_true, Bool.true_and, Bool.or_false, Bool.false_or, Bool.or_true, Bool.true_or, decide_true, decide_false, Bool.false_eq_true, mkIf, w])

theorem viota (h : Hdr) (ty : BitVec 4) (d : Reg) (mc : MaskCtl) : Statement (.viota h ty d mc) :=
  words_of rfl (hdrOf_packR ..) (fOp_packR ..) (fun w => and_left w) rfl (fun w => by
    show decVmove _ _ _ = _
    unfold decVmove
    rw [fFnR_packR]
    show mkIf _ _ = _
    simp only [packR, lowBits, mcImm, msImm, bit4, fD, fA, fB, fC, fTy, fRm, fImm13, fFnI, fImm32, fPort, fPd, fImm20, fMc, fMem, fAtom, fChan, fCopy, fCvt, fBind, fMRead, zR3, zR3rm, zR2, zVm, zVrm, zVn, extract_low, extract_high, extract_all, extract_zero, extract_span, app_beq_zero, ofBool_beq_zero, getLsbD_app, zeroAt_eq, ofBool_getLsbD_zero, Bool.not_false, Bool.not_true, extract_ofBool, Nat.reduceLT, Nat.zero_add, Nat.zero_le, Nat.le_refl, BitVec.reduceBEq, Nat.reduceBEq, BitVec.ofNat_eq_ofNat, BitVec.reduceToNat, Nat.reduceMod, Nat.reduceLeDiff, Nat.reduceEqDiff, if_false, if_true, reduceIte, Nat.reduceAdd, Nat.reduceSub, beq_self_eq_true, Bool.and_self, Bool.and_true, Bool.true_and, Bool.or_false, Bool.false_or, Bool.or_true, Bool.true_or, decide_true, decide_false, Bool.false_eq_true, mkIf, w])

theorem mand (h : Hdr) (d a b : Reg) : Statement (.mand h d a b) :=
  words_of rfl (hdrOf_packR ..) (fOp_packR ..) (fun w => and_left (and_left (and_left w))) rfl (fun w => by
    show decVmove _ _ _ = _
    unfold decVmove
    rw [fFnR_packR]
    show mkIf _ _ = _
    simp only [fD_packR, fA_packR, fB_packR, fC_packR, fTy_packR, fRm_packR, fImm13_packR, zR3_packR, zR3rm_packR, zR2_packR, zVn_packR, fMc_packR, zVm_packR, zVrm_packR, zeroAt_31_5_packR, zeroAt_26_10_packR, zeroAt_26_5_packR, zeroAt_44_20_packR, zeroAt_48_3_packR, zeroAt_44_4_packR, zeroAt_51_13_packR, zeroAt_44_7_packR, ofBool_getLsbD_zero, Bool.not_false, Bool.not_true, extract_ofBool, Nat.reduceLT, Nat.zero_add, Nat.zero_le, Nat.le_refl, BitVec.reduceBEq, Nat.reduceBEq, BitVec.ofNat_eq_ofNat, BitVec.reduceToNat, Nat.reduceMod, Nat.reduceLeDiff, Nat.reduceEqDiff, if_false, if_true, reduceIte, Nat.reduceAdd, Nat.reduceSub, beq_self_eq_true, Bool.and_self, Bool.and_true, Bool.true_and, Bool.or_false, Bool.false_or, Bool.or_true, Bool.true_or, decide_true, decide_false, Bool.false_eq_true, mkIf, w])

theorem mor (h : Hdr) (d a b : Reg) : Statement (.mor h d a b) :=
  words_of rfl (hdrOf_packR ..) (fOp_packR ..) (fun w => and_left (and_left (and_left w))) rfl (fun w => by
    show decVmove _ _ _ = _
    unfold decVmove
    rw [fFnR_packR]
    show mkIf _ _ = _
    simp only [fD_packR, fA_packR, fB_packR, fC_packR, fTy_packR, fRm_packR, fImm13_packR, zR3_packR, zR3rm_packR, zR2_packR, zVn_packR, fMc_packR, zVm_packR, zVrm_packR, zeroAt_31_5_packR, zeroAt_26_10_packR, zeroAt_26_5_packR, zeroAt_44_20_packR, zeroAt_48_3_packR, zeroAt_44_4_packR, zeroAt_51_13_packR, zeroAt_44_7_packR, ofBool_getLsbD_zero, Bool.not_false, Bool.not_true, extract_ofBool, Nat.reduceLT, Nat.zero_add, Nat.zero_le, Nat.le_refl, BitVec.reduceBEq, Nat.reduceBEq, BitVec.ofNat_eq_ofNat, BitVec.reduceToNat, Nat.reduceMod, Nat.reduceLeDiff, Nat.reduceEqDiff, if_false, if_true, reduceIte, Nat.reduceAdd, Nat.reduceSub, beq_self_eq_true, Bool.and_self, Bool.and_true, Bool.true_and, Bool.or_false, Bool.false_or, Bool.or_true, Bool.true_or, decide_true, decide_false, Bool.false_eq_true, mkIf, w])

theorem mxor (h : Hdr) (d a b : Reg) : Statement (.mxor h d a b) :=
  words_of rfl (hdrOf_packR ..) (fOp_packR ..) (fun w => and_left (and_left (and_left w))) rfl (fun w => by
    show decVmove _ _ _ = _
    unfold decVmove
    rw [fFnR_packR]
    show mkIf _ _ = _
    simp only [fD_packR, fA_packR, fB_packR, fC_packR, fTy_packR, fRm_packR, fImm13_packR, zR3_packR, zR3rm_packR, zR2_packR, zVn_packR, fMc_packR, zVm_packR, zVrm_packR, zeroAt_31_5_packR, zeroAt_26_10_packR, zeroAt_26_5_packR, zeroAt_44_20_packR, zeroAt_48_3_packR, zeroAt_44_4_packR, zeroAt_51_13_packR, zeroAt_44_7_packR, ofBool_getLsbD_zero, Bool.not_false, Bool.not_true, extract_ofBool, Nat.reduceLT, Nat.zero_add, Nat.zero_le, Nat.le_refl, BitVec.reduceBEq, Nat.reduceBEq, BitVec.ofNat_eq_ofNat, BitVec.reduceToNat, Nat.reduceMod, Nat.reduceLeDiff, Nat.reduceEqDiff, if_false, if_true, reduceIte, Nat.reduceAdd, Nat.reduceSub, beq_self_eq_true, Bool.and_self, Bool.and_true, Bool.true_and, Bool.or_false, Bool.false_or, Bool.or_true, Bool.true_or, decide_true, decide_false, Bool.false_eq_true, mkIf, w])

theorem mnot (h : Hdr) (d a : Reg) : Statement (.mnot h d a) :=
  words_of rfl (hdrOf_packR ..) (fOp_packR ..) (fun w => and_left (and_left w)) rfl (fun w => by
    show decVmove _ _ _ = _
    unfold decVmove
    rw [fFnR_packR]
    show mkIf _ _ = _
    simp only [fD_packR, fA_packR, fB_packR, fC_packR, fTy_packR, fRm_packR, fImm13_packR, zR3_packR, zR3rm_packR, zR2_packR, zVn_packR, fMc_packR, zVm_packR, zVrm_packR, zeroAt_31_5_packR, zeroAt_26_10_packR, zeroAt_26_5_packR, zeroAt_44_20_packR, zeroAt_48_3_packR, zeroAt_44_4_packR, zeroAt_51_13_packR, zeroAt_44_7_packR, ofBool_getLsbD_zero, Bool.not_false, Bool.not_true, extract_ofBool, Nat.reduceLT, Nat.zero_add, Nat.zero_le, Nat.le_refl, BitVec.reduceBEq, Nat.reduceBEq, BitVec.ofNat_eq_ofNat, BitVec.reduceToNat, Nat.reduceMod, Nat.reduceLeDiff, Nat.reduceEqDiff, if_false, if_true, reduceIte, Nat.reduceAdd, Nat.reduceSub, beq_self_eq_true, Bool.and_self, Bool.and_true, Bool.true_and, Bool.or_false, Bool.false_or, Bool.or_true, Bool.true_or, decide_true, decide_false, Bool.false_eq_true, mkIf, w])

theorem mpopc (h : Hdr) (ty : BitVec 4) (d a : Reg) : Statement (.mpopc h ty d a) :=
  words_of rfl (hdrOf_packR ..) (fOp_packR ..) (fun w => and_left (and_left w)) rfl (fun w => by
    show decVmove _ _ _ = _
    unfold decVmove
    rw [fFnR_packR]
    show mkIf _ _ = _
    simp only [fD_packR, fA_packR, fB_packR, fC_packR, fTy_packR, fRm_packR, fImm13_packR, zR3_packR, zR3rm_packR, zR2_packR, zVn_packR, fMc_packR, zVm_packR, zVrm_packR, zeroAt_31_5_packR, zeroAt_26_10_packR, zeroAt_26_5_packR, zeroAt_44_20_packR, zeroAt_48_3_packR, zeroAt_44_4_packR, zeroAt_51_13_packR, zeroAt_44_7_packR, ofBool_getLsbD_zero, Bool.not_false, Bool.not_true, extract_ofBool, Nat.reduceLT, Nat.zero_add, Nat.zero_le, Nat.le_refl, BitVec.reduceBEq, Nat.reduceBEq, BitVec.ofNat_eq_ofNat, BitVec.reduceToNat, Nat.reduceMod, Nat.reduceLeDiff, Nat.reduceEqDiff, if_false, if_true, reduceIte, Nat.reduceAdd, Nat.reduceSub, beq_self_eq_true, Bool.and_self, Bool.and_true, Bool.true_and, Bool.or_false, Bool.false_or, Bool.or_true, Bool.true_or, decide_true, decide_false, Bool.false_eq_true, mkIf, w])

theorem mfirst (h : Hdr) (ty : BitVec 4) (d a : Reg) : Statement (.mfirst h ty d a) :=
  words_of rfl (hdrOf_packR ..) (fOp_packR ..) (fun w => and_left (and_left w)) rfl (fun w => by
    show decVmove _ _ _ = _
    unfold decVmove
    rw [fFnR_packR]
    show mkIf _ _ = _
    simp only [fD_packR, fA_packR, fB_packR, fC_packR, fTy_packR, fRm_packR, fImm13_packR, zR3_packR, zR3rm_packR, zR2_packR, zVn_packR, fMc_packR, zVm_packR, zVrm_packR, zeroAt_31_5_packR, zeroAt_26_10_packR, zeroAt_26_5_packR, zeroAt_44_20_packR, zeroAt_48_3_packR, zeroAt_44_4_packR, zeroAt_51_13_packR, zeroAt_44_7_packR, ofBool_getLsbD_zero, Bool.not_false, Bool.not_true, extract_ofBool, Nat.reduceLT, Nat.zero_add, Nat.zero_le, Nat.le_refl, BitVec.reduceBEq, Nat.reduceBEq, BitVec.ofNat_eq_ofNat, BitVec.reduceToNat, Nat.reduceMod, Nat.reduceLeDiff, Nat.reduceEqDiff, if_false, if_true, reduceIte, Nat.reduceAdd, Nat.reduceSub, beq_self_eq_true, Bool.and_self, Bool.and_true, Bool.true_and, Bool.or_false, Bool.false_or, Bool.or_true, Bool.true_or, decide_true, decide_false, Bool.false_eq_true, mkIf, w])

theorem vres (h : Hdr) (d a : Reg) : Statement (.vres h d a) :=
  words_of rfl (hdrOf_packR ..) (fOp_packR ..) (fun w => and_left w) rfl (fun w => by
    show decVmove _ _ _ = _
    unfold decVmove
    rw [fFnR_packR]
    show mkIf _ _ = _
    simp only [fD_packR, fA_packR, fB_packR, fC_packR, fTy_packR, fRm_packR, fImm13_packR, zR3_packR, zR3rm_packR, zR2_packR, zVn_packR, fMc_packR, zVm_packR, zVrm_packR, zeroAt_31_5_packR, zeroAt_26_10_packR, zeroAt_26_5_packR, zeroAt_44_20_packR, zeroAt_48_3_packR, zeroAt_44_4_packR, zeroAt_51_13_packR, zeroAt_44_7_packR, ofBool_getLsbD_zero, Bool.not_false, Bool.not_true, extract_ofBool, Nat.reduceLT, Nat.zero_add, Nat.zero_le, Nat.le_refl, BitVec.reduceBEq, Nat.reduceBEq, BitVec.ofNat_eq_ofNat, BitVec.reduceToNat, Nat.reduceMod, Nat.reduceLeDiff, Nat.reduceEqDiff, if_false, if_true, reduceIte, Nat.reduceAdd, Nat.reduceSub, beq_self_eq_true, Bool.and_self, Bool.and_true, Bool.true_and, Bool.or_false, Bool.false_or, Bool.or_true, Bool.true_or, decide_true, decide_false, Bool.false_eq_true, mkIf, w])

theorem vmov (h : Hdr) (ty : BitVec 4) (d a : Reg) (mc : MaskCtl) : Statement (.vmov h ty d a mc) :=
  words_of rfl (hdrOf_packR ..) (fOp_packR ..) (fun w => and_left w) rfl (fun w => by
    show decVmove _ _ _ = _
    unfold decVmove
    rw [fFnR_packR]
    show mkIf _ _ = _
    simp only [fD_packR, fA_packR, fB_packR, fC_packR, fTy_packR, fRm_packR, fImm13_packR, zR3_packR, zR3rm_packR, zR2_packR, zVn_packR, fMc_packR, zVm_packR, zVrm_packR, zeroAt_31_5_packR, zeroAt_26_10_packR, zeroAt_26_5_packR, zeroAt_44_20_packR, zeroAt_48_3_packR, zeroAt_44_4_packR, zeroAt_51_13_packR, zeroAt_44_7_packR, ofBool_getLsbD_zero, Bool.not_false, Bool.not_true, extract_ofBool, Nat.reduceLT, Nat.zero_add, Nat.zero_le, Nat.le_refl, BitVec.reduceBEq, Nat.reduceBEq, BitVec.ofNat_eq_ofNat, BitVec.reduceToNat, Nat.reduceMod, Nat.reduceLeDiff, Nat.reduceEqDiff, if_false, if_true, reduceIte, Nat.reduceAdd, Nat.reduceSub, beq_self_eq_true, Bool.and_self, Bool.and_true, Bool.true_and, Bool.or_false, Bool.false_or, Bool.or_true, Bool.true_or, decide_true, decide_false, Bool.false_eq_true, mkIf, w])

theorem vfscale (h : Hdr) (d a b : Reg) (rm : BitVec 3) (mc : MaskCtl) : Statement (.vfscale h d a b rm mc) :=
  words_of rfl (hdrOf_packR ..) (fOp_packR ..) (fun w => w) rfl (fun w => by
    show decVfp _ _ _ = _
    unfold decVfp
    rw [fFnR_packR]
    show mkIf _ _ = _
    simp only [fD_packR, fA_packR, fB_packR, fC_packR, fTy_packR, fRm_packR, fImm13_packR, zR3_packR, zR3rm_packR, zR2_packR, zVn_packR, fMc_packR, zVm_packR, zVrm_packR, zeroAt_31_5_packR, zeroAt_26_10_packR, zeroAt_26_5_packR, zeroAt_44_20_packR, zeroAt_48_3_packR, zeroAt_44_4_packR, zeroAt_51_13_packR, zeroAt_44_7_packR, ofBool_getLsbD_zero, Bool.not_false, Bool.not_true, extract_ofBool, Nat.reduceLT, Nat.zero_add, Nat.zero_le, Nat.le_refl, BitVec.reduceBEq, Nat.reduceBEq, BitVec.ofNat_eq_ofNat, BitVec.reduceToNat, Nat.reduceMod, Nat.reduceLeDiff, Nat.reduceEqDiff, if_false, if_true, reduceIte, Nat.reduceAdd, Nat.reduceSub, beq_self_eq_true, Bool.and_self, Bool.and_true, Bool.true_and, Bool.or_false, Bool.false_or, Bool.or_true, Bool.true_or, decide_true, decide_false, Bool.false_eq_true, mkIf, w])

theorem vfgetexp (h : Hdr) (d a : Reg) (mc : MaskCtl) : Statement (.vfgetexp h d a mc) :=
  words_of rfl (hdrOf_packR ..) (fOp_packR ..) (fun w => w) rfl (fun w => by
    show decVfp _ _ _ = _
    unfold decVfp
    rw [fFnR_packR]
    show mkIf _ _ = _
    simp only [fD_packR, fA_packR, fB_packR, fC_packR, fTy_packR, fRm_packR, fImm13_packR, zR3_packR, zR3rm_packR, zR2_packR, zVn_packR, fMc_packR, zVm_packR, zVrm_packR, zeroAt_31_5_packR, zeroAt_26_10_packR, zeroAt_26_5_packR, zeroAt_44_20_packR, zeroAt_48_3_packR, zeroAt_44_4_packR, zeroAt_51_13_packR, zeroAt_44_7_packR, ofBool_getLsbD_zero, Bool.not_false, Bool.not_true, extract_ofBool, Nat.reduceLT, Nat.zero_add, Nat.zero_le, Nat.le_refl, BitVec.reduceBEq, Nat.reduceBEq, BitVec.ofNat_eq_ofNat, BitVec.reduceToNat, Nat.reduceMod, Nat.reduceLeDiff, Nat.reduceEqDiff, if_false, if_true, reduceIte, Nat.reduceAdd, Nat.reduceSub, beq_self_eq_true, Bool.and_self, Bool.and_true, Bool.true_and, Bool.or_false, Bool.false_or, Bool.or_true, Bool.true_or, decide_true, decide_false, Bool.false_eq_true, mkIf, w])

theorem query (h : Hdr) (d : Reg) (leaf : BitVec 4) : Statement (.query h d leaf) :=
  words_of rfl (hdrOf_packS ..) (fOp_packS ..) (fun w => w) rfl (fun w => by
    show mkIf _ _ = _
    simp only [packS, lowBits, mcImm, msImm, bit4, fD, fA, fB, fC, fFnR, fTy, fRm, fImm13, fFnI, fImm32, fPort, fPd, fImm20, fMc, fMem, fAtom, fChan, fCopy, fCvt, fBind, fMRead, zR3, zR3rm, zR2, zVm, zVrm, zVn, extract_low, extract_high, extract_all, extract_zero, extract_span, app_beq_zero, ofBool_beq_zero, getLsbD_app, zeroAt_eq, ofBool_getLsbD_zero, Bool.not_false, Bool.not_true, extract_ofBool, Nat.reduceLT, Nat.zero_add, Nat.zero_le, Nat.le_refl, BitVec.reduceBEq, Nat.reduceBEq, BitVec.ofNat_eq_ofNat, BitVec.reduceToNat, Nat.reduceMod, Nat.reduceLeDiff, Nat.reduceEqDiff, if_false, if_true, reduceIte, Nat.reduceAdd, Nat.reduceSub, beq_self_eq_true, Bool.and_self, Bool.and_true, Bool.true_and, Bool.or_false, Bool.false_or, Bool.or_true, Bool.true_or, decide_true, decide_false, Bool.false_eq_true, mkIf, w])

theorem csrr (h : Hdr) (d : Reg) (csr : BitVec 12) : Statement (.csrr h d csr) :=
  words_of rfl (hdrOf_packS ..) (fOp_packS ..) (fun w => and_left w) rfl (fun w => by
    show mkIf _ _ = _
    simp only [packS, lowBits, mcImm, msImm, bit4, fD, fA, fB, fC, fFnR, fTy, fRm, fImm13, fFnI, fImm32, fPort, fPd, fImm20, fMc, fMem, fAtom, fChan, fCopy, fCvt, fBind, fMRead, zR3, zR3rm, zR2, zVm, zVrm, zVn, extract_low, extract_high, extract_all, extract_zero, extract_span, app_beq_zero, ofBool_beq_zero, getLsbD_app, zeroAt_eq, ofBool_getLsbD_zero, Bool.not_false, Bool.not_true, extract_ofBool, Nat.reduceLT, Nat.zero_add, Nat.zero_le, Nat.le_refl, BitVec.reduceBEq, Nat.reduceBEq, BitVec.ofNat_eq_ofNat, BitVec.reduceToNat, Nat.reduceMod, Nat.reduceLeDiff, Nat.reduceEqDiff, if_false, if_true, reduceIte, Nat.reduceAdd, Nat.reduceSub, beq_self_eq_true, Bool.and_self, Bool.and_true, Bool.true_and, Bool.or_false, Bool.false_or, Bool.or_true, Bool.true_or, decide_true, decide_false, Bool.false_eq_true, mkIf, w])

theorem csrw (h : Hdr) (d a : Reg) (csr : BitVec 12) : Statement (.csrw h d a csr) :=
  words_of rfl (hdrOf_packS ..) (fOp_packS ..) (fun w => and_left w) rfl (fun w => by
    show mkIf _ _ = _
    simp only [packS, lowBits, mcImm, msImm, bit4, fD, fA, fB, fC, fFnR, fTy, fRm, fImm13, fFnI, fImm32, fPort, fPd, fImm20, fMc, fMem, fAtom, fChan, fCopy, fCvt, fBind, fMRead, zR3, zR3rm, zR2, zVm, zVrm, zVn, extract_low, extract_high, extract_all, extract_zero, extract_span, app_beq_zero, ofBool_beq_zero, getLsbD_app, zeroAt_eq, ofBool_getLsbD_zero, Bool.not_false, Bool.not_true, extract_ofBool, Nat.reduceLT, Nat.zero_add, Nat.zero_le, Nat.le_refl, BitVec.reduceBEq, Nat.reduceBEq, BitVec.ofNat_eq_ofNat, BitVec.reduceToNat, Nat.reduceMod, Nat.reduceLeDiff, Nat.reduceEqDiff, if_false, if_true, reduceIte, Nat.reduceAdd, Nat.reduceSub, beq_self_eq_true, Bool.and_self, Bool.and_true, Bool.true_and, Bool.or_false, Bool.false_or, Bool.or_true, Bool.true_or, decide_true, decide_false, Bool.false_eq_true, mkIf, w])

theorem csrs (h : Hdr) (d a : Reg) (csr : BitVec 12) : Statement (.csrs h d a csr) :=
  words_of rfl (hdrOf_packS ..) (fOp_packS ..) (fun w => and_left w) rfl (fun w => by
    show mkIf _ _ = _
    simp only [packS, lowBits, mcImm, msImm, bit4, fD, fA, fB, fC, fFnR, fTy, fRm, fImm13, fFnI, fImm32, fPort, fPd, fImm20, fMc, fMem, fAtom, fChan, fCopy, fCvt, fBind, fMRead, zR3, zR3rm, zR2, zVm, zVrm, zVn, extract_low, extract_high, extract_all, extract_zero, extract_span, app_beq_zero, ofBool_beq_zero, getLsbD_app, zeroAt_eq, ofBool_getLsbD_zero, Bool.not_false, Bool.not_true, extract_ofBool, Nat.reduceLT, Nat.zero_add, Nat.zero_le, Nat.le_refl, BitVec.reduceBEq, Nat.reduceBEq, BitVec.ofNat_eq_ofNat, BitVec.reduceToNat, Nat.reduceMod, Nat.reduceLeDiff, Nat.reduceEqDiff, if_false, if_true, reduceIte, Nat.reduceAdd, Nat.reduceSub, beq_self_eq_true, Bool.and_self, Bool.and_true, Bool.true_and, Bool.or_false, Bool.false_or, Bool.or_true, Bool.true_or, decide_true, decide_false, Bool.false_eq_true, mkIf, w])

theorem csrc (h : Hdr) (d a : Reg) (csr : BitVec 12) : Statement (.csrc h d a csr) :=
  words_of rfl (hdrOf_packS ..) (fOp_packS ..) (fun w => and_left w) rfl (fun w => by
    show mkIf _ _ = _
    simp only [packS, lowBits, mcImm, msImm, bit4, fD, fA, fB, fC, fFnR, fTy, fRm, fImm13, fFnI, fImm32, fPort, fPd, fImm20, fMc, fMem, fAtom, fChan, fCopy, fCvt, fBind, fMRead, zR3, zR3rm, zR2, zVm, zVrm, zVn, extract_low, extract_high, extract_all, extract_zero, extract_span, app_beq_zero, ofBool_beq_zero, getLsbD_app, zeroAt_eq, ofBool_getLsbD_zero, Bool.not_false, Bool.not_true, extract_ofBool, Nat.reduceLT, Nat.zero_add, Nat.zero_le, Nat.le_refl, BitVec.reduceBEq, Nat.reduceBEq, BitVec.ofNat_eq_ofNat, BitVec.reduceToNat, Nat.reduceMod, Nat.reduceLeDiff, Nat.reduceEqDiff, if_false, if_true, reduceIte, Nat.reduceAdd, Nat.reduceSub, beq_self_eq_true, Bool.and_self, Bool.and_true, Bool.true_and, Bool.or_false, Bool.false_or, Bool.or_true, Bool.true_or, decide_true, decide_false, Bool.false_eq_true, mkIf, w])

theorem trap (h : Hdr) (k : BitVec 20) : Statement (.trap h k) :=
  words_of rfl (hdrOf_packS ..) (fOp_packS ..) (fun w => w) rfl (fun w => by
    show mkIf _ _ = _
    simp only [packS, lowBits, mcImm, msImm, bit4, fD, fA, fB, fC, fFnR, fTy, fRm, fImm13, fFnI, fImm32, fPort, fPd, fImm20, fMc, fMem, fAtom, fChan, fCopy, fCvt, fBind, fMRead, zR3, zR3rm, zR2, zVm, zVrm, zVn, extract_low, extract_high, extract_all, extract_zero, extract_span, app_beq_zero, ofBool_beq_zero, getLsbD_app, zeroAt_eq, ofBool_getLsbD_zero, Bool.not_false, Bool.not_true, extract_ofBool, Nat.reduceLT, Nat.zero_add, Nat.zero_le, Nat.le_refl, BitVec.reduceBEq, Nat.reduceBEq, BitVec.ofNat_eq_ofNat, BitVec.reduceToNat, Nat.reduceMod, Nat.reduceLeDiff, Nat.reduceEqDiff, if_false, if_true, reduceIte, Nat.reduceAdd, Nat.reduceSub, beq_self_eq_true, Bool.and_self, Bool.and_true, Bool.true_and, Bool.or_false, Bool.false_or, Bool.or_true, Bool.true_or, decide_true, decide_false, Bool.false_eq_true, mkIf, w])

theorem hret (h : Hdr) (a : Reg) : Statement (.hret h a) :=
  words_of rfl (hdrOf_packS ..) (fOp_packS ..) (fun w => w) rfl (fun w => by
    show mkIf _ _ = _
    simp only [packS, lowBits, mcImm, msImm, bit4, fD, fA, fB, fC, fFnR, fTy, fRm, fImm13, fFnI, fImm32, fPort, fPd, fImm20, fMc, fMem, fAtom, fChan, fCopy, fCvt, fBind, fMRead, zR3, zR3rm, zR2, zVm, zVrm, zVn, extract_low, extract_high, extract_all, extract_zero, extract_span, app_beq_zero, ofBool_beq_zero, getLsbD_app, zeroAt_eq, ofBool_getLsbD_zero, Bool.not_false, Bool.not_true, extract_ofBool, Nat.reduceLT, Nat.zero_add, Nat.zero_le, Nat.le_refl, BitVec.reduceBEq, Nat.reduceBEq, BitVec.ofNat_eq_ofNat, BitVec.reduceToNat, Nat.reduceMod, Nat.reduceLeDiff, Nat.reduceEqDiff, if_false, if_true, reduceIte, Nat.reduceAdd, Nat.reduceSub, beq_self_eq_true, Bool.and_self, Bool.and_true, Bool.true_and, Bool.or_false, Bool.false_or, Bool.or_true, Bool.true_or, decide_true, decide_false, Bool.false_eq_true, mkIf, w])

theorem brk (h : Hdr) (k : BitVec 20) : Statement (.brk h k) :=
  words_of rfl (hdrOf_packS ..) (fOp_packS ..) (fun w => w) rfl (fun w => by
    show mkIf _ _ = _
    simp only [packS, lowBits, mcImm, msImm, bit4, fD, fA, fB, fC, fFnR, fTy, fRm, fImm13, fFnI, fImm32, fPort, fPd, fImm20, fMc, fMem, fAtom, fChan, fCopy, fCvt, fBind, fMRead, zR3, zR3rm, zR2, zVm, zVrm, zVn, extract_low, extract_high, extract_all, extract_zero, extract_span, app_beq_zero, ofBool_beq_zero, getLsbD_app, zeroAt_eq, ofBool_getLsbD_zero, Bool.not_false, Bool.not_true, extract_ofBool, Nat.reduceLT, Nat.zero_add, Nat.zero_le, Nat.le_refl, BitVec.reduceBEq, Nat.reduceBEq, BitVec.ofNat_eq_ofNat, BitVec.reduceToNat, Nat.reduceMod, Nat.reduceLeDiff, Nat.reduceEqDiff, if_false, if_true, reduceIte, Nat.reduceAdd, Nat.reduceSub, beq_self_eq_true, Bool.and_self, Bool.and_true, Bool.true_and, Bool.or_false, Bool.false_or, Bool.or_true, Bool.true_or, decide_true, decide_false, Bool.false_eq_true, mkIf, w])

theorem inj (h : Hdr) (a : Reg) (v : Bool) (ch : BitVec 14) : Statement (.inj h a v ch) :=
  words_of rfl (hdrOf_packS ..) (fOp_packS ..) (fun w => w) rfl (fun w => by
    show mkIf _ _ = _
    simp only [packS, lowBits, mcImm, msImm, bit4, fD, fA, fB, fC, fFnR, fTy, fRm, fImm13, fFnI, fImm32, fPort, fPd, fImm20, fMc, fMem, fAtom, fChan, fCopy, fCvt, fBind, fMRead, zR3, zR3rm, zR2, zVm, zVrm, zVn, extract_low, extract_high, extract_all, extract_zero, extract_span, app_beq_zero, ofBool_beq_zero, getLsbD_app, zeroAt_eq, ofBool_getLsbD_zero, Bool.not_false, Bool.not_true, extract_ofBool, Nat.reduceLT, Nat.zero_add, Nat.zero_le, Nat.le_refl, BitVec.reduceBEq, Nat.reduceBEq, BitVec.ofNat_eq_ofNat, BitVec.reduceToNat, Nat.reduceMod, Nat.reduceLeDiff, Nat.reduceEqDiff, if_false, if_true, reduceIte, Nat.reduceAdd, Nat.reduceSub, beq_self_eq_true, Bool.and_self, Bool.and_true, Bool.true_and, Bool.or_false, Bool.false_or, Bool.or_true, Bool.true_or, decide_true, decide_false, Bool.false_eq_true, mkIf, w])

theorem mark (h : Hdr) : Statement (.mark h) :=
  words_of rfl (hdrOf_packR ..) (fOp_packR ..) (fun w => w) rfl (fun w => by
    show mkIf _ _ = _
    simp only [packR, lowBits, mcImm, msImm, bit4, fD, fA, fB, fC, fFnR, fTy, fRm, fImm13, fFnI, fImm32, fPort, fPd, fImm20, fMc, fMem, fAtom, fChan, fCopy, fCvt, fBind, fMRead, zR3, zR3rm, zR2, zVm, zVrm, zVn, extract_low, extract_high, extract_all, extract_zero, extract_span, app_beq_zero, ofBool_beq_zero, getLsbD_app, zeroAt_eq, ofBool_getLsbD_zero, Bool.not_false, Bool.not_true, extract_ofBool, Nat.reduceLT, Nat.zero_add, Nat.zero_le, Nat.le_refl, BitVec.reduceBEq, Nat.reduceBEq, BitVec.ofNat_eq_ofNat, BitVec.reduceToNat, Nat.reduceMod, Nat.reduceLeDiff, Nat.reduceEqDiff, if_false, if_true, reduceIte, Nat.reduceAdd, Nat.reduceSub, beq_self_eq_true, Bool.and_self, Bool.and_true, Bool.true_and, Bool.or_false, Bool.false_or, Bool.or_true, Bool.true_or, decide_true, decide_false, Bool.false_eq_true, mkIf, w])

theorem idle (h : Hdr) : Statement (.idle h) :=
  words_of rfl (hdrOf_packR ..) (fOp_packR ..) (fun w => w) rfl (fun w => by
    show mkIf _ _ = _
    simp only [packR, lowBits, mcImm, msImm, bit4, fD, fA, fB, fC, fFnR, fTy, fRm, fImm13, fFnI, fImm32, fPort, fPd, fImm20, fMc, fMem, fAtom, fChan, fCopy, fCvt, fBind, fMRead, zR3, zR3rm, zR2, zVm, zVrm, zVn, extract_low, extract_high, extract_all, extract_zero, extract_span, app_beq_zero, ofBool_beq_zero, getLsbD_app, zeroAt_eq, ofBool_getLsbD_zero, Bool.not_false, Bool.not_true, extract_ofBool, Nat.reduceLT, Nat.zero_add, Nat.zero_le, Nat.le_refl, BitVec.reduceBEq, Nat.reduceBEq, BitVec.ofNat_eq_ofNat, BitVec.reduceToNat, Nat.reduceMod, Nat.reduceLeDiff, Nat.reduceEqDiff, if_false, if_true, reduceIte, Nat.reduceAdd, Nat.reduceSub, beq_self_eq_true, Bool.and_self, Bool.and_true, Bool.true_and, Bool.or_false, Bool.false_or, Bool.or_true, Bool.true_or, decide_true, decide_false, Bool.false_eq_true, mkIf, w])

theorem loadObject (vd port : Nat) (c : Cmd) : Statement (.loadObject vd port c) := ⟨nofun, fun _ => rfl⟩

theorem unloadObject (vd port : Nat) (c : Cmd) : Statement (.unloadObject vd port c) := ⟨nofun, fun _ => rfl⟩

theorem launch (vd port : Nat) (c : Cmd) : Statement (.launch vd port c) := ⟨nofun, fun _ => rfl⟩

theorem pause (vd port : Nat) (c : Cmd) : Statement (.pause vd port c) := ⟨nofun, fun _ => rfl⟩

theorem resume (vd port : Nat) (c : Cmd) : Statement (.resume vd port c) := ⟨nofun, fun _ => rfl⟩

theorem replace (vd port : Nat) (c : Cmd) : Statement (.replace vd port c) := ⟨nofun, fun _ => rfl⟩

theorem abort (vd port : Nat) (c : Cmd) : Statement (.abort vd port c) := ⟨nofun, fun _ => rfl⟩

theorem snapshot (vd port : Nat) (c : Cmd) : Statement (.snapshot vd port c) := ⟨nofun, fun _ => rfl⟩

theorem map (vd port : Nat) (c : Cmd) : Statement (.map vd port c) := ⟨nofun, fun _ => rfl⟩

theorem unmap (vd port : Nat) (c : Cmd) : Statement (.unmap vd port c) := ⟨nofun, fun _ => rfl⟩

theorem stripGrant (vd port : Nat) (c : Cmd) : Statement (.stripGrant vd port c) := ⟨nofun, fun _ => rfl⟩

theorem stripRevoke (vd port : Nat) (c : Cmd) : Statement (.stripRevoke vd port c) := ⟨nofun, fun _ => rfl⟩

theorem band (vd port : Nat) (c : Cmd) : Statement (.band vd port c) := ⟨nofun, fun _ => rfl⟩

theorem ways (vd port : Nat) (c : Cmd) : Statement (.ways vd port c) := ⟨nofun, fun _ => rfl⟩

theorem grant (vd port : Nat) (c : Cmd) : Statement (.grant vd port c) := ⟨nofun, fun _ => rfl⟩

theorem ungrant (vd port : Nat) (c : Cmd) : Statement (.ungrant vd port c) := ⟨nofun, fun _ => rfl⟩

theorem pod (vd port : Nat) (c : Cmd) : Statement (.pod vd port c) := ⟨nofun, fun _ => rfl⟩

theorem hostFence (vd port : Nat) (c : Cmd) : Statement (.hostFence vd port c) := ⟨nofun, fun _ => rfl⟩

theorem queryFeatureLeaf (vd port : Nat) (leaf : BitVec 4) (c : Cmd) : Statement (.queryFeatureLeaf vd port leaf c) := ⟨nofun, fun _ => rfl⟩

theorem queryAttestationQuote (vd port : Nat) (c : Cmd) : Statement (.queryAttestationQuote vd port c) := ⟨nofun, fun _ => rfl⟩

theorem commandDispatch (vd port : Nat) : Statement (.commandDispatch vd port) := ⟨nofun, fun _ => rfl⟩

theorem commandCompletion (vd port : Nat) (seq : BitVec 32) : Statement (.commandCompletion vd port seq) := ⟨nofun, fun _ => rfl⟩

theorem fuseAdvance (len : BitVec 32) (i3c : Option (List Byte)) : Statement (.fuseAdvance len i3c) := ⟨nofun, fun _ => rfl⟩

theorem chcapWrite (die : Nat) (value : Word) : Statement (.chcapWrite die value) := ⟨nofun, fun _ => rfl⟩

theorem vdpolWrite (vd : Nat) (value : Word) : Statement (.vdpolWrite vd value) := ⟨nofun, fun _ => rfl⟩

theorem vdqpolWrite (vd : Nat) (value : Word) : Statement (.vdqpolWrite vd value) := ⟨nofun, fun _ => rfl⟩

theorem featmaskWrite (vf leaf : Nat) (value : Word) : Statement (.featmaskWrite vf leaf value) := ⟨nofun, fun _ => rfl⟩

theorem belctlWrite (die : Nat) (value : Word) : Statement (.belctlWrite die value) := ⟨nofun, fun _ => rfl⟩

theorem registerWrite (fn off : Nat) (value : Word) : Statement (.registerWrite fn off value) := ⟨nofun, fun _ => rfl⟩

theorem bar2Write (vd off : Nat) (bytes : List Byte) : Statement (.bar2Write vd off bytes) := ⟨nofun, fun _ => rfl⟩

theorem bar2Read (vd off len : Nat) : Statement (.bar2Read vd off len) := ⟨nofun, fun _ => rfl⟩

theorem powerOn : Statement .powerOn := ⟨nofun, fun _ => rfl⟩

theorem powerFail : Statement .powerFail := ⟨nofun, fun _ => rfl⟩

theorem packageReset : Statement .packageReset := ⟨nofun, fun _ => rfl⟩

theorem vfFlr : Statement .vfFlr := ⟨nofun, fun _ => rfl⟩

theorem converterFault : Statement .converterFault := ⟨nofun, fun _ => rfl⟩

theorem railSample : Statement .railSample := ⟨nofun, fun _ => rfl⟩

theorem chimneyStep : Statement .chimneyStep := ⟨nofun, fun _ => rfl⟩

theorem thermalTrip : Statement .thermalTrip := ⟨nofun, fun _ => rfl⟩

theorem connectorGrade : Statement .connectorGrade := ⟨nofun, fun _ => rfl⟩

theorem hostLinkTrain : Statement .hostLinkTrain := ⟨nofun, fun _ => rfl⟩

theorem damperRefill : Statement .damperRefill := ⟨nofun, fun _ => rfl⟩

theorem damperRound : Statement .damperRound := ⟨nofun, fun _ => rfl⟩

theorem stripYield : Statement .stripYield := ⟨nofun, fun _ => rfl⟩

theorem yieldGraceExpiry : Statement .yieldGraceExpiry := ⟨nofun, fun _ => rfl⟩

theorem guardDrop : Statement .guardDrop := ⟨nofun, fun _ => rfl⟩

theorem guardReport : Statement .guardReport := ⟨nofun, fun _ => rfl⟩

theorem tagpar : Statement .tagpar := ⟨nofun, fun _ => rfl⟩

theorem ecc : Statement .ecc := ⟨nofun, fun _ => rfl⟩

theorem collectiveContribution : Statement .collectiveContribution := ⟨nofun, fun _ => rfl⟩

theorem collectiveTimeout : Statement .collectiveTimeout := ⟨nofun, fun _ => rfl⟩

theorem bridgeArrivalCheck : Statement .bridgeArrivalCheck := ⟨nofun, fun _ => rfl⟩

theorem podLinkArrivalCheck : Statement .podLinkArrivalCheck := ⟨nofun, fun _ => rfl⟩

theorem lathePlace : Statement .lathePlace := ⟨nofun, fun _ => rfl⟩

theorem firingStart : Statement .firingStart := ⟨nofun, fun _ => rfl⟩

theorem handlerFiring : Statement .handlerFiring := ⟨nofun, fun _ => rfl⟩

theorem steerAction : Statement .steerAction := ⟨nofun, fun _ => rfl⟩

theorem mergeAction : Statement .mergeAction := ⟨nofun, fun _ => rfl⟩

theorem carryAction : Statement .carryAction := ⟨nofun, fun _ => rfl⟩

theorem invariantAction : Statement .invariantAction := ⟨nofun, fun _ => rfl⟩

theorem loopAction : Statement .loopAction := ⟨nofun, fun _ => rfl⟩

theorem loaderRound : Statement .loaderRound := ⟨nofun, fun _ => rfl⟩

theorem storerRound : Statement .storerRound := ⟨nofun, fun _ => rfl⟩

theorem collectiveRound : Statement .collectiveRound := ⟨nofun, fun _ => rfl⟩

theorem relatchEdge : Statement .relatchEdge := ⟨nofun, fun _ => rfl⟩

theorem relatchCore : Statement .relatchCore := ⟨nofun, fun _ => rfl⟩

theorem pageWalk : Statement .pageWalk := ⟨nofun, fun _ => rfl⟩

theorem homeSliceAccess : Statement .homeSliceAccess := ⟨nofun, fun _ => rfl⟩

theorem tokenLand : Statement .tokenLand := ⟨nofun, fun _ => rfl⟩

theorem xsendDeliver : Statement .xsendDeliver := ⟨nofun, fun _ => rfl⟩

theorem ringAccept : Statement .ringAccept := ⟨nofun, fun _ => rfl⟩

theorem selection : Statement .selection := ⟨nofun, fun _ => rfl⟩

theorem phaseDrain : Statement .phaseDrain := ⟨nofun, fun _ => rfl⟩

theorem phaseConfig : Statement .phaseConfig := ⟨nofun, fun _ => rfl⟩

theorem bankHandoff : Statement .bankHandoff := ⟨nofun, fun _ => rfl⟩

theorem streamBarrierRelease : Statement .streamBarrierRelease := ⟨nofun, fun _ => rfl⟩

theorem deadlock : Statement .deadlock := ⟨nofun, fun _ => rfl⟩

theorem markerInject : Statement .markerInject := ⟨nofun, fun _ => rfl⟩

theorem periodicCut : Statement .periodicCut := ⟨nofun, fun _ => rfl⟩

theorem markerArrival : Statement .markerArrival := ⟨nofun, fun _ => rfl⟩

theorem elementSave : Statement .elementSave := ⟨nofun, fun _ => rfl⟩

theorem rollback : Statement .rollback := ⟨nofun, fun _ => rfl⟩

theorem faultDelivery : Statement .faultDelivery := ⟨nofun, fun _ => rfl⟩

theorem segmentSelect : Statement .segmentSelect := ⟨nofun, fun _ => rfl⟩

theorem specDrain : Statement .specDrain := ⟨nofun, fun _ => rfl⟩

theorem overflowRelease : Statement .overflowRelease := ⟨nofun, fun _ => rfl⟩

theorem fire : Statement .fire := ⟨nofun, fun _ => rfl⟩

theorem mreadServe : Statement .mreadServe := ⟨nofun, fun _ => rfl⟩

theorem mreduceReceipt : Statement .mreduceReceipt := ⟨nofun, fun _ => rfl⟩

theorem bellowsTick : Statement .bellowsTick := ⟨nofun, fun _ => rfl⟩

theorem dummyFire : Statement .dummyFire := ⟨nofun, fun _ => rfl⟩

theorem copyTransfer : Statement .copyTransfer := ⟨nofun, fun _ => rfl⟩

theorem copyComplete : Statement .copyComplete := ⟨nofun, fun _ => rfl⟩

theorem resultWriteback : Statement .resultWriteback := ⟨nofun, fun _ => rfl⟩

theorem landingWrite : Statement .landingWrite := ⟨nofun, fun _ => rfl⟩

theorem waitExpiry : Statement .waitExpiry := ⟨nofun, fun _ => rfl⟩

theorem idleWake : Statement .idleWake := ⟨nofun, fun _ => rfl⟩

theorem podLinkRetrain : Statement .podLinkRetrain := ⟨nofun, fun _ => rfl⟩

end Encoding
end Laws
end Sys2Proof
end

