-- ==== Sys2Proof/Laws/Rounding.lean ====
section
/-! SUPPORT. Rounding, and placing on a grid, depend on the exact value alone and not on how it is split into m · 2^e; the residue of an exact sum is
the sum of the residues. -/

namespace Sys2Proof.Machine

theorem roundUp_zero (rm : Nat) (neg : Bool) (n d : Nat) (hd : 0 < d) : roundUp rm neg n 0 d = false := by
  unfold roundUp
  split <;> simp <;> omega

theorem roundUp_scale (rm : Nat) (neg : Bool) (n r d k : Nat) (hk : 0 < k) : roundUp rm neg n (r * k) (d * k) = roundUp rm neg n r d := by
  have h1 : (2 * (r * k) > d * k) = (2 * r > d) := by
    rw [← Nat.mul_assoc]; exact propext (Nat.mul_lt_mul_right hk)
  have h2 : (2 * (r * k) = d * k) = (2 * r = d) := by
    rw [← Nat.mul_assoc]; exact propext (Nat.mul_left_inj hk.ne')
  have h3 : (2 * (r * k) ≥ d * k) = (2 * r ≥ d) := by
    rw [← Nat.mul_assoc]; exact propext (Nat.mul_le_mul_right_iff hk)
  have h4 : (r * k > 0) = (r > 0) := propext (Nat.mul_pos_iff_of_pos_right hk)
  unfold roundUp
  simp only [h1, h2, h3, h4]

theorem log2_mul_pow (a k : Nat) (ha : a ≠ 0) : (a * 2 ^ k).log2 = a.log2 + k := by
  have h2 : 2 ^ k ≠ 0 := by positivity
  rw [Nat.log2_eq_iff (Nat.mul_ne_zero ha h2)]
  have h := (Nat.log2_eq_iff ha (k := a.log2)).mp rfl
  constructor
  · rw [pow_add]; exact Nat.mul_le_mul_right _ h.1
  · rw [show a.log2 + k + 1 = (a.log2 + 1) + k by omega, pow_add]; exact Nat.mul_lt_mul_of_pos_right h.2 (by positivity)

/-- Rounding depends on the value alone: the magnitude a · 2^e counted in units of 2^g. -/
theorem roundMag_scale (rm : Nat) (neg : Bool) (a k : Nat) (e g : Int) (ha : a ≠ 0) :
    roundMag rm neg (a * 2 ^ k) (e - k) g = roundMag rm neg a e g := by
  have hk : a * 2 ^ k ≠ 0 := Nat.mul_ne_zero ha (by positivity)
  unfold roundMag
  rw [log2_mul_pow a k ha]
  by_cases h1 : g ≤ e - k
  · rw [if_pos h1, if_pos (by omega), Nat.mul_assoc, ← pow_add, show k + (e - k - g).toNat = (e - g).toNat by omega]
  · by_cases h2 : g ≤ e
    · rw [if_neg h1, if_pos h2, if_neg hk, if_neg (by omega)]
      have hs : a * 2 ^ k = a * 2 ^ (e - g).toNat * 2 ^ (g - (e - k)).toNat := by
        rw [Nat.mul_assoc, ← pow_add, show (e - g).toNat + (g - (e - k)).toNat = k by omega]
      have hd : 0 < 2 ^ (g - (e - k)).toNat := by positivity
      simp only [hs, Nat.mul_div_cancel _ hd, Nat.mul_mod_left, roundUp_zero _ _ _ _ hd]
      rfl
    · rw [if_neg h1, if_neg h2, if_neg hk, if_neg ha]
      have hp : 0 < 2 ^ k := by positivity
      have hd : 2 ^ (g - (e - k)).toNat = 2 ^ (g - e).toNat * 2 ^ k := by
        rw [← pow_add, show (g - e).toNat + k = (g - (e - k)).toNat by omega]
      have hq : a * 2 ^ k / (2 ^ (g - e).toNat * 2 ^ k) = a / 2 ^ (g - e).toNat := Nat.mul_div_mul_right _ _ hp
      have hr : a * 2 ^ k % (2 ^ (g - e).toNat * 2 ^ k) = a % 2 ^ (g - e).toNat * 2 ^ k := Nat.mul_mod_mul_right _ _ _
      simp only [hd, hq, hr, roundUp_scale _ _ _ _ _ _ hp]
      by_cases h3 : (a.log2 : Int) + 2 < g - e
      · rw [if_pos (by push_cast; omega), if_pos h3]
      · rw [if_neg (by push_cast; omega), if_neg h3]
        congr 1
        have : (a % 2 ^ (g - e).toNat * 2 ^ k = 0) = (a % 2 ^ (g - e).toNat = 0) := by simp
        simp only [beq_eq_decide, this]

/-- Round is a function of the exact value: m · 2^k at the exponent e - k rounds as m at e (R264). -/
theorem roundF_scale (ty rm : Nat) (m e : Int) (k : Nat) : roundF ty rm (m * 2 ^ k) (e - k) = roundF ty rm m e := by
  by_cases hm : m = 0
  · simp [hm, roundF]
  · have hm' : m * 2 ^ k ≠ 0 := mul_ne_zero hm (by positivity)
    have ha : (m * 2 ^ k).natAbs = m.natAbs * 2 ^ k := by rw [Int.natAbs_mul, Int.natAbs_pow]; rfl
    have hn : decide (m * 2 ^ k < 0) = decide (m < 0) := by
      have : (m * 2 ^ k < 0) = (m < 0) := propext ⟨fun h => neg_of_mul_neg_left h (by positivity), fun h => mul_neg_of_neg_of_pos h (by positivity)⟩
      simp only [this]
    have h0 : m.natAbs ≠ 0 := Int.natAbs_ne_zero.mpr hm
    unfold roundF
    rw [if_neg hm', if_neg hm]
    simp only [ha, hn, log2_mul_pow _ _ h0, roundMag_scale _ _ _ _ _ _ h0]
    rw [show ((m.natAbs.log2 + k : Nat) : Int) + (e - k) = m.natAbs.log2 + e by push_cast; ring]

/-- Round to an integer type is a function of the exact value (R264). -/
theorem roundI_scale (ty rm : Nat) (m e : Int) (k : Nat) : roundI ty rm (m * 2 ^ k) (e - k) = roundI ty rm m e := by
  by_cases hm : m = 0
  · subst hm
    have h : ∀ e' : Int, roundMag rm (decide ((0 : Int) < 0)) (Int.natAbs 0) e' 0 = (0, true) := by
      intro e'; unfold roundMag; simp
    simp only [zero_mul]
    unfold roundI
    simp only [h]
  · have ha : (m * 2 ^ k).natAbs = m.natAbs * 2 ^ k := by rw [Int.natAbs_mul, Int.natAbs_pow]; rfl
    have hn : decide (m * 2 ^ k < 0) = decide (m < 0) := by
      have : (m * 2 ^ k < 0) = (m < 0) := propext ⟨fun h => neg_of_mul_neg_left h (by positivity), fun h => mul_neg_of_neg_of_pos h (by positivity)⟩
      simp only [this]
    unfold roundI
    simp only [ha, hn, roundMag_scale _ _ _ _ _ _ (Int.natAbs_ne_zero.mpr hm)]

/-- What a grid makes of a value depends on the value alone (R268). -/
theorem toGrid_scale (m e g : Int) (k : Nat) : toGrid (m * 2 ^ k) (e - k) g = toGrid m e g := by
  have hp : (0 : Int) < 2 ^ k := by positivity
  unfold toGrid
  by_cases h1 : g ≤ e - k
  · rw [if_pos h1, if_pos (by omega), mul_assoc, ← pow_add, show k + (e - k - g).toNat = (e - g).toNat by omega]
  · rw [if_neg h1]
    by_cases h2 : g ≤ e
    · rw [if_pos h2]
      have hs : m * 2 ^ k = m * 2 ^ (e - g).toNat * 2 ^ (g - (e - k)).toNat := by
        rw [mul_assoc, ← pow_add, show (e - g).toNat + (g - (e - k)).toNat = k by omega]
      have hd : (2 : Int) ^ (g - (e - k)).toNat ≠ 0 := by positivity
      rw [hs, Int.mul_tdiv_cancel _ hd]
      simp
    · rw [if_neg h2]
      have hd : (2 : Int) ^ (g - (e - k)).toNat = 2 ^ (g - e).toNat * 2 ^ k := by
        rw [← pow_add, show (g - e).toNat + k = (g - (e - k)).toNat by omega]
      rw [hd, Int.mul_tdiv_mul_of_pos_left _ _ hp]
      have : m * 2 ^ k % (2 ^ (g - e).toNat * 2 ^ k) = m % 2 ^ (g - e).toNat * 2 ^ k := by
        rw [mul_comm m, mul_comm ((2 : Int) ^ (g - e).toNat), Int.mul_emod_mul_of_pos _ _ hp, mul_comm]
      have h3 : (m % 2 ^ (g - e).toNat * 2 ^ k = 0) = (m % 2 ^ (g - e).toNat = 0) := by simp
      simp only [this, bne, beq_eq_decide, h3]

/-! ## The residue of an exact sum (R276, R415) -/

theorem resM_pow61 : (2 : Int) ^ 61 ≡ 1 [ZMOD (resM : Int)] := by
  unfold Int.ModEq resM; norm_num

/-- Powers of two agree modulo M where their exponents agree modulo 61. -/
theorem pow_resM (a b : Nat) (h : a % 61 = b % 61) : (2 : Int) ^ a ≡ 2 ^ b [ZMOD (resM : Int)] := by
  have red (n : Nat) : (2 : Int) ^ n ≡ 2 ^ (n % 61) [ZMOD (resM : Int)] := by
    conv_lhs => rw [← Nat.div_add_mod n 61, pow_add, pow_mul]
    simpa using (resM_pow61.pow (n / 61)).mul_right (2 ^ (n % 61))
  exact (red a).trans (h ▸ (red b).symm)

theorem resDyadic_lt (m e : Int) : resDyadic m e < resM := by
  have h0 : 0 < resM := by unfold resM; norm_num
  have : m.natAbs % resM * 2 ^ (e % 61).toNat % resM < resM := Nat.mod_lt _ h0
  unfold resDyadic
  dsimp only
  split
  next h =>
    simp only [Bool.and_eq_true, decide_eq_true_eq] at h
    exact Nat.sub_lt h0 (Nat.pos_of_ne_zero h.2)
  next => exact this

/-- Res of m · 2^e is congruent to m · 2^(e mod 61) (R276). -/
theorem resDyadic_modEq (m e : Int) : (resDyadic m e : Int) ≡ m * 2 ^ (e % 61).toNat [ZMOD (resM : Int)] := by
  have h0 : 0 < resM := by unfold resM; norm_num
  have hx : ((m.natAbs % resM * 2 ^ (e % 61).toNat % resM : Nat) : Int) ≡ m.natAbs * 2 ^ (e % 61).toNat [ZMOD (resM : Int)] := by
    push_cast
    exact (Int.mod_modEq _ _).trans ((Int.mod_modEq _ _).mul_right _)
  have hlt : m.natAbs % resM * 2 ^ (e % 61).toNat % resM < resM := Nat.mod_lt _ h0
  unfold resDyadic
  dsimp only
  generalize m.natAbs % resM * 2 ^ (e % 61).toNat % resM = x at hx hlt
  split
  next h =>
    simp only [Bool.and_eq_true, decide_eq_true_eq] at h
    have hm : (m.natAbs : Int) = -m := by have := h.1; omega
    rw [hm] at hx
    rw [Nat.cast_sub hlt.le]
    have := (Int.ModEq.refl (resM : Int)).sub hx
    refine this.trans ?_
    have hz : (resM : Int) - -m * 2 ^ (e % 61).toNat = m * 2 ^ (e % 61).toNat + resM := by ring
    rw [hz]
    exact Int.add_modEq_right ..
  next h =>
    simp only [Bool.and_eq_true, decide_eq_true_eq] at h
    by_cases hm : m < 0
    · have hx0 : x = 0 := by by_contra hne; exact h ⟨hm, hne⟩
      have hm' : (m.natAbs : Int) = -m := by omega
      rw [hm', hx0] at hx
      rw [hx0]
      have := hx.neg
      simpa using this
    · have hm' : (m.natAbs : Int) = m := by omega
      rwa [hm'] at hx

/-- What stands on a grid without a part lost has the residue of the value. -/
theorem toGrid_res (m e g : Int) (h : (toGrid m e g).2 = false) :
    m * 2 ^ (e % 61).toNat ≡ (toGrid m e g).1 * 2 ^ (g % 61).toNat [ZMOD (resM : Int)] := by
  by_cases hg : g ≤ e
  · have h1 : (toGrid m e g).1 = m * 2 ^ (e - g).toNat := by unfold toGrid; rw [if_pos hg]
    rw [h1, mul_assoc, ← pow_add]
    exact (pow_resM _ _ (by omega)).mul_left m
  · have h1 : (toGrid m e g).1 = m.tdiv (2 ^ (g - e).toNat) := by unfold toGrid; rw [if_neg hg]
    have h2 : m % 2 ^ (g - e).toNat = 0 := by
      unfold toGrid at h; rw [if_neg hg] at h; simpa using h
    obtain ⟨q, hq⟩ := Int.dvd_of_emod_eq_zero h2
    have hp : (2 : Int) ^ (g - e).toNat ≠ 0 := by positivity
    rw [h1, hq, Int.mul_tdiv_cancel_left _ hp, mul_comm ((2 : Int) ^ _) q, mul_assoc, ← pow_add]
    exact (pow_resM _ _ (by omega)).mul_left q

/-- The sum of the finite values on their grid, and whether a part of one is lost. -/
theorem rxadd_fold (g : Int) (vs : List FVal) (hv : ∀ v ∈ vs, v.isNan = false ∧ v.isInf = false) :
    ∀ (a : Nat) (t : Int) (b : Bool), (a : Int) ≡ t * 2 ^ (g % 61).toNat [ZMOD (resM : Int)] →
      let f := vs.foldl (fun (acc : Int × Bool) v => (acc.1 + (toGrid v.dyadic.1 v.dyadic.2 g).1, acc.2 || (toGrid v.dyadic.1 v.dyadic.2 g).2)) (t, b)
      f.2 = false → b = false ∧
        ((vs.foldl (fun a v => (a + resVal v 0) % resM) a : Nat) : Int) ≡ f.1 * 2 ^ (g % 61).toNat [ZMOD (resM : Int)] := by
  induction vs with
  | nil => intro a t b h f hf; exact ⟨hf, h⟩
  | cons v vs ih =>
    intro a t b h f hf
    have hr : (toGrid v.dyadic.1 v.dyadic.2 g).2 = false → (resVal v 0 : Int) ≡ (toGrid v.dyadic.1 v.dyadic.2 g).1 * 2 ^ (g % 61).toNat [ZMOD (resM : Int)] := by
      intro hl
      cases v with
      | fin m e => simpa [resVal, FVal.dyadic] using (resDyadic_modEq m e).trans (toGrid_res m e g hl)
      | negZero => simpa [resVal, FVal.dyadic] using toGrid_res 0 0 g hl
      | inf n => simpa [FVal.isInf] using (hv (.inf n) (by simp)).2
      | nan n => simpa [FVal.isNan] using (hv (.nan n) (by simp)).1
    have ih' := ih (fun v h => hv v (by simp [h])) ((a + resVal v 0) % resM) (t + (toGrid v.dyadic.1 v.dyadic.2 g).1)
      (b || (toGrid v.dyadic.1 v.dyadic.2 g).2)
    by_cases hl : (toGrid v.dyadic.1 v.dyadic.2 g).2 = false
    · have hstep : (((a + resVal v 0) % resM : Nat) : Int) ≡ (t + (toGrid v.dyadic.1 v.dyadic.2 g).1) * 2 ^ (g % 61).toNat [ZMOD (resM : Int)] := by
        push_cast
        rw [add_mul]
        exact (Int.mod_modEq _ _).trans (h.add (hr hl))
      have := ih' hstep hf
      exact ⟨by simpa [hl] using this.1, this.2⟩
    · exfalso
      have keep : ∀ (ws : List FVal) (x : Int), (ws.foldl (fun (acc : Int × Bool) v =>
          (acc.1 + (toGrid v.dyadic.1 v.dyadic.2 g).1, acc.2 || (toGrid v.dyadic.1 v.dyadic.2 g).2)) (x, true)).2 = true := by
        intro ws
        induction ws with
        | nil => intro x; rfl
        | cons w ws ih => intro x; simpa using ih _
      have : f.2 = true := by
        have hb : (toGrid v.dyadic.1 v.dyadic.2 g).2 = true := by simpa using hl
        simp only [f, List.foldl_cons, hb, Bool.or_true]
        exact keep _ _
      rw [this] at hf
      exact Bool.noConfusion hf

/-- The residue lane finds no mismatch where VRXADD neither truncates nor clamps nor meets a special (R415). -/
theorem rxadd_checks (n : BitVec 128) (anchor : BitVec 16) (vs : List FVal) (hs : (rxaddRes n anchor vs).2.1 = false)
    (hx : (rxaddRes n anchor vs).1.xw = false) : rxaddWant n anchor vs = rxaddFound (rxaddRes n anchor vs).1.n anchor := by
  have hspec : (decide (n = xaSpecial) || vs.any fun v => v.isNan || v.isInf) = false := hs
  rw [Bool.or_eq_false_iff] at hspec
  obtain ⟨hn, hv⟩ := hspec
  have hv' : ∀ v ∈ vs, v.isNan = false ∧ v.isInf = false := by
    intro v h
    have := List.any_eq_false.mp hv v h
    simpa using this
  have hfil : vs.filter (fun v => !(v.isNan || v.isInf)) = vs := by
    rw [List.filter_eq_self]
    intro v h; simp [hv' v h]
  have hn' : ¬ n = xaSpecial := by simpa using hn
  have hres : (rxaddRes n anchor vs).1 = xaFit (vs.foldl (fun (acc : Int × Bool) v =>
      (acc.1 + (toGrid v.dyadic.1 v.dyadic.2 (anchor.toInt - 96)).1, acc.2 || (toGrid v.dyadic.1 v.dyadic.2 (anchor.toInt - 96)).2)) (n.toInt, false)).1
      (vs.foldl (fun (acc : Int × Bool) v =>
      (acc.1 + (toGrid v.dyadic.1 v.dyadic.2 (anchor.toInt - 96)).1, acc.2 || (toGrid v.dyadic.1 v.dyadic.2 (anchor.toInt - 96)).2)) (n.toInt, false)).2 := by
    simp only [rxaddRes, hv, hn', hfil, decide_false, Bool.or_false, Bool.false_eq_true, if_false]
  have hfold := rxadd_fold (anchor.toInt - 96) vs hv' (resDyadic n.toInt (anchor.toInt - 96)) n.toInt false (resDyadic_modEq _ _)
  rw [hres] at hx ⊢
  generalize vs.foldl (fun (acc : Int × Bool) v =>
      (acc.1 + (toGrid v.dyadic.1 v.dyadic.2 (anchor.toInt - 96)).1, acc.2 || (toGrid v.dyadic.1 v.dyadic.2 (anchor.toInt - 96)).2)) (n.toInt, false) = f at hx hfold ⊢
  have hfit : f.2 = false ∧ -xaMax ≤ f.1 ∧ f.1 ≤ xaMax ∧ (xaFit f.1 f.2).n = BitVec.ofInt 128 f.1 := by
    unfold xaFit at hx ⊢
    split at hx
    · simp at hx
    · split at hx
      · simp at hx
      · rename_i h1 h2
        rw [if_neg h1, if_neg h2]
        exact ⟨hx, by omega, by omega, rfl⟩
  obtain ⟨hf, hlo, hhi, hnn⟩ := hfit
  have hint : (BitVec.ofInt 128 f.1).toInt = f.1 := by
    rw [BitVec.toInt_ofInt, Int.bmod_eq_of_le] <;> unfold xaMax at * <;> norm_num at * <;> omega
  have hsp : ¬ BitVec.ofInt 128 f.1 = xaSpecial := by
    intro h
    have : (BitVec.ofInt 128 f.1).toInt = xaSpecial.toInt := by rw [h]
    rw [hint] at this
    have hval : xaSpecial.toInt = -(2 ^ 127) := by decide
    rw [hval] at this
    unfold xaMax at hlo
    omega
  have hw := (hfold hf).2
  have hfound : rxaddFound (xaFit f.1 f.2).n anchor = resDyadic f.1 (anchor.toInt - 96) := by
    rw [hnn]
    simp only [rxaddFound, xaVal, hsp, if_false, resVal, hint, add_zero]
  have hwant : rxaddWant n anchor vs = vs.foldl (fun a v => (a + resVal v 0) % resM) (resDyadic n.toInt (anchor.toInt - 96)) := by
    simp only [rxaddWant, xaVal, hn', if_false, resVal, add_zero]
  rw [hfound, hwant]
  have hlt1 : vs.foldl (fun a v => (a + resVal v 0) % resM) (resDyadic n.toInt (anchor.toInt - 96)) < resM := by
    have : ∀ (ws : List FVal) (a : Nat), a < resM → ws.foldl (fun a v => (a + resVal v 0) % resM) a < resM := by
      intro ws
      induction ws with
      | nil => intro a h; exact h
      | cons w ws ih => intro a _; exact ih _ (Nat.mod_lt _ (by unfold resM; norm_num))
    exact this _ _ (resDyadic_lt _ _)
  have hlt2 := resDyadic_lt f.1 (anchor.toInt - 96)
  have heq := hw.trans (resDyadic_modEq f.1 (anchor.toInt - 96)).symm
  unfold Int.ModEq at heq
  rw [Int.emod_eq_of_lt (by omega) (by exact_mod_cast hlt1), Int.emod_eq_of_lt (by omega) (by exact_mod_cast hlt2)] at heq
  exact_mod_cast heq

end Sys2Proof.Machine
end

