-- ==== Sys2Proof/Tests/Slice0.lean ====
section
/-! SUPPORT. Tests of the package's own: ill-formed terms that the checks refuse, words that the spec writes out, and for every statement
with hypotheses a state and operands that meet them. -/

set_option Elab.async false

open Sys2Proof Sys2Proof.Machine

namespace Sys2Proof.Tests

def hd : Hdr := { pn := false, pr := 0, sw := false, gap := 0 }
def mc : MaskCtl := { zm := false, ms := 0 }
def memF : MemF := { disp := 0, sp := false, ord := 0, scope := 0, sc := 0, sz := 3, b := 0, a := 0, d := 1 }
def atomF : AtomF := { disp := 0, c := 9, ord := 0, scope := 0, sc := 0, sz := 3, b := 0, a := 6, d := 0 }
def chanF : ChanF := { pd := 0, nb := false, v := false, port := 0, x := 5 }
def cvtF : CvtF := { pos := 0, ovf := 0, dt := 8, mc := mc, rm := 0, ty := 12, c := 0, a := 2, d := 1 }
def copyF : CopyF := { sf := false, ssp := 1, dsp := 1, c := 0, b := 0, a := 0, d := 1 }
def bindF : BindF := { k := 1, stride := 0, base := 24, amask := 1, ty := 11, ca := false, cb := false, acc := 0 }
def mreadF : MReadF := { f := 1, ty := 12, rm := 0, b := 7, a := 0, d := 4 }
def cmd : Cmd := { seq := 1, mbz := 0, debug := false, vec := 0, irq := false, ver := 3, cpl := 0, p0 := 0, p1 := 0, p2 := 0, p3 := 0, p4 := 0, p5 := 0 }

/-! ## The checks of WellFormed, each with a term it refuses -/

theorem test_wf_header : (Instr.nop { hd with pn := true }).wf = false ∧ (Instr.nop { hd with pn := true, pr := 1 }).wf = true := by decide
theorem test_wf_predicate : (Instr.sel hd 1 2 3 8).wf = false ∧ (Instr.pand hd 8 0 0).wf = false ∧ (Instr.pand hd 0 8 0).wf = false ∧
    (Instr.pand hd 0 0 8).wf = false ∧ (Instr.brp hd 8 0).wf = false ∧ (Instr.pand hd 7 7 7).wf = true := by decide
theorem test_wf_mask : (Instr.mand hd 8 0 0).wf = false ∧ (Instr.mnot hd 0 8).wf = false ∧ (Instr.mpopc hd 0 1 8).wf = false ∧
    (Instr.vsel hd 0 1 2 3 8).wf = false ∧ (Instr.vcompress hd 0 1 2 8).wf = false := by decide
theorem test_wf_shape : (Instr.shld hd 16 1 false).wf = false ∧ (Instr.shget hd 1 16 0).wf = false ∧ (Instr.shset hd 0 1 13).wf = false ∧
    (Instr.shset hd 15 1 12).wf = true := by decide
theorem test_wf_accumulator : (Instr.mzero hd 4).wf = false ∧ (Instr.mstat hd 1 4).wf = false ∧ (Instr.mreduce hd 4 1 0).wf = false ∧
    (Instr.mreduce hd 0 1 4).wf = false ∧ (Instr.mread hd { mreadF with a := 4 }).wf = false := by decide
theorem test_wf_pair : (Instr.sendk hd 0 false 1 7).wf = false ∧ (Instr.recvk hd 0 false 1 7).wf = false ∧ (Instr.vrxadd hd 0 7 1 2 0).wf = false ∧
    (Instr.vres hd 1 7).wf = false ∧ (Instr.vres hd 1 6).wf = true := by decide
theorem test_wf_slot : (Instr.twrv hd 0 false 8 0 1).wf = false ∧ (Instr.ttag hd 8 true).wf = false ∧ (Instr.twrv hd 0 true 255 0 1).wf = true := by decide
theorem test_wf_path : (Instr.drain hd 4).wf = false := by decide
theorem test_wf_bitField : (Instr.bfx hd 1 2 (BitVec.ofNat 13 (1 + 63 * 64))).wf = false ∧ (Instr.bfi hd 1 2 3 0x1000).wf = false ∧
    (Instr.bfx hd 1 2 (BitVec.ofNat 13 (63 * 64))).wf = true ∧ (Instr.lea hd 1 2 3 4).wf = false := by decide
theorem test_wf_shift : (Instr.shli hd 1 2 64).wf = false ∧ (Instr.sari hd 1 2 63).wf = true := by decide
theorem test_wf_comparison : (Instr.cmp hd 10 1 2 3).wf = false ∧ (Instr.cmpi hd 10 1 2 3).wf = false ∧ (Instr.br hd 10 1 2 3).wf = false ∧
    (Instr.vcmp hd 10 0 1 2 3 mc).wf = false ∧ (Instr.cmp hd 9 7 2 3).wf = true := by decide
theorem test_wf_loop : (Instr.loop hd 1 0).wf = false ∧ (Instr.loop hd 1 (-1)).wf = false ∧ (Instr.loop hd 1 0x7FFFFFFF).wf = true := by decide
theorem test_wf_answers : (Instr.recv hd { chanF with nb := true }).wf = false ∧ (Instr.recv hd { chanF with pd := 1 }).wf = false ∧
    (Instr.xsend hd { chanF with nb := true } 0 0).wf = false ∧ (Instr.recvkTile hd 1 false 0 0).wf = false ∧
    (Instr.recv hd { chanF with nb := true, pd := 7 }).wf = true := by decide
theorem test_wf_order : (Instr.ld hd { memF with ord := 2, scope := 1 }).wf = false ∧ (Instr.st hd { memF with ord := 1, scope := 1 }).wf = false ∧
    (Instr.ld hd { memF with ord := 1 }).wf = false ∧ (Instr.aadd hd { atomF with ord := 3 }).wf = false ∧ (Instr.ld hd { memF with ord := 1, scope := 5 }).wf = true := by decide
theorem test_wf_scope : (Instr.ld hd { memF with scope := 6 }).wf = false ∧ (Instr.bar hd 0 0 1).wf = false ∧ (Instr.bara hd 6 0 1).wf = false ∧
    (Instr.barw hd 0 0).wf = false ∧ (Instr.fence hd 0 1).wf = false ∧ (Instr.fence hd 1 0).wf = false ∧ (Instr.fence hd 3 5).wf = true := by decide
theorem test_wf_count : (Instr.bar hd 1 0 0).wf = false ∧ (Instr.bara hd 1 0 0).wf = false := by decide
theorem test_wf_size : (Instr.ld hd { memF with sz := 4 }).wf = false ∧ (Instr.ldv hd memF).wf = false ∧ (Instr.vlds hd { memF with sc := 1 }).wf = false ∧
    (Instr.vgath hd { memF with sz := 1 }).wf = false ∧ (Instr.stf hd { memF with sz := 5 }).wf = false ∧ (Instr.aadd hd { atomF with sz := 1 }).wf = false := by decide
theorem test_wf_unusedFields : (Instr.lds hd { memF with sc := 2 }).wf = false ∧ (Instr.feset hd memF).wf = false ∧
    (Instr.acas hd { atomF with sc := 1 }).wf = false ∧ (Instr.atas hd atomF).wf = false ∧ (Instr.acas hd atomF).wf = true := by decide
theorem test_wf_likelihood : (Instr.lkrd hd 1 2 3 1).wf = false ∧ (Instr.lkrd hd 1 2 0 1).wf = false ∧ (Instr.lkrd hd 1 2 1 0).wf = false ∧
    (Instr.lkrd hd 1 2 2 1025).wf = false ∧ (Instr.lkrd hd 1 2 2 1024).wf = true := by decide
theorem test_wf_copy : (Instr.copy hd { copyF with ssp := 4 }).wf = false ∧ (Instr.copyg hd { copyF with dsp := 4 }).wf = false ∧
    (Instr.copys hd { copyF with d := 16 }).wf = false ∧ (Instr.copy hd { copyF with a := 16 }).wf = false ∧ (Instr.copy hd copyF).wf = true := by decide
theorem test_wf_binding : (Instr.mbind hd { bindF with ty := 2 }).wf = false ∧ (Instr.mbind hd { bindF with ty := 12 }).wf = false ∧
    (Instr.mbind hd { bindF with amask := 0 }).wf = false ∧ (Instr.mbind hd { bindF with k := 0 }).wf = false ∧ (Instr.mbind hd bindF).wf = true := by decide
theorem test_wf_types : (Instr.mread hd { mreadF with ty := 0 }).wf = false ∧ (Instr.vadd hd 8 1 2 3 0 mc).wf = false ∧ (Instr.vand hd 13 1 2 3 mc).wf = false ∧
    (Instr.vpack hd 1 1 2 3 0 mc).wf = false ∧ (Instr.vunpk hd 6 1 2 false mc).wf = false ∧ (Instr.mntag hd 2 0 true).wf = false ∧
    (Instr.vand hd 12 1 2 3 mc).wf = true := by decide
theorem test_wf_conversion : (Instr.vcvt hd { cvtF with ty := 13 }).wf = false ∧ (Instr.vcvt hd { cvtF with dt := 13 }).wf = false ∧
    (Instr.vcvt hd { cvtF with pos := 4 }).wf = false ∧ (Instr.vcvt hd { cvtF with c := 1 }).wf = false ∧ (Instr.vcvt hd { cvtF with ovf := 1, c := 8 }).wf = false ∧
    (Instr.vcvt hd { cvtF with ovf := 2, c := 16 }).wf = false ∧ (Instr.vcvt hd { cvtF with ovf := 3 }).wf = false ∧ (Instr.vcvt hd { cvtF with pos := 3 }).wf = true := by decide
theorem test_wf_specialRegister : (Instr.csrr hd 1 0x006).wf = false ∧ (Instr.csrw hd 0 1 0x053).wf = false ∧ (Instr.csrr hd 1 0x060).wf = true := by decide
theorem test_wf_outside : (Instr.hostFence 32 0 cmd).wf = false ∧ (Instr.hostFence 0 4 cmd).wf = false ∧ (Instr.chcapWrite 4 0).wf = false ∧
    (Instr.vdpolWrite 32 0).wf = false ∧ (Instr.bar2Read 32 0 1).wf = false ∧ (Instr.featmaskWrite 0 0 0).wf = false ∧ (Instr.featmaskWrite 1 16 0).wf = false ∧
    (Instr.registerWrite 32 0 0).wf = false ∧ (Instr.registerWrite 0 0x100000 0).wf = false ∧ (Instr.registerWrite 0 4 0).wf = false := by decide

/-! ## Words of the spec -/

/-- The words of the tables of 01 and 14. -/
theorem test_words_worked :
    decodeTableWord 64 0x0000_02B9_1CCA_2000 = some (.ld hd { disp := 0, sp := true, ord := 1, scope := 3, sc := 2, sz := 2, b := 7, a := 6, d := 10 }) ∧
    decodeTableWord 64 0x0000_2739_1CC0_3000 = some (.aadd hd { disp := 0, c := 9, ord := 2, scope := 3, sc := 2, sz := 2, b := 7, a := 6, d := 0 }) ∧
    decodeTableWord 64 0x0000_0001_00E7_0308 = some (.addi { hd with sw := true } 7 7 1) ∧
    decodeTableWord 64 0x0000_0020_10E1_0400 = some (.cmp hd 2 1 7 4) ∧
    decodeTableWord 64 0xFFFF_FFFA_0887_0800 = some (.br hd 2 7 4 (-6)) ∧
    decodeTableWord 64 0x0001_0018_01B0_5800 = some (.mbind hd bindF) ∧
    decodeTableWord 64 0x0001_C000_1C04_5B00 = some (.mread hd mreadF) := by decide +kernel
/-- The channel words of 15. -/
theorem test_words_channel :
    decodeTableWord 64 0x0000_0000_140A_1800 = some (.recv hd { chanF with pd := 2, nb := true, x := 10 }) ∧
    decodeTableWord 64 0x0000_0000_0226_1D00 = some (.sendk hd 0 false 1 6) ∧
    decodeTableWord 64 0x0000_2010_0080_1E00 = some (.recvkTile hd 0 false 4 2) ∧
    decodeTableWord 64 0x0004_6000_0068_1F00 = some (.xsend hd { chanF with port := 3, x := 8 } 70 0) := by decide +kernel
/-- The vector words of 10 and 16. -/
theorem test_words_vector :
    decodeTableWord 64 0x0000_C010_00EB_7400 = some (.vfrsq hd 11 7) ∧
    decodeTableWord 64 0x0000_0040_0C41_7100 = some (.vcmp hd 4 0 1 2 3 mc) ∧
    decodeTableWord 64 0x0007_C003_8847_7300 = some (.vfma hd 7 2 2 7 7 mc) ∧
    decodeTableWord 64 0x2C05_C001_8041_7600 = some (.vcvt hd { pos := 1, ovf := 1, dt := 8, mc := mc, rm := 5, ty := 12, c := 3, a := 2, d := 1 }) ∧
    decodeTableWord 64 0x0000_4000_01E7_7900 = some (.vradd hd 4 7 15 0 0) := by decide +kernel
/-- The words of memory, barriers, rings, segments, copies, tiles and special registers of 03 and 17. -/
theorem test_words_system :
    decodeTableWord 64 0x0000_0130_0000_2C00 = some (.fence hd 2 3) ∧ decodeTableWord 64 0x0000_0000_0002_2D00 = some (.drain hd 2) ∧
    decodeTableWord 64 0x0002_0000_0C00_4000 = some (.bar hd 3 0 2) ∧ decodeTableWord 64 0x0000_0000_000C_4400 = some (.rpop hd 12 false 0 0) ∧
    decodeTableWord 64 0x0000_0000_00C0_4700 = some (.rinit hd 6 0) ∧ decodeTableWord 64 0x0000_0003_0689_4A00 = some (.spawnc hd 9 20 true 3) ∧
    decodeTableWord 64 0x0100_0032_0001_5000 = some (.copy hd { sf := true, ssp := 0, dsp := 3, c := 4, b := 0, a := 0, d := 1 }) ∧
    decodeTableWord 64 0x0000_00B0_04E0_5E00 = some (.twrv hd 11 false 0 7 1) ∧ decodeTableWord 64 0x1800_01B0_0CE0_5E00 = some (.twrv hd 11 true 24 7 3) ∧
    decodeTableWord 64 0x0000_0000_1401_F100 = some (.csrr hd 1 5) ∧ decodeTableWord 64 0x0000_0000_0005_F000 = some (.query hd 5 0) := by decide +kernel

/-! ## States that meet the statements' hypotheses -/

def base : State := { State.reset.withFetchWord 64 0 with cur := some 0 }

/-- The state with its instance, a context and a core changed. -/
def on (fr : Run → Run) (fc : Ctx → Ctx) (fk : Core → Core) : State :=
  ({ base with runs := base.runs.map fr }.modCtx 0 fc).modCore 0 fk

def run0 : Run := (base.run 1).getD (fetchRun State.reset)

def issuesB (s : State) (cid : Nat) (h : Hdr) (feats : List (Nat × Nat)) (n : Nat) : Bool :=
  s.cur == some cid && ((s.ctxRun cid).all fun r => feats.all fun f => r.hasFeat f.1 f.2) && ((s.ctx cid).pr h.pr.toNat != h.pn) &&
    (n == 0 || decide ((s.ctx cid).pend.length + n ≤ 12))

theorem issues_of {s : State} {cid : Nat} {h : Hdr} {feats : List (Nat × Nat)} {n : Nat} (e : issuesB s cid h feats n = true) :
    Issues s cid h feats n := by
  simp only [issuesB, Bool.and_eq_true, beq_iff_eq, bne_iff_ne, Bool.or_eq_true, decide_eq_true_eq] at e
  obtain ⟨⟨⟨a, b⟩, c⟩, d⟩ := e
  refine ⟨a, fun r hr f hf => ?_, c, d⟩
  rw [hr] at b
  exact List.all_eq_true.mp b f hf

/-! ## Words, issue and results -/

theorem meets_EncodedWordDecodesToItsInstruction : (Instr.nop hd).isWord = true ∧ (Instr.nop hd).wf = true := by decide

theorem meets_DecodedWordIsItsInstructionsEncoding : decodeTableWord 64 0 = some (.nop hd) := by decide

theorem meets_WordsOutsideTheTableTakeIllegal :
    0x07 ∈ unassignedOps ∧ 0xFF ∈ unassignedOps ∧ 0xF7 ∉ unassignedOps ∧
    (base.ctx 0).stepDue = none ∧ base.bpMask 0 = 0 ∧ ((on id (fun c => { c with skip := true }) id).ctx 0).skip = true ∧ (base.fetchPa 0).any base.poisoned = false ∧ base.fetch 0 = some 0 ∧
    (let s := { State.reset.withFetchWord 64 0x80 with cur := some 0 }
     s.fetch 0 = some 0x80 ∧ decodeTableWord 64 0x80 = none ∧ (s.ctx 0).stepDue = none ∧ s.bpMask 0 = 0) ∧
    (on id (fun c => { c with pc := 8 }) id).fetch 0 = none := by decide +kernel

/-- What comes of a turn: the word to execute, if there is one. -/
def turned : Turned → Option Instr
  | .word i _ => some i
  | .stay _ => none

theorem turned_word {t : Turned} {i : Instr} (h : turned t = some i) : ∃ s, t = .word i s := by
  cases t with
  | word j s => cases h; exact ⟨s, rfl⟩
  | stay s => cases h

theorem turned_stay {t : Turned} (h : turned t = none) : ∃ s, t = .stay s := by
  cases t with
  | word j s => cases h
  | stay s => exact ⟨s, rfl⟩

theorem meets_StepExecutesTheDecodedWord :
    base.agenda = [.issue 0] ∧ (∃ s1, { base with agenda := [] }.turnOf 0 = .word (.nop hd) s1) ∧
    (let s := State.reset.withFetchWord 64 0x80
     s.agenda = [.issue 0] ∧ ∃ s1, { s with agenda := [] }.turnOf 0 = .stay s1) :=
  ⟨by decide, turned_word (by decide +kernel), by decide, turned_stay (by decide +kernel)⟩

theorem meets_TestsBeforeAWordsEffect :
    base.cur = some 0 ∧ base.ctxRun 0 = some run0 ∧ run0.lacks [(0, 18)] = some (0, 18) ∧ run0.hasFeat 0 17 = true ∧
    (base.ctx 0).pr 1 ≠ true ∧ (base.ctx 0).pr 1 = false ∧
    (let p : Pend := { file := .x, reg := 1, left := 3, val := 0 }
     12 < ((on id (fun c => { c with pend := List.replicate 12 p }) id).ctx 0).pend.length + 1 ∧
     ((on id (fun c => { c with pend := List.replicate 11 p }) id).ctx 0).pend.length + 1 ≤ 12) := by decide +kernel

theorem meets_RegisterWritesReachOneRegister : (31 : Reg) ≠ 0 ∧ (0 : Nat) < 7 ∧ 7 < 8 := by decide

theorem meets_ResultsAppearWhenTheirCyclesHaveRun :
    (1 : Reg) ≠ 0 ∧ 0 < 1 ∧ Ctx.init.pend = [] ∧ ∀ p ∈ [({ file := .x, reg := 1, left := 1, val := 0 } : Pend)], p.left ≠ 0 := by decide

/-- One state issues every word of these statements, with room for its results: every one of their first hypotheses. -/
theorem meets_Issues : Issues base 0 hd [] 1 ∧ Issues base 0 hd [] 0 ∧ Issues base 0 hd [] 2 ∧ Issues base 0 hd [(0, 2)] 1 ∧ Issues base 0 hd [(0, 3)] 1 ∧
    Issues base 0 hd [(0, 3)] 2 ∧ Issues base 0 hd [(0, 4)] 3 ∧ Issues base 0 hd [(0, 15)] 0 ∧ Issues base 0 hd [(0, 9)] 1 ∧ Issues base 0 hd [(0, 10)] 1 ∧
    Issues base 0 hd [(0, 11)] 0 ∧ Issues base 0 hd [(0, 8)] 1 := by
  refine ⟨?_, ?_, ?_, ?_, ?_, ?_, ?_, ?_, ?_, ?_, ?_, ?_⟩ <;> exact issues_of (by decide +kernel)

/-- The premises of the clauses of the scalar statements, at the ends of their ranges. -/
theorem meets_scalarClauses :
    (1 ≤ 1 ∧ 0 + 1 ≤ 64) ∧ (1 ≤ 64 ∧ 0 + 64 ≤ 64) ∧ (63 + 1 ≤ 64) ∧ (63#32).toNat ≤ 63 ∧ (9 : BitVec 4).toNat < 10 ∧
    compares 9 1 0 ∧ ¬compares 9 0 0 ∧ (let x : Word := 2 ^ 63; let y : Word := -1; x.toInt = -(2 ^ 63) ∧ y.toInt = -1) := by
  refine ⟨by decide, by decide, by decide, by decide, by decide, ?_, ?_, by decide +kernel⟩ <;> simp [compares]

/-! ## Control flow -/

theorem meets_ControlTransfersComplete :
    Issues base 0 hd [] 1 ∧ (validTarget base 0 0 ∧ ¬validTarget base 0 8 ∧ ¬validTarget base 0 (-8) ∧ ¬validTarget base 0 4) ∧
    ((base.ctx 0).pr 0 = true ∧ (base.ctx 0).pr 1 = false) ∧
    ((base.ctx 0).xr 1).toInt ≤ 0 ∧ 0 < ((on id (fun c => { c with x := [(1, 1)] }) id).ctx 0 |>.xr 1).toInt ∧ (0#32).toInt ≤ 0 :=
  ⟨issues_of (by decide +kernel), by simp only [validTarget]; decide +kernel, by decide +kernel, by decide +kernel, by decide +kernel, by decide⟩

theorem meets_WaitingWordsHoldAndRelease :
    Issues base 0 hd [] 0 ∧ ((on id (fun c => { c with wait := some 0 }) id).ctx 0).wait = some 0 ∧
    ((on id (fun c => { c with idle := some 0 }) id).ctx 0).idle = some 0 ∧ (base.ctx 0).wait ≠ some 0 ∧ (base.ctx 0).idle ≠ some 0 :=
  ⟨issues_of (by decide +kernel), by decide +kernel⟩

theorem meets_WritebacksWriteWhatIsDue :
    let p : Park := Park.of .landing
    let s := on id (fun c => { c with land := some { writes := [], left := 0, load := none }, park := some p }) id
    s.ev.unit = 0 ∧ s.ctxRun 0 = some run0 ∧ run0.goes (s.ctx 0).role.node = true ∧ run0.stops 0 (s.ctx 0) = false ∧
    (s.ctx 0).land = some { writes := [], left := 0, load := none } ∧ (s.ctx 0).park = some p := by decide +kernel

/-! ## Firings, segments and faults -/

def node (kind rkind : Nat) (ports : List PortD) : NodeD :=
  { kind := kind, phase := 0, rkind := rkind, ports := ports, codeOff := 0, codeLen := 8, rounds := 1, shape := none, args := 8, coll := none }
def port (n kind : Nat) : PortD := { port := n, kind := kind, count := 1, bound := 1 }
def chan (p pp c cp : Nat) : ChanD := { pnode := p, pport := pp, cnode := c, cport := cp, barrier := false, selector := false, depth := 1 }

/-- The machine with an instance of these nodes and channels, node 0 of which fires on context 0. -/
def withGraph (nodes : List NodeD) (chans : List ChanD) (fr : Run → Run) (fc : Ctx → Ctx) (fk : Core → Core) : State :=
  on (fun r => fr { r with graph := { r.graph with nodes := nodes, chans := chans } }) fc fk

def theRun (s : State) : Run := (s.run 1).getD run0

def flt0 : Flt := { base.mkFlt 1 0x05 0 0 0 0 true with run := some 1, held := some 1 }

theorem meets_FinEndsFiringsAndSegments :
    (let s := withGraph [node 0 0 [port 16 0]] [] id (fun c => { c with moved := [(16, 1)] }) id
     Issues s 0 hd [] 0 ∧ (s.ctx 0).role = .op 1 0 ∧ s.run 1 = some (theRun s) ∧ (theRun s).node 0 = some (node 0 0 [port 16 0]) ∧ (s.ctx 0).pend = [] ∧
       (s.ctx 0).stepEn = false ∧ ∀ p ∈ [port 16 0], p.count ≤ tget 0 (s.ctx 0).moved p.port) ∧
    (let s := withGraph [node 0 0 [port 16 0]] [] id (fun c => { c with moved := [(16, 1)], stepEn := true }) id
     (s.ctx 0).role = .op 1 0 ∧ (s.ctx 0).pend = [] ∧ (s.ctx 0).stepEn = true) ∧
    (let s := withGraph [node 0 0 [port 16 0]] [] id id id
     [port 16 0].find? (fun p => decide (tget 0 (s.ctx 0).moved p.port < p.count)) = some (port 16 0)) ∧
    (let s := withGraph [node 4 0 []] [] id (fun c => { c with role := .seg 1 0 }) id
     Issues s 0 hd [] 0 ∧ (s.ctx 0).role = .seg 1 0 ∧ s.run 1 = some (theRun s) ∧ (s.ctx 0).ccond.getLsbD 17 = false ∧ s.undrained 0 = false ∧ (s.ctx 0).pend = []) :=
  ⟨⟨issues_of (by decide +kernel), by decide +kernel⟩, by decide +kernel, by decide +kernel, ⟨issues_of (by decide +kernel), by decide +kernel⟩⟩

/-- The STEP of a FIN follows the end of the firing: the operator is held between its firings (R342). -/
theorem test_fin_steps :
    (match exec (.fin hd) (withGraph [node 0 0 [], node 5 0 []] [] id (fun c => { c with stepEn := true }) id) with
     | .next t => (t.ctx 0).running == false && (t.ctx 0).fireno == 1 && t.flue.map (fun f => (f.code, f.held)) == [(0x10, some 0)]
     | _ => false) = true := by decide +kernel

theorem meets_FaultsCarryTheirFieldsAndAreTaken :
    base.ctxRun 0 = some run0 ∧ 0x01 ∉ [0x0F, 0x10, 0x11] ∧ 0x11 ∈ [0x0F, 0x10, 0x11] ∧ run0.graph.handlerNodes.contains (base.ctx 0).role.node = false ∧
    run0.cut = none ∧ run0.st = .running ∧ (base.ctx 0).skip = false ∧ (base.ctx 0).uncertain = false ∧ run0.graph.handler = none ∧
    ((on id (fun c => { c with role := .seg 1 0, ccond := 0x20000 }) id).ctx 0).uncertain = true ∧
    (let s := withGraph [node 0 0 [], node 5 0 []] [] id id id
     s.ctxRun 0 = some (theRun s) ∧ (theRun s).graph.handler.isSome = true ∧ (theRun s).graph.handlerNodes.contains (s.ctx 0).role.node = false) ∧
    (let s := withGraph [node 5 0 []] [] id id id
     (theRun s).graph.handlerNodes.contains (s.ctx 0).role.node = true) := by decide +kernel

theorem meets_TrappingWordsTakeEntryAlone :
    Issues base 0 hd [] 0 ∧ Issues base 0 hd [(0, 15)] 0 ∧
    (let s := on (fun r => { r with leaves := [(0, 0x37FFF)] }) id id
     s.cur = some 0 ∧ s.ctxRun 0 = some (theRun s) ∧ (theRun s).hasFeat 0 15 = false) :=
  ⟨issues_of (by decide +kernel), issues_of (by decide +kernel), by decide +kernel⟩

theorem meets_HretReleasesTheHeldContext :
    (Issues base 0 hd [] 0 ∧ base.ctxRun 0 = some run0 ∧ run0.graph.handler ≠ some (base.ctx 0).role.node) ∧
    (let s := (withGraph [node 5 0 [], node 0 0 []] [] id (fun c => { c with token := some flt0, running := true }) id).setCtx 1
       { Ctx.init with role := .op 1 1, running := true, held := some flt0, park := some (Park.of .held) }
     Issues s 0 hd [] 0 ∧ s.ctxRun 0 = some (theRun s) ∧ (s.ctx 0).role = .op 1 0 ∧ (theRun s).graph.handler = some 0 ∧ (s.ctx 0).running = true ∧
       (theRun s).node 0 = some (node 5 0 []) ∧ (∀ p ∈ (node 5 0 []).ports, p.count ≤ tget 0 (s.ctx 0).moved p.port) ∧ (s.ctx 0).pend = [] ∧
       (s.ctx 0).token = some flt0 ∧ flt0.held = some 1 ∧ 1 ≠ 0 ∧ (s.ctx 1).held = some flt0 ∧ (s.ctx 1).role.isOp = true ∧ (s.ctx 1).running = true ∧ (s.ctx 0).stepEn = false ∧ flt0.code ≠ 0x08 ∧ flt0.code ≠ 0x10) :=
  ⟨⟨issues_of (by decide +kernel), by decide +kernel⟩, issues_of (by decide +kernel), by decide +kernel⟩

/-! ## Channels -/

/-- Node 0 with an input and an output port of one kind, and a channel on each. -/
def ported (kind : Nat) (buf : List Token) (moved : List (Nat × Nat)) : State :=
  withGraph [node 0 0 [port 0 kind, port 16 kind], node 0 0 [port 0 kind, port 16 kind]] [chan 1 16 0 0, chan 0 16 1 0]
    (fun r => { r with chans := [(0, { Chan.init with buf := buf })] }) (fun c => { c with moved := moved }) id

theorem atPort_of {s : State} {cid q : Nat} {r : Run} {n : Nat} {nd : NodeD} {p : PortD}
    (h : s.run r.id = some r ∧ (s.ctx cid).role = .op r.id n ∧ r.node n = some nd ∧ nd.portAt q = some p) : AtPort s cid q r n nd p :=
  ⟨h.1, h.2.1, h.2.2.1, h.2.2.2⟩

def ported0 : NodeD := node 0 0 [port 0 0, port 16 0]

theorem meets_ReceivingWordsTakeTheOldestToken :
    let s := ported 0 [.scalar 7] []
    AtPort s 0 0 (theRun s) 0 ported0 (port 0 0) ∧ Issues s 0 hd [] 1 ∧ Issues s 0 hd [] 2 ∧ (port 0 0).kind = 0 ∧ tget 0 (s.ctx 0).moved 0 < (port 0 0).count ∧
      (theRun s).graph.chanOfIn 0 0 = some 0 ∧ ((theRun s).chan 0).buf = .scalar 7 :: [] :=
  ⟨atPort_of (by decide +kernel), issues_of (by decide +kernel), issues_of (by decide +kernel), by decide +kernel⟩

theorem meets_SendAppendsItsToken :
    let s := ported 0 [] []
    AtPort s 0 16 (theRun s) 0 ported0 (port 16 0) ∧ Issues s 0 hd [] 0 ∧ Issues s 0 hd [] 1 ∧ tget 0 (s.ctx 0).moved 16 < (port 16 0).count ∧
      (theRun s).graph.chanOfOut 0 16 = some 1 ∧ (theRun s).graph.chanOfOut 0 17 = none :=
  ⟨atPort_of (by decide +kernel), issues_of (by decide +kernel), issues_of (by decide +kernel), by decide +kernel⟩

theorem meets_PortTestsAndCountsAnswer :
    (let w : Word := 0x0000_0000_0400_1B00; w.extractLsb' 8 8 = 0x1B ∧ w.getLsbD 26 = true) ∧
    (let s := ported 0 [] [(0, 1), (16, 1)]
     AtPort s 0 0 (theRun s) 0 ported0 (port 0 0) ∧ AtPort s 0 16 (theRun s) 0 ported0 (port 16 0) ∧ Issues s 0 hd [] 2 ∧
       (port 0 0).count ≤ tget 0 (s.ctx 0).moved 0 ∧ (port 16 0).count ≤ tget 0 (s.ctx 0).moved 16 ∧ ported0.portAt 1 = none ∧ (port 0 0).kind ≠ 1) ∧
    (let s := ported 2 [] [(0, 1), (16, 1)]
     AtPort s 0 16 (theRun s) 0 (node 0 0 [port 0 2, port 16 2]) (port 16 2) ∧ (port 16 2).count ≤ tget 0 (s.ctx 0).moved 16) ∧
    ((on id (fun c => { c with role := .idle }) id).ctx 0).role.isOp = false :=
  ⟨by decide, ⟨atPort_of (by decide +kernel), atPort_of (by decide +kernel), issues_of (by decide +kernel), by decide +kernel⟩,
    ⟨atPort_of (by decide +kernel), by decide +kernel⟩, by decide +kernel⟩

/-- A chunk of zeros: of type I8, sealed. -/
def chunk0 : ChunkHdr :=
  { type := 0, scale := 0, coding := false, partialF := false, special := false, len := 512, vkind := 0, vid := 0, inst := 1, chan := 0, seq := 0, res := 0
    anchor := 0, mbz := false }

/-- Whether the check of a chunk passes. -/
def passes : ChunkChk → Bool
  | .ok .. => true
  | .bad _ => false

theorem passes_ok {c : ChunkChk} (h : passes c = true) : ∃ x q, c = .ok x q := by
  cases c with
  | ok x q => exact ⟨x, q, rfl⟩
  | bad _ => cases h

theorem passes_bad {c : ChunkChk} (h : passes c = false) : ∃ f, c = .bad f := by
  cases c with
  | ok _ _ => cases h
  | bad f => exact ⟨f, rfl⟩

theorem meets_ChunksAreSealedAndChecked :
    (let s := ported 2 [.chunk chunk0 0] []
     let nd := node 0 0 [port 0 2, port 16 2]
     AtPort s 0 0 (theRun s) 0 nd (port 0 2) ∧ AtPort s 0 16 (theRun s) 0 nd (port 16 2) ∧ Issues s 0 hd [] 1 ∧ Issues s 0 hd [] 0 ∧
       ((port 0 2).kind = 2 ∧ tget 0 (s.ctx 0).moved 0 < (port 0 2).count ∧ tget 0 (s.ctx 0).moved 16 < (port 16 2).count ∧
         (theRun s).graph.chanOfOut 0 16 = some 1 ∧ (theRun s).graph.chanOfIn 0 0 = some 0 ∧ ((theRun s).chan 0).buf = .chunk chunk0 0 :: []) ∧
       (∃ x q, checkChunk chunk0 0 0 (coreOf 0) = .ok x q) ∧ (∃ f, checkChunk { chunk0 with res := 1 } 0 0 (coreOf 0) = .bad f) ∧
       chunk0.type ∈ [0, 1, 8, 9, 10, 11] ∧ chunk0.scale = 0 ∧ (tget Slot.init (s.core (coreOf 0)).tiles 7).full = false) ∧
    (let w : Word := 13; w.toNat % 16 < 14 ∧ w.getLsbD 12 = false ∧ w.getLsbD 15 = false ∧ w.extractLsb' 4 8 = 0) ∧
    (let w : Word := 0x1009; w.toNat % 16 = 9 ∧ w.getLsbD 12 = true ∧ w.getLsbD 15 = false ∧ w.extractLsb' 16 16 = 0) ∧
    (14 ≤ (14 : Word).toNat % 16) ∧ (let w : Word := 0x1007; w.getLsbD 12 = true ∧ w.toNat % 16 ≠ 8 ∧ w.toNat % 16 ≠ 9) ∧ (0x8000 : Word).getLsbD 15 = true ∧
    (let w : Word := 0x80000000; w.extractLsb' 16 16 ≠ 0 ∧ w.toNat % 16 ≠ 13) ∧ (let w : Word := 0xFFD; w.extractLsb' 4 8 ≠ 0 ∧ w.toNat % 16 = 13) :=
  ⟨⟨atPort_of (by decide +kernel), atPort_of (by decide +kernel), issues_of (by decide +kernel), issues_of (by decide +kernel), by decide +kernel,
    passes_ok (by decide +kernel), passes_bad (by decide +kernel), by decide +kernel⟩, by decide, by decide, by decide, by decide, by decide, by decide, by decide⟩

/-! ## Vector words and special registers -/

theorem meets_vectorClauses :
    Issues base 0 hd [(0, 2)] 1 ∧ Issues base 0 hd [(0, 3)] 1 ∧ Issues base 0 hd [(0, 3)] 2 ∧ Issues base 0 hd [(0, 4)] 3 ∧
    (7 : BitVec 4).toNat ≤ 7 ∧ 2 ≤ (7 : BitVec 4).toNat ∧ 8 ≤ (8 : BitVec 4).toNat ∧ (12 : BitVec 4).toNat ≤ 12 ∧ (5 : BitVec 4).toNat ≤ 5 ∧ (9 : BitVec 4).toNat < 10 :=
  ⟨issues_of (by decide +kernel), issues_of (by decide +kernel), issues_of (by decide +kernel), issues_of (by decide +kernel), by decide⟩

/-- Signalling NaNs, quiet ones, infinities, zeros and finite patterns of the floating-point types (R254, R255). -/
theorem meets_FloatWordsComplete :
    (isSigF 12 0x7F800001 = true ∧ isNaNF 12 0xFFFFFFFF = true ∧ isSigF 12 0xFFFFFFFF = false ∧ isInfF 12 0x7F800000 = true ∧ isInfF 12 0xFF800000 = true ∧ isZeroF 12 0 = true ∧
      isZeroF 12 0x80000000 = true) ∧
    (∀ u ∈ [1, 0x80000001, 0x007FFFFF, 0x00800000, 0x7F7FFFFF], isNaNF 12 u = false ∧ isInfF 12 u = false ∧ isZeroF 12 u = false) ∧
    (isNaNF 8 0x80 = true ∧ isSigF 8 0x80 = false ∧ isInfF 9 0x7F = false ∧ isSigF 10 0x7C01 = true ∧ isInfF 11 0xFF80 = true ∧ isZeroF 9 0 = true) ∧
    (unitsF 12 0x3F800000 + unitsF 12 0xBF800000 = 0 ∧ unitsF 12 0x3F800000 + unitsF 12 1 ≠ 0) := by decide +kernel

/-- The sum of 1 and 2^-24 is 1 by the even, and the next number when rounded up (R264). -/
theorem test_sum_rounds : fAdd 0 0x3F800000 0x33800000 = (0x3F800000, 0x02) ∧ fAdd 3 0x3F800000 0x33800000 = (0x3F800000, 0x02) ∧
    fAdd 2 0x3F800000 0x33800000 = (0x3F800001, 0x02) := by decide +kernel

theorem meets_ConversionsComplete :
    cvtF.wf = true ∧ { cvtF with ovf := 1, c := 7 }.wf = true ∧ { cvtF with ovf := 2, c := 0 }.wf = true ∧ { cvtF with ty := 7, dt := 0, pos := 7 }.wf = true ∧
    (let s := ported 0 [] []
     Issues s 0 hd [(0, 3)] 2 ∧ AtPort s 0 16 (theRun s) 0 ported0 (port 16 0) ∧ tget 0 (s.ctx 0).moved 16 < (port 16 0).count ∧
       (theRun s).graph.chanOfOut 0 16 = some 1 ∧ portTest s 0 17 (some 0) = some (0x09, 0)) ∧
    (let s := withGraph [ported0] [] id id id
     AtPort s 0 16 (theRun s) 0 ported0 (port 16 0) ∧ tget 0 (s.ctx 0).moved 16 < (port 16 0).count ∧ (theRun s).graph.chanOfOut 0 16 = none) :=
  ⟨by decide, by decide, by decide, by decide, ⟨issues_of (by decide +kernel), atPort_of (by decide +kernel), by decide +kernel⟩, atPort_of (by decide +kernel), by decide +kernel⟩

theorem meets_ExactSumsAndResiduesComplete :
    (let s := on id (fun c => { c with x := [(2, 0x60_000D), (3, 31)] }) id
     Issues s 0 hd [(0, 4)] 3 ∧ Issues s 0 hd [(0, 2)] 1 ∧ (2 : Reg).toNat % 2 = 0 ∧ (((s.ctx 0).xr 2).extractLsb' 16 16).toInt = 96 ∧
       (let pair : BitVec 4096 := (s.ctx 0).vr 3 ++ (s.ctx 0).vr 2
        (pair.extractLsb' (128 * 31) 128).toInt ≠ -(2 ^ 127) ∧ -(2 ^ 127) < (pair.extractLsb' (128 * 31) 128).toInt ∧ (pair.extractLsb' (128 * 31) 128).toInt < 2 ^ 127) ∧
       (12 : BitVec 4).toNat ≤ 12 ∧ onGrid (-149) 96 1 = (0, true) ∧ onGrid 0 96 (-3) = (-3, false) ∧
       ((s.ctx 0).xr 2).toNat % 16 < 14) ∧ (14 : Word).toNat % 16 ≥ 14 ∧ (1 : Word).toNat % 2 ^ 12 = 1 :=
  ⟨⟨issues_of (by decide +kernel), issues_of (by decide +kernel), by decide +kernel⟩, by decide⟩

/-- Node 0 as the handler's entry, with an instance number and a latch that a cut waits in. -/
def handled (req : Option CutKind) : State := withGraph [node 5 0 []] [] (fun r => { r with cutReq := req }) id id

theorem meets_SpecialRegistersAreReadAndWritten :
    base.ctxRun 0 = some run0 ∧ Issues base 0 hd [] 1 ∧ Issues base 0 hd [] 0 ∧ Issues base 0 hd [(0, 15)] 1 ∧ Issues base 0 hd [(0, 14)] 1 ∧
    (csrListed 0x000 = true ∧ csrListed 0x035 = true ∧ csrListed 0x040 = true ∧ csrListed 0x052 = true ∧ csrListed 0x060 = true) ∧
    (coreOf 0 < 2 ^ 11 ∧ run0.vd < 32 ∧ (base.ctx 0).ccond.getLsbD 17 = false ∧ base.run run0.id = some run0) ∧
    (let s := handled none
     (s.ctx 0).role.isOp = true ∧ (theRun s).graph.handler = some (s.ctx 0).role.node ∧ (theRun s).graph.handlerNodes.contains (s.ctx 0).role.node = true ∧
       (theRun s).cut = none ∧ (theRun s).cutReq = none) ∧
    (theRun (handled (some .periodic))).cutReq.isSome = true ∧
    (let s := ported 0 [] []
     (theRun s).graph.handlerNodes.contains (s.ctx 0).role.node = false ∧
       ¬∀ k ∈ (theRun s).graph.chans, k.cnode = (s.ctx 0).role.node → k.barrier = true ∨ k.selector = true) :=
  ⟨by decide +kernel, issues_of (by decide +kernel), issues_of (by decide +kernel), issues_of (by decide +kernel), issues_of (by decide +kernel), by decide,
    by decide +kernel⟩

/-! ## Memory -/

/-- The page that the core's TLB holds first. -/
def page0 : Page := { vd := 0, va := 0, size := 2 ^ 21, pa := 0, writable := true, sync := true }

/-- A range that gives node 0 every access. -/
def range0 (kind : Nat) : RangeD := { node := 0, kind := kind, bmode := 0, barid := 0, baseMode := 0, sizeExpr := false, base := 0, size := 2 ^ 21 }

/-- The machine with that page at its core, and ranges of two kinds. -/
def paged (a : Word) : State :=
  on (fun r => { r with graph := { r.graph with ranges := [range0 1, range0 2] } }) (fun c => { c with x := [(6, a)], v := [] })
    (fun k => { k with tlb := [page0] })

def at' (ea len : Nat) : AElt := { ea := ea, len := len, off := 0 }

theorem coreOpen_of {s : State} {cid : Nat} {r : Run} {es : List AElt}
    (h : s.ctxRun cid = some r ∧ (∀ e ∈ es, e.ea < 0x80000 ∧ e.ea % e.len = 0) ∧ r.rings = [] ∧
      (∀ e ∈ es, r.bankWaits (s.ctx cid).role.node (e.ea / 0x8000) = false ∧ r.bankGone (s.ctx cid).role.node (e.ea / 0x8000) (s.ctx cid).fireno.toNat = false) ∧
      (s.core (coreOf cid)).copies = [] ∧ (∀ q ∈ (s.core (coreOf cid)).wq, q.acq = false) ∧ (s.core (coreOf cid)).banksBusy = []) : CoreOpen s cid r es :=
  ⟨h.1, h.2.1, by simp [h.2.2.1], h.2.2.2.1, by simp [h.2.2.2.2.1], fun q hq _ => h.2.2.2.2.2.1 q hq, by simp [h.2.2.2.2.2.2]⟩

theorem devOpen_of {s : State} {cid : Nat} {r : Run} {w : Want} {es : List AElt} {p : Page}
    (h : s.ctxRun cid = some r ∧ (s.core (coreOf cid)).tlb.head? = some p ∧ (∀ e ∈ es, e.ea < 2 ^ 56 ∧ e.ea % e.len = 0 ∧ p.holds r.vd e.ea = true) ∧
      (p.writable = true ∧ ∀ e ∈ es, writeBarred r e.ea e.len = false) ∧
      (∀ e ∈ es, r.graph.ranges.any (fun g => g.admits (s.ctx cid) (s.ctx cid).role.node w e.ea e.len) = true) ∧ r.graph.chans = [] ∧
      (s.core (coreOf cid)).copies = [] ∧ (s.core (coreOf cid)).wq = []) : DevOpen s cid r w es p :=
  ⟨h.1, h.2.1, h.2.2.1, fun _ => h.2.2.2.1, fun e he => by simpa using h.2.2.2.2.1 e he, by simp [h.2.2.2.2.2.1], by simp [h.2.2.2.2.2.2.1], by simp [h.2.2.2.2.2.2.2]⟩

theorem meets_LoadsComplete :
    let s := paged 0x7FFF8
    (s.ctx 0).role.isOp = true ∧ (0 : BitVec 2).toNat ≤ 1 ∧ (4 : BitVec 3).toNat ≤ 4 ∧ Issues s 0 hd (memFeats false 0 []) 1 ∧ Issues s 0 hd (memFeats true 5 []) 1 ∧
      s.ownEntries 0 = [] ∧
      CoreOpen s 0 (theRun s) (memOne { memF with a := 6 } (s.ctx 0) 8) ∧ CoreOpen s 0 (theRun s) (memStrided { memF with sz := 0 } (s.ctx 0)) ∧
      CoreOpen s 0 (theRun s) (memIndexed memF (s.ctx 0)) ∧
      DevOpen s 0 (theRun s) .read (memOne { memF with a := 6 } (s.ctx 0) 8) page0 ∧ DevOpen s 0 (theRun s) .read (memStrided { memF with sz := 0 } (s.ctx 0)) page0 ∧
      (∀ e ∈ memOne { memF with a := 6 } (s.ctx 0) 8, s.l1Get (coreOf 0) (page0.pa + (e.ea - page0.va)) = none) ∧ memOne memF (s.ctx 0) 8 ≠ [] :=
  ⟨by decide +kernel, by decide, by decide, issues_of (by decide +kernel), issues_of (by decide +kernel), by decide +kernel, coreOpen_of (by decide +kernel),
    coreOpen_of (by decide +kernel), coreOpen_of (by decide +kernel), devOpen_of (by decide +kernel), devOpen_of (by decide +kernel), by decide +kernel⟩

theorem meets_StoresReachTheirBytes :
    let s := paged 0x7FFF8
    (s.ctx 0).role.isOp = true ∧ s.ownEntries 0 = [] ∧ Issues s 0 hd (memFeats false 4 []) 0 ∧ Issues s 0 hd (memFeats true 0 []) 0 ∧ Issues s 0 hd [] 0 ∧
      CoreOpen s 0 (theRun s) (memOne { memF with a := 6 } (s.ctx 0) 8) ∧ DevOpen s 0 (theRun s) .write (memOne { memF with a := 6 } (s.ctx 0) 8) page0 ∧ page0.sync = true ∧
      CoreOpen s 0 (theRun s) [at' 0x7FFC0 64] ∧ DevOpen s 0 (theRun s) .write [at' 0x7FFC0 64] page0 ∧ (s.core (coreOf 0)).wq = [] :=
  ⟨by decide +kernel, by decide +kernel, issues_of (by decide +kernel), issues_of (by decide +kernel), issues_of (by decide +kernel), coreOpen_of (by decide +kernel),
    devOpen_of (by decide +kernel), by decide, coreOpen_of (by decide +kernel), devOpen_of (by decide +kernel), by decide +kernel⟩

def ring0 (vec : Bool) (logn pushed : Nat) : Ring :=
  { id := 2, core := 0, node := 0, vec := vec, logn := logn, ncons := 1, lwm := 1, base := 0, pushed := BitVec.ofNat 32 pushed, cur := [], seqs := [], full := false, parked := [], late := [], arriving := [] }

theorem meets_CoreAccessTestsAndFullEmptyLoads :
    (let s := paged 0x7FFF8
     (s.ctx 0).role.isOp = true ∧ s.ctxRun 0 = some (theRun s) ∧ (s.ownEntries 0 = [] ∧ (s.core (coreOf 0)).wq = []) ∧ Issues s 0 hd [] 1 ∧ Issues s 0 hd [] 0 ∧
       0x80000 ≤ (((paged 0x80000).ctx 0).xr 6).toNat ∧ (((paged 0x7FFFC).ctx 0).xr 6).toNat % 8 ≠ 0 ∧
       CoreOpen s 0 (theRun s) [{ ea := 0x7FFF8, len := 8, off := 0 }] ∧ (∀ o, o < 8 → (s.ctx (coreOf 0 * 8 + o)).park = none) ∧
       ¬∀ n, n < 0x20000 → 0x1FFFE ≤ n → tget false (s.core 0).fe n = true) ∧
    (let s := on id id (fun k => { k with fe := [(0x1FFFE, true), (0x1FFFF, true)] })
     ∀ n, n < 2 → tget false (s.core 0).fe (0x1FFFE + n) = true) ∧
    (let g := ring0 false 1 0
     let s := on (fun r => { r with rings := [g] }) id id
     g ∈ (theRun s).rings ∧ (∀ g' ∈ (theRun s).rings, g' = g) ∧ (theRun s).graph.hands = [] ∧ g.core = coreOf 0 ∧ g.base < 8 + 8 ∧ 8 < g.base + g.bytes) := by
  refine ⟨⟨by decide +kernel, by decide +kernel, by decide +kernel, issues_of (by decide +kernel), issues_of (by decide +kernel), by decide +kernel, by decide +kernel,
    coreOpen_of (by decide +kernel), by decide +kernel, fun h => absurd (h 0x1FFFE (by decide) (by decide)) (by decide +kernel)⟩, by decide +kernel, by decide +kernel⟩

def req0 (kind : ReqKind) (pa : Nat) : Req :=
  { id := 1, cid := 0, vd := 0, kind := kind, todo := [{ va := pa, pa := pa, len := 8, off := 0 }], data := 5, acc := 0, cmpv := 0, size := 8, dst := some (.x, 1)
    shared := false, rel := false, home := true, inval := false, ovMask := 0, ovData := 0, word := 0, pc := 0, since := 0, paid := 99, stood := 0, acq := false, node := 0, after := [] }

theorem meets_storesBehindWrites :
    let s := on id (fun c => { c with x := [(6, 0x7FFF8)] }) (fun k => { k with wq := [req0 .store 0] })
    (s.ctx 0).role.isOp = true ∧ s.ownEntries 0 = [] ∧ Issues s 0 hd (memFeats false 4 []) 0 ∧
      CoreOpen s 0 (theRun s) (memOne { memF with a := 6, ord := 2 } (s.ctx 0) 8) ∧ ∃ q ∈ (s.core (coreOf 0)).wq, q.cid = 0 ∧ q.kind.isWrite = true :=
  ⟨by decide +kernel, by decide +kernel, issues_of (by decide +kernel), coreOpen_of (by decide +kernel), by decide +kernel⟩

theorem meets_AtomicsAndFencesComplete :
    (let s := paged 0x1FFFF8
     ((s.ctx 0).role.isOp = true ∧ s.ownEntries 0 = []) ∧ Issues s 0 hd (memFeats true 5 []) 1 ∧ Issues s 0 hd (memFeats false 3 []) 0 ∧ Issues s 0 hd [] 0 ∧
       DevOpen s 0 (theRun s) (.rmw 0) [at' 0x1FFFF8 8] page0 ∧ DevOpen s 0 (theRun s) (.rmw 10) [at' 0 8] page0 ∧
       ¬∃ q ∈ (s.core (coreOf 0)).wq, q.cid = 0 ∧ q.kind.isWrite = true) ∧
    (let s := on id id (fun k => { k with wq := [req0 .store 0] })
     ∃ q ∈ (s.core (coreOf 0)).wq, q.cid = 0 ∧ q.kind.isWrite = true) ∧
    (let s := on id id (fun k => { k with wq := [req0 (.atomic 0) 0] })
     ∃ q ∈ (s.core (coreOf 0)).wq, q.cid = 0 ∧ ∃ fn, q.kind = .atomic fn) ∧ (3 : Reg).toNat < 4 :=
  ⟨⟨by decide +kernel, issues_of (by decide +kernel), issues_of (by decide +kernel), issues_of (by decide +kernel), devOpen_of (by decide +kernel),
    devOpen_of (by decide +kernel), by decide +kernel⟩, by decide +kernel, ⟨req0 (.atomic 0) 0, by decide +kernel, rfl, 0, rfl⟩, by decide⟩

theorem meets_HomeSlicesAndWalksPerform :
    (∀ k ∈ [ReqKind.load, .store, .atomic 0, .atomic 9, .atomic 10],
      let s := on id id (fun c => { c with wq := [req0 k 0x3FFFFFFFF8] })
      let q := req0 k 0x3FFFFFFFF8
      s.canPerform s.ev.unit s.ev.idx = true ∧ (s.core s.ev.unit).wq[s.ev.idx]? = some q ∧ q.todo = [{ va := 0x3FFFFFFFF8, pa := 0x3FFFFFFFF8, len := 8, off := 0 }] ∧
        s.toll s.ev.unit q = none ∧ s.arrivals = [] ∧ s.poisoned 0x3FFFFFFFF8 = false ∧ q.inval = false ∧ (∀ q' ∈ (s.core s.ev.unit).wq, q'.id = q.id → q' = q) ∧
        tget [] (s.die (0x3FFFFFFFF8 / 2 ^ 36 % 4)).l2 (l2Key 0x3FFFFFFFF8) = [] ∧ (s.toll s.ev.unit { q with paid := 0 }).isSome = true) ∧
    (let s := base.modDie 0 fun d => { d with walks := [(0, 0, 0)] }
     (s.die 0).walks[s.ev.idx]? = some (0, 0, 0) ∧ (s.pageOf 0 0).isSome = true ∧ 0 = (s.die 0).tgen) ∧
    (let s := base.modDie 0 fun d => { d with walks := [(0, 0, 0)], tgen := 1 }
     (s.die 0).walks[s.ev.idx]? = some (0, 0, 0) ∧ 0 ≠ (s.die 0).tgen) := by decide +kernel

/-! ## Barriers, rings and segments -/

def key0 : BarKey := { scope := 1, id := 15, domain := 0 }
def episode0 (count : Nat) : Episode := { key := key0, count := count, arrived := 1, who := [1] }

theorem meets_BarriersCountTheirArrivals :
    base.ownEntries 0 = [] ∧ Issues base 0 hd (memFeats false 1 []) 0 ∧ Issues base 0 hd (memFeats false 5 []) 0 ∧ base.ctxRun 0 = some run0 ∧ (base.ctx 0).role.isOp = true ∧
    (base.ctx 0).bars.filter (fun a => a.key == key0) = [] ∧ (∀ q ∈ (base.core (coreOf 0)).wq, q.cid = 0 → q.kind.isWrite = false) ∧
    ((episodesOf base run0 1).find? fun e => e.key == key0) = none ∧ 1 ≤ (5 : BitVec 3).toNat ∧ (0 + 1 ≠ (8 : BitVec 16).toNat ∧ 0 + 1 = (1 : BitVec 16).toNat) ∧
    (let s := on (fun r => { r with bars := [episode0 8] }) id id
     ((episodesOf s (theRun s) 1).find? fun e => e.key == key0) = some (episode0 8) ∧ (episode0 8).arrived + 1 ≠ (8 : BitVec 16).toNat ∧ (episode0 8).count ≠ 2) ∧
    (let s := on (fun r => { r with bars := [episode0 2] }) id id
     ((episodesOf s (theRun s) 1).find? fun e => e.key == key0) = some (episode0 2) ∧ (episode0 2).arrived + 1 = (2 : BitVec 16).toNat ∧ 0 ∉ (episode0 2).who) ∧
    ((on id (fun c => { c with bars := [{ key := key0, done := false }] }) id).ctx 0).bars.filter (fun a => a.key == key0) = [{ key := key0, done := false }] ∧
    ((on id (fun c => { c with bars := [{ key := key0, done := true }] }) id).ctx 0).bars.filter (fun a => a.key == key0) = [{ key := key0, done := true }] ∧
    8 < (9 : BitVec 16).toNat :=
  ⟨by decide +kernel, issues_of (by decide +kernel), issues_of (by decide +kernel), by decide +kernel⟩

/-- The item that travels to a ring, and the ring's states. -/
def ringed (g : Ring) (k : Nat → Ctx → Ctx) : State := (on (fun r => { r with rings := [g] }) (k 0) id).modCtx 1 (k 1)

theorem meets_RingsComplete :
    Issues base 0 hd [(0, 9)] 1 ∧ base.ctxRun 0 = some run0 ∧ (base.ctx 0).role.isOp = true ∧ base.ownEntries 0 = [] ∧ (base.core (coreOf 0)).wq = [] ∧
    (base.core (coreOf 0)).banksBusy = [] ∧ (run0.rings.find? fun g => g.id == 2) = none ∧ (1 ≤ 8 ∧ 255 < 2 ^ 8 ∧ 0x70000 % 256 = 0 ∧ 0x70000 + 256 * 2 ^ 8 ≤ 0x80000 ∧
      (BitVec.ofNat 64 (0x70000 + 2 ^ 19 + 8 * 2 ^ 20 + 7 * 2 ^ 24 + 255 * 2 ^ 27)).toNat = 0x70000 + 2 ^ 19 + 8 * 2 ^ 20 + 7 * 2 ^ 24 + 255 * 2 ^ 27) ∧
    (∀ g ∈ [ring0 false 1 0, ring0 true 8 255, ring0 false 1 2, { ring0 false 1 1 with core := 1 }],
      let s := ringed g fun _ c => c
      ((theRun s).rings.find? fun g => g.id == 2) = some g ∧ g.ncons ≠ 0) ∧
    (∀ x ∈ (List.range 1).map (fun j => ((ring0 true 8 255).pushed - tget 0 (ring0 true 8 255).cur j).toNat), x < 2 ^ 8) ∧
    (∃ x ∈ (List.range 1).map (fun j => ((ring0 false 1 2).pushed - tget 0 (ring0 false 1 2).cur j).toNat), 2 ^ 1 ≤ x) ∧
    (∀ o, o < 8 → ((ringed (ring0 false 1 2) fun _ c => c).ctx (0 * 8 + o)).park.map (·.kind) ≠ some .ringEmpty) ∧
    (tget 0 (ring0 false 1 0).cur 0 = (ring0 false 1 0).pushed ∧ tget 0 (ring0 false 1 2).cur 0 ≠ (ring0 false 1 2).pushed) ∧
    (let g := { ring0 false 1 1 with arriving := [(1, .scalar 7)] }
     let p : Park := { Park.of .ringRemote with a := 2 }
     let s := { ringed g (fun k c => if k = 1 then { c with park := some p } else c) with ev := { Ev.none with unit := 1, sub := 2 } }
     s.run s.ev.unit = some (theRun s) ∧ ((theRun s).rings.find? fun g => g.id == s.ev.sub) = some g ∧ g.arriving[s.ev.idx]? = some (1, .scalar 7) ∧ 1 ∉ g.late ∧ s.ev.sub < 16 ∧ (s.core g.core).banksBusy = [] ∧
       (s.ctx 1).park.map (·.kind) = some .ringRemote ∧ p.a = s.ev.sub) ∧
    (let g := { ring0 false 1 1 with parked := [1] }
     let p := Park.of .ringFull
     let s := { ringed g (fun k c => if k = 1 then { c with park := some p } else c) with ev := { Ev.none with unit := 1, sub := 2 } }
     ((theRun s).rings.find? fun g => g.id == s.ev.sub) = some g ∧ g.parked = 1 :: [] ∧ g.full = false ∧ (s.ctx 1).park = some p ∧ p.kind = .ringFull ∧ p.b = 0) :=
  ⟨issues_of (by decide +kernel), by decide +kernel⟩

def condE0 : CondE := { site := 1, parent := 0, depth := 1, ft := 32768, fn := 32768, phase := 0, stale := 0, oldT := 0, oldN := 0 }
def seg0 (cc : BitVec 18) : Seg := { id := 1, kind := 1, ccond := cc, args := [], phase := 0, slot := 0, after := [], cid := none, stale := 0, old := 0 }
def site0 : SiteD := { id := 63, shift := 4, p := 0xFF00 }

theorem no_conds {f : CondSlot} : ∀ j, j ≠ 255 → (tget CondSlot.init [(255, f)] j).ent = none := by
  intro j hj
  simp only [tget]
  split <;> simp_all [CondSlot.init]

theorem meets_SegmentsComplete :
    (let s := withGraph [node 0 0 [], node 4 0 []] [] (fun r => { r with graph := { r.graph with sites := [site0] } }) id id
     s.ctxRun 0 = some (theRun s) ∧ (s.ctx 0).role.isOp = true ∧ s.ownEntries 0 = [] ∧ (s.ctx 0).ccond = 0 ∧ (theRun s).poolParked = [] ∧ Issues s 0 hd [(0, 9)] 0 ∧
       Issues s 0 hd [(0, 10)] 1 ∧
       ((theRun s).node 1 = some (node 4 0 []) ∧ (node 4 0 []).kind = 4 ∧ (node 4 0 []).args ≤ 64 ∧ (node 4 0 []).args % 8 = 0 ∧
         (31 : Reg).toNat + (node 4 0 []).args / 8 ≤ 32 ∧ (theRun s).segs.length < 1024) ∧
       (theRun s).node 2 = none ∧ ((theRun s).graph.sites.find? fun x => x.id == (63 : BitVec 6).toNat) = some site0 ∧
       (tget CondSlot.init (theRun s).conds 0).ent = none) ∧
    (let f : CondSlot := { gen := 255, pruned := false, ent := some condE0 }
     let s := on (fun r => { r with conds := [(255, f)], segs := [seg0 0] }) (fun c => { c with x := [(1, 0xFFFF)] }) id
     ((s.ctx 0).xr 1).toNat < 2 ^ 16 ∧ ((s.ctx 0).xr 1).toNat % 256 = 255 ∧ (tget CondSlot.init (theRun s).conds 255).gen = ((s.ctx 0).xr 1).toNat / 256 ∧
       (tget CondSlot.init (theRun s).conds 255).ent = some condE0 ∧ condE0.parent = 0 ∧ condE0.depth ≤ 8 ∧ condE0.stale = 0 ∧ condE0.ft ≤ 65536 ∧ condE0.fn ≤ 65536 ∧
       (theRun s).conds = [(255, f)] ∧ (∀ g ∈ (theRun s).segs, g.cid = none) ∧ ∀ g ∈ (theRun s).segs, g.ccond = 0) ∧
    (∀ f : CondSlot, ∀ j, j ≠ 255 → (tget CondSlot.init [(255, f)] j).ent = none) ∧
    (2 ^ 16 : Word).toNat ≥ 2 ^ 16 ∧ (1 ≤ 2 ∧ (2 : BitVec 2).toNat = 2) ∧
    (let s := { (withGraph [node 0 0 [], node 4 0 []] [] (fun r => { r with segs := [seg0 0] }) id id).modDie 0 fun d => { d with cycles := 1 } with ev := { Ev.none with unit := 1 } }
     let r := theRun s
     s.run s.ev.unit = some r ∧ r.st = .running ∧ r.rolling = false ∧ r.cut = none ∧ s.occupied r = true ∧ r.confAt < s.cycleOf r ∧ (s.idleSegs r).head? = some 1 ∧ r.waitSegs = [] ∧ r.segs = [seg0 0] ∧
       (seg0 0).ccond = 0 ∧ (seg0 0).stale = 0 ∧ (seg0 0).cid = none) ∧
    (let e : SpecEntry := { cid := 0, bytes := 8, eff := .core [(0, 8, 5)] true none false, word := 0, pc := 0, posted := false, id := 1, bad := none }
     let s := on id id (fun k => { k with sbuf := [e] })
     (s.ctx s.ev.unit).uncertain = false ∧ (s.ctx s.ev.unit).park = none ∧ s.ownEntries s.ev.unit = [e] ∧ e.eff = .core [(0, 8, 5)] true none false ∧
       s.ev.unit ∉ (s.core (coreOf s.ev.unit)).drained ∧ s.ringTravels s.ev.unit = false ∧ s.afterOf s.ev.unit = [] ∧ (s.core (coreOf s.ev.unit)).banksBusy = []) := by
  refine ⟨⟨?_, ?_, ?_, ?_, ?_, issues_of ?_, issues_of ?_, ?_⟩, ?_, fun f => no_conds, ?_, ?_, ?_, ?_⟩
  all_goals decide +kernel

/-! ## Shapes, copies and the matrix engine -/

/-- A shape of `n` elements of one byte in a row from `b` on (R231). -/
def row (b n : Nat) : ShapeBits := BitVec.ofNat 512 (b + n * 2 ^ 64 + 2 ^ 96 + 2 ^ 128 + 2 ^ 160 + 2 ^ 192)

theorem meets_ShapeFieldsAreSetAndRead :
    Issues base 0 hd [] 1 ∧ shapeField[(12 : BitVec 4).toNat]? = some (472, 8) ∧ shapeField[(0 : BitVec 4).toNat]? = some (0, 64) ∧
    (let w : Word := 0x0000_00D0_0000_5500; w.extractLsb' 8 8 = 0x55 ∧ 13 ≤ (w.extractLsb' 36 4).toNat) :=
  ⟨issues_of (by decide +kernel), by decide, by decide, by decide⟩

/-- One of elements of eight bytes. -/
def wide (b n : Nat) : ShapeBits := row b n ||| BitVec.ofNat 512 (3 * 2 ^ 448)

def copy0 (dst : ShapeBits) (k : Nat) : Copy :=
  { tag := 0, cid := 0, run := 1, node := 0, mode := 0, src := row 0 2, dst := dst, soff := 0, doff := 0, idx := 0, ssp := 1, dsp := 1, sf := false, k := k, count := 2
    word := 0, pc := 0, done := false, failed := false, since := 0, role := .op 1 0, fireno := 0, arg := 0, arrived := [], departed := [], paid := 0, stood := 0, secs := [], lat := [] }

theorem meets_CopiesComplete :
    (Issues base 0 hd [] 0 ∧ base.ctxRun 0 = some run0 ∧ (base.ctx 0).role.isOp = true ∧ base.ownEntries 0 = [] ∧ copyTest run0 0 (base.ctx 0) (copy0 (row 0x7FFFE 2) 0) = none ∧
      copyTest run0 0 (base.ctx 0) (copy0 (row 0x7FFFF 2) 0) = some (0x06, 0) ∧ (1 : BitVec 4).toNat ≤ 1 ∧ run0.graph.chans = [] ∧ run0.graph.hands = [] ∧
      (base.core 0).copies.length < 64) ∧
    64 ≤ ((on id id (fun k => { k with copies := List.replicate 64 (copy0 0 0) })).core 0).copies.length ∧
    (let p := copy0 (row 0x7FFFE 2) 1
     let s := on id id (fun k => { k with copies := [p] })
     s.ev.idx = 0 ∧ (s.core s.ev.unit).copies[0]? = some p ∧ coreOf p.cid = s.ev.unit ∧ s.run p.run = some run0 ∧ run0.st = .running ∧ s.ev.val 0 = 0 ∧ p.mode = 0 ∧
       p.ssp = 1 ∧ p.dsp = 1 ∧ p.sf = false ∧ p.failed = false ∧ p.k < p.count ∧ p.lat = [] ∧ (s.core s.ev.unit).banksBusy = [] ∧
       (∀ m, m < 2 → ∀ n, n < 2 → (0 + m) / 8 ≠ (0x7FFFE + n) / 8) ∧ 1 + 2 ^ shElog p.src ≤ 0x80000 ∧ 0x7FFFF + 2 ^ shElog p.src ≤ 0x80000 ∧
       (shBase p.dst : Int) + p.doff + 2 ^ shElog p.dst * ((p.k % shExt p.dst 0 : Nat) * shStr p.dst 0 + (p.k / shExt p.dst 0 % shExt p.dst 1 : Nat) * shStr p.dst 1) = 0x7FFFF) ∧
    (∀ k ∈ [0, 1], let p := copy0 (row 0x7FFFE 2) k
      p.k < p.count ∧ 2 ^ shElog p.src ≠ 8 ∧ (0x7FFFE + 0) / 8 = (0x7FFFE + 1) / 8) ∧
    (let p := { copy0 (wide 0x7FFF0 2) 1 with src := wide 0 2 }
     2 ^ shElog p.src = 8 ∧ shBase p.dst + 2 * 8 ≤ 0x80000 ∧ p.k < p.count) ∧
    (let p := copy0 (row 0x7FFFE 2) 2
     p.k = p.count ∧ p.sf = false) :=
  ⟨⟨issues_of (by decide +kernel), by decide +kernel⟩, by decide +kernel⟩

def binding0 (k : Nat) : Binding := { k := k, stride := 0, base := 0, amask := 1, ty := 0, ca := true, cb := true }

/-- The machine with an accumulator 3 in a state. -/
def accum (x : Acc) (fk : Core → Core) : State :=
  { on id (fun c => { c with x := [(1, 63), (2, 64)] }) (fun k => fk { k with accs := [(3, x)] }) with now := 1, ev := { Ev.none with sub := 3 } }

theorem meets_AccumulatorWordsComplete :
    Issues base 0 hd [] 1 ∧ Issues base 0 hd [(0, 5)] 0 ∧ Issues base 0 hd [(0, 7)] 0 ∧ (base.ctxRun 0).isSome = true ∧ base.ownEntries 0 = [] ∧
    (∀ x ∈ [Acc.init, { Acc.init with st := .accum, xw := true }, { Acc.init with st := .sealed }, { Acc.init with bind := some (binding0 1) },
        { Acc.init with sharers := List.range 8 }],
      let s := accum x id
      (s.ctx 0).role.isOp = true ∧ (s.ctxRun 0).isSome = true ∧ s.ownEntries 0 = [] ∧ accOf s 0 3 = x ∧ ((accOf s 0 3).sharers.contains 0 = true ∨ (accOf s 0 3).sharers.length < 8) ∧
        (s.core 0).firing ≠ some 3 ∧ (accOf s 0 3).queue = [] ∧ (x.xw = true → (List.range 64).all (fun i => x.rowOk i) = true) ∧ (3 : Reg).toNat < 4) ∧
    (((accum Acc.init id).ctx 0).xr 1).toNat ≤ 63 ∧ 63 < (((accum Acc.init id).ctx 0).xr 2).toNat ∧
    (tyBytes 11 = 2 ∧ bindF.base.toNat % 2 = 0 ∧ bindF.stride.toNat % 2 = 0) ∧ (0 < (1 : BitVec 16).toNat ∧ 0 ≤ 1 ∧ 1 ≤ (binding0 1).k) ∧ Acc.init.rowOk 63 = true :=
  ⟨issues_of (by decide +kernel), issues_of (by decide +kernel), issues_of (by decide +kernel), by decide +kernel⟩

theorem meets_TileWordsComplete :
    (let s := on id (fun c => { c with x := [(1, 63), (2, 31), (3, 64)] }) (fun k => { k with tiles := [(7, { Slot.init with full := true })] })
     Issues s 0 hd [] 1 ∧ (s.ctx 0).role.isOp = true ∧ (s.ctxRun 0).isSome = true ∧ s.ownEntries 0 = [] ∧ (s.core (coreOf 0)).copies = [] ∧ (s.core (coreOf 0)).wq = [] ∧ (s.core (coreOf 0)).firing = none ∧
       (s.core (coreOf 0)).tagq = [] ∧ (slotAt s 0 false 7).full = true ∧ (slotAt s 0 true 255).full = false ∧ (slotAt s 0 true 255).sharers.length < 8 ∧ (slotAt s 0 false 0).full = false ∧
       ((s.ctx 0).xr 1).toNat < 64 ∧ ((s.ctx 0).xr 2).toNat < 32 ∧ 64 ≤ ((s.ctx 0).xr 3).toNat) ∧
    ((11 : BitVec 4).toNat ≤ 11 ∧ tyBytes 11 = 2 ∧ (254 : BitVec 8).toNat % 2 = 0 ∧ tyBytes 9 = 1 ∧ (7 : BitVec 8).toNat < 8) :=
  ⟨⟨issues_of (by decide +kernel), by decide +kernel⟩, by decide⟩

/-- The descriptor of a group 3 of quads in a row from quad 0 of die 0 on, of 31 parts. -/
def descOf (quads : Nat) : Word := BitVec.ofNat 64 (3 + quads * 2 ^ 8 + 31 * 2 ^ 32)

/-- The cores of the first quads. -/
def quadCores (quads : Nat) : List Nat := (List.range quads).flatMap fun i => [2 * i, 2 * i + 1, 2 * i + 32, 2 * i + 33]

/-- These cores have joined the group, in a region as wide as it, and its chunk travels. -/
def grouped (quads : Nat) (joined : List Nat) (x : Acc) : State :=
  let join (k : Core) : Core := { k with groups := [{ gid := 3, desc := descOf quads }] }
  let s := on (fun r => { r with width := 2 * quads }) (fun c => { c with x := [(1, descOf quads), (2, 0x301)] }) (fun k => { k with accs := [(3, x), (2, x)] })
  let s := joined.foldl (fun s m => s.modCore m join) s
  { s with
    xchunks := [{ run := 1, srcCid := 0, pc := 0, node := 0, fireno := 0, core := 0, acc := 2, tok := .chunk { chunk0 with type := 13, anchor := 96 } 0, word := 0 }] }

/-- MGROUP's descriptor fits: it names cores that the region covers, this one among them, and no other group has its number here. -/
def fitting (quads : Nat) (joined : List Nat) : Bool :=
  let s := grouped quads joined Acc.init
  let r := theRun s
  let w := (descOf quads).toNat
  (s.ctx 0).xr 1 == descOf quads && decide (w < 2 ^ 40) && w / 16 % 16 == 0 && w / 2 ^ 12 % 16 == 0 && decide (1 ≤ quads ∧ quads ≤ 8) && w / 2 ^ 8 % 16 == quads &&
    w / 2 ^ 32 == 31 && w / 2 ^ 16 % 2 ^ 16 == 0 && (quadCores quads).all (fun m => r.covers m) && (quadCores quads).contains 0 &&
    (s.core 0).groups.all (fun g => g.gid == 3 && g.desc == descOf quads)

/-- The cores of the group that have joined it. -/
def joins (quads : Nat) (joined : List Nat) : List Nat :=
  (quadCores quads).filter fun m => ((grouped quads joined Acc.init).core m).groups.any fun g => g.gid == 3 && g.desc == descOf quads

theorem meets_GroupsReduceTheirPartials :
    (∀ q ∈ [1, 8], fitting q (quadCores q) = true ∧ joins q (quadCores q) = quadCores q) ∧
    (fitting 1 [0] = true ∧ joins 1 [0] = [0]) ∧ (fitting 1 [1, 32, 33] = true ∧ joins 1 [1, 32, 33] = [1, 32, 33]) ∧ (fitting 8 [] = true ∧ joins 8 [] = []) ∧
    ((2 ^ 40 ≤ (2 ^ 40 : Word).toNat) ∧ (List.range 64).all (fun j => Acc.init.rowOk j) = true) ∧
    (let s := grouped 1 (quadCores 1) { Acc.init with st := .sealed }
     Issues s 0 hd [(0, 8)] 1 ∧ Issues s 0 hd [(0, 8)] 0 ∧ (s.ctx 0).role.isOp = true ∧ s.ctxRun 0 = some (theRun s) ∧ s.ownEntries 0 = [] ∧
       ((s.core 0).groups.find? (fun g => g.gid == ((s.ctx 0).xr 2).toNat / 2 ^ 8 % 16) = some { gid := 3, desc := descOf 1 } ∧ (grpMembers (descOf 1))[1]? = some 1 ∧ 1 ≠ 0 ∧
         ((s.ctx 0).xr 2).toNat % 32 = 1 ∧ ((s.ctx 0).xr 2).toNat < 2 ^ 12 ∧ ((s.ctx 0).xr 2).toNat / 32 % 8 = 0 ∧ (accOf s 0 3).st = .sealed ∧ (accOf s 0 3).sharers.length < 8)) ∧
    (∀ x ∈ [Acc.init, { Acc.init with st := .accum, anchor := 96, pchunks := 127 }], let s := grouped 1 (quadCores 1) x
      let y := accOf s 0 2
      (y.st = .empty ∨ (y.st = .accum ∧ y.anchor = 96)) ∧ y.pchunks + 1 ≠ 128 * y.parts ∧ y.val = [] ∧ s.ev.idx = 0) ∧
    (∃ x q, checkChunk { chunk0 with type := 13, anchor := 96 } 0 0 0 = .ok x q) := by
  refine ⟨?_, ?_, ?_, ?_, ?_, ⟨issues_of ?_, issues_of ?_, ?_⟩, ?_, passes_ok ?_⟩
  all_goals decide +kernel

/-- Slot 0 of the tiles and of the Mantel are full. -/
def fulls (k : Core) : Core := { k with tiles := [(0, { Slot.init with full := true })], mantel := [(0, { Slot.init with full := true })], lastAcc := 2 }

theorem meets_FiresAndReadsComplete :
    (let s := accum { Acc.init with bind := some (binding0 1) } fulls
     s.regionRun s.ev.unit = some run0 ∧ run0.st = .running ∧ (accOf s 0 3).bind = some (binding0 1) ∧ (s.core 0).firing = none ∧ (s.core 0).dummy = false ∧
       (s.core 0).stopFires = false ∧ (let e := s.die (dieOf 0); e.cyc < e.fclk ∧ e.fNow * e.fclk < e.hi * (e.cyc + 1)) ∧ (s.core 0).lastAcc = (3 + 3) % 4 ∧ s.eligible 0 3 = true) ∧
    (let x : Acc := { Acc.init with bind := some (binding0 2), st := .accum, anchor := 96 }
     let s := accum x (fun k => { fulls k with firing := some 3 })
     (binding0 2).ty ≤ 1 ∧ (s.core 0).firing = some 3 ∧ (s.core 0).fireLeft = 0 ∧ x.st = .accum ∧ x.anchor.toInt = 96 ∧ x.fires + 1 < (binding0 2).k ∧ (s.core 0).tagq = [] ∧
       (x.val = [] ∧ (slotAt s 0 false 0).data = [])) ∧
    (let tk : MToken := { f := 0, row := 63, ty := 12, rm := 0, cid := 0, d := 1, node := 0 }
     let x : Acc := { Acc.init with st := .sealed, queue := [tk] }
     let s := accum x id
     x.queue = tk :: [] ∧ tk.cid < 2 ^ 64 ∧ x.bind = none ∧ s.regionRun 0 = some run0 ∧ x.rowOk tk.row = true ∧ tk.ty ≤ 12) ∧
    (let s := base.modDie 0 fun d => { d with cyc := 1800, fNow := 5 }
     (s.die s.ev.unit).fclk ≤ (s.die s.ev.unit).cyc) ∧
    (let s := base.modDie 0 fun d => { d with cyc := 1, lo := 1 }
     (s.die s.ev.unit).cyc < (s.die s.ev.unit).fclk ∧ (s.die s.ev.unit).fNow * (s.die s.ev.unit).fclk < (s.die s.ev.unit).lo * (s.die s.ev.unit).cyc) := by decide +kernel

theorem core_base {i : Nat} : (base.core i).firing = none ∧ (base.core i).dummy = false ∧ (base.core i).accs = [] := by
  have h : base.cores = [] := by decide +kernel
  simp [State.core, h, tget, Core.init]

/-- No array of the machine with nothing bound has an eligible fire. -/
theorem meets_dummyFires (i : Nat) : (base.core i).firing = none ∧ (base.core i).dummy = false ∧ base.nextFire i = none := by
  have h := core_base (i := i)
  have e (a : Nat) : base.eligible i a = false := by simp [State.eligible, State.acc, h.2.2, tget, Acc.init]
  exact ⟨h.1, h.2.1, by simp [State.nextFire, e]⟩

/-! ## Tokens on their way, firings and router operators -/

def directed0 (core : Nat) : Directed := { srcCid := 0, srcRun := some 1, core := core, ctx := 0, port := 0, tok := .scalar 7, word := 0, pc := 0, due := 0, paid := 1, stood := 0, vd := 0, node := 0, fireno := 0, held := none }

theorem meets_DirectedAndInjectedTokensAreSent :
    (Issues base 0 hd [] 1 ∧ Issues base 0 hd [] 0 ∧ base.ctxRun 0 = some run0 ∧ (base.ctx 0).role.isOp = true ∧ base.ownEntries 0 = [] ∧ (base.core 0).sendq.length < 16) ∧
    16 ≤ ((on id id (fun k => { k with sendq := List.replicate 16 (directed0 1) })).core 0).sendq.length ∧
    (let nd := node 0 0 [port 0 0, port 16 0]
     let s := withGraph [node 5 0 [], nd] [chan 1 16 1 0] id id id
     let r := theRun s
     r.graph.chans[0]? = some (chan 1 16 1 0) ∧ r.node 1 = some nd ∧ nd.portAt 16 = some (port 16 0) ∧ (port 16 0).kind = 0 ∧
       r.graph.handlerNodes.contains (s.ctx 0).role.node = true ∧ 0 < r.freeSlots 0 ∧ r.graph.chans[1]? = none) ∧
    (let nd := node 0 0 [port 0 0, port 16 0]
     let s := withGraph [node 5 0 [], nd] [chan 1 16 1 0] (fun r => { r with chans := [(0, { Chan.init with buf := [.scalar 0] })] }) id id
     (theRun s).freeSlots 0 = 0) ∧
    (let nd := node 0 0 [port 0 2, port 16 2]
     let s := withGraph [node 5 0 [], nd] [chan 1 16 1 0] id id id
     (theRun s).graph.chans[0]? = some (chan 1 16 1 0) ∧ (theRun s).node 1 = some nd ∧ nd.portAt 16 = some (port 16 2) ∧ (port 16 2).kind ≠ 0 ∧ (port 16 2).kind ≠ 1) :=
  ⟨⟨issues_of (by decide +kernel), issues_of (by decide +kernel), by decide +kernel⟩, by decide +kernel⟩

/-- The machine at cycle 1 with an event and an instance of these nodes and channels. -/
def at1 (nodes : List NodeD) (chans : List ChanD) (fr : Run → Run) (fc : Ctx → Ctx) (e : Ev) : State :=
  { (withGraph nodes chans fr fc id).modDie 0 fun d => { d with cycles := 1 } with now := 1, ev := e }

theorem meets_TokensAndBanksPass :
    (let s := at1 [ported0] [chan 0 16 0 0] (fun r => { r with chans := [(0, { Chan.init with fly := [{ tok := some (.scalar 7), due := 1 }] })] }) id { Ev.none with unit := 1 }
     let r := theRun s
     s.ev.idx = 0 ∧ s.run s.ev.unit = some r ∧ (r.chan 0).fly = { tok := some (.scalar 7), due := 1 } :: [] ∧ 1 ≤ s.cycleOf r ∧ r.st = .running ∧ r.rolling = false ∧ r.cut = none) ∧
    (let s := at1 [ported0] [chan 0 16 0 0] (fun r => { r with chans := [(0, { Chan.init with fly := [{ tok := some (.scalar 7), due := 2 }] })] }) id { Ev.none with unit := 1 }
     ((theRun s).chan 0).fly = { tok := some (.scalar 7), due := 2 } :: [] ∧ s.cycleOf (theRun s) < 2) ∧
    (let s := on id id (fun k => { k with sendq := [directed0 1] })
     s.ev.sub = 0 ∧ (s.core s.ev.unit).sendq = directed0 1 :: []) ∧
    (let s := { at1 [ported0] [chan 0 16 0 0] id id { Ev.none with sub := 1 } with directed := [directed0 0] }
     let r := theRun s
     s.ev.sub ≠ 0 ∧ s.directed[s.ev.idx]? = some (directed0 0) ∧ (directed0 0).held = none ∧ (directed0 0).due ≤ s.cycle 0 ∧ dieOf (coreOf 0) = dieOf 0 ∧ s.guardReason 0 0 0 = none ∧
       (s.run r.id = some r ∧ (s.ctx 0).role = .op r.id 0 ∧ r.node 0 = some ported0 ∧ ported0.portAt 0 = some (port 0 0)) ∧ (port 0 0).kind = (directed0 0).tok.kind ∧
       r.graph.chanOfIn 0 0 = some 0 ∧ 0 < r.freeSlots 0 ∧ r.goes 0 = true ∧ r.cut = none) ∧
    (let d := { directed0 0 with held := some (1, 0) }
     let s := { at1 [ported0] [chan 0 16 0 0] id id { Ev.none with sub := 1 } with directed := [d] }
     s.directed[s.ev.idx]? = some d ∧ d.held = some ((theRun s).id, 0) ∧ s.run (theRun s).id = some (theRun s) ∧ (theRun s).graph.chanOfIn 0 d.port = some 0) ∧
    (let s := { at1 [ported0] [chan 0 16 0 0] id id { Ev.none with sub := 1 } with directed := [{ directed0 0 with due := 2 }] }
     s.directed[s.ev.idx]? = some { directed0 0 with due := 2 } ∧ s.cycle 0 < 2 ∧ s.guardReason 0 0 0 = none) ∧
    (∀ halts ∈ [false, true], let s := { base.modVd 0 fun v => { v with ghalt := halts } with
       directed := [directed0 1]
       strips := [{ die := 0, col := 0, width := 1, shared := false, holders := [0], slice := 0, grace := 0, occ := none, since := 0, yielding := false },
         { die := 0, col := 1, width := 31, shared := false, holders := [2], slice := 0, grace := 0, occ := none, since := 0, yielding := false }] }
     s.directed[s.ev.idx]? = some (directed0 1) ∧ (directed0 1).held = none ∧ s.guardReason (directed0 1).vd 0 1 = some 0 ∧ (s.vd 0).ghalt = halts ∧ (directed0 1).srcRun = some 1 ∧ s.run 1 = some run0 ∧ run0.st = .running ∧
       (s.die 0).guards = []) ∧
    (∀ sent ∈ [false, true], let g : GuardWin := { core := 0, srcCid := 0, first := 0, left := 0, count := 1, dest := 8, dport := 0, reason := 0, det := 0, kind := 0, word := 0, cyc := 0, vd := 0, run := none, gdrop := 1, sent := sent }
     let s := base.modDie 0 fun d => { d with guards := [g] }
     (s.die s.ev.unit).guards[s.ev.idx]? = some g ∧ g.left = 0 ∧ g.sent = sent) ∧
    (let h : HandD := { prod := 0, cons := 1, banks := 0x8001, fires := 1 }
     let s := at1 [node 0 0 [], node 0 0 []] [] (fun r => { r with graph := { r.graph with hands := [h] } }) (fun c => { c with fireno := 1 }) { Ev.none with unit := 1 }
     s.run s.ev.unit = some (theRun s) ∧ (theRun s).graph.hands[s.ev.idx]? = some h ∧ (theRun s).placeOf h.prod = some (.ctx 0) ∧ (s.ctx 0).role = .op 1 h.prod ∧ h.fires ≤ (s.ctx 0).fireno.toNat ∧
       (s.core (coreOf 0)).copies = [] ∧ (s.core (coreOf 0)).sbuf = [] ∧ h.banks.getLsbD 15 = true ∧ (s.ctx 0).fireno.toNat < { h with fires := 2 }.fires) ∧
    (let e : ChanD := { pnode := 1, pport := 0, cnode := 0, cport := 0, barrier := true, selector := false, depth := 0 }
     let p := Park.of .streamBar
     let s := { at1 [node 0 0 [], node 3 0 []] [e] (fun r => { r with nodes := [(1, { NodeS.init with done := true })] }) id { Ev.none with unit := 1 } with
       ctxs := [(0, { base.ctx 0 with park := some p })] }
     (theRun s).graph.chans[s.ev.idx]? = some e ∧ e.barrier = true ∧ s.barred (theRun s) e.cnode = false ∧ (s.ctx 0).role.run = some (theRun s).id ∧
       (s.ctx 0).role.node = e.cnode ∧ (s.ctx 0).park = some p ∧ p.kind = .streamBar) ∧
    (let e : ChanD := { pnode := 1, pport := 0, cnode := 0, cport := 0, barrier := true, selector := false, depth := 0 }
     let s := at1 [node 0 0 [], node 3 0 []] [e] id id { Ev.none with unit := 1 }
     s.barred (theRun s) e.cnode = true) := by
  refine ⟨?_, ?_, ?_, ?_, ?_, ?_, ?_, ?_, ?_, ?_, ?_⟩ <;> decide +kernel

theorem meets_FiringsStart :
    (let s := at1 [ported0] [chan 0 16 0 0] (fun r => { r with chans := [(0, { Chan.init with buf := [.scalar 7] })], graph := { r.graph with chans := [{ chan 0 16 0 0 with depth := 2 }] } })
       (fun c => { c with running := false }) { Ev.none with unit := 1 }
     let r := theRun s
     s.run s.ev.unit = some r ∧ r.node 0 = some ported0 ∧ r.placeOf 0 = some (.ctx 0) ∧ s.mayFire r 0 = true ∧ (s.ctx 0).running = false ∧ (s.ctx 0).park = none ∧ (s.ctx 0).role = .op r.id 0 ∧
       s.ev.idx = 0 ∧ ported0.kind = 0 ∧ (r.graph.chanOfIn 0 0 = some 0 ∧ (port 0 0).count ≤ (r.chan 0).buf.length) ∧
       (r.graph.chanOfOut 0 16 = some 0 ∧ (port 16 0).count ≤ r.freeSlots 0)) ∧
    (let s := at1 [ported0] [chan 0 16 0 0] id (fun c => { c with running := false }) { Ev.none with unit := 1 }
     (theRun s).graph.chanOfIn 0 0 = some 0 ∧ ¬(port 0 0).count ≤ ((theRun s).chan 0).buf.length) ∧
    (let s := at1 [node 5 0 []] [] (fun r => { r with hq := [flt0] }) (fun c => { c with running := false }) { Ev.none with unit := 1 }
     let r := theRun s
     s.run s.ev.unit = some r ∧ r.placeOf 0 = some (.ctx 0) ∧ s.mayFire r 0 = true ∧ (s.ctx 0).running = false ∧ (s.ctx 0).park = none ∧ (s.ctx 0).role = .op r.id 0 ∧ r.graph.handler = some 0 ∧
       r.hq = flt0 :: [] ∧ (∀ p ∈ (node 5 0 []).ports, p.port < 16)) := by decide +kernel

/-- A router operator 0 of a kind, with a token on each input and a consumer of its outputs. -/
def router (k : Nat) (toks : List (Nat × Word)) (st : NodeS) : State :=
  at1 [node 1 k [port 0 0, port 1 0, port 2 0, port 16 0, port 17 0], node 0 0 [port 0 0, port 1 0, port 16 0, port 17 0, port 18 0]]
    [chan 1 16 0 0, chan 1 17 0 1, chan 1 18 0 2, chan 0 16 1 0, chan 0 17 1 1]
    (fun r => { r with chans := toks.map fun t => (t.1, { Chan.init with buf := [.scalar t.2] }), nodes := [(0, st)] }) id { Ev.none with unit := 1 }

/-- Its inputs stand ready and its outputs have room. -/
def routes (k : Nat) (d : Word) (b : Bool) : Bool :=
  let s := router k [(0, d), (1, 7), (2, 9)] { NodeS.init with run := b, held := if b then some (.scalar 5) else none, total := 2 }
  let r := theRun s
  s.ev.idx == 0 && (s.run s.ev.unit).any (fun x => x == r) && (r.node 0).any (fun nd => nd.kind == 1 && nd.rkind == k) && s.mayFire r 0 && decide ((r.nodeS 0).acted ≤ s.cycleOf r) &&
    (r.nodeS 0).run == b && (r.nodeS 0).held.isSome == b && r.graph.chanOfIn 0 0 == some 0 && r.graph.chanOfIn 0 1 == some 1 && r.graph.chanOfIn 0 2 == some 2 &&
    (r.chan 0).buf.head? == some (.scalar d) && (r.chan 1).buf.head? == some (.scalar 7) && (r.chan 2).buf.head? == some (.scalar 9) && r.graph.chanOfOut 0 16 == some 3 &&
    decide (0 < r.freeSlots 3) && r.graph.chanOfOut 0 17 == some 4 && decide (0 < r.freeSlots 4)

theorem meets_RouterOperatorsAct :
    (routes 0 0 false = true ∧ routes 0 1 false = true ∧ routes 1 0 false = true ∧ routes 1 1 false = true ∧ routes 2 0 false = true ∧ routes 2 0 true = true ∧
      routes 2 1 true = true ∧ routes 3 0 false = true ∧ routes 3 0 true = true ∧ routes 3 1 true = true ∧ routes 4 0 false = true ∧ routes 4 1 false = true) ∧
    (let s := at1 [node 1 4 [port 0 0, port 1 0, port 16 0, port 17 0]] [] (fun r => { r with nodes := [(0, { NodeS.init with run := true, n := 0, total := 2 })] }) id
       { Ev.none with unit := 1 }
     let st := (theRun s).nodeS 0
     st.n + 1 < st.total ∧ [port 0 0, port 1 0, port 16 0, port 17 0].filter (fun p => decide (1 ≤ p.port) && decide (p.port ≤ 15)) = [port 1 0]) ∧
    (let st : NodeS := { NodeS.init with run := true, n := 1, total := 2 }; st.total ≤ st.n + 1) := by decide +kernel

/-! ## Streams, re-latch tokens and collectives -/

/-- A loader or a storer 0 of one-element tokens at address 64, in the middle of a round or between two. -/
def stream (k : Nat) (st : NodeS) (buf : List Token) (more : NodeS → NodeS) : State :=
  let nd : NodeD := { node k 0 [port (if k = 2 then 16 else 0) 0] with shape := some { image := row 64 1, baseMode := 0, patches := [] } }
  at1 [nd, node 0 0 [port 0 0, port 16 0]] [if k = 2 then chan 0 16 1 0 else chan 1 16 0 0]
    (fun r => { r with chans := [(0, { Chan.init with buf := buf, res := if st.run then 1 else 0 })]
                       nodes := [(0, more { st with latched := true, latches := [page0] })], place := [(0, some (.edge 0 0 false 0))] }) id { Ev.none with unit := 1 }

def relatch0 : Relatch := { vd := 0, va := 0, size := 4096, got := false, waits := [], cmd := (0, 0, 0) }

theorem meets_StreamsAndRelatchesAct :
    (∀ k ∈ [2, 3], let s := stream k NodeS.init [.scalar 7] id
      let s := if k = 2 then stream k NodeS.init [] id else s
      let r := theRun s
      s.ev.idx = 0 ∧ s.run s.ev.unit = some r ∧ (r.node 0).any (fun nd => nd.kind == k && nd.coll == none && decide ((r.nodeS 0).round < nd.rounds) && r.inputsReady 0 nd && r.outputsFree 0 nd) = true ∧
        s.mayStream r 0 k = true ∧ r.hasParam 0 = false ∧ r.strIndex 0 = none ∧ r.strElems 0 (r.strPos 0 0) = [(0, 64)] ∧ s.unitTurn r 0 = true ∧ (r.nodeS 0).asked = none ∧
        (r.nodeS 0).latches.find? (fun q => q.holds r.vd 64) = some page0 ∧ (r.nodeS 0).run = false ∧ (r.nodeS 0).done = false ∧ s.barred r 0 = false) ∧
    (∀ k ∈ [2, 3], let s := stream k NodeS.init [] fun x => { x with round := 1 }
      s.ev.idx = 0 ∧ s.mayStream (theRun s) 0 k = true ∧ ((theRun s).node 0).any (fun nd => decide (nd.rounds ≤ ((theRun s).nodeS 0).round)) = true) ∧
    (∀ k ∈ [2, 3], let s := stream k { NodeS.init with run := true } (if k = 2 then [] else [.scalar 7]) id
      let r := theRun s
      s.mayStream r 0 k = true ∧ (r.nodeS 0).m = 0 ∧ (r.nodeS 0).asked = none ∧ (k = 2 → r.slotFor 0 (r.strOut 0 0) = true) ∧ s.unitTurn r 0 = true ∧ r.unitOf 0 = some 0 ∧
        s.cycleOf r < (tget (0, 0) { s with edgeTurn := [(0, 2, 0)] }.edgeTurn 0).1) ∧
    (∀ k ∈ [2, 3], let s := stream k { NodeS.init with run := true, asked := some 64 } (if k = 2 then [] else [.scalar 7]) id
      (s.streamToll (theRun s) 0).isSome = true) ∧
    (∀ k ∈ [2, 3], let s := stream k { NodeS.init with run := true, asked := some 64, paid := 99 } (if k = 2 then [] else [.scalar 7]) id
      let r := theRun s
      (r.nodeS 0).run = true ∧ (r.nodeS 0).m = 0 ∧ s.mayStream r 0 k = true ∧ s.streamToll r 0 = none ∧ s.arrivals = [] ∧ r.strIndex 0 = none ∧
        r.strElems 0 (r.strPos 0 (r.nodeS 0).n) = [(0, 64)] ∧ (r.nodeS 0).latches.find? (fun q => q.holds r.vd 64) = some page0 ∧
        (page0.pa + (64 - page0.va)) % 128 = 64 % 128 ∧ (page0.pa + (64 - page0.va)) % shElem (r.image 0) = 0 ∧ s.poisoned 64 = false ∧ tget [] (s.die 0).l2 (l2Key 64) = [] ∧
        page0.writable = true ∧
        (k = 2 → r.portKind 0 (r.strOut 0 (r.nodeS 0).n) = 0 ∧ r.graph.chanOfOut 0 (r.strOut 0 (r.nodeS 0).n) = some 0 ∧ 0 < (r.chan 0).res) ∧
        (k = 3 → r.graph.chanOfIn 0 0 = some 0 ∧ (r.chan 0).buf = .scalar 7 :: [])) ∧
    (let s := on id id (fun k => { k with relatch := [relatch0], tlb := [page0] })
     (s.core s.ev.unit).relatch[s.ev.idx]? = some relatch0 ∧ relatch0.got = false ∧ (s.core s.ev.unit).wq = []) ∧
    (let s := { stream 2 { NodeS.init with asked := some 64 } [] id with edgeRel := [(0, relatch0)] }
     (∀ r ∈ s.runs, r = theRun s) ∧ (theRun s).unitOf 0 = some 0 ∧ ((theRun s).nodeS 0).asked.isSome = true) ∧
    (let s := { base with edgeRel := [(0, { relatch0 with got := true })] }
     s.edgeRel[s.ev.idx]? = some (0, { relatch0 with got := true }) ∧ { relatch0 with got := true }.waits = []) ∧
    (let s := { stream 2 NodeS.init [] id with edgeRel := [(0, relatch0)] }
     s.edgeRel[s.ev.idx]? = some (0, relatch0) ∧ s.run 1 = some (theRun s) ∧ 0 < (theRun s).graph.nodes.length ∧ (theRun s).placeOf 0 = some (.edge 0 0 false 0) ∧ (∀ r ∈ s.runs, r = theRun s) ∧ ((theRun s).nodeS 0).asked = none) := by
  refine ⟨?_, ?_, ?_, ?_, ?_, ?_, ?_, ?_, ?_⟩ <;> decide +kernel

/-- The descriptor of a collective of packages 0 and 63, tag 5. -/
def desc1 (op : Nat) : Nat := 5 + op * 2 ^ 32 + (1 + 2 ^ 63) * 2 ^ 64

def collective (st : NodeS) (bytes : Nat) (sub : Nat) : State :=
  let nd : NodeD := { node 3 0 [{ port 0 2 with count := 2, bound := 2 }] with coll := some 64 }
  let s := at1 [nd, node 0 0 [port 16 2]] [chan 1 16 0 0]
    (fun r => { r with chans := [(0, { Chan.init with buf := [.chunk chunk0 0, .chunk chunk0 0] })], nodes := [(0, { st with latched := true, latches := [page0] })], place := [(0, some (.edge 0 0 false 0))] }) id
    { Ev.none with unit := 1, sub := sub }
  s.devStore 64 64 bytes

def live (c : Collective) : State := { base with colls := [c] }
def coll0 : Collective := { tag := 5, round := 0, op := 0, rm := 0, members := 1 + 2 ^ 63, contribs := [], deadline := 0, results := none, dead := none, late := [], shut := 0 }

/-- The chunk of another package, as the event gives it. -/
def arriving0 : Ev := { Ev.none with unit := 7, vals := [0, 0, leNat chunk0.bytes, 0] }

theorem meets_CollectivesGather :
    (let s := collective NodeS.init (desc1 0) 0
     let r := theRun s
     s.podId < 64 ∧ s.ev.idx = 0 ∧ s.run s.ev.unit = some r ∧ (r.node 0).any (fun nd => nd.kind == 3 && nd.coll == some 64 && s.roundReady r 0 nd) = true ∧ s.mayStream r 0 3 = true ∧
       (r.nodeS 0).run = false ∧ (r.nodeS 0).asked = none ∧ (r.nodeS 0).latches.find? (fun q => q.holds r.vd 64) = some page0 ∧ s.unitTurn r 0 = true ∧ r.unitOf 0 = some 0 ∧
       s.cycleOf r < (tget (0, 0) { s with edgeTurn := [(0, 2, 0)] }.edgeTurn 0).1) ∧
    (let s := collective { NodeS.init with asked := some 64 } (desc1 0) 0
     (theRun s).nodeS 0 = { NodeS.init with asked := some 64, latched := true, latches := [page0] } ∧ (s.streamToll (theRun s) 0).isSome = true) ∧
    (∀ x ∈ [desc1 2, desc1 3, desc1 0 + 7 * 2 ^ 40],
      let s := collective { NodeS.init with asked := some 64, paid := 99 } x 0
      let r := theRun s
      let w := leNat ((List.range 64).map fun i => s.devByte (64 + i))
      s.mayStream r 0 3 = true ∧ (r.nodeS 0).run = false ∧ (r.nodeS 0).asked = some 64 ∧ s.streamToll r 0 = none ∧ s.poisoned 64 = false ∧ w = x ∧
        ((bits w 32 8 ≤ 2 ∧ bits w 40 8 ≤ 6) ↔ x = desc1 2) ∧ bits w 48 16 = 0 ∧ bits w 128 384 = 0 ∧ ((List.range 64).filter fun i => (bits w 64 64).testBit i) = [0, 63]) ∧
    (let s := collective { NodeS.init with run := true } (desc1 0) 0
     let r := theRun s
     (r.nodeS 0).run = true ∧ (r.nodeS 0).sent = false ∧ r.graph.chanOfIn 0 0 = some 0 ∧ (r.chan 0).buf = .chunk chunk0 0 :: [.chunk chunk0 0]) ∧
    (let s := collective { NodeS.init with run := true, chunks := [.chunk chunk0 0] } (desc1 0) 0
     s.ev.sub = 0 ∧ ((theRun s).nodeS 0).paid = 0) ∧
    (let s := collective { NodeS.init with run := true, chunks := [.chunk chunk0 0], paid := 1, asked := some 0 } (desc1 0) 0
     ((theRun s).nodeS 0).asked.isSome = true) ∧
    (let s := collective { NodeS.init with run := true, chunks := [.chunk chunk0 0], paid := 1 } (desc1 0) 0
     s.ev.sub = 0 ∧ ((theRun s).nodeS 0).paid ≠ 0 ∧ ((theRun s).nodeS 0).asked = none) ∧
    (unpackChunk chunk0 0 = some 0 ∧ chunkRes chunk0 0 = chunk0.res ∧ chunkRes { chunk0 with res := 1 } 0 ≠ 1 ∧ chunk0.vkind ≠ 2 ∧ chunk0.partialF = false ∧ chunk0.malformed = false) ∧
    (let c := { chunk0 with vkind := 2 }
     let s := collective { NodeS.init with run := true, sent := true, chunks := [.chunk c 0], desc := [5, 0, 0, 1 + 2 ^ 63] } (desc1 0) 0
     let r := theRun s
     s.ev.sub = 0 ∧ (r.nodeS 0).sent = true ∧ (r.nodeS 0).chunks = [.chunk c 0] ∧ (r.nodeS 0).desc = [5, 0, 0, 1 + 2 ^ 63] ∧ s.colls = [] ∧ (1 + 2 ^ 63).testBit s.podId = true ∧
       s.podId = 0) ∧
    (let s := { base with ev := arriving0 }
     s.ev.unit < 8 ∧ s.ev.val 1 = 0 ∧ hdrOfNat (s.ev.val 2) = chunk0 ∧ unpackChunk chunk0 (BitVec.ofNat 4096 (s.ev.val 3)) = some 0 ∧ s.podLinks.getLsbD s.ev.unit = true ∧ tget 0 s.grades (s.ev.unit + 1) ≠ 2 ∧ s.colls = [] ∧ s.podIn = []) ∧
    (let s := live coll0
     s.colls[s.ev.idx]? = some coll0 ∧ coll0.results = none ∧ coll0.dead = none ∧ rootOf coll0.members = s.podId ∧ s.now ≤ coll0.deadline) ∧
    (let s := { live coll0 with now := 1 }
     coll0.deadline < s.now) := by
  refine ⟨?_, ?_, ?_, ?_, ?_, ?_, ?_, ?_, ?_, ?_, ?_, ?_⟩ <;> decide +kernel

/-- A FAILING pod link that a collective, or a part of one that has come before, was closed to as new, or was not. -/
theorem meets_podLinkGates :
    let s := { base with ev := { arriving0 with idx := 5 }, grades := [(8, 2)] }
    let c (shut : BitVec 8) : Collective := { coll0 with shut := shut }
    let q (shut : BitVec 8) : PodIn := { pod := 1, tag := 5, round := 0, answer := false, tok := .chunk chunk0 0, shut := shut }
    tget 0 s.grades (s.ev.unit + 1) = 2 ∧ (c 0).shut.getLsbD s.ev.unit = false ∧ (c 0x80).shut.getLsbD s.ev.unit = true ∧ (q 0).shut.getLsbD s.ev.unit = false ∧
    { s with colls := [c 0] }.colls.find? (fun q => q.tag == s.ev.idx && q.round == s.ev.val 0) = some (c 0) ∧
    { s with colls := [c 0x80] }.colls.find? (fun q => q.tag == s.ev.idx && q.round == s.ev.val 0) = some (c 0x80) ∧
    { s with podIn := [q 0] }.podIn.find? (fun q => q.tag == s.ev.idx && q.round == s.ev.val 0) = some (q 0) := by decide +kernel


/-! ## Phases, cuts and rollback -/

/-- Run 1 of a graph of one operator, as these changes leave it, at cycle 1. -/
def phased (fr : Run → Run) (fc : Ctx → Ctx) : State := at1 [node 0 0 []] [] fr fc { Ev.none with unit := 1 }

def cut0 (kind : CutKind) : Cut :=
  { no := 1, kind := kind, phase := 0, held := none, time := 0, sgen := 0, die := 0, col := 0, width := 1, chans := [], nodes := [], ctxs := [], objs := [], conds := [], segs := []
    est := [], rings := [], bars := [], nextSeg := 1, bankTok := [], store := [], groups := [], place := [], sent := [] }

theorem nodes_of {nd : NodeD} {r : Run} (h : r.graph.nodes = [nd]) (k : nd.kind ≠ 2 ∧ nd.kind ≠ 3) : ∀ n d, r.node n = some d → d.kind ≠ 2 ∧ d.kind ≠ 3 := by
  intro n d e
  simp only [Run.node, h] at e
  cases n with
  | zero => cases e; exact k
  | succ n => simp at e

/-- A selector channel with a token, in a phase whose successor it selects. -/
def selected (tok : Word) : State :=
  at1 [node 0 0 [port 16 0]] [{ chan 0 16 0xFFFF 0 with selector := true }]
    (fun r => { r with graph := { r.graph with phases := [{ next := 0xFF, selected := true }] }, chans := [(0, { Chan.init with buf := [.scalar tok] })] }) id { Ev.none with unit := 1 }

/-- Its selector stands ready to select. -/
def selects (tok : Word) : Bool :=
  let s := selected tok
  let r := theRun s
  (s.run s.ev.unit).any (fun x => x == r) && !r.rolling && r.st == .running && r.graph.chans.findIdx? (·.selector) == some 0 && (r.chan 0).buf == [.scalar tok] && r.heldSel == none &&
    ((r.graph.phases[r.phase]?).getD { next := 0xFF, selected := false }).selected && r.cut.isNone && r.graph.phases.length == 1

theorem meets_PhasesFollowOneAnother :
    (selects 0xFF = true ∧ selects 0 = true ∧ selects 1 = true) ∧
    (let s := phased (fun r => { r with graph := { r.graph with phases := [{ next := 1, selected := false }, { next := 0xFF, selected := false }] } }) (fun c => { c with running := false })
     let r := theRun s
     r.st = .running ∧ s.drained r = true ∧ s.occupied r = true ∧ ((r.graph.phases[r.phase]?).getD { next := 0xFF, selected := false }).next = 1 ∧ s.drained { r with phase := 1 } = true ∧ s.quiet r = true ∧ (∀ e ∈ s.cores, e.2.copies = [])) ∧
    base.drained run0 = false ∧
    ((theRun (phased (fun r => { r with st := .config 64 }) id)).st = .config 64 ∧ (theRun (phased (fun r => { r with st := .config 63 }) id)).st = .config 63) ∧
    ((∀ f ∈ [2 ^ 20, 0], ∀ h ∈ [2 ^ 20, 0], let s := phased (fun r => { r with watchdog := 2 ^ 20, fullFor := f, heldFor := h }) id
       2 ^ 20 ≤ (theRun s).watchdog ∧ (theRun s).fullFor = f ∧ (theRun s).heldFor = h ∧ (theRun s).graph.handler = none ∧ ∀ e ∈ s.ctxs, e.2.park = none) ∧
     (let p := Park.of .streamBar
      let s := (phased (fun r => { r with watchdog := 2 ^ 20 }) (fun c => { c with park := some p })).modDie 0 fun d => { d with cycles := 2 ^ 20 }
      (s.ctx 0).role.run = some (theRun s).id ∧ (s.ctx 0).park = some p ∧ p.kind = .streamBar ∧ p.b + 2 ^ 20 ≤ s.cycle (coreOf 0))) ∧ run0.watchdog < 2 ^ 20 := by decide +kernel

theorem meets_CutsAndRollback :
    (let s := phased (fun r => { r with cutReq := some .pause, graph := { r.graph with marker := 1 }, cutDue := 1 }) id
     let r := theRun s
     s.run s.ev.unit = some r ∧ r.rolling = false ∧ r.st = .running ∧ r.cutReq = some .pause ∧ r.cut = none ∧ r.graph.marker ≠ 0 ∧ r.cutDue ≤ s.now) ∧
    (let s := phased (fun r => { r with cut := some (cut0 .pause), graph := { r.graph with marker := 1 }, cutDue := 2 }) (fun c => { c with running := false })
     let r := theRun s
     r.cutReq = none ∧ r.cut = some (cut0 .pause) ∧ s.now < r.cutDue ∧ s.ev.sub = 0 ∧ s.ev.idx = 0 ∧ s.maySave r 0 = true) ∧
    (let s := at1 [ported0] [chan 0 16 0 0]
       (fun r => { r with chans := [(0, { Chan.init with fly := [{ tok := none, due := 1 }] })], cut := some (cut0 .periodic) }) id { Ev.none with unit := 1 }
     let r := theRun s
     (r.chan 0).fly = { tok := none, due := 1 } :: [] ∧ r.cut.isSome = true ∧ 1 ≤ s.cycleOf r) ∧
    (let s := phased (fun r => { r with saved := [cut0 .periodic], rolling := true }) id
     let r := theRun s
     s.run s.ev.unit = some r ∧ r.saved = [cut0 .periodic] ∧ r.rolling = true ∧ r.st = .running ∧ r.displaced = false ∧ r.cutReq = none ∧ r.graph.nodes = [node 0 0 []] ∧
       (cut0 .periodic).chans = [] ∧ (cut0 .periodic).nodes = []) := by decide +kernel

theorem meets_nodesThatAreNoStreams : ∀ n d, (theRun (phased id id)).node n = some d → d.kind ≠ 2 ∧ d.kind ≠ 3 :=
  nodes_of (nd := node 0 0 []) (by decide +kernel) (by decide)

theorem meets_FaultDelivery :
    (∀ f ∈ [{ flt0 with run := none, held := none }, flt0],
      let s := { at1 [node 5 0 []] [] id id Ev.none with flue := [f] }
      s.flue = [f] ∧ s.ev.sub = 0 ∧ s.ev.idx = 0 ∧ (s.vd f.vd).fqen = false) ∧
    (let s := { at1 [node 5 0 []] [] id id Ev.none with now := 4 }
     let r := theRun s
     flt0.run = some 1 ∧ s.run 1 = some r ∧ r.graph.handler = some 0 ∧ r.st = .running ∧ r.rolling = false ∧ r.hq.length < 16 ∧ flt0.time < s.time ∧ s.time ≤ { flt0 with time := 4 }.time ∧
       ∀ d < 4, (s.die d).guards = []) ∧
    16 ≤ (theRun (at1 [node 5 0 []] [] (fun r => { r with hq := List.replicate 16 flt0 }) id Ev.none)).hq.length := by decide +kernel

/-! ## The host's commands -/

theorem accepts_of {s : State} {vd port : Nat} {c : Cmd}
    (h : (s.up = true ∧ s.linkUp = true) ∧ (vd < 32 ∧ port < 4) ∧ (∀ q, q < 4 → ((s.vd vd).port q).queue = []) ∧ (s.vd vd).hostq = [] ∧ c.seq = ((s.vd vd).port port).accseq + 1 ∧
      ((c.ver = 2 ∧ c.p4 = 0 ∧ c.p5 = 0) ∨ c.ver = 3) ∧ (s.leaf vd 1).getLsbD (c.ver.toNat - 2) = true ∧ (c.mbz = 0 ∧ c.cpl.toNat % 32 = 0 ∧ c.debug = false)) :
    Accepts s vd port c := ⟨h.1, h.2.1, h.2.2.1, by simp [h.2.2.2.1], h.2.2.2.2.1, h.2.2.2.2.2.1, h.2.2.2.2.2.2.1, h.2.2.2.2.2.2.2⟩

/-- The machine after reset with virtual device 0 changed. -/
def hosted (f : Vd → Vd) : State := State.reset.modVd 0 f

def pend0 (done : Option (Nat × Nat × Nat)) : Pending :=
  { seq := 1, kind := 12, cmd := cmd, jidx := 0, dispatched := done.isSome, begun := false, fence := [], done := done }

def page1 (va : Nat) (w : Bool) : Page := { vd := 0, va := va, size := 2 ^ 21, pa := 2 ^ 21 + va, writable := w, sync := false }

theorem meets_QueriesAndFencesComplete :
    Accepts State.reset 0 0 cmd ∧ Accepts State.reset 31 3 { cmd with ver := 2 } ∧
    ({ cmd with ver := 4 }.ver ≠ 2 ∧ { cmd with ver := 4 }.ver ≠ 3) ∧ { cmd with seq := 2 }.seq ≠ ((State.reset.vd 0).port 0).accseq + 1 ∧
    256 ≤ (((hosted fun v => { v with ports := [(0, { Port.init with queue := List.replicate 256 (pend0 none) })] }).vd 0).port 0).queue.length ∧
    { State.reset with linkUp := false }.linkUp = false ∧ (15 : Word).toNat < 16 ∧ (255 : Word).toNat < 256 ∧
    (let s := hosted fun v => { v with pages := [page1 0 false, page1 (2 ^ 21) true] }
     (s.leaf 0 1).getLsbD 5 = true ∧ s.mapped 0 0 32 false = true ∧ s.mapped 0 (2 ^ 21) 16752 true = true) :=
  ⟨accepts_of (by decide +kernel), accepts_of (by decide +kernel), by decide +kernel⟩

def strip0 (die col width : Nat) (shared : Bool) (holders : List Nat) : Strip :=
  { die := die, col := col, width := width, shared := shared, holders := holders, slice := 1, grace := 1, occ := none, since := 0, yielding := false }

theorem meets_QosCommandsComplete :
    (Accepts State.reset 1 0 cmd ∧ Accepts State.reset 0 0 { cmd with p0 := 31, p1 := 255 } ∧ (31 : Word).toNat < 32 ∧ (255 : Word).toNat < 256) ∧
    (let w := 2 ^ 38 - 2 ^ 27 - 4096
     w % 4096 = 0 ∧ w + 4096 ≤ 2 ^ 38 - 2 ^ 27 ∧ State.reset.homeRange 0 w 4096 = true ∧ (State.reset.vd 0).grant.length < 64) ∧
    (let s := hosted fun v => { v with grant := [(0, 4096)] }
     (s.vd 0).grant = [] ++ [(0, 4096)] ∧ s.runs = [] ∧ (s.vd 0).objs = [] ∧ (s.vd 0).pages = [] ∧ (s.vd 0).held = []) ∧
    2 ^ 20 - 1 < 2 ^ 20 ∧ (63 < 64 ∧ State.reset.colls = []) ∧
    (let w := 0x1F0003
     w &&& 0x1F1F03 = w ∧ w / 256 % 32 ≤ w / 65536 % 32 ∧ State.reset.strips.all (fun p => decide (1 ≤ p.width) && !p.shared && p.holders == [0]) = true) ∧
    (let w := 0x0FF00000 + 255 * 256
     w &&& 0xFFFFFF0F = w ∧ w / 2 ^ 20 = w / 256 % 4096 ∧ w % 16 ≤ 8 ∧ w / 256 % 4096 < dampCount (w % 16) ∧ 1000 ≤ dampCap (w % 16) 255 ∧ State.reset.bandq = [] ∧
       (State.reset.damper (dampKey 0 255)).floor = []) :=
  ⟨⟨accepts_of (by decide +kernel), accepts_of (by decide +kernel), by decide⟩, by decide +kernel⟩

/-- The smallest object: a header, three sections, a graph of one operator, its body FIN, and no parameter (R79, R131, R132). -/
def objBytes : List Byte :=
  natLe 4 0x00475A41 ++ natLe 2 3 ++ natLe 2 0 ++ natLe 8 176 ++ natLe 2 0 ++ natLe 2 3 ++ natLe 4 64 ++ natLe 40 0 ++
  (natLe 4 1 ++ natLe 4 112 ++ natLe 8 48) ++ (natLe 4 2 ++ natLe 4 160 ++ natLe 8 8) ++ (natLe 4 5 ++ natLe 4 168 ++ natLe 8 8) ++
  (natLe 2 1 ++ natLe 14 0) ++ (natLe 12 0 ++ natLe 4 8 ++ natLe 8 1 ++ natLe 2 0xFFFF ++ natLe 6 0) ++ natLe 8 0x0F00 ++ natLe 8 0

def okOf {ε α : Type} : Except ε α → Bool
  | .ok _ => true
  | .error _ => false

theorem of_okOf {ε α : Type} {x : Except ε α} (h : okOf x = true) : ∃ a, x = .ok a := by
  cases x with
  | ok a => exact ⟨a, rfl⟩
  | error _ => cases h

def load0 : Cmd := { cmd with p0 := 0, p1 := 176 }
def loading : State := (hosted fun v => { v with pages := [page1 0 false], grant := [(2 ^ 30, 2 ^ 30)] }).devStore (2 ^ 21) 176 (leNat objBytes)

theorem meets_loadObject :
    Accepts loading 0 0 load0 ∧ load0.p0.toNat % 8 = 0 ∧ load0.p1.toNat ≤ 2 ^ 32 ∧
    (let s1 := loading.accept 0 0 1 load0
     s1.mapped 0 0 176 false = true ∧ s1.vBytes 0 0 176 = some objBytes ∧ (∃ g, s1.checkObject 0 176 objBytes = .ok g) ∧ ∃ u, loadObj 0 s1 load0 = .ok u) :=
  ⟨accepts_of (by decide +kernel), by decide, by decide, by decide +kernel, by decide +kernel, of_okOf (by decide +kernel), of_okOf (by decide +kernel)⟩

def obj0 : Obj :=
  { handle := 1, vd := 0, graph := fetchGraph, codeBase := 0, codeLen := 8, code := natLe 8 0x0F00, constBase := 0, constLen := 0, dataBase := 0, dataLen := 0, dataImg := []
    signed := false, domain := 0, secver := 0, digest := [], featReq := [1], checked := true, dynamic := false, eligible := false, dirSlot := 0, areas := [], unloading := false }

theorem meets_ObjectAndPageCommandsComplete :
    Accepts (hosted fun v => { v with objs := [obj0] }) 0 0 { cmd with p0 := 1 } ∧ obj0.unloading = false ∧
    (let s := { hosted (fun v => { v with objs := [obj0] }) with runs := [{ run0 with handle := 1 }] }
     ∀ r ∈ s.runs, r.vd = 0 ∧ r.handle = obj0.handle) ∧
    (let s := hosted fun v => { v with grant := [(2 ^ 36, 2 ^ 36)] }
     Accepts s 0 0 { cmd with p2 := 7, p1 := 2 ^ 36, p0 := 2 ^ 55 - 2 ^ 36 } ∧ (7 : Word).toNat < 8 ∧ (2 ^ 55 - 2 ^ 36) % 2 ^ 36 = 0 ∧ (2 ^ 55 - 2 ^ 36) + 2 ^ 36 ≤ 2 ^ 55 ∧
       (s.vd 0).grant = [(2 ^ 36, 2 ^ 36)] ∧ (s.vd 0).pages = [] ∧ s.areas 0 = []) ∧
    (let s := hosted fun v => { v with pages := [page1 0 true] }
     Accepts s 0 0 { cmd with p1 := 2 ^ 21 } ∧ (s.vd 0).pages = [page1 0 true] ∧ (page1 0 true).size = (2 ^ 21 : Word).toNat ∧ (page1 0 true).va + (page1 0 true).size ≤ 2 ^ 55) :=
  ⟨accepts_of (by decide +kernel), by decide, by decide +kernel, ⟨accepts_of (by decide +kernel), by decide +kernel⟩, ⟨accepts_of (by decide +kernel), by decide +kernel⟩⟩

/-- The machine whose instance 1 is as these changes leave it, with its object, and room for an image. -/
def instanced (fr : Run → Run) : State :=
  let s := on (fun r => fr { r with handle := 2 }) id id
  s.modVd 0 fun v => { v with objs := [obj0], pages := [page1 0 true] }

theorem meets_InstanceCommandsComplete :
    (let c := { cmd with p0 := 1, p2 := 0x2000FF }
     let s := instanced id
     Accepts s 0 0 c ∧ (∃ x, launchChecks 0 (s.accept 0 0 3 c) c = .ok x)) ∧
    (let c := { cmd with p0 := 1 }
     let s := instanced id
     let r := theRun s
     Accepts s 0 0 c ∧ s.run c.p0.toNat = some r ∧ r.vd = 0 ∧ r.st = .running ∧ r.cut = none ∧ s.colls = [] ∧ (∀ e ∈ r.nodes, e.2.run = false) ∧ r.away = false ∧ s.flue = [] ∧ s.quiet r = true ∧ r.pauseCmds = [] ∧ r.cmd = none ∧ r.resumeCmd = none ∧ r.parent = none) ∧
    (let s := (instanced id).modCore 0 fun k => { k with wq := [req0 .store 0] }
     Accepts s 0 0 { cmd with p0 := 1 } ∧ s.quiet (theRun s) = false) ∧
    (let s := instanced fun r => { r with st := .paused, saved := [cut0 .pause] }
     let r := theRun s
     Accepts s 0 0 { cmd with p0 := 1 } ∧ r.st = .paused ∧ r.away = false ∧ r.saved = [cut0 .pause] ∧ (cut0 .pause).chans = [] ∧ (cut0 .pause).nodes = [] ∧ (s.leaf 0 1).getLsbD 4 = true ∧
       (0x2000FF : Nat) < 2 ^ 24 ∧ ((cut0 .pause).image r).length ≤ 9984 ∧ s.mapped 0 0 ((cut0 .pause).image r).length true = true) ∧
    (let s := (instanced id).modCtx 0 fun c => { c with x := [(1, 1), (2, 0x200003)] }
     let r := theRun s
     Issues s 0 hd [(0, 11)] 0 ∧ s.ctxRun 0 = some r ∧ (s.ctx 0).role.isOp = true ∧ s.ownEntries 0 = [] ∧ s.unacked 0 = false ∧ s.object r.vd ((s.ctx 0).xr 1).toNat = some obj0 ∧ obj0.signed = false ∧ (s.ctx 0).xr 3 = 0 ∧
       ((s.ctx 0).xr 2).toNat < 2 ^ 24 ∧ ((s.ctx 0).xr 2).toNat % 256 ≤ 3 ∧ s.hasInstance r.vd ((s.ctx 0).xr 1).toNat = false ∧
       obj0.graph.defaults obj0.dataBase obj0.constBase = some [] ∧ (obj0.launched []).isSome = true) :=
  ⟨⟨accepts_of (by decide +kernel), of_okOf (by decide +kernel)⟩, ⟨accepts_of (by decide +kernel), by decide +kernel⟩, ⟨accepts_of (by decide +kernel), by decide +kernel⟩,
    ⟨accepts_of (by decide +kernel), by decide +kernel⟩, ⟨issues_of (by decide +kernel), by decide +kernel⟩⟩

def q0 : LatheReq :=
  { vd := 0, handle := 1, region := 0x010000, record := 0, argbase := 0, params := [], leaves := [], debug := false, cmd := none, parent := none, replace := none, owed := 0 }

def placing (s : State) : Except Fit (Region × Att) :=
  match obj0.launched [] with
  | none => .error (s.noRegion none 0 fetchGraph 0)
  | some g => s.tryRegions g (fun _ => g.pins) (fun _ _ => true) (s.noRegion none 0 g q0.region) (s.candidates none 0 g q0.region)

/-- The region and the placement, and the instance that starts in them. -/
def placed (s : State) : Bool :=
  match obj0.launched [], placing s with
  | some g, .ok (rg, a) => ((s.cachePlace (cacheKey 0 1) (obj0.graph.usedParams []) rg a).startRun q0 obj0 g rg a).isSome
  | _, _ => false

theorem meets_CommandsAreDispatchedAndCompleted :
    (let s := hosted fun v => { v with ports := [(3, { Port.init with queue := [pend0 none] })] }
     let e := pend0 none
     ((s.vd 0).port 3).queue = [e] ∧ e.dispatched = false ∧ e.begun = false ∧ e.fence = [] ∧ e.kind = 12 ∧ e.cmd.mbz = 0 ∧ e.cmd.cpl.toNat % 32 = 0 ∧ e.cmd.debug = false ∧
       (s.leaf 0 1).getLsbD (e.cmd.ver.toNat - 2) = true ∧ e.cmd.p0.toNat < 16 ∧ e.cmd.p1 = 0 ∧ e.done = none ∧ (s.vd 0).hostq = [] ∧ ((s.vd 0).port 0).queue = []) ∧
    (let e := pend0 (some (0, 127, 5))
     let s := hosted fun v => { v with ports := [(3, { Port.init with queue := [e] })] }
     ((s.vd 0).port 3).queue = [e] ∧ e.seq = (1 : BitVec 32).toNat ∧ e.done = some (0, 127, 5) ∧ 127 < 128 ∧ e.kind < 256) ∧
    (let s := { State.reset with lathe := [{ q0 with owed := 1 }] }
     s.lathe[s.ev.idx]? = some { q0 with owed := 1 } ∧ { q0 with owed := 1 }.owed ≠ 0) ∧
    (let q := { q0 with parent := some 0 }
     let s := { base with lathe := [q] }
     s.lathe[s.ev.idx]? = some q ∧ q.owed = 0 ∧ s.unacked 0 = false ∧ s.lathe.take s.ev.idx = [] ∧ (s.ctx 0).park = none) ∧
    (let q := { q0 with cmd := some (0, 3, 1) }
     let s := { hosted (fun v => { v with ports := [(3, { Port.init with queue := [pend0 none] })] }) with lathe := [q] }
     s.lathe[s.ev.idx]? = some q ∧ s.pending (0, 3, 1) = some (pend0 none) ∧ (pend0 none).done = none ∧ okOf (({ s with lathe := s.lathe.drop 1 }.applyAp q.vd).atDispatch q) = false) ∧
    (let s := { hosted (fun v => { v with objs := [obj0], grant := [(2 ^ 30, 2 ^ 30)] }) with lathe := [q0] }
     s.lathe[s.ev.idx]? = some q0 ∧ s.ev.idx = 0 ∧ okOf ({ s with lathe := s.lathe.drop 1 }.atDispatch q0) = true ∧ s.object q0.vd q0.handle = some obj0 ∧ (obj0.launched q0.params).isSome = true ∧
       placed { s with lathe := s.lathe.drop 1 } = true) := by decide +kernel

/-! ## Registers, power, errors and arbiters -/

/-- A request to advance the fuses of domain 7 to 64. -/
def fuseBytes : List Byte := natLe 4 0x00535546 ++ natLe 1 7 ++ natLe 1 64 ++ natLe 2 0 ++ natLe 8 Config.serial.toNat ++ natLe 32 0 ++ natLe 16640 0

theorem natLe_length (n v : Nat) : (natLe n v).length = n := by
  induction n generalizing v with
  | zero => rfl
  | succ n ih => simp [natLe, ih]

theorem meets_HostRegistersComplete :
    (3 < 4 ∧ 31 < 32 ∧ 0 < 1 ∧ 15 < 16) ∧ (State.reset.ev.sub ≠ 1 ∧ State.reset.imreq = none ∧ (2 ^ 38 - 1 < 2 ^ (State.reset.vd 0).aper)) ∧ fuseBytes.length = 16688 ∧ (State.reset.fuse 7 < 64 ∧ 64 ≤ 64) ∧
    (let s := hosted fun v => { v with pages := [page1 0 true, page1 (2 ^ 21) false] }
     s.up = true ∧ s.linkUp = true ∧ 2 ^ 38 - 1 < 2 ^ (s.vd 0).aper ∧ (s.vd 0).hostq = [] ∧ s.pageOf 0 (((s.vd 0).apbase.toNat + (2 ^ 21 - 1)) % 2 ^ 56) = some (page1 0 true) ∧ (page1 0 true).writable = true ∧
       s.pageOf 0 (((s.vd 0).apbase.toNat + 2 ^ 21) % 2 ^ 56) = some (page1 (2 ^ 21) false) ∧ (page1 (2 ^ 21) false).writable = false ∧
       s.pageOf 0 (((s.vd 0).apbase.toNat + (2 ^ 38 - 1)) % 2 ^ 56) = none) :=
  ⟨by decide, by decide +kernel, by simp [fuseBytes, natLe_length], by decide +kernel, by decide +kernel⟩

/-- The fields of that request that do not depend on the package's own number. -/
theorem meets_fuseRequest :
    fld fuseBytes 0 4 = 0x00535546 ∧ fld fuseBytes 4 1 = 7 ∧ fld fuseBytes 5 1 = 64 ∧ fld fuseBytes 6 2 = 0 := by
  refine ⟨?_, ?_, ?_, ?_⟩ <;> rfl

/-- The machine after reset with an event, and die 0 changed. -/
def evented (e : Ev) (f : Die → Die) : State := { State.reset.modDie 0 f with ev := e }

theorem meets_PowerResetsErrorsAndArbitersAct :
    (let s := evented { Ev.none with unit := 3, idx := 4 } id
     s.ev.unit < 4 ∧ s.convOk = 15 ∧ s.ev.idx < 5 ∧ tget 0 (s.die 3).railDue 4 ≤ s.now ∧ tget [] (s.die 3).railHist 4 = [] ∧
       s.now < tget 0 ({ s with dies := [(3, { Die.init with railDue := [(4, 1)] })] }.die 3).railDue 4 ∧ { s with convOk := 7 }.convOk.getLsbD 3 = false) ∧
    (let s := evented { Ev.none with vals := [840, 7200] } fun d => { d with pavg := 721 }
     let d := s.die 0
     let cap := min (min d.boilw d.capw) (s.pkgLimit / 4)
     s.ev.val 0 ≤ 840 ∧ d.capEn = true ∧ cap < d.pavg ∧ s.ev.sub = 0 ∧ s.ev.val 1 < d.fceil) ∧
    (let s := evented { Ev.none with sub := 1 } fun d => { d with pavg := 721, fclk := 950, fceil := 7200, fPrev := 7200 }
     let d := s.die 0
     s.ev.sub = 1 ∧ (s.now - s.base) % 1800 = 0 ∧ d.cyc = 0 ∧ d.calm = 0 ∧ 950 ≤ d.fclk ∧ d.fceil ≤ 8 * (d.fclk - 50) ∧ d.fPrev ≤ 8 * (d.fclk - 50)) ∧
    (let s := evented { Ev.none with sub := 1 } fun d => { d with pavg := 720, fclk := 1750, pinst := 900 }
     let d := s.die 0
     let cap := min (min d.boilw d.capw) (s.pkgLimit / 4)
     d.pavg ≤ cap ∧ 4 * d.pinst ≤ 5 * cap ∧ d.fclk + 50 ≤ 1800 ∧ d.fclk < 1800) ∧
    (let s := { base with ev := { Ev.none with vals := [920, 100] } }
     920 ≤ s.ev.val 0 ∧ (s.die 0).tripped = false ∧ run0 ∈ s.runs ∧ s.run run0.id = some run0 ∧ run0.die = s.ev.unit ∧ run0.st = .running ∧ tget 0 s.grades s.ev.unit < 2) ∧
    ((evented { Ev.none with vals := [919] } id).ev.val 0 < 920 ∧ 5 ≤ (evented { Ev.none with vals := [5, 8] } id).ev.val 0 ∧ 8 ≤ (evented { Ev.none with vals := [5, 8] } id).ev.val 1 ∧
      (evented { Ev.none with vals := [4] } id).ev.val 0 < 5 ∧ State.reset.booted = true ∧ State.reset.inputOk = true ∧ { State.reset with booted := false }.booted = false) ∧
    (State.reset.podLinks.getLsbD 7 = true ∧ { State.reset with podLinks := 0x7F }.podLinks.getLsbD 7 = false) ∧
    (let s := { evented { Ev.none with vals := [5, 8] } id with up := false }
     s.up = false ∧ s.ev.sub = 0 ∧ State.reset.up = true) ∧
    (let s := evented { Ev.none with unit := 31 } id
     0 < s.ev.unit ∧ s.ev.unit < 32 ∧ s.runs = [] ∧ s.lathe = [] ∧ s.colls = [] ∧ ∀ p ∈ s.strips, p.die < 4 ∧ 1 ≤ p.width ∧ p.col + p.width ≤ 32) := by decide +kernel

def damper0 : Damper := { Damper.init with floor := [(0, 600)], flLevel := [(0, 16)], clLevel := [(0, 16)] }
def strip1 (occ : Option Nat) (since : Nat) : Strip := { strip0 0 0 32 true [0] with occ := occ, since := since }

theorem meets_errorsAndArbiters :
    (let s := evented { Ev.none with sub := 1, site := some (.dram (2 ^ 38 - 1)) } id
     s.ev.sub = 1 ∧ s.ev.site = some (.dram (2 ^ 38 - 1)) ∧ (evented { Ev.none with site := some (.dram 0) } id).ev.sub = 0) ∧
    (let l : L2Line := { way := 0, line := 0, vd := 0, valid := 1, dirty := [], fe := [], use := 0 }
     let s := evented { Ev.none with site := some (.dram 127) } fun d => { d with l2 := [(l2Key 127, [l])] }
     s.ev.sub = 0 ∧ s.ev.site = some (.dram 127) ∧ (s.l2Holder 127).any (fun l => s.l2Has l.vd 127) = true ∧
       (s.l2Holder 128).any (fun l => s.l2Has l.vd 128) = false) ∧
    (let s := { base with ev := { Ev.none with site := some (.accum 0 3) } }
     s.ev.sub = 0 ∧ s.ev.site = some (.accum 0 3) ∧ s.regionRun 0 = some run0 ∧ run0.st = .running ∧ s.run run0.id = some run0 ∧ run0.eligible = false) ∧
    (let l : L2Line := { way := 15, line := 0, vd := 0, valid := 0, dirty := [], fe := [], use := 0 }
     let s := { State.reset.modDie 3 (fun d => { d with l2 := [(8191, [l])] }) with ev := { Ev.none with unit := 3, idx := 8191, vals := [15] } }
     s.ev.sub = 0 ∧ s.ev.unit < 4 ∧ ((s.toPa l.vd (fqBase l.vd + 64 * (s.vd l.vd).fqidx)).all fun pa => l2Key pa != 8191) = true ∧ s.ev.idx < 8192 ∧ s.ev.val 0 < 16 ∧ tget [] (s.die s.ev.unit).l2 8191 = [l] ∧ l.way = s.ev.val 0 ∧ ∀ u ∈ s.runs, u.vd ≠ l.vd) ∧
    (State.reset.now * 2 / 225 ≤ State.reset.refills) ∧
    (let s := { State.reset with now := 113, dampers := [(dampKey 7 127, damper0)] }
     s.refills < s.now * 2 / 225 ∧ s.bandq = [] ∧ dampKey 7 127 / 65536 < 8 ∧ (damper0.floor.map (·.2)).sum ≤ s.usable 7 127) ∧
    (let s := { State.reset with dampers := [(dampKey 0 255, damper0)], ev := { Ev.none with sub := 255, vals := [0, 1] } }
     s.ev.unit = 0 ∧ s.ev.sub < 256 ∧ s.ev.vals = [0, 1] ∧ s.waits = [] ∧ 16 * 1 ≤ (s.damper (dampKey 0 255)).fl 0 ∧ 16 * 1 ≤ (s.damper (dampKey 0 255)).cl 1000 0) ∧
    (let s := { on id id (fun k => { k with wq := [{ req0 .load 0 with paid := 0 }] }) with dampers := [(dampKey 2 0, damper0)], ev := { Ev.none with unit := 2 } }
     s.ev.unit ≤ 8 ∧ s.ev.sub < dampCount 2 ∧ s.ev.vals = [] ∧ (s.waits.filter (fun x => x.key == dampKey 2 0)).map (fun w => (w.vd, w.cost, w.who)) = [(0, 1, .req 0 1)] ∧
       16 * 1 ≤ (s.damper (dampKey 2 0)).fl 0 ∧ 16 * 1 ≤ (s.damper (dampKey 2 0)).cl (dampCap 2 0) 0) ∧
    (let s := { base with runs := [{ run0 with st := .yielded }], strips := [strip1 none 0], dampers := [(dampKey 7 0, damper0)] }
     let p := strip1 none 0
     s.strips.find? (fun q => q.die == s.ev.unit && q.col == s.ev.idx && q.shared) = some p ∧ p.occ = none ∧ p.holders = [0] ∧ s.workOn p 0 = true ∧
       (∀ r ∈ s.runs, p.holds r.die r.col = true → r.holdsCells = false) ∧ 16 ≤ (s.damper (dampKey 7 0)).fl 0 ∧ 16 ≤ (s.damper (dampKey 7 0)).cl 1800 0) ∧
    (let p := strip1 (some 0) 0
     p.occ = some 0 ∧ p.yielding = false ∧ (p.slice + p.grace) * 1800 ≤ 3600 - p.since ∧ 3599 - p.since < (p.slice + p.grace) * 1800) ∧
    State.reset.strips.find? (fun q => q.die == 0 && q.col == 0 && q.shared) = none := by decide +kernel

/-! ## Invariants -/

theorem meets_NoStepLowersAFuseCount : State.reset.fusesAbove (fun _ => 0) ∧ nextOf (step State.reset) ≠ none := by
  refine ⟨fun _ => Nat.zero_le _, by decide +kernel⟩

theorem meets_MemoriesStayCanonical : State.reset.memOk = true ∧ base.memOk = true := by decide +kernel

/-! ## Single steps, with results that the spec's examples give -/

/-- The results that an instruction leaves in flight, and the flags it sets. -/
def results (i : Instr) (fc : Ctx → Ctx) : List Vec × BitVec 6 :=
  match exec i (on id fc id) with
  | .next t => ((t.ctx 0).pend.map (·.val), (t.ctx 0).fflags)
  | .fault _ => ([], 0)
  | .refused _ => ([], 0)

/-- A Damper that grants every request, and one whose ceiling grants none. -/
def granting (k : Nat) : Nat × Damper := (k, damper0)
def barring (k : Nat) : Nat × Damper := (k, { damper0 with clLevel := [(0, 0)] })

/-- The offsets of BAR 2 that the tests reach: a writable page, a read-only one, and no page; every Damper on the way of an access grants it. -/
def barOffsets : List Nat := [2 ^ 21 - 1, 2 ^ 21, 2 ^ 38 - 1]

theorem meets_bar2 :
    let s0 := hosted fun v => { v with pages := [page1 0 true, page1 (2 ^ 21) false] }
    (∀ off ∈ barOffsets, ∀ isRead ∈ [true, false],
      let path := s0.hostPath 0 isRead off
      let s := { s0 with dampers := path.map granting }
      s.hostPath 0 isRead off = path ∧ path.Nodup ∧ s.waits = [] ∧
        ∀ k ∈ path, 16 ≤ (s.damper k).fl 0 ∧ 16 ≤ (s.damper k).cl (dampCap (k / 65536) (k % 65536)) 0) ∧
    (∀ side ∈ [0, 1],
      let s := { s0 with dampers := [barring (dampKey 5 side)] }
      s.waits = [] ∧ (s.vd 0).hostq = [] ∧ (s.damper (dampKey 5 side)).cl 2000 0 < 16) := by decide +kernel

/-- A section that verifies begins with the key id of the domain's RSA key. -/
theorem key_of_verified {x : Nat} {d rest : List Byte} (h : sigVerifies 0 d (natLe 8 x ++ rest) = true) : natLe 8 x = rsaKeyId 0 := by
  rw [sigVerifies, Bool.and_eq_true, Bool.and_eq_true, Bool.and_eq_true] at h
  have e := eq_of_beq h.1.1.1
  rwa [List.take_append_of_le_length (by simp [natLe_length]), List.take_of_length_le (by simp [natLe_length])] at e

/-- Of two SIGNATURE sections with the key ids 0 and 1 at most one verifies, whatever the keys are. -/
theorem meets_unverified (d rest : List Byte) : ∃ x ∈ [0, 1], sigVerifies 0 d (natLe 8 x ++ rest) = false := by
  cases h0 : sigVerifies 0 d (natLe 8 0 ++ rest) with
  | false => exact ⟨0, by simp, h0⟩
  | true =>
    cases h1 : sigVerifies 0 d (natLe 8 1 ++ rest) with
    | false => exact ⟨1, by simp, h1⟩
    | true => exact absurd ((key_of_verified h0).trans (key_of_verified h1).symm) (by decide)

/-- The further premises about the fuses: nothing in progress or a request, a count past the largest, and the number of another package. -/
theorem meets_fuseClauses :
    State.reset.imreq = none ∧ { State.reset with imreq := some { op := 1, len := 0, bytes := [] } }.imreq.isSome = true ∧ 64 < 65 ∧
    ∃ x ∈ [0, 1], fld (natLe 8 0x0740000000535546 ++ natLe 8 x) 8 8 ≠ Config.serial.toNat := by
  refine ⟨by decide +kernel, rfl, by decide, ?_⟩
  by_cases h : fld (natLe 8 0x0740000000535546 ++ natLe 8 0) 8 8 = Config.serial.toNat
  · exact ⟨1, by simp, fun h1 => absurd (h.trans h1.symm) (by decide)⟩
  · exact ⟨0, by simp, h⟩

/-- What R371 says of a sum past the largest number, wrapped and saturated. -/
theorem test_add_fits :
    (results (.add hd 3 1 2 0) fun c => { c with x := [(1, 0x7FFFFFFFFFFFFFFF), (2, 1)] }).1 = [0x8000000000000000] ∧
    (results (.add hd 3 1 2 5) fun c => { c with x := [(1, 0x7FFFFFFFFFFFFFFF), (2, 1)] }).1 = [0x7FFFFFFFFFFFFFFF] := by decide +kernel

/-- Division by zero gives all ones and the dividend (R374). -/
theorem test_division_by_zero :
    (results (.div hd 3 1 2) fun c => { c with x := [(1, 7)] }).1 = [0xFFFFFFFFFFFFFFFF] ∧ (results (.remu hd 3 1 2) fun c => { c with x := [(1, 7)] }).1 = [7] := by
  decide +kernel

/-- The example of R402: lanes 0-255 of v2 hold 0-255 and every lane of v3 holds 24. -/
theorem test_vcmp_example :
    (results (.vcmp hd 4 0 1 2 3 mc) fun c =>
      { c with v := [(2, BitVec.ofNat 2048 (leNat ((List.range 256).map fun i => BitVec.ofNat 8 i))), (3, BitVec.ofNat 2048 (leNat (List.replicate 256 24)))] }).1 =
      [0xFFFFFF] := by decide +kernel

/-- The example of R410: 244, 300, an infinity and 1.0625 converted to F8A, and the overflows routed to m3. -/
theorem test_vcvt_example :
    results (.vcvt hd { cvtF with ovf := 1, rm := 5, c := 3 }) (fun c => { c with v := [(2, 0x3F880000_7F800000_43960000_43740000)] }) =
      ([0x407F7F7F, 0x6], 0x0A) := by decide +kernel

/-- The command of R73's example, as a port receives it. -/
theorem test_command_example :
    let t := State.reset.command 3 1 3 { cmd with seq := 17, vec := 2, irq := true, cpl := 0x0000_0040_1234_5600, p0 := 2, p2 := 0xFF }
    ((t.vd 3).port 1).seqerr = 1 ∧ ((t.vd 3).port 1).queue = [] := by decide +kernel

/-- The residue of 0.75, and of four times it (R276). -/
theorem test_residue_example : resDyadic 3 (-2) = 0x1800000000000000 ∧ resDyadic 3 0 = 3 := by decide +kernel

end Sys2Proof.Tests
end

section
namespace Sys2Proof.Machine

/-! ## The tests before a word's effect (R365 tests 4 and 5, R350, R228) -/

section
variable {s : State} {cid : Nat} {h : Hdr} {fs : List (Nat × Nat)} {n : Nat} (body : State → Nat → Eff)

/-- What a word issues to, by the tests that stand before its effect. -/
theorem issue_of_cur (hc : s.cur = some cid) : issue h fs n body s = .next (settle s cid h (issueEff h fs n body s cid)) := by
  simp only [issue, hc]

/-- A word whose feature its run lacks raises FEATURE, whatever its predicate. -/
theorem issueEff_of_lacks {r : Run} {l b : Nat} (hr : s.ctxRun cid = some r) (hl : r.lacks fs = some (l, b)) :
    issueEff h fs n body s cid = .trap 0x02 (b + l * 256) 0 := by
  simp only [issueEff, hr, Option.bind_some, hl]

variable (hf : ∀ r, s.ctxRun cid = some r → ∀ f ∈ fs, r.hasFeat f.1 f.2 = true)
include hf

/-- A false-predicated word only issues. -/
theorem issueEff_of_predicated (hp : (s.ctx cid).pr h.pr.toNat = h.pn) : issueEff h fs n body s cid = .next s := by
  simp only [issueEff, State.lacks_none hf, hp, beq_self_eq_true, if_true]

/-- A word whose results find no room is held. -/
theorem issueEff_of_full (hp : (s.ctx cid).pr h.pr.toNat ≠ h.pn) (hn : n ≠ 0)
    (hr : 12 < (s.ctx cid).pend.length + (if n = 13 then 1 else n)) : issueEff h fs n body s cid = .hold s := by
  simp only [issueEff, State.lacks_none hf, beq_iff_eq, hp, if_false]
  rw [if_pos (by simpa [hn] using hr)]

end

/-- Settles O7: each test answers before the word's own meaning, in the order of R365. -/
theorem testsBeforeAWordsEffect : Obligations.TestsBeforeAWordsEffect := by
  intro h feats n body s cid hc
  rw [issue_of_cur body hc]
  refine ⟨fun r l b hr hl => ?_, fun hf => ⟨fun hp => ?_, fun hp => ⟨fun hn hroom => ⟨?_, rfl⟩, fun hroom => ?_⟩⟩⟩
  · rw [issueEff_of_lacks body hr hl]
  · rw [issueEff_of_predicated body hf hp]
  · rw [issueEff_of_full body hf hp hn hroom]
  · rw [issueEff_body body hf hp hroom]

/-! ## One register written (R354) -/

section
variable (c : Ctx) (v : Vec)

/-- A write to x0, p0 or m0 is discarded at once. -/
theorem Ctx.write_of_discards {k : File} {n : Nat} (hd : discards k n = true) : c.write k n v = c := by
  cases k <;> simp_all [discards, Ctx.write]

/-- A write to x0, p0 or m0 is discarded in flight. -/
theorem Ctx.pendW_of_discards {k : File} {n : Nat} (l : Nat) (hd : discards k n = true) : c.pendW k n v l = c := by
  simp only [Ctx.pendW, hd, if_true]

/-- Registers are told apart by their numbers. -/
theorem Reg.toNat_eq_zero {d : Reg} : d.toNat = 0 ↔ d = 0 := by
  simpa using BitVec.toNat_inj (x := d) (y := 0)

theorem Ctx.xr_write {d : Reg} (hd : d ≠ 0) (r : Reg) : (c.write .x d.toNat v).xr r = if r = d then v.setWidth 64 else c.xr r := by
  have h0 : d.toNat ≠ 0 := mt Reg.toNat_eq_zero.mp hd
  simp only [Ctx.write, h0, if_false, Ctx.xr, tget_tset, BitVec.toNat_inj]
  by_cases hr : r = 0
  · rw [if_pos hr, if_neg (hr ▸ Ne.symm hd), if_pos hr]
  · rw [if_neg hr, if_neg hr]

theorem Ctx.vr_write (d r : Reg) : (c.write .v d.toNat v).vr r = if r = d then v else c.vr r := by
  simp only [Ctx.write, Ctx.vr, tget_tset, BitVec.toNat_inj]

theorem Ctx.mr_write {d : Nat} (hd : d ≠ 0) (r : Nat) : (c.write .m d v).mr r = if r = d then v.setWidth 256 else c.mr r := by
  simp only [Ctx.write, hd, if_false, Ctx.mr, tget_tset]
  by_cases hr : r = 0
  · subst hr; simp [Ne.symm hd]
  · simp [hr]

theorem Ctx.sr_write (d r : Nat) : (c.write .s d v).sr r = if r = d then v.setWidth 512 else c.sr r := by
  simp only [Ctx.write, Ctx.sr, tget_tset]

/-- Bit `r` of the eight predicates is the one set for register `d` just where `r` is `d`. -/
theorem getLsbD_predBit (d : Nat) {r : Nat} (hr : r < 8) : ((1 <<< d : Nat) : BitVec 8).getLsbD r = decide (r = d) := by
  rw [BitVec.natCast_eq_ofNat, BitVec.getLsbD_ofNat, Nat.one_shiftLeft, Nat.testBit_two_pow]
  simp [hr, eq_comm]

theorem Ctx.pr_write {d : Nat} (hd : d ≠ 0) {r : Nat} (hr : r < 8) : (c.write .p d v).pr r = if r = d then v.getLsbD 0 else c.pr r := by
  simp only [Ctx.write, hd, if_false, Ctx.pr]
  by_cases h0 : r = 0
  · rw [if_pos h0, if_neg (h0 ▸ Ne.symm hd), if_pos h0]
  · rw [if_neg h0, if_neg h0]
    cases v.getLsbD 0
    · rw [if_neg Bool.false_ne_true, BitVec.getLsbD_and, BitVec.getLsbD_not, getLsbD_predBit d hr]
      by_cases e : r = d <;> simp [hr, e]
    · rw [if_pos rfl, BitVec.getLsbD_or, getLsbD_predBit d hr]
      by_cases e : r = d <;> simp [e]
end

/-- Settles O8: every file by the law of its own write. -/
theorem registerWritesReachOneRegister : Obligations.RegisterWritesReachOneRegister := by
  intro c v
  have hx : discards .x 0 = true := rfl
  have hp : discards .p 0 = true := rfl
  have hm : discards .m 0 = true := rfl
  have predicates : ∀ d : Nat, 0 < d → d < 8 → (c.write .p d v).pr d = v.getLsbD 0 ∧
      ∀ r : Nat, r < 8 → r ≠ d → (c.write .p d v).pr r = c.pr r := fun d h0 h8 =>
    ⟨by rw [c.pr_write v h0.ne' h8, if_pos rfl], fun r hr hne => by rw [c.pr_write v h0.ne' hr, if_neg hne]⟩
  refine ⟨rfl, rfl, rfl, fun l => ⟨c.write_of_discards v hx, c.write_of_discards v hp, c.write_of_discards v hm,
    c.pendW_of_discards v l hx, c.pendW_of_discards v l hp, c.pendW_of_discards v l hm⟩, fun d hd => ⟨?_, fun r hr => ?_⟩,
    fun d => ⟨?_, fun r hr => ?_⟩, predicates, fun d hd => ⟨?_, fun r hr => ?_⟩, fun d => ⟨?_, fun r hr => ?_⟩⟩
  · rw [c.xr_write v hd, if_pos rfl]
  · rw [c.xr_write v hd, if_neg hr]
  · rw [c.vr_write, if_pos rfl]
  · rw [c.vr_write, if_neg hr]
  · rw [c.mr_write v hd, if_pos rfl]
  · rw [c.mr_write v hd, if_neg hr]
  · rw [c.sr_write, if_pos rfl]
  · rw [c.sr_write, if_neg hr]

end Sys2Proof.Machine
end

section
namespace Sys2Proof.Machine

/-! ## A run changed in place -/

/-- The run that a change finds is the changed one, where the change keeps its number. -/
theorem State.run_modRun_self {s : State} {id : Nat} {r : Run} {f : Run → Run} (hr : s.run id = some r) (hf : (f r).id = r.id) :
    (s.modRun id f).run id = some (f r) := by
  simp only [State.run, State.modRun] at hr ⊢
  generalize s.runs = l at hr ⊢
  induction l with
  | nil => simp at hr
  | cons a l ih =>
    rw [List.find?_cons] at hr
    by_cases ha : (a.id == id) = true
    · simp only [ha, Option.some.injEq] at hr
      subst hr
      simp [replaceFirst, hf, beq_iff_eq.mp ha]
    · simp only [ha] at hr
      simp [replaceFirst, ha, ih hr]

section
variable (r : Run) (i : Nat) (c : Chan)
@[simp] theorem Run.chan_setChan_self : (r.setChan i c).chan i = c := tget_tset_self
theorem Run.chan_setChan_other {j : Nat} (hj : j ≠ i) : (r.setChan i c).chan j = r.chan j := tget_tset_other hj
end

/-! ## A token that leaves by an output port (R387, R394) -/

/-- The run after a token has left for channel `i`, out of the slot reserved for it. -/
def Run.sent (r : Run) (i : Nat) (mk : Nat → Nat → Token) (due : Nat) : Run :=
  (r.setChan i
    { r.chan i with
      res := (r.chan i).res - 1
      seq := if (mk i (r.chan i).seq).kind = 2 then ((r.chan i).seq + 1) % 2 ^ 32 else (r.chan i).seq }).launchTok
    i (mk i (r.chan i).seq) due

section
variable (r : Run) (i : Nat) (mk : Nat → Nat → Token) (due : Nat)

theorem Run.sent_chan_other {j : Nat} (hj : j ≠ i) : (r.sent i mk due).chan j = r.chan j := by
  simp only [Run.sent, Run.launchTok, Run.chan_setChan_other _ _ _ hj]

theorem Run.sent_chan_self : (r.sent i mk due).chan i =
    { r.chan i with
      res := (r.chan i).res - 1
      seq := if (mk i (r.chan i).seq).kind = 2 then ((r.chan i).seq + 1) % 2 ^ 32 else (r.chan i).seq
      fly := (r.chan i).fly ++ [{ tok := some (mk i (r.chan i).seq), due := due }] } := by
  simp only [Run.sent, Run.launchTok, Run.chan_setChan_self]
end

section
variable (s : State) (cid port : Nat) (mk : Nat → Nat → Token)

/-- A token's leaving counts on its port, and changes no other context. -/
theorem State.ctx_sendTok_self : (s.sendTok cid port mk).ctx cid = (s.ctx cid).move port := by
  unfold State.sendTok
  rw [State.ctx_modCtx_self]
  dsimp only
  split
  · rfl
  · split <;> rfl

theorem State.ctx_sendTok_other {k : Nat} (hk : k ≠ cid) : (s.sendTok cid port mk).ctx k = s.ctx k := by
  unfold State.sendTok
  rw [State.ctx_modCtx_other _ _ hk]
  dsimp only
  split
  · rfl
  · split <;> rfl

theorem State.core_sendTok (k : Nat) : (s.sendTok cid port mk).core k = s.core k := by
  unfold State.sendTok
  rw [State.core_modCtx]
  dsimp only
  split
  · rfl
  · split <;> rfl

theorem State.dram_sendTok : (s.sendTok cid port mk).dram = s.dram := by
  unfold State.sendTok
  dsimp only
  split
  · rfl
  · split <;> rfl
end

section
variable {s : State} {cid port : Nat} {r : Run} {n : Nat} {nd : NodeD} {p : PortD} (g : AtPort s cid port r n nd p)
include g

theorem ctxRun_of_atPort : s.ctxRun cid = some r := by
  simp only [State.ctxRun, g.role, Role.run, Option.bind_some, g.runs]

/-- A port of the kind asked for, with tokens left to move, passes every test of R384. -/
theorem portTest_of_atPort {kind : Nat} (hk : p.kind = kind) (hm : tget 0 (s.ctx cid).moved port < p.count) :
    portTest s cid port (some kind) = none := by
  have hleft : ¬p.count ≤ (s.ctx cid).movedOn port := Nat.not_le.mpr hm
  simp only [portTest, g.role, Role.isOp, ctxRun_of_atPort g, Role.node, Option.bind_some, g.node, g.port]
  simp [hk, hleft]

/-- On a connected port the token enters its channel, to land no sooner than two cycles later. -/
theorem run_sendTok_of_connected {i : Nat} (mk : Nat → Nat → Token) (hi : r.graph.chanOfOut n port = some i) :
    (s.sendTok cid port mk).run r.id = some (r.sent i mk (s.cycle (coreOf cid) + 2)) := by
  simp only [State.sendTok, ctxRun_of_atPort g, g.role, Role.node, hi, State.run_modCtx]
  exact State.run_modRun_self (f := fun r => r.sent i mk (s.cycle (coreOf cid) + 2)) g.runs rfl

/-- On a port left unconnected the token is discarded. -/
theorem run_sendTok_of_unconnected (mk : Nat → Nat → Token) (hi : r.graph.chanOfOut n port = none) :
    (s.sendTok cid port mk).run r.id = some r := by
  simp only [State.sendTok, ctxRun_of_atPort g, g.role, Role.node, hi, State.run_modCtx, g.runs]
end

/-! ## What a word that has taken its effect leaves -/

section
variable (s0 t : State) (cid : Nat) (h : Hdr)

theorem ctx_settle_next_self : (settle s0 cid h (.next t)).ctx cid =
    { t.ctx cid with
      pc := (t.ctx cid).pc + 8, gap := 1 + h.gap.toNat, sw := h.sw
      stepDue := if (s0.ctx cid).stepEn then some (s0.ir, (s0.ctx cid).pc) else (t.ctx cid).stepDue } := by
  simp only [settle, State.ctx_noteIssue_self, State.ctx_countIssue, State.ctx_advance_self, Nat.add_zero]

theorem ctx_settle_next_other {k : Nat} (hk : k ≠ cid) : (settle s0 cid h (.next t)).ctx k = t.ctx k := by
  simp only [settle, State.ctx_noteIssue_other _ _ _ _ hk, State.ctx_countIssue, State.ctx_advance_other _ _ _ _ _ hk]

/-- The count of an issue changes no byte of a core and no full-empty flag. -/
theorem core_settle_next (k : Nat) :
    ((settle s0 cid h (.next t)).core k).mem = (t.core k).mem ∧ ((settle s0 cid h (.next t)).core k).fe = (t.core k).fe := by
  simp only [settle, State.core_noteIssue]
  by_cases hk : k = coreOf cid
  · subst hk
    rw [State.core_countIssue_self, Core.counted, State.core_advance]
    split <;> exact ⟨rfl, rfl⟩
  · rw [State.core_countIssue_other _ _ _ hk]
    exact ⟨rfl, rfl⟩

theorem run_settle_next (id : Nat) : (settle s0 cid h (.next t)).run id = t.run id := rfl
theorem dram_settle_next : (settle s0 cid h (.next t)).dram = t.dram := rfl
end

/-! ## SEND (R387, R388) -/

/-- What NB adds to the context of a SEND that has succeeded. -/
def sendAnswer (f : ChanF) (c : Ctx) : Ctx := if f.nb then c.pendP f.pd.toNat true 1 else c

/-- The state that SEND's effect makes of one that passes its port's tests. -/
def sentState (f : ChanF) (s : State) (cid : Nat) : State :=
  (s.sendTok cid (16 + f.port.toNat) fun _ _ => regTok (s.ctx cid) f.v f.x).modCtx cid (sendAnswer f)

section
variable (f : ChanF) (s : State) (cid : Nat) (h : Hdr)

theorem sendBody_of_passed (ht : portTest s cid (16 + f.port.toNat) (some (kindOf f.v)) = none) :
    sendBody f s cid = .next (sentState f s cid) := by
  simp only [sendBody, ht]
  rfl

theorem ctx_sentState : (sentState f s cid).ctx cid = sendAnswer f ((s.ctx cid).move (16 + f.port.toNat)) := by
  rw [sentState, State.ctx_modCtx_self, State.ctx_sendTok_self]

theorem run_sentState (id : Nat) :
    (sentState f s cid).run id = (s.sendTok cid (16 + f.port.toNat) fun _ _ => regTok (s.ctx cid) f.v f.x).run id := State.run_modCtx ..

/-- SEND's own effect moves one token on its port: what its run makes of the channel is the only other change. -/
theorem movesOneToken_sentState {r r' : Run} {i : Nat} (hrun : (sentState f s cid).run r.id = some r')
    (hchan : ∀ j, j ≠ i → r'.chan j = r.chan j) (hgraph : r'.graph = r.graph) (hst : r'.st = r.st) :
    MovesOneToken s (settle s cid h (.next (sentState f s cid))) cid (16 + f.port.toNat) r r' i := by
  have hself := ctx_settle_next_self s (sentState f s cid) cid h
  rw [ctx_sentState] at hself
  have hcore (k : Nat) : (sentState f s cid).core k = s.core k := by
    simp only [sentState, State.core_modCtx, State.core_sendTok]
  refine ⟨(run_settle_next ..).trans hrun, hchan, hgraph, hst, ?moved, ?pc, ?x, ?v, ?p, ?m, ?sh, ?fflags, fun k hk => ?others, fun k => ?bytes, ?dram⟩
  case others =>
    rw [ctx_settle_next_other _ _ _ _ hk, sentState, State.ctx_modCtx_other _ _ hk, State.ctx_sendTok_other _ _ _ _ hk]
  case bytes => rw [← hcore k]; exact core_settle_next _ _ _ _ k
  case dram => rw [dram_settle_next, sentState, State.modCtx_dram, State.dram_sendTok]
  all_goals rw [hself]; cases hnb : f.nb <;> simp [sendAnswer, hnb, Ctx.pendP, Ctx.move, Ctx.movedOn]

theorem pend_sentState :
    ((settle s cid h (.next (sentState f s cid))).ctx cid).pend = (sendAnswer f (s.ctx cid)).pend := by
  rw [ctx_settle_next_self, ctx_sentState]
  cases hnb : f.nb <;> simp [sendAnswer, hnb, Ctx.pendP, Ctx.move, Ctx.pendW_pend]

end

/-- Settles O24: the token enters the channel of a connected port, and is discarded on another; the rest is the frame of `sentState`. -/
theorem sendAppendsItsToken : Obligations.SendAppendsItsToken := by
  intro s cid h f r n nd p port tok g hk hm hi answers
  have hrun : exec (.send h f) s = .next (settle s cid h (.next (sentState f s cid))) := by
    have ht := portTest_of_atPort g (kind := kindOf f.v) hk hm
    rw [← sendBody_of_passed f s cid ht]
    exact hi.runs (sendBody f) (by split <;> decide)
  have hans : answers (settle s cid h (.next (sentState f s cid))) := pend_sentState f s cid h
  refine ⟨fun i hi => ?_, fun hi => ?_⟩
  · have hsent := (run_sentState f s cid r.id).trans (run_sendTok_of_connected g _ hi)
    refine ⟨_, _, hrun, movesOneToken_sentState f s cid h hsent (fun j hj => Run.sent_chan_other _ _ _ _ hj) rfl rfl, hans, ?_⟩
    rw [Run.sent_chan_self]
    exact ⟨rfl, rfl, rfl⟩
  · have hkept := (run_sentState f s cid r.id).trans (run_sendTok_of_unconnected g _ hi)
    exact ⟨_, hrun, hans, fun i => movesOneToken_sentState f s cid h hkept (fun _ _ => rfl) rfl rfl⟩

end Sys2Proof.Machine
end

section
namespace Sys2Proof.Machine

/-! ## Lanes of vectors and masks (R230, R396, R402) -/

/-- The model's lane of a register is the element of R396. -/
theorem lane_eq_elem (v : Vec) (n j : Nat) : lane v n j = elem v n j := by
  simp only [lane, elem, BitVec.toNat_ushiftRight, Nat.shiftRight_eq_div_pow]

theorem elem_lt (v : Vec) (n j : Nat) : elem v n j < 2 ^ (8 * n) := Nat.mod_lt _ (by positivity)

section
variable (n : Nat) (f : Nat → Nat)

theorem packLanes_lt (k : Nat) : packLanes n f k < 2 ^ (8 * n * k) := by
  induction k with
  | zero => simp [packLanes]
  | succ k ih =>
    have hlane : f k % 2 ^ (8 * n) + 1 ≤ 2 ^ (8 * n) := Nat.mod_lt _ (by positivity)
    have hsum := Nat.mul_le_mul_right (2 ^ (8 * n * k)) hlane
    rw [packLanes, Nat.mul_succ, Nat.add_comm (8 * n * k), pow_add]
    rw [Nat.add_mul, Nat.one_mul] at hsum
    omega

/-- Packed lanes are read back one by one. -/
theorem packLanes_lane {j k : Nat} (hj : j < k) : packLanes n f k / 2 ^ (8 * n * j) % 2 ^ (8 * n) = f j % 2 ^ (8 * n) := by
  induction k with
  | zero => omega
  | succ k ih =>
    have hpos : 0 < 2 ^ (8 * n * j) := by positivity
    rw [packLanes]
    rcases Nat.lt_succ_iff_lt_or_eq.mp hj with hlt | rfl
    · have hexp : 8 * n * k = 8 * n * j + (8 * n + 8 * n * (k - j - 1)) := by
        rw [show k = j + (1 + (k - j - 1)) by omega, Nat.mul_add, Nat.mul_add, Nat.mul_one, show j + (1 + (k - j - 1)) - j - 1 = k - j - 1 by omega]
      rw [hexp, pow_add, pow_add, Nat.mul_left_comm, Nat.add_mul_div_left _ _ hpos, Nat.mul_left_comm, Nat.add_mul_mod_self_left, ih hlt]
    · rw [Nat.add_mul_div_right _ _ hpos, Nat.div_eq_of_lt (packLanes_lt n f j), Nat.zero_add, Nat.mod_mod]

/-- Element `j` of a vector made lane by lane. -/
theorem elem_mkVec {j : Nat} (hj : j < 256 / n) : elem (mkVec n f) n j = f j % 2 ^ (8 * n) := by
  have hwidth : 8 * n * (256 / n) ≤ 2048 := by
    have := Nat.mul_div_le 256 n
    rw [Nat.mul_assoc]; omega
  have hfit := (packLanes_lt n f (256 / n)).trans_le (Nat.pow_le_pow_right Nat.two_pos hwidth)
  rw [elem, mkVec, BitVec.toNat_ofNat, Nat.mod_eq_of_lt hfit, packLanes_lane n f hj]

end

/-- The number whose groups of `n` bits are all `f j`, for the first `m` groups. -/
def groupBits (n : Nat) (f : Nat → Bool) (m : Nat) : Nat :=
  (List.range m).foldl (fun a j => if f j then a + (2 ^ n - 1) * 2 ^ (n * j) else a) 0

theorem groupBits_succ (n : Nat) (f : Nat → Bool) (m : Nat) :
    groupBits n f (m + 1) = 2 ^ (n * m) * (if f m then 2 ^ n - 1 else 0) + groupBits n f m := by
  simp only [groupBits, List.range_succ, List.foldl_append, List.foldl_cons, List.foldl_nil]
  split
  · rw [Nat.mul_comm, Nat.add_comm]
  · simp

theorem groupBits_lt (n : Nat) (f : Nat → Bool) (m : Nat) : groupBits n f m < 2 ^ (n * m) := by
  induction m with
  | zero => simp [groupBits]
  | succ m ih =>
    have hgroup : (if f m then 2 ^ n - 1 else 0) + 1 ≤ 2 ^ n := by
      have := Nat.two_pow_pos n
      split <;> omega
    have hsum := Nat.mul_le_mul_left (2 ^ (n * m)) hgroup
    rw [groupBits_succ, Nat.mul_succ, pow_add]
    rw [Nat.mul_add, Nat.mul_one] at hsum
    omega

theorem testBit_groupBits (n : Nat) (f : Nat → Bool) (m k : Nat) :
    (groupBits n f m).testBit k = (decide (k < n * m) && f (k / n)) := by
  induction m with
  | zero => simp [groupBits]
  | succ m ih =>
    rw [groupBits_succ, Nat.testBit_two_pow_mul_add _ (groupBits_lt n f m), ih, Nat.mul_succ]
    by_cases hk : k < n * m
    · simp [hk, Nat.lt_add_right]
    · by_cases hk' : k < n * m + n
      · have hdiv : k / n = m := Nat.div_eq_of_lt_le (by rw [Nat.mul_comm]; omega) (by rw [Nat.mul_comm, Nat.mul_succ]; omega)
        have hlow : k - n * m < n := by omega
        cases hf : f m <;> simp [hk, hk', hdiv, hf, hlow]
      · have hhigh : ¬k - n * m < n := by omega
        cases f m <;> simp [hk, hk', hhigh]

/-- Bit `k` of a mask made group by group. -/
theorem getLsbD_mkMask {n : Nat} (hn : n ∣ 256) (f : Nat → Bool) {k : Nat} (hk : k < 256) : (mkMask n f).getLsbD k = f (k / n) := by
  change (BitVec.ofNat 256 (groupBits n f (256 / n))).getLsbD k = _
  rw [BitVec.getLsbD_ofNat, testBit_groupBits, Nat.mul_div_cancel' hn]
  simp [hk]

end Sys2Proof.Machine
end

section
namespace Sys2Proof.Machine

/-! ## The formats' fields, and the value that a pattern decodes to (R254-R258) -/

/-- The model's shape of a floating-point type has the fraction bits, the exponent bits and the bias of R254 and R255. -/
theorem fmtOf_fields {ty : Nat} (h8 : 8 ≤ ty) (h12 : ty ≤ 12) :
    (fmtOf ty).p = fracBits ty + 1 ∧ (fmtOf ty).bits = fracBits ty + expBits ty + 1 ∧ (fmtOf ty).ieee = decide (10 ≤ ty) ∧
    (fmtOf ty).emin = 1 - biasOf ty ∧ (fmtOf ty).emax = 2 ^ expBits ty - biasOf ty - (if 10 ≤ ty then 2 else 1) ∧
    fracBits ty + expBits ty + 1 = 8 * tyW ty := by
  interval_cases ty <;> decide

theorem fracBits_pos (ty : Nat) : 2 ≤ fracBits ty := by unfold fracBits; split <;> decide

/-- The bias and the fraction of every type leave its least element a multiple of 2^-149. -/
theorem biasOf_add_fracBits_le (ty : Nat) : biasOf ty + fracBits ty ≤ 150 ∧ 1 ≤ biasOf ty := by
  unfold biasOf fracBits; split <;> (try split) <;> simp_all

section
variable {ty : Nat} (u : Nat) (h8 : 8 ≤ ty) (h12 : ty ≤ 12)
include h8 h12

/-- The model's decoding of a pattern, in the fields of R254. -/
theorem decodeF_eq : decodeF ty u =
    let e := u / 2 ^ fracBits ty % 2 ^ expBits ty
    let fr := u % 2 ^ fracBits ty
    if 10 ≤ ty ∧ e = 2 ^ expBits ty - 1 then (if fr = 0 then .inf (negF ty u) else .nan (!u.testBit (fracBits ty - 1)))
    else if ty < 10 ∧ u = 0x80 then .nan false
    else if e = 0 ∧ fr = 0 then (if negF ty u then .negZero else .fin 0 0)
    else
      let m : Nat := if e = 0 then fr else 2 ^ fracBits ty + fr
      .fin (if negF ty u then -m else m) ((1 : Int) - biasOf ty - fracBits ty + (if e = 0 then 0 else (e : Int) - 1)) := by
  obtain ⟨hp, hb, hi, hm, -, -⟩ := fmtOf_fields h8 h12
  have hneg : (u / 2 ^ (fracBits ty + expBits ty) % 2 == 1) = negF ty u := by
    rw [negF, Nat.testBit_eq_decide_div_mod_eq, beq_eq_decide]
  have hquiet : (u % 2 ^ fracBits ty / 2 ^ (fracBits ty - 1) % 2 == 0) = !u.testBit (fracBits ty - 1) := by
    have hlt : fracBits ty - 1 < fracBits ty := by have := fracBits_pos ty; omega
    have hbit := Nat.testBit_mod_two_pow u (fracBits ty) (fracBits ty - 1)
    rw [Nat.testBit_eq_decide_div_mod_eq] at hbit
    simp only [hlt, decide_true, Bool.true_and] at hbit
    rw [← hbit, beq_eq_decide]
    rcases Nat.mod_two_eq_zero_or_one (u % 2 ^ fracBits ty / 2 ^ (fracBits ty - 1)) with h | h <;> simp [h]
  have hbits : fracBits ty + expBits ty + 1 - (fracBits ty + 1) = expBits ty := by omega
  have hzero : ∀ e fr : Nat, (if e = 0 then fr else fr + 2 ^ fracBits ty) = 0 ↔ e = 0 ∧ fr = 0 := by
    intro e fr
    have := Nat.two_pow_pos (fracBits ty)
    split <;> omega
  unfold decodeF
  simp only [hp, hb, hi, hm, Nat.add_sub_cancel, hneg, hbits, show fracBits ty + 1 - 2 = fracBits ty - 1 by omega, hquiet, hzero,
    Bool.and_eq_true, decide_eq_true_eq, Bool.not_eq_true', decide_eq_false_iff_not, Nat.not_le, Nat.add_comm (2 ^ fracBits ty)]

theorem decodeF_nan (h : isNaNF ty u = true) : decodeF ty u = .nan (isSigF ty u) := by
  rw [decodeF_eq u h8 h12]
  by_cases h10 : ty < 10
  · have hu : u = 0x80 := by simpa [isNaNF, h10] using h
    have hs : isSigF ty u = false := by simp [isSigF, h10]
    rw [if_neg (by omega), if_pos ⟨h10, hu⟩, hs]
  · simp only [isNaNF, h10, if_false, Bool.and_eq_true, beq_iff_eq, bne_iff_ne] at h
    have hs : isSigF ty u = !u.testBit (fracBits ty - 1) := by simp [isSigF, isNaNF, h10, h, Nat.le_of_not_lt h10]
    rw [if_pos ⟨by omega, h.1⟩, if_neg h.2, hs]

theorem decodeF_inf (h : isInfF ty u = true) : decodeF ty u = .inf (negF ty u) := by
  simp only [isInfF, Bool.and_eq_true, decide_eq_true_eq, beq_iff_eq] at h
  rw [decodeF_eq u h8 h12]
  rw [if_pos h.1, if_pos h.2]

omit h8 h12 in
/-- A pattern is none of the special ones: how its fields then stand. -/
theorem finite_fields (hn : isNaNF ty u = false) (hi : isInfF ty u = false) :
    ¬(10 ≤ ty ∧ u / 2 ^ fracBits ty % 2 ^ expBits ty = 2 ^ expBits ty - 1) ∧ ¬(ty < 10 ∧ u = 0x80) := by
  refine ⟨fun ⟨h10, he⟩ => ?_, fun ⟨h10, hu⟩ => ?_⟩
  · by_cases hf : u % 2 ^ fracBits ty = 0
    · simp [isInfF, h10, he, hf] at hi
    · simp [isNaNF, Nat.not_lt.mpr h10, he, hf] at hn
  · simp [isNaNF, h10, hu] at hn

omit h8 h12 in
/-- A pattern is a zero where its exponent and its fraction are. -/
theorem isZeroF_iff (hn : isNaNF ty u = false) :
    isZeroF ty u = true ↔ u / 2 ^ fracBits ty % 2 ^ expBits ty = 0 ∧ u % 2 ^ fracBits ty = 0 := by
  have hsplit : u % 2 ^ (fracBits ty + expBits ty) = u % 2 ^ fracBits ty + 2 ^ fracBits ty * (u / 2 ^ fracBits ty % 2 ^ expBits ty) := by
    rw [pow_add, Nat.mod_mul]
  have hpos := Nat.two_pow_pos (fracBits ty)
  simp only [isZeroF, hn, hsplit, Bool.not_false, Bool.and_true, beq_iff_eq, Nat.add_eq_zero_iff, Nat.mul_eq_zero, hpos.ne', false_or]
  exact and_comm

theorem decodeF_zero (hn : isNaNF ty u = false) (hi : isInfF ty u = false) (hz : isZeroF ty u = true) :
    decodeF ty u = if negF ty u then .negZero else .fin 0 0 := by
  obtain ⟨h1, h2⟩ := finite_fields u hn hi
  rw [decodeF_eq u h8 h12]
  simp only [if_neg h1, if_neg h2, if_pos ((isZeroF_iff u hn).mp hz)]

/-- Any other pattern stands for its number of units of 2^-149. -/
theorem decodeF_finite (hn : isNaNF ty u = false) (hi : isInfF ty u = false) (hz : isZeroF ty u = false) :
    ∃ (m : Int) (k : Nat), decodeF ty u = .fin m ((-149 : Int) + k) ∧ m * 2 ^ k = unitsF ty u ∧ decide (m < 0) = negF ty u := by
  obtain ⟨h1, h2⟩ := finite_fields u hn hi
  have h3 := mt (isZeroF_iff u hn).mpr (by simp [hz])
  obtain ⟨hbf, hb1⟩ := biasOf_add_fracBits_le ty
  rw [decodeF_eq u h8 h12]
  simp only [h1, h2, h3, if_false, unitsF]
  generalize u / 2 ^ fracBits ty % 2 ^ expBits ty = e at h3 ⊢
  generalize u % 2 ^ fracBits ty = fr at h3 ⊢
  have hpos := Nat.two_pow_pos (fracBits ty)
  have hm : (if e = 0 then fr else 2 ^ fracBits ty + fr) ≠ 0 := by split <;> omega
  refine ⟨_, if e = 0 then 150 - biasOf ty - fracBits ty else e + 149 - biasOf ty - fracBits ty, congrArg _ ?_, ?_, ?_⟩
  · split <;> omega
  · by_cases he : e = 0
    · cases negF ty u <;> simp [he]
    · cases negF ty u
      · simp [he]
      · simp only [he, if_false, if_true]
        push_cast
        ring
  · generalize (if e = 0 then fr else 2 ^ fracBits ty + fr) = m at hm ⊢
    cases negF ty u
    · simp
    · simp [Nat.pos_of_ne_zero hm]
/-- The four kinds of a pattern, each with the value that it decodes to. -/
theorem decodeF_cases :
    (isNaNF ty u = true ∧ decodeF ty u = .nan (isSigF ty u)) ∨
    (isNaNF ty u = false ∧ isInfF ty u = true ∧ decodeF ty u = .inf (negF ty u)) ∨
    (isNaNF ty u = false ∧ isInfF ty u = false ∧ isZeroF ty u = true ∧ decodeF ty u = if negF ty u then .negZero else .fin 0 0) ∨
    (isNaNF ty u = false ∧ isInfF ty u = false ∧ isZeroF ty u = false ∧
      ∃ (m : Int) (k : Nat), decodeF ty u = .fin m ((-149 : Int) + k) ∧ m * 2 ^ k = unitsF ty u ∧ decide (m < 0) = negF ty u) := by
  cases hn : isNaNF ty u
  · cases hi : isInfF ty u
    · cases hz : isZeroF ty u
      · exact .inr (.inr (.inr ⟨rfl, rfl, rfl, decodeF_finite u h8 h12 hn hi hz⟩))
      · exact .inr (.inr (.inl ⟨rfl, rfl, rfl, decodeF_zero u h8 h12 hn hi hz⟩))
    · exact .inr (.inl ⟨rfl, rfl, decodeF_inf u h8 h12 hi⟩)
  · exact .inl ⟨rfl, decodeF_nan u h8 h12 hn⟩
end

/-- An integer is exact, and any other pattern is decoded by its fields. -/
theorem decodeE_int {ty : Nat} (h7 : ty ≤ 7) (u : Nat) : decodeE ty u = .fin (intOf ty u) 0 := by simp [decodeE, tyIsInt, h7]
theorem decodeE_float {ty : Nat} (h8 : 8 ≤ ty) (u : Nat) : decodeE ty u = decodeF ty u := by
  simp [decodeE, tyIsInt, Nat.not_le.mpr h8]

end Sys2Proof.Machine
end

section
namespace Sys2Proof.Machine

/-! ## A rounded value is a pattern of its type (R264) -/

/-- A magnitude counted in units that leave it at most `p` bits rounds to at most 2^p. -/
theorem roundMag_le (rm : Nat) (neg : Bool) {a p : Nat} {e g : Int} (h : (a.log2 : Int) + e + 1 ≤ g + p) : (roundMag rm neg a e g).1 ≤ 2 ^ p := by
  have hlog : a < 2 ^ (a.log2 + 1) := Nat.lt_log2_self
  have hone : 1 ≤ 2 ^ p := Nat.one_le_two_pow
  unfold roundMag
  split
  next hg =>
    calc a * 2 ^ (e - g).toNat ≤ 2 ^ (a.log2 + 1) * 2 ^ (e - g).toNat := Nat.mul_le_mul_right _ hlog.le
      _ = 2 ^ (a.log2 + 1 + (e - g).toNat) := (pow_add _ _ _).symm
      _ ≤ 2 ^ p := Nat.pow_le_pow_right Nat.two_pos (by omega)
  next hg =>
    split
    · exact Nat.zero_le _
    · split
      · dsimp only; split <;> omega
      · have hquot : a / 2 ^ (g - e).toNat < 2 ^ p := by
          refine Nat.div_lt_of_lt_mul (hlog.trans_le ?_)
          rw [← pow_add]
          exact Nat.pow_le_pow_right Nat.two_pos (by omega)
        dsimp only; split <;> omega

section
variable {ty : Nat} (h8 : 8 ≤ ty) (h12 : ty ≤ 12)
include h8 h12

theorem maxFin_lt (neg : Bool) : maxFin ty neg < 2 ^ (8 * tyW ty) := by interval_cases ty <;> cases neg <;> decide
theorem infOf_lt (neg : Bool) : infOf ty neg < 2 ^ (8 * tyW ty) := by interval_cases ty <;> cases neg <;> decide
theorem zeroOf_lt (neg : Bool) : zeroOf ty neg < 2 ^ (8 * tyW ty) := by interval_cases ty <;> cases neg <;> decide
theorem canonNaN_lt : canonNaN ty < 2 ^ (8 * tyW ty) := by interval_cases ty <;> decide

theorem overflowRes_lt (rm : Nat) (neg : Bool) : overflowRes ty rm neg < 2 ^ (8 * tyW ty) := by
  have hmax := maxFin_lt h8 h12
  have hinf := infOf_lt h8 h12
  unfold overflowRes
  split
  · exact hinf _
  · exact hinf _
  · split
    · exact hmax _
    · exact hinf _
  · split
    · exact hinf _
    · exact hmax _
  · exact hmax _

/-- The exponent and the fraction of a value within the type's range fit below its sign bit. -/
theorem magnitude_lt {n : Nat} {g : Int} (hn : n < 2 ^ (fmtOf ty).p)
    (hr : ¬(2 ^ ((fmtOf ty).p - 1) ≤ n ∧ (fmtOf ty).emax < g + ((fmtOf ty).p - 1 : Nat))) :
    (if n ≥ 2 ^ ((fmtOf ty).p - 1) then (g + (fmtOf ty).p - (fmtOf ty).emin).toNat * 2 ^ ((fmtOf ty).p - 1) + (n - 2 ^ ((fmtOf ty).p - 1)) else n) <
      2 ^ (fracBits ty + expBits ty) := by
  obtain ⟨hp, -, -, hmin, hmax, -⟩ := fmtOf_fields h8 h12
  rw [hp, pow_succ] at hn
  simp only [hp, hmin, hmax, Nat.add_sub_cancel] at hr ⊢
  have hexp : 1 ≤ 2 ^ expBits ty := Nat.one_le_two_pow
  have hfrac := Nat.two_pow_pos (fracBits ty)
  rw [pow_add]
  split
  next hbig =>
    have hrange : (g + (fracBits ty + 1 : Nat) - (1 - (biasOf ty : Int))).toNat + 1 ≤ 2 ^ expBits ty := by
      have hle : g + fracBits ty ≤ ((2 ^ expBits ty : Nat) : Int) - biasOf ty - 1 := by
        have := not_lt.mp fun hlt => hr ⟨hbig, hlt⟩
        rw [Nat.cast_pow, Nat.cast_ofNat]
        split at this <;> omega
      generalize 2 ^ expBits ty = top at hle hexp ⊢
      omega
    have hprod := Nat.mul_le_mul_left (2 ^ fracBits ty) hrange
    rw [Nat.mul_add, Nat.mul_one, Nat.mul_comm (2 ^ fracBits ty)] at hprod
    omega
  next hsmall => exact (Nat.not_le.mp hsmall).trans_le (Nat.le_mul_of_pos_right _ hexp)

omit h8 h12 in
/-- A magnitude that rounds up to 2^p is carried into the exponent. -/
theorem carry_lt {p n : Nat} (hp : 0 < p) (hn : n ≤ 2 ^ p) (g : Int) : (if n = 2 ^ p then (2 ^ (p - 1), g + 1) else (n, g)).1 < 2 ^ p := by
  split
  · exact Nat.pow_lt_pow_right (by norm_num) (by omega)
  · exact Nat.lt_of_le_of_ne hn ‹_›

theorem roundF_lt (rm : Nat) (m e : Int) : (roundF ty rm m e).1 < 2 ^ (8 * tyW ty) := by
  obtain ⟨hp, hb, -, -, -, hw⟩ := fmtOf_fields h8 h12
  unfold roundF
  split
  · exact Nat.two_pow_pos _
  · have hround := roundMag_le rm (decide (m < 0)) (a := m.natAbs) (p := (fmtOf ty).p) (e := e)
      (g := max ((m.natAbs.log2 : Int) + e - ((fmtOf ty).p - 1 : Nat)) ((fmtOf ty).emin - ((fmtOf ty).p - 1 : Nat))) (by omega)
    have hcarry := carry_lt (by omega) hround (max ((m.natAbs.log2 : Int) + e - ((fmtOf ty).p - 1 : Nat)) ((fmtOf ty).emin - ((fmtOf ty).p - 1 : Nat)))
    dsimp only
    generalize (if (roundMag _ _ _ _ _).1 = 2 ^ (fmtOf ty).p then _ else _) = q at hcarry ⊢
    split
    · exact overflowRes_lt h8 h12 rm _
    next hr =>
      have hmag := magnitude_lt h8 h12 hcarry (by simpa only [Bool.and_eq_true, decide_eq_true_eq] using hr)
      have hsign : signBit ty = 2 ^ (fracBits ty + expBits ty) := by rw [signBit, hb, Nat.add_sub_cancel]
      have hwidth : 2 ^ (8 * tyW ty) = 2 ^ (fracBits ty + expBits ty) * 2 := by rw [← hw, pow_succ]
      have hzero := zeroOf_lt h8 h12 (decide (m < 0))
      dsimp only
      generalize (if q.1 ≥ 2 ^ ((fmtOf ty).p - 1) then _ else q.1) = mag at hmag ⊢
      split
      · exact hzero
      · rw [hsign]; split <;> omega

end

/-! ## Round, by the kind of its type and of its value (R264) -/

theorem tyW_pos (ty : Nat) : 0 < tyW ty := by unfold tyW; split <;> decide

/-- The least and the greatest number of an integer type. -/
def intLo (ty : Nat) : Int := if tyIsSigned ty then -(2 ^ (8 * tyW ty - 1)) else 0
def intHi (ty : Nat) : Int := if tyIsSigned ty then 2 ^ (8 * tyW ty - 1) - 1 else 2 ^ (8 * tyW ty) - 1

/-- Every integer type holds zero. -/
theorem intLo_nonpos_intHi_nonneg (ty : Nat) : intLo ty ≤ 0 ∧ 0 ≤ intHi ty := by
  have h1 : (1 : Int) ≤ 2 ^ (8 * tyW ty - 1) := one_le_pow₀ (by norm_num)
  have h2 : (1 : Int) ≤ 2 ^ (8 * tyW ty) := one_le_pow₀ (by norm_num)
  unfold intLo intHi
  split <;> omega

/-- An integer written to an integer type: as it is, or saturated or wrapped with NV. -/
def fitI (ty rm : Nat) (q : Int) (exact : Bool) : FRes :=
  if intLo ty ≤ q && q ≤ intHi ty then ((q % 2 ^ (8 * tyW ty)).toNat, if exact then 0 else flNX)
  else if rm = 5 || rm = 6 then (((if q < intLo ty then intLo ty else intHi ty) % 2 ^ (8 * tyW ty)).toNat, flNV)
  else ((q % 2 ^ (8 * tyW ty)).toNat, flNV)

/-- Round to an integer type fits the rounded magnitude with its sign. -/
theorem roundI_eq_fitI (ty rm : Nat) (m e : Int) :
    roundI ty rm m e =
      let r := roundMag rm (decide (m < 0)) m.natAbs e 0
      fitI ty rm (if decide (m < 0) then -(r.1 : Int) else r.1) r.2 := rfl

/-- An integer is exact. -/
theorem roundI_int (ty rm : Nat) (x : Int) : roundI ty rm x 0 = fitI ty rm x true := by
  have hexact : ∀ neg a, roundMag rm neg a 0 0 = (a, true) := fun neg a => by simp [roundMag]
  have hsign : (if x < 0 then -(x.natAbs : Int) else x.natAbs) = x := by split <;> omega
  simp only [roundI_eq_fitI, hexact, decide_eq_true_eq, hsign]

theorem emod_toNat_lt (q : Int) (w : Nat) : (q % 2 ^ w).toNat < 2 ^ w := by
  have hlt := Int.emod_lt_of_pos q (b := 2 ^ w) (by positivity)
  rw [← Int.ofNat_lt, Int.toNat_of_nonneg (Int.emod_nonneg q (by positivity))]
  exact_mod_cast hlt

theorem fitI_lt (ty rm : Nat) (q : Int) (exact : Bool) : (fitI ty rm q exact).1 < 2 ^ (8 * tyW ty) := by
  unfold fitI
  split
  · exact emod_toNat_lt _ _
  · split <;> exact emod_toNat_lt _ _

section
variable {ty : Nat} (h7 : ty ≤ 7) (rm : Nat)
include h7

theorem roundV_int_fin (m e : Int) : roundV ty rm (.fin m e) = roundI ty rm m e := by simp [roundV, tyIsInt, h7]
theorem roundV_int_negZero : roundV ty rm .negZero = (0, 0) := by simp [roundV, tyIsInt, h7]
theorem roundV_int_nan (sig : Bool) : roundV ty rm (.nan sig) = (0, flNV) := by simp [roundV, tyIsInt, h7]
theorem roundV_int_inf (neg : Bool) : roundV ty rm (.inf neg) = (if rm = 5 ∨ rm = 6 then boundOf ty neg else 0, flNV) := by
  cases neg <;> simp [roundV, tyIsInt, h7, boundOf]

omit h7 in
theorem boundOf_lt (neg : Bool) : boundOf ty neg < 2 ^ (8 * tyW ty) := by
  have hhalf : 2 ^ (8 * tyW ty - 1) < 2 ^ (8 * tyW ty) := Nat.pow_lt_pow_right (by norm_num) (by have := tyW_pos ty; omega)
  have hpos := Nat.two_pow_pos (8 * tyW ty)
  unfold boundOf
  dsimp only
  split <;> split <;> omega

/-- The result of Round is a pattern of its integer type. -/
theorem roundV_int_lt (v : FVal) : (roundV ty rm v).1 < 2 ^ (8 * tyW ty) := by
  cases v with
  | fin m e => rw [roundV_int_fin h7, roundI_eq_fitI]; exact fitI_lt _ _ _ _
  | negZero => rw [roundV_int_negZero h7]; exact Nat.two_pow_pos _
  | nan sig => rw [roundV_int_nan h7]; exact Nat.two_pow_pos _
  | inf neg =>
    rw [roundV_int_inf h7]
    dsimp only
    split
    · exact boundOf_lt neg
    · exact Nat.two_pow_pos _
end

section
variable {ty : Nat} (h8 : 8 ≤ ty) (rm : Nat)
include h8

theorem roundV_float_fin (m e : Int) : roundV ty rm (.fin m e) = roundF ty rm m e := by simp [roundV, tyIsInt, Nat.not_le.mpr h8]
theorem roundV_float_negZero : roundV ty rm .negZero = (zeroOf ty true, 0) := by simp [roundV, tyIsInt, Nat.not_le.mpr h8]
theorem roundV_float_nan (sig : Bool) : roundV ty rm (.nan sig) = (canonNaN ty, if sig then flNV else 0) := by
  simp [roundV, tyIsInt, Nat.not_le.mpr h8]
theorem roundV_float_inf (h12 : ty ≤ 12) (neg : Bool) : roundV ty rm (.inf neg) =
    if 10 ≤ ty then (infOf ty neg, 0) else if rm = 5 ∨ rm = 6 then (maxFin ty neg, flOF ||| flNX) else (canonNaN ty, flNV) := by
  simp [roundV, tyIsInt, Nat.not_le.mpr h8, (fmtOf_fields h8 h12).2.2.1]

/-- The result of Round is a pattern of its floating-point type. -/
theorem roundV_float_lt (h12 : ty ≤ 12) (v : FVal) : (roundV ty rm v).1 < 2 ^ (8 * tyW ty) := by
  cases v with
  | fin m e => rw [roundV_float_fin h8]; exact roundF_lt h8 h12 rm m e
  | negZero => rw [roundV_float_negZero h8]; exact zeroOf_lt h8 h12 true
  | nan sig => rw [roundV_float_nan h8]; exact canonNaN_lt h8 h12
  | inf neg =>
    rw [roundV_float_inf h8 rm h12]
    split
    · exact infOf_lt h8 h12 neg
    · split
      · exact maxFin_lt h8 h12 neg
      · exact canonNaN_lt h8 h12
end

theorem roundV_lt {ty : Nat} (h12 : ty ≤ 12) (rm : Nat) (v : FVal) : (roundV ty rm v).1 < 2 ^ (8 * tyW ty) := by
  by_cases h7 : ty ≤ 7
  · exact roundV_int_lt h7 rm v
  · exact roundV_float_lt (by omega) rm h12 v

end Sys2Proof.Machine
end

section
namespace Sys2Proof.Machine

/-! ## One element of VCVT (R264, R409, R410) -/

theorem tyIsSigned_iff (ty : Nat) : tyIsSigned ty = true ↔ ty = 0 ∨ ty = 2 ∨ ty = 4 ∨ ty = 6 := by
  simp [tyIsSigned, or_assoc]

theorem boundOf_eq (ty : Nat) (neg : Bool) : boundOf ty neg =
    if neg then (if ty = 0 ∨ ty = 2 ∨ ty = 4 ∨ ty = 6 then 2 ^ (8 * tyW ty - 1) else 0)
    else (if ty = 0 ∨ ty = 2 ∨ ty = 4 ∨ ty = 6 then 2 ^ (8 * tyW ty - 1) - 1 else 2 ^ (8 * tyW ty) - 1) := by
  simp only [boundOf, tyIsSigned_iff]
  cases neg <;> split <;> rfl

/-- Round depends on the value alone, in any type. -/
theorem roundV_scale (ty rm : Nat) (m e : Int) (k : Nat) : roundV ty rm (.fin (m * 2 ^ k) (e - k)) = roundV ty rm (.fin m e) := by
  simp only [roundV, roundI_scale, roundF_scale]

section
variable {dt : Nat} (hdt : dt ≤ 12) (rm : Nat)
include hdt

/-- A zero of either sign converts to a zero, signed where the destination has a sign of zero. -/
theorem roundV_zero (neg : Bool) :
    roundV dt rm (if neg then .negZero else .fin 0 0) = (if neg = true ∧ 10 ≤ dt then 2 ^ (8 * tyW dt - 1) else 0, 0) := by
  by_cases h7 : dt ≤ 7
  · cases neg
    · have hrange := intLo_nonpos_intHi_nonneg dt
      simp [roundV_int_fin h7, roundI_int, fitI, hrange]
    · simp [roundV_int_negZero h7, show ¬10 ≤ dt by omega]
  · have h8 : 8 ≤ dt := by omega
    cases neg
    · simp [roundV_float_fin h8, roundF]
    · rw [if_pos rfl, roundV_float_negZero h8]
      interval_cases dt <;> rfl

/-- The row of infinities in the table of R264. -/
theorem roundV_inf (neg : Bool) : roundV dt rm (.inf neg) =
    if dt ≤ 7 then (if rm = 5 ∨ rm = 6 then boundOf dt neg else 0, 0x20)
    else if dt ≤ 9 then (if rm = 5 ∨ rm = 6 then (0x7F + if neg then 0x80 else 0, 0x0A) else (0x80, 0x20))
    else ((2 ^ expBits dt - 1) * 2 ^ fracBits dt + if neg then 2 ^ (8 * tyW dt - 1) else 0, 0) := by
  by_cases h7 : dt ≤ 7
  · rw [if_pos h7, roundV_int_inf h7]; rfl
  · have h8 : 8 ≤ dt := by omega
    rw [if_neg h7, roundV_float_inf h8 rm hdt]
    interval_cases dt <;> cases neg <;> rfl

/-- The row of NaNs in the table of R264. -/
theorem roundV_nan (sig : Bool) : roundV dt rm (.nan sig) = if dt ≤ 7 then (0, 0x20) else (canonNaN dt, if sig then 0x20 else 0) := by
  by_cases h7 : dt ≤ 7
  · rw [if_pos h7, roundV_int_nan h7]; rfl
  · rw [if_neg h7, roundV_float_nan (by omega)]; rfl

/-- Round of an element's decoded value is the conversion that R409 states. -/
theorem cvt_roundV {ty : Nat} (hty : ty ≤ 12) (u : Nat) : Cvt ty dt rm (intOf ty u) u (roundV dt rm (decodeE ty u)) := by
  unfold Cvt
  by_cases h7 : ty ≤ 7
  · rw [if_pos h7, decodeE_int h7]
  · have h8 : 8 ≤ ty := by omega
    rw [decodeE_float h8]
    dsimp only
    rw [if_neg h7]
    obtain ⟨hn, hv⟩ | ⟨hn, hi, hv⟩ | ⟨hn, hi, hz, hv⟩ | ⟨hn, hi, hz, m, k, hv, hm, -⟩ := decodeF_cases u h8 hty
    · rw [if_pos hn, hv, roundV_nan hdt]
      by_cases hd : dt ≤ 7
      · rw [if_pos hd, if_pos hd]
      · rw [if_neg hd, if_neg hd]
        interval_cases dt <;> rfl
    · rw [hv, roundV_inf hdt, boundOf_eq]
      simp [hn, hi]
    · rw [hv, roundV_zero hdt]
      simp [hn, hi, hz]
    · have hk : (-149 : Int) + k - k = -149 := by omega
      simp only [hn, hi, hz, Bool.false_eq_true, if_false]
      rw [hv, ← hm, ← roundV_scale dt rm m _ k, hk]
end

/-! ## The overflow elements of routing (R410) -/

theorem overflowed_iff (r : FRes) : overflowed r = true ↔ ¬r.2 &&& 0x28 = 0 := by
  simp [overflowed, flOF, flNV]

/-- Just the NaNs of the floating-point types decode to a NaN. -/
theorem isNan_decodeE {ty : Nat} (hty : ty ≤ 12) (u : Nat) : (decodeE ty u).isNan = true ↔ 8 ≤ ty ∧ isNaNF ty u = true := by
  by_cases h7 : ty ≤ 7
  · simp [decodeE_int h7, FVal.isNan, show ¬8 ≤ ty by omega]
  · have h8 : 8 ≤ ty := by omega
    rw [decodeE_float h8]
    obtain ⟨hn, hv⟩ | ⟨hn, -, hv⟩ | ⟨hn, -, -, hv⟩ | ⟨hn, -, -, m, k, hv, -, -⟩ := decodeF_cases u h8 hty
    · simp [hn, hv, h8, FVal.isNan]
    · simp [hn, hv, FVal.isNan]
    · cases hs : negF ty u <;> simp [hn, hv, hs, FVal.isNan]
    · simp [hn, hv, FVal.isNan]

/-- An element that overflows, a NaN apart, has the sign of its number or of its pattern. -/
theorem sign_decodeE {ty : Nat} (hty : ty ≤ 12) {dt : Nat} (hdt : dt ≤ 12) (rm u : Nat) (hnan : (decodeE ty u).isNan = false)
    (ho : overflowed (roundV dt rm (decodeE ty u)) = true) :
    (decodeE ty u).sign = if ty ≤ 7 then decide (intOf ty u < 0) else negF ty u := by
  by_cases h7 : ty ≤ 7
  · rw [if_pos h7, decodeE_int h7, FVal.sign]
  · have h8 : 8 ≤ ty := by omega
    rw [if_neg h7]
    rw [decodeE_float h8] at hnan ho ⊢
    obtain ⟨-, hv⟩ | ⟨-, -, hv⟩ | ⟨-, -, -, hv⟩ | ⟨-, -, -, m, k, hv, -, hs⟩ := decodeF_cases u h8 hty
    · simp [hv, FVal.isNan] at hnan
    · rw [hv, FVal.sign]
    · rw [hv, roundV_zero hdt] at ho
      simp [overflowed] at ho
    · rw [hv, FVal.sign, hs]

/-- What VCVT writes for a converted element: its rounded value, or under routing the bound that an overflow saturates to. -/
def routedRes (dt rm ovf : Nat) (v : FVal) : FRes :=
  if ovf ≠ 0 && overflowed (roundV dt rm v) then routed dt v (roundV dt rm v) else roundV dt rm v

section
variable {ty dt : Nat} (hty : ty ≤ 12) (hdt : dt ≤ 12) (rm ovf u : Nat)

theorem routedRes_flags (v : FVal) : (routedRes dt rm ovf v).2 = (roundV dt rm v).2 := by
  unfold routedRes routed
  split
  · split <;> rfl
  · rfl

include hdt

theorem routedRes_lt (v : FVal) : (routedRes dt rm ovf v).1 < 2 ^ (8 * tyW dt) := by
  have hround := roundV_lt hdt rm v
  unfold routedRes routed
  split
  · split
    · exact hround
    · dsimp only
      split
      · exact boundOf_lt _
      · next h => exact maxFin_lt (by simp [tyIsInt] at h; omega) hdt _
  · exact hround

include hty

/-- Routing writes what R410 states. -/
theorem routedRes_eq_routedTo :
    (routedRes dt rm ovf (decodeE ty u)).1 = routedTo ty dt (intOf ty u) u ovf (roundV dt rm (decodeE ty u)) := by
  unfold routedTo routedRes
  by_cases hover : ovf ≠ 0 ∧ overflowed (roundV dt rm (decodeE ty u)) = true
  · rw [if_pos (by simpa using hover), routed]
    cases hn : (decodeE ty u).isNan
    · have hnan : ¬(8 ≤ ty ∧ isNaNF ty u = true) := fun hc => by simp [(isNan_decodeE hty u).mpr hc] at hn
      have hkept : ¬(ovf = 0 ∨ (roundV dt rm (decodeE ty u)).2 &&& 0x28 = 0 ∨ (8 ≤ ty ∧ isNaNF ty u = true)) := by
        simp only [not_or]
        exact ⟨hover.1, (overflowed_iff _).mp hover.2, hnan⟩
      rw [if_neg Bool.false_ne_true, sign_decodeE hty hdt rm u hn hover.2]
      dsimp only
      rw [if_neg hkept]
      generalize (if ty ≤ 7 then decide (intOf ty u < 0) else negF ty u) = neg
      by_cases hd : dt ≤ 7
      · rw [if_pos hd, if_pos (by simpa [tyIsInt] using hd), boundOf_eq]
      · rw [if_neg hd, if_neg (by simpa [tyIsInt] using hd)]
        interval_cases dt <;> rfl
    · rw [if_pos rfl, if_pos (.inr (.inr ((isNan_decodeE hty u).mp hn)))]
  · rw [if_neg (by simpa using hover), if_pos]
    by_cases h0 : ovf = 0
    · exact .inl h0
    · exact .inr (.inl (not_not.mp (mt (overflowed_iff _).mpr fun ho => hover ⟨h0, ho⟩)))
end

end Sys2Proof.Machine
end

section
namespace Sys2Proof.Machine

/-! ## The elements that VCVT converts (R408, R409) -/

theorem tyW_toNat (t : BitVec 4) : tyW t.toNat = tyBytes t := rfl

theorem number_eq_intOf (t : BitVec 4) (v : Vec) (j : Nat) : number t v j = intOf t.toNat (elem v (tyBytes t) j) := by
  simp only [number, intOf, tyW_toNat, tyIsSigned, tySigned, ge_iff_le]

/-- The types of a well-formed conversion are element types, and its window is one of those that their widths leave. -/
theorem cvt_fields_of_wf {f : CvtF} (hw : f.wf = true) : f.ty.toNat ≤ 12 ∧ f.dt.toNat ≤ 12 ∧ f.pos.toNat < f.ratio := by
  simp only [CvtF.wf, Bool.and_eq_true, decide_eq_true_eq] at hw
  exact ⟨hw.1.1.1, hw.1.1.2, hw.1.2⟩

/-- An element type is 1, 2, 4 or 8 bytes wide. -/
theorem tyBytes_cases {t : BitVec 4} (h : t.toNat ≤ 12) : tyBytes t = 1 ∨ tyBytes t = 2 ∨ tyBytes t = 4 ∨ tyBytes t = 8 := by
  rw [← tyW_toNat]
  interval_cases t.toNat <;> decide

section
variable (f : CvtF)

/-- How many elements a conversion converts, and the first of its destination elements. -/
def cvtCount : Nat := 256 / max (tyBytes f.ty) (tyBytes f.dt)
def cvtFirst : Nat := if tyBytes f.dt < tyBytes f.ty then f.pos.toNat * cvtCount f else 0
/-- The source of the `i`th element that a conversion converts. -/
def cvtSource (i : Nat) : Nat := if tyBytes f.dt < tyBytes f.ty then i else f.pos.toNat * cvtCount f + i

theorem cvtWindow_eq : cvtWindow (tyW f.ty.toNat) (tyW f.dt.toNat) f.pos.toNat =
    (List.range (cvtCount f)).map fun i => (cvtSource f i, cvtFirst f + i) := by
  have hmax : Nat.max (tyBytes f.ty) (tyBytes f.dt) = max (tyBytes f.ty) (tyBytes f.dt) := rfl
  simp only [cvtWindow, tyW_toNat, cvtSource, cvtFirst, cvtCount, hmax]
  refine List.map_congr_left fun i _ => ?_
  split <;> simp

/-- The window lies in the destination. -/
theorem cvtFirst_add_lt (hw : f.wf = true) {i : Nat} (hi : i < cvtCount f) : cvtFirst f + i < 256 / tyBytes f.dt := by
  obtain ⟨hty, hdt, hpos⟩ := cvt_fields_of_wf hw
  have hmax : Nat.max (tyBytes f.ty) (tyBytes f.dt) = max (tyBytes f.ty) (tyBytes f.dt) := rfl
  have hmin : Nat.min (tyBytes f.ty) (tyBytes f.dt) = min (tyBytes f.ty) (tyBytes f.dt) := rfl
  rw [CvtF.ratio, hmax, hmin] at hpos
  unfold cvtFirst
  unfold cvtCount at hi ⊢
  obtain h | h | h | h := tyBytes_cases hty <;> obtain h' | h' | h' | h' := tyBytes_cases hdt <;> simp [h, h'] at hi hpos ⊢ <;> omega
end

section
variable (f : CvtF) (c : Ctx)

/-- The value of the `i`th element that a conversion converts, its conversion, what is written for it, and whether the mask governs it. -/
def cvtVal (i : Nat) : FVal := decodeE f.ty.toNat (lane (c.vr f.a) (tyW f.ty.toNat) (cvtSource f i))
def cvtRound (i : Nat) : FRes := roundV f.dt.toNat (rmMode c f.rm) (cvtVal f c i)
def cvtWritten (i : Nat) : FRes := routedRes f.dt.toNat (rmMode c f.rm) f.ovf.toNat (cvtVal f c i)
def cvtOn (i : Nat) : Bool := maskAt (c.mr f.mc.ms.toNat) (tyW f.dt.toNat) (cvtFirst f + i)

/-- The elements that are converted, in order, and those that overflow. -/
def cvtList : List Nat := (List.range (cvtCount f)).filter (cvtOn f c)
def cvtOverflows : List Nat := ((cvtList f c).filter fun i => overflowed (cvtRound f c i)).map (cvtFirst f + ·)

/-- What a destination element holds after a conversion. -/
def cvtLane (t : Nat) : Nat :=
  (((cvtList f c).find? fun i => cvtFirst f + i == t).map fun i => (cvtWritten f c i).1).getD
    (if decide (cvtFirst f ≤ t ∧ t < cvtFirst f + cvtCount f) && f.mc.zm then 0 else lane (c.vr f.d) (tyW f.dt.toNat) t)

theorem mem_cvtList {i : Nat} : i ∈ cvtList f c ↔ i < cvtCount f ∧ cvtOn f c i = true := by
  simp [cvtList]

/-- A destination element of the window. -/
theorem contains_cvtWindow (t : Nat) : ((cvtWindow (tyW f.ty.toNat) (tyW f.dt.toNat) f.pos.toNat).map (·.2)).contains t =
    decide (cvtFirst f ≤ t ∧ t < cvtFirst f + cvtCount f) := by
  rw [cvtWindow_eq, List.map_map, List.contains_eq_mem, decide_eq_decide]
  simp only [List.mem_map, List.mem_range, Function.comp]
  exact ⟨fun ⟨i, hi, h⟩ => by omega, fun h => ⟨t - cvtFirst f, by omega, by omega⟩⟩

theorem cvtWritten_eq (i : Nat) : cvtWritten f c i =
    if f.ovf ≠ 0 && overflowed (cvtRound f c i) then routed f.dt.toNat (cvtVal f c i) (cvtRound f c i) else cvtRound f c i := by
  have hovf : decide (f.ovf.toNat ≠ 0) = decide (f.ovf ≠ 0) := by
    rw [decide_eq_decide]
    exact not_congr (BitVec.toNat_inj (x := f.ovf) (y := 0))
  rw [cvtWritten, routedRes, hovf]
  rfl

/-- VCVT's results: its lanes, its flags and its overflow elements. -/
theorem cvtRes_eq : cvtRes f c =
    (mkVec (tyW f.dt.toNat) (cvtLane f c), (cvtList f c).foldl (fun a i => a ||| (cvtWritten f c i).2) 0, cvtOverflows f c) := by
  have hres : ((cvtWindow (tyW f.ty.toNat) (tyW f.dt.toNat) f.pos.toNat).filter fun p => maskAt (c.mr f.mc.ms.toNat) (tyW f.dt.toNat) p.2).map
      (fun p =>
        let v := decodeE f.ty.toNat (lane (c.vr f.a) (tyW f.ty.toNat) p.1)
        let r := roundV f.dt.toNat (rmMode c f.rm) v
        (p.2, overflowed r, if f.ovf ≠ 0 && overflowed r then routed f.dt.toNat v r else r)) =
      (cvtList f c).map fun i => (cvtFirst f + i, overflowed (cvtRound f c i), cvtWritten f c i) := by
    rw [cvtWindow_eq, List.filter_map, List.map_map]
    simp only [cvtWritten_eq]
    rfl
  unfold cvtRes
  simp only [hres, contains_cvtWindow, List.find?_map, List.foldl_map, List.filter_map, List.map_map]
  refine Prod.ext ?_ rfl
  refine congrArg (mkVec _) (funext fun t => ?_)
  simp only [cvtLane, Function.comp_def]
  cases (cvtList f c).find? fun i => cvtFirst f + i == t <;> rfl
theorem cvtFirst_add_inj {i j : Nat} : cvtFirst f + i = cvtFirst f + j ↔ i = j := Nat.add_left_cancel_iff

/-- A converted element. -/
theorem cvtLane_of_on {i : Nat} (hi : i ∈ cvtList f c) : cvtLane f c (cvtFirst f + i) = (cvtWritten f c i).1 := by
  have hfind : (cvtList f c).find? (fun j => cvtFirst f + j == cvtFirst f + i) = some i := by
    cases hf : (cvtList f c).find? (fun j => cvtFirst f + j == cvtFirst f + i) with
    | none => exact absurd (List.find?_eq_none.mp hf i hi) (by simp)
    | some j => simpa using List.find?_some hf
  simp only [cvtLane, hfind, Option.map_some, Option.getD_some]

/-- An element that is not converted is kept, or zeroed in the window. -/
theorem cvtLane_of_off {t : Nat} (ht : ∀ i ∈ cvtList f c, cvtFirst f + i ≠ t) : cvtLane f c t =
    if decide (cvtFirst f ≤ t ∧ t < cvtFirst f + cvtCount f) && f.mc.zm then 0 else elem (c.vr f.d) (tyBytes f.dt) t := by
  have hfind : (cvtList f c).find? (fun j => cvtFirst f + j == t) = none := List.find?_eq_none.mpr fun i hi => by simpa using ht i hi
  simp only [cvtLane, hfind, Option.map_none, Option.getD_none, lane_eq_elem, tyW_toNat]

/-- The elements that overflow are those converted whose conversion sets OF or NV. -/
theorem mem_cvtOverflows {t : Nat} :
    t ∈ cvtOverflows f c ↔ ∃ i ∈ cvtList f c, overflowed (cvtRound f c i) = true ∧ cvtFirst f + i = t := by
  simp [cvtOverflows, and_assoc]

theorem contains_cvtOverflows_of_on {i : Nat} (hi : i ∈ cvtList f c) :
    (cvtOverflows f c).contains (cvtFirst f + i) = overflowed (cvtRound f c i) := by
  rw [List.contains_eq_mem, Bool.eq_iff_iff, decide_eq_true_eq, mem_cvtOverflows]
  exact ⟨fun ⟨j, hj, ho, he⟩ => by rwa [← (cvtFirst_add_inj f).mp he], fun ho => ⟨i, hi, ho, rfl⟩⟩

theorem contains_cvtOverflows_of_off {t : Nat} (ht : ∀ i ∈ cvtList f c, cvtFirst f + i ≠ t) : (cvtOverflows f c).contains t = false := by
  rw [List.contains_eq_mem, decide_eq_false_iff_not, mem_cvtOverflows]
  exact fun ⟨i, hi, _, he⟩ => ht i hi he

/-- Every overflow element lies in the destination, and is listed once. -/
theorem length_cvtOverflows (hw : f.wf = true) :
    ((List.range (256 / tyBytes f.dt)).filter fun t => (cvtOverflows f c).contains t).length = (cvtOverflows f c).length := by
  have hnodup : (cvtOverflows f c).Nodup := ((List.nodup_range.filter _).filter _).map fun i j h => (cvtFirst_add_inj f).mp h
  refine ((List.perm_ext_iff_of_nodup (List.nodup_range.filter _) hnodup).mpr fun t => ?_).length_eq
  simp only [List.mem_filter, List.mem_range, List.contains_eq_mem, decide_eq_true_eq]
  refine ⟨And.right, fun h => ⟨?_, h⟩⟩
  obtain ⟨i, hi, -, rfl⟩ := (mem_cvtOverflows f c).mp h
  exact cvtFirst_add_lt f hw ((mem_cvtList f c).mp hi).1

/-- A flag of a list of flags that are or-ed is one of theirs. -/
theorem getLsbD_foldl_or {α : Type} {w : Nat} (l : List α) (g : α → BitVec w) (a : BitVec w) (k : Nat) :
    (l.foldl (fun b i => b ||| g i) a).getLsbD k = true ↔ a.getLsbD k = true ∨ ∃ i ∈ l, (g i).getLsbD k = true := by
  induction l generalizing a with
  | nil => simp
  | cons x l ih => simp [ih, or_assoc]

theorem getLsbD_cvtFlags (k : Nat) : (cvtRes f c).2.1.getLsbD k = true ↔ ∃ i ∈ cvtList f c, (cvtRound f c i).2.getLsbD k = true := by
  rw [cvtRes_eq, getLsbD_foldl_or]
  simp [cvtWritten, routedRes_flags, cvtRound]
end

end Sys2Proof.Machine
end

section
namespace Sys2Proof.Machine

/-! ## Integers to integers -/

/-- The bounds of an integer type, as the patterns that stand for them. -/
theorem emod_intBounds (ty : Nat) : (intLo ty % 2 ^ (8 * tyW ty)).toNat = boundOf ty true ∧ (intHi ty % 2 ^ (8 * tyW ty)).toNat = boundOf ty false := by
  have hw : 8 * tyW ty = 8 * tyW ty - 1 + 1 := by have := tyW_pos ty; omega
  have hdouble : 2 ^ (8 * tyW ty) = 2 ^ (8 * tyW ty - 1) * 2 := by rw [← pow_succ, ← hw]
  have hpos := Nat.two_pow_pos (8 * tyW ty - 1)
  have hcast : ∀ k : Nat, (2 : Int) ^ k = ((2 ^ k : Nat) : Int) := fun k => by push_cast; rfl
  simp only [intLo, intHi, boundOf, hcast, hdouble]
  generalize 2 ^ (8 * tyW ty - 1) = half at hpos ⊢
  have hsame : ∀ a : Int, 0 ≤ a → a < (half * 2 : Nat) → a % (half * 2 : Nat) = a := fun a => Int.emod_eq_of_lt
  have hwrap : -(half : Int) % (half * 2 : Nat) = half := by
    rw [Int.emod_eq_add_self_emod]
    exact (congrArg (· % _) (by omega)).trans (hsame half (by omega) (by omega))
  cases tyIsSigned ty
  · exact ⟨by simp, by simp only [Bool.false_eq_true, if_false]; rw [hsame _ (by omega) (by omega)]; omega⟩
  · exact ⟨by simp only [if_true]; rw [hwrap]; rfl, by simp only [if_true, Bool.false_eq_true, if_false]; rw [hsame _ (by omega) (by omega)]; omega⟩

section
variable {dt : Nat} (rm : Nat) (x : Int)

/-- An integer that its type does not hold saturates to the bound of its sign. -/
theorem saturate_eq_boundOf (hout : ¬(intLo dt ≤ x ∧ x ≤ intHi dt)) :
    (max (intLo dt) (min x (intHi dt)) % 2 ^ (8 * tyW dt)).toNat = boundOf dt (decide (x < 0)) := by
  obtain ⟨hlo, hhi⟩ := emod_intBounds dt
  obtain ⟨hlo0, hhi0⟩ := intLo_nonpos_intHi_nonneg dt
  by_cases hx : x < 0
  · rw [decide_eq_true hx, ← hlo, show max (intLo dt) (min x (intHi dt)) = intLo dt by omega]
  · rw [decide_eq_false hx, ← hhi, show max (intLo dt) (min x (intHi dt)) = intHi dt by omega]

theorem fitI_of_inside (hin : intLo dt ≤ x ∧ x ≤ intHi dt) : fitI dt rm x true = ((x % 2 ^ (8 * tyW dt)).toNat, 0) := by
  simp [fitI, hin]

theorem fitI_of_outside (hout : ¬(intLo dt ≤ x ∧ x ≤ intHi dt)) : fitI dt rm x true =
    (((if rm = 5 ∨ rm = 6 then max (intLo dt) (min x (intHi dt)) else x) % 2 ^ (8 * tyW dt)).toNat, 0x20) := by
  obtain ⟨hlo0, hhi0⟩ := intLo_nonpos_intHi_nonneg dt
  have hclamp : (if x < intLo dt then intLo dt else intHi dt) = max (intLo dt) (min x (intHi dt)) := by split <;> omega
  rw [fitI, if_neg (by simpa using hout), hclamp]
  by_cases hsat : rm = 5 ∨ rm = 6
  · rw [if_pos (by simpa using hsat), if_pos hsat]; rfl
  · rw [if_neg (by simpa using hsat), if_neg hsat]; rfl

theorem overflowed_exact (n : Nat) : overflowed (n, 0) = false := by simp [overflowed]
theorem overflowed_invalid (n : Nat) : overflowed (n, 0x20) = true := by simp [overflowed, flOF, flNV]

/-- An integer overflows just where its type does not hold it, and sets NV alone. -/
theorem overflowed_fitI : overflowed (fitI dt rm x true) = !(decide (intLo dt ≤ x) && decide (x ≤ intHi dt)) := by
  by_cases hin : intLo dt ≤ x ∧ x ≤ intHi dt
  · rw [fitI_of_inside rm x hin, overflowed_exact]; simp [hin]
  · have hnot : (decide (intLo dt ≤ x) && decide (x ≤ intHi dt)) = false := by simpa using hin
    rw [fitI_of_outside rm x hin, hnot, overflowed_invalid]; rfl

theorem flags_fitI : (fitI dt rm x true).2 = if overflowed (fitI dt rm x true) then 0x20 else 0 := by
  by_cases hin : intLo dt ≤ x ∧ x ≤ intHi dt
  · rw [fitI_of_inside rm x hin, overflowed_exact]; rfl
  · rw [fitI_of_outside rm x hin, overflowed_invalid]; rfl

/-- What an integer is written as: saturated under routing and in the saturating modes, and else wrapped. -/
theorem routedRes_int (h7 : dt ≤ 7) (ovf : Nat) : (routedRes dt rm ovf (.fin x 0)).1 =
    ((if rm = 5 ∨ rm = 6 ∨ ovf ≠ 0 then max (intLo dt) (min x (intHi dt)) else x) % 2 ^ (8 * tyW dt)).toNat := by
  rw [routedRes, roundV_int_fin h7, roundI_int, overflowed_fitI]
  by_cases hin : intLo dt ≤ x ∧ x ≤ intHi dt
  · have hclamp : max (intLo dt) (min x (intHi dt)) = x := by omega
    rw [hclamp, ite_self]
    simp [hin, fitI_of_inside rm x hin]
  · have hnot : (decide (intLo dt ≤ x) && decide (x ≤ intHi dt)) = false := by simpa using hin
    rw [hnot]
    by_cases h0 : ovf = 0
    · simp [h0, fitI_of_outside rm x hin]
    · rw [if_pos (by simp [h0]), if_pos (.inr (.inr h0)), saturate_eq_boundOf x hin]
      simp [routed, FVal.isNan, FVal.sign, tyIsInt, h7]
end

section
variable (f : CvtF) (c : Ctx)

theorem elem_cvtRes {t : Nat} (ht : t < 256 / tyBytes f.dt) : elem (cvtRes f c).1 (tyBytes f.dt) t = cvtLane f c t % 2 ^ (8 * tyBytes f.dt) := by
  rw [cvtRes_eq, tyW_toNat]
  exact elem_mkVec _ _ ht

variable (hw : f.wf = true)
include hw

/-- What a conversion writes to an element that it converts. -/
theorem elem_cvtRes_of_on {i : Nat} (hi : i ∈ cvtList f c) :
    elem (cvtRes f c).1 (tyBytes f.dt) (cvtFirst f + i) = (cvtWritten f c i).1 := by
  obtain ⟨-, hdt, -⟩ := cvt_fields_of_wf hw
  rw [elem_cvtRes f c (cvtFirst_add_lt f hw ((mem_cvtList f c).mp hi).1), cvtLane_of_on f c hi]
  exact Nat.mod_eq_of_lt (routedRes_lt hdt _ _ _)

end

/-! ## What VCVT computes (R264, R408-R410) -/

section
variable (f : CvtF) (c : Ctx)

theorem cvtFirst_add (i : Nat) : cvtFirst f + i = if tyBytes f.dt < tyBytes f.ty then f.pos.toNat * cvtCount f + i else i := by
  unfold cvtFirst
  split <;> simp

theorem cvtVal_eq (i : Nat) : cvtVal f c i = decodeE f.ty.toNat (elem (c.vr f.a) (tyBytes f.ty) (cvtSource f i)) := by
  rw [cvtVal, lane_eq_elem, tyW_toNat]

/-- Elements outside the window are kept, and those in it that the mask does not govern are kept or zeroed. -/
theorem cvtRes_others {t : Nat} (ht : t < 256 / tyBytes f.dt)
    (hoff : ¬(cvtFirst f ≤ t ∧ t < cvtFirst f + cvtCount f) ∨ (c.mr f.mc.ms.toNat).getLsbD (t * tyBytes f.dt) = false) :
    elem (cvtRes f c).1 (tyBytes f.dt) t =
      (if decide (cvtFirst f ≤ t ∧ t < cvtFirst f + cvtCount f) && f.mc.zm then 0 else elem (c.vr f.d) (tyBytes f.dt) t) ∧
    (cvtOverflows f c).contains t = false := by
  have hnone : ∀ i ∈ cvtList f c, cvtFirst f + i ≠ t := by
    intro i hi he
    obtain ⟨hlt, hon⟩ := (mem_cvtList f c).mp hi
    rcases hoff with hout | hmask
    · exact hout ⟨by omega, by omega⟩
    · rw [cvtOn, maskAt, he, tyW_toNat, hmask] at hon
      exact Bool.false_ne_true hon
  refine ⟨?_, contains_cvtOverflows_of_off f c hnone⟩
  rw [elem_cvtRes f c ht, cvtLane_of_off f c hnone, Nat.mod_eq_of_lt]
  split
  · exact Nat.two_pow_pos _
  · exact elem_lt _ _ _

/-- The flags of a conversion of integers are NV where one of them overflows. -/
theorem cvtRes_flags_int (hw : f.wf = true) (hty : f.ty.toNat ≤ 7) (hdt : f.dt.toNat ≤ 7) :
    (cvtRes f c).2.1 = if (List.range (256 / tyBytes f.dt)).any fun t => (cvtOverflows f c).contains t then 0x20 else 0 := by
  have hflags (i : Nat) : (cvtRound f c i).2 = if overflowed (cvtRound f c i) then 0x20 else 0 := by
    rw [cvtRound, cvtVal, decodeE_int hty, roundV_int_fin hdt, roundI_int, ← flags_fitI]
  have hany : ((List.range (256 / tyBytes f.dt)).any fun t => (cvtOverflows f c).contains t) = true ↔
      ∃ i ∈ cvtList f c, overflowed (cvtRound f c i) = true := by
    simp only [List.any_eq_true, List.mem_range, List.contains_eq_mem, decide_eq_true_eq, mem_cvtOverflows]
    exact ⟨fun ⟨t, _, i, hi, ho, _⟩ => ⟨i, hi, ho⟩, fun ⟨i, hi, ho⟩ => ⟨_, cvtFirst_add_lt f hw ((mem_cvtList f c).mp hi).1, i, hi, ho, rfl⟩⟩
  refine BitVec.eq_of_getLsbD_eq fun k _ => ?_
  rw [Bool.eq_iff_iff, getLsbD_cvtFlags]
  by_cases h : ∃ i ∈ cvtList f c, overflowed (cvtRound f c i) = true
  · rw [if_pos (hany.mpr h)]
    refine ⟨fun ⟨i, _, hk⟩ => ?_, fun hk => ?_⟩
    · rw [hflags] at hk
      split at hk
      · exact hk
      · simp at hk
    · obtain ⟨i, hi, ho⟩ := h
      exact ⟨i, hi, by rw [hflags, if_pos ho]; exact hk⟩
  · rw [if_neg (mt hany.mp h)]
    refine ⟨fun ⟨i, hi, hk⟩ => ?_, fun hk => by simp at hk⟩
    rw [hflags, if_neg fun ho => h ⟨i, hi, ho⟩] at hk
    exact hk

/-- A converted element, by its place in the window: how it is told to overflow, and what is written for it. -/
theorem cvtRes_converted (hw : f.wf = true) {i t : Nat} (hi : i < cvtCount f) (ht : cvtFirst f + i = t)
    (hon : (c.mr f.mc.ms.toNat).getLsbD (t * tyBytes f.dt) = true) :
    (cvtOverflows f c).contains t = overflowed (cvtRound f c i) ∧ elem (cvtRes f c).1 (tyBytes f.dt) t = (cvtWritten f c i).1 := by
  subst ht
  have hmem : i ∈ cvtList f c := (mem_cvtList f c).mpr ⟨hi, hon⟩
  exact ⟨contains_cvtOverflows_of_on f c hmem, elem_cvtRes_of_on f c hw hmem⟩

/-- VCVT's results are the conversions that R264 and R408-R410 state. -/
theorem converts_cvtRes (hw : f.wf = true) :
    Converts c f (cvtRes f c).1 (cvtRes f c).2.1 fun t => (cvtOverflows f c).contains t := by
  obtain ⟨hty, hdt, -⟩ := cvt_fields_of_wf hw
  constructor
  case others =>
    intro t ht n first inside on
    refine ⟨fun hin => ?_, fun hin hon => ?_⟩
    · simpa [show ¬(cvtFirst f ≤ t ∧ t < cvtFirst f + cvtCount f) from hin] using cvtRes_others f c ht (.inl hin)
    · simpa [show cvtFirst f ≤ t ∧ t < cvtFirst f + cvtCount f from hin] using cvtRes_others f c ht (.inr hon)
  case value =>
    intro hti hdi n w lo hi mode
    refine ⟨?_, cvtRes_flags_int f c hw hti hdi⟩
    intro i hin p t x hon
    obtain ⟨hout, hval⟩ := cvtRes_converted f c hw hin (show cvtFirst f + i = t from cvtFirst_add f i) hon
    have hx : cvtVal f c i = .fin x 0 := by
      rw [cvtVal_eq, decodeE_int hti, ← number_eq_intOf]; rfl
    refine ⟨?_, ?_⟩
    · rw [hout, cvtRound, hx, roundV_int_fin hdi, roundI_int, overflowed_fitI]; rfl
    · have hovf : f.ovf.toNat ≠ 0 ↔ f.ovf ≠ 0 := not_congr (BitVec.toNat_inj (x := f.ovf) (y := 0))
      rw [hval, cvtWritten, hx, routedRes_int _ _ hdi]
      simp only [hovf]
      rfl
  case cvt =>
    intro n mode narrow at' on
    have hmem (i : Nat) : i ∈ cvtList f c ↔ i < n ∧ on i := by rw [mem_cvtList, cvtOn, cvtFirst_add]; rfl
    refine ⟨cvtRound f c, fun i hin hon => ?_, fun k _ => ?_⟩
    · obtain ⟨hout, hval⟩ := cvtRes_converted f c hw hin (show cvtFirst f + i = at' i from cvtFirst_add f i) hon
      intro from' x u
      have hx : x = intOf f.ty.toNat u := number_eq_intOf _ _ _
      have hv : cvtVal f c i = decodeE f.ty.toNat u := cvtVal_eq f c i
      rw [hx]
      refine ⟨?_, hout, ?_⟩
      · rw [cvtRound, hv]; exact cvt_roundV hdt _ hty u
      · rw [hval, cvtWritten, cvtRound, hv]; exact routedRes_eq_routedTo hty hdt _ _ u
    · simp only [getLsbD_cvtFlags, hmem, and_assoc]
end

end Sys2Proof.Machine
end

section
namespace Sys2Proof.Machine

/-! ## Two writes of one key -/

section
variable {α : Type} [DecidableEq α] {d v w : α} (t : Table α) (k : Nat)

omit [DecidableEq α] in
theorem tput_tput : tput (tput t k v) k w = tput t k w := by
  induction t with
  | nil => simp [tput]
  | cons e t ih =>
    rw [tput]
    split
    · simp [tput, *]
    · split
      · simp [tput, *]
      · simp [tput, *]

omit [DecidableEq α] in
theorem tdel_tput : tdel (tput t k v) k = tdel t k := by
  induction t with
  | nil => simp [tput, tdel]
  | cons e t ih =>
    rw [tput]
    split
    · simp [tdel, *]
    · split
      · simp [tdel]
      · simp [tdel, *]

/-- Of two writes of one key the second stands, where the first lists its value. -/
theorem tset_tset (hv : v ≠ d) : tset d (tset d t k v) k w = tset d t k w := by
  simp only [tset, hv, if_false, tput_tput, tdel_tput]
end

theorem State.modCtx_modCtx (s : State) (cid : Nat) {f g : Ctx → Ctx} (hf : f (s.ctx cid) ≠ Ctx.init) :
    (s.modCtx cid f).modCtx cid g = s.modCtx cid fun c => g (f c) := by
  rw [State.modCtx, State.ctx_modCtx_self]
  simp only [State.modCtx, State.setCtx, tset_tset _ _ hf]

/-! ## VCVT by its forms (R408-R410, R279) -/

/-- A word that has room for more results has room for fewer. -/
theorem Issues.fewer {s : State} {cid : Nat} {h : Hdr} {fs : List (Nat × Nat)} {k n : Nat} (g : Issues s cid h fs k) (hn : n ≤ k) :
    Issues s cid h fs n := ⟨g.named, g.latched, g.lets, by have := g.room; omega⟩

section
variable (f : CvtF) (s : State) (cid : Nat)

/-- What a conversion of the elements of `c0` does to a context: its vector, in flight, and its flags, at once. -/
def cvtWrite (c0 c : Ctx) : Ctx := (c.pendV f.d (cvtRes f c0).1 4).orFlags (cvtRes f c0).2.1

/-- The state after the port form has sent its token. -/
def cvtSent : State :=
  (s.sendTok cid (16 + f.c.toNat) fun _ _ => cvtToken f (s.ctx cid) (cvtOverflows f (s.ctx cid)).length).modCtx cid (cvtWrite f (s.ctx cid))

theorem cvtRes_overflows (c : Ctx) : (cvtRes f c).2.2 = cvtOverflows f c := by rw [cvtRes_eq]

theorem cvtBody_plain (ho : f.ovf = 0) : cvtBody f s cid = .next (s.modCtx cid (cvtWrite f (s.ctx cid))) := by
  simp only [cvtBody, ho]
  rfl

theorem cvtBody_mask (ho : f.ovf = 1) : cvtBody f s cid = .next (s.modCtx cid fun c =>
    (cvtWrite f (s.ctx cid) c).pendM f.c (mkMask (tyW f.dt.toNat) fun t => (cvtOverflows f (s.ctx cid)).contains t) 4) := by
  have hlisted : cvtWrite f (s.ctx cid) (s.ctx cid) ≠ Ctx.init := by
    intro he
    have hpend : (cvtWrite f (s.ctx cid) (s.ctx cid)).pend ≠ [] := by simp [cvtWrite, Ctx.pendV, Ctx.pendW_pend, discards]
    exact hpend (by rw [he]; rfl)
  have hboth := State.modCtx_modCtx s cid hlisted (g := fun c =>
    c.pendM f.c (mkMask (tyW f.dt.toNat) fun t => (cvtOverflows f (s.ctx cid)).contains t) 4)
  rw [← hboth]
  dsimp only [cvtBody]
  rw [if_neg (by rw [ho]; decide), if_pos ho, cvtRes_overflows]
  rfl

theorem cvtBody_port_failed (ho : f.ovf = 2) {code info : Nat} (ht : portTest s cid (16 + f.c.toNat) (some 0) = some (code, info)) :
    cvtBody f s cid = .trap code info 0 := by
  dsimp only [cvtBody]
  rw [if_pos ho, ht]

theorem cvtBody_port_passed (ho : f.ovf = 2) (ht : portTest s cid (16 + f.c.toNat) (some 0) = none) :
    cvtBody f s cid = .next (cvtSent f s cid) := by
  dsimp only [cvtBody]
  rw [if_pos ho, ht, cvtRes_overflows]
  rfl

theorem run_cvtSent (id : Nat) : (cvtSent f s cid).run id =
    (s.sendTok cid (16 + f.c.toNat) fun _ _ => cvtToken f (s.ctx cid) (cvtOverflows f (s.ctx cid)).length).run id := State.run_modCtx ..

/-- What the port form leaves in the contexts: its results, and one more token counted on its port. -/
theorem ctx_settle_cvtSent (h : Hdr) :
    let u := settle s cid h (.next (cvtSent f s cid))
    let c := s.ctx cid
    (u.ctx cid).pend = (cvtWrite f c c).pend ∧ (u.ctx cid).fflags = c.fflags ||| (cvtRes f c).2.1 ∧
    (u.ctx cid).moved = tset 0 c.moved (16 + f.c.toNat) (tget 0 c.moved (16 + f.c.toNat) + 1) ∧ ∀ k, k ≠ cid → u.ctx k = s.ctx k := by
  intro u c
  have hself : (cvtSent f s cid).ctx cid = cvtWrite f c (c.move (16 + f.c.toNat)) := by
    rw [cvtSent, State.ctx_modCtx_self, State.ctx_sendTok_self]
  have hu := ctx_settle_next_self s (cvtSent f s cid) cid h
  rw [hself] at hu
  refine ⟨?_, ?_, ?_, fun k hk => ?_⟩
  · rw [hu]; simp [cvtWrite, Ctx.pendV, Ctx.move, Ctx.pendW_pend]
  · rw [hu]; simp [cvtWrite, Ctx.pendV, Ctx.move]
  · rw [hu]; simp [cvtWrite, Ctx.pendV, Ctx.move, Ctx.movedOn]
  · rw [ctx_settle_next_other _ _ _ _ hk, cvtSent, State.ctx_modCtx_other _ _ hk, State.ctx_sendTok_other _ _ _ _ hk]

/-- The token of the port form: the number of overflow elements, the destination type and the firing. -/
theorem cvtToken_of_op {c : Ctx} {r n m : Nat} (hr : c.role = .op r n) (hm : m ≤ 256) : ∃ tok, cvtToken f c m = .scalar tok ∧
    tok.toNat = m * 2 ^ 48 + f.dt.toNat * 2 ^ 44 + c.fireno.toNat % 2 ^ 32 := by
  have hdt := f.dt.isLt
  have hfire := Nat.mod_lt c.fireno.toNat (y := 2 ^ 32) (by norm_num)
  refine ⟨_, rfl, ?_⟩
  have hop : c.role.isSeg = false := by rw [hr]; rfl
  rw [BitVec.toNat_ofNat, hop, if_neg Bool.false_ne_true, Nat.mod_eq_of_lt (by omega)]

theorem length_cvtOverflows_le (c : Ctx) (hw : f.wf = true) : (cvtOverflows f c).length ≤ 256 := by
  rw [← length_cvtOverflows f c hw]
  refine (List.length_filter_le _ _).trans ?_
  rw [List.length_range]
  exact Nat.div_le_self _ _
end

/-- Settles O31: `converts_cvtRes` is what is computed, and each form writes and sends it. -/
theorem conversionsComplete : Obligations.ConversionsComplete := by
  intro s cid h f g hw c writes
  obtain ⟨-, hdt, -⟩ := cvt_fields_of_wf hw
  have hexec : ∀ e, cvtBody f s cid = e → exec (.vcvt h f) s = .next (settle s cid h e) := by
    rintro e rfl
    by_cases ho : f.ovf = 1
    · exact (congrArg (fun n => issue h [(0, 3)] n (cvtBody f) s) (if_pos ho)).trans (g.runs (cvtBody f))
    · exact (congrArg (fun n => issue h [(0, 3)] n (cvtBody f) s) (if_neg ho)).trans ((g.fewer (by norm_num)).runs (cvtBody f))
  refine ⟨(cvtRes f c).1, (cvtRes f c).2.1, fun t => (cvtOverflows f c).contains t, converts_cvtRes f c hw, fun ho => ?_, fun ho => ?_, fun ho => ?_⟩
  · exact hexec _ (cvtBody_plain f s cid ho)
  · refine ⟨mkMask (tyW f.dt.toNat) fun t => (cvtOverflows f c).contains t, ?_, fun k hk => getLsbD_mkMask ?_ _ hk⟩
    · exact hexec _ (cvtBody_mask f s cid ho)
    obtain h | h | h | h := tyBytes_cases hdt <;> rw [tyW_toNat, h] <;> decide
  · intro port count
    have hsends {r n nd p} (ga : AtPort s cid port r n nd p) (hk : p.kind = 0) (hm : tget 0 c.moved port < p.count) :=
      hexec _ (cvtBody_port_passed f s cid ho (portTest_of_atPort ga hk hm))
    refine ⟨fun code info ht => hexec _ (cvtBody_port_failed f s cid ho ht), fun r n nd p i ga hk hm hi => ?_, fun r n nd p ga hk hm hi => ?_⟩
    · obtain ⟨tok, htok, hval⟩ := cvtToken_of_op f ga.role (length_cvtOverflows_le f c hw)
      have hsent := (run_cvtSent f s cid r.id).trans (run_sendTok_of_connected ga _ hi)
      refine ⟨_, _, tok, hsends ga hk hm, (run_settle_next ..).trans hsent, fun j hj => Run.sent_chan_other _ _ _ _ hj, ?_, ?_,
        ctx_settle_cvtSent f s cid h⟩
      · rw [Run.sent_chan_self, htok]
      · rw [hval, ← length_cvtOverflows f c hw]
    · have hkept := (run_cvtSent f s cid r.id).trans (run_sendTok_of_unconnected ga _ hi)
      exact ⟨_, r, hsends ga hk hm, (run_settle_next ..).trans hkept, fun _ => rfl, ctx_settle_cvtSent f s cid h⟩

end Sys2Proof.Machine
end

section
namespace Sys2Proof.Machine

/-! ## A loader's token with a value left over -/

/-- A loader of one-byte tokens at address 64, and the operator that takes them. -/
def leftoverNode : NodeD :=
  { kind := 2, phase := 0, rkind := 0, ports := [{ port := 16, kind := 0, count := 1, bound := 1 }], codeOff := 0, codeLen := 0, rounds := 1
    shape := some { image := BitVec.ofNat 512 (64 + 2 ^ 64 + 2 ^ 96 + 2 ^ 128 + 2 ^ 160 + 2 ^ 192), baseMode := 0, patches := [] }, args := 0, coll := none }

def leftoverPage : Page := { vd := 0, va := 0, size := 2 ^ 21, pa := 0, writable := true, sync := false }

/-- The loader's only request has been issued and granted, and no request of its token is over, yet a value 1 stands among what the token's requests have read. -/
def leftoverStream : NodeS :=
  { NodeS.init with run := true, latches := [leftoverPage], latched := true, got := [(0, 1)], asked := some 64, paid := 3 }

def leftoverRun : Run :=
  { fetchRun State.reset with
    graph := { fetchGraph with
      nodes := [leftoverNode, { leftoverNode with kind := 0, ports := [{ port := 0, kind := 0, count := 1, bound := 1 }], shape := none }]
      chans := [{ pnode := 0, pport := 16, cnode := 1, cport := 0, barrier := false, selector := false, depth := 1 }] }
    chans := [(0, { Chan.init with res := 1 })], nodes := [(0, leftoverStream)], place := [(0, some (.edge 0 0 false 0)), (1, some (.ctx 0))] }

/-- The machine after reset, in the next cycle, with that run and its loader's event. -/
def leftoverState : State := { State.reset.modDie 0 fun d => { d with cycles := 1 } with runs := [leftoverRun], ev := { Ev.none with unit := 1 } }

/-- The token that LOADER_ROUND sends is the value left over, 1, where memory holds 0. -/
theorem sent_leftoverState : ((nextOf (exec .loaderRound leftoverState)).bind fun t => t.run 1).map (fun r => (r.chan 0).fly) = some [{ tok := some (.scalar 1), due := 2 }] := by
  decide +kernel

/-- The clause on a served loader asks of the round only that no request of its token is over, `m = 0`, and not that nothing has been read for it, `got = []`. -/
theorem not_streamsRunTheirRounds : ¬ StreamsRunTheirRounds := by
  intro h
  have hround := h leftoverState leftoverRun 0 leftoverNode leftoverPage 64 .loaderRound 2 (by simp) rfl (by decide +kernel) rfl rfl rfl (by decide +kernel)
    (by decide +kernel) (by decide +kernel) (by decide +kernel) (by decide) nofun
  obtain ⟨-, hserved⟩ := (hround.2 rfl rfl (by decide +kernel)).2 rfl
  obtain ⟨hloads, -⟩ := hserved (by decide +kernel) (by decide) (by decide +kernel) (by decide +kernel) (.inl (by decide +kernel))
  obtain ⟨t, r', ht, hr, -, hfly, -⟩ := hloads 0 rfl (by decide +kernel) (by decide +kernel)
  have hone : (r'.chan 0).fly = [{ tok := some (.scalar 1), due := 2 }] := by
    simpa [nextOf, ht, show t.run 1 = some r' from hr] using sent_leftoverState
  exact absurd (hfly.symm.trans hone) (by decide +kernel)

/-- Refutes O53: a value left in `got` while `m = 0` goes out with the token that a loader forms (`leftoverState`), which is then not the value in memory. -/
theorem not_streamsAndCollectivesAct : ¬ Obligations.StreamsAndCollectivesAct := fun h => not_streamsRunTheirRounds h.1

end Sys2Proof.Machine
end

section
namespace Sys2Proof.Machine

/-! ## A function reset where two runs share a number -/

/-- A run of a virtual device under a number, whose collective storer 0 stands as given. -/
def gatheringRun (id vd : Nat) (st : NodeS) : Run :=
  { fetchRun State.reset with
    id := id, vd := vd, nodes := [(0, st)]
    graph := { fetchGraph with
      nodes := [{ kind := 3, phase := 0, rkind := 0, ports := [], codeOff := 0, codeLen := 0, rounds := 1, shape := none, args := 0, coll := some 64 }] } }

/-- In the first round of the collective of tag 5 among the packages 0 and 1. -/
def gathering : NodeS := { NodeS.init with run := true, desc := [5, 0, 0, 3] }

/-- The machine after reset with an idle run of virtual device 1 and two runs of virtual device 0 in one collective, the first of which bears the number of the
idle one; virtual function 1 is reset. -/
def sharedNumberState : State :=
  { State.reset with
    runs := [gatheringRun 1 0 gathering, gatheringRun 1 1 NodeS.init, gatheringRun 2 0 gathering], ev := { Ev.none with unit := 1 } }

/-- The reset withdraws the run that its number finds first from its collective, and the other member's region halts with TIMEOUT. -/
theorem halted_vfFlr_sharedNumberState :
    (nextOf (exec .vfFlr sharedNumberState)).map (fun t => t.runs.map fun r => (r.id, r.vd, r.st)) = some [(2, 0, .halted 0x1B)] := by decide +kernel

/-- The clause on VF_FLR keeps every run of another virtual device, with no premise that runs are told apart by their numbers, as the model tells them apart. -/
theorem not_resetsComplete : ¬ ResetsComplete := by
  intro h
  obtain ⟨-, -, -, -, -, hflr, -⟩ := h sharedNumberState
  obtain ⟨t, ht, hruns, -⟩ := hflr (by decide) (by decide) rfl rfl (by decide +kernel) (by decide +kernel)
  have hhalted := halted_vfFlr_sharedNumberState
  rw [ht] at hhalted
  obtain ⟨r, hr, hst⟩ := List.map_eq_singleton_iff.mp (Option.some.inj hhalted)
  obtain ⟨-, -, hst⟩ : r.id = 2 ∧ r.vd = 0 ∧ r.st = .halted 0x1B := by simpa using hst
  have hrunning : ∀ r ∈ sharedNumberState.runs, r.st = .running := by decide +kernel
  exact absurd (hst.symm.trans (hrunning r (hruns r (by simp [hr])).2)) nofun

/-- Refutes O57: where a run of another virtual device bears the number of one that is reset, its collective is aborted and another member's run halts
(`sharedNumberState`). -/
theorem not_powerResetsErrorsAndArbitersAct : ¬ Obligations.PowerResetsErrorsAndArbitersAct := fun h => not_resetsComplete h.2.1

end Sys2Proof.Machine
end

section
namespace Sys2Proof.Machine

/-! ## Which register an offset of BAR 0 reads (R65) -/

section
variable (s : State) {fn off : Nat}

theorem State.bar0_port (h : off < 0x4000) : s.bar0 fn off = BitVec.ofNat 64 (((s.vd fn).port (off / 0x1000)).status (off % 0x1000)) := by
  rw [State.bar0, if_pos h]

theorem State.bar0_vdstat (h : 0x4000 ≤ off) (h' : off < 0x5000) : s.bar0 fn off = BitVec.ofNat 64 (s.vdstat fn (off - 0x4000)) := by
  rw [State.bar0, if_neg (by omega), if_pos h']

theorem State.bar0_featmask (h : 0x10000 ≤ off) (h' : off < 0x10F80) :
    s.bar0 0 off = tget (BitVec.allOnes 64) (s.vd ((off - 0x10000) / 0x80 + 1)).featmask ((off - 0x10000) % 0x80 / 8) := by
  simp [State.bar0, show ¬off < 0x4000 by omega, show ¬off < 0x5000 by omega, show ¬0xF0000 ≤ off by omega, show off ≠ 0xF8000 by omega, h, h']

theorem State.bar0_policy (h : 0x11000 ≤ off) (h' : off < 0x11200) :
    s.bar0 0 off = BitVec.ofNat 64 (if off % 0x10 = 0 then (s.vd ((off - 0x11000) / 0x10)).pol else (s.vd ((off - 0x11000) / 0x10)).qpol) := by
  simp [State.bar0, show ¬off < 0x4000 by omega, show ¬off < 0x5000 by omega, show ¬0xF0000 ≤ off by omega, show off ≠ 0xF8000 by omega,
    show ¬off < 0x10F80 by omega, h, h']

theorem State.bar0_die (h : 0x20000 ≤ off) (h' : off < 0x20400) :
    s.bar0 0 off = BitVec.ofNat 64 ((s.die ((off - 0x20000) / 0x100)).register (off % 0x100)) := by
  simp [State.bar0, show ¬off < 0x4000 by omega, show ¬off < 0x5000 by omega, show ¬0xF0000 ≤ off by omega, show off ≠ 0xF8000 by omega,
    show ¬off < 0x10F80 by omega, show ¬off < 0x11200 by omega, h, h']

end

/-! ## The state after reset -/

@[simp] theorem vd_reset (v : Nat) : State.reset.vd v = Vd.init := rfl
@[simp] theorem die_reset (n : Nat) : State.reset.die n = Die.init := rfl

/-- The registers of a die stand at their reset values. -/
theorem bar0_die_reset {n o off : Nat} (hn : n < 4) (ho : o < 0x100) (hoff : off = 0x20000 + 0x100 * n + o) :
    State.reset.bar0 0 off = BitVec.ofNat 64 (Die.init.register o) := by
  rw [State.bar0_die _ (by omega) (by omega), die_reset, show off % 0x100 = o by omega]

/-- A port's status words are zero: nothing is accepted, and no write has been counted (R70). -/
theorem bar0_port_reset (v : Nat) {p o : Nat} (hp : p < 4) (ho : o < 0x1000) : State.reset.bar0 v (0x1000 * p + o) = 0 := by
  rw [State.bar0_port _ (by omega), vd_reset, show (0x1000 * p + o) % 0x1000 = o by omega]
  have hstatus : Port.init.status o = 0 := by simp [Port.status, Port.init]
  exact congrArg (BitVec.ofNat 64) hstatus

/-- VDSTAT reads zero but for JBASE and the virtual device's number (R68, R335). -/
theorem vdstat_reset (v : Nat) {o : Nat} (h0 : o ≠ 0) (h20 : o ≠ 0x20) : State.reset.vdstat v o = 0 := by
  simp [State.vdstat, Vd.init, h0, h20]

theorem bar0_vdstat_reset (v : Nat) {o off : Nat} (ho : o < 0x1000) (h0 : o ≠ 0) (h20 : o ≠ 0x20) (hoff : off = 0x4000 + o) : State.reset.bar0 v off = 0 := by
  subst hoff
  rw [State.bar0_vdstat _ (by omega) (by omega), Nat.add_sub_cancel_left, vdstat_reset v h0 h20]
  rfl

/-- VDPOL admits every domain, and VDQPOL is zero (R83, R99). -/
theorem policy_init : Vd.init.pol = 0x3F00 ∧ Vd.init.qpol = 0 := by decide

/-- The reset level of a bucket is its depth, 64 times its rate. -/
theorem levels_damper_init (cap v : Nat) :
    Damper.init.flRate v = 0 ∧ Damper.init.clRate cap v = cap ∧ Damper.init.wt v = 1 ∧ Damper.init.cl cap v = 64 * cap ∧ Damper.init.fl v = 0 ∧
    Damper.init.pool = 0 ∧ Damper.init.last0 = 31 := ⟨rfl, rfl, rfl, rfl, rfl, rfl, rfl⟩

/-- Settles O60: each register by the offset that reads it, from the reset value of the part it belongs to. -/
theorem resetLeavesTheStatedValues : Obligations.ResetLeavesTheStatedValues := by
  refine ⟨rfl, rfl, rfl, fun n hn => ⟨?_, ?_, ?_⟩, fun v hv => ⟨?_, ?_, fun p hp => ⟨?_, ?_, ?_⟩, ?_, ?_, ?_, ?_, ?_, ?_, ?_⟩, fun f l h0 hf hl => ?_,
    fun cls inst v _ _ => levels_damper_init _ v, by decide, fun _ _ => rfl⟩
  · exact bar0_die_reset (o := 0) hn (by decide) (by omega)
  · exact bar0_die_reset (o := 0x10) hn (by decide) (by omega)
  · exact bar0_die_reset (o := 0x18) hn (by decide) (by omega)
  · rw [State.bar0_policy _ (by omega) (by omega), if_pos (by omega), vd_reset, policy_init.1]; rfl
  · rw [State.bar0_policy _ (by omega) (by omega), if_neg (by omega), vd_reset, policy_init.2]; rfl
  · exact bar0_port_reset v hp (by decide)
  · exact bar0_port_reset v hp (by decide)
  · exact bar0_port_reset v hp (by decide)
  · exact bar0_vdstat_reset v (o := 0x008) (by decide) (by decide) (by decide) rfl
  · exact bar0_vdstat_reset v (o := 0x010) (by decide) (by decide) (by decide) rfl
  · exact bar0_vdstat_reset v (o := 0x018) (by decide) (by decide) (by decide) rfl
  · rw [State.bar0_vdstat _ (by decide) (by decide)]; rfl
  · exact bar0_vdstat_reset v (o := 0x028) (by decide) (by decide) (by decide) rfl
  · exact bar0_vdstat_reset v (o := 0x030) (by decide) (by decide) (by decide) rfl
  · exact bar0_vdstat_reset v (o := 0x038) (by decide) (by decide) (by decide) rfl
  · rw [State.bar0_featmask _ (by omega) (by omega), vd_reset]; rfl

end Sys2Proof.Machine
end

section
/-! ## No step lowers an anti-rollback count (O58)

Every operation of the model but FUSE_ADVANCE leaves the counts of the fuses as they are; the lemmas of this section say so, one for each operation, in the
order of the model. Where an operation answers a state only in some cases, its lemma is about the state that it answers. -/

namespace Sys2Proof.Machine

/-- The fuses of the state that a step answers; `d` stands for a step that answers none. -/
def fusesAfter (d : Table Nat) : Host.Outcome State Fault Refusal → Table Nat
  | .next t => t.fuses
  | _ => d

@[simp] theorem fusesAfter_next (d : Table Nat) (t : State) : fusesAfter d (.next t) = t.fuses := rfl

/-- The fuses of the state that a word's outcome carries; a trap carries none, and `d` stands for it. -/
def Eff.fusesOr (d : Table Nat) : Eff → Table Nat
  | .next s | .goto s _ | .park s _ | .wait s _ | .hold s | .last s | .fin s => s.fuses
  | .trap _ _ _ => d

section
variable (d : Table Nat) (s : State)
@[simp] theorem Eff.fusesOr_next : (Eff.next s).fusesOr d = s.fuses := rfl
@[simp] theorem Eff.fusesOr_goto (pc : Nat) : (Eff.goto s pc).fusesOr d = s.fuses := rfl
@[simp] theorem Eff.fusesOr_park (k : Park) : (Eff.park s k).fusesOr d = s.fuses := rfl
@[simp] theorem Eff.fusesOr_wait (k : Park) : (Eff.wait s k).fusesOr d = s.fuses := rfl
@[simp] theorem Eff.fusesOr_hold : (Eff.hold s).fusesOr d = s.fuses := rfl
@[simp] theorem Eff.fusesOr_last : (Eff.last s).fusesOr d = s.fuses := rfl
@[simp] theorem Eff.fusesOr_fin : (Eff.fin s).fusesOr d = s.fuses := rfl
@[simp] theorem Eff.fusesOr_trap (code info addr : Nat) : (Eff.trap code info addr).fusesOr d = d := rfl
end

/-- A list's worth of changes none of which changes a fuse. -/
@[simp] theorem foldl_fuses {α : Type*} {f : State → α → State} (h : ∀ s a, (f s a).fuses = s.fuses) (l : List α) (s : State) :
    (l.foldl f s).fuses = s.fuses := by
  induction l generalizing s with
  | nil => rfl
  | cons a l ih => rw [List.foldl_cons, ih, h]

variable {s t : State}

/-! ### Ops -/

@[simp] theorem State.sample_fuses (s : State) (cid event v : Nat) : (s.sample cid event v).fuses = s.fuses := (rfl)

@[simp] theorem State.haltRun_fuses (s : State) (id code : Nat) : (s.haltRun id code).fuses = s.fuses := (rfl)

@[simp] theorem State.onFlue_fuses (s : State) (f : Flt) : (s.onFlue f).fuses = s.fuses := (rfl)

@[simp] theorem State.deliver_fuses (s : State) (cid : Nat) (f : Flt) : (s.deliver cid f).fuses = s.fuses := by
  fun_cases State.deliver <;> simp

@[simp] theorem State.raiseAt_fuses (s : State) (cid code : Nat) (word : Word) (pc info addr : Nat) :
    (s.raiseAt cid code word pc info addr).fuses = s.fuses := by
  simp [State.raiseAt, apply_ite State.fuses]

@[simp] theorem State.raise_fuses (s : State) (cid code info addr : Nat) : (s.raise cid code info addr).fuses = s.fuses := by
  simp [State.raise]

@[simp] theorem State.raiseFree_fuses (s : State) (id code : Nat) (f : Flt) : (s.raiseFree id code f).fuses = s.fuses := by
  fun_cases State.raiseFree <;> simp

@[simp] theorem State.integrityAct_fuses (s : State) (id code src : Nat) (body : Nat → Nat → List Byte) :
    (s.integrityAct id code src body).fuses = s.fuses := by
  fun_cases State.integrityAct <;> simp

@[simp] theorem State.eccAct_fuses (s : State) (id code src kind obj node addr cycle : Nat) :
    (s.eccAct id code src kind obj node addr cycle).fuses = s.fuses := by
  simp [State.eccAct]

@[simp] theorem State.eccCtx_fuses (s : State) (cid node kind obj addr : Nat) : (s.eccCtx cid node kind obj addr).fuses = s.fuses := by
  fun_cases State.eccCtx <;> simp

@[simp] theorem State.raiseHeld_fuses (s : State) (cid : Nat) (f : Flt) : (s.raiseHeld cid f).fuses = s.fuses := by
  unfold State.raiseHeld
  split <;> simp

@[simp] theorem State.accwin_fuses (s : State) (id src kind obj node cycle : Nat) : (s.accwin id src kind obj node cycle).fuses = s.fuses := by
  unfold State.accwin
  split <;> simp

@[simp] theorem State.endTurn_fuses (s : State) (cid : Nat) : (s.endTurn cid).fuses = s.fuses := (rfl)

@[simp] theorem State.countIssue_fuses (s : State) (cid : Nat) (sw : Bool) : (s.countIssue cid sw).fuses = s.fuses := (rfl)

@[simp] theorem State.advance_fuses (s : State) (cid : Nat) (h : Hdr) (pc extra : Nat) : (s.advance cid h pc extra).fuses = s.fuses := (rfl)

@[simp] theorem State.parkCtx_fuses (s : State) (cid : Nat) (k : Park) : (s.parkCtx cid k).fuses = s.fuses := (rfl)

@[simp] theorem State.parkSample_fuses (s : State) (cid : Nat) (c : Ctx) : (s.parkSample cid c).fuses = s.fuses := by
  unfold State.parkSample
  split <;> rfl

@[simp] theorem State.unpark_fuses (s : State) (cid : Nat) : (s.unpark cid).fuses = s.fuses := by
  unfold State.unpark
  split <;> simp

@[simp] theorem State.noteIssue_fuses (s s0 : State) (cid : Nat) (sw : Bool) : (s.noteIssue s0 cid sw).fuses = s.fuses := (rfl)

@[simp] theorem settle_fuses (s : State) (cid : Nat) (h : Hdr) (e : Eff) : (settle s cid h e).fuses = e.fusesOr s.fuses := by
  cases e with
  | fin t =>
    simp only [settle, Eff.fusesOr]
    split <;> simp
  | _ => simp [settle]

theorem issueEff_fuses {h : Hdr} {fs : List (Nat × Nat)} {n : Nat} {body : State → Nat → Eff} {cid : Nat}
    (hb : (body s cid).fusesOr s.fuses = s.fuses) : (issueEff h fs n body s cid).fusesOr s.fuses = s.fuses := by
  simp only [issueEff]
  (repeat' split) <;> simp [hb]

/-- A word whose effect changes no fuse changes none. -/
theorem issue_fuses {h : Hdr} {fs : List (Nat × Nat)} {n : Nat} {body : State → Nat → Eff}
    (hb : ∀ cid, (body s cid).fusesOr s.fuses = s.fuses) : fusesAfter s.fuses (issue h fs n body s) = s.fuses := by
  unfold issue
  split
  · rfl
  · exact (settle_fuses ..).trans (issueEff_fuses (hb _))

@[simp] theorem issueX_fuses (h : Hdr) (d : Reg) (lat : Nat) (f : Ctx → Word) (s : State) :
    fusesAfter s.fuses (issueX h d lat f s) = s.fuses := issue_fuses fun _ => rfl

/-! ### Damper -/

@[simp] theorem State.setDamper_fuses (s : State) (key : Nat) (d : Damper) : (s.setDamper key d).fuses = s.fuses := (rfl)

@[simp] theorem State.setSpec_fuses (s : State) (core vd n : Nat) : (s.setSpec core vd n).fuses = s.fuses := (rfl)

@[simp] theorem State.keepSpec_fuses (s s' : State) (die v : Nat) : (s.keepSpec s' die v).fuses = s'.fuses :=
  foldl_fuses (fun _ _ => by dsimp only; split <;> simp) _ _

@[simp] theorem State.refillSpec_fuses (s : State) (core : Nat) : (s.refillSpec core).fuses = s.fuses := by
  unfold State.refillSpec
  exact foldl_fuses (fun _ _ => by simp) _ _

@[simp] theorem State.applyBand_fuses (s : State) (b : Nat × Nat × Nat × Nat × Nat) : (s.applyBand b).fuses = s.fuses := by
  simp [State.applyBand, apply_ite State.fuses]

@[simp] theorem State.applyBands_fuses (s : State) : s.applyBands.fuses = s.fuses := by
  unfold State.applyBands
  exact foldl_fuses (fun _ _ => by simp) _ _

@[simp] theorem execDamperRefill_fuses (s : State) : fusesAfter s.fuses (execDamperRefill s) = s.fuses := by
  simp only [execDamperRefill, fusesAfter_next]
  split
  · rfl
  · rw [foldl_fuses fun _ _ => by (repeat' split) <;> simp, foldl_fuses fun _ _ => by split <;> simp]
    simp

/-! ### Memory -/

@[simp] theorem State.l2Alloc_fuses (s : State) (vd pa : Nat) (fill : Bool) : (s.l2Alloc vd pa fill).fuses = s.fuses := by
  unfold State.l2Alloc
  dsimp only
  (repeat' split) <;> simp

@[simp] theorem State.devPut_fuses (s : State) (pa : Nat) (b : Byte) : (s.devPut pa b).fuses = s.fuses := by
  unfold State.devPut
  dsimp only
  (repeat' split) <;> simp

@[simp] theorem State.recordWrite_fuses (s : State) (key pa len : Nat) : (s.recordWrite key pa len).fuses = s.fuses := (rfl)

@[simp] theorem State.devStore_fuses (s : State) (pa a3 a4 : Nat) : (s.devStore pa a3 a4).fuses = s.fuses := by
  fun_induction State.devStore <;> simp_all

@[simp] theorem State.devWrite_fuses (s : State) (pa : Nat) (a3 : List Byte) : (s.devWrite pa a3).fuses = s.fuses := by
  fun_induction State.devWrite <;> simp_all

@[simp] theorem State.vWriteOn_fuses (s : State) (vd : Nat) (new : Bool) (va : Nat) (bs : List Byte) : (s.vWriteOn vd new va bs).fuses = s.fuses := by
  induction bs generalizing s new va with
  | nil => rfl
  | cons b bs ih =>
    simp only [State.vWriteOn, ih]
    (repeat' split) <;> simp

@[simp] theorem State.vWrite_fuses (s : State) (vd va : Nat) (bs : List Byte) : (s.vWrite vd va bs).fuses = s.fuses := by simp [State.vWrite]

@[simp] theorem State.fillTlb_fuses (s : State) (core : Nat) (p : Page) : (s.fillTlb core p).fuses = s.fuses := (rfl)

@[simp] theorem State.startWalk_fuses (s : State) (die vd va : Nat) : (s.startWalk die vd va).fuses = s.fuses := by
  unfold State.startWalk
  split <;> rfl

@[simp] theorem State.touchBank_fuses (s : State) (core bank node : Nat) : (s.touchBank core bank node).fuses = s.fuses := (rfl)

@[simp] theorem State.touchBanks_fuses (s : State) (cid : Nat) (es : List AElt) : (s.touchBanks cid es).fuses = s.fuses := (rfl)

@[simp] theorem State.l1Fill_fuses (s : State) (core pa : Nat) (d : BitVec 1024) : (s.l1Fill core pa d).fuses = s.fuses := by
  unfold State.l1Fill
  dsimp only
  (repeat' split) <;> simp

@[simp] theorem State.l1Use_fuses (s : State) (core pa : Nat) : (s.l1Use core pa).fuses = s.fuses := (rfl)

@[simp] theorem State.l1Put_fuses (s : State) (core pa : Nat) (b : Byte) : (s.l1Put core pa b).fuses = s.fuses := by
  unfold State.l1Put
  split <;> rfl

@[simp] theorem State.l1Store_fuses (s : State) (core pa a4 a5 : Nat) : (s.l1Store core pa a4 a5).fuses = s.fuses := by
  fun_induction State.l1Store <;> simp_all

@[simp] theorem State.l1Drop_fuses (s : State) (core pa : Nat) : (s.l1Drop core pa).fuses = s.fuses := (rfl)

@[simp] theorem State.l1Flush_fuses (s : State) (core : Nat) : (s.l1Flush core).fuses = s.fuses := by
  unfold State.l1Flush
  exact foldl_fuses (fun _ _ => by simp) _ _

@[simp] theorem State.postAs_fuses (s : State) (core id : Nat) (r : Req) : (s.postAs core id r).fuses = s.fuses := (rfl)

@[simp] theorem State.post_fuses (s : State) (core : Nat) (r : Req) : (s.post core r).fuses = s.fuses := (rfl)

@[simp] theorem State.setSync_fuses (s : State) (pa : Nat) (b : Bool) : (s.setSync pa b).fuses = s.fuses := by
  fun_cases State.setSync <;> simp

@[simp] theorem State.retire_fuses (s : State) (core : Nat) (r : Req) : (s.retire core r).fuses = s.fuses := by
  unfold State.retire
  (repeat' split) <;> simp

@[simp] theorem State.performUnit_fuses (s : State) (core : Nat) (r : Req) : (s.performUnit core r).fuses = s.fuses := by
  simp only [State.performUnit]
  (repeat' split) <;> simp [*]

@[simp] theorem State.arriveUnit_fuses (s : State) (core : Nat) (r : Req) : (s.arriveUnit core r).fuses = s.fuses := by
  unfold State.arriveUnit
  (repeat' split) <;> simp

/-! ### MemOps -/

@[simp] theorem State.addEntry_fuses (s : State) (cid bytes : Nat) (e : SpecEff) (posted : Bool) : (s.addEntry cid bytes e posted).fuses = s.fuses := (rfl)

@[simp] theorem State.bufferEff_fuses (s : State) (cid bytes : Nat) (e : SpecEff) : (s.bufferEff cid bytes e).fusesOr s.fuses = s.fuses := by
  unfold State.bufferEff
  split <;> simp [Eff.fusesOr]

@[simp] theorem State.postEff_fuses (s : State) (cid : Nat) (e : SpecEff) : (s.postEff cid e).fuses = s.fuses := (rfl)

@[simp] theorem State.applyCore_fuses (s : State) (core : Nat) (ws : List (Nat × Nat × Nat)) (write : Bool) (fe : Option Bool) :
    (s.applyCore core ws write fe).fuses = s.fuses := (rfl)

@[simp] theorem State.spawnSeen_fuses (s : State) (cid : Nat) : (s.spawnSeen cid).fuses = s.fuses := by fun_cases State.spawnSeen <;> simp

@[simp] theorem State.dropFe_fuses (s : State) (core : Nat) (q : Req) : (s.dropFe core q).fuses = s.fuses := by
  unfold State.dropFe
  split <;> simp

@[simp] theorem State.postStore_fuses (s : State) (core : Nat) (q : Req) : (s.postStore core q).fuses = s.fuses := by simp [State.postStore]

/-- The fuses of the state that the tests of a device access leave. -/
def Chk.fusesOr (d : Table Nat) : Chk → Table Nat
  | .bad e => e.fusesOr d
  | .ok s _ => s.fuses

theorem chkDev_fuses (s : State) (cid : Nat) (r : Run) (w : Want) (fe : Bool) (sz : Nat) (e : AElt) :
    (chkDev s cid r w fe sz e).fusesOr s.fuses = s.fuses := by
  simp only [chkDev]
  (repeat' split) <;> simp [Chk.fusesOr]

theorem chkDevAll_fuses (s : State) (cid : Nat) (r : Run) (w : Want) (fe : Bool) (sz : Nat) (es : List AElt) :
    (chkDevAll s cid r w fe sz es).fusesOr s.fuses = s.fuses := by
  induction es generalizing s with
  | nil => rfl
  | cons e es ih =>
    have he := chkDev_fuses s cid r w fe sz e
    cases hc : chkDev s cid r w fe sz e with
    | bad x => simpa only [chkDevAll, hc] using hc ▸ he
    | ok u pas =>
      have hu : u.fuses = s.fuses := by rwa [hc] at he
      have hes := ih u
      rw [hu] at hes
      simp only [chkDevAll, hc]
      cases hr : chkDevAll u cid r w fe sz es with
      | bad x => rwa [hr] at hes
      | ok v rest => rwa [hr] at hes

theorem fuses_of_chkDevAll_ok {pas : List Nat} (h : chkDevAll s cid r w fe sz es = .ok t pas) : t.fuses = s.fuses := by
  have := chkDevAll_fuses s cid r w fe sz es
  rwa [h] at this

theorem fuses_of_chkDevAll_bad {e : Eff} (h : chkDevAll s cid r w fe sz es = .bad e) : e.fusesOr s.fuses = s.fuses := by
  have := chkDevAll_fuses s cid r w fe sz es
  rwa [h] at this

theorem fuses_of_chkCore {noRing : Bool} {e : AElt} {x : Eff} (h : chkCore s cid r fe noRing sz e = some x) : x.fusesOr s.fuses = s.fuses := by
  simp only [chkCore] at h
  (repeat' split at h) <;> simp only [Option.some.injEq, reduceCtorEq] at h <;> rw [← h] <;> rfl

theorem fuses_of_chkCoreAll {noRing : Bool} {e : Eff} (h : chkCoreAll s cid r fe noRing sz es = some e) : e.fusesOr s.fuses = s.fuses := by
  unfold chkCoreAll at h
  split at h
  case h_1 x hx =>
    obtain ⟨a, -, ha⟩ := List.exists_of_findSome?_eq_some hx
    rw [← Option.some.inj h]
    exact fuses_of_chkCore ha
  case h_2 =>
    dsimp only at h
    (repeat' split at h) <;> simp only [Option.some.injEq, reduceCtorEq] at h <;> rw [← h] <;> rfl

@[simp] theorem storeBody_fuses (sp rel : Bool) (sz bytes : Nat) (kind : ReqKind) (es : List AElt) (data : Nat) (s : State) (cid : Nat) :
   (storeBody sp rel sz bytes kind es data s cid).fusesOr s.fuses = s.fuses := by
  simp only [storeBody]
  split
  · rfl
  split
  · simp
  split
  · split
    · exact fuses_of_chkDevAll_bad ‹_›
    · rename_i h
      rw [← fuses_of_chkDevAll_ok h]
      (repeat' split) <;> simp
  · split
    · exact fuses_of_chkCoreAll ‹_›
    · (repeat' split) <;> simp

@[simp] theorem loadBody_fuses  (sp acq : Bool) (scope sz : Nat) (f : File) (d : Nat) (es : List AElt) (s : State) (cid : Nat) :
   (loadBody sp acq scope sz f d es s cid).fusesOr s.fuses = s.fuses := by
  simp only [loadBody]
  split
  · rfl
  split
  · simp
  split
  · split
    · exact fuses_of_chkDevAll_bad ‹_›
    · rename_i h
      rw [← fuses_of_chkDevAll_ok h]
      (repeat' split) <;> simp
  · split
    · exact fuses_of_chkCoreAll ‹_›
    · (repeat' split) <;> simp

@[simp] theorem execLd_fuses (h : Hdr) (m : MemF) (s : State) : fusesAfter s.fuses (execLd h m s) = s.fuses := issue_fuses (fun _ => by simp)

@[simp] theorem execSt_fuses (h : Hdr) (m : MemF) (s : State) : fusesAfter s.fuses (execSt h m s) = s.fuses := issue_fuses (fun _ => by simp)

@[simp] theorem execLdv_fuses (h : Hdr) (m : MemF) (s : State) : fusesAfter s.fuses (execLdv h m s) = s.fuses :=
  issue_fuses (fun _ => by simp)

@[simp] theorem execStv_fuses (h : Hdr) (m : MemF) (s : State) : fusesAfter s.fuses (execStv h m s) = s.fuses :=
  issue_fuses (fun _ => by simp)

@[simp] theorem execVlds_fuses (h : Hdr) (m : MemF) (s : State) : fusesAfter s.fuses (execVlds h m s) = s.fuses :=
  issue_fuses (fun _ => by simp)

@[simp] theorem execVsts_fuses (h : Hdr) (m : MemF) (s : State) : fusesAfter s.fuses (execVsts h m s) = s.fuses :=
  issue_fuses (fun _ => by simp)

@[simp] theorem execVgath_fuses (h : Hdr) (m : MemF) (s : State) : fusesAfter s.fuses (execVgath h m s) = s.fuses :=
  issue_fuses (fun _ => by simp)

@[simp] theorem execVscat_fuses (h : Hdr) (m : MemF) (s : State) : fusesAfter s.fuses (execVscat h m s) = s.fuses :=
  issue_fuses (fun _ => by simp)

@[simp] theorem certain_fuses {body : State → Nat → Eff} {s : State} {cid : Nat} (h : (body s cid).fusesOr s.fuses = s.fuses) :
   (certain body s cid).fusesOr s.fuses = s.fuses := by
  unfold certain
  (repeat' split) <;> simp [h]

@[simp] theorem ldsBody_fuses (m : MemF) (s : State) (cid : Nat) :
   (ldsBody m s cid).fusesOr s.fuses = s.fuses := by
  simp only [ldsBody]
  split
  · rfl
  split
  · simp
  split
  · split
    · exact fuses_of_chkDevAll_bad ‹_›
    · rename_i h
      rw [← fuses_of_chkDevAll_ok h]
      (repeat' split) <;> simp
  · split
    · exact fuses_of_chkCoreAll ‹_›
    · (repeat' split) <;> simp

@[simp] theorem execLds_fuses (h : Hdr) (m : MemF) (s : State) : fusesAfter s.fuses (execLds h m s) = s.fuses :=
  issue_fuses (fun _ => by simp)

@[simp] theorem execStf_fuses (h : Hdr) (m : MemF) (s : State) : fusesAfter s.fuses (execStf h m s) = s.fuses :=
  issue_fuses (fun _ => by simp)

@[simp] theorem execFeset_fuses (h : Hdr) (m : MemF) (s : State) : fusesAfter s.fuses (execFeset h m s) = s.fuses :=
  issue_fuses (fun _ => by simp)

@[simp] theorem execFeclr_fuses (h : Hdr) (m : MemF) (s : State) : fusesAfter s.fuses (execFeclr h m s) = s.fuses :=
  issue_fuses (fun _ => by simp)

@[simp] theorem fenceBody_fuses (ord : BitVec 2) (scope : Nat) (s : State) (cid : Nat) : (fenceBody ord scope s cid).fusesOr s.fuses = s.fuses := by
  fun_cases fenceBody <;> simp [Eff.fusesOr]

@[simp] theorem execFence_fuses (h : Hdr) (ord : BitVec 2) (scope : BitVec 3) (s : State) : fusesAfter s.fuses (execFence h ord scope s) = s.fuses :=
  issue_fuses (fun _ => by simp)

@[simp] theorem execDrain_fuses (h : Hdr) (path : Reg) (s : State) : fusesAfter s.fuses (execDrain h path s) = s.fuses :=
  issue_fuses fun _ => certain_fuses (by dsimp only; split <;> rfl)

@[simp] theorem atomicBody_fuses (fn : Nat) (m : AtomF) (s : State) (cid : Nat) :
   (atomicBody fn m s cid).fusesOr s.fuses = s.fuses := by
  simp only [atomicBody]
  split
  · rfl
  split
  · simp
  split
  · exact fuses_of_chkDevAll_bad ‹_›
  · rename_i h
    rw [← fuses_of_chkDevAll_ok h]
    (repeat' split) <;> simp

@[simp] theorem issueAtomic_fuses (fn : Nat) (h : Hdr) (m : AtomF) (s : State) : fusesAfter s.fuses (issueAtomic fn h m s) = s.fuses :=
  issue_fuses (fun _ => by simp)

@[simp] theorem execAadd_fuses (h : Hdr) (m : AtomF) (s : State) : fusesAfter s.fuses (execAadd h m s) = s.fuses :=
  issue_fuses (fun _ => by simp)

@[simp] theorem execAand_fuses (h : Hdr) (m : AtomF) (s : State) : fusesAfter s.fuses (execAand h m s) = s.fuses :=
  issue_fuses (fun _ => by simp)

@[simp] theorem execAor_fuses (h : Hdr) (m : AtomF) (s : State) : fusesAfter s.fuses (execAor h m s) = s.fuses :=
  issue_fuses (fun _ => by simp)

@[simp] theorem execAxor_fuses (h : Hdr) (m : AtomF) (s : State) : fusesAfter s.fuses (execAxor h m s) = s.fuses :=
  issue_fuses (fun _ => by simp)

@[simp] theorem execAmin_fuses (h : Hdr) (m : AtomF) (s : State) : fusesAfter s.fuses (execAmin h m s) = s.fuses :=
  issue_fuses (fun _ => by simp)

@[simp] theorem execAmax_fuses (h : Hdr) (m : AtomF) (s : State) : fusesAfter s.fuses (execAmax h m s) = s.fuses :=
  issue_fuses (fun _ => by simp)

@[simp] theorem execAminu_fuses (h : Hdr) (m : AtomF) (s : State) : fusesAfter s.fuses (execAminu h m s) = s.fuses :=
  issue_fuses (fun _ => by simp)

@[simp] theorem execAmaxu_fuses (h : Hdr) (m : AtomF) (s : State) : fusesAfter s.fuses (execAmaxu h m s) = s.fuses :=
  issue_fuses (fun _ => by simp)

@[simp] theorem execAxchg_fuses (h : Hdr) (m : AtomF) (s : State) : fusesAfter s.fuses (execAxchg h m s) = s.fuses :=
  issue_fuses (fun _ => by simp)

@[simp] theorem execAcas_fuses (h : Hdr) (m : AtomF) (s : State) : fusesAfter s.fuses (execAcas h m s) = s.fuses :=
  issue_fuses (fun _ => by simp)

@[simp] theorem execAtas_fuses (h : Hdr) (m : AtomF) (s : State) : fusesAfter s.fuses (execAtas h m s) = s.fuses :=
  issue_fuses (fun _ => by simp)

@[simp] theorem execShld_fuses (h : Hdr) (d a : Reg) (sp : Bool) (s : State) : fusesAfter s.fuses (execShld h d a sp s) = s.fuses :=
  issue_fuses (fun _ => by simp)

@[simp] theorem execShst_fuses (h : Hdr) (d a : Reg) (sp : Bool) (s : State) : fusesAfter s.fuses (execShst h d a sp s) = s.fuses :=
  issue_fuses (fun _ => by simp)

/-! ### Scalar -/

@[simp] theorem execNop_fuses (h : Hdr) (s : State) : fusesAfter s.fuses (execNop h s) = s.fuses := by
  unfold execNop
  exact issue_fuses (fun _ => by simp [Eff.fusesOr])

@[simp] theorem execAdd_fuses (h : Hdr) (d a b : Reg) (rm : BitVec 3) (s : State) : fusesAfter s.fuses (execAdd h d a b rm s) = s.fuses :=
  issueX_fuses ..

@[simp] theorem execSub_fuses (h : Hdr) (d a b : Reg) (rm : BitVec 3) (s : State) : fusesAfter s.fuses (execSub h d a b rm s) = s.fuses :=
  issueX_fuses ..

@[simp] theorem execAnd_fuses (h : Hdr) (d a b : Reg) (s : State) : fusesAfter s.fuses (execAnd h d a b s) = s.fuses := issueX_fuses ..

@[simp] theorem execOr_fuses (h : Hdr) (d a b : Reg) (s : State) : fusesAfter s.fuses (execOr h d a b s) = s.fuses := issueX_fuses ..

@[simp] theorem execXor_fuses (h : Hdr) (d a b : Reg) (s : State) : fusesAfter s.fuses (execXor h d a b s) = s.fuses := issueX_fuses ..

@[simp] theorem execAndn_fuses (h : Hdr) (d a b : Reg) (s : State) : fusesAfter s.fuses (execAndn h d a b s) = s.fuses := issueX_fuses ..

@[simp] theorem execShl_fuses (h : Hdr) (d a b : Reg) (s : State) : fusesAfter s.fuses (execShl h d a b s) = s.fuses := issueX_fuses ..

@[simp] theorem execShr_fuses (h : Hdr) (d a b : Reg) (s : State) : fusesAfter s.fuses (execShr h d a b s) = s.fuses := issueX_fuses ..

@[simp] theorem execSar_fuses (h : Hdr) (d a b : Reg) (s : State) : fusesAfter s.fuses (execSar h d a b s) = s.fuses := issueX_fuses ..

@[simp] theorem execRol_fuses (h : Hdr) (d a b : Reg) (s : State) : fusesAfter s.fuses (execRol h d a b s) = s.fuses := issueX_fuses ..

@[simp] theorem execRor_fuses (h : Hdr) (d a b : Reg) (s : State) : fusesAfter s.fuses (execRor h d a b s) = s.fuses := issueX_fuses ..

@[simp] theorem execMin_fuses (h : Hdr) (d a b : Reg) (s : State) : fusesAfter s.fuses (execMin h d a b s) = s.fuses := issueX_fuses ..

@[simp] theorem execMax_fuses (h : Hdr) (d a b : Reg) (s : State) : fusesAfter s.fuses (execMax h d a b s) = s.fuses := issueX_fuses ..

@[simp] theorem execMinu_fuses (h : Hdr) (d a b : Reg) (s : State) : fusesAfter s.fuses (execMinu h d a b s) = s.fuses := issueX_fuses ..

@[simp] theorem execMaxu_fuses (h : Hdr) (d a b : Reg) (s : State) : fusesAfter s.fuses (execMaxu h d a b s) = s.fuses := issueX_fuses ..

@[simp] theorem execSel_fuses (h : Hdr) (d a b pc : Reg) (s : State) : fusesAfter s.fuses (execSel h d a b pc s) = s.fuses := issueX_fuses ..

@[simp] theorem execClz_fuses (h : Hdr) (d a : Reg) (s : State) : fusesAfter s.fuses (execClz h d a s) = s.fuses := issueX_fuses ..

@[simp] theorem execCtz_fuses (h : Hdr) (d a : Reg) (s : State) : fusesAfter s.fuses (execCtz h d a s) = s.fuses := issueX_fuses ..

@[simp] theorem execPopc_fuses (h : Hdr) (d a : Reg) (s : State) : fusesAfter s.fuses (execPopc h d a s) = s.fuses := issueX_fuses ..

@[simp] theorem execBswap_fuses (h : Hdr) (d a : Reg) (s : State) : fusesAfter s.fuses (execBswap h d a s) = s.fuses := issueX_fuses ..

@[simp] theorem execBfx_fuses (h : Hdr) (d a : Reg) (imm : BitVec 13) (s : State) : fusesAfter s.fuses (execBfx h d a imm s) = s.fuses :=
  issueX_fuses ..

@[simp] theorem execBfi_fuses (h : Hdr) (d a b : Reg) (imm : BitVec 13) (s : State) : fusesAfter s.fuses (execBfi h d a b imm s) = s.fuses :=
  issueX_fuses ..

@[simp] theorem execLea_fuses (h : Hdr) (d a b : Reg) (imm : BitVec 13) (s : State) : fusesAfter s.fuses (execLea h d a b imm s) = s.fuses :=
  issueX_fuses ..

@[simp] theorem execMul_fuses (h : Hdr) (d a b : Reg) (rm : BitVec 3) (s : State) : fusesAfter s.fuses (execMul h d a b rm s) = s.fuses :=
  issueX_fuses ..

@[simp] theorem execMulh_fuses (h : Hdr) (d a b : Reg) (s : State) : fusesAfter s.fuses (execMulh h d a b s) = s.fuses := issueX_fuses ..

@[simp] theorem execMulhu_fuses (h : Hdr) (d a b : Reg) (s : State) : fusesAfter s.fuses (execMulhu h d a b s) = s.fuses := issueX_fuses ..

@[simp] theorem execDiv_fuses (h : Hdr) (d a b : Reg) (s : State) : fusesAfter s.fuses (execDiv h d a b s) = s.fuses := issueX_fuses ..

@[simp] theorem execDivu_fuses (h : Hdr) (d a b : Reg) (s : State) : fusesAfter s.fuses (execDivu h d a b s) = s.fuses := issueX_fuses ..

@[simp] theorem execRem_fuses (h : Hdr) (d a b : Reg) (s : State) : fusesAfter s.fuses (execRem h d a b s) = s.fuses := issueX_fuses ..

@[simp] theorem execRemu_fuses (h : Hdr) (d a b : Reg) (s : State) : fusesAfter s.fuses (execRemu h d a b s) = s.fuses := issueX_fuses ..

@[simp] theorem execMadd_fuses (h : Hdr) (d a b c' : Reg) (rm : BitVec 3) (s : State) : fusesAfter s.fuses (execMadd h d a b c' rm s) = s.fuses :=
  issueX_fuses ..

@[simp] theorem execAddi_fuses (h : Hdr) (d a : Reg) (imm : BitVec 32) (s : State) : fusesAfter s.fuses (execAddi h d a imm s) = s.fuses :=
  issueX_fuses ..

@[simp] theorem execAndi_fuses (h : Hdr) (d a : Reg) (imm : BitVec 32) (s : State) : fusesAfter s.fuses (execAndi h d a imm s) = s.fuses :=
  issueX_fuses ..

@[simp] theorem execOri_fuses (h : Hdr) (d a : Reg) (imm : BitVec 32) (s : State) : fusesAfter s.fuses (execOri h d a imm s) = s.fuses :=
  issueX_fuses ..

@[simp] theorem execXori_fuses (h : Hdr) (d a : Reg) (imm : BitVec 32) (s : State) : fusesAfter s.fuses (execXori h d a imm s) = s.fuses :=
  issueX_fuses ..

@[simp] theorem execShli_fuses (h : Hdr) (d a : Reg) (imm : BitVec 32) (s : State) : fusesAfter s.fuses (execShli h d a imm s) = s.fuses :=
  issueX_fuses ..

@[simp] theorem execShri_fuses (h : Hdr) (d a : Reg) (imm : BitVec 32) (s : State) : fusesAfter s.fuses (execShri h d a imm s) = s.fuses :=
  issueX_fuses ..

@[simp] theorem execSari_fuses (h : Hdr) (d a : Reg) (imm : BitVec 32) (s : State) : fusesAfter s.fuses (execSari h d a imm s) = s.fuses :=
  issueX_fuses ..

@[simp] theorem execMini_fuses (h : Hdr) (d a : Reg) (imm : BitVec 32) (s : State) : fusesAfter s.fuses (execMini h d a imm s) = s.fuses :=
  issueX_fuses ..

@[simp] theorem execMaxi_fuses (h : Hdr) (d a : Reg) (imm : BitVec 32) (s : State) : fusesAfter s.fuses (execMaxi h d a imm s) = s.fuses :=
  issueX_fuses ..

@[simp] theorem execMuli_fuses (h : Hdr) (d a : Reg) (imm : BitVec 32) (s : State) : fusesAfter s.fuses (execMuli h d a imm s) = s.fuses :=
  issueX_fuses ..

@[simp] theorem execMovi_fuses (h : Hdr) (d : Reg) (imm : BitVec 32) (s : State) : fusesAfter s.fuses (execMovi h d imm s) = s.fuses :=
  issueX_fuses ..

@[simp] theorem execMovhi_fuses (h : Hdr) (d a : Reg) (imm : BitVec 32) (s : State) : fusesAfter s.fuses (execMovhi h d a imm s) = s.fuses :=
  issueX_fuses ..

@[simp] theorem issueP_fuses (h : Hdr) (d : Reg) (f : Ctx → Bool) (s : State) : fusesAfter s.fuses (issueP h d f s) = s.fuses := by
  unfold issueP
  exact issue_fuses (fun _ => by simp [Eff.fusesOr])

@[simp] theorem execCmp_fuses (h : Hdr) (cc : BitVec 4) (d a b : Reg) (s : State) : fusesAfter s.fuses (execCmp h cc d a b s) = s.fuses := by
  unfold execCmp
  exact issue_fuses (fun _ => by simp [Eff.fusesOr])

@[simp] theorem execCmpi_fuses (h : Hdr) (cc : BitVec 4) (d a : Reg) (imm : BitVec 32) (s : State) :
    fusesAfter s.fuses (execCmpi h cc d a imm s) = s.fuses := by
  unfold execCmpi
  exact issue_fuses (fun _ => by simp [Eff.fusesOr])

@[simp] theorem execPand_fuses (h : Hdr) (d a b : Reg) (s : State) : fusesAfter s.fuses (execPand h d a b s) = s.fuses := by
  unfold execPand
  exact issue_fuses (fun _ => by simp [Eff.fusesOr])

@[simp] theorem execPor_fuses (h : Hdr) (d a b : Reg) (s : State) : fusesAfter s.fuses (execPor h d a b s) = s.fuses := by
  unfold execPor
  exact issue_fuses (fun _ => by simp [Eff.fusesOr])

@[simp] theorem execPxor_fuses (h : Hdr) (d a b : Reg) (s : State) : fusesAfter s.fuses (execPxor h d a b s) = s.fuses := by
  unfold execPxor
  exact issue_fuses (fun _ => by simp [Eff.fusesOr])

@[simp] theorem execPnot_fuses (h : Hdr) (d a : Reg) (s : State) : fusesAfter s.fuses (execPnot h d a s) = s.fuses := by
  unfold execPnot
  exact issue_fuses (fun _ => by simp [Eff.fusesOr])

@[simp] theorem execPmov_fuses (h : Hdr) (d a : Reg) (s : State) : fusesAfter s.fuses (execPmov h d a s) = s.fuses := by
  unfold execPmov
  exact issue_fuses (fun _ => by simp [Eff.fusesOr])

/-! ### Control -/

@[simp] theorem transfer_fuses (s : State) (cid : Nat) (target : Int) : (transfer s cid target).fusesOr s.fuses = s.fuses := by
  unfold transfer
  split <;> simp [Eff.fusesOr]

@[simp] theorem execBr_fuses (h : Hdr) (cc : BitVec 4) (a b : Reg) (off : BitVec 32) (s : State) : fusesAfter s.fuses (execBr h cc a b off s) = s.fuses :=
  issue_fuses fun _ => by split <;> simp

@[simp] theorem execBrp_fuses (h : Hdr) (a : Reg) (off : BitVec 32) (s : State) : fusesAfter s.fuses (execBrp h a off s) = s.fuses :=
  issue_fuses fun _ => by split <;> simp

@[simp] theorem execJmp_fuses (h : Hdr) (off : BitVec 32) (s : State) : fusesAfter s.fuses (execJmp h off s) = s.fuses :=
  issue_fuses (fun _ => by simp)

@[simp] theorem execJmpr_fuses (h : Hdr) (a : Reg) (s : State) : fusesAfter s.fuses (execJmpr h a s) = s.fuses :=
  issue_fuses (fun _ => by simp)

@[simp] theorem execCall_fuses (h : Hdr) (off : BitVec 32) (s : State) : fusesAfter s.fuses (execCall h off s) = s.fuses :=
  issue_fuses fun cid => by
    have ht := transfer_fuses s cid (relTarget s cid off)
    split
    · rename_i h
      rw [h] at ht
      simpa using ht
    · exact ht

@[simp] theorem execRet_fuses (h : Hdr) (s : State) : fusesAfter s.fuses (execRet h s) = s.fuses := issue_fuses (fun _ => by simp)

@[simp] theorem execLoop_fuses (h : Hdr) (a : Reg) (n : BitVec 32) (s : State) : fusesAfter s.fuses (execLoop h a n s) = s.fuses :=
  issue_fuses fun _ => by split <;> simp

@[simp] theorem State.endFiring_fuses (s : State) (cid : Nat) : (s.endFiring cid).fuses = s.fuses := (rfl)

@[simp] theorem State.segStep_fuses (s0 : State) (cid : Nat) (s : State) : (State.segStep s0 cid s).fuses = s.fuses := by
  simp only [State.segStep]
  (repeat' split) <;> simp

@[simp] theorem State.endSegment_fuses (s : State) (cid : Nat) : (s.endSegment cid).fuses = s.fuses := by
  unfold State.endSegment
  split <;> simp

@[simp] theorem State.finish_fuses (s : State) (cid : Nat) : (s.finish cid).fuses = s.fuses := by
  unfold State.finish
  dsimp only
  (repeat' split) <;> simp

@[simp] theorem finBody_fuses (s : State) (cid : Nat) : (finBody s cid).fusesOr s.fuses = s.fuses := by
  fun_cases finBody <;> simp [Eff.fusesOr]

@[simp] theorem execFin_fuses (h : Hdr) (s : State) : fusesAfter s.fuses (execFin h s) = s.fuses := issue_fuses (fun _ => by simp)

@[simp] theorem execYield_fuses (h : Hdr) (s : State) : fusesAfter s.fuses (execYield h s) = s.fuses := by
  unfold execYield
  exact issue_fuses (fun _ => by simp [Eff.fusesOr])

@[simp] theorem execWait_fuses (h : Hdr) (a : Reg) (imm : BitVec 32) (s : State) : fusesAfter s.fuses (execWait h a imm s) = s.fuses := by
  unfold execWait
  exact issue_fuses (fun _ => by simp [Eff.fusesOr])

@[simp] theorem execIdle_fuses (h : Hdr) (s : State) : fusesAfter s.fuses (execIdle h s) = s.fuses := by
  unfold execIdle
  exact issue_fuses (fun _ => by simp [Eff.fusesOr])

@[simp] theorem State.release_fuses (s : State) (cid v : Nat) (f : Flt) : (s.release cid v f).fuses = s.fuses := by
  unfold State.release
  dsimp only
  (repeat' split) <;> simp

@[simp] theorem hretBody_fuses (a : Reg) (s : State) (cid : Nat) : (hretBody a s cid).fusesOr s.fuses = s.fuses := by
  simp only [hretBody]
  have hb := finBody_fuses s cid
  (repeat' split) <;> simp_all

@[simp] theorem execHret_fuses (h : Hdr) (a : Reg) (s : State) : fusesAfter s.fuses (execHret h a s) = s.fuses :=
  issue_fuses (fun _ => by simp)

@[simp] theorem execTrap_fuses (h : Hdr) (k : BitVec 20) (s : State) : fusesAfter s.fuses (execTrap h k s) = s.fuses := by
  unfold execTrap
  exact issue_fuses (fun _ => by simp [Eff.fusesOr])

@[simp] theorem execBrk_fuses (h : Hdr) (k : BitVec 20) (s : State) : fusesAfter s.fuses (execBrk h k s) = s.fuses := by
  unfold execBrk
  exact issue_fuses (fun _ => by simp [Eff.fusesOr])

@[simp] theorem markBody_fuses (s : State) (cid : Nat) : (markBody s cid).fusesOr s.fuses = s.fuses := by
  fun_cases markBody <;> simp [Eff.fusesOr]

@[simp] theorem execMark_fuses (h : Hdr) (s : State) : fusesAfter s.fuses (execMark h s) = s.fuses := issue_fuses (fun _ => by simp)

/-! ### Channel -/

@[simp] theorem portFail_fuses (s : State) (cid : Nat) (nb : Bool) (pd : BitVec 3) (f : Nat × Nat) : (portFail s cid nb pd f).fusesOr s.fuses = s.fuses := by
  unfold portFail
  split <;> simp

@[simp] theorem State.popChan_fuses (s : State) (rid i : Nat) : (s.popChan rid i).fuses = s.fuses := (rfl)

@[simp] theorem recvBody_fuses (f : ChanF) (s : State) (cid : Nat) : (recvBody f s cid).fusesOr s.fuses = s.fuses := by
  simp only [recvBody]
  (repeat' split) <;> simp

@[simp] theorem execRecv_fuses (h : Hdr) (f : ChanF) (s : State) : fusesAfter s.fuses (execRecv h f s) = s.fuses :=
  issue_fuses (fun _ => by simp)

@[simp] theorem peekBody_fuses (f : ChanF) (s : State) (cid : Nat) : (peekBody f s cid).fusesOr s.fuses = s.fuses := by
  simp only [peekBody]
  (repeat' split) <;> simp

@[simp] theorem execPeek_fuses (h : Hdr) (f : ChanF) (s : State) : fusesAfter s.fuses (execPeek h f s) = s.fuses :=
  issue_fuses (fun _ => by simp)

@[simp] theorem State.sendTok_fuses (s : State) (cid port : Nat) (mk : Nat → Nat → Token) : (s.sendTok cid port mk).fuses = s.fuses := by
  unfold State.sendTok
  (repeat' split) <;> simp

@[simp] theorem sendBody_fuses (f : ChanF) (s : State) (cid : Nat) : (sendBody f s cid).fusesOr s.fuses = s.fuses := by
  simp only [sendBody]
  split <;> simp

@[simp] theorem execSend_fuses (h : Hdr) (f : ChanF) (s : State) : fusesAfter s.fuses (execSend h f s) = s.fuses :=
  issue_fuses (fun _ => by simp)

@[simp] theorem availBody_fuses (port : Nat) (x : Reg) (s : State) (cid : Nat) : (availBody port x s cid).fusesOr s.fuses = s.fuses := by
  unfold availBody
  split <;> simp [Eff.fusesOr]

@[simp] theorem execAvail_fuses (h : Hdr) (x : Reg) (port : BitVec 4) (s : State) : fusesAfter s.fuses (execAvail h x port s) = s.fuses :=
  issue_fuses (fun _ => by simp)

@[simp] theorem execFree_fuses (h : Hdr) (x : Reg) (port : BitVec 4) (s : State) : fusesAfter s.fuses (execFree h x port s) = s.fuses :=
  issue_fuses (fun _ => by simp)

@[simp] theorem sendkBody_fuses (pd : BitVec 3) (nb : Bool) (port : BitVec 4) (x : Reg) (s : State) (cid : Nat) :
    (sendkBody pd nb port x s cid).fusesOr s.fuses = s.fuses := by
  simp only [sendkBody]
  (repeat' split) <;> simp

@[simp] theorem execSendk_fuses (h : Hdr) (pd : BitVec 3) (nb : Bool) (port : BitVec 4) (x : Reg) (s : State) :
    fusesAfter s.fuses (execSendk h pd nb port x s) = s.fuses :=
  issue_fuses (fun _ => by simp)

@[simp] theorem State.chargeDie_fuses (s : State) (d : Nat) (cells : List Cell) : (s.chargeDie d cells).1.fuses = s.fuses := (rfl)

@[simp] theorem State.charge_fuses (s : State) (cells : List Cell) : (s.charge cells).1.fuses = s.fuses := by
  have step (a : State × Nat) (l : List Nat) : (l.foldl (fun (a : State × Nat) d =>
    let (t, n) := a.1.chargeDie d (cells.filter fun c => cellDie c == d)
    (t, a.2 + n)) a).1.fuses = a.1.fuses := by
    induction l generalizing a with
    | nil => rfl
    | cons d l ih => rw [List.foldl_cons, ih]; exact State.chargeDie_fuses ..
  exact step _ _

@[simp] theorem State.integrity_fuses (s : State) (rid src point row : Nat) (alone : Bool) (vk vid ck cid ident expect found : Nat) :
    (s.integrity rid src point row alone vk vid ck cid ident expect found).fuses = s.fuses := by
  simp [State.integrity]

@[simp] theorem recvkBody_fuses (pd : BitVec 3) (nb : Bool) (port : BitVec 4) (x : Reg) (s : State) (cid : Nat) :
    (recvkBody pd nb port x s cid).fusesOr s.fuses = s.fuses := by
  simp only [recvkBody]
  (repeat' split) <;> simp

@[simp] theorem execRecvk_fuses (h : Hdr) (pd : BitVec 3) (nb : Bool) (port : BitVec 4) (x : Reg) (s : State) :
    fusesAfter s.fuses (execRecvk h pd nb port x s) = s.fuses :=
  issue_fuses (fun _ => by simp)

@[simp] theorem recvkTileBody_fuses (pd : BitVec 3) (nb : Bool) (port : BitVec 4) (x : BitVec 3) (s : State) (cid : Nat) :
    (recvkTileBody pd nb port x s cid).fusesOr s.fuses = s.fuses := by
  simp only [recvkTileBody]
  (repeat' split) <;> simp

@[simp] theorem execRecvkTile_fuses (h : Hdr) (pd : BitVec 3) (nb : Bool) (port : BitVec 4) (slot : BitVec 3) (s : State) :
    fusesAfter s.fuses (execRecvkTile h pd nb port slot s) = s.fuses :=
  issue_fuses (fun _ => by simp)

@[simp] theorem State.queueSend_fuses (s : State) (cid core ctx port : Nat) (t : Token) (word : Word) (pc : Nat) :
    (s.queueSend cid core ctx port t word pc).fuses = s.fuses := (rfl)

theorem Eff.fuses_of_next {e : Eff} {d : Table Nat} {t : State} (h : e.fusesOr d = d) (he : e = .next t) : t.fuses = d := by rwa [he] at h

@[simp] theorem xsendBody_fuses  (f : ChanF) (core : BitVec 11) (ctx : BitVec 3) (s : State) (cid : Nat) :
    (xsendBody f core ctx s cid).fusesOr s.fuses = s.fuses := by
  simp only [xsendBody]
  (repeat' split) <;> simp <;> exact Eff.fuses_of_next (State.bufferEff_fuses ..) ‹_›

@[simp] theorem execXsend_fuses (h : Hdr) (f : ChanF) (core : BitVec 11) (ctx : BitVec 3) (s : State) :
    fusesAfter s.fuses (execXsend h f core ctx s) = s.fuses :=
  issue_fuses (fun _ => by simp)

@[simp] theorem injBody_fuses (a : Reg) (v : Bool) (ch : BitVec 14) (s : State) (cid : Nat) : (injBody a v ch s cid).fusesOr s.fuses = s.fuses := by
  fun_cases injBody <;> simp [Eff.fusesOr]

@[simp] theorem execInj_fuses (h : Hdr) (a : Reg) (v : Bool) (ch : BitVec 14) (s : State) : fusesAfter s.fuses (execInj h a v ch s) = s.fuses :=
  issue_fuses (fun _ => by simp)

/-! ### Matrix -/

@[simp] theorem State.setAcc_fuses (s : State) (core a : Nat) (x : Acc) : (s.setAcc core a x).fuses = s.fuses := (rfl)

@[simp] theorem State.setSlotOf_fuses (s : State) (core : Nat) (mantel : Bool) (n : Nat) (x : Slot) : (s.setSlotOf core mantel n x).fuses = s.fuses := (rfl)

@[simp] theorem State.sealFault_fuses (s : State) (core src point a i : Nat) : (s.sealFault core src point a i).fuses = s.fuses := by
  unfold State.sealFault
  split <;> simp

@[simp] theorem State.sealCheck_fuses (s : State) (core src a : Nat) : (s.sealCheck core src a).fuses = s.fuses := by
  unfold State.sealCheck
  split <;> simp

@[simp] theorem State.sealIfDone_fuses (s : State) (core src a : Nat) : (s.sealIfDone core src a).fuses = s.fuses := by
  fun_cases State.sealIfDone <;> simp

@[simp] theorem State.putTag_fuses (s : State) (core : Nat) (q : TagReq) : (s.putTag core q).fuses = s.fuses := by
  fun_cases State.putTag <;> simp

@[simp] theorem State.tag_fuses (s : State) (core : Nat) (q : TagReq) : (s.tag core q).fuses = s.fuses := by fun_cases State.tag <;> simp

theorem State.fuses_of_useAcc {cid a : Nat} (h : s.useAcc cid a = some t) : t.fuses = s.fuses := by
  simp only [State.useAcc] at h
  split at h <;> simp at h
  simp [← h]

@[simp] theorem mbindBody_fuses (f : BindF) (s : State) (cid : Nat) : (mbindBody f s cid).fusesOr s.fuses = s.fuses := by
  simp only [mbindBody]
  (repeat' split) <;> simp <;> exact State.fuses_of_useAcc ‹_›

@[simp] theorem execMbind_fuses (h : Hdr) (f : BindF) (s : State) : fusesAfter s.fuses (execMbind h f s) = s.fuses :=
  issue_fuses (fun _ => by simp)

@[simp] theorem munbindBody_fuses (d : ℕ) (s : State) (cid : Nat) : (munbindBody d s cid).fusesOr s.fuses = s.fuses := by
  simp only [munbindBody]
  (repeat' split) <;> simp <;> exact State.fuses_of_useAcc ‹_›

@[simp] theorem execMunbind_fuses (h : Hdr) (d : Reg) (s : State) : fusesAfter s.fuses (execMunbind h d s) = s.fuses :=
  issue_fuses (fun _ => by simp)

@[simp] theorem mzeroBody_fuses (d : ℕ) (s : State) (cid : Nat) : (mzeroBody d s cid).fusesOr s.fuses = s.fuses := by
  simp only [mzeroBody]
  (repeat' split) <;> simp
  exact State.fuses_of_useAcc ‹_›

@[simp] theorem execMzero_fuses (h : Hdr) (d : Reg) (s : State) : fusesAfter s.fuses (execMzero h d s) = s.fuses :=
  issue_fuses (fun _ => by simp)

@[simp] theorem mreadBody_fuses (f : MReadF) (s : State) (cid : Nat) : (mreadBody f s cid).fusesOr s.fuses = s.fuses := by
  simp only [mreadBody]
  (repeat' split) <;> simp <;> exact State.fuses_of_useAcc ‹_›

@[simp] theorem execMread_fuses (h : Hdr) (f : MReadF) (s : State) : fusesAfter s.fuses (execMread h f s) = s.fuses :=
  issue_fuses (fun _ => by simp)

@[simp] theorem msealBody_fuses (d : ℕ) (s : State) (cid : Nat) : (msealBody d s cid).fusesOr s.fuses = s.fuses := by
  simp only [msealBody]
  (repeat' split) <;> simp <;> exact State.fuses_of_useAcc ‹_›

@[simp] theorem execMseal_fuses (h : Hdr) (d : Reg) (s : State) : fusesAfter s.fuses (execMseal h d s) = s.fuses :=
  issue_fuses (fun _ => by simp)

@[simp] theorem mstatBody_fuses (d a : Reg) (s : State) (cid : Nat) : (mstatBody d a s cid).fusesOr s.fuses = s.fuses := by
  simp only [mstatBody]
  (repeat' split) <;> simp
  exact State.fuses_of_useAcc ‹_›

@[simp] theorem execMstat_fuses (h : Hdr) (d a : Reg) (s : State) : fusesAfter s.fuses (execMstat h d a s) = s.fuses :=
  issue_fuses (fun _ => by simp)

@[simp] theorem mchkBody_fuses (d a : Reg) (s : State) (cid : Nat) : (mchkBody d a s cid).fusesOr s.fuses = s.fuses := by
  simp only [mchkBody]
  (repeat' split) <;> simp <;> exact State.fuses_of_useAcc ‹_›

@[simp] theorem execMchk_fuses (h : Hdr) (d a : Reg) (s : State) : fusesAfter s.fuses (execMchk h d a s) = s.fuses :=
  issue_fuses (fun _ => by simp)

theorem State.fuses_of_useSlots {cid : Nat} {mantel : Bool} {ns : List Nat} (h : s.useSlots cid mantel ns = some t) : t.fuses = s.fuses := by
  unfold State.useSlots at h
  induction ns using List.reverseRecOn generalizing t with
  | nil => simp_all
  | append_singleton ns n ih =>
    rw [List.foldl_append, List.foldl_cons, List.foldl_nil] at h
    obtain ⟨u, hu, h⟩ := Option.bind_eq_some_iff.mp h
    dsimp only at h
    split at h
    · rw [← ih hu, ← Option.some.inj h, State.setSlotOf_fuses]
    · simp at h

@[simp] theorem twrvBody_fuses (ty : BitVec 4) (mantel : Bool) (slot : BitVec 8) (a b : Reg) (s : State) (cid : Nat) :
    (twrvBody ty mantel slot a b s cid).fusesOr s.fuses = s.fuses := by
  simp only [twrvBody]
  (repeat' split) <;> simp <;> exact State.fuses_of_useSlots ‹_›

@[simp] theorem execTwrv_fuses (h : Hdr) (ty : BitVec 4) (mantel : Bool) (slot : BitVec 8) (a b : Reg) (s : State) :
    fusesAfter s.fuses (execTwrv h ty mantel slot a b s) = s.fuses :=
  issue_fuses (fun _ => by simp)

@[simp] theorem trdvBody_fuses (ty : BitVec 4) (mantel : Bool) (slot : BitVec 8) (d a : Reg) (s : State) (cid : Nat) :
    (trdvBody ty mantel slot d a s cid).fusesOr s.fuses = s.fuses := by
  simp only [trdvBody]
  (repeat' split) <;> simp <;> exact State.fuses_of_useSlots ‹_›

@[simp] theorem execTrdv_fuses (h : Hdr) (ty : BitVec 4) (mantel : Bool) (slot : BitVec 8) (d a : Reg) (s : State) :
    fusesAfter s.fuses (execTrdv h ty mantel slot d a s) = s.fuses :=
  issue_fuses (fun _ => by simp)

@[simp] theorem tagBody_fuses (ty : Nat) (mantel : Bool) (slots : List Nat) (full : Bool) (s : State) (cid : Nat) :
    (tagBody ty mantel slots full s cid).fusesOr s.fuses = s.fuses := by
  simp only [tagBody]
  split <;> simp
  exact State.fuses_of_useSlots ‹_›

@[simp] theorem execTtag_fuses (h : Hdr) (slot : BitVec 8) (full : Bool) (s : State) : fusesAfter s.fuses (execTtag h slot full s) = s.fuses :=
  issue_fuses (fun _ => by simp)

@[simp] theorem mntagBody_fuses (ty : BitVec 4) (slot : BitVec 8) (full : Bool) (s : State) (cid : Nat) :
    (mntagBody ty slot full s cid).fusesOr s.fuses = s.fuses := by
  simp only [mntagBody]
  (repeat' split) <;> simp

@[simp] theorem execMntag_fuses (h : Hdr) (ty : BitVec 4) (slot : BitVec 8) (full : Bool) (s : State) :
    fusesAfter s.fuses (execMntag h ty slot full s) = s.fuses :=
  issue_fuses (fun _ => by simp)

@[simp] theorem State.joinGroup_fuses (s : State) (cid : Nat) (w : Word) : (s.joinGroup cid w).fuses = s.fuses := by
  unfold State.joinGroup
  exact foldl_fuses (fun _ _ => by simp) _ _

@[simp] theorem mgroupBody_fuses (d a : Reg) (s : State) (cid : Nat) : (mgroupBody d a s cid).fusesOr s.fuses = s.fuses := by
  unfold mgroupBody
  dsimp only
  (repeat' split) <;> simp [Eff.fusesOr]

@[simp] theorem execMgroup_fuses (h : Hdr) (d a : Reg) (s : State) : fusesAfter s.fuses (execMgroup h d a s) = s.fuses :=
  issue_fuses (fun _ => by simp)

@[simp] theorem mreduceBody_fuses (d a : Reg) (acc : BitVec 4) (s : State) (cid : Nat) : (mreduceBody d a acc s cid).fusesOr s.fuses = s.fuses := by
  simp only [mreduceBody]
  (repeat' split) <;> simp
  exact State.fuses_of_useAcc ‹_›

@[simp] theorem execMreduce_fuses (h : Hdr) (d a : Reg) (acc : BitVec 4) (s : State) : fusesAfter s.fuses (execMreduce h d a acc s) = s.fuses :=
  issue_fuses (fun _ => by simp)

@[simp] theorem execMreduceReceipt_fuses (s : State) : fusesAfter s.fuses (execMreduceReceipt s) = s.fuses := by
  simp only [execMreduceReceipt, fusesAfter_next]
  (repeat' split) <;> (try simp) <;> exact foldl_fuses (fun _ _ => State.modCtx_fuses ..) _ _

@[simp] theorem State.endFire_fuses (s : State) (core a : Nat) : (s.endFire core a).fuses = s.fuses := by
  simp only [State.endFire]
  split
  · (repeat' split) <;> simp
  · simp

@[simp] theorem execFire_fuses (s : State) : fusesAfter s.fuses (execFire s) = s.fuses := by
  unfold execFire
  simp only [fusesAfter_next]
  (repeat' split) <;> simp [*]

@[simp] theorem execMreadServe_fuses (s : State) : fusesAfter s.fuses (execMreadServe s) = s.fuses := by
  unfold execMreadServe
  simp only [fusesAfter_next]
  (repeat' split) <;> simp [*]

@[simp] theorem execBellowsTick_fuses (s : State) : fusesAfter s.fuses (execBellowsTick s) = s.fuses := (rfl)

@[simp] theorem execDummyFire_fuses (s : State) : fusesAfter s.fuses (execDummyFire s) = s.fuses := by
  unfold execDummyFire
  simp only [fusesAfter_next]
  (repeat' split) <;> simp [*]

/-! ### Copy -/

@[simp] theorem execShset_fuses (h : Hdr) (d a : Reg) (field : BitVec 4) (s : State) : fusesAfter s.fuses (execShset h d a field s) = s.fuses := by
  unfold execShset
  exact issue_fuses (fun _ => by simp [Eff.fusesOr])

@[simp] theorem execShget_fuses (h : Hdr) (d a : Reg) (field : BitVec 4) (s : State) : fusesAfter s.fuses (execShget h d a field s) = s.fuses :=
  issueX_fuses ..

@[simp] theorem State.useCopyBanks_fuses (s : State) (cid : Nat) (p : Copy) : (s.useCopyBanks cid p).fuses = s.fuses := (rfl)

theorem State.fuses_of_useCopySlots {cid : Nat} {p : Copy} (h : s.useCopySlots cid p = some t) : t.fuses = s.fuses := by
  have one {s t : State} (sp : Nat) (l : List (Int × Int)) (h : (if sp = 2 then s.useSlots cid true (slotsOfSpans 2 l)
      else if sp = 3 then s.useSlots cid false (slotsOfSpans 3 l) else some s) = some t) : t.fuses = s.fuses := by
    split at h
    · exact State.fuses_of_useSlots h
    · split at h
      · exact State.fuses_of_useSlots h
      · rw [Option.some.inj h]
  obtain ⟨u, hu, h⟩ := Option.bind_eq_some_iff.mp h
  exact (one _ _ h).trans (one _ _ hu)

@[simp] theorem copyBody_fuses (mode : Nat) (f : CopyF) (s : State) (cid : Nat) : (copyBody mode f s cid).fusesOr s.fuses = s.fuses := by
  simp only [copyBody]
  (repeat' split) <;> simp <;> exact State.fuses_of_useCopySlots ‹_›

@[simp] theorem execCopy_fuses (h : Hdr) (f : CopyF) (s : State) : fusesAfter s.fuses (execCopy h f s) = s.fuses :=
  issue_fuses (fun _ => by simp)

@[simp] theorem execCopyg_fuses (h : Hdr) (f : CopyF) (s : State) : fusesAfter s.fuses (execCopyg h f s) = s.fuses :=
  issue_fuses (fun _ => by simp)

@[simp] theorem execCopys_fuses (h : Hdr) (f : CopyF) (s : State) : fusesAfter s.fuses (execCopys h f s) = s.fuses :=
  issue_fuses (fun _ => by simp)

@[simp] theorem State.spaceStore_fuses (s : State) (core vd sp a n w : Nat) : (s.spaceStore core vd sp a n w).fuses = s.fuses := by
  unfold State.spaceStore
  split <;> simp

@[simp] theorem State.copyFe_fuses (s : State) (p : Copy) (k pa : Nat) : (s.copyFe p k pa).fuses = s.fuses := by
  unfold State.copyFe
  split
  · rfl
  split
  · exact foldl_fuses (fun _ _ => by split <;> simp) _ _
  (repeat' split) <;> simp

@[simp] theorem State.modCopy_fuses (s : State) (core tag : Nat) (f : Copy → Copy) : (s.modCopy core tag f).fuses = s.fuses := (rfl)

@[simp] theorem State.copyFault_fuses (s : State) (p : Copy) (code addr : Nat) : (s.copyFault p code addr).fuses = s.fuses := by
  simp [State.copyFault]

@[simp] theorem State.copyElt_fuses (s : State) (core vd tag : Nat) (m : Nat × Nat × Nat) : (s.copyElt core vd tag m).fuses = s.fuses := by
  unfold State.copyElt
  dsimp only
  (repeat' split) <;> simp

@[simp] theorem State.copyUnit_fuses (s : State) (p : Copy) (ms : List (Nat × Nat × Nat)) : (s.copyUnit p ms).fuses = s.fuses := by
  unfold State.copyUnit
  exact foldl_fuses (fun _ _ => by simp) _ _

theorem fuses_of_copyElem {p : Copy} {write : Bool} {sp a len : Nat} (h : copyElem s p write sp a len = .wait t) : t.fuses = s.fuses := by
  simp only [copyElem] at h
  (repeat' split at h) <;> simp only [CopyAt.wait.injEq, reduceCtorEq] at h
  simp [← h]

theorem fuses_of_copyPair_src {p : Copy} {k : Nat} {x : CopyAt} (h : copyPair s p k = (.wait t, x)) : t.fuses = s.fuses :=
  fuses_of_copyElem (congrArg Prod.fst h)

theorem fuses_of_copyPair_dst {p : Copy} {k : Nat} {x : CopyAt} (h : copyPair s p k = (x, .wait t)) : t.fuses = s.fuses :=
  fuses_of_copyElem (congrArg Prod.snd h)

theorem fuses_of_copyMiss {p : Copy} {ks : List Nat} (h : copyMiss s p ks = some t) : t.fuses = s.fuses := by
  obtain ⟨k, -, hk⟩ := List.exists_of_findSome?_eq_some h
  split at hk
  · rw [← Option.some.inj hk]
    exact fuses_of_copyPair_src ‹_›
  · rw [← Option.some.inj hk]
    exact fuses_of_copyPair_dst ‹_›
  · simp at hk

@[simp] theorem State.copyOne_fuses (s : State) (p : Copy) (busy : List Nat) : (s.copyOne p busy).fuses = s.fuses := by
  simp only [State.copyOne]
  split
  · simp
  · exact fuses_of_copyPair_src ‹_›
  · simp
  · exact fuses_of_copyPair_dst ‹_›
  split
  · exact fuses_of_copyMiss ‹_›
  (repeat' split) <;> simp

@[simp] theorem State.copyRun_fuses (s : State) (core tag : Nat) (busy : List Nat) (a5 : Nat) : (s.copyRun core tag busy a5).fuses = s.fuses := by
  fun_induction State.copyRun <;> simp_all

@[simp] theorem execCopyTransfer_fuses (s : State) : fusesAfter s.fuses (execCopyTransfer s) = s.fuses := by
  unfold execCopyTransfer
  simp only [fusesAfter_next]
  (repeat' split) <;> simp [*]

@[simp] theorem execCopyComplete_fuses (s : State) : fusesAfter s.fuses (execCopyComplete s) = s.fuses := by
  unfold execCopyComplete
  simp only [fusesAfter_next]
  (repeat' split) <;> simp [*]

/-! ### Segments -/

@[simp] theorem State.pruneSeg_fuses (s : State) (g : Seg) : (s.pruneSeg g).fuses = s.fuses := by
  unfold State.pruneSeg
  dsimp only
  (repeat' split) <;> simp

@[simp] theorem State.endDrained_fuses (s : State) (cid : Nat) : (s.endDrained cid).fuses = s.fuses := by
  unfold State.endDrained
  split <;> simp

@[simp] theorem State.becomesCertain_fuses (s : State) (cid : Nat) : (s.becomesCertain cid).fuses = s.fuses := by
  fun_cases State.becomesCertain <;> simp

@[simp] theorem State.resolveEntry_fuses (s : State) (rid slot : Nat) (e : CondE) (o : Bool) : (s.resolveEntry rid slot e o).fuses = s.fuses := by
  simp only [State.resolveEntry]
  (repeat' split) <;> simp [*, apply_ite State.fuses]

@[simp] theorem State.unqueue_fuses (s : State) (rid cid : Nat) : (s.unqueue rid cid).fuses = s.fuses := (rfl)

@[simp] theorem spawnInto_fuses (s : State) (cid : Nat) (r : Run) (kind : Nat) (a : Reg) (args : Nat) (cc : BitVec 18) :
    (spawnInto s cid r kind a args cc).fusesOr s.fuses = s.fuses := by
  unfold spawnInto
  split <;> simp [Eff.fusesOr]

@[simp] theorem spawnBody_fuses (a : Reg) (kind : Nat) (s : State) (cid : Nat) : (spawnBody a kind s cid).fusesOr s.fuses = s.fuses := by
  simp only [spawnBody]
  (repeat' split) <;> simp

@[simp] theorem execSpawn_fuses (h : Hdr) (a : Reg) (kind : BitVec 16) (s : State) : fusesAfter s.fuses (execSpawn h a kind s) = s.fuses :=
  issue_fuses (fun _ => by simp)

@[simp] theorem condBody_fuses (d : Reg) (site : Nat) (s : State) (cid : Nat) : (condBody d site s cid).fusesOr s.fuses = s.fuses := by
  fun_cases condBody <;> simp [Eff.fusesOr]

@[simp] theorem execCond_fuses (h : Hdr) (d : Reg) (site : BitVec 6) (s : State) : fusesAfter s.fuses (execCond h d site s) = s.fuses :=
  issue_fuses (fun _ => by simp)

@[simp] theorem spawncBody_fuses (d a : Reg) (taken : Bool) (kind : Nat) (s : State) (cid : Nat) :
    (spawncBody d a taken kind s cid).fusesOr s.fuses = s.fuses := by
  simp only [spawncBody]
  (repeat' split) <;> simp

@[simp] theorem execSpawnc_fuses (h : Hdr) (d a : Reg) (taken : Bool) (kind : BitVec 16) (s : State) :
    fusesAfter s.fuses (execSpawnc h d a taken kind s) = s.fuses :=
  issue_fuses (fun _ => by simp)

theorem State.fuses_of_resolveNow {s t : State} {rid : Nat} {h : Word} {o : Bool} (ht : s.resolveNow rid h o = some t) : t.fuses = s.fuses := by
  simp only [State.resolveNow] at ht
  (repeat' split at ht) <;> simp only [Option.some.injEq, reduceCtorEq] at ht <;> simp [← ht]

@[simp] theorem resolveBody_fuses (a b : Reg) (s : State) (cid : Nat) : (resolveBody a b s cid).fusesOr s.fuses = s.fuses := by
  simp only [resolveBody]
  (repeat' split) <;> simp
  exact State.fuses_of_resolveNow ‹_›

@[simp] theorem execResolve_fuses (h : Hdr) (a b : Reg) (s : State) : fusesAfter s.fuses (execResolve h a b s) = s.fuses :=
  issue_fuses (fun _ => by simp)

@[simp] theorem lkrdBody_fuses (d a : Reg) (side k : Nat) (s : State) (cid : Nat) : (lkrdBody d a side k s cid).fusesOr s.fuses = s.fuses := by
  fun_cases lkrdBody <;> simp [Eff.fusesOr]

@[simp] theorem execLkrd_fuses (h : Hdr) (d a : Reg) (side : BitVec 2) (k : BitVec 32) (s : State) : fusesAfter s.fuses (execLkrd h d a side k s) = s.fuses :=
  issue_fuses (fun _ => by simp)

@[simp] theorem State.modRing_fuses (s : State) (rid id : Nat) (f : Ring → Ring) : (s.modRing rid id f).fuses = s.fuses := (rfl)

@[simp] theorem rinitBody_fuses (a : Reg) (ring : Nat) (s : State) (cid : Nat) : (rinitBody a ring s cid).fusesOr s.fuses = s.fuses := by
  fun_cases rinitBody <;> simp [Eff.fusesOr]

@[simp] theorem execRinit_fuses (h : Hdr) (a : Reg) (ring : BitVec 4) (s : State) : fusesAfter s.fuses (execRinit h a ring s) = s.fuses :=
  issue_fuses (fun _ => by simp)

@[simp] theorem State.pushRing_fuses (s : State) (rid : Nat) (g : Ring) (t : Token) : (s.pushRing rid g t).fuses = s.fuses := (rfl)

@[simp] theorem State.ringOverflow_fuses (s : State) (rid id cid : Nat) : (s.ringOverflow rid id cid).fuses = s.fuses := (rfl)

@[simp] theorem rpushBody_fuses (a : Reg) (v : Bool) (ring : Nat) (s : State) (cid : Nat) : (rpushBody a v ring s cid).fusesOr s.fuses = s.fuses := by
  simp only [rpushBody]
  (repeat' split) <;> simp

@[simp] theorem execRpush_fuses (h : Hdr) (a : Reg) (v : Bool) (ring : BitVec 4) (s : State) : fusesAfter s.fuses (execRpush h a v ring s) = s.fuses :=
  issue_fuses (fun _ => by simp)

@[simp] theorem rpopBody_fuses (pop : Bool) (d : Reg) (v : Bool) (ring cons : Nat) (s : State) (cid : Nat) :
    (rpopBody pop d v ring cons s cid).fusesOr s.fuses = s.fuses := by
  unfold rpopBody
  dsimp only
  (repeat' split) <;> simp [Eff.fusesOr]

@[simp] theorem execRpop_fuses (h : Hdr) (d : Reg) (v : Bool) (ring : BitVec 4) (cons : BitVec 3) (s : State) :
    fusesAfter s.fuses (execRpop h d v ring cons s) = s.fuses :=
  issue_fuses (fun _ => by simp)

@[simp] theorem execRpeek_fuses (h : Hdr) (d : Reg) (v : Bool) (ring : BitVec 4) (cons : BitVec 3) (s : State) :
    fusesAfter s.fuses (execRpeek h d v ring cons s) = s.fuses :=
  issue_fuses (fun _ => by simp)

@[simp] theorem rcurBody_fuses (d : Reg) (ring cons : Nat) (s : State) (cid : Nat) : (rcurBody d ring cons s cid).fusesOr s.fuses = s.fuses := by
  fun_cases rcurBody <;> simp [Eff.fusesOr]

@[simp] theorem execRcur_fuses (h : Hdr) (d : Reg) (ring : BitVec 4) (cons : BitVec 3) (s : State) :
    fusesAfter s.fuses (execRcur h d ring cons s) = s.fuses :=
  issue_fuses (fun _ => by simp)

@[simp] theorem State.wakeIdle_fuses (s : State) (core : Nat) : (s.wakeIdle core).fuses = s.fuses := by
  unfold State.wakeIdle
  exact foldl_fuses (fun _ _ => by simp) _ _

@[simp] theorem execRingAccept_fuses (s : State) : fusesAfter s.fuses (execRingAccept s) = s.fuses := by
  unfold execRingAccept
  simp only [fusesAfter_next]
  (repeat' split) <;> simp [*]

@[simp] theorem State.releaseHead_fuses (s : State) (parked : List Nat) (kind : ParkKind) : (s.releaseHead parked kind).fuses = s.fuses := by
  unfold State.releaseHead
  dsimp only
  (repeat' split) <;> simp

@[simp] theorem execOverflowRelease_fuses (s : State) : fusesAfter s.fuses (execOverflowRelease s) = s.fuses := by
  unfold execOverflowRelease
  simp only [fusesAfter_next]
  (repeat' split) <;> simp [*]

@[simp] theorem State.dropOwn_fuses (s : State) (cid : Nat) : (s.dropOwn cid).fuses = s.fuses := (rfl)

@[simp] theorem State.coreTouch_fuses (s : State) (core node : Nat) (ws : List (Nat × Nat × Nat)) : (s.coreTouch core node ws).fuses = s.fuses := by
  unfold State.coreTouch
  exact foldl_fuses (fun _ _ => by simp) _ _

@[simp] theorem State.stopDrain_fuses (s : State) (rid ring cid : Nat) : (s.stopDrain rid ring cid).fuses = s.fuses := by
  unfold State.stopDrain
  dsimp only
  (repeat' split) <;> simp

@[simp] theorem State.goDrain_fuses (s : State) (rid ring cid : Nat) : (s.goDrain rid ring cid).fuses = s.fuses := by
  unfold State.goDrain
  dsimp only
  (repeat' split) <;> simp

/-! ### Elements -/

@[simp] theorem State.stopSources_fuses (s : State) (r : Run) : (s.stopSources r).fuses = s.fuses := by
  unfold State.stopSources
  exact foldl_fuses (fun _ _ => by split <;> simp) _ _

/-! ### Sync -/

@[simp] theorem State.setEpisodes_fuses (s : State) (r : Run) (scope : Nat) (l : List Episode) : (s.setEpisodes r scope l).fuses = s.fuses := by
  unfold State.setEpisodes
  split <;> rfl

@[simp] theorem State.depart_fuses (s : State) (cid : Nat) (k : BarKey) : (s.depart cid k).fuses = s.fuses := by
  simp [State.depart, apply_ite State.fuses]

@[simp] theorem State.barDone_fuses (s : State) (k : BarKey) (cid : Nat) : (s.barDone k cid).fuses = s.fuses := by
  fun_cases State.barDone <;> simp

@[simp] theorem State.arrive_fuses (s : State) (cid : Nat) (r : Run) (k : BarKey) (count : Nat) : (s.arrive cid r k count).1.fuses = s.fuses := by
  simp only [State.arrive]
  (repeat' split) <;> simp [*]

@[simp] theorem barBody_fuses (cont : Bool) (scope id count : Nat) (s : State) (cid : Nat) :
    (barBody cont scope id count s cid).fusesOr s.fuses = s.fuses := by
  unfold barBody
  dsimp only
  (repeat' split) <;> simp [Eff.fusesOr]

@[simp] theorem execBar_fuses (h : Hdr) (scope : BitVec 3) (id : BitVec 4) (count : BitVec 16) (s : State) :
    fusesAfter s.fuses (execBar h scope id count s) = s.fuses :=
  issue_fuses (fun _ => by simp)

@[simp] theorem execBara_fuses (h : Hdr) (scope : BitVec 3) (id : BitVec 4) (count : BitVec 16) (s : State) :
    fusesAfter s.fuses (execBara h scope id count s) = s.fuses :=
  issue_fuses (fun _ => by simp)

@[simp] theorem barwBody_fuses (scope id : Nat) (s : State) (cid : Nat) : (barwBody scope id s cid).fusesOr s.fuses = s.fuses := by
  fun_cases barwBody <;> simp [Eff.fusesOr]

@[simp] theorem execBarw_fuses (h : Hdr) (scope : BitVec 3) (id : BitVec 4) (s : State) : fusesAfter s.fuses (execBarw h scope id s) = s.fuses :=
  issue_fuses (fun _ => by simp)

/-! ### System -/

@[simp] theorem execQuery_fuses (h : Hdr) (d : Reg) (leaf : BitVec 4) (s : State) : fusesAfter s.fuses (execQuery h d leaf s) = s.fuses := by
  unfold execQuery
  exact issue_fuses (fun _ => by simp [Eff.fusesOr])

@[simp] theorem csrBody_fuses (n : Nat) (d a : Reg) (f : Word → Word → Word) (s : State) (cid : Nat) : (csrBody n d a f s cid).fusesOr s.fuses = s.fuses := by
  unfold csrBody
  split <;> simp [Eff.fusesOr]

@[simp] theorem execCsrr_fuses (h : Hdr) (d : Reg) (csr : BitVec 12) (s : State) : fusesAfter s.fuses (execCsrr h d csr s) = s.fuses := by
  unfold execCsrr
  exact issue_fuses (fun _ => by simp [Eff.fusesOr])

@[simp] theorem execCsrw_fuses (h : Hdr) (d a : Reg) (csr : BitVec 12) (s : State) : fusesAfter s.fuses (execCsrw h d a csr s) = s.fuses :=
  issue_fuses (fun _ => by simp)

@[simp] theorem execCsrs_fuses (h : Hdr) (d a : Reg) (csr : BitVec 12) (s : State) : fusesAfter s.fuses (execCsrs h d a csr s) = s.fuses :=
  issue_fuses (fun _ => by simp)

@[simp] theorem execCsrc_fuses (h : Hdr) (d a : Reg) (csr : BitVec 12) (s : State) : fusesAfter s.fuses (execCsrc h d a csr s) = s.fuses :=
  issue_fuses (fun _ => by simp)

/-! ### Issue -/

@[simp] theorem State.fetchFill_fuses (s : State) (cid : Nat) : (s.fetchFill cid).fuses = s.fuses := by fun_cases State.fetchFill <;> simp

@[simp] theorem State.takeTurn_fuses (s : State) (core x : Nat) : (s.takeTurn core x).fuses = s.fuses := (rfl)

@[simp] theorem State.takeFlt_fuses (s : State) (cid : Nat) : (s.takeFlt cid).fuses = s.fuses := by
  unfold State.takeFlt
  dsimp only
  (repeat' split) <;> simp

theorem State.fuses_of_drainEntry {s t : State} {cid : Nat} {e : SpecEntry} (ht : s.drainEntry cid e = some t) : t.fuses = s.fuses := by
  simp only [State.drainEntry] at ht
  (repeat' split at ht) <;> simp only [Option.some.injEq, reduceCtorEq] at ht <;> simp [← ht]
  rw [State.fuses_of_resolveNow ‹_›]
  simp

@[simp] theorem execSpecDrain_fuses (s : State) : fusesAfter s.fuses (execSpecDrain s) = s.fuses := by
  simp only [execSpecDrain, fusesAfter_next]
  (repeat' split) <;> simp
  exact State.fuses_of_drainEntry ‹_›

@[simp] theorem State.startsFiring_fuses (s : State) (cid : Nat) : (s.startsFiring cid).fuses = s.fuses := by
  unfold State.startsFiring
  (repeat' split) <;> simp

@[simp] theorem State.afterIssue_fuses (s0 s : State) (cid : Nat) : (s0.afterIssue s cid).fuses = s.fuses := by
  simp only [State.afterIssue, apply_ite State.fuses, State.modCtx_fuses]
  rw [foldl_fuses fun _ _ => by split <;> simp]
  (repeat' split) <;> simp

/-! ### Clock -/

@[simp] theorem State.chargeOcc_fuses (s : State) (p : Strip) : (s.chargeOcc p).fuses = s.fuses := by
  unfold State.chargeOcc
  split <;> rfl

@[simp] theorem State.tick_fuses (s : State) : s.tick.fuses = s.fuses := by
  simp only [State.tick]
  rw [foldl_fuses fun _ _ => by simp, foldl_fuses fun _ _ => by split <;> simp, foldl_fuses fun _ _ => by split <;> simp,
   foldl_fuses fun _ _ => by split <;> simp]

@[simp] theorem execResultWriteback_fuses (s : State) : fusesAfter s.fuses (execResultWriteback s) = s.fuses := by
  unfold execResultWriteback
  (repeat' split) <;> simp

@[simp] theorem execLandingWrite_fuses (s : State) : fusesAfter s.fuses (execLandingWrite s) = s.fuses := by
  unfold execLandingWrite
  simp only [fusesAfter_next]
  (repeat' split) <;> simp [*]

@[simp] theorem execWaitExpiry_fuses (s : State) : fusesAfter s.fuses (execWaitExpiry s) = s.fuses := by
  unfold execWaitExpiry
  (repeat' split) <;> simp

@[simp] theorem execIdleWake_fuses (s : State) : fusesAfter s.fuses (execIdleWake s) = s.fuses := by
  unfold execIdleWake
  (repeat' split) <;> simp

/-! ### Host -/

@[simp] theorem State.raiseMsix_fuses (s : State) (fn vec : Nat) : (s.raiseMsix fn vec).fuses = s.fuses := by
  unfold State.raiseMsix
  split <;> rfl

@[simp] theorem State.fqPut_fuses (s : State) (vd : Nat) (bs : List Byte) : (s.fqPut vd bs).fuses = s.fuses := by
  simp [State.fqPut, apply_ite State.fuses]

@[simp] theorem State.fqWrite_fuses (s : State) (f : Flt) : (s.fqWrite f).fuses = s.fuses := by simp [State.fqWrite]

@[simp] theorem State.modPort_fuses (s : State) (vd p : Nat) (f : Port → Port) : (s.modPort vd p f).fuses = s.fuses := (rfl)

@[simp] theorem State.modPending_fuses (s : State) (k : Nat × Nat × Nat) (f : Pending → Pending) : (s.modPending k f).fuses = s.fuses := (rfl)

@[simp] theorem State.finishCmd_fuses (s : State) (k : Nat × Nat × Nat) (status fault result : Nat) :
    (s.finishCmd k status fault result).fuses = s.fuses := (rfl)

@[simp] theorem State.finishOpt_fuses (s : State) (k : Option (Nat × Nat × Nat)) (status fault result : Nat) :
    (s.finishOpt k status fault result).fuses = s.fuses := by
  unfold State.finishOpt
  split <;> rfl

@[simp] theorem State.accept_fuses (s : State) (vd port kind : Nat) (c : Cmd) : (s.accept vd port kind c).fuses = s.fuses := by
  simp [State.accept, apply_ite State.fuses]

@[simp] theorem State.complete_fuses (s : State) (vd port : Nat) (c : Pending) (status fault result : Nat) (refused : Bool) :
    (s.complete vd port c status fault result refused).fuses = s.fuses := by
  simp [State.complete, apply_ite State.fuses]

@[simp] theorem State.addPages_fuses (s : State) (vd : Nat) (ps : List Page) : (s.addPages vd ps).fuses = s.fuses := (rfl)

/-! ### Bar2 -/

@[simp] theorem State.apError_fuses (s : State) (vd va : Nat) : (s.apError vd va).fuses = s.fuses := by simp [State.apError]

@[simp] theorem State.setHostq_fuses (s : State) (vd : Nat) (q : List HostAcc) : (s.setHostq vd q).fuses = s.fuses := (rfl)

@[simp] theorem State.hostSector_fuses (s : State) (vd : Nat) (isRead : Bool) (va : Nat) (bs : List Byte) :
    (s.hostSector vd isRead va bs).1.fuses = s.fuses := by
  fun_cases State.hostSector <;> simp

@[simp] theorem State.hostPass_fuses (s : State) (vd : Nat) : (s.hostPass vd).fuses = s.fuses := by
  unfold State.hostPass
  dsimp only
  (repeat' split) <;> simp

@[simp] theorem State.hostGrant_fuses (s : State) (vd : Nat) : (s.hostGrant vd).fuses = s.fuses := by fun_cases State.hostGrant <;> simp

@[simp] theorem State.hostPut_fuses (s : State) (vd : Nat) (isRead : Bool) (va : Nat) (bs : List Byte) : (s.hostPut vd isRead va bs).fuses = s.fuses := by
  unfold State.hostPut
  split <;> rfl

/-! ### Runs -/

@[simp] theorem State.clearRegion_fuses (s : State) (r : Run) : (s.clearRegion r).fuses = s.fuses := by
  simp [State.clearRegion, apply_ite State.fuses]

@[simp] theorem State.launchReport_fuses (s : State) (vd status fault inst src handle ctime result : Nat) :
    (s.launchReport vd status fault inst src handle ctime result).fuses = s.fuses := by
  simp [State.launchReport]

@[simp] theorem State.endPauses_fuses (s : State) (r : Run) (status : Nat) : (s.endPauses r status).fuses = s.fuses := by
  unfold State.endPauses
  exact foldl_fuses (fun _ _ => by simp) _ _

@[simp] theorem State.dropTlbs_fuses (s : State) (hit : Page → Bool) : (s.dropTlbs hit).fuses = s.fuses := by
  simp only [State.dropTlbs]
  rw [foldl_fuses fun _ _ => by simp, foldl_fuses fun _ _ => by split <;> simp]

@[simp] theorem State.endRun_fuses (s : State) (rid status fault pause : Nat) : (s.endRun rid status fault pause).fuses = s.fuses := by
  unfold State.endRun
  (repeat' split) <;> simp

@[simp] theorem State.reapHalted_fuses (s : State) (rid : Nat) : (s.reapHalted rid).fuses = s.fuses := by fun_cases State.reapHalted <;> simp

/-! ### Firing -/

@[simp] theorem State.landedAt_fuses (s : State) (r : Run) (node : Nat) : (s.landedAt r node).fuses = s.fuses := by
  unfold State.landedAt
  split <;> simp

@[simp] theorem execTokenLand_fuses (s : State) : fusesAfter s.fuses (execTokenLand s) = s.fuses := by
  unfold execTokenLand
  simp only [fusesAfter_next]
  (repeat' split) <;> simp [*]

@[simp] theorem State.sendGuard_fuses (s : State) (g : GuardWin) (policy : Bool) : (s.sendGuard g policy).fuses = s.fuses := (rfl)

@[simp] theorem State.guardDropTok_fuses (s : State) (vd srcCid : Nat) (run : Option Nat) (core ctx port kind : Nat) (word : Word) (reason : Nat) :
    (s.guardDropTok vd srcCid run core ctx port kind word reason).fuses = s.fuses := by
  unfold State.guardDropTok
  dsimp only
  (repeat' split) <;> simp

@[simp] theorem execGuardDrop_fuses (s : State) : fusesAfter s.fuses (execGuardDrop s) = s.fuses := by
  unfold execGuardDrop
  simp only [fusesAfter_next]
  (repeat' split) <;> simp [*]

@[simp] theorem execGuardReport_fuses (s : State) : fusesAfter s.fuses (execGuardReport s) = s.fuses := by
  unfold execGuardReport
  simp only [fusesAfter_next]
  (repeat' split) <;> simp [*]

@[simp] theorem State.taken_fuses (s : State) (t : Directed) (r : Run) (node : Nat) : (s.taken t r node).fuses = s.fuses := by
  fun_cases State.taken <;> simp

@[simp] theorem State.departSend_fuses (s : State) (core : Nat) : (s.departSend core).fuses = s.fuses := by
  unfold State.departSend
  split <;> rfl

@[simp] theorem execXsendDeliver_fuses (s : State) : fusesAfter s.fuses (execXsendDeliver s) = s.fuses := by
  unfold execXsendDeliver
  simp only [fusesAfter_next]
  (repeat' split) <;> simp [*]

@[simp] theorem State.startFiring_fuses (s : State) (r : Run) (node cid : Nat) (n : NodeD) : (s.startFiring r node cid n).fuses = s.fuses := (rfl)

@[simp] theorem execFiringStart_fuses (s : State) : fusesAfter s.fuses (execFiringStart s) = s.fuses := by
  unfold execFiringStart
  simp only [fusesAfter_next]
  (repeat' split) <;> simp [*]

@[simp] theorem execHandlerFiring_fuses (s : State) : fusesAfter s.fuses (execHandlerFiring s) = s.fuses := by
  unfold execHandlerFiring
  (repeat' split) <;> simp

@[simp] theorem State.acted_fuses (s : State) (rid node : Nat) (f : Run → Run) : (s.acted rid node f).fuses = s.fuses := (rfl)

@[simp] theorem routerStep_fuses {k : Nat} {act : State → Run → Nat → State} (h : ∀ s r n, (act s r n).fuses = s.fuses) (s : State) :
    fusesAfter s.fuses (routerStep k act s) = s.fuses := by
  simp only [routerStep, fusesAfter_next]
  (repeat' split) <;> simp [h]

@[simp] theorem steerAct_fuses (s : State) (r : Run) (n : Nat) : (steerAct s r n).fuses = s.fuses := by fun_cases steerAct <;> simp

@[simp] theorem execSteerAction_fuses (s : State) : fusesAfter s.fuses (execSteerAction s) = s.fuses := by simp [execSteerAction]

@[simp] theorem mergeAct_fuses (s : State) (r : Run) (n : Nat) : (mergeAct s r n).fuses = s.fuses := by fun_cases mergeAct <;> simp

@[simp] theorem execMergeAction_fuses (s : State) : fusesAfter s.fuses (execMergeAction s) = s.fuses := by simp [execMergeAction]

@[simp] theorem carryAct_fuses (s : State) (r : Run) (n : Nat) : (carryAct s r n).fuses = s.fuses := by fun_cases carryAct <;> simp

@[simp] theorem execCarryAction_fuses (s : State) : fusesAfter s.fuses (execCarryAction s) = s.fuses := by simp [execCarryAction]

@[simp] theorem invariantAct_fuses (s : State) (r : Run) (n : Nat) : (invariantAct s r n).fuses = s.fuses := by
  fun_cases invariantAct <;> simp

@[simp] theorem execInvariantAction_fuses (s : State) : fusesAfter s.fuses (execInvariantAction s) = s.fuses := by simp [execInvariantAction]

@[simp] theorem loopAct_fuses (s : State) (r : Run) (n : Nat) : (loopAct s r n).fuses = s.fuses := by fun_cases loopAct <;> simp

@[simp] theorem execLoopAction_fuses (s : State) : fusesAfter s.fuses (execLoopAction s) = s.fuses := by simp [execLoopAction]

@[simp] theorem State.startSeg_fuses (s : State) (r : Run) (cid : Nat) (g : Seg) : (s.startSeg r cid g).fuses = s.fuses := by
  simp [State.startSeg]

@[simp] theorem State.renameCid_fuses (s : State) (r : Run) (old new : Nat) : (s.renameCid r old new).fuses = s.fuses := by
  unfold State.renameCid
  exact foldl_fuses (fun _ _ => by simp) _ _

@[simp] theorem execSegmentSelect_fuses (s : State) : fusesAfter s.fuses (execSegmentSelect s) = s.fuses := by
  simp only [execSegmentSelect, fusesAfter_next]
  split
  · rfl
  split
  · rfl
  exact foldl_fuses (fun _ _ => by (repeat' split) <;> simp) _ _

@[simp] theorem State.passBanks_fuses (s : State) (r : Run) (i : Nat) (h : HandD) : (s.passBanks r i h).fuses = s.fuses := by
  fun_cases State.passBanks <;> simp

@[simp] theorem execBankHandoff_fuses (s : State) : fusesAfter s.fuses (execBankHandoff s) = s.fuses := by
  unfold execBankHandoff
  simp only [fusesAfter_next]
  (repeat' split) <;> simp [*]

@[simp] theorem execStreamBarrierRelease_fuses (s : State) : fusesAfter s.fuses (execStreamBarrierRelease s) = s.fuses := by
  simp only [execStreamBarrierRelease, fusesAfter_next]
  (repeat' split) <;> simp [*, apply_ite State.fuses]

@[simp] theorem execHomeSliceAccess_fuses (s : State) : fusesAfter s.fuses (execHomeSliceAccess s) = s.fuses := by
  unfold execHomeSliceAccess
  simp only [fusesAfter_next]
  (repeat' split) <;> simp [*]

@[simp] theorem execPageWalk_fuses (s : State) : fusesAfter s.fuses (execPageWalk s) = s.fuses := by
  unfold execPageWalk
  simp only [fusesAfter_next]
  (repeat' split) <;> simp [*]

/-! ### Edge -/

@[simp] theorem State.raiseElem_fuses (s : State) (rid code core kind node addr info : Nat) :
    (s.raiseElem rid code core kind node addr info).fuses = s.fuses := by
  unfold State.raiseElem
  split <;> simp

@[simp] theorem State.raiseEdge_fuses (s : State) (r : Run) (node code addr info : Nat) : (s.raiseEdge r node code addr info).fuses = s.fuses := by
  simp [State.raiseEdge]

@[simp] theorem State.latchStream_fuses (s : State) (rid node : Nat) : (s.latchStream rid node).fuses = s.fuses := by
  fun_cases State.latchStream <;> simp

@[simp] theorem State.rangeFaults_fuses (s : State) (r : Run) (node len : Nat) (write : Bool) (q : List (Nat × Nat)) :
    (s.rangeFaults r node len write q).fuses = s.fuses := by
  unfold State.rangeFaults
  exact foldl_fuses (fun _ _ => by split <;> simp) _ _

@[simp] theorem State.doneAt_fuses (s : State) (rid node : Nat) : (s.doneAt rid node).fuses = s.fuses := (rfl)

@[simp] theorem State.readReq_fuses (s : State) (r : Run) (node len pa : Nat) (q : List (Nat × Nat)) : (s.readReq r node len pa q).fuses = s.fuses := by
  simp [State.readReq, apply_ite State.fuses]

@[simp] theorem State.writeReq_fuses (s : State) (r : Run) (node len tok pa : Nat) (q : List (Nat × Nat)) :
    (s.writeReq r node len tok pa q).fuses = s.fuses := by
  simp only [State.writeReq]
  (repeat' split) <;> simp [*]

@[simp] theorem State.stepRound_fuses (s : State) (rid node : Nat) (n : NodeD) : (s.stepRound rid node n).fuses = s.fuses := by
  unfold State.stepRound
  dsimp only
  (repeat' split) <;> simp

@[simp] theorem State.skipRound_fuses (s : State) (r : Run) (node : Nat) (n : NodeD) : (s.skipRound r node n).fuses = s.fuses := by
  simp [State.skipRound]

@[simp] theorem State.useTurn_fuses (s : State) (r : Run) (node : Nat) : (s.useTurn r node).fuses = s.fuses := by
  unfold State.useTurn
  split <;> rfl

theorem fuses_of_edgeAt {r : Run} {node : Nat} {write : Bool} {a : Nat} (h : s.edgeAt r node write a = .wait t) : t.fuses = s.fuses := by
  simp only [State.edgeAt] at h
  (repeat' split at h) <;> simp only [EdgeAt.wait.injEq, reduceCtorEq] at h
  simp [← h]

theorem fuses_of_askReq {r : Run} {node len : Nat} {write : Bool} {q : List (Nat × Nat)} (h : s.askReq r node len write q = .wait t) :
    t.fuses = s.fuses := by
  simp only [State.askReq] at h
  (repeat' split at h) <;> simp only [Asked.wait.injEq, reduceCtorEq] at h
  exact h ▸ fuses_of_edgeAt ‹_›

@[simp] theorem State.issueReq_fuses (s : State) (r : Run) (node len : Nat) (write : Bool) : (s.issueReq r node len write).fuses = s.fuses := by
  unfold State.issueReq
  split
  · rfl
  split
  · exact fuses_of_askReq ‹_›
  all_goals simp

@[simp] theorem State.sendFormed_fuses (s : State) (r : Run) (node len : Nat) (n : NodeD) (vs : List (Nat × Nat)) :
    (s.sendFormed r node len n vs).fuses = s.fuses := by
  simp [State.sendFormed]

@[simp] theorem State.loadEnd_fuses (s : State) (rid node len : Nat) (n : NodeD) : (s.loadEnd rid node len n).fuses = s.fuses := by
  fun_cases State.loadEnd <;> simp

@[simp] theorem State.loadTok_fuses (s : State) (r : Run) (node : Nat) (n : NodeD) : (s.loadTok r node n).fuses = s.fuses := by
  fun_cases State.loadTok <;> simp

@[simp] theorem State.startRound_fuses (s : State) (r : Run) (node : Nat) (n : NodeD) : (s.startRound r node n).fuses = s.fuses := by
  simp only [State.startRound]
  (repeat' split) <;> (try simp)
  exact fuses_of_askReq ‹_›

@[simp] theorem execLoaderRound_fuses (s : State) : fusesAfter s.fuses (execLoaderRound s) = s.fuses := by
  unfold execLoaderRound
  simp only [fusesAfter_next]
  (repeat' split) <;> simp [*]

@[simp] theorem State.storerCheck_fuses (s : State) (r : Run) (node : Nat) (t : Token) : (s.storerCheck r node t).1.fuses = s.fuses := by
  fun_cases State.storerCheck <;> simp

@[simp] theorem State.storeEnd_fuses (s : State) (rid node : Nat) (n : NodeD) (pop : Run → Run) : (s.storeEnd rid node n pop).fuses = s.fuses := by
  fun_cases State.storeEnd <;> simp

theorem fuses_of_storerCheck {r : Run} {node : Nat} {k : Token} {o : Option Nat} (h : s.storerCheck r node k = (t, o)) : t.fuses = s.fuses := by
  rw [← State.storerCheck_fuses s r node k, h]

@[simp] theorem State.storeTok_fuses (s : State) (r : Run) (node : Nat) (n : NodeD) (k : Token) (pop : Run → Run) :
    (s.storeTok r node n k pop).fuses = s.fuses := by
  simp only [State.storeTok]
  (repeat' split) <;> (try simp) <;> exact fuses_of_storerCheck ‹_›

@[simp] theorem execStorerRound_fuses (s : State) : fusesAfter s.fuses (execStorerRound s) = s.fuses := by
  unfold execStorerRound
  simp only [fusesAfter_next]
  (repeat' split) <;> simp [*]

@[simp] theorem execRelatchEdge_fuses (s : State) : fusesAfter s.fuses (execRelatchEdge s) = s.fuses := by
  unfold execRelatchEdge
  simp only [fusesAfter_next]
  (repeat' split) <;> simp [*]

/-! ### Collective -/

@[simp] theorem State.dropRound_fuses (s : State) (rid node : Nat) : (s.dropRound rid node).fuses = s.fuses := (rfl)

@[simp] theorem State.raiseMember_fuses (s : State) (code : Nat) (m : Nat × Nat) : (s.raiseMember code m).fuses = s.fuses := by
  unfold State.raiseMember
  split <;> simp

@[simp] theorem State.podSend_fuses (s : State) (m : PodMsg) : (s.podSend m).fuses = s.fuses := (rfl)

@[simp] theorem State.podSendAll_fuses (s : State) (ds : List Nat) (m : PodMsg) : (s.podSendAll ds m).fuses = s.fuses := by
  unfold State.podSendAll
  exact foldl_fuses (fun _ _ => by simp) _ _

@[simp] theorem State.killColl_fuses (s : State) (c : Collective) (code : Nat) : (s.killColl c code).fuses = s.fuses := by
  unfold State.killColl
  rw [foldl_fuses (fun _ _ => by simp)]
  simp

@[simp] theorem State.setColl_fuses (s : State) (c : Collective) : (s.setColl c).fuses = s.fuses := (rfl)

@[simp] theorem State.closeColl_fuses (s : State) (c : Collective) : (s.closeColl c).fuses = s.fuses := by fun_cases State.closeColl <;> simp

@[simp] theorem State.joinColl_fuses (s : State) (shut : BitVec 8) (d : List Nat) (round ct : Nat) (x : Contribution) :
    (s.joinColl shut d round ct x).fuses = s.fuses := by
  unfold State.joinColl
  dsimp only
  (repeat' split) <;> simp

@[simp] theorem State.unitIntegrity_fuses (s : State) (rid : Nat) (h : ChunkHdr) (found : Nat) : (s.unitIntegrity rid h found).fuses = s.fuses := by
  simp [State.unitIntegrity]

@[simp] theorem State.crossIntegrity_fuses (s : State) (rid point vk vid ck cid : Nat) (cells : List Cell) (h : ChunkHdr) (found : Nat) :
    (s.crossIntegrity rid point vk vid ck cid cells h found).fuses = s.fuses := by
  simp [State.crossIntegrity]

@[simp] theorem State.startColl_fuses (s : State) (r : Run) (node addr : Nat) : (s.startColl r node addr).fuses = s.fuses := by
  simp only [State.startColl]
  (repeat' split) <;> (try simp)
  exact fuses_of_edgeAt ‹_›

@[simp] theorem execCollectiveRound_fuses (s : State) : fusesAfter s.fuses (execCollectiveRound s) = s.fuses := by
  unfold execCollectiveRound
  simp only [fusesAfter_next]
  (repeat' split) <;> simp [*]

@[simp] theorem execCollectiveContribution_fuses (s : State) : fusesAfter s.fuses (execCollectiveContribution s) = s.fuses := by
  unfold execCollectiveContribution
  simp only [fusesAfter_next]
  (repeat' split) <;> simp [*]

@[simp] theorem execBridgeArrivalCheck_fuses (s : State) : fusesAfter s.fuses (execBridgeArrivalCheck s) = s.fuses := by
  unfold execBridgeArrivalCheck
  simp only [fusesAfter_next]
  (repeat' split) <;> simp [*]

@[simp] theorem execPodLinkArrivalCheck_fuses (s : State) : fusesAfter s.fuses (execPodLinkArrivalCheck s) = s.fuses := by
  unfold execPodLinkArrivalCheck
  simp only [fusesAfter_next]
  (repeat' split) <;> simp [*]

@[simp] theorem execCollectiveTimeout_fuses (s : State) : fusesAfter s.fuses (execCollectiveTimeout s) = s.fuses := by
  unfold execCollectiveTimeout
  (repeat' split) <;> simp

@[simp] theorem State.collAbort_fuses (s : State) (rid : Nat) : (s.collAbort rid).fuses = s.fuses := by
  simp only [State.collAbort]
  (repeat' split) <;> simp [*, apply_ite State.fuses]

/-! ### Phases -/

@[simp] theorem State.raiseRegion_fuses (s : State) (r : Run) (code : Nat) (body : List Byte) : (s.raiseRegion r code body).fuses = s.fuses := by
  simp [State.raiseRegion]

@[simp] theorem execSelection_fuses (s : State) : fusesAfter s.fuses (execSelection s) = s.fuses := by
  unfold execSelection
  simp only [fusesAfter_next]
  (repeat' split) <;> simp [*]

@[simp] theorem State.shelve_fuses (s : State) (rid : Nat) (ns : List Nat) : (s.shelve rid ns).fuses = s.fuses := by
  unfold State.shelve
  exact foldl_fuses (fun _ _ => by (repeat' split) <;> simp) _ _

@[simp] theorem State.unshelve_fuses (s : State) (rid : Nat) (ns : List Nat) : (s.unshelve rid ns).fuses = s.fuses := by
  unfold State.unshelve
  exact foldl_fuses (fun _ _ => by (repeat' split) <;> simp) _ _

@[simp] theorem State.passDue_fuses (s : State) (rid : Nat) : (s.passDue rid).fuses = s.fuses := by
  unfold State.passDue
  split
  · rfl
  exact foldl_fuses (fun _ _ => by (repeat' split) <;> simp) _ _

@[simp] theorem execPhaseDrain_fuses (s : State) : fusesAfter s.fuses (execPhaseDrain s) = s.fuses := by
  unfold execPhaseDrain
  simp only [fusesAfter_next]
  (repeat' split) <;> simp [*]

@[simp] theorem State.flushRegion_fuses (s : State) (r : Run) : (s.flushRegion r).fuses = s.fuses := by
  unfold State.flushRegion
  exact foldl_fuses (fun _ _ => by simp) _ _

@[simp] theorem State.configure_fuses (s : State) (rid : Nat) : (s.configure rid).fuses = s.fuses := by
  unfold State.configure
  (repeat' split) <;> simp [*]

@[simp] theorem State.finishConfig_fuses (s : State) (rid : Nat) : (s.finishConfig rid).fuses = s.fuses := by
  unfold State.finishConfig
  dsimp only
  (repeat' split) <;> simp

@[simp] theorem execPhaseConfig_fuses (s : State) : fusesAfter s.fuses (execPhaseConfig s) = s.fuses := by
  unfold execPhaseConfig
  (repeat' split) <;> simp

@[simp] theorem execDeadlock_fuses (s : State) : fusesAfter s.fuses (execDeadlock s) = s.fuses := by
  unfold execDeadlock
  simp only [fusesAfter_next]
  (repeat' split) <;> simp [*]

/-! ### Cuts -/

@[simp] theorem State.holdTokens_fuses (s : State) (r : Run) : (s.holdTokens r).fuses = s.fuses := (rfl)

@[simp] theorem State.putObj_fuses (s : State) (core : Nat) (o : SavedObj) : (s.putObj core o).fuses = s.fuses := by
  unfold State.putObj
  split <;> rfl

@[simp] theorem State.cleanSpans_fuses (s : State) (spans : List (Nat × Nat)) : (s.cleanSpans spans).fuses = s.fuses := by
  unfold State.cleanSpans
  exact foldl_fuses (fun _ _ => by simp) _ _

@[simp] theorem State.freeFires_fuses (s : State) (r : Run) : (s.freeFires r).fuses = s.fuses := by
  unfold State.freeFires
  exact foldl_fuses (fun _ _ => by split <;> simp) _ _

@[simp] theorem State.stashBars_fuses (s : State) (r : Run) : (s.stashBars r).fuses = s.fuses := (rfl)

@[simp] theorem State.completeCut_fuses (s : State) (rid : Nat) : (s.completeCut rid).fuses = s.fuses := by
  unfold State.completeCut
  dsimp only
  (repeat' split) <;> simp

@[simp] theorem State.putSave_fuses (s : State) (rid key : Nat) (f : Run → Cut → Cut) : (s.putSave rid key f).fuses = s.fuses := (rfl)

@[simp] theorem State.saveCore_fuses (s : State) (rid core : Nat) : (s.saveCore rid core).fuses = s.fuses := by
  unfold State.saveCore
  dsimp only
  (repeat' split) <;> simp

@[simp] theorem State.dropLds_fuses (s : State) (rid cid : Nat) : (s.dropLds rid cid).fuses = s.fuses := by fun_cases State.dropLds <;> simp

@[simp] theorem State.saveNode_fuses (s : State) (r : Run) (node : Nat) : (s.saveNode r node).fuses = s.fuses := by
  unfold State.saveNode
  split <;> simp

@[simp] theorem execElementSave_fuses (s : State) : fusesAfter s.fuses (execElementSave s) = s.fuses := by
  unfold execElementSave
  simp only [fusesAfter_next]
  (repeat' split) <;> simp [*]

@[simp] theorem State.abortSeg_fuses (s : State) (rid cid : Nat) : (s.abortSeg rid cid).fuses = s.fuses := (rfl)

@[simp] theorem State.injectMarks_fuses (s : State) (rid : Nat) (k : CutKind) : (s.injectMarks rid k).fuses = s.fuses := by
  simp only [State.injectMarks]
  split <;> simp

@[simp] theorem execMarkerInject_fuses (s : State) : fusesAfter s.fuses (execMarkerInject s) = s.fuses := by
  unfold execMarkerInject
  (repeat' split) <;> simp

@[simp] theorem execPeriodicCut_fuses (s : State) : fusesAfter s.fuses (execPeriodicCut s) = s.fuses := by
  unfold execPeriodicCut
  (repeat' split) <;> simp

@[simp] theorem execMarkerArrival_fuses (s : State) : fusesAfter s.fuses (execMarkerArrival s) = s.fuses := by
  unfold execMarkerArrival
  simp only [fusesAfter_next]
  (repeat' split) <;> simp [*]

/-! ### Lathe -/

@[simp] theorem State.cachePlace_fuses (s : State) (handle : Nat) (digest : List Nat) (rg : Region) (a : Att) :
    (s.cachePlace handle digest rg a).fuses = s.fuses := (rfl)

@[simp] theorem State.cacheDrop_fuses (s : State) (handle : Nat) : (s.cacheDrop handle).fuses = s.fuses := by
  unfold State.cacheDrop
  exact foldl_fuses (fun _ _ => by simp) _ _

/-! ### Launch -/

@[simp] theorem State.configHandler_fuses (s : State) (rid : Nat) : (s.configHandler rid).fuses = s.fuses := by
  unfold State.configHandler
  (repeat' split) <;> simp [*]

@[simp] theorem State.launchFail_fuses (s : State) (q : LatheReq) (status result : Nat) : (s.launchFail q status result).fuses = s.fuses := by
  unfold State.launchFail
  split <;> simp

@[simp] theorem State.childBarred_fuses (s : State) (cid handle : Nat) : (s.childBarred cid handle).fuses = s.fuses := by
  simp [State.childBarred]

@[simp] theorem State.launchRefused_fuses (s : State) (q : LatheReq) (status : Nat) : (s.launchRefused q status).fuses = s.fuses := by
  fun_cases State.launchRefused <;> simp

@[simp] theorem State.applyAp_fuses (s : State) (vd : Nat) : (s.applyAp vd).fuses = s.fuses := (rfl)

@[simp] theorem State.fitRecord_fuses (s : State) (vd addr : Nat) (f : Fit) : (s.fitRecord vd addr f).fuses = s.fuses := by
  unfold State.fitRecord
  split <;> simp

theorem fuses_of_startRun {q : LatheReq} {o : Obj} {g : Graph} {rg : Region} {a : Att} (h : s.startRun q o g rg a = some t) : t.fuses = s.fuses := by
  simp only [State.startRun] at h
  (repeat' split at h) <;> simp only [Option.some.injEq, reduceCtorEq] at h <;> simp [← h]

@[simp] theorem State.serveLaunch_fuses (s : State) (q : LatheReq) : (s.serveLaunch q).fuses = s.fuses := by
  have hs : (if q.cmd.isSome then s.applyAp q.vd else s).fuses = s.fuses := by split <;> simp
  simp only [State.serveLaunch]
  rw [← hs]
  generalize (if q.cmd.isSome then s.applyAp q.vd else s) = u
  (repeat' split) <;> (try simp) <;> rw [fuses_of_startRun ‹_›, State.cachePlace_fuses]

@[simp] theorem deviceLaunchBody_fuses (a b c : Reg) (dbg : Bool) (s : State) (cid : Nat) : (deviceLaunchBody a b c dbg s cid).fusesOr s.fuses = s.fuses := by
  unfold deviceLaunchBody
  dsimp only
  (repeat' split) <;> simp [Eff.fusesOr]

@[simp] theorem execDeviceLaunch_fuses (h : Hdr) (a b c : Reg) (dbg : Bool) (s : State) : fusesAfter s.fuses (execDeviceLaunch h a b c dbg s) = s.fuses :=
  issue_fuses (fun _ => by simp)

/-! ### Restore -/

@[simp] theorem State.recheckTok_fuses (s : State) (r : Run) (node : Nat) (t : Token) (put : Token → Run → Run) :
    (s.recheckTok r node t put).fuses = s.fuses := by
  fun_cases State.recheckTok <;> simp

@[simp] theorem State.recheckChans_fuses (s : State) (rid : Nat) : (s.recheckChans rid).fuses = s.fuses := by
  simp only [State.recheckChans]
  split
  · rfl
  · rw [foldl_fuses fun _ _ => by split <;> simp, foldl_fuses fun _ _ => foldl_fuses (fun _ _ => State.recheckTok_fuses ..) _ _]

@[simp] theorem State.putSeg_fuses (s : State) (rid : Nat) (moved : Bool) (core : Nat) (x : SavedCtx) : (s.putSeg rid moved core x).1.fuses = s.fuses := by
  fun_cases State.putSeg <;> simp

theorem foldl_fst_fuses {α β : Type} {f : State × β → α → State × β} (h : ∀ a x, (f a x).1.fuses = a.1.fuses) (l : List α) (a : State × β) :
    (l.foldl f a).1.fuses = a.1.fuses := by
  induction l generalizing a with
  | nil => rfl
  | cons x l ih => rw [List.foldl_cons, ih, h]

@[simp] theorem State.restoreCut_fuses (s : State) (rid : Nat) (c : Cut) (rg : Region) (place : Table (Option Place)) :
    (s.restoreCut rid c rg place).fuses = s.fuses := by
  unfold State.restoreCut
  split
  · rfl
  rename_i r hr
  extract_lets moved mc s1 outer r' s2 ops new s3
  have h1 : s1.fuses = s.fuses := by unfold s1; split <;> simp
  have h2 : s2.fuses = s1.fuses := by simp [s2]
  have h3 : s3.fuses = s2.fuses := foldl_fuses (fun _ _ => State.setCtx_fuses ..) _ _
  clear_value s3
  split
  rename_i s4 segMap h4
  have h4 : s4.fuses = s3.fuses := by
    refine (congrArg (fun x => x.1.fuses) h4).symm.trans (foldl_fst_fuses ?_ _ _)
    exact fun _ _ => State.putSeg_fuses ..
  extract_lets cidMap mcid obj s5 s6 s7 back s8
  have h5 : s5.fuses = s4.fuses := foldl_fuses (fun _ _ => State.putObj_fuses ..) _ _
  have h6 : s6.fuses = s5.fuses := foldl_fuses (fun _ _ => State.modCore_fuses ..) _ _
  have h8 : s8.fuses = s6.fuses := by simp [s8, s7]
  clear_value s8
  rw [← h1, ← h2, ← h3, ← h4, ← h5, ← h6, ← h8]
  split
  · rfl
  · rw [State.recheckChans_fuses]
    exact foldl_fuses (fun _ _ => State.latchStream_fuses ..) _ _

@[simp] theorem State.resumeRun_fuses (s : State) (rid : Nat) : (s.resumeRun rid).fuses = s.fuses := by fun_cases State.resumeRun <;> simp

theorem fuses_of_retake {r : Run} {rg : Region} {a : Att} (h : s.retake r rg a = some t) : t.fuses = s.fuses := by
  obtain ⟨l, -, rfl⟩ := Option.map_eq_some_iff.mp h
  rfl

/-- What SERVE_REPLACE does once the regions have been tried: `fit` is the placement found, `move` what takes the run there. -/
def State.replaceWithin (s : State) (q : LatheReq) (rid : Nat) (r : Run) (c : Cut) (fit : Except Fit (Region × Att))
    (move : Region → Att → Option State) : State :=
      match fit with
      | .error f => (({ s with free := s.free + 5 }).fitRecord r.vd q.record f).finishOpt q.cmd 9 0 f.reason
      | .ok (rg, a) => match move rg a with
        | none => s.finishOpt q.cmd 12 0 0
        | some s =>
          let used := ((s.object r.vd r.handle).map fun o => o.graph.usedParams r.params).getD []
          let s := s.cachePlace (cacheKey r.vd r.handle) used rg a
          (s.restoreCut rid c rg a.place).modRun rid fun r => { r with resumeCmd := q.cmd, sgen := (s.die rg.die).sgen }

theorem State.replaceWithin_fuses {s : State} {q : LatheReq} {rid : Nat} {r : Run} {c : Cut} {fit : Except Fit (Region × Att)}
    {move : Region → Att → Option State}
    (h : ∀ {rg a u}, move rg a = some u → u.fuses = s.fuses) : (s.replaceWithin q rid r c fit move).fuses = s.fuses := by
  unfold State.replaceWithin
  split
  · rw [State.finishOpt_fuses, State.fitRecord_fuses]
  split
  · exact State.finishOpt_fuses ..
  · rename_i u hu
    rw [← h hu, State.modRun_fuses, State.restoreCut_fuses, State.cachePlace_fuses]

theorem State.serveReplace_eq (s : State) (q : LatheReq) (rid : Nat) : s.serveReplace q rid =
  match s.run rid with
  | none => s.finishOpt q.cmd 3 0 0
  | some r => match r.saved.getLast? with
    | none => s.finishOpt q.cmd 4 0 0
    | some c =>
      if r.st != .paused then s.finishOpt q.cmd 4 0 0
      else s.replaceWithin q rid r c (s.tryRegions r.graph (r.restorePins c) (s.mapOk r c) (s.noRegion (some rid) r.vd r.graph q.region)
          (s.candidates (some rid) r.vd r.graph q.region)) (s.retake r) := rfl

@[simp] theorem State.serveReplace_fuses (s : State) (q : LatheReq) (rid : Nat) : (s.serveReplace q rid).fuses = s.fuses := by
  rw [State.serveReplace_eq]
  split
  · exact State.finishOpt_fuses ..
  split
  · exact State.finishOpt_fuses ..
  split
  · exact State.finishOpt_fuses ..
  · exact State.replaceWithin_fuses fuses_of_retake

@[simp] theorem execLathePlace_fuses (s : State) : fusesAfter s.fuses (execLathePlace s) = s.fuses := by
  unfold execLathePlace
  simp only [fusesAfter_next]
  (repeat' split) <;> simp [*]

@[simp] theorem State.dropFlight_fuses (s : State) (r : Run) (c : Cut) : (s.dropFlight r c).fuses = s.fuses := (rfl)

theorem ite_fuses {c : Prop} [Decidable c] {a b : State} {d : Table Nat} (ha : a.fuses = d) (hb : b.fuses = d) : (if c then a else b).fuses = d := by
  split <;> assumption

@[simp] theorem execRollback_fuses (s : State) : fusesAfter s.fuses (execRollback s) = s.fuses := by
  unfold execRollback
  rw [fusesAfter_next]
  split
  · rfl
  rename_i r hr
  split
  · rfl
  rename_i c hc
  refine ite_fuses rfl ?_
  extract_lets rg s1 s2
  have h1 : s1.fuses = s.fuses := by simp [s1]
  have h2 : ∀ u ∈ s2, u.fuses = s.fuses := by
    unfold s2
    split
    · simp [h1]
    · split
      · simp
      · split <;> simp [h1]
  clear_value s2
  split
  · simp [h1]
  · split <;> simp [h2]

@[simp] theorem State.toHandler_fuses (s : State) (r : Run) (h : Nat) (f : Flt) : (s.toHandler r h f).fuses = s.fuses := by
  unfold State.toHandler
  (repeat' split) <;> simp

@[simp] theorem execFaultDelivery_fuses (s : State) : fusesAfter s.fuses (execFaultDelivery s) = s.fuses := by
  unfold execFaultDelivery
  (repeat' split) <;> simp

/-! ### Qos -/

@[simp] theorem State.trimTlbs_fuses (s : State) : s.trimTlbs.fuses = s.fuses := by
  unfold State.trimTlbs
  exact foldl_fuses (fun _ _ => by split <;> simp) _ _

@[simp] theorem State.setStrips_fuses (s : State) (die : Nat) (l : List Strip) : (s.setStrips die l).fuses = s.fuses := by
  simp [State.setStrips, apply_ite State.fuses]

@[simp] theorem State.revoke_fuses (s : State) (t die c0 c1 : Nat) : (s.revoke t die c0 c1).fuses = s.fuses := by
  fun_cases State.revoke <;> simp

@[simp] theorem State.setWays_fuses (s : State) (vd die : Nat) (mask : BitVec 16) : (s.setWays vd die mask).fuses = s.fuses := (rfl)

@[simp] theorem State.clearSync_fuses (s : State) (pa len : Nat) : (s.clearSync pa len).fuses = s.fuses := by
  unfold State.clearSync
  exact foldl_fuses (fun _ _ => by simp) _ _

@[simp] theorem State.withdraw_fuses (s : State) (vd : Nat) (key : Nat × Nat × Nat) (rs : List (Nat × Nat)) : (s.withdraw vd key rs).fuses = s.fuses := by
  simp only [State.withdraw]
  rw [foldl_fuses fun _ _ => foldl_fuses (fun _ _ => State.modCore_fuses ..) _ _, foldl_fuses fun _ _ => State.modDie_fuses .., State.modVd_fuses]

@[simp] theorem State.letGo_fuses (s : State) (vd : Nat) (key : Nat × Nat × Nat) : (s.letGo vd key).fuses = s.fuses := by
  unfold State.letGo
  exact foldl_fuses (fun _ _ => by simp) _ _

@[simp] theorem State.withdrawLds_fuses (s : State) (core : Nat) (q : Req) : (s.withdrawLds core q).fuses = s.fuses := by
  simp [State.withdrawLds]

@[simp] theorem execRelatchCore_fuses (s : State) : fusesAfter s.fuses (execRelatchCore s) = s.fuses := by
  unfold execRelatchCore
  simp only [fusesAfter_next]
  (repeat' split) <;> simp [*]

@[simp] theorem State.grantWait_fuses (s : State) (p : Payer) : (s.grantWait p).fuses = s.fuses := by
  unfold State.grantWait
  split <;> simp

@[simp] theorem State.roundAt_fuses (s : State) (cls inst : Nat) (more : List (Nat × Nat)) : (s.roundAt cls inst more).fuses = s.fuses := by
  unfold State.roundAt
  dsimp only
  (repeat' split) <;> simp

@[simp] theorem execDamperRound_fuses (s : State) : fusesAfter s.fuses (execDamperRound s) = s.fuses := by
  unfold execDamperRound
  simp only [fusesAfter_next]
  (repeat' split) <;> simp [*]

@[simp] theorem State.yieldOut_fuses (s : State) (rid : Nat) : (s.yieldOut rid).fuses = s.fuses := by
  unfold State.yieldOut
  dsimp only
  (repeat' split) <;> simp

@[simp] theorem State.setOcc_fuses (s : State) (p : Strip) (v : Option Nat) : (s.setOcc p v).fuses = s.fuses := (rfl)

@[simp] theorem State.comeBack_fuses (s : State) (p : Strip) (v : Nat) : (s.comeBack p v).fuses = s.fuses := by
  unfold State.comeBack
  exact foldl_fuses (fun _ _ => by split <;> simp) _ _

@[simp] theorem State.flushStrip_fuses (s : State) (p : Strip) : (s.flushStrip p).fuses = s.fuses := by
  unfold State.flushStrip
  simp [*]

@[simp] theorem execStripYield_fuses (s : State) : fusesAfter s.fuses (execStripYield s) = s.fuses := by
  simp only [execStripYield, fusesAfter_next]
  (repeat' split) <;> simp [*, apply_ite State.fuses]

@[simp] theorem execYieldGraceExpiry_fuses (s : State) : fusesAfter s.fuses (execYieldGraceExpiry s) = s.fuses := by
  simp only [execYieldGraceExpiry, fusesAfter_next]
  (repeat' split) <;> simp [*, apply_ite State.fuses]

/-! ### Commands -/

@[simp] theorem State.dropObj_fuses (s : State) (vd handle : Nat) : (s.dropObj vd handle).fuses = s.fuses := by
  unfold State.dropObj
  split <;> simp

@[simp] theorem State.launchCmd_fuses (s : State) (key : CmdKey) (c : Cmd) : (s.launchCmd key c).fuses = s.fuses := by
  unfold State.launchCmd
  split <;> rfl

@[simp] theorem State.pauseCmd_fuses (s : State) (key : CmdKey) (c : Cmd) : (s.pauseCmd key c).fuses = s.fuses := by
  fun_cases State.pauseCmd <;> simp

@[simp] theorem State.pausedAway_fuses (s : State) (key : CmdKey) : (s.pausedAway key).fuses = s.fuses := by
  unfold State.pausedAway
  split <;> simp

@[simp] theorem State.resumeCmd_fuses (s : State) (key : CmdKey) (c : Cmd) : (s.resumeCmd key c).fuses = s.fuses := by
  fun_cases State.resumeCmd <;> simp

@[simp] theorem State.replaceCmd_fuses (s : State) (key : CmdKey) (c : Cmd) : (s.replaceCmd key c).fuses = s.fuses := by
  fun_cases State.replaceCmd <;> simp

@[simp] theorem State.abortNow_fuses (s : State) (key : CmdKey) (rid : Nat) : (s.abortNow key rid).fuses = s.fuses := by
  unfold State.abortNow
  dsimp only
  (repeat' split) <;> simp

@[simp] theorem State.abortCmd_fuses (s : State) (key : CmdKey) (c : Cmd) : (s.abortCmd key c).fuses = s.fuses := by
  fun_cases State.abortCmd <;> simp

@[simp] theorem snapshotCmd_fuses (vd : Nat) (s : State) (c : Cmd) : (snapshotCmd vd s c).1.fuses = s.fuses := by
  fun_cases snapshotCmd <;> simp

@[simp] theorem queryCmd_fuses (vd : Nat) (s : State) (c : Cmd) : (queryCmd vd s c).1.fuses = s.fuses := by fun_cases queryCmd <;> simp

@[simp] theorem State.settleCmd_fuses {key : CmdKey} {r : Except Nat State} (h : ∀ t, r = .ok t → t.fuses = s.fuses) :
    (s.settleCmd key r).fuses = s.fuses := by
  unfold State.settleCmd
  split <;> simp [h]

theorem fuses_of_mapPages {vd : Nat} {c : Cmd} (h : mapPages vd s c = .ok t) : t.fuses = s.fuses := by
  simp only [mapPages] at h
  (repeat' split at h) <;> simp only [Except.ok.injEq, reduceCtorEq] at h <;> simp [← h]

theorem fuses_of_unmapPages {vd : Nat} {key : Nat × Nat × Nat} {c : Cmd} (h : unmapPages vd key s c = .ok t) : t.fuses = s.fuses := by
  simp only [unmapPages] at h
  (repeat' split at h) <;> simp only [Except.ok.injEq, reduceCtorEq] at h
  simp [← h]

theorem fuses_of_unloadObj {vd : Nat} {key : Nat × Nat × Nat} {c : Cmd} (h : unloadObj vd key s c = .ok t) : t.fuses = s.fuses := by
  simp only [unloadObj] at h
  (repeat' split at h) <;> simp only [Except.ok.injEq, reduceCtorEq] at h
  simp [← h]

theorem fuses_of_loadObj {vd n : Nat} {c : Cmd} (h : loadObj vd s c = .ok (t, n)) : t.fuses = s.fuses := by
  simp only [loadObj] at h
  (repeat' split at h) <;> simp only [Except.ok.injEq, Prod.mk.injEq, reduceCtorEq] at h <;> simp [← h.1]

theorem fuses_of_qosStripGrant {c : Cmd} (h : qosStripGrant s c = .ok t) : t.fuses = s.fuses := by
  simp only [qosStripGrant] at h
  (repeat' split at h) <;> simp only [Except.ok.injEq, reduceCtorEq] at h <;> simp [← h]

theorem fuses_of_qosStripRevoke {c : Cmd} (h : qosStripRevoke s c = .ok t) : t.fuses = s.fuses := by
  simp only [qosStripRevoke] at h
  (repeat' split at h) <;> simp only [Except.ok.injEq, reduceCtorEq] at h
  simp [← h]

theorem fuses_of_qosBand {c : Cmd} (h : qosBand s c = .ok t) : t.fuses = s.fuses := by
  simp only [qosBand] at h
  (repeat' split at h) <;> simp only [Except.ok.injEq, reduceCtorEq] at h
  simp [← h]

theorem fuses_of_qosWays {c : Cmd} (h : qosWays s c = .ok t) : t.fuses = s.fuses := by
  simp only [qosWays] at h
  (repeat' split at h) <;> simp only [Except.ok.injEq, reduceCtorEq] at h
  rw [← h]
  exact foldl_fuses (fun _ _ => by split <;> simp) _ _

theorem fuses_of_qosGrant {c : Cmd} (h : qosGrant s c = .ok t) : t.fuses = s.fuses := by
  simp only [qosGrant] at h
  (repeat' split at h) <;> simp only [Except.ok.injEq, reduceCtorEq] at h
  simp [← h]

theorem fuses_of_qosUngrant {c : Cmd} (h : qosUngrant s c = .ok t) : t.fuses = s.fuses := by
  simp only [qosUngrant] at h
  (repeat' split at h) <;> simp only [Except.ok.injEq, reduceCtorEq] at h <;> simp [← h]

theorem fuses_of_qosPod {c : Cmd} (h : qosPod s c = .ok t) : t.fuses = s.fuses := by
  simp only [qosPod] at h
  (repeat' split at h) <;> simp only [Except.ok.injEq, reduceCtorEq] at h
  simp [← h]

theorem fuses_of_qos {fn : Nat} {c : Cmd} (h : qos fn s c = .ok t) : t.fuses = s.fuses := by
  unfold qos at h
  split at h
  · simp at h
  split at h
  · simp at h
  split at h
  · exact fuses_of_qosStripGrant h
  · exact fuses_of_qosStripRevoke h
  · exact fuses_of_qosBand h
  · exact fuses_of_qosWays h
  · exact fuses_of_qosGrant h
  · exact fuses_of_qosUngrant h
  · exact fuses_of_qosPod h
  · simp at h

@[simp] theorem State.runCmd_fuses (s : State) (key : CmdKey) (p : Pending) : (s.runCmd key p).fuses = s.fuses := by
  simp only [State.runCmd]
  split
  · simp
  split
  · split <;> simp
    exact fuses_of_loadObj ‹_›
  · split <;> simp
    exact fuses_of_unloadObj ‹_›
  · simp
  · simp
  · simp
  · simp
  · simp
  · simp
  · exact settleCmd_fuses fun _ => fuses_of_mapPages
  · split <;> simp
    exact fuses_of_unmapPages ‹_›
  · exact settleCmd_fuses fun _ => fuses_of_qos
  · split <;> simp
  · simp

@[simp] theorem State.dispatch_fuses (s : State) (vd port : Nat) : (s.dispatch vd port).fuses = s.fuses := by
  unfold State.dispatch
  dsimp only
  (repeat' split) <;> simp

@[simp] theorem State.command_fuses (s : State) (vd port kind : Nat) (c : Cmd) : (s.command vd port kind c).fuses = s.fuses := by
  simp [State.command, apply_ite State.fuses]

@[simp] theorem execLoadObject_fuses (vd port : Nat) (c : Cmd) (s : State) : fusesAfter s.fuses (execLoadObject vd port c s) = s.fuses := by
  simp [execLoadObject]

@[simp] theorem execUnloadObject_fuses (vd port : Nat) (c : Cmd) (s : State) : fusesAfter s.fuses (execUnloadObject vd port c s) = s.fuses := by
  simp [execUnloadObject]

@[simp] theorem execLaunch_fuses (vd port : Nat) (c : Cmd) (s : State) : fusesAfter s.fuses (execLaunch vd port c s) = s.fuses := by
  simp [execLaunch]

@[simp] theorem execPause_fuses (vd port : Nat) (c : Cmd) (s : State) : fusesAfter s.fuses (execPause vd port c s) = s.fuses := by
  simp [execPause]

@[simp] theorem execResume_fuses (vd port : Nat) (c : Cmd) (s : State) : fusesAfter s.fuses (execResume vd port c s) = s.fuses := by
  simp [execResume]

@[simp] theorem execReplace_fuses (vd port : Nat) (c : Cmd) (s : State) : fusesAfter s.fuses (execReplace vd port c s) = s.fuses := by
  simp [execReplace]

@[simp] theorem execAbort_fuses (vd port : Nat) (c : Cmd) (s : State) : fusesAfter s.fuses (execAbort vd port c s) = s.fuses := by
  simp [execAbort]

@[simp] theorem execSnapshot_fuses (vd port : Nat) (c : Cmd) (s : State) : fusesAfter s.fuses (execSnapshot vd port c s) = s.fuses := by
  simp [execSnapshot]

@[simp] theorem execMap_fuses (vd port : Nat) (c : Cmd) (s : State) : fusesAfter s.fuses (execMap vd port c s) = s.fuses := by simp [execMap]

@[simp] theorem execUnmap_fuses (vd port : Nat) (c : Cmd) (s : State) : fusesAfter s.fuses (execUnmap vd port c s) = s.fuses := by
  simp [execUnmap]

@[simp] theorem execStripGrant_fuses (vd port : Nat) (c : Cmd) (s : State) : fusesAfter s.fuses (execStripGrant vd port c s) = s.fuses := by
  simp [execStripGrant]

@[simp] theorem execStripRevoke_fuses (vd port : Nat) (c : Cmd) (s : State) : fusesAfter s.fuses (execStripRevoke vd port c s) = s.fuses := by
  simp [execStripRevoke]

@[simp] theorem execBand_fuses (vd port : Nat) (c : Cmd) (s : State) : fusesAfter s.fuses (execBand vd port c s) = s.fuses := by
  simp [execBand]

@[simp] theorem execWays_fuses (vd port : Nat) (c : Cmd) (s : State) : fusesAfter s.fuses (execWays vd port c s) = s.fuses := by
  simp [execWays]

@[simp] theorem execGrant_fuses (vd port : Nat) (c : Cmd) (s : State) : fusesAfter s.fuses (execGrant vd port c s) = s.fuses := by
  simp [execGrant]

@[simp] theorem execUngrant_fuses (vd port : Nat) (c : Cmd) (s : State) : fusesAfter s.fuses (execUngrant vd port c s) = s.fuses := by
  simp [execUngrant]

@[simp] theorem execPod_fuses (vd port : Nat) (c : Cmd) (s : State) : fusesAfter s.fuses (execPod vd port c s) = s.fuses := by simp [execPod]

@[simp] theorem execHostFence_fuses (vd port : Nat) (c : Cmd) (s : State) : fusesAfter s.fuses (execHostFence vd port c s) = s.fuses := by
  simp [execHostFence]

@[simp] theorem execQueryFeatureLeaf_fuses (vd port : Nat) (leaf : BitVec 4) (c : Cmd) (s : State) :
    fusesAfter s.fuses (execQueryFeatureLeaf vd port leaf c s) = s.fuses := by
  simp [execQueryFeatureLeaf]

@[simp] theorem execQueryAttestationQuote_fuses (vd port : Nat) (c : Cmd) (s : State) :
    fusesAfter s.fuses (execQueryAttestationQuote vd port c s) = s.fuses := by
  simp [execQueryAttestationQuote]

@[simp] theorem execCommandDispatch_fuses (vd port : Nat) (s : State) : fusesAfter s.fuses (execCommandDispatch vd port s) = s.fuses := by
  simp [execCommandDispatch]

@[simp] theorem State.reach.resumed_fuses (key : CmdKey) (s : State) : (State.reach.resumed key s).fuses = s.fuses := by
  unfold State.reach.resumed
  split <;> rfl

@[simp] theorem State.reach_fuses (s : State) (key : CmdKey) : (s.reach key).fuses = s.fuses := by
  unfold State.reach
  (repeat' split) <;> simp

@[simp] theorem execCommandCompletion_fuses (vd port : Nat) (seq : BitVec 32) (s : State) :
    fusesAfter s.fuses (execCommandCompletion vd port seq s) = s.fuses := by
  unfold execCommandCompletion
  simp only [fusesAfter_next]
  (repeat' split) <;> simp [*]

@[simp] theorem State.startIm_fuses (s : State) (op len : Nat) (bs : List Byte) : (s.startIm op len bs).fuses = s.fuses := (rfl)

@[simp] theorem State.writeIm_fuses (s : State) (op len : Nat) : (s.writeIm op len).fuses = s.fuses := by
  unfold State.writeIm
  split
  · rfl
  · exact State.startIm_fuses ..

@[simp] theorem execChcapWrite_fuses (die : Nat) (value : Word) (s : State) : fusesAfter s.fuses (execChcapWrite die value s) = s.fuses := by
  unfold execChcapWrite
  (repeat' split) <;> simp

@[simp] theorem execVdpolWrite_fuses (vd : Nat) (value : Word) (s : State) : fusesAfter s.fuses (execVdpolWrite vd value s) = s.fuses := by
  unfold execVdpolWrite
  (repeat' split) <;> simp

@[simp] theorem execVdqpolWrite_fuses (vd : Nat) (value : Word) (s : State) : fusesAfter s.fuses (execVdqpolWrite vd value s) = s.fuses := by
  unfold execVdqpolWrite
  (repeat' split) <;> simp

@[simp] theorem execFeatmaskWrite_fuses (vf leaf : Nat) (value : Word) (s : State) : fusesAfter s.fuses (execFeatmaskWrite vf leaf value s) = s.fuses := by
  unfold execFeatmaskWrite
  (repeat' split) <;> simp

@[simp] theorem execBelctlWrite_fuses (die : Nat) (value : Word) (s : State) : fusesAfter s.fuses (execBelctlWrite die value s) = s.fuses := by
  unfold execBelctlWrite
  (repeat' split) <;> simp

@[simp] theorem execRegisterWrite_fuses (fn off : Nat) (value : Word) (s : State) :
    fusesAfter s.fuses (execRegisterWrite fn off value s) = s.fuses := by
  rw [execRegisterWrite, fusesAfter_next]
  exact ite_fuses rfl (ite_fuses (ite_fuses (State.modVd_fuses ..) rfl) (ite_fuses (State.modPort_fuses ..) (ite_fuses (State.modVd_fuses ..)
    (ite_fuses (State.modVd_fuses ..) (ite_fuses rfl (ite_fuses (State.modVd_fuses ..) (ite_fuses (State.modDie_fuses ..) (ite_fuses rfl
    (ite_fuses (State.writeIm_fuses ..) rfl)))))))))

@[simp] theorem State.hostGo_fuses (s : State) (vd n : Nat) : (s.hostGo vd n).fuses = s.fuses := by
  induction n generalizing s with
  | zero => rfl
  | succ n ih =>
    simp only [State.hostGo]
    (repeat' split) <;> simp [ih]

@[simp] theorem State.hostAccess_fuses (s : State) (vd off : Nat) (isRead : Bool) (bs : List Byte) : (s.hostAccess vd off isRead bs).fuses = s.fuses := by
  unfold State.hostAccess
  split <;> simp

@[simp] theorem execBar2Write_fuses (vd off : Nat) (bytes : List Byte) (s : State) : fusesAfter s.fuses (execBar2Write vd off bytes s) = s.fuses := by
  simp [execBar2Write]

@[simp] theorem execBar2Read_fuses (vd off len : Nat) (s : State) : fusesAfter s.fuses (execBar2Read vd off len s) = s.fuses := by
  simp [execBar2Read]

/-! ### Power -/

@[simp] theorem State.fresh_fuses (s : State) : s.fresh.fuses = s.fuses := (rfl)

@[simp] theorem execPowerOn_fuses (s : State) : fusesAfter s.fuses (execPowerOn s) = s.fuses := by
  rw [execPowerOn, fusesAfter_next]
  refine ite_fuses rfl ?_
  extract_lets e f s1 gen width
  have hf : f.fuses = s.fuses := State.fresh_fuses s
  have h1 : s1.fuses = s.fuses := (foldl_fuses (fun _ _ => State.modDie_fuses ..) _ _).trans hf
  exact ite_fuses hf (ite_fuses h1 h1)

@[simp] theorem State.closeJournals_fuses (s : State) : (s.closeJournals).fuses = s.fuses :=
  foldl_fuses (fun _ _ => foldl_fuses (fun _ _ => foldl_fuses (fun _ _ => by simp) _ _) _ _) _ _

@[simp] theorem execPowerFail_fuses (s : State) : fusesAfter s.fuses (execPowerFail s) = s.fuses := by simp [execPowerFail]

@[simp] theorem execPackageReset_fuses (s : State) : fusesAfter s.fuses (execPackageReset s) = s.fuses := (rfl)

@[simp] theorem State.dropLathe_fuses (s : State) (vd : Nat) : (s.dropLathe vd).fuses = s.fuses := by
  unfold State.dropLathe
  exact foldl_fuses (fun _ _ => by split <;> simp) _ _

@[simp] theorem State.closeLaunches_fuses (s : State) (vd : Nat) : (s.closeLaunches vd).fuses = s.fuses :=
  foldl_fuses (fun _ _ => foldl_fuses (fun _ _ => by (repeat' split) <;> simp) _ _) _ _

@[simp] theorem execVfFlr_fuses (s : State) : fusesAfter s.fuses (execVfFlr s) = s.fuses := by
  simp only [execVfFlr, fusesAfter_next]
  split
  · rfl
  · rw [foldl_fuses fun _ _ => State.modDie_fuses ..]
    simp

@[simp] theorem execConverterFault_fuses (s : State) : fusesAfter s.fuses (execConverterFault s) = s.fuses := by
  unfold execConverterFault
  (repeat' split) <;> simp

@[simp] theorem execRailSample_fuses (s : State) : fusesAfter s.fuses (execRailSample s) = s.fuses := by
  unfold execRailSample
  simp only [fusesAfter_next]
  (repeat' split) <;> simp [*]

@[simp] theorem execChimneyStep_fuses (s : State) : fusesAfter s.fuses (execChimneyStep s) = s.fuses := by
  unfold execChimneyStep
  simp only [fusesAfter_next]
  (repeat' split) <;> simp [*]

@[simp] theorem State.killRun_fuses (s : State) (rid : Nat) : (s.killRun rid).fuses = s.fuses := (rfl)

@[simp] theorem execThermalTrip_fuses (s : State) : fusesAfter s.fuses (execThermalTrip s) = s.fuses := by
  simp only [execThermalTrip, fusesAfter_next]
  split <;> simp

@[simp] theorem execConnectorGrade_fuses (s : State) : fusesAfter s.fuses (execConnectorGrade s) = s.fuses := by
  unfold execConnectorGrade
  simp only [fusesAfter_next]
  (repeat' split) <;> simp [*]

@[simp] theorem State.pinSpare_fuses (s : State) : s.pinSpare.fuses = s.fuses := (rfl)

@[simp] theorem State.sendMsix_fuses (s : State) : s.sendMsix.fuses = s.fuses := by
  unfold State.sendMsix
  exact foldl_fuses (fun _ _ => by simp) _ _

@[simp] theorem execHostLinkTrain_fuses (s : State) : fusesAfter s.fuses (execHostLinkTrain s) = s.fuses := by
  unfold execHostLinkTrain
  simp only [fusesAfter_next]
  (repeat' split) <;> simp [*]

@[simp] theorem execPodLinkRetrain_fuses (s : State) : fusesAfter s.fuses (execPodLinkRetrain s) = s.fuses := by
  unfold execPodLinkRetrain
  simp only [fusesAfter_next]
  (repeat' split) <;> simp [*]

@[simp] theorem State.countUncorr_fuses (s : State) (die : Nat) : (s.countUncorr die).fuses = s.fuses := (rfl)

@[simp] theorem State.tagEvent_fuses (s : State) (vd die key way : Nat) : (s.tagEvent vd die key way).fuses = s.fuses := by
  simp [State.tagEvent]

@[simp] theorem State.rollOrKill_fuses (s : State) (vd : Nat) : (s.rollOrKill vd).fuses = s.fuses := by
  unfold State.rollOrKill
  exact foldl_fuses (fun _ _ => by (repeat' split) <;> simp) _ _

@[simp] theorem execTagpar_fuses (s : State) : fusesAfter s.fuses (execTagpar s) = s.fuses := by
  unfold execTagpar
  simp only [fusesAfter_next]
  (repeat' split) <;> simp [*]

@[simp] theorem State.poisonSector_fuses (s : State) (pa : Nat) : (s.poisonSector pa).fuses = s.fuses := by simp [State.poisonSector]

@[simp] theorem State.eccCore_fuses (s : State) (core code kind obj node addr : Nat) : (s.eccCore core code kind obj node addr).fuses = s.fuses := by
  unfold State.eccCore
  dsimp only
  (repeat' split) <;> simp

@[simp] theorem State.eccL2_fuses (s : State) (pa : Nat) : (s.eccL2 pa).fuses = s.fuses := by
  simp only [State.eccL2]
  (repeat' split) <;> simp [*]

@[simp] theorem State.eccConfig_fuses (s : State) (rid core : Nat) : (s.eccConfig rid core).fuses = s.fuses := by
  unfold State.eccConfig
  dsimp only
  (repeat' split) <;> simp

@[simp] theorem execEcc_fuses (s : State) : fusesAfter s.fuses (execEcc s) = s.fuses := by
  unfold execEcc
  simp only [fusesAfter_next]
  (repeat' split) <;> simp [*]

/-! ### Vector -/

@[simp] theorem issueV_fuses (h : Hdr) (ty : BitVec 4) (d : Reg) (lat : Nat) (mc : MaskCtl) (r : Ctx → Nat → Nat) (s : State) :
    fusesAfter s.fuses (issueV h ty d lat mc r s) = s.fuses := by
  unfold issueV
  exact issue_fuses (fun _ => by simp [Eff.fusesOr])

@[simp] theorem issueVw_fuses (h : Hdr) (d : Reg) (lat : Nat) (r : Ctx → Vec) (s : State) : fusesAfter s.fuses (issueVw h d lat r s) = s.fuses := by
  unfold issueVw
  exact issue_fuses (fun _ => by simp [Eff.fusesOr])

@[simp] theorem issueVx_fuses (h : Hdr) (d : Reg) (lat : Nat) (r : Ctx → Word) (s : State) : fusesAfter s.fuses (issueVx h d lat r s) = s.fuses := by
  unfold issueVx
  exact issue_fuses (fun _ => by simp [Eff.fusesOr])

@[simp] theorem issueVm_fuses (h : Hdr) (d : Reg) (r : Ctx → Mask) (s : State) : fusesAfter s.fuses (issueVm h d r s) = s.fuses := by
  unfold issueVm
  exact issue_fuses (fun _ => by simp [Eff.fusesOr])

@[simp] theorem execVadd_fuses (h : Hdr) (ty : BitVec 4) (d a b : Reg) (rm : BitVec 3) (mc : MaskCtl) (s : State) :
    fusesAfter s.fuses (execVadd h ty d a b rm mc s) = s.fuses := by
  unfold execVadd
  exact issue_fuses (fun _ => by simp [Eff.fusesOr])

@[simp] theorem execVsub_fuses (h : Hdr) (ty : BitVec 4) (d a b : Reg) (rm : BitVec 3) (mc : MaskCtl) (s : State) :
    fusesAfter s.fuses (execVsub h ty d a b rm mc s) = s.fuses := by
  unfold execVsub
  exact issue_fuses (fun _ => by simp [Eff.fusesOr])

@[simp] theorem execVmul_fuses (h : Hdr) (ty : BitVec 4) (d a b : Reg) (rm : BitVec 3) (mc : MaskCtl) (s : State) :
    fusesAfter s.fuses (execVmul h ty d a b rm mc s) = s.fuses := by
  unfold execVmul
  exact issue_fuses (fun _ => by simp [Eff.fusesOr])

@[simp] theorem execVmulh_fuses (h : Hdr) (ty : BitVec 4) (d a b : Reg) (mc : MaskCtl) (s : State) :
    fusesAfter s.fuses (execVmulh h ty d a b mc s) = s.fuses := by
  unfold execVmulh
  exact issue_fuses (fun _ => by simp [Eff.fusesOr])

@[simp] theorem execVmac_fuses (h : Hdr) (ty : BitVec 4) (d a b c' : Reg) (rm : BitVec 3) (mc : MaskCtl) (s : State) :
    fusesAfter s.fuses (execVmac h ty d a b c' rm mc s) = s.fuses := by
  unfold execVmac
  exact issue_fuses (fun _ => by simp [Eff.fusesOr])

@[simp] theorem execVmin_fuses (h : Hdr) (ty : BitVec 4) (d a b : Reg) (mc : MaskCtl) (s : State) :
    fusesAfter s.fuses (execVmin h ty d a b mc s) = s.fuses := by
  unfold execVmin
  exact issue_fuses (fun _ => by simp [Eff.fusesOr])

@[simp] theorem execVmax_fuses (h : Hdr) (ty : BitVec 4) (d a b : Reg) (mc : MaskCtl) (s : State) :
    fusesAfter s.fuses (execVmax h ty d a b mc s) = s.fuses := by
  unfold execVmax
  exact issue_fuses (fun _ => by simp [Eff.fusesOr])

@[simp] theorem execVabs_fuses (h : Hdr) (ty : BitVec 4) (d a : Reg) (rm : BitVec 3) (mc : MaskCtl) (s : State) :
    fusesAfter s.fuses (execVabs h ty d a rm mc s) = s.fuses := by
  unfold execVabs
  exact issue_fuses (fun _ => by simp [Eff.fusesOr])

@[simp] theorem execVneg_fuses (h : Hdr) (ty : BitVec 4) (d a : Reg) (rm : BitVec 3) (mc : MaskCtl) (s : State) :
    fusesAfter s.fuses (execVneg h ty d a rm mc s) = s.fuses := by
  unfold execVneg
  exact issue_fuses (fun _ => by simp [Eff.fusesOr])

@[simp] theorem execVand_fuses (h : Hdr) (ty : BitVec 4) (d a b : Reg) (mc : MaskCtl) (s : State) :
    fusesAfter s.fuses (execVand h ty d a b mc s) = s.fuses := by
  unfold execVand
  exact issue_fuses (fun _ => by simp [Eff.fusesOr])

@[simp] theorem execVor_fuses (h : Hdr) (ty : BitVec 4) (d a b : Reg) (mc : MaskCtl) (s : State) :
    fusesAfter s.fuses (execVor h ty d a b mc s) = s.fuses := by
  unfold execVor
  exact issue_fuses (fun _ => by simp [Eff.fusesOr])

@[simp] theorem execVxor_fuses (h : Hdr) (ty : BitVec 4) (d a b : Reg) (mc : MaskCtl) (s : State) :
    fusesAfter s.fuses (execVxor h ty d a b mc s) = s.fuses := by
  unfold execVxor
  exact issue_fuses (fun _ => by simp [Eff.fusesOr])

@[simp] theorem execVnot_fuses (h : Hdr) (ty : BitVec 4) (d a : Reg) (mc : MaskCtl) (s : State) : fusesAfter s.fuses (execVnot h ty d a mc s) = s.fuses := by
  unfold execVnot
  exact issue_fuses (fun _ => by simp [Eff.fusesOr])

@[simp] theorem execVandn_fuses (h : Hdr) (ty : BitVec 4) (d a b : Reg) (mc : MaskCtl) (s : State) :
    fusesAfter s.fuses (execVandn h ty d a b mc s) = s.fuses := by
  unfold execVandn
  exact issue_fuses (fun _ => by simp [Eff.fusesOr])

@[simp] theorem execVshl_fuses (h : Hdr) (ty : BitVec 4) (d a b : Reg) (mc : MaskCtl) (s : State) :
    fusesAfter s.fuses (execVshl h ty d a b mc s) = s.fuses := by
  unfold execVshl
  exact issue_fuses (fun _ => by simp [Eff.fusesOr])

@[simp] theorem execVshr_fuses (h : Hdr) (ty : BitVec 4) (d a b : Reg) (mc : MaskCtl) (s : State) :
    fusesAfter s.fuses (execVshr h ty d a b mc s) = s.fuses := by
  unfold execVshr
  exact issue_fuses (fun _ => by simp [Eff.fusesOr])

@[simp] theorem execVsar_fuses (h : Hdr) (ty : BitVec 4) (d a b : Reg) (mc : MaskCtl) (s : State) :
    fusesAfter s.fuses (execVsar h ty d a b mc s) = s.fuses := by
  unfold execVsar
  exact issue_fuses (fun _ => by simp [Eff.fusesOr])

@[simp] theorem execVsel_fuses (h : Hdr) (ty : BitVec 4) (d a b m : Reg) (s : State) : fusesAfter s.fuses (execVsel h ty d a b m s) = s.fuses := by
  unfold execVsel
  exact issue_fuses (fun _ => by simp [Eff.fusesOr])

@[simp] theorem execVcmp_fuses (h : Hdr) (cc ty : BitVec 4) (d a b : Reg) (mc : MaskCtl) (s : State) :
    fusesAfter s.fuses (execVcmp h cc ty d a b mc s) = s.fuses := by
  unfold execVcmp
  exact issue_fuses (fun _ => by simp [Eff.fusesOr])

@[simp] theorem execVpack_fuses (h : Hdr) (ty : BitVec 4) (d a b : Reg) (rm : BitVec 3) (mc : MaskCtl) (s : State) :
    fusesAfter s.fuses (execVpack h ty d a b rm mc s) = s.fuses := by
  unfold execVpack
  exact issue_fuses (fun _ => by simp [Eff.fusesOr])

@[simp] theorem execVunpk_fuses (h : Hdr) (ty : BitVec 4) (d a : Reg) (hi : Bool) (mc : MaskCtl) (s : State) :
    fusesAfter s.fuses (execVunpk h ty d a hi mc s) = s.fuses := by
  unfold execVunpk
  exact issue_fuses (fun _ => by simp [Eff.fusesOr])

@[simp] theorem execVradd_fuses (h : Hdr) (ty : BitVec 4) (d a : Reg) (rm ms : BitVec 3) (s : State) :
    fusesAfter s.fuses (execVradd h ty d a rm ms s) = s.fuses := by
  unfold execVradd
  exact issue_fuses (fun _ => by simp [Eff.fusesOr])

@[simp] theorem execVrmin_fuses (h : Hdr) (ty : BitVec 4) (d a : Reg) (ms : BitVec 3) (s : State) :
    fusesAfter s.fuses (execVrmin h ty d a ms s) = s.fuses := by
  unfold execVrmin
  exact issue_fuses (fun _ => by simp [Eff.fusesOr])

@[simp] theorem execVrmax_fuses (h : Hdr) (ty : BitVec 4) (d a : Reg) (ms : BitVec 3) (s : State) :
    fusesAfter s.fuses (execVrmax h ty d a ms s) = s.fuses := by
  unfold execVrmax
  exact issue_fuses (fun _ => by simp [Eff.fusesOr])

@[simp] theorem execVrminu_fuses (h : Hdr) (ty : BitVec 4) (d a : Reg) (ms : BitVec 3) (s : State) :
    fusesAfter s.fuses (execVrminu h ty d a ms s) = s.fuses := by
  unfold execVrminu
  exact issue_fuses (fun _ => by simp [Eff.fusesOr])

@[simp] theorem execVrmaxu_fuses (h : Hdr) (ty : BitVec 4) (d a : Reg) (ms : BitVec 3) (s : State) :
    fusesAfter s.fuses (execVrmaxu h ty d a ms s) = s.fuses := by
  unfold execVrmaxu
  exact issue_fuses (fun _ => by simp [Eff.fusesOr])

@[simp] theorem execVrand_fuses (h : Hdr) (ty : BitVec 4) (d a : Reg) (ms : BitVec 3) (s : State) :
    fusesAfter s.fuses (execVrand h ty d a ms s) = s.fuses := by
  unfold execVrand
  exact issue_fuses (fun _ => by simp [Eff.fusesOr])

@[simp] theorem execVror_fuses (h : Hdr) (ty : BitVec 4) (d a : Reg) (ms : BitVec 3) (s : State) : fusesAfter s.fuses (execVror h ty d a ms s) = s.fuses := by
  unfold execVror
  exact issue_fuses (fun _ => by simp [Eff.fusesOr])

@[simp] theorem execVperm_fuses (h : Hdr) (ty : BitVec 4) (d a b : Reg) (mc : MaskCtl) (s : State) :
    fusesAfter s.fuses (execVperm h ty d a b mc s) = s.fuses := by
  unfold execVperm
  exact issue_fuses (fun _ => by simp [Eff.fusesOr])

@[simp] theorem execVslideup_fuses (h : Hdr) (ty : BitVec 4) (d a b : Reg) (mc : MaskCtl) (s : State) :
    fusesAfter s.fuses (execVslideup h ty d a b mc s) = s.fuses := by
  unfold execVslideup
  exact issue_fuses (fun _ => by simp [Eff.fusesOr])

@[simp] theorem execVslidedn_fuses (h : Hdr) (ty : BitVec 4) (d a b : Reg) (mc : MaskCtl) (s : State) :
    fusesAfter s.fuses (execVslidedn h ty d a b mc s) = s.fuses := by
  unfold execVslidedn
  exact issue_fuses (fun _ => by simp [Eff.fusesOr])

@[simp] theorem execVzip_fuses (h : Hdr) (ty : BitVec 4) (d a b : Reg) (mc : MaskCtl) (s : State) :
    fusesAfter s.fuses (execVzip h ty d a b mc s) = s.fuses := by
  unfold execVzip
  exact issue_fuses (fun _ => by simp [Eff.fusesOr])

@[simp] theorem execVunzip_fuses (h : Hdr) (ty : BitVec 4) (d a b : Reg) (mc : MaskCtl) (s : State) :
    fusesAfter s.fuses (execVunzip h ty d a b mc s) = s.fuses := by
  unfold execVunzip
  exact issue_fuses (fun _ => by simp [Eff.fusesOr])

@[simp] theorem execVrev_fuses (h : Hdr) (ty : BitVec 4) (d a : Reg) (mc : MaskCtl) (s : State) : fusesAfter s.fuses (execVrev h ty d a mc s) = s.fuses := by
  unfold execVrev
  exact issue_fuses (fun _ => by simp [Eff.fusesOr])

@[simp] theorem execVbcast_fuses (h : Hdr) (ty : BitVec 4) (d a : Reg) (mc : MaskCtl) (s : State) :
    fusesAfter s.fuses (execVbcast h ty d a mc s) = s.fuses := by
  unfold execVbcast
  exact issue_fuses (fun _ => by simp [Eff.fusesOr])

@[simp] theorem execVext_fuses (h : Hdr) (ty : BitVec 4) (d a b : Reg) (s : State) : fusesAfter s.fuses (execVext h ty d a b s) = s.fuses := by
  unfold execVext
  exact issue_fuses (fun _ => by simp [Eff.fusesOr])

@[simp] theorem execVins_fuses (h : Hdr) (ty : BitVec 4) (d a b : Reg) (s : State) : fusesAfter s.fuses (execVins h ty d a b s) = s.fuses := by
  unfold execVins
  exact issue_fuses (fun _ => by simp [Eff.fusesOr])

@[simp] theorem execVcompress_fuses (h : Hdr) (ty : BitVec 4) (d a m : Reg) (s : State) : fusesAfter s.fuses (execVcompress h ty d a m s) = s.fuses := by
  unfold execVcompress
  exact issue_fuses (fun _ => by simp [Eff.fusesOr])

@[simp] theorem execVexpand_fuses (h : Hdr) (ty : BitVec 4) (d a m : Reg) (s : State) : fusesAfter s.fuses (execVexpand h ty d a m s) = s.fuses := by
  unfold execVexpand
  exact issue_fuses (fun _ => by simp [Eff.fusesOr])

@[simp] theorem execVscan_fuses (h : Hdr) (ty : BitVec 4) (d a : Reg) (rm : BitVec 3) (mc : MaskCtl) (s : State) :
    fusesAfter s.fuses (execVscan h ty d a rm mc s) = s.fuses := by
  unfold execVscan
  exact issue_fuses (fun _ => by simp [Eff.fusesOr])

@[simp] theorem execViota_fuses (h : Hdr) (ty : BitVec 4) (d : Reg) (mc : MaskCtl) (s : State) : fusesAfter s.fuses (execViota h ty d mc s) = s.fuses := by
  unfold execViota
  exact issue_fuses (fun _ => by simp [Eff.fusesOr])

@[simp] theorem execVmov_fuses (h : Hdr) (ty : BitVec 4) (d a : Reg) (mc : MaskCtl) (s : State) : fusesAfter s.fuses (execVmov h ty d a mc s) = s.fuses := by
  unfold execVmov
  exact issue_fuses (fun _ => by simp [Eff.fusesOr])

@[simp] theorem execMand_fuses (h : Hdr) (d a b : Reg) (s : State) : fusesAfter s.fuses (execMand h d a b s) = s.fuses := by
  unfold execMand
  exact issue_fuses (fun _ => by simp [Eff.fusesOr])

@[simp] theorem execMor_fuses (h : Hdr) (d a b : Reg) (s : State) : fusesAfter s.fuses (execMor h d a b s) = s.fuses := by
  unfold execMor
  exact issue_fuses (fun _ => by simp [Eff.fusesOr])

@[simp] theorem execMxor_fuses (h : Hdr) (d a b : Reg) (s : State) : fusesAfter s.fuses (execMxor h d a b s) = s.fuses := by
  unfold execMxor
  exact issue_fuses (fun _ => by simp [Eff.fusesOr])

@[simp] theorem execMnot_fuses (h : Hdr) (d a : Reg) (s : State) : fusesAfter s.fuses (execMnot h d a s) = s.fuses := by
  unfold execMnot
  exact issue_fuses (fun _ => by simp [Eff.fusesOr])

@[simp] theorem execMpopc_fuses (h : Hdr) (ty : BitVec 4) (d a : Reg) (s : State) : fusesAfter s.fuses (execMpopc h ty d a s) = s.fuses := by
  unfold execMpopc
  exact issue_fuses (fun _ => by simp [Eff.fusesOr])

@[simp] theorem execMfirst_fuses (h : Hdr) (ty : BitVec 4) (d a : Reg) (s : State) : fusesAfter s.fuses (execMfirst h ty d a s) = s.fuses := by
  unfold execMfirst
  exact issue_fuses (fun _ => by simp [Eff.fusesOr])

/-! ### VectorFp -/

@[simp] theorem issueF_fuses (h : Hdr) (d : Reg) (lat : Nat) (mc : MaskCtl) (r : Ctx → Nat → FRes) (s : State) :
    fusesAfter s.fuses (issueF h d lat mc r s) = s.fuses := by
  unfold issueF
  exact issue_fuses (fun _ => by simp [Eff.fusesOr])

@[simp] theorem execVfadd_fuses (h : Hdr) (d a b : Reg) (rm : BitVec 3) (mc : MaskCtl) (s : State) :
    fusesAfter s.fuses (execVfadd h d a b rm mc s) = s.fuses := by
  unfold execVfadd
  exact issue_fuses (fun _ => by simp [Eff.fusesOr])

@[simp] theorem execVfsub_fuses (h : Hdr) (d a b : Reg) (rm : BitVec 3) (mc : MaskCtl) (s : State) :
    fusesAfter s.fuses (execVfsub h d a b rm mc s) = s.fuses := by
  unfold execVfsub
  exact issue_fuses (fun _ => by simp [Eff.fusesOr])

@[simp] theorem execVfmul_fuses (h : Hdr) (d a b : Reg) (rm : BitVec 3) (mc : MaskCtl) (s : State) :
    fusesAfter s.fuses (execVfmul h d a b rm mc s) = s.fuses := by
  unfold execVfmul
  exact issue_fuses (fun _ => by simp [Eff.fusesOr])

@[simp] theorem execVfmin_fuses (h : Hdr) (d a b : Reg) (_rm : BitVec 3) (mc : MaskCtl) (s : State) :
    fusesAfter s.fuses (execVfmin h d a b _rm mc s) = s.fuses := by
  unfold execVfmin
  exact issue_fuses (fun _ => by simp [Eff.fusesOr])

@[simp] theorem execVfmax_fuses (h : Hdr) (d a b : Reg) (_rm : BitVec 3) (mc : MaskCtl) (s : State) :
    fusesAfter s.fuses (execVfmax h d a b _rm mc s) = s.fuses := by
  unfold execVfmax
  exact issue_fuses (fun _ => by simp [Eff.fusesOr])

@[simp] theorem execVfabs_fuses (h : Hdr) (d a : Reg) (_rm : BitVec 3) (mc : MaskCtl) (s : State) :
    fusesAfter s.fuses (execVfabs h d a _rm mc s) = s.fuses := by
  unfold execVfabs
  exact issue_fuses (fun _ => by simp [Eff.fusesOr])

@[simp] theorem execVfneg_fuses (h : Hdr) (d a : Reg) (_rm : BitVec 3) (mc : MaskCtl) (s : State) :
    fusesAfter s.fuses (execVfneg h d a _rm mc s) = s.fuses := by
  unfold execVfneg
  exact issue_fuses (fun _ => by simp [Eff.fusesOr])

@[simp] theorem execVfma_fuses (h : Hdr) (d a b c' : Reg) (rm : BitVec 3) (mc : MaskCtl) (s : State) :
    fusesAfter s.fuses (execVfma h d a b c' rm mc s) = s.fuses := by
  unfold execVfma
  exact issue_fuses (fun _ => by simp [Eff.fusesOr])

@[simp] theorem execVfms_fuses (h : Hdr) (d a b c' : Reg) (rm : BitVec 3) (mc : MaskCtl) (s : State) :
    fusesAfter s.fuses (execVfms h d a b c' rm mc s) = s.fuses := by
  unfold execVfms
  exact issue_fuses (fun _ => by simp [Eff.fusesOr])

@[simp] theorem execVfnma_fuses (h : Hdr) (d a b c' : Reg) (rm : BitVec 3) (mc : MaskCtl) (s : State) :
    fusesAfter s.fuses (execVfnma h d a b c' rm mc s) = s.fuses := by
  unfold execVfnma
  exact issue_fuses (fun _ => by simp [Eff.fusesOr])

@[simp] theorem execVfnms_fuses (h : Hdr) (d a b c' : Reg) (rm : BitVec 3) (mc : MaskCtl) (s : State) :
    fusesAfter s.fuses (execVfnms h d a b c' rm mc s) = s.fuses := by
  unfold execVfnms
  exact issue_fuses (fun _ => by simp [Eff.fusesOr])

@[simp] theorem execVfrcp_fuses (h : Hdr) (d a : Reg) (s : State) : fusesAfter s.fuses (execVfrcp h d a s) = s.fuses := by
  unfold execVfrcp
  exact issue_fuses (fun _ => by simp [Eff.fusesOr])

@[simp] theorem execVfrsq_fuses (h : Hdr) (d a : Reg) (s : State) : fusesAfter s.fuses (execVfrsq h d a s) = s.fuses := by
  unfold execVfrsq
  exact issue_fuses (fun _ => by simp [Eff.fusesOr])

@[simp] theorem execVfclass_fuses (h : Hdr) (d a : Reg) (mc : MaskCtl) (s : State) : fusesAfter s.fuses (execVfclass h d a mc s) = s.fuses := by
  unfold execVfclass
  exact issue_fuses (fun _ => by simp [Eff.fusesOr])

@[simp] theorem execVfscale_fuses (h : Hdr) (d a b : Reg) (rm : BitVec 3) (mc : MaskCtl) (s : State) :
    fusesAfter s.fuses (execVfscale h d a b rm mc s) = s.fuses := by
  unfold execVfscale
  exact issue_fuses (fun _ => by simp [Eff.fusesOr])

@[simp] theorem execVfgetexp_fuses (h : Hdr) (d a : Reg) (mc : MaskCtl) (s : State) : fusesAfter s.fuses (execVfgetexp h d a mc s) = s.fuses := by
  unfold execVfgetexp
  exact issue_fuses (fun _ => by simp [Eff.fusesOr])

@[simp] theorem cvtBody_fuses (f : CvtF) (s : State) (cid : Nat) : (cvtBody f s cid).fusesOr s.fuses = s.fuses := by
  unfold cvtBody
  (repeat' split) <;> simp [Eff.fusesOr]

@[simp] theorem execVcvt_fuses (h : Hdr) (f : CvtF) (s : State) : fusesAfter s.fuses (execVcvt h f s) = s.fuses :=
  issue_fuses (fun _ => by simp)

@[simp] theorem execVrfadd_fuses (h : Hdr) (d a : Reg) (rm ms : BitVec 3) (s : State) : fusesAfter s.fuses (execVrfadd h d a rm ms s) = s.fuses := by
  unfold execVrfadd
  exact issue_fuses (fun _ => by simp [Eff.fusesOr])

@[simp] theorem rxaddBody_fuses (ty : BitVec 4) (d a b : Reg) (ms : BitVec 3) (s : State) (cid : Nat) :
    (rxaddBody ty d a b ms s cid).fusesOr s.fuses = s.fuses := by
  unfold rxaddBody
  dsimp only
  (repeat' split) <;> simp [Eff.fusesOr]

@[simp] theorem execVrxadd_fuses (h : Hdr) (ty : BitVec 4) (d a b : Reg) (ms : BitVec 3) (s : State) :
    fusesAfter s.fuses (execVrxadd h ty d a b ms s) = s.fuses :=
  issue_fuses (fun _ => by simp)

@[simp] theorem execVres_fuses (h : Hdr) (d a : Reg) (s : State) : fusesAfter s.fuses (execVres h d a s) = s.fuses := by
  unfold execVres
  exact issue_fuses (fun _ => by simp [Eff.fusesOr])

/-! ### FUSE_ADVANCE, and the step -/

theorem State.advanceFuse_fuses (s : State) (d n : Nat) : (s.advanceFuse d n).fuses = tset 0 s.fuses d n :=
  foldl_fuses (fun _ _ => foldl_fuses (fun _ _ => by split <;> simp) _ _) _ _

/-- A request that passes its checks asks for more than the present count (R87). -/
theorem fuse_lt_of_fuseCheck {len d n : Nat} {bs : List Byte} (h : fuseCheck s len bs = .ok (d, n)) : s.fuse d < n := by
  simp only [fuseCheck] at h
  split at h
  · simp at h
  split at h
  · simp at h
  split at h
  · simp at h
  · next hn =>
    simp only [Except.ok.injEq, Prod.mk.injEq] at h
    simp only [Bool.or_eq_true, decide_eq_true_eq, not_or, not_le, h.1, h.2] at hn
    exact hn.1.1

theorem State.fuse_of_fuses (h : t.fuses = s.fuses) (k : Nat) : t.fuse k = s.fuse k := by rw [State.fuse, h, State.fuse]

/-- The request of the mailbox ends, and no count is lower than it was. -/
theorem State.fuse_le_endIm (s : State) (q : ImReq) (k : Nat) : s.fuse k ≤ (s.endIm q).fuse k := by
  simp only [State.endIm]
  split
  · exact le_rfl
  split
  · exact le_rfl
  · next d n h =>
    have hn := fuse_lt_of_fuseCheck h
    simp only [State.fuse, State.advanceFuse_fuses, tget_tset] at hn ⊢
    split
    · next hk => exact hk ▸ hn.le
    · exact le_rfl

/-- What a step answers has no lower count than the state before it. -/
def KeepsFuses (s : State) (o : Host.Outcome State Fault Refusal) : Prop := ∀ t, o = .next t → ∀ k, s.fuse k ≤ t.fuse k

theorem keepsFuses_of_fusesAfter {o : Host.Outcome State Fault Refusal} (h : fusesAfter s.fuses o = s.fuses) : KeepsFuses s o := by
  rintro t rfl k
  exact (State.fuse_of_fuses h k).ge

theorem execFuseAdvance_keepsFuses (len : BitVec 32) (i3c : Option (List Byte)) (s : State) : KeepsFuses s (execFuseAdvance len i3c s) := by
  unfold execFuseAdvance
  split
  · split
    · rintro t ⟨⟩
      exact State.fuse_le_endIm _ _
    · exact keepsFuses_of_fusesAfter rfl
  · refine keepsFuses_of_fusesAfter ?_
    rw [fusesAfter_next]
    (repeat' split) <;> simp

theorem exec_keepsFuses (i : Instr) (s : State) : KeepsFuses s (exec i s) := by
  cases i
  case fuseAdvance => exact execFuseAdvance_keepsFuses _ _ s
  all_goals exact keepsFuses_of_fusesAfter (by simp [exec])

/-- The state in which a turn leaves the machine, or in which its word issues. -/
def Turned.state : Turned → State
  | .stay s | .word _ s => s

theorem State.present_fuses (s : State) (cid : Nat) : (s.present cid).state.fuses = s.fuses := by
  simp only [State.present]
  (repeat' split) <;> simp [Turned.state]

theorem State.turnOf_fuses (s : State) (cid : Nat) : (s.turnOf cid).state.fuses = s.fuses := by
  simp only [State.turnOf]
  split
  · rfl
  split
  · rfl
  · rw [State.present_fuses, State.unpark_fuses, State.modCtx_fuses, State.startsFiring_fuses]
    split <;> simp

theorem issueTurn_keepsFuses (s : State) (cid : Nat) : KeepsFuses s (runTurn (.issue cid) s) := by
  have hturn := s.turnOf_fuses cid
  simp only [runTurn]
  split <;> rename_i he <;> rw [he] at hturn
  · exact keepsFuses_of_fusesAfter ((State.afterIssue_fuses ..).trans hturn)
  · next i u =>
    have hexec := exec_keepsFuses i u
    split <;> rintro t ⟨⟩ k
    next v hv => exact (State.fuse_of_fuses hturn k).ge.trans ((hexec v hv k).trans_eq (State.fuse_of_fuses (State.afterIssue_fuses ..) k).symm)

theorem runTurn_keepsFuses (a : Turn) (s : State) : KeepsFuses s (runTurn a s) := by
  cases a with
  | op i e =>
    have hexec := exec_keepsFuses i { s with ev := e }
    simp only [runTurn]
    split <;> rintro t ⟨⟩ k
    next v hv => exact hexec v hv k
  | issue cid => exact issueTurn_keepsFuses s cid
  | raw vd port kind c => exact keepsFuses_of_fusesAfter (State.command_fuses ..)
  | tick => exact keepsFuses_of_fusesAfter s.tick_fuses

theorem step_keepsFuses (s : State) : KeepsFuses s (step s) := by
  unfold step
  split
  · exact runTurn_keepsFuses _ { s with agenda := _ }
  · exact runTurn_keepsFuses _ s

/-- Settles O58: FUSE_ADVANCE alone changes a count, and its checks have the new one above the present one. -/
theorem noStepLowersAFuseCount : Obligations.NoStepLowersAFuseCount :=
  fun s t _ hlow h d => (hlow d).trans (step_keepsFuses s t h d)

end Sys2Proof.Machine
end

section
namespace Sys2Proof.Machine

/-! ## A monitor's EVENT beyond its field -/

/-- The machine after reset with a word at context 0, whose monitor's EVENT is 64: no value of the field of 4 bits of R345, yet one that the model's monitor can
hold. -/
def wideEventState : State :=
  { (State.reset.withFetchWord 64 0).modCtx 0 fun c => { c with mon := { c.mon with event := 64 } } with cur := some 0 }

/-- The header of a word with no predicate, no switch and no gap. -/
def plainHdr : Hdr := { pn := false, pr := 0, sw := false, gap := 0 }

/-- MONSEL there reads with its bit 62, CLR, set. -/
theorem pend_csrr_wideEventState :
    (nextOf (exec (.csrr plainHdr 1 0x040) wideEventState)).map (fun t => (t.ctx 0).pend.map fun p => p.val.getLsbD 62) = some [true] := by decide +kernel

/-- The result of a word that computes a scalar, for a register that keeps it, is the last of those in flight. -/
theorem pend_of_resultX {i : Instr} {s : State} {cid : Nat} {h : Hdr} {d : Reg} {v : Word} {lat : Nat} (hd : discards .x d.toNat = false)
    (hr : ResultX i s cid h d v lat) :
    ∃ t, exec i s = .next t ∧ (t.ctx cid).pend = (s.ctx cid).pend ++ [{ file := .x, reg := d.toNat, left := lat, val := v.setWidth 2048 }] := by
  refine ⟨_, hr, ?_⟩
  rw [ctx_settle_next_self, State.ctx_modCtx_self]
  simp [Ctx.pendW, hd]

/-- The clause on MONSEL has CLR read 0 at every state, with no premise that EVENT fits its field. -/
theorem not_specialRegistersAreRead : ¬ SpecialRegistersAreRead := by
  intro h
  obtain ⟨hread, -⟩ := h wideEventState 0 plainHdr 1 0x040 0 (fetchRun State.reset) (by decide +kernel)
  have hissues : Issues wideEventState 0 plainHdr [(0, 14)] 1 :=
    { named := rfl, latched := by decide +kernel, lets := by decide +kernel, room := by decide +kernel }
  obtain ⟨v, hv, hreg⟩ := hread hissues (by decide)
  have hclr : v.getLsbD 62 = false := by
    obtain ⟨-, -, -, -, -, -, -, -, -, -, -, -, -, -, -, hmonsel, -⟩ := hreg
    exact (hmonsel rfl).2
  obtain ⟨t, ht, hpend⟩ := pend_of_resultX (by decide) hv
  have hnone : (wideEventState.ctx 0).pend = [] := by decide +kernel
  have hset := pend_csrr_wideEventState
  rw [ht, nextOf, Option.map_some, hpend, hnone] at hset
  have hbit : (v.setWidth 2048).getLsbD 62 = true := (List.cons.inj (Option.some.inj hset)).1
  rw [BitVec.getLsbD_setWidth, hclr] at hbit
  exact absurd hbit (by decide)

/-- Refutes O33: the model's monitor holds EVENT as a natural number, and where that exceeds the field (`wideEventState`) MONSEL does not read 0 at CLR. -/
theorem not_specialRegistersAreReadAndWritten : ¬ Obligations.SpecialRegistersAreReadAndWritten := fun h => not_specialRegistersAreRead h.1

end Sys2Proof.Machine
end

section
namespace Sys2Proof.Machine

/-! ## A context on a core whose allowance has the key of another Damper -/

/-- A Damper with FLOOR tokens for virtual device 0. -/
def flooredDamper : Damper := { Damper.init with floor := [(0, 1)] }

/-- The page of virtual device 0 that its code and the byte written lie on. -/
def writablePage : Page := { vd := 0, va := 0, size := 4096, pa := 0, writable := true, sync := false }

/-- The machine with an uncertain segment on core 65536, which R8 does not have: the class-9 key of its speculative allowance is the key of bridge B3 of die 0.
Its band is 0, so it may not issue and stands at no Damper; the next one on the way of its fetch is the slice port that the host's write passes last. -/
def farCoreState : State :=
  { (State.reset.modVd 0 fun v => { v with pages := [writablePage] }).setCtx 524288
      { Ctx.init with role := .seg 1 0, ccond := 0x20000, running := true, fpaid := 1 } with
    up := true, linkUp := true, runs := [{ fetchRun State.reset with id := 1 }]
    dampers := [(dampKey 2 0, flooredDamper), (dampKey 5 1, flooredDamper), (dampKey 8 4096, { Damper.init with ceil := [(0, 0)] }),
      (dampKey 10 0, flooredDamper)] }

/-- The grant at B3 leaves the segment an allowance, its fetch is granted at the slice port before the host's write, and the byte is not written. -/
theorem devByte_bar2Write_farCoreState : (nextOf (exec (.bar2Write 0 64 [1]) farCoreState)).map (fun t => t.devByte 64) = some 0 := by decide +kernel

/-- The clause on a write asks of the Dampers on its way that no request stands at them as it arrives, which does not keep one from standing there before it has
passed them all. -/
theorem not_bar2Reaches : ¬ Bar2Reaches := by
  intro h
  obtain ⟨-, -, hmapped, -⟩ := h farCoreState 0 64 1 (by decide) (by decide +kernel) rfl rfl (by decide +kernel)
  obtain ⟨hwrite, -⟩ := hmapped writablePage (by decide +kernel)
  obtain ⟨t, ht, hbyte, -⟩ := hwrite (by decide +kernel) rfl (.inl (by decide +kernel))
  have hnone := devByte_bar2Write_farCoreState
  rw [ht] at hnone
  exact absurd (hbyte.symm.trans (Option.some.inj hnone)) (by decide)

/-- Refutes O56: a core number past the last one gives the allowance of a segment the key of a bridge's Damper, and a request that this lets stand at a later
Damper goes before the host's write, which then waits (`farCoreState`). -/
theorem not_hostRegistersComplete : ¬ Obligations.HostRegistersComplete := fun h => not_bar2Reaches h.2.2

end Sys2Proof.Machine
end

section
namespace Sys2Proof.Machine

/-! ## What a command leaves unchanged beside its own effect (O55) -/

/-- From one state to the other a command has at most come, been journaled, been dispatched or completed: bytes of device memory, the state of the ports and
of the journal, and APBASE may differ. -/
structure Quiet (s t : State) : Prop where
  rest : t = { s with vds := t.vds, dies := t.dies, dram := t.dram, sync := t.sync, poison := t.poison }
  vd : ∀ k, t.vd k = { s.vd k with
    ports := (t.vd k).ports, jidx := (t.vd k).jidx, jwrap := (t.vd k).jwrap, apbase := (t.vd k).apbase, apNext := (t.vd k).apNext }
  die : ∀ d, t.die d = { s.die d with l2 := (t.die d).l2 }

namespace Quiet
variable {s t u : State}

theorem refl (s : State) : Quiet s s := ⟨rfl, fun _ => rfl, fun _ => rfl⟩

theorem trans (h : Quiet s t) (g : Quiet t u) : Quiet s u where
  rest := by rw [g.rest, h.rest]
  vd k := by rw [g.vd k, h.vd k]
  die d := by rw [g.die d, h.die d]

variable (h : Quiet s t)
include h
theorem runs : t.runs = s.runs := by rw [h.rest]
theorem ctxs : t.ctxs = s.ctxs := by rw [h.rest]
theorem cores : t.cores = s.cores := by rw [h.rest]
theorem strips : t.strips = s.strips := by rw [h.rest]
theorem bandq : t.bandq = s.bandq := by rw [h.rest]
theorem podId : t.podId = s.podId := by rw [h.rest]
theorem colls : t.colls = s.colls := by rw [h.rest]
theorem flue : t.flue = s.flue := by rw [h.rest]
theorem lathe : t.lathe = s.lathe := by rw [h.rest]
theorem edgeRel : t.edgeRel = s.edgeRel := by rw [h.rest]
theorem dampers : t.dampers = s.dampers := by rw [h.rest]
theorem now : t.now = s.now := by rw [h.rest]
theorem sameRuns : SameRuns s t := ⟨h.runs, h.ctxs, h.cores⟩
theorem run (rid : Nat) : t.run rid = s.run rid := by rw [State.run, h.runs, State.run]
theorem core (k : Nat) : t.core k = s.core k := by rw [State.core, h.cores, State.core]
theorem grant (k : Nat) : (t.vd k).grant = (s.vd k).grant := by rw [h.vd k]
theorem pages (k : Nat) : (t.vd k).pages = (s.vd k).pages := by rw [h.vd k]
theorem objs (k : Nat) : (t.vd k).objs = (s.vd k).objs := by rw [h.vd k]
theorem held (k : Nat) : (t.vd k).held = (s.vd k).held := by rw [h.vd k]
theorem ways (k : Nat) : (t.vd k).ways = (s.vd k).ways := by rw [h.vd k]
theorem hostq (k : Nat) : (t.vd k).hostq = (s.vd k).hostq := by rw [h.vd k]
theorem featmask (k : Nat) : (t.vd k).featmask = (s.vd k).featmask := by rw [h.vd k]
theorem nextHandle (k : Nat) : (t.vd k).nextHandle = (s.vd k).nextHandle := by rw [h.vd k]
theorem tgen (d : Nat) : (t.die d).tgen = (s.die d).tgen := by rw [h.die d]
theorem tlb (d : Nat) : (t.die d).tlb = (s.die d).tlb := by rw [h.die d]
theorem leaf (vd l : Nat) : t.leaf vd l = s.leaf vd l := by simp only [State.leaf, h.featmask]
theorem pagesOf (vd : Nat) : t.pagesOf vd = s.pagesOf vd := by rw [State.pagesOf, h.pages, State.pagesOf]
theorem mapped (vd va len : Nat) (w : Bool) : t.mapped vd va len w = s.mapped vd va len w := by simp only [State.mapped, h.pagesOf]
theorem areas (vd : Nat) : t.areas vd = s.areas vd := by rw [State.areas, h.objs, h.runs, State.areas]
theorem object (vd n : Nat) : t.object vd n = s.object vd n := by rw [State.object, h.objs, State.object]
end Quiet

variable {s t u : State}

/-! ### The steps that are quiet -/

theorem Quiet.modVd {vd : Nat} {f : Vd → Vd}
    (hf : ∀ v, f v = { v with ports := (f v).ports, jidx := (f v).jidx, jwrap := (f v).jwrap, apbase := (f v).apbase, apNext := (f v).apNext }) :
    Quiet s (s.modVd vd f) where
  rest := rfl
  vd k := by
    rw [State.vd_modVd]
    split
    · next hk => exact hk ▸ hf _
    · rfl
  die _ := rfl

theorem Quiet.modPort (vd p : Nat) (f : Port → Port) : Quiet s (s.modPort vd p f) := Quiet.modVd fun _ => rfl
theorem Quiet.modPending (key : CmdKey) (f : Pending → Pending) : Quiet s (s.modPending key f) := Quiet.modPort ..
theorem Quiet.finishCmd (key : CmdKey) (st f res : Nat) : Quiet s (s.finishCmd key st f res) := Quiet.modPending ..
theorem Quiet.applyAp (vd : Nat) : Quiet s (s.applyAp vd) := Quiet.modVd fun _ => rfl

theorem Quiet.setL2 (n : Nat) (x : Table (List L2Line)) : Quiet s (s.setDie n { s.die n with l2 := x }) where
  rest := rfl
  vd _ := rfl
  die d := by
    by_cases hd : d = n
    · rw [hd, State.die_setDie_self]
    · rw [State.die_setDie_other _ _ hd]

theorem Quiet.memory (m : Memory) (sy : Table Bool) (po : Table Bool) : Quiet s { s with dram := m, sync := sy, poison := po } :=
  ⟨rfl, fun _ => rfl, fun _ => rfl⟩

theorem Quiet.devPut (pa : Nat) (b : Byte) : Quiet s (s.devPut pa b) := by
  simp only [State.devPut]
  split
  · exact (Quiet.memory s.dram s.sync _).trans (Quiet.setL2 ..)
  · exact Quiet.memory _ s.sync _

theorem Quiet.l2Alloc (vd pa : Nat) (fill : Bool) : Quiet s (s.l2Alloc vd pa fill) := by
  simp only [State.l2Alloc]
  split
  · exact Quiet.setL2 ..
  · exact (Quiet.memory _ _ s.poison).trans (Quiet.setL2 ..)

theorem Quiet.vWriteOn (vd : Nat) (new : Bool) (va : Nat) (bs : List Byte) : Quiet s (s.vWriteOn vd new va bs) := by
  induction bs generalizing s new va with
  | nil => exact Quiet.refl s
  | cons b bs ih =>
    rw [State.vWriteOn]
    refine Quiet.trans ?_ (ih ..)
    split
    · split
      · exact (Quiet.l2Alloc ..).trans (Quiet.devPut ..)
      · exact Quiet.devPut ..
    · exact Quiet.refl s

theorem Quiet.vWrite (vd va : Nat) (bs : List Byte) : Quiet s (s.vWrite vd va bs) := Quiet.vWriteOn ..

theorem State.vds_vWriteOn (vd : Nat) (new : Bool) (va : Nat) (bs : List Byte) : (s.vWriteOn vd new va bs).vds = s.vds := by
  induction bs generalizing s new va with
  | nil => rfl
  | cons b bs ih =>
    rw [State.vWriteOn, ih]
    split
    · split <;> simp only [State.devPut, State.l2Alloc] <;> (repeat' split) <;> rfl
    · rfl
theorem State.vd_vWrite (vd va : Nat) (bs : List Byte) (k : Nat) : (s.vWrite vd va bs).vd k = s.vd k :=
  congrArg (tget Vd.init · k) (State.vds_vWriteOn ..)

end Sys2Proof.Machine
end

section
namespace Sys2Proof.Machine

/-! ## A command alone in its port (O55) -/

variable {s t u : State} {vd port kind : Nat} {c : Cmd} {e : Pending}

theorem State.port_modPort_self (s : State) (vd p : Nat) (f : Port → Port) : ((s.modPort vd p f).vd vd).port p = f ((s.vd vd).port p) := by
  rw [State.modPort, State.vd_modVd_self]
  exact tget_tset_self

theorem State.port_modPort_other (s : State) (vd p : Nat) (f : Port → Port) {q : Nat} (hq : q ≠ p) :
    ((s.modPort vd p f).vd vd).port q = (s.vd vd).port q := by
  rw [State.modPort, State.vd_modVd_self]
  exact tget_tset_other hq

/-- One command stands in a port, the last that the port has accepted. -/
structure Alone (t : State) (vd port : Nat) (c : Cmd) (e : Pending) : Prop where
  queue : ((t.vd vd).port port).queue = [e]
  seq : e.seq = c.seq.toNat
  accseq : ((t.vd vd).port port).accseq = c.seq

namespace Alone

theorem of_ports (h : Alone u vd port c e) (hp : (t.vd vd).ports = (u.vd vd).ports) : Alone t vd port c e := by
  have hq : (t.vd vd).port port = (u.vd vd).port port := congrArg (tget Port.init · port) hp
  exact ⟨hq ▸ h.queue, h.seq, hq ▸ h.accseq⟩

theorem pending (h : Alone t vd port c e) : t.pending (vd, port, c.seq.toNat) = some e := by
  simp [State.pending, h.queue, h.seq]

theorem modPending (h : Alone t vd port c e) {f : Pending → Pending} (hf : (f e).seq = e.seq) :
    Alone (t.modPending (vd, port, c.seq.toNat) f) vd port c (f e) where
  queue := by
    rw [State.modPending, State.port_modPort_self]
    simp [h.queue, h.seq, replaceFirst]
  seq := hf.trans h.seq
  accseq := by
    rw [State.modPending, State.port_modPort_self]
    exact h.accseq

theorem finishCmd (h : Alone t vd port c e) (hd : e.done = none) (st f res : Nat) :
    Alone (t.finishCmd (vd, port, c.seq.toNat) st f res) vd port c { e with dispatched := true, done := some (st, f, res) } := by
  have := h.modPending (f := fun c => if c.done.isSome then c else { c with dispatched := true, done := some (st, f, res) })
    (by split <;> rfl)
  rwa [if_neg (by rw [hd]; exact Bool.false_ne_true)] at this

theorem applyAp (h : Alone t vd port c e) (d : Nat) : Alone (t.applyAp d) vd port c e := by
  refine h.of_ports ?_
  rw [State.applyAp, State.vd_modVd]
  split
  · next hk => rw [hk]
  · rfl

theorem dispatched (h : Alone t vd port c e) (hd : e.dispatched = true) : Dispatched t vd port c e.kind e.done :=
  ⟨e, h.queue, rfl, h.seq, hd, rfl, h.accseq⟩

end Alone

/-! ## The acceptance of a command (R69-R72) -/

/-- The queue's entry of a command that nothing stands before. -/
def accepted (s : State) (vd kind : Nat) (c : Cmd) : Pending :=
  { seq := c.seq.toNat, kind := kind, cmd := c, jidx := (s.vd vd).jidx, dispatched := false, begun := false, fence := [], done := none }

/-- The journal's entry of a command as it is accepted. -/
def journalLine (s : State) (port kind : Nat) (c : Cmd) : List Byte :=
  natLe 8 (cmdWord 0 kind port c.seq.toNat) ++ (sha384 (cmdBytes kind c)).take 8 ++ natLe 8 s.time ++ natLe 8 0

end Sys2Proof.Machine

namespace Accepts
open Sys2Proof Sys2Proof.Machine

variable {s t : State} {vd port kind : Nat} {c : Cmd} {e : Pending}

/-- What a command of the same header and the same last words carries in its first two makes no difference to its acceptance. -/
theorem payload (h : Accepts s vd port c) (p0 p1 : Word) : Accepts s vd port { c with p0 := p0, p1 := p1 } := { h with }

theorem fence_nil (h : Accepts s vd port c) :
    ((List.range 4).flatMap fun q => if c.p0.getLsbD q then ((s.vd vd).port q).queue.map fun x => (q, x.seq) else []) = [] := by
  refine List.flatMap_eq_nil_iff.mpr fun q hq => ?_
  rw [h.idle q (List.mem_range.mp hq)]
  split <;> rfl

theorem no_slot_taken (h : Accepts s vd port c) (j : Nat) :
    ((List.range 4).any fun q => ((s.vd vd).port q).queue.any fun x => x.jidx == j) = false := by
  refine List.any_eq_false.mpr fun q hq => ?_
  rw [h.idle q (List.mem_range.mp hq)]
  exact Bool.false_ne_true

theorem accept_eq (h : Accepts s vd port c) (kind : Nat) : s.accept vd port kind c =
    ((s.vWrite vd (jbase vd + 32 * (s.vd vd).jidx) (journalLine s port kind c)).modPort vd port fun p =>
      { p with accseq := c.seq, queue := p.queue ++ [accepted s vd kind c] }).modVd vd fun v =>
        { v with jidx := (v.jidx + 1) % 65536, jwrap := if v.jidx = 65535 then (v.jwrap + 1) % 2 ^ 32 else v.jwrap } := by
  have hver : ((c.ver.toNat ≠ 2 && c.ver.toNat ≠ 3) || (c.ver.toNat = 2 && (c.p4 ≠ 0 || c.p5 ≠ 0))) = false := by
    rcases h.ver with ⟨hv, h4, h5⟩ | hv <;> simp [*]
  have hq := h.idle port h.there.2
  have hf := h.fence_nil
  have hj := h.no_slot_taken (s.vd vd).jidx
  have hvd : ¬ 32 ≤ vd := by have := h.there; omega
  have hport : ¬ 4 ≤ port := by have := h.there; omega
  simp only [State.accept, h.up.1, h.up.2, hver, h.seq, hq, hf, hj, hvd, hport, accepted, journalLine, ite_self]
  simp

theorem vd_accept (h : Accepts s vd port c) (kind : Nat) : (s.accept vd port kind c).vd vd =
    { (s.vd vd) with
      ports := tset Port.init (s.vd vd).ports port { (s.vd vd).port port with accseq := c.seq, queue := [accepted s vd kind c] }
      jidx := ((s.vd vd).jidx + 1) % 65536
      jwrap := if (s.vd vd).jidx = 65535 then ((s.vd vd).jwrap + 1) % 2 ^ 32 else (s.vd vd).jwrap } := by
  rw [h.accept_eq, State.vd_modVd_self, State.modPort, State.vd_modVd_self, State.vd_vWrite, h.idle port h.there.2]
  rfl

theorem quiet (h : Accepts s vd port c) (kind : Nat) : Quiet s (s.accept vd port kind c) := by
  rw [h.accept_eq]
  exact ((Quiet.vWrite ..).trans (Quiet.modPort ..)).trans (Quiet.modVd fun _ => rfl)

theorem alone (h : Accepts s vd port c) (kind : Nat) : Alone (s.accept vd port kind c) vd port c (accepted s vd kind c) := by
  have hp : ((s.accept vd port kind c).vd vd).port port = { (s.vd vd).port port with accseq := c.seq, queue := [accepted s vd kind c] } := by
    rw [h.vd_accept, Vd.port]
    exact tget_tset_self
  exact ⟨by rw [hp], rfl, by rw [hp]⟩

theorem idle_others (h : Accepts s vd port c) (kind : Nat) {q : Nat} (hq : q < 4) (hne : q ≠ port) :
    (((s.accept vd port kind c).vd vd).port q).queue = [] := by
  rw [h.vd_accept, Vd.port]
  exact (congrArg Port.queue (tget_tset_other hne)).trans (h.idle q hq)

theorem jidx_ne (h : Accepts s vd port c) (kind : Nat) : ((s.accept vd port kind c).vd vd).jidx ≠ (s.vd vd).jidx := by
  rw [h.vd_accept]
  show ((s.vd vd).jidx + 1) % 65536 ≠ (s.vd vd).jidx
  omega

/-! ## Its dispatch (R72, R73, R90) -/

theorem not_refused (h : Accepts s vd port c) (h13 : 0 < kind ∧ kind ≤ 13) (hk : (kind = 6 ∨ kind = 8) → (s.leaf vd 1).getLsbD 4 = true) :
    (s.accept vd port kind c).cmdRefused vd kind c = none := by
  obtain ⟨hm, hc, hd⟩ := h.header
  rw [State.cmdRefused, if_neg (by simp [hm, hc, hd]; omega), (h.quiet kind).leaf, h.format, if_neg]
  simp only [Bool.not_true, Bool.false_or, Bool.and_eq_true, Bool.or_eq_true, decide_eq_true_eq, Bool.not_eq_true', not_and]
  intro hk'
  rw [hk hk']
  exact Bool.false_ne_true ∘ Eq.symm

theorem not_refused_plain (h : Accepts s vd port c) (hk : 0 < kind ∧ kind ≤ 13 ∧ kind ≠ 6 ∧ kind ≠ 8) :
    (s.accept vd port kind c).cmdRefused vd kind c = none :=
  h.not_refused ⟨hk.1, hk.2.1⟩ (by omega)

/-- An accepted command is dispatched at once; a write of APBASE is in force from then on. -/
theorem command_eq (h : Accepts s vd port c) (kind : Nat) : s.command vd port kind c =
    let t := (s.accept vd port kind c).runCmd (vd, port, c.seq.toNat) (accepted s vd kind c)
    if (t.pending (vd, port, c.seq.toNat)).any (·.dispatched) then t.applyAp vd else t := by
  have hposted : ((s.accept vd port kind c).vd vd).posted = false := by
    rw [Vd.posted, (h.quiet kind).hostq]
    exact List.any_eq_false.mpr fun a ha => by simp [h.arrived a ha]
  rw [State.command, if_neg (h.jidx_ne kind), State.dispatch, (h.alone kind).queue]
  simp [accepted, State.fenced, hposted]
  rfl

/-- A command whose meaning leaves it dispatched. -/
theorem command_dispatched (h : Accepts s vd port c)
    (hrun : (s.accept vd port kind c).runCmd (vd, port, c.seq.toNat) (accepted s vd kind c) = t) (ha : Alone t vd port c e)
    (hd : e.dispatched = true) : Dispatched (s.command vd port kind c) vd port c e.kind e.done ∧ Quiet t (s.command vd port kind c) := by
  have : s.command vd port kind c = t.applyAp vd := by
    rw [h.command_eq]
    simp only [hrun, ha.pending]
    simp [hd]
  rw [this]
  exact ⟨(ha.applyAp vd).dispatched hd, Quiet.applyAp vd⟩

/-- A command whose meaning completes it, where the ports are as its acceptance left them. -/
theorem command_finished (h : Accepts s vd port c) {st f res : Nat}
    (hrun : (s.accept vd port kind c).runCmd (vd, port, c.seq.toNat) (accepted s vd kind c) = t.finishCmd (vd, port, c.seq.toNat) st f res)
    (hp : (t.vd vd).ports = ((s.accept vd port kind c).vd vd).ports) :
    Dispatched (s.command vd port kind c) vd port c kind (some (st, f, res)) ∧ Quiet t (s.command vd port kind c) := by
  obtain ⟨hd, hq⟩ := h.command_dispatched hrun (((h.alone kind).of_ports hp).finishCmd rfl st f res) rfl
  exact ⟨hd, (Quiet.finishCmd ..).trans hq⟩

end Accepts
end

section
namespace Sys2Proof.Machine

/-! ## What each command does at its dispatch point (O55) -/

section
variable {s u : State} {vd port n : Nat} {c : Cmd}

theorem runCmd_loadObject {t : State} {o : Nat} (hr : u.cmdRefused vd 1 c = none) (h : loadObj vd u c = .ok (t, o)) :
    u.runCmd (vd, port, n) (accepted s vd 1 c) = t.finishCmd (vd, port, n) 0 0 o := by
  simp only [State.runCmd, accepted, hr, h]

theorem runCmd_unloadObject {t : State} (hr : u.cmdRefused vd 2 c = none) (h : unloadObj vd (vd, port, n) u c = .ok t) :
    u.runCmd (vd, port, n) (accepted s vd 2 c) = t.modPending (vd, port, n) fun p => { p with dispatched := true } := by
  simp only [State.runCmd, accepted, hr, h]

theorem runCmd_unloadObject_error {st : Nat} (hr : u.cmdRefused vd 2 c = none) (h : unloadObj vd (vd, port, n) u c = .error st) :
    u.runCmd (vd, port, n) (accepted s vd 2 c) = u.finishCmd (vd, port, n) st 0 0 := by
  simp only [State.runCmd, accepted, hr, h]

theorem runCmd_launch (hr : u.cmdRefused vd 3 c = none) :
    u.runCmd (vd, port, n) (accepted s vd 3 c) = u.launchCmd (vd, port, n) c := by
  simp only [State.runCmd, accepted, hr]

theorem runCmd_pause (hr : u.cmdRefused vd 4 c = none) : u.runCmd (vd, port, n) (accepted s vd 4 c) =
    (u.modPending (vd, port, n) fun p => { p with dispatched := true }).pauseCmd (vd, port, n) c := by
  simp only [State.runCmd, accepted, hr]

theorem runCmd_resume (hr : u.cmdRefused vd 5 c = none) : u.runCmd (vd, port, n) (accepted s vd 5 c) =
    (u.modPending (vd, port, n) fun p => { p with dispatched := true }).resumeCmd (vd, port, n) c := by
  simp only [State.runCmd, accepted, hr]

theorem runCmd_replace (hr : u.cmdRefused vd 6 c = none) : u.runCmd (vd, port, n) (accepted s vd 6 c) =
    (u.modPending (vd, port, n) fun p => { p with dispatched := true }).replaceCmd (vd, port, n) c := by
  simp only [State.runCmd, accepted, hr]

theorem runCmd_abort (hr : u.cmdRefused vd 7 c = none) : u.runCmd (vd, port, n) (accepted s vd 7 c) =
    (u.abortCmd (vd, port, n) c).modPending (vd, port, n) fun p => { p with dispatched := true } := by
  simp only [State.runCmd, accepted, hr]

theorem runCmd_snapshot {t : State} {st res : Nat} (hr : u.cmdRefused vd 8 c = none) (h : snapshotCmd vd u c = (t, st, res)) :
    u.runCmd (vd, port, n) (accepted s vd 8 c) = t.finishCmd (vd, port, n) st 0 res := by
  simp only [State.runCmd, accepted, hr, h]

theorem runCmd_map (hr : u.cmdRefused vd 9 c = none) :
    u.runCmd (vd, port, n) (accepted s vd 9 c) = u.settleCmd (vd, port, n) (mapPages vd u c) := by
  simp only [State.runCmd, accepted, hr]

theorem runCmd_unmap {t : State} (hr : u.cmdRefused vd 10 c = none) (h : unmapPages vd (vd, port, n) u c = .ok t) :
    u.runCmd (vd, port, n) (accepted s vd 10 c) = t.modPending (vd, port, n) fun p => { p with dispatched := true } := by
  simp only [State.runCmd, accepted, hr, h]

theorem runCmd_qos (hr : u.cmdRefused vd 11 c = none) :
    u.runCmd (vd, port, n) (accepted s vd 11 c) = u.settleCmd (vd, port, n) (qos vd u c) := by
  simp only [State.runCmd, accepted, hr]

theorem runCmd_query {t : State} {st res : Nat} (hr : u.cmdRefused vd 13 c = none) (h : queryCmd vd u c = (t, st, res)) :
    u.runCmd (vd, port, n) (accepted s vd 13 c) = t.finishCmd (vd, port, n) st 0 res := by
  simp only [State.runCmd, accepted, hr, h]

/-- The fields of a HOST_FENCE's payload, and what it does where no command stands before it. -/
theorem runCmd_fence {p : Pending} (hk : p.kind = 12) (hr : u.cmdRefused vd 12 p.cmd = none) (h0 : p.cmd.p0.toNat < 16)
    (hz : restZero p.cmd 1 = true) : u.runCmd (vd, port, n) p = u.finishCmd (vd, port, n) 0 0 0 := by
  simp only [State.runCmd, hk, hr]
  simp [hz, h0]
end

/-! ## Writes that are no command (R71) -/

variable {s : State} {vd port kind : Nat} {c : Cmd} {f : Port → Port}

theorem State.command_of_counted (ha : s.accept vd port kind c = s.modPort vd port f) :
    s.command vd port kind c = s.modPort vd port f := by
  rw [State.command, ha, if_pos]
  rw [State.modPort, State.vd_modVd_self]

theorem State.modPort_counts (s : State) (vd port : Nat) (f : Port → Port) :
    (((s.modPort vd port f).vd vd).port port = f ((s.vd vd).port port)) ∧
      (∀ q, q ≠ port → ((s.modPort vd port f).vd vd).port q = (s.vd vd).port q) ∧
      s.modPort vd port f = { s with vds := (s.modPort vd port f).vds } :=
  ⟨State.port_modPort_self .., fun _ hq => State.port_modPort_other _ _ _ _ hq, rfl⟩

section
variable (hup : s.up = true) (hlink : s.linkUp = true) (hvd : vd < 32) (hport : port < 4)
include hup hlink hvd hport

theorem State.accept_unknown (h2 : c.ver ≠ 2) (h3 : c.ver ≠ 3) :
    s.accept vd port kind c = s.modPort vd port fun p => { p with malf := p.malf + 1 } := by
  have n2 : c.ver.toNat ≠ 2 := fun h => h2 (BitVec.eq_of_toNat_eq h)
  have n3 : c.ver.toNat ≠ 3 := fun h => h3 (BitVec.eq_of_toNat_eq h)
  have hv : ¬ 32 ≤ vd := by omega
  have hp : ¬ 4 ≤ port := by omega
  simp [State.accept, hup, hlink, hv, hp, n2, n3]

theorem State.accept_outOfOrder (h3 : c.ver = 3) (hs : c.seq ≠ ((s.vd vd).port port).accseq + 1) :
    s.accept vd port kind c = s.modPort vd port fun p => { p with seqerr := p.seqerr + 1 } := by
  have hv : ¬ 32 ≤ vd := by omega
  have hp : ¬ 4 ≤ port := by omega
  have hs' : (c.seq = ((s.vd vd).port port).accseq + 1) = False := eq_false hs
  simp only [State.accept, hup, hlink, hv, hp, h3, Ne, hs']
  simp

theorem State.accept_full (h3 : c.ver = 3) (hs : c.seq = ((s.vd vd).port port).accseq + 1)
    (hq : 256 ≤ ((s.vd vd).port port).queue.length) :
    s.accept vd port kind c = s.modPort vd port fun p => { p with isOver := p.isOver + 1 } := by
  have hv : ¬ 32 ≤ vd := by omega
  have hp : ¬ 4 ≤ port := by omega
  simp [State.accept, hup, hlink, hv, hp, h3, hs, hq]
end

theorem State.command_linkDown (h : s.linkUp = false) : s.command vd port kind c = s := by
  have ha : s.accept vd port kind c = s := by simp [State.accept, h]
  rw [State.command, ha, if_pos rfl]

/-! ## QUERY (R91, R92) -/

theorem withLow_toNat {w : Word} (h : w.toNat < 256) {b : Nat} (hb : b < 2 ^ 64) : (withLow w b).toNat = b := by
  have : w - BitVec.ofNat 64 (w.toNat % 256) = 0 := by
    rw [Nat.mod_eq_of_lt h, BitVec.ofNat_toNat, BitVec.setWidth_eq]
    exact BitVec.sub_self w
  rw [withLow, this]
  simpa using hb

theorem restZero_three {c : Cmd} (h3 : c.p3 = 0) (h4 : c.p4 = 0) (h5 : c.p5 = 0) : restZero c 3 = true := by simp [restZero, h3, h4, h5]
theorem restZero_three_false {c : Cmd} (h3 : c.p3 ≠ 0) : restZero c 3 = false := by
  simp only [restZero, List.drop_succ_cons, List.drop_zero, List.all_cons, beq_eq_false_iff_ne.mpr h3, Bool.false_and]
theorem restZero_one {c : Cmd} (h1 : c.p1 = 0) (h2 : c.p2 = 0) (h3 : c.p3 = 0) (h4 : c.p4 = 0) (h5 : c.p5 = 0) : restZero c 1 = true := by
  simp [restZero, h1, h2, h3, h4, h5]
theorem restZero_two {c : Cmd} (h2 : c.p2 = 0) (h3 : c.p3 = 0) (h4 : c.p4 = 0) (h5 : c.p5 = 0) : restZero c 2 = true := by
  simp [restZero, h2, h3, h4, h5]

theorem queryCmd_leaf (hl : c.p0.toNat ≤ 15) (hz : restZero c 3 = true) : queryCmd vd s c = (s, 0, (s.leaf vd c.p0.toNat).toNat) := by
  have : ¬ 15 < c.p0.toNat := by omega
  simp [queryCmd, hz, this, hl]

theorem queryCmd_malformed (hz : restZero c 3 = false) : queryCmd vd s c = (s, 1, 0) := by
  simp [queryCmd, hz]

/-! ### A range that is mapped page by page -/

theorem State.mapped_go_covers {ps : List Page} {va len : Nat} (fuel a : Nat) (h : State.mapped.go vd va len ps fuel a = true) {x : Nat}
    (hx : a ≤ x) (hlt : x < va + len) : ∃ p ∈ ps, p.holds vd x = true := by
  induction fuel generalizing a with
  | zero =>
    have : va + len ≤ a := of_decide_eq_true h
    omega
  | succ n ih =>
    rw [State.mapped.go, if_neg (by omega)] at h
    cases hp : ps.find? fun p => p.holds vd a with
    | none => simp [hp] at h
    | some p =>
      simp only [hp] at h
      by_cases hin : x < p.va + p.size
      · have hpa := List.find?_some hp
        simp only [Page.holds, Bool.and_eq_true, decide_eq_true_eq, beq_iff_eq] at hpa
        refine ⟨p, List.mem_of_find?_eq_some hp, ?_⟩
        simp only [Page.holds, Bool.and_eq_true, decide_eq_true_eq, beq_iff_eq]
        omega
      · exact ih _ h (by omega)

theorem State.pageOf_of_mapped {va len : Nat} {w : Bool} (h : s.mapped vd va len w = true) {x : Nat} (hx : va ≤ x) (hlt : x < va + len) :
    (s.pageOf vd x).isSome = true := by
  obtain ⟨p, hp, hold⟩ := State.mapped_go_covers _ _ h hx hlt
  rw [State.pageOf, List.find?_isSome]
  exact ⟨p, (List.mem_filter.mp hp).1, hold⟩

theorem State.vBytes_isSome {n va : Nat} (h : ∀ x, va ≤ x → x < va + n → (s.pageOf vd x).isSome = true) : (s.vBytes vd va n).isSome = true := by
  induction n generalizing va with
  | zero => rfl
  | succ n ih =>
    obtain ⟨p, hp⟩ := Option.isSome_iff_exists.mp (h va (le_refl _) (by omega))
    obtain ⟨bs, hbs⟩ := Option.isSome_iff_exists.mp (ih (va := va + 1) fun x hx hlt => h x (by omega) (by omega))
    simp [State.vBytes, State.vByte, State.toPa, hp, hbs]

/-- A quote goes into a mapped buffer where the part attests. -/
theorem queryCmd_quote (h0 : c.p0.toNat = 0x20) (hz : restZero c 3 = true) (hl : (s.leaf vd 1).getLsbD 5 = true)
    (hn : s.mapped vd c.p1.toNat 32 false = true) (hb : s.mapped vd c.p2.toNat 16752 true = true) :
    ∃ bs, queryCmd vd s c = (s.vWrite vd c.p2.toNat bs, 0, 16752) := by
  obtain ⟨nonce, hnonce⟩ := Option.isSome_iff_exists.mp (State.vBytes_isSome fun x => State.pageOf_of_mapped hn (x := x))
  refine ⟨quoteHead s vd nonce ++ quoteSig (sha384 (quoteHead s vd nonce)), ?_⟩
  rw [queryCmd, if_neg (by simp [hz, h0]), if_neg (by omega), if_neg (by simp [hl]), hnonce]
  simp only [hb]
  rfl

theorem State.leaf_eq (s : State) (vd l : Nat) : s.leaf vd l =
    if vd = 0 then (if l = 0 then 0x3FFFF else if l = 1 then 0x3F else 0)
    else (if l = 0 then 0x3FFFF else if l = 1 then 0x3F else 0) &&& tget (BitVec.allOnes 64) (s.vd vd).featmask l := by
  match l with
  | 0 => rfl
  | 1 => rfl
  | n + 2 => rfl

end Sys2Proof.Machine

open Sys2Proof Sys2Proof.Machine

namespace Accepts
variable {s t : State} {vd port : Nat} {c : Cmd}

theorem query {st res : Nat} (h : Accepts s vd port c) (hq : queryCmd vd (s.accept vd port 13 c) c = (t, st, res))
    (ht : Quiet (s.accept vd port 13 c) t) (hp : (t.vd vd).ports = ((s.accept vd port 13 c).vd vd).ports) :
    SameRuns s (s.command vd port 13 c) ∧ Dispatched (s.command vd port 13 c) vd port c 13 (some (st, 0, res)) := by
  obtain ⟨hd, hq⟩ := h.command_finished (runCmd_query (h.not_refused_plain (by decide)) hq) hp
  exact ⟨(((h.quiet 13).trans ht).trans hq).sameRuns, hd⟩

theorem query_leaf (h : Accepts s vd port c) (hl : c.p0.toNat ≤ 15) (hz : restZero c 3 = true) :
    SameRuns s (s.command vd port 13 c) ∧
      Dispatched (s.command vd port 13 c) vd port c 13 (some (0, 0, (s.leaf vd c.p0.toNat).toNat)) := by
  rw [← (h.quiet 13).leaf]
  exact h.query (queryCmd_leaf hl hz) (Quiet.refl _) rfl

theorem query_quote (h : Accepts s vd port c) (h0 : c.p0.toNat = 0x20) (hz : restZero c 3 = true) (hl : (s.leaf vd 1).getLsbD 5 = true)
    (hn : s.mapped vd c.p1.toNat 32 false = true) (hb : s.mapped vd c.p2.toNat 16752 true = true) :
    SameRuns s (s.command vd port 13 c) ∧ Dispatched (s.command vd port 13 c) vd port c 13 (some (0, 0, 16752)) := by
  have hu := h.quiet 13
  rw [← hu.leaf] at hl
  rw [← hu.mapped] at hn hb
  obtain ⟨bs, hbs⟩ := queryCmd_quote h0 hz hl hn hb
  exact h.query hbs (Quiet.vWrite ..) (by rw [State.vd_vWrite])

end Accepts

/-- QUERY and HOST_FENCE, and the writes that are no command. -/
theorem queriesAndFencesComplete : QueriesAndFencesComplete := by
  intro s vd port c leaf
  refine ⟨fun hup hlink hvd hport => ⟨fun h2 h3 => ?_, fun h3 hs => ?_, fun h3 hs hq => ?_⟩, fun hl => ?_, fun h => ⟨?_, ?_, ?_, ?_⟩⟩
  · exact ⟨_, congrArg Host.Outcome.next (State.command_of_counted (State.accept_unknown hup hlink hvd hport h2 h3)), State.modPort_counts ..⟩
  · exact ⟨_, congrArg Host.Outcome.next (State.command_of_counted (State.accept_outOfOrder hup hlink hvd hport h3 hs)), State.modPort_counts ..⟩
  · exact ⟨_, congrArg Host.Outcome.next (State.command_of_counted (State.accept_full hup hlink hvd hport h3 hs hq)), State.modPort_counts ..⟩
  · exact congrArg Host.Outcome.next (State.command_linkDown hl)
  · intro h0 h1 h2 h3 h4 h5
    obtain ⟨hd, hq⟩ := h.command_finished (runCmd_fence rfl (h.not_refused_plain (by decide)) h0 (restZero_one h1 h2 h3 h4 h5)) rfl
    exact ⟨s.command vd port 12 c, rfl, hd, ((h.quiet 12).trans hq).sameRuns⟩
  · intro h0 h3 h4 h5
    have hleaf : (withLow c.p0 leaf.toNat).toNat = leaf.toNat := withLow_toNat h0 (by omega)
    have hq := (h.payload (withLow c.p0 leaf.toNat) c.p1).query_leaf (by rw [hleaf]; omega) (restZero_three h3 h4 h5)
    rw [hleaf, State.leaf_eq] at hq
    exact ⟨_, rfl, hq⟩
  · intro h0 h3 h4 h5 hl hn hb
    exact ⟨_, rfl, (h.payload (withLow c.p0 0x20) c.p1).query_quote (withLow_toNat h0 (by decide)) (restZero_three h3 h4 h5) hl hn hb⟩
  · intro h0 h3
    exact ⟨_, rfl, (h.payload (withLow c.p0 leaf.toNat) c.p1).query (queryCmd_malformed (restZero_three_false h3)) (Quiet.refl _) rfl⟩
end

section
open Sys2Proof Sys2Proof.Machine

/-! ## SET_QOS (R86, R97-R99) -/

namespace Accepts
variable {s t : State} {vd port : Nat} {c : Cmd}

theorem qos_ok (h : Accepts s vd port c) (hq : qos vd (s.accept vd port 11 c) c = .ok t)
    (hp : (t.vd vd).ports = ((s.accept vd port 11 c).vd vd).ports) :
    Dispatched (s.command vd port 11 c) vd port c 11 (some (0, 0, 0)) ∧ Quiet t (s.command vd port 11 c) :=
  h.command_finished (by rw [runCmd_qos (h.not_refused_plain (by decide)), hq, State.settleCmd]) hp

theorem qos_error {st : Nat} (h : Accepts s vd port c) (hq : qos vd (s.accept vd port 11 c) c = .error st) :
    Dispatched (s.command vd port 11 c) vd port c 11 (some (st, 0, 0)) ∧ Quiet s (s.command vd port 11 c) := by
  obtain ⟨hd, hq⟩ := h.command_finished (by rw [runCmd_qos (h.not_refused_plain (by decide)), hq, State.settleCmd]) rfl
  exact ⟨hd, (h.quiet 11).trans hq⟩

end Accepts

namespace Sys2Proof.Machine
variable {s : State} {c : Cmd}

/-! ### GRANT, UNGRANT, WAYS, POD and BAND -/

theorem State.homeRange_congr {s u : State} (h : u.strips = s.strips) (vd b l : Nat) : u.homeRange vd b l = s.homeRange vd b l := by
  simp only [State.homeRange, State.stripAt, h]

theorem qosGrant_ok (h4 : c.p4 = 0) (h5 : c.p5 = 0) (hb : c.p2.toNat % 4096 = 0) (hl : c.p3.toNat % 4096 = 0) (h3 : c.p3 ≠ 0)
    (hle : c.p2.toNat + c.p3.toNat ≤ 2 ^ 38 - 2 ^ 27) (hfree : ∀ k, k < 32 → k ≠ c.p0.toNat → (s.vd k).grant = [])
    (hhome : s.homeRange c.p0.toNat c.p2.toNat c.p3.toNat = true) (hlen : (s.vd c.p0.toNat).grant.length < 64) :
    qosGrant s c = .ok (s.modVd c.p0.toNat fun v => { v with grant := v.grant ++ [(c.p2.toNat, c.p3.toNat)] }) := by
  have hl0 : c.p3.toNat ≠ 0 := fun h => h3 (BitVec.eq_of_toNat_eq h)
  have hgrants : ((List.range 32).any fun v => v != c.p0.toNat && (s.vd v).grant.any (meetsExt c.p2.toNat c.p3.toNat)) = false := by
    refine List.any_eq_false.mpr fun v hv => ?_
    by_cases hk : v = c.p0.toNat
    · simp [hk]
    · simp [hfree v (List.mem_range.mp hv) hk]
  have hreserved : ((List.range 32).any fun v => meetsExt c.p2.toNat c.p3.toNat (reservedPa v, 0x400000)) = false := by
    refine List.any_eq_false.mpr fun v _ => ?_
    simp only [meetsExt, reservedPa, Bool.and_eq_true, not_and]
    intro _ h
    have := of_decide_eq_true h
    omega
  rw [qosGrant, if_neg, if_neg]
  · rw [hgrants, hreserved, hhome]
    simpa using hlen
  · simp only [h4, h5, ne_eq, not_true_eq_false, decide_false, Bool.or_false, Bool.or_eq_true, decide_eq_true_eq]
    omega

theorem trimGrant_last {n : Nat} (hn : 0 < n) (b : Nat) (g : List (Nat × Nat)) : trimGrant n (g ++ [(b, n)]) = g := by
  induction g with
  | nil => simp [trimGrant]; omega
  | cons x g ih =>
    have : n ≤ ((g ++ [(b, n)]).map (·.2)).sum := by simp
    rw [List.cons_append, trimGrant, if_pos this, ih]

theorem qosUngrant_ok {g : List (Nat × Nat)} {b : Nat} (h3 : c.p3 = 0) (h4 : c.p4 = 0) (h5 : c.p5 = 0)
    (hg : (s.vd c.p0.toNat).grant = g ++ [(b, c.p2.toNat)]) (hpage : c.p2.toNat % 4096 = 0) (hlt : c.p2.toNat < 2 ^ 48)
    (hruns : s.runs = []) (hobjs : (s.vd c.p0.toNat).objs = []) (hpages : (s.vd c.p0.toNat).pages = []) (hheld : (s.vd c.p0.toNat).held = []) :
    qosUngrant s c = .ok (s.modVd c.p0.toNat fun v => { v with grant := if c.p2.toNat = 0 then v.grant else trimGrant c.p2.toNat v.grant }) := by
  have hsize : ¬ (s.vd c.p0.toNat).grantSize < c.p2.toNat := by simp [Vd.grantSize, hg]
  have hused : s.areas c.p0.toNat ++ s.mappedOffs c.p0.toNat = [] := by simp [State.areas, State.mappedOffs, hruns, hobjs, hpages, hheld]
  rw [qosUngrant, if_neg, hused, if_neg]
  · exact Bool.false_ne_true
  · simp [h3, h4, h5, hpage, hsize]
    omega

theorem State.setWays_same (s : State) (v d : Nat) (m : BitVec 16) : SameRuns s (s.setWays v d m) ∧ ∀ k, ((s.setWays v d m).vd k).ports = (s.vd k).ports := by
  refine ⟨⟨rfl, rfl, rfl⟩, fun k => ?_⟩
  rw [State.setWays, State.vd_modVd]
  split
  · next hk => rw [hk]; rfl
  · rfl

theorem State.ways_setWays (s : State) (v d : Nat) (m : BitVec 16) : ((s.setWays v d m).vd v).ways = tset 0xFFFF (s.vd v).ways d m := by
  rw [State.setWays, State.vd_modVd_self]
  rfl

/-- What WAYS leaves: the mask in each die that the command names. -/
theorem foldl_setWays (w v : Nat) (m : BitVec 16) (ds : List Nat) (s : State) :
    let t := ds.foldl (fun s d => if bitAt w (16 + d) then s.setWays v d m else s) s
    (SameRuns s t ∧ ∀ k, (t.vd k).ports = (s.vd k).ports) ∧
      ∀ d, tget 0xFFFF (t.vd v).ways d = if d ∈ ds ∧ bitAt w (16 + d) then m else tget 0xFFFF (s.vd v).ways d := by
  induction ds generalizing s with
  | nil => exact ⟨⟨⟨rfl, rfl, rfl⟩, fun _ => rfl⟩, fun _ => by simp⟩
  | cons x ds ih =>
    by_cases hx : bitAt w (16 + x) = true
    · obtain ⟨⟨⟨hr, hc, hk⟩, hp⟩, hw⟩ := ih (s.setWays v x m)
      obtain ⟨⟨hr', hc', hk'⟩, hp'⟩ := s.setWays_same v x m
      simp only [List.foldl_cons, hx, if_true]
      refine ⟨⟨⟨hr.trans hr', hc.trans hc', hk.trans hk'⟩, fun k => (hp k).trans (hp' k)⟩, fun d => ?_⟩
      rw [hw d, State.ways_setWays, tget_tset]
      by_cases hd : d = x
      · simp [hd, hx]
      · simp [hd]
    · obtain ⟨hs, hw⟩ := ih s
      simp only [List.foldl_cons, hx]
      refine ⟨hs, fun d => (hw d).trans ?_⟩
      by_cases hd : d = x
      · simp [hd, hx]
      · simp [hd]

theorem onlyBits_of_lt {w n : Nat} (h : w < 2 ^ n) : onlyBits w (2 ^ n - 1) = true := by
  rw [onlyBits, Nat.and_two_pow_sub_one_eq_mod, Nat.mod_eq_of_lt h, beq_self_eq_true]

theorem qosWays_ok (h3 : c.p3 = 0) (h4 : c.p4 = 0) (h5 : c.p5 = 0) (hw : c.p2.toNat < 2 ^ 20) : qosWays s c =
    .ok ((List.range 4).foldl (fun s d => if bitAt c.p2.toNat (16 + d) then s.setWays c.p0.toNat d (BitVec.ofNat 16 c.p2.toNat) else s) s) := by
  have := onlyBits_of_lt hw
  rw [qosWays, if_neg]
  simpa [h3, h4, h5] using this

theorem qosPod_ok (h0 : c.p0 = 0) (hw : c.p2.toNat < 64) (h3 : c.p3 = 0) (h4 : c.p4 = 0) (h5 : c.p5 = 0)
    (hcolls : ∀ k ∈ s.colls, k.contribs = []) : qosPod s c = .ok { s with podId := c.p2.toNat } := by
  rw [qosPod, if_neg (by simp [h0, h3, h4, h5, hw]), if_neg]
  simp only [List.any_eq_true, not_exists, not_and, Bool.not_eq_true']
  intro k hk
  simp [hcolls k hk]

theorem State.floorOf_none (key v : Nat) (hq : s.bandq = []) (hf : (s.damper key).floor = []) : s.floorOf key v = 0 := by
  simp [State.floorOf, hq, Damper.flRate, hf]

theorem qosBand_ok (hbits : onlyBits c.p2.toNat 0xFFFFFF0F = true) {cls inst : Nat} (hc : bits c.p2.toNat 0 4 = cls)
    (hi0 : bits c.p2.toNat 8 12 = inst) (hi1 : bits c.p2.toNat 20 12 = inst) (hcls : cls ≤ 8) (hinst : inst < dampCount cls) {fl ce : Nat}
    (hfl : bits c.p3.toNat 0 32 = fl) (hce : bits c.p3.toNat 32 32 = ce) (hle : fl ≤ ce) (hcap : ce ≤ dampCap cls inst) (h8 : cls = 8 → fl = 0)
    (hpos : 0 < c.p4.toNat) (hlt : c.p4.toNat < 256) (h5 : c.p5 = 0) (hq : s.bandq = []) (hf : (s.damper (dampKey cls inst)).floor = []) :
    qosBand s c = .ok { s with bandq := [(dampKey cls inst, c.p0.toNat, fl, ce, c.p4.toNat)] } := by
  have hothers : ((List.range 32).map fun v => if v = c.p0.toNat then 0 else s.floorOf (dampKey cls inst) v).sum = 0 := by
    refine List.sum_eq_zero fun x hx => ?_
    obtain ⟨v, _, rfl⟩ := List.mem_map.mp hx
    rw [State.floorOf_none _ _ hq hf, ite_self]
  have hone : (List.range (inst + 1 - inst)).map (fun i => inst + i) = [inst] := by
    rw [Nat.add_sub_cancel_left]
    rfl
  have hwide : ((List.range (inst + 1 - inst)).any fun i => dampCap cls (inst + i) < ce) = false := by
    rw [Nat.add_sub_cancel_left]
    simpa [List.range_succ] using hcap
  simp only [qosBand, hc, hi0, hi1, hfl, hce, hone, hwide, hbits]
  rw [if_neg, if_neg, hq]
  · rfl
  · simp only [List.any_cons, List.any_nil, hothers, Bool.or_false, decide_eq_true_eq]
    omega
  · simp only [h5, Bool.not_true, ne_eq, not_true_eq_false, decide_false, Bool.false_or, Bool.or_false, Bool.or_eq_true, Bool.and_eq_true, decide_eq_true_eq]
    omega

end Sys2Proof.Machine
end

section
namespace Sys2Proof.Machine
variable {s t : State} {c : Cmd}

/-! ### Strips as a change of them leaves them (R94, R97, R98, R297) -/

theorem mem_of_mem_mergeFree {l : List Strip} {p : Strip} (h : p ∈ mergeFree l) : p ∈ l ∨ p.holders = [0] := by
  induction l generalizing p with
  | nil => simp [mergeFree] at h
  | cons a l ih =>
    rw [mergeFree] at h
    cases hm : mergeFree l with
    | nil =>
      rw [hm] at h
      exact .inl (List.mem_cons.mpr (.inl (List.mem_singleton.mp h)))
    | cons q r =>
      have hrest : ∀ x ∈ q :: r, x ∈ a :: l ∨ x.holders = [0] := fun x hx => (ih (hm ▸ hx)).imp_left (List.mem_cons_of_mem a)
      simp only [hm] at h
      split at h
      · next hfree =>
        simp only [Strip.isFree, Bool.and_eq_true, beq_iff_eq] at hfree
        rcases List.mem_cons.mp h with rfl | hr
        · exact .inr hfree.1.1.1.2
        · exact hrest p (List.mem_cons_of_mem q hr)
      · rcases List.mem_cons.mp h with rfl | hr
        · exact .inl List.mem_cons_self
        · exact hrest p hr

theorem mem_mergeFree_of_held {l : List Strip} {p : Strip} (h : p ∈ l) (hp : p.isFree = false) : p ∈ mergeFree l := by
  induction l with
  | nil => simp at h
  | cons a l ih =>
    rw [mergeFree]
    cases hm : mergeFree l with
    | nil =>
      rcases List.mem_cons.mp h with rfl | hl
      · exact List.mem_singleton.mpr rfl
      · exact absurd (ih hl) (by simp [hm])
    | cons q r =>
      simp only
      split
      · next hfree =>
        simp only [Bool.and_eq_true] at hfree
        rcases List.mem_cons.mp h with rfl | hl
        · exact absurd hfree.1.1.1 (by simp [hp])
        · rcases List.mem_cons.mp (hm ▸ ih hl) with rfl | hr
          · exact absurd hfree.1.1.2 (by simp [hp])
          · exact List.mem_cons_of_mem _ hr
      · rcases List.mem_cons.mp h with rfl | hl
        · exact List.mem_cons_self
        · exact List.mem_cons_of_mem _ (hm ▸ ih hl)

theorem mem_of_mem_sortStrips {l : List Strip} {p : Strip} (h : p ∈ sortStrips l) : p ∈ l := by
  obtain ⟨_, _, hp⟩ := List.mem_flatMap.mp h
  exact (List.mem_filter.mp hp).1

theorem mem_sortStrips {l : List Strip} {p : Strip} (h : p ∈ l) (hd : p.die < 4) (hc : p.col < 32) : p ∈ sortStrips l := by
  refine List.mem_flatMap.mpr ⟨p.die * 32 + p.col, List.mem_range.mpr (by omega), List.mem_filter.mpr ⟨h, ?_⟩⟩
  simp only [Bool.and_eq_true, beq_iff_eq]
  omega

/-- The cores of a state have lost nothing but entries of their TLBs. -/
def TlbsTrimmed (s t : State) : Prop := ∀ k, t.core k = { s.core k with tlb := (t.core k).tlb } ∧ ∀ p ∈ (t.core k).tlb, p ∈ (s.core k).tlb

theorem TlbsTrimmed.of_cores (h : t.cores = s.cores) : TlbsTrimmed s t := by
  intro k
  have : t.core k = s.core k := congrArg (tget Core.init · k) h
  rw [this]
  exact ⟨rfl, fun _ => id⟩

theorem TlbsTrimmed.modCore (h : TlbsTrimmed s t) (n : Nat) (f : Page → Bool) :
    TlbsTrimmed s (t.modCore n fun k => { k with tlb := k.tlb.filter f }) := by
  intro k
  by_cases hk : k = n
  · subst hk
    rw [State.core_modCore_self]
    refine ⟨by rw [(h k).1], fun p hp => (h k).2 p (List.mem_filter.mp hp).1⟩
  · rw [State.core_modCore_other _ _ hk]
    exact h k

theorem State.trimTlbs_spec (s : State) : s.trimTlbs = { s with cores := s.trimTlbs.cores } ∧ TlbsTrimmed s s.trimTlbs := by
  rw [State.trimTlbs]
  refine List.foldlRecOn (motive := fun t => t = { s with cores := t.cores } ∧ TlbsTrimmed s t) _ _
    ⟨rfl, TlbsTrimmed.of_cores rfl⟩ fun t ht e _ => ?_
  dsimp only
  split
  · exact ht
  · refine ⟨?_, ht.2.modCore e.1 _⟩
    rw [ht.1]
    rfl

/-- A cut of the levels of class-8 buckets changes Dampers alone. -/
theorem foldl_setSpec_spec (s s' t : State) (die : Nat) (vs is : List Nat) :
    let u := vs.foldl (fun t v => is.foldl (fun t i =>
      let core := die * 512 + i
      if s.specRate core v = s'.specRate core v then t
      else t.setSpec core v (Nat.min (s.specLevel core v) (64 * s'.specRate core v))) t) t
    u = { t with dampers := u.dampers } := by
  refine List.foldlRecOn (motive := fun u : State => u = { t with dampers := u.dampers }) _ _ rfl fun u hu v _ => ?_
  refine List.foldlRecOn (motive := fun u : State => u = { t with dampers := u.dampers }) _ _ hu fun u hu i _ => ?_
  dsimp only
  split
  · exact hu
  · rw [hu]
    rfl

theorem State.setStrips_spec (s : State) (die : Nat) (l : List Strip) :
    s.setStrips die l = { s with strips := mergeFree (sortStrips l), cores := (s.setStrips die l).cores, dampers := (s.setStrips die l).dampers } ∧
      TlbsTrimmed s (s.setStrips die l) := by
  let s0 : State := { s with strips := mergeFree (sortStrips l) }
  have h0 := State.trimTlbs_spec s0
  have hs : ∀ t : State, t = { s0.trimTlbs with dampers := t.dampers } →
      t = { s with strips := mergeFree (sortStrips l), cores := t.cores, dampers := t.dampers } ∧ TlbsTrimmed s t := by
    intro t ht
    refine ⟨by rw [ht, h0.1], ?_⟩
    have hc : t.cores = s0.trimTlbs.cores := by rw [ht]
    intro k
    have hk : t.core k = s0.trimTlbs.core k := congrArg (tget Core.init · k) hc
    rw [hk]
    exact h0.2 k
  exact hs _ (foldl_setSpec_spec ..)

/-! ### STRIP_REVOKE and STRIP_GRANT -/

theorem Strip.holders_of_outside {p q : Strip} {die c0 c1 : Nat} (h : q ∈ p.outside die c0 c1) : q.holders = p.holders := by
  rw [Strip.outside] at h
  split at h
  · rw [List.mem_singleton.mp h]
  · rcases List.mem_append.mp h with h | h <;> split at h
    · rw [List.mem_singleton.mp h]
    · simp at h
    · rw [List.mem_singleton.mp h]
    · simp at h

/-- What is left of a strip outside columns that it meets does not lie within them. -/
theorem Strip.outside_not_within {p q : Strip} {die c0 c1 a b : Nat} (h : q ∈ p.outside die a b) (hd : p.die = die) (hw : 1 ≤ p.width) (ha : a = max p.col c0)
    (hb : b = min (p.col + p.width - 1) c1) (hmeet : p.col ≤ c1 ∧ c0 < p.col + p.width) : ¬ (c0 ≤ q.col ∧ q.col + q.width ≤ c1 + 1) := by
  rw [Strip.outside, if_neg] at h
  · rcases List.mem_append.mp h with h | h <;> split at h
    · rw [List.mem_singleton.mp h]
      dsimp only
      omega
    · simp at h
    · rw [List.mem_singleton.mp h]
      dsimp only
      omega
    · simp at h
  · simp only [hd, ne_eq, not_true_eq_false, decide_false, Bool.false_or, Bool.or_eq_true, decide_eq_true_eq]
    omega

/-- A change of the strips changes them, the levels of class-8 buckets, and the TLBs of cores, which lose entries. -/
structure StripsChanged (s t : State) : Prop where
  rest : t = { s with strips := t.strips, cores := t.cores, dampers := t.dampers }
  tlbs : TlbsTrimmed s t

theorem StripsChanged.of_setStrips (s : State) (die : Nat) (l : List Strip) : StripsChanged s (s.setStrips die l) := by
  obtain ⟨h, ht⟩ := s.setStrips_spec die l
  exact ⟨by rw [h], ht⟩

theorem State.strips_setStrips (s : State) (die : Nat) (l : List Strip) : (s.setStrips die l).strips = mergeFree (sortStrips l) := by
  rw [(s.setStrips_spec die l).1]

theorem StripsChanged.runs (h : StripsChanged s t) : t.runs = s.runs := by rw [h.rest]
theorem StripsChanged.ctxs (h : StripsChanged s t) : t.ctxs = s.ctxs := by rw [h.rest]
theorem StripsChanged.vds (h : StripsChanged s t) : t.vds = s.vds := by rw [h.rest]

/-- The strips of a virtual device that a revoke of columns meets. -/
def State.revokedFrom (s : State) (v die c0 c1 : Nat) : List Strip := (s.stripsOn die c0 c1).filter fun p => p.holders.contains v

/-- What a revoke makes of one strip. -/
def State.giveUp (s : State) (v die c0 c1 : Nat) (p : Strip) : List Strip :=
  if !(s.revokedFrom v die c0 c1).contains p then [p]
  else
    let (a, b) := s.revoked v c0 c1 p
    let hs := p.holders.filter fun w => w != v
    let rest : Strip := { p with col := a, width := b + 1 - a, holders := hs, occ := if p.occ = some v then none else p.occ }
    p.outside die a b ++ [if hs.isEmpty then Strip.free die a (b + 1 - a) else rest]

theorem State.revoke_eq (s : State) (v die c0 c1 : Nat) : s.revoke v die c0 c1 =
    if v = 0 || (s.revokedFrom v die c0 c1).isEmpty then s else s.setStrips die (s.strips.flatMap (s.giveUp v die c0 c1)) := rfl

theorem State.mem_revokedFrom {v die c0 c1 : Nat} {p : Strip} :
    p ∈ s.revokedFrom v die c0 c1 ↔ p ∈ s.strips ∧ p.die = die ∧ p.col ≤ c1 ∧ c0 < p.col + p.width ∧ v ∈ p.holders := by
  simp only [State.revokedFrom, State.stripsOn, List.mem_filter, Bool.and_eq_true, beq_iff_eq, decide_eq_true_eq, List.contains_iff_mem]
  tauto

theorem State.revoked_of_no_runs (h : s.runs = []) (v c0 c1 : Nat) (p : Strip) :
    s.revoked v c0 c1 p = (max p.col c0, min (p.col + p.width - 1) c1) := by
  simp only [State.revoked, h, List.any_nil, Bool.and_false]
  rfl

theorem Strip.within_meets {p : Strip} {c0 c1 : Nat} (hw : 1 ≤ p.width) (h0 : c0 ≤ p.col) (h1 : p.col + p.width ≤ c1 + 1) :
    p.col ≤ c1 ∧ c0 < p.col + p.width := by omega

/-- No strip that a revoke leaves within its columns is its target's. -/
theorem State.giveUp_within {v die c0 c1 : Nat} {p q : Strip} (hruns : s.runs = []) (hv : v ≠ 0) (hp : p ∈ s.strips) (hw : 1 ≤ p.width)
    (hq : q ∈ s.giveUp v die c0 c1 p) (hd : q.die = die) (h0 : c0 ≤ q.col) (h1 : q.col + q.width ≤ c1 + 1) : v ∉ q.holders := by
  rw [State.giveUp] at hq
  split at hq
  · next hm =>
    obtain rfl := List.mem_singleton.mp hq
    intro hh
    obtain ⟨ha, hb⟩ := Strip.within_meets hw h0 h1
    have hmem : q ∈ s.revokedFrom v die c0 c1 := State.mem_revokedFrom.mpr ⟨hp, hd, ha, hb, hh⟩
    exact absurd hmem (by simpa using hm)
  · next hm =>
    have hmem : p ∈ s.revokedFrom v die c0 c1 := List.contains_iff_mem.mp (by simpa using hm)
    obtain ⟨_, hpd, ha, hb, _⟩ := State.mem_revokedFrom.mp hmem
    rw [State.revoked_of_no_runs hruns] at hq
    rcases List.mem_append.mp hq with hq | hq
    · exact absurd ⟨h0, h1⟩ (Strip.outside_not_within hq hpd hw rfl rfl ⟨ha, hb⟩)
    · have hq := List.mem_singleton.mp hq
      split at hq
      · rw [hq, Strip.free]
        simpa using hv
      · rw [hq]
        simp

theorem State.revoke_spec {v die c0 c1 : Nat} (hruns : s.runs = []) (hv : v ≠ 0) (hw : ∀ p ∈ s.strips, 1 ≤ p.width) :
    StripsChanged s (s.revoke v die c0 c1) ∧
      ∀ p ∈ (s.revoke v die c0 c1).strips, p.die = die → c0 ≤ p.col → p.col + p.width ≤ c1 + 1 → v ∉ p.holders := by
  rw [State.revoke_eq]
  split
  · next h =>
    refine ⟨⟨rfl, TlbsTrimmed.of_cores rfl⟩, fun p hp hd h0 h1 hh => ?_⟩
    obtain ⟨ha, hb⟩ := Strip.within_meets (hw p hp) h0 h1
    have hmem : p ∈ s.revokedFrom v die c0 c1 := State.mem_revokedFrom.mpr ⟨hp, hd, ha, hb, hh⟩
    have hnil : s.revokedFrom v die c0 c1 = [] := by simpa [hv] using h
    simp [hnil] at hmem
  · refine ⟨StripsChanged.of_setStrips .., fun q hq hd h0 h1 => ?_⟩
    rw [State.strips_setStrips] at hq
    rcases mem_of_mem_mergeFree hq with hq | hq
    · obtain ⟨p, hp, hq⟩ := List.mem_flatMap.mp (mem_of_mem_sortStrips hq)
      exact State.giveUp_within hruns hv hp (hw p hp) hq hd h0 h1
    · rw [hq]
      simpa using hv

theorem onlyBits_of_and {w m n : Nat} (h : w &&& m = w) (hm : m &&& n = m) : onlyBits w n = true := by
  rw [onlyBits, beq_iff_eq]
  calc w &&& n = w &&& m &&& n := by rw [h]
    _ = w := by rw [Nat.and_assoc, hm, h]

theorem qosStripRevoke_ok (hbits : c.p2.toNat &&& 0x1F1F03 = c.p2.toNat) (hle : bits c.p2.toNat 8 5 ≤ bits c.p2.toNat 16 5)
    (h3 : c.p3 = 0) (h4 : c.p4 = 0) (h5 : c.p5 = 0) (hruns : s.runs = []) :
    qosStripRevoke s c = .ok (s.revoke c.p0.toNat (bits c.p2.toNat 0 2) (bits c.p2.toNat 8 5) (bits c.p2.toNat 16 5)) := by
  rw [qosStripRevoke, if_neg (by simp [onlyBits_of_and hbits, h3, h4, h5, hle]), if_neg]
  simp [State.liveOn, hruns]

theorem bitAt_of_and {w m i : Nat} (h : w &&& m = w) (hm : m.testBit i = false) : bitAt w i = false := by
  have : w.testBit i = false := by rw [← h, Nat.testBit_and, hm, Bool.and_false]
  rw [Nat.testBit_eq_decide_div_mod_eq] at this
  exact beq_eq_false_iff_ne.mpr (of_decide_eq_false this)

/-- The strip that a grant of columns of one holder makes. -/
def grantedStrip (die c0 c1 v : Nat) : Strip := { Strip.free die c0 (c1 + 1 - c0) with holders := [v] }

theorem qosStripGrant_ok (hbits : c.p2.toNat &&& 0x1F1F03 = c.p2.toNat) (hle : bits c.p2.toNat 8 5 ≤ bits c.p2.toNat 16 5)
    (h3 : c.p3 = 0) (h4 : c.p4 = 0) (h5 : c.p5 = 0) (hruns : s.runs = []) (hfree : ∀ p ∈ s.strips, p.shared = false ∧ p.holders = [0]) :
    qosStripGrant s c = .ok (s.setStrips (bits c.p2.toNat 0 2) ((s.strips.flatMap fun p =>
      p.outside (bits c.p2.toNat 0 2) (bits c.p2.toNat 8 5) (bits c.p2.toNat 16 5)) ++
        [grantedStrip (bits c.p2.toNat 0 2) (bits c.p2.toNat 8 5) (bits c.p2.toNat 16 5) c.p0.toNat])) := by
  have hshared : bitAt c.p2.toNat 24 = false := bitAt_of_and hbits (by decide)
  have hon : ∀ p ∈ s.stripsOn (bits c.p2.toNat 0 2) (bits c.p2.toNat 8 5) (bits c.p2.toNat 16 5), p.shared = false ∧ p.holders = [0] :=
    fun p hp => hfree p (List.mem_filter.mp hp).1
  have hnone : (s.stripsOn (bits c.p2.toNat 0 2) (bits c.p2.toNat 8 5) (bits c.p2.toNat 16 5)).find? (·.shared) = none :=
    List.find?_eq_none.mpr fun p hp => by simp [(hon p hp).1]
  have hslice : bits c.p3.toNat 0 32 = 0 ∧ bits c.p3.toNat 32 32 = 0 := by simp [h3, bits]
  rw [qosStripGrant, hnone, hshared]
  rw [if_neg (by simp [onlyBits_of_and hbits, h4, h5, hle, hslice])]
  dsimp only
  rw [if_neg, if_neg]
  · rfl
  · simp [State.liveOn, hruns]
  · simp only [List.any_eq_true, not_exists, not_and]
    intro p hp
    simp [(hon p hp).2]

theorem State.grant_spec {die c0 c1 v : Nat} (hd : die < 4) (hc : c0 < 32) (hv : v ≠ 0) (hfree : ∀ p ∈ s.strips, p.shared = false ∧ p.holders = [0]) :
    let l := (s.strips.flatMap fun p => p.outside die c0 c1) ++ [grantedStrip die c0 c1 v]
    (∃ p ∈ (s.setStrips die l).strips, p.die = die ∧ p.col = c0 ∧ p.width = c1 + 1 - c0 ∧ p.shared = false ∧ p.holders = [v]) ∧
      ∀ p ∈ (s.setStrips die l).strips, v ∈ p.holders → p.die = die ∧ p.col = c0 := by
  intro l
  rw [State.strips_setStrips]
  constructor
  · have hmem : grantedStrip die c0 c1 v ∈ l := List.mem_append.mpr (.inr (List.mem_singleton.mpr rfl))
    exact ⟨_, mem_mergeFree_of_held (mem_sortStrips hmem hd hc) (by simp [Strip.isFree, grantedStrip, hv]), rfl, rfl, rfl, rfl, rfl⟩
  · intro q hq hh
    rcases mem_of_mem_mergeFree hq with hq | hq
    · rcases List.mem_append.mp (mem_of_mem_sortStrips hq) with hq | hq
      · obtain ⟨p, hp, hq⟩ := List.mem_flatMap.mp hq
        rw [Strip.holders_of_outside hq, (hfree p hp).2] at hh
        exact absurd (List.mem_singleton.mp hh) hv
      · rw [List.mem_singleton.mp hq]
        exact ⟨rfl, rfl⟩
    · rw [hq] at hh
      exact absurd (List.mem_singleton.mp hh) hv

end Sys2Proof.Machine
end

section
open Sys2Proof Sys2Proof.Machine

namespace Sys2Proof.Machine
variable {s : State} {c : Cmd} {vd : Nat}

theorem qos_virtual (h : vd ≠ 0) : qos vd s c = .error 2 := by rw [qos, if_pos h]

/-- What SET_QOS of the physical function does, by its SUB. -/
def qosSub (k : Nat) (s : State) (c : Cmd) : Except Nat State :=
  match k with
  | 1 => qosStripGrant s c
  | 2 => qosStripRevoke s c
  | 3 => qosBand s c
  | 4 => qosWays s c
  | 5 => qosGrant s c
  | 6 => qosUngrant s c
  | 7 => qosPod s c
  | _ => .error 1

theorem qos_sub (h0 : c.p0.toNat < 32) {k : Nat} (hk : c.p1.toNat = k) (hlt : k < 256) : qos 0 s c = qosSub k s c := by
  rw [qos, if_neg (by simp), if_neg (by simp; omega), ← hk]
  rfl

theorem State.ports_modVd (s : State) (n : Nat) {f : Vd → Vd} (hf : ∀ v, (f v).ports = v.ports) (k : Nat) :
    ((s.modVd n f).vd k).ports = (s.vd k).ports := by
  rw [State.vd_modVd]
  split
  · next hk => rw [hk]; exact hf _
  · rfl

theorem SameRuns.of_quiet {s t u : State} (h : Quiet s t) (g : SameRuns t u) : SameRuns s u :=
  ⟨g.1.trans h.runs, g.2.1.trans h.ctxs, g.2.2.trans h.cores⟩

theorem SameRuns.trans {s t u : State} (h : SameRuns s t) (g : SameRuns t u) : SameRuns s u :=
  ⟨g.1.trans h.1, g.2.1.trans h.2.1, g.2.2.trans h.2.2⟩

/-- What is left of a change of strips between an acceptance and the end of the command. -/
theorem StripsChanged.between {s u v t : State} (h : StripsChanged u v) (hu : Quiet s u) (hf : Quiet v t) :
    t.runs = s.runs ∧ t.ctxs = s.ctxs ∧ TlbsTrimmed s t := by
  refine ⟨hf.runs.trans (h.runs.trans hu.runs), hf.ctxs.trans (h.ctxs.trans hu.ctxs), fun k => ?_⟩
  rw [hf.core, ← hu.core]
  exact h.tlbs k

theorem bits_two (w : Nat) : bits w 0 2 = w % 4 := congrArg (· % 4) (Nat.div_one w)

end Sys2Proof.Machine

namespace Accepts
variable {s t : State} {port : Nat} {c : Cmd}

section
variable (h : Accepts s 0 port c)
include h

theorem grant (h1 : c.p1.toNat = 5) (h0 : c.p0.toNat < 32) (h4 : c.p4 = 0) (h5 : c.p5 = 0) (hb : c.p2.toNat % 4096 = 0)
    (hl : c.p3.toNat % 4096 = 0) (h3 : c.p3 ≠ 0) (hle : c.p2.toNat + c.p3.toNat ≤ 2 ^ 38 - 2 ^ 27)
    (hfree : ∀ k, k < 32 → k ≠ c.p0.toNat → (s.vd k).grant = []) (hhome : s.homeRange c.p0.toNat c.p2.toNat c.p3.toNat = true)
    (hlen : (s.vd c.p0.toNat).grant.length < 64) :
    let t := s.command 0 port 11 c
    Dispatched t 0 port c 11 (some (0, 0, 0)) ∧ SameRuns s t ∧
      (t.vd c.p0.toNat).grant = (s.vd c.p0.toNat).grant ++ [(c.p2.toNat, c.p3.toNat)] ∧ ∀ k, k ≠ c.p0.toNat → (t.vd k).grant = (s.vd k).grant := by
  have hu := h.quiet 11
  have hq := (qos_sub h0 h1 (by decide)).trans (qosGrant_ok (s := s.accept 0 port 11 c) h4 h5 hb hl h3 hle
    (fun k hk hne => (hu.grant k).trans (hfree k hk hne)) ((State.homeRange_congr hu.strips ..).trans hhome) (by rwa [hu.grant]))
  obtain ⟨hd, hf⟩ := h.qos_ok hq (by apply State.ports_modVd; intro _; rfl)
  refine ⟨hd, SameRuns.of_quiet hu (hf.sameRuns), ?_, fun k hk => ?_⟩
  · rw [hf.grant, State.vd_modVd_self, ← hu.grant]
  · rw [hf.grant, State.vd_modVd_other _ _ hk, hu.grant]

theorem ungrant {g : List (Nat × Nat)} {b : Nat} (h1 : c.p1.toNat = 6) (h0 : c.p0.toNat < 32) (h3 : c.p3 = 0) (h4 : c.p4 = 0) (h5 : c.p5 = 0)
    (hg : (s.vd c.p0.toNat).grant = g ++ [(b, c.p2.toNat)]) (hpage : c.p2.toNat % 4096 = 0) (hpos : 0 < c.p2.toNat) (hlt : c.p2.toNat < 2 ^ 48)
    (hruns : s.runs = []) (hobjs : (s.vd c.p0.toNat).objs = []) (hpages : (s.vd c.p0.toNat).pages = []) (hheld : (s.vd c.p0.toNat).held = []) :
    let t := s.command 0 port 11 c
    Dispatched t 0 port c 11 (some (0, 0, 0)) ∧ SameRuns s t ∧
      (t.vd c.p0.toNat).grant = g ∧ ∀ k, k ≠ c.p0.toNat → (t.vd k).grant = (s.vd k).grant := by
  have hu := h.quiet 11
  have hq := (qos_sub h0 h1 (by decide)).trans (qosUngrant_ok (s := s.accept 0 port 11 c) h3 h4 h5 ((hu.grant _).trans hg) hpage hlt
    (hu.runs.trans hruns) ((hu.objs _).trans hobjs) ((hu.pages _).trans hpages) ((hu.held _).trans hheld))
  obtain ⟨hd, hf⟩ := h.qos_ok hq (by apply State.ports_modVd; intro _; rfl)
  refine ⟨hd, SameRuns.of_quiet hu (hf.sameRuns), ?_, fun k hk => ?_⟩
  · rw [hf.grant, State.vd_modVd_self, hu.grant, hg, trimGrant_last hpos, if_neg (by omega)]
  · rw [hf.grant, State.vd_modVd_other _ _ hk, hu.grant]

theorem ways (h1 : c.p1.toNat = 4) (h0 : c.p0.toNat < 32) (h3 : c.p3 = 0) (h4 : c.p4 = 0) (h5 : c.p5 = 0) (hw : c.p2.toNat < 2 ^ 20) :
    let t := s.command 0 port 11 c
    Dispatched t 0 port c 11 (some (0, 0, 0)) ∧ SameRuns s t ∧ ∀ d, d < 4 → tget 0xFFFF (t.vd c.p0.toNat).ways d =
      if c.p2.toNat.testBit (16 + d) then BitVec.ofNat 16 c.p2.toNat else tget 0xFFFF (s.vd c.p0.toNat).ways d := by
  have hu := h.quiet 11
  have hq := (qos_sub h0 h1 (by decide)).trans (qosWays_ok (s := s.accept 0 port 11 c) h3 h4 h5 hw)
  obtain ⟨⟨hs, hp⟩, hways⟩ := foldl_setWays c.p2.toNat c.p0.toNat (BitVec.ofNat 16 c.p2.toNat) (List.range 4) (s.accept 0 port 11 c)
  obtain ⟨hd, hf⟩ := h.qos_ok hq (hp 0)
  refine ⟨hd, SameRuns.of_quiet hu (SameRuns.trans hs hf.sameRuns), fun d hd4 => ?_⟩
  rw [hf.ways, hways d, hu.ways, Nat.testBit_eq_decide_div_mod_eq]
  simp [hd4, bitAt]

theorem pod (h1 : c.p1.toNat = 7) (h0 : c.p0 = 0) (hw : c.p2.toNat < 64) (h3 : c.p3 = 0) (h4 : c.p4 = 0) (h5 : c.p5 = 0)
    (hcolls : ∀ k ∈ s.colls, k.contribs = []) :
    let t := s.command 0 port 11 c
    Dispatched t 0 port c 11 (some (0, 0, 0)) ∧ SameRuns s t ∧ t.podId = c.p2.toNat := by
  have hu := h.quiet 11
  have hq := (qos_sub (by rw [h0]; decide) h1 (by decide)).trans (qosPod_ok (s := s.accept 0 port 11 c) h0 hw h3 h4 h5 (by rwa [hu.colls]))
  obtain ⟨hd, hf⟩ := h.qos_ok hq rfl
  exact ⟨hd, SameRuns.of_quiet hu hf.sameRuns, hf.podId⟩

theorem stripRevoke (h1 : c.p1.toNat = 2) (h0 : c.p0.toNat < 32) (hbits : c.p2.toNat &&& 0x1F1F03 = c.p2.toNat)
    (hle : bits c.p2.toNat 8 5 ≤ bits c.p2.toNat 16 5) (h3 : c.p3 = 0) (h4 : c.p4 = 0) (h5 : c.p5 = 0) (hruns : s.runs = [])
    (hw : ∀ p ∈ s.strips, 1 ≤ p.width) (hv : c.p0.toNat ≠ 0) :
    let t := s.command 0 port 11 c
    Dispatched t 0 port c 11 (some (0, 0, 0)) ∧ (t.runs = s.runs ∧ t.ctxs = s.ctxs ∧ TlbsTrimmed s t) ∧
      ∀ p ∈ t.strips, p.die = bits c.p2.toNat 0 2 → bits c.p2.toNat 8 5 ≤ p.col → p.col + p.width ≤ bits c.p2.toNat 16 5 + 1 → c.p0.toNat ∉ p.holders := by
  have hu := h.quiet 11
  have hruns' := hu.runs.trans hruns
  have hq := (qos_sub h0 h1 (by decide)).trans (qosStripRevoke_ok (s := s.accept 0 port 11 c) hbits hle h3 h4 h5 hruns')
  obtain ⟨hc, hstrips⟩ := State.revoke_spec (die := bits c.p2.toNat 0 2) (c0 := bits c.p2.toNat 8 5) (c1 := bits c.p2.toNat 16 5) hruns' hv
    (by rwa [hu.strips])
  obtain ⟨hd, hf⟩ := h.qos_ok hq (by rw [State.vd, hc.vds]; rfl)
  exact ⟨hd, hc.between hu hf, by rw [hf.strips]; exact hstrips⟩

theorem stripGrant (h1 : c.p1.toNat = 1) (h0 : c.p0.toNat < 32) (hbits : c.p2.toNat &&& 0x1F1F03 = c.p2.toNat)
    (hle : bits c.p2.toNat 8 5 ≤ bits c.p2.toNat 16 5) (h3 : c.p3 = 0) (h4 : c.p4 = 0) (h5 : c.p5 = 0) (hruns : s.runs = [])
    (hfree : ∀ p ∈ s.strips, p.shared = false ∧ p.holders = [0]) (hv : c.p0.toNat ≠ 0) :
    let t := s.command 0 port 11 c
    Dispatched t 0 port c 11 (some (0, 0, 0)) ∧ (t.runs = s.runs ∧ t.ctxs = s.ctxs ∧ TlbsTrimmed s t) ∧
      (∃ p ∈ t.strips, p.die = bits c.p2.toNat 0 2 ∧ p.col = bits c.p2.toNat 8 5 ∧ p.width = bits c.p2.toNat 16 5 + 1 - bits c.p2.toNat 8 5 ∧
        p.shared = false ∧ p.holders = [c.p0.toNat]) ∧
      ∀ p ∈ t.strips, c.p0.toNat ∈ p.holders → p.die = bits c.p2.toNat 0 2 ∧ p.col = bits c.p2.toNat 8 5 := by
  have hu := h.quiet 11
  have hruns' := hu.runs.trans hruns
  rw [← hu.strips] at hfree
  have hq := (qos_sub h0 h1 (by decide)).trans (qosStripGrant_ok (s := s.accept 0 port 11 c) hbits hle h3 h4 h5 hruns' hfree)
  have hstrips := State.grant_spec (die := bits c.p2.toNat 0 2) (c0 := bits c.p2.toNat 8 5) (c1 := bits c.p2.toNat 16 5)
    (Nat.mod_lt _ (by decide)) (Nat.mod_lt _ (by decide)) hv hfree
  have hc := StripsChanged.of_setStrips (s.accept 0 port 11 c) (bits c.p2.toNat 0 2) (((s.accept 0 port 11 c).strips.flatMap fun p =>
      p.outside (bits c.p2.toNat 0 2) (bits c.p2.toNat 8 5) (bits c.p2.toNat 16 5)) ++
        [grantedStrip (bits c.p2.toNat 0 2) (bits c.p2.toNat 8 5) (bits c.p2.toNat 16 5) c.p0.toNat])
  obtain ⟨hd, hf⟩ := h.qos_ok hq (by rw [State.vd, hc.vds]; rfl)
  exact ⟨hd, hc.between hu hf, by rw [hf.strips]; exact hstrips⟩

theorem band {cls inst fl ce : Nat} (h1 : c.p1.toNat = 3) (h0 : c.p0.toNat < 32) (hbits : onlyBits c.p2.toNat 0xFFFFFF0F = true)
    (hc : bits c.p2.toNat 0 4 = cls) (hi0 : bits c.p2.toNat 8 12 = inst) (hi1 : bits c.p2.toNat 20 12 = inst) (hcls : cls ≤ 8)
    (hinst : inst < dampCount cls) (hfl : bits c.p3.toNat 0 32 = fl) (hce : bits c.p3.toNat 32 32 = ce) (hle : fl ≤ ce)
    (hcap : ce ≤ dampCap cls inst) (h8 : cls = 8 → fl = 0) (hpos : 0 < c.p4.toNat) (hlt : c.p4.toNat < 256) (h5 : c.p5 = 0) (hq : s.bandq = [])
    (hf : (s.damper (dampKey cls inst)).floor = []) :
    let t := s.command 0 port 11 c
    Dispatched t 0 port c 11 (some (0, 0, 0)) ∧ SameRuns s t ∧ t.bandq = [(dampKey cls inst, c.p0.toNat, fl, ce, c.p4.toNat)] := by
  have hu := h.quiet 11
  have hfloor : ((s.accept 0 port 11 c).damper (dampKey cls inst)).floor = [] := by rwa [State.damper, hu.dampers]
  have hok := (qos_sub h0 h1 (by decide)).trans (qosBand_ok (s := s.accept 0 port 11 c) hbits hc hi0 hi1 hcls hinst hfl hce hle hcap h8 hpos hlt h5
    (hu.bandq.trans hq) hfloor)
  obtain ⟨hd, hf⟩ := h.qos_ok hok rfl
  exact ⟨hd, SameRuns.of_quiet hu hf.sameRuns, hf.bandq⟩

end

/-- SET_QOS of a virtual function completes with PRIV and changes nothing. -/
theorem qos_refused {vd : Nat} (h : Accepts s vd port c) (hv : vd ≠ 0) :
    let t := s.command vd port 11 c
    Dispatched t vd port c 11 (some (2, 0, 0)) ∧ SameRuns s t ∧ t.strips = s.strips ∧ t.bandq = s.bandq ∧ t.podId = s.podId ∧
      ∀ k, (t.vd k).grant = (s.vd k).grant ∧ (t.vd k).ways = (s.vd k).ways := by
  obtain ⟨hd, hq⟩ := h.qos_error (qos_virtual hv)
  exact ⟨hd, hq.sameRuns, hq.strips, hq.bandq, hq.podId, fun k => ⟨hq.grant k, hq.ways k⟩⟩

end Accepts

/-- SET_QOS: by a virtual function, and by each SUB of the physical one. -/
theorem qosCommandsComplete : QosCommandsComplete := by
  intro s vd port c h h1 h0
  have sub : ∀ k, k < 256 → (withLow c.p1 k).toNat = k := fun k hk => withLow_toNat h1 (by omega)
  have h' := fun k => h.payload c.p0 (withLow c.p1 k)
  refine ⟨fun hv i hi => ?_, fun hv => ?_⟩
  · simp only [List.mem_cons, List.not_mem_nil, or_false] at hi
    rcases hi with rfl | rfl | rfl | rfl | rfl | rfl | rfl <;> exact ⟨_, rfl, (h' _).qos_refused hv⟩
  · subst hv
    refine ⟨fun h4 h5 => ⟨?_, ?_, ?_, ?_, ?_, ?_⟩, ?_⟩
    · intro hb hl h3 hle hfree hhome hlen
      exact ⟨_, rfl, (h' 5).grant (sub 5 (by decide)) h0 h4 h5 hb hl h3 hle hfree hhome hlen⟩
    · intro g b h3 hg hpage hpos hlt hruns hobjs hpages hheld
      exact ⟨_, rfl, (h' 6).ungrant (sub 6 (by decide)) h0 h3 h4 h5 hg hpage hpos hlt hruns hobjs hpages hheld⟩
    · intro h3 hw
      exact ⟨_, rfl, (h' 4).ways (sub 4 (by decide)) h0 h3 h4 h5 hw⟩
    · intro htg hw h3 hcolls
      exact ⟨_, rfl, (h' 7).pod (sub 7 (by decide)) (BitVec.eq_of_toNat_eq htg) hw h3 h4 h5 hcolls⟩
    · intro hbits hle h3 hruns hw hv
      obtain ⟨hd, ⟨hr, hc, htlbs⟩, hstrips⟩ := (h' 2).stripRevoke (sub 2 (by decide)) h0 hbits hle h3 h4 h5 hruns hw hv
      rw [bits_two] at hstrips
      exact ⟨_, rfl, hd, hr, hc, hstrips, htlbs⟩
    · intro hbits hle h3 hruns hv hfree
      obtain ⟨hd, ⟨hr, hc, htlbs⟩, hstrips⟩ := (h' 1).stripGrant (sub 1 (by decide)) h0 hbits hle h3 h4 h5 hruns hfree hv
      rw [bits_two] at hstrips
      exact ⟨_, rfl, hd, hr, hc, hstrips, htlbs⟩
    · intro cls inst fl ce hbits hi hcls hinst hle hcap h8 hpos hlt h5 hver hq hf
      have hce : bits c.p3.toNat 32 32 = ce := Nat.mod_eq_of_lt (show c.p3.toNat / 2 ^ 32 < 2 ^ 32 by omega)
      have hi1 : bits c.p2.toNat 20 12 = inst := by
        show c.p2.toNat / 2 ^ 20 % 4096 = inst
        rw [hi]
        exact Nat.mod_mod _ _
      exact ⟨_, rfl, (h' 3).band (sub 3 (by decide)) h0 (beq_iff_eq.mpr hbits) (congrArg (· % 16) (Nat.div_one _)) rfl hi1 hcls hinst
        (congrArg (· % 2 ^ 32) (Nat.div_one _)) hce hle hcap h8 hpos hlt h5 hq hf⟩
end

section
namespace Sys2Proof.Machine
variable {s t : State} {c : Cmd} {vd : Nat}

/-! ## LOAD_OBJECT, UNLOAD_OBJECT, MAP and UNMAP (R84, R290, R291, R299, R303) -/

/-- An object that passes its checks is added under the next handle, and its areas and its directory entry are written. -/
theorem loadObj_ok {u : State × Nat} {bs : List Byte} {g : Graph} (hl : loadObj vd s c = .ok u)
    (hbs : s.vBytes vd c.p0.toNat c.p1.toNat = some bs) (hg : s.checkObject vd c.p1.toNat bs = .ok g) :
    ∃ o pages, u.2 = (s.vd vd).nextHandle ∧
      Quiet ((s.addPages vd pages).modVd vd fun v => { v with objs := v.objs ++ [o], nextHandle := v.nextHandle % (2 ^ 32 - 1) + 1 }) u.1 ∧
      (u.1.vd vd).ports = (s.vd vd).ports ∧ o.handle = (s.vd vd).nextHandle ∧ o.graph = g ∧ o.code = sectBytes bs (readSects bs) 2 ∧
      o.dataImg = sectBytes bs (readSects bs) 3 ∧ o.digest = sha384 bs ∧ o.signed = isSigned bs ∧ o.unloading = false := by
  unfold loadObj at hl
  extract_lets len v at hl
  split at hl
  · simp at hl
  split at hl
  · simp at hl
  split at hl
  · simp at hl
  next bs' hbs' =>
  obtain rfl : bs = bs' := Option.some.inj (hbs.symm.trans hbs')
  split at hl
  · simp at hl
  next g' hg' =>
  obtain rfl : g = g' := Except.ok.inj (hg.symm.trans hg')
  extract_lets ss code const data areas tried at' base pages at hl
  split at hl
  · simp at hl
  split at hl
  · simp at hl
  split at hl
  · simp at hl
  extract_lets o s1 s2 at hl
  obtain rfl := Except.ok.inj hl
  refine ⟨o, pages, rfl, ((Quiet.vWrite ..).trans (Quiet.vWrite ..)).trans (Quiet.vWrite ..), ?_, rfl, rfl, rfl, rfl, rfl, rfl, rfl⟩
  simp only [State.vd_vWrite, s2, s1, State.addPages, State.vd_modVd_self]

/-! ### The withdrawal of translations -/

theorem foldl_modDie (f : Die → Die) (ds : List Nat) (hn : ds.Nodup) (s : State) :
    let t := ds.foldl (fun s d => s.modDie d f) s
    t = { s with dies := t.dies } ∧ ∀ d, t.die d = if d ∈ ds then f (s.die d) else s.die d := by
  induction ds generalizing s with
  | nil => exact ⟨rfl, fun _ => rfl⟩
  | cons x ds ih =>
    obtain ⟨hx, hds⟩ := List.nodup_cons.mp hn
    obtain ⟨hrest, hdie⟩ := ih hds (s.modDie x f)
    refine ⟨by rw [List.foldl_cons, hrest]; rfl, fun d => ?_⟩
    rw [List.foldl_cons, hdie, State.die_modDie]
    by_cases hd : d = x
    · simp [hd, hx]
    · simp [hd]

theorem foldl_modCore {α β : Type} (n : α → β → Nat) (f : Core → Core) (l : List α) (m : List β) (s : State) :
    let t := l.foldl (fun s a => m.foldl (fun s b => s.modCore (n a b) f) s) s
    t = { s with cores := t.cores } := by
  refine List.foldlRecOn (motive := fun t : State => t = { s with cores := t.cores }) _ _ rfl fun t ht a _ => ?_
  refine List.foldlRecOn (motive := fun t : State => t = { s with cores := t.cores }) _ _ ht fun t ht b _ => ?_
  rw [ht]
  rfl

/-- The pages that a withdrawal takes. -/
def Page.inRanges (vd : Nat) (ranges : List (Nat × Nat)) (p : Page) : Bool := p.vd == vd && ranges.any fun x => p.meets x.1 x.2

/-- A withdrawal takes the pages from the tables and from the TLBs of the dies, whose generations rise, and puts re-latch tokens at cores and edge
units; nothing else changes but what is held back of the grant. -/
theorem State.withdraw_spec (s : State) (vd : Nat) (key : CmdKey) (ranges : List (Nat × Nat)) :
    let t := s.withdraw vd key ranges
    (∃ offs, t = { s.modVd vd fun v =>
        { v with pages := v.pages.filter fun p => !p.inRanges vd ranges, held := v.held ++ offs } with
      dies := t.dies, cores := t.cores, edgeRel := t.edgeRel }) ∧
    (∀ d, d < 4 → t.die d = { s.die d with tgen := (s.die d).tgen + 1, tlb := (s.die d).tlb.filter fun p => !p.inRanges vd ranges }) ∧
    s.edgeRel.length ≤ t.edgeRel.length := by
  intro t
  have ht : t = s.withdraw vd key ranges := rfl
  unfold State.withdraw at ht
  extract_lets hit gone offs s1 s2 toks cols s3 at ht
  obtain ⟨h2, hdies⟩ := foldl_modDie (fun x : Die => { x with tgen := x.tgen + 1, tlb := x.tlb.filter fun p => !hit p }) (List.range 4)
    List.nodup_range s1
  have h3 := foldl_modCore (fun x : Nat × Nat => fun y => coreId x.1 x.2 y) (fun k => { k with relatch := k.relatch ++ toks }) cols (List.range 16) s2
  change s3 = { s2 with cores := s3.cores } at h3
  change s2 = { s1 with dies := s2.dies } at h2
  change ∀ d, s2.die d = _ at hdies
  clear_value t s3 s2
  refine ⟨⟨offs, ?_⟩, fun d hd => ?_, ?_⟩
  · rw [ht, h3, h2]
    rfl
  · have : t.die d = s2.die d := by rw [ht, h3]; rfl
    rw [this]
    exact (hdies d).trans (if_pos (List.mem_range.mpr hd))
  · rw [ht, h3, h2]
    show s.edgeRel.length ≤ (s.edgeRel ++ _).length
    rw [List.length_append]
    omega

section
variable (s : State) (vd : Nat) (key : CmdKey) (ranges : List (Nat × Nat))

theorem State.runs_withdraw : (s.withdraw vd key ranges).runs = s.runs := by
  obtain ⟨⟨_, h⟩, _⟩ := s.withdraw_spec vd key ranges
  rw [h]
  rfl

theorem State.ctxs_withdraw : (s.withdraw vd key ranges).ctxs = s.ctxs := by
  obtain ⟨⟨_, h⟩, _⟩ := s.withdraw_spec vd key ranges
  rw [h]
  rfl

theorem State.vd_withdraw_self : ∃ offs, (s.withdraw vd key ranges).vd vd =
    { s.vd vd with pages := (s.vd vd).pages.filter fun p => !p.inRanges vd ranges, held := (s.vd vd).held ++ offs } := by
  obtain ⟨⟨offs, h⟩, _⟩ := s.withdraw_spec vd key ranges
  refine ⟨offs, ?_⟩
  rw [h]
  exact tget_tset_self
end

theorem unloadObj_ok {o : Obj} {key : CmdKey} (hz : restZero c 1 = true) (ho : s.object vd c.p0.toNat = some o)
    (hr : ∀ r ∈ s.runs, r.vd ≠ vd ∨ r.handle ≠ o.handle) : unloadObj vd key s c =
    .ok ((s.modVd vd fun v => { v with objs := v.objs.map fun (x : Obj) => if x.handle = o.handle then { x with unloading := true } else x }).withdraw
      vd key (o.areas.map fun a => (devVa a.1, a.2))) := by
  have : (s.runs.any fun r => r.vd == vd && r.handle == o.handle) = false := by
    refine List.any_eq_false.mpr fun r hr' => ?_
    rcases hr r hr' with h | h <;> simp [h]
  simp only [unloadObj, hz, ho, this]
  rfl

theorem unloadObj_used {o : Obj} {key : CmdKey} {r : Run} (hz : restZero c 1 = true) (ho : s.object vd c.p0.toNat = some o) (hr : r ∈ s.runs)
    (hv : r.vd = vd) (hh : r.handle = o.handle) : unloadObj vd key s c = .error 5 := by
  have : (s.runs.any fun r => r.vd == vd && r.handle == o.handle) = true := List.any_eq_true.mpr ⟨r, hr, by simp [hv, hh]⟩
  simp only [unloadObj, hz, ho, this]
  rfl

theorem State.object_of_one {o : Obj} (ho : (s.vd vd).objs = [o]) {n : Nat} (hn : o.handle = n) (hu : o.unloading = false) : s.object vd n = some o := by
  simp [State.object, ho, hn, hu]

theorem pageSize_eq (i : Nat) : pageSize i = if i = 0 then 2 ^ 12 else if i = 1 then 2 ^ 21 else if i = 2 then 2 ^ 30 else 2 ^ 36 := by
  match i with
  | 0 => rfl
  | 1 => rfl
  | 2 => rfl
  | n + 3 => rfl

theorem pageSize_pos (i : Nat) : 0 < pageSize i := by
  rw [pageSize_eq]
  split
  · decide
  split
  · decide
  split <;> decide

/-- MAP of one page of the grant's one extent. -/
theorem mapPages_one {z b l : Nat} (hz : pageSize (bits c.p2.toNat 0 2) = z) (h2 : c.p2.toNat < 8) (h4 : c.p4 = 0) (h5 : c.p5 = 0)
    (hva : c.p0.toNat % z = 0) (hlen : c.p1.toNat = z) (hoff : c.p3.toNat % z = 0) (htop : c.p0.toNat + z ≤ 2 ^ 55) (hg : (s.vd vd).grant = [(b, l)])
    (hb : b % z = 0) (hl : c.p3.toNat + z ≤ l) (hfree : ∀ q ∈ (s.vd vd).pages, q.va + q.size ≤ c.p0.toNat ∨ c.p0.toNat + z ≤ q.va)
    (hareas : s.areas vd = []) : mapPages vd s c =
    .ok (s.addPages vd [{ vd := vd, va := c.p0.toNat, size := z, pa := b + c.p3.toNat, writable := bitAt c.p2.toNat 2, sync := false }]) := by
  have hpos : 0 < z := hz ▸ pageSize_pos _
  have hsync : bitAt c.p2.toNat 3 = false := by
    have : c.p2.toNat / 2 ^ 3 = 0 := by omega
    rw [bitAt, this]
    rfl
  have hmeets : ((s.vd vd).pages.any fun p => p.meets c.p0.toNat z) = false := by
    refine List.any_eq_false.mpr fun q hq => ?_
    simp only [Page.meets, Bool.and_eq_true, decide_eq_true_eq]
    have := hfree q hq
    omega
  have hnew : (List.range (z / z)).map (fun i => (c.p0.toNat + z * i, c.p3.toNat + z * i)) = [(c.p0.toNat, c.p3.toNat)] := by
    rw [Nat.div_self hpos]
    simp
  have hin : c.p3.toNat < l := by omega
  have hpa : grantPa [(b, l)] c.p3.toNat = some (b + c.p3.toNat) := by rw [grantPa, if_pos hin]
  have hroom : grantRoom [(b, l)] c.p3.toNat = l - c.p3.toNat := by rw [grantRoom, if_pos hin]
  simp only [mapPages, hz, hlen, hsync, hmeets, hareas, hnew, hg, Vd.grantSize, List.any_cons, List.any_nil, List.map_cons, List.map_nil, hpa, hroom]
  rw [if_neg, if_neg, if_neg, if_neg, if_neg]
  · rfl
  · simp [Nat.add_mod, hb, hoff]
    omega
  · simpa using hl
  · simp [overlapsAny]
  · simp
  · simp [h4, h5, hva, hoff]
    omega

/-- UNMAP of the one page that its range is. -/
theorem unmapPages_one {key : CmdKey} {p : Page} (h2 : c.p2 = 0) (h3 : c.p3 = 0) (h4 : c.p4 = 0) (h5 : c.p5 = 0) (hp : (s.vd vd).pages = [p])
    (hva : p.va = c.p0.toNat) (hsize : p.size = c.p1.toNat) (hpos : 0 < p.size) (htop : p.va + p.size ≤ 2 ^ 55) :
    unmapPages vd key s c = .ok (s.withdraw vd key [(c.p0.toNat, c.p1.toNat)]) := by
  have hm : p.meets c.p0.toNat c.p1.toNat = true := by
    simp only [Page.meets, Bool.and_eq_true, decide_eq_true_eq]
    omega
  simp only [unmapPages, hp, List.filter_cons, hm]
  rw [if_neg, if_neg]
  · simp [hsize, hva]
  · simp [h2, h3, h4, h5]
    omega

end Sys2Proof.Machine

open Sys2Proof Sys2Proof.Machine

namespace Accepts
variable {s t : State} {vd port kind : Nat} {c : Cmd}

/-- A command whose meaning leaves it dispatched, where the ports are as its acceptance left them. -/
theorem command_begun (h : Accepts s vd port c)
    (hrun : (s.accept vd port kind c).runCmd (vd, port, c.seq.toNat) (accepted s vd kind c) =
      t.modPending (vd, port, c.seq.toNat) fun p => { p with dispatched := true })
    (hp : (t.vd vd).ports = ((s.accept vd port kind c).vd vd).ports) :
    Dispatched (s.command vd port kind c) vd port c kind none ∧ Quiet t (s.command vd port kind c) := by
  obtain ⟨hd, hq⟩ := h.command_dispatched hrun (((h.alone kind).of_ports hp).modPending rfl) rfl
  exact ⟨hd, (Quiet.modPending ..).trans hq⟩

variable (h : Accepts s vd port c)
include h

theorem loadObject {u : State × Nat} {bs : List Byte} {g : Graph} (hl : loadObj vd (s.accept vd port 1 c) c = .ok u)
    (hbs : (s.accept vd port 1 c).vBytes vd c.p0.toNat c.p1.toNat = some bs)
    (hg : (s.accept vd port 1 c).checkObject vd c.p1.toNat bs = .ok g) :
    let t := s.command vd port 1 c
    ∃ o, Dispatched t vd port c 1 (some (0, 0, (s.vd vd).nextHandle)) ∧ (t.vd vd).objs = (s.vd vd).objs ++ [o] ∧ o.handle = (s.vd vd).nextHandle ∧ o.graph = g ∧
      o.code = sectBytes bs (readSects bs) 2 ∧ o.dataImg = sectBytes bs (readSects bs) 3 ∧ o.digest = sha384 bs ∧ o.signed = isSigned bs ∧
      o.unloading = false ∧ (t.vd vd).nextHandle = (s.vd vd).nextHandle % (2 ^ 32 - 1) + 1 ∧ SameRuns s t := by
  have hu := h.quiet 1
  obtain ⟨o, pages, hn, hq, hp, hh, hgr, hc, hdata, hdig, hsig, hun⟩ := loadObj_ok hl hbs hg
  rw [hu.nextHandle] at hn hh
  obtain ⟨hd, hf⟩ := h.command_finished (runCmd_loadObject (h.not_refused_plain (by decide)) hl) hp
  have hq := hq.trans hf
  refine ⟨o, hn ▸ hd, ?_, hh, hgr, hc, hdata, hdig, hsig, hun, ?_, SameRuns.of_quiet hu hq.sameRuns⟩
  · rw [hq.objs, State.vd_modVd_self, State.addPages, State.vd_modVd_self, hu.objs]
  · rw [hq.nextHandle, State.vd_modVd_self, State.addPages, State.vd_modVd_self, hu.nextHandle]

theorem unloadObject {o : Obj} (hz : restZero c 1 = true) (ho : (s.vd vd).objs = [o]) (hh : o.handle = c.p0.toNat) (hu : o.unloading = false)
    (hr : ∀ r ∈ s.runs, r.vd ≠ vd ∨ r.handle ≠ o.handle) :
    let t := s.command vd port 2 c
    Dispatched t vd port c 2 none ∧ (t.vd vd).objs = [{ o with unloading := true }] ∧ (∀ p ∈ (t.vd vd).pages, p ∈ (s.vd vd).pages) ∧
      t.runs = s.runs ∧ t.ctxs = s.ctxs := by
  have hq := h.quiet 2
  have hobjs := (hq.objs vd).trans ho
  have hok := unloadObj_ok (key := (vd, port, c.seq.toNat)) hz (State.object_of_one hobjs hh hu) (by rwa [hq.runs])
  obtain ⟨offs, hv⟩ := State.vd_withdraw_self ((s.accept vd port 2 c).modVd vd fun v =>
    { v with objs := v.objs.map fun (x : Obj) => if x.handle = o.handle then { x with unloading := true } else x })
    vd (vd, port, c.seq.toNat) (o.areas.map fun a => (devVa a.1, a.2))
  rw [State.vd_modVd_self] at hv
  obtain ⟨hd, hf⟩ := h.command_begun (runCmd_unloadObject (h.not_refused_plain (by decide)) hok) (by rw [hv])
  refine ⟨hd, ?_, fun p hp => ?_, ?_, ?_⟩
  · rw [hf.objs, hv]
    simp [hobjs]
  · rw [hf.pages, hv] at hp
    exact hq.pages vd ▸ (List.mem_filter.mp hp).1
  · exact hf.runs.trans ((State.runs_withdraw ..).trans hq.runs)
  · exact hf.ctxs.trans ((State.ctxs_withdraw ..).trans hq.ctxs)

theorem unloadObject_used {o : Obj} {r : Run} (hz : restZero c 1 = true) (ho : (s.vd vd).objs = [o]) (hh : o.handle = c.p0.toNat)
    (hu : o.unloading = false) (hr : r ∈ s.runs) (hv : r.vd = vd) (hrh : r.handle = o.handle) :
    let t := s.command vd port 2 c
    Dispatched t vd port c 2 (some (5, 0, 0)) ∧ (t.vd vd).objs = [o] ∧ SameRuns s t := by
  have hq := h.quiet 2
  have hobjs := (hq.objs vd).trans ho
  have hno := unloadObj_used (key := (vd, port, c.seq.toNat)) hz (State.object_of_one hobjs hh hu) (hq.runs.symm ▸ hr) hv hrh
  obtain ⟨hd, hf⟩ := h.command_finished (runCmd_unloadObject_error (h.not_refused_plain (by decide)) hno) rfl
  exact ⟨hd, (hf.objs vd).trans hobjs, (hq.trans hf).sameRuns⟩

theorem map {z b l : Nat} (hz : pageSize (bits c.p2.toNat 0 2) = z) (h2 : c.p2.toNat < 8) (h4 : c.p4 = 0) (h5 : c.p5 = 0)
    (hva : c.p0.toNat % z = 0) (hlen : c.p1.toNat = z) (hoff : c.p3.toNat % z = 0) (htop : c.p0.toNat + z ≤ 2 ^ 55) (hg : (s.vd vd).grant = [(b, l)])
    (hb : b % z = 0) (hl : c.p3.toNat + z ≤ l) (hfree : ∀ q ∈ (s.vd vd).pages, q.va + q.size ≤ c.p0.toNat ∨ c.p0.toNat + z ≤ q.va)
    (hareas : s.areas vd = []) :
    let t := s.command vd port 9 c
    Dispatched t vd port c 9 (some (0, 0, 0)) ∧ SameRuns s t ∧ (t.vd vd).pages = (s.vd vd).pages ++
      [{ vd := vd, va := c.p0.toNat, size := z, pa := b + c.p3.toNat, writable := bitAt c.p2.toNat 2, sync := false }] := by
  have hq := h.quiet 9
  have hok := mapPages_one (s := s.accept vd port 9 c) hz h2 h4 h5 hva hlen hoff htop ((hq.grant vd).trans hg) hb hl (by rwa [hq.pages])
    ((hq.areas vd).trans hareas)
  obtain ⟨hd, hf⟩ := h.command_finished (by rw [runCmd_map (h.not_refused_plain (by decide)), hok, State.settleCmd])
    (by apply State.ports_modVd; intro _; rfl)
  refine ⟨hd, SameRuns.of_quiet hq hf.sameRuns, ?_⟩
  rw [hf.pages, State.addPages, State.vd_modVd_self, hq.pages]

theorem unmap {p : Page} (h2 : c.p2 = 0) (h3 : c.p3 = 0) (h4 : c.p4 = 0) (h5 : c.p5 = 0) (hp : (s.vd vd).pages = [p]) (hpv : p.vd = vd)
    (hva : p.va = c.p0.toNat) (hsize : p.size = c.p1.toNat) (hpos : 0 < p.size) (htop : p.va + p.size ≤ 2 ^ 55) :
    let t := s.command vd port 10 c
    Dispatched t vd port c 10 none ∧ (t.vd vd).pages = [] ∧ (∀ d, d < 4 → (t.die d).tgen = (s.die d).tgen + 1 ∧ p ∉ (t.die d).tlb) ∧
      t.runs = s.runs ∧ t.ctxs = s.ctxs ∧ t.edgeRel.length ≥ s.edgeRel.length := by
  have hq := h.quiet 10
  have hpages := (hq.pages vd).trans hp
  have hok := unmapPages_one (key := (vd, port, c.seq.toNat)) h2 h3 h4 h5 hpages hva hsize hpos htop
  have hin : p.inRanges vd [(c.p0.toNat, c.p1.toNat)] = true := by
    simp only [Page.inRanges, Page.meets, hpv, List.any_cons, List.any_nil, beq_self_eq_true, Bool.true_and, Bool.or_false, Bool.and_eq_true,
      decide_eq_true_eq]
    omega
  obtain ⟨_, hdies, hedge⟩ := (s.accept vd port 10 c).withdraw_spec vd (vd, port, c.seq.toNat) [(c.p0.toNat, c.p1.toNat)]
  obtain ⟨offs, hv⟩ := (s.accept vd port 10 c).vd_withdraw_self vd (vd, port, c.seq.toNat) [(c.p0.toNat, c.p1.toNat)]
  obtain ⟨hd, hf⟩ := h.command_begun (runCmd_unmap (h.not_refused_plain (by decide)) hok) (by rw [hv])
  refine ⟨hd, ?_, fun d hd => ⟨?_, ?_⟩, ?_, ?_, ?_⟩
  · rw [hf.pages, hv]
    simp [hpages, hin]
  · rw [hf.tgen, hdies d hd, hq.tgen]
  · rw [hf.tlb, hdies d hd]
    simp [hin]
  · exact hf.runs.trans ((State.runs_withdraw ..).trans hq.runs)
  · exact hf.ctxs.trans ((State.ctxs_withdraw ..).trans hq.ctxs)
  · rw [hf.edgeRel, ← hq.edgeRel]
    exact hedge

end Accepts

/-- LOAD_OBJECT, UNLOAD_OBJECT, MAP and UNMAP. -/
theorem objectAndPageCommandsComplete : ObjectAndPageCommandsComplete := by
  intro s vd port c h
  refine ⟨?_, ?_, ?_, ?_⟩
  · rintro bs g u h2 h3 h4 h5 - - ⟨-, hbs, hg, hl⟩
    obtain ⟨o, ho⟩ := h.loadObject hl hbs hg
    exact ⟨_, o, rfl, ho⟩
  · intro o h1 h2 h3 h4 h5 ho hh hu
    have hz := restZero_one h1 h2 h3 h4 h5
    exact ⟨fun hr => ⟨_, rfl, h.unloadObject hz ho hh hu hr⟩, fun r hr hv hrh => ⟨_, rfl, h.unloadObject_used hz ho hh hu hr hv hrh⟩⟩
  · intro z b l h2 h4 h5 hva hlen hoff htop hg hb hl hfree hareas
    have hz : pageSize (bits c.p2.toNat 0 2) = z := by rw [pageSize_eq, bits_two]
    have hbit : c.p2.getLsbD 2 = bitAt c.p2.toNat 2 := Nat.testBit_eq_decide_div_mod_eq
    rw [hbit]
    exact ⟨_, rfl, h.map hz h2 h4 h5 hva hlen hoff htop hg hb hl hfree hareas⟩
  · intro p h2 h3 h4 h5 hp hpv hva hsize hpos htop
    exact ⟨_, rfl, h.unmap h2 h3 h4 h5 hp hpv hva hsize hpos htop⟩
end

section
namespace Sys2Proof.Machine
variable {s t u : State} {rid : Nat} {r : Run} {k : Cut}

/-! ## What a restore leaves of the cut (R188, R191) -/

theorem tget_mem_or {α : Type} (d : α) (l : Table α) (i : Nat) : tget d l i = d ∨ ∃ e ∈ l, e.2 = tget d l i := by
  induction l with
  | nil => exact .inl rfl
  | cons e l ih =>
    obtain ⟨j, v⟩ := e
    rw [tget]
    split
    · exact .inr ⟨(j, v), List.mem_cons_self, rfl⟩
    · exact ih.imp_right fun ⟨e, he, h⟩ => ⟨e, List.mem_cons_of_mem _ he, h⟩

/-- What an entry of a table keeps, its map keeps. -/
theorem tget_map {α β : Type} (d : α) (g : α → α) (p : α → β) (hg : ∀ a, p (g a) = p a) (l : Table α) (i : Nat) :
    p (tget d (l.map fun e => (e.1, g e.2)) i) = p (tget d l i) := by
  induction l with
  | nil => rfl
  | cons e l ih =>
    obtain ⟨j, v⟩ := e
    simp only [List.map_cons, tget]
    split
    · exact hg v
    · exact ih

theorem State.clearRegion_rest (s : State) (r : Run) :
    s.clearRegion r = { s with ctxs := (s.clearRegion r).ctxs, cores := (s.clearRegion r).cores } := by
  rw [State.clearRegion]
  refine List.foldlRecOn (motive := fun t : State => t = { s with ctxs := t.ctxs, cores := t.cores }) _ _ ?_ fun u hu e _ => ?_
  · refine List.foldlRecOn (motive := fun t : State => t = { s with ctxs := t.ctxs, cores := t.cores }) _ _ rfl fun u hu e _ => ?_
    split
    · rw [hu]
      rfl
    · exact hu
  · split
    · rw [hu]
      rfl
    · exact hu

/-- A token that is no chunk needs no check. -/
theorem State.recheckTok_plain (s : State) (x : Run) (n : Nat) {tk : Token} (put : Token → Run → Run) (h : tk.kind ≠ 2) :
    s.recheckTok x n tk put = s := by
  cases tk with
  | chunk => exact absurd rfl h
  | _ => rfl

/-- A graph without stream nodes has no streams among any of its nodes. -/
theorem Run.no_streams {x : Run} (hk : ∀ (n : Nat) (d : NodeD), x.graph.nodes[n]? = some d → d.kind ≠ 2 ∧ d.kind ≠ 3) (ns : List Nat) :
    (ns.filter fun n => (x.node n).any fun d => d.kind == 2 || d.kind == 3) = [] := by
  refine List.filter_eq_nil_iff.mpr fun n _ => ?_
  rw [Run.node]
  cases hd : x.graph.nodes[n]? with
  | none => simp
  | some d => simp [hk n d hd]

/-- A run that stands as a restore of a cut has it: it runs in the cut's phase, with its graph, its channels' tokens and what its nodes held; the ports are
as before. -/
structure Restored (s : State) (rid : Nat) (r : Run) (k : Cut) (t : State) : Prop where
  ports : ∀ j, (t.vd j).ports = (s.vd j).ports
  run : ∃ x, t.run rid = some x ∧ x.id = rid ∧ x.st = .running ∧ x.phase = k.phase ∧ x.graph = r.graph ∧
    (∀ i, (x.chan i).buf = (tget Chan.init k.chans i).buf) ∧ ∀ n, (x.nodeS n).held = (tget NodeS.init k.nodes n).held

namespace Restored

theorem of_same (h : Restored s rid r k t) (hr : u.runs = t.runs) (hv : u.vds = t.vds) : Restored s rid r k u where
  ports j := (congrArg (fun v => (tget Vd.init v j).ports) hv).trans (h.ports j)
  run := by
    have : u.run rid = t.run rid := congrArg (List.find? fun r : Run => r.id == rid) hr
    rw [this]
    exact h.run

theorem modRun (h : Restored s rid r k t) {f : Run → Run}
    (hf : ∀ x, (f x).id = x.id ∧ (f x).st = x.st ∧ (f x).phase = x.phase ∧ (f x).graph = x.graph ∧ (f x).chans = x.chans ∧ (f x).nodes = x.nodes) :
    Restored s rid r k (t.modRun rid f) where
  ports := h.ports
  run := by
    obtain ⟨x, hx, hid, hst, hph, hgr, hch, hno⟩ := h.run
    obtain ⟨fid, fst, fph, fgr, fch, fno⟩ := hf x
    refine ⟨f x, State.run_modRun_self hx fid, fid.trans hid, fst.trans hst, fph.trans hph, fgr.trans hgr, fun i => ?_, fun n => ?_⟩
    · rw [Run.chan, fch]
      exact hch i
    · rw [Run.nodeS, fno]
      exact hno n

theorem modVd (h : Restored s rid r k t) (n : Nat) {f : Vd → Vd} (hf : ∀ v, (f v).ports = v.ports) : Restored s rid r k (t.modVd n f) where
  ports j := (State.ports_modVd _ _ hf j).trans (h.ports j)
  run := h.run

theorem clearRegion (h : Restored s rid r k t) (x : Run) : Restored s rid r k (t.clearRegion x) := by
  rw [State.clearRegion_rest]
  exact h.of_same rfl rfl

theorem putSeg (h : Restored s rid r k t) (moved : Bool) (core : Nat) (x : SavedCtx) : Restored s rid r k (t.putSeg rid moved core x).1 := by
  simp only [State.putSeg]
  split
  · exact h.of_same rfl rfl
  · exact h.modRun fun _ => ⟨rfl, rfl, rfl, rfl, rfl, rfl⟩

theorem putObj (h : Restored s rid r k t) (core : Nat) (o : SavedObj) : Restored s rid r k (t.putObj core o) := by
  cases o <;> exact h.of_same rfl rfl

/-- Nothing is checked where no chunk is restored. -/
theorem recheckChans (h : Restored s rid r k t) (hc : ∀ e ∈ k.chans, ∀ tk ∈ e.2.buf, tk.kind ≠ 2)
    (hn : ∀ e ∈ k.nodes, ∀ tk, e.2.held = some tk → tk.kind ≠ 2) : t.recheckChans rid = t := by
  obtain ⟨x, hx, -, -, -, -, hch, hno⟩ := h.run
  have hbuf : ∀ i, ∀ tk ∈ (x.chan i).buf, tk.kind ≠ 2 := by
    intro i tk htk
    rw [hch] at htk
    rcases tget_mem_or Chan.init k.chans i with he | ⟨e, he, hv⟩
    · rw [he] at htk
      exact absurd htk (by simp [Chan.init])
    · exact hc e he tk (hv ▸ htk)
  have hheld : ∀ n tk, (x.nodeS n).held = some tk → tk.kind ≠ 2 := by
    intro n tk htk
    rw [hno] at htk
    rcases tget_mem_or NodeS.init k.nodes n with he | ⟨e, he, hv⟩
    · rw [he] at htk
      exact absurd htk (by simp [NodeS.init])
    · exact hn e he tk (hv ▸ htk)
  simp only [State.recheckChans, hx]
  refine List.foldlRecOn (motive := fun u => u = t) _ _ ?_ fun u hu n _ => ?_
  · refine List.foldlRecOn (motive := fun u => u = t) _ _ rfl fun u hu e _ => ?_
    refine List.foldlRecOn (motive := fun u => u = t) _ _ hu fun u hu f hf => ?_
    obtain ⟨tk, j⟩ := f
    rw [State.recheckTok_plain _ _ _ _ (hbuf _ tk (List.fst_mem_of_mem_zipIdx hf))]
    exact hu
  · split
    · next tk htk =>
      rw [State.recheckTok_plain _ _ _ _ (hheld n tk htk)]
      exact hu
    · exact hu

end Restored

theorem State.restored_restoreCut {rg : Region} {place : Table (Option Place)} (hr : s.run rid = some r)
    (hk : ∀ n d, r.node n = some d → d.kind ≠ 2 ∧ d.kind ≠ 3) (hc : ∀ e ∈ k.chans, ∀ tk ∈ e.2.buf, tk.kind ≠ 2)
    (hn : ∀ e ∈ k.nodes, ∀ tk, e.2.held = some tk → tk.kind ≠ 2) : Restored s rid r k (s.restoreCut rid k rg place) := by
  have hid : r.id = rid := by simpa using List.find?_some hr
  unfold State.restoreCut
  split
  · next h => exact absurd (hr.symm.trans h) (by simp)
  next r0 hr0 =>
  obtain rfl := Option.some.inj (hr0.symm.trans hr)
  extract_lets moved mc s1 outer r' s2 ops new s3
  have h1 : s1.runs = s.runs ∧ s1.vds = s.vds := by
    unfold s1
    split
    · rw [State.clearRegion_rest]
      exact ⟨rfl, rfl⟩
    · exact ⟨rfl, rfl⟩
  have h2 : Restored s rid r0 k s2 := by
    have hmod : Restored s rid r0 k (s1.modRun rid fun _ => r') := by
      refine ⟨fun j => congrArg (fun v => (tget Vd.init v j).ports) h1.2, r', ?_⟩
      refine ⟨?_, hid, rfl, rfl, rfl, fun i => ?_, fun n => ?_⟩
      · exact State.run_modRun_self (f := fun _ => r') ((congrArg (List.find? fun r : Run => r.id == rid) h1.1).trans hr) rfl
      · exact tget_map Chan.init (fun x : Chan => { x with fly := [], marked := false, late := [] }) (fun x : Chan => x.buf) (fun _ => rfl) k.chans i
      · exact tget_map NodeS.init (fun x : NodeS => { x with acted := 0 }) (fun x : NodeS => x.held) (fun _ => rfl) k.nodes n
    exact hmod.clearRegion r'
  have h3 : Restored s rid r0 k s3 := List.foldlRecOn (motive := Restored s rid r0 k) _ _ h2 fun u hu x _ => hu.of_same rfl rfl
  clear_value s3
  split
  rename_i s4 segMap h4
  have h4 : Restored s rid r0 k s4 := by
    have h := List.foldlRecOn (motive := fun x : State × List (Nat × Nat) => Restored s rid r0 k x.1)
      (bySegid (k.ctxs.filter fun x => x.ctx.role.isSeg)) (fun st x =>
        ((st.1.putSeg rid moved (mc x.core) (x.rebar k mc rid outer)).1,
          st.2 ++ [(x.cid, (st.1.putSeg rid moved (mc x.core) (x.rebar k mc rid outer)).2)]))
      (b := (s3, [])) h3 fun u hu x _ => hu.putSeg ..
    rw [show s4 = (s4, segMap).1 from rfl, ← h4]
    exact h
  extract_lets cidMap mcid obj s5 s6 s7 back s8
  have h5 : Restored s rid r0 k s5 := List.foldlRecOn (motive := Restored s rid r0 k) _ _ h4 fun u hu x _ => hu.putObj ..
  have h6 : Restored s rid r0 k s6 := List.foldlRecOn (motive := Restored s rid r0 k) _ _ h5 fun u hu x _ => hu.of_same rfl rfl
  have h7 : Restored s rid r0 k s7 := h6.modRun fun _ => ⟨rfl, rfl, rfl, rfl, rfl, rfl⟩
  have h8 : Restored s rid r0 k s8 := h7.modVd _ fun _ => rfl
  clear_value s8
  obtain ⟨x, hx, -, -, -, hgr, -, -⟩ := h8.run
  split
  · exact h8
  next y hy =>
  obtain rfl := Option.some.inj (hx.symm.trans hy)
  rw [Run.no_streams fun n d hd => hk n d (by rwa [hgr] at hd)]
  show Restored s rid r0 k (s8.recheckChans rid)
  rw [h8.recheckChans hc hn]
  exact h8

end Sys2Proof.Machine
end

section
namespace Sys2Proof.Machine
variable {s t : State} {c : Cmd} {vd : Nat}

/-! ## LAUNCH, PAUSE, RESUME, REPLACE and SNAPSHOT at their dispatch point (R75, R76, R172, R179) -/

theorem State.id_of_run {rid : Nat} {r : Run} (h : s.run rid = some r) : r.id = rid := by simpa using List.find?_some h

theorem Quiet.instOf {vd rid : Nat} {r : Run} (hq : Quiet s t) (hd : t.doomed vd rid = false) (hr : s.run rid = some r) (hv : r.vd = vd) :
    t.instOf vd rid = some r := by
  simp [State.instOf, hq.run, hr, hv, hd]

theorem launchChecks_object {o : Obj} {ps : List Nat} (h : launchChecks vd s c = .ok (o, ps)) : o.handle = c.p0.toNat := by
  unfold launchChecks at h
  split at h
  · simp at h
  split at h
  · simp at h
  next o' ho =>
  have hh := List.find?_some ho
  simp only [Bool.and_eq_true, beq_iff_eq] at hh
  iterate 4
    split at h
    · simp at h
  split at h
  · simp at h
  split at h
  · simp at h
  simp only [Except.ok.injEq, Prod.mk.injEq] at h
  exact h.1 ▸ hh.1

/-- The request that a LAUNCH sends to the Lathe. -/
def launchRequest (s : State) (key : CmdKey) (c : Cmd) (o : Obj) (ps : List Nat) : LatheReq :=
  { vd := key.1, handle := o.handle, region := c.p2.toNat, record := c.p3.toNat, argbase := 0, params := ps, leaves := s.leavesOf key.1
    debug := c.debug, cmd := some key, parent := none, replace := none, owed := o.graph.latheUnits }

theorem State.launchCmd_ok {key : CmdKey} {o : Obj} {ps : List Nat} (h : launchChecks key.1 s c = .ok (o, ps)) : s.launchCmd key c =
    { s.modPending key fun p => { p with begun := true } with lathe := s.lathe ++ [launchRequest s key c o ps] } := by
  rw [State.launchCmd, h]
  rfl

section
variable {key : CmdKey} {r : Run} (hz : restZero c 1 = true) (hr : s.instOf key.1 c.p0.toNat = some r)
include hz hr

/-- A run that is asked for its pause cut by a command. -/
def Run.askPause (key : CmdKey) (r : Run) : Run :=
  { r with pauseCmds := r.pauseCmds ++ [key], cutReq := if r.cut.any fun c => c.kind == CutKind.pause then r.cutReq else some .pause }

theorem State.pauseCmd_running (hst : r.st = .running) : s.pauseCmd key c = s.modRun r.id (Run.askPause key) := by
  simp only [State.pauseCmd, hz, hr, hst]
  rfl

theorem State.pauseCmd_paused (hst : r.st = .paused) : s.pauseCmd key c = s.finishCmd key 4 0 0 := by
  simp only [State.pauseCmd, hz, hr, hst]
  rfl

theorem State.resumeCmd_running (hst : r.st = .running) : s.resumeCmd key c = s.finishCmd key 4 0 0 := by
  simp only [State.resumeCmd, hz, hr, hst]
  rfl

theorem State.resumeCmd_paused (hst : r.st = .paused) (ha : r.away = false) :
    s.resumeCmd key c = (s.resumeRun r.id).modRun r.id fun r => { r with resumeCmd := some key } := by
  simp only [State.resumeCmd, hz, hr, hst, ha]
  rfl
end

theorem State.resumeRun_saved {rid : Nat} {r : Run} {k : Cut} (hr : s.run rid = some r) (hk : r.saved = [k]) :
    s.resumeRun rid = s.restoreCut rid k { die := r.die, col := r.col, width := r.width } r.place := by
  simp only [State.resumeRun, hr, hk]
  rfl

/-- The request that a REPLACE sends to the Lathe. -/
def replaceRequest (key : CmdKey) (c : Cmd) (r : Run) : LatheReq :=
  { vd := key.1, handle := r.handle, region := c.p1.toNat, record := c.p2.toNat, argbase := r.argbase, params := r.params
    leaves := r.leaves, debug := r.debug, cmd := some key, parent := none, replace := some r.id, owed := r.graph.latheUnits }

theorem State.replaceCmd_paused {key : CmdKey} {r : Run} (hz : restZero c 3 = true) (hg : regionOk c.p1.toNat = true) (h2 : c.p2 = 0)
    (hr : s.instOf key.1 c.p0.toNat = some r) (hst : r.st = .paused) :
    s.replaceCmd key c = { s with lathe := s.lathe ++ [replaceRequest key c r] } := by
  rw [State.replaceCmd, if_neg (by simp [hz, hg]), hr]
  dsimp only
  rw [if_neg (by simp [hst]), if_neg (by simp [h2])]
  rfl

theorem regionOk_of_bounds {p : Nat} (h : p < 2 ^ 24) (hd : p % 2 ^ 8 ≤ 3) (hc : p / 2 ^ 16 ≤ 32) : regionOk p = true := by
  have hd' : regionDie p ≤ 3 := (congrArg (· % 2 ^ 8) (Nat.div_one p)).trans_le hd
  have hc' : regionCount p ≤ 32 := (Nat.mod_le _ _).trans hc
  have h' : p < 16777216 := h
  simp [regionOk, h', hd', hc']

theorem snapshotCmd_paused {r : Run} {k : Cut} (hz : restZero c 3 = true) (hr : s.instOf vd c.p0.toNat = some r) (hst : r.st = .paused)
    (hk : r.saved = [k]) (hm : s.mapped vd c.p1.toNat (k.image r).length true = true) (hl : (k.image r).length ≤ c.p2.toNat) :
    snapshotCmd vd s c = (s.vWrite vd c.p1.toNat (k.image r), 0, (k.image r).length) := by
  simp only [snapshotCmd, hz, hr, hst, hk, List.getLast?_singleton, hm]
  rw [if_neg (by simp), if_neg (by simp), if_neg (by omega)]

end Sys2Proof.Machine

open Sys2Proof Sys2Proof.Machine

namespace Accepts
variable {s t : State} {vd port kind : Nat} {c : Cmd} {r : Run} (h : Accepts s vd port c)
include h

/-- No ABORT is under way at the ports of an accepted command that is not one itself, or has not been dispatched. -/
theorem doomed_accept (kind rid : Nat) : (s.accept vd port kind c).doomed vd rid = false := by
  refine List.any_eq_false.mpr fun q hq => ?_
  by_cases hne : q = port
  · rw [hne, (h.alone kind).queue]
    simp [accepted]
  · rw [h.idle_others kind (List.mem_range.mp hq) hne]
    simp

/-- The entry of an accepted command, marked as dispatched. -/
theorem alone_begun (kind : Nat) : Alone ((s.accept vd port kind c).modPending (vd, port, c.seq.toNat) fun p => { p with dispatched := true })
    vd port c { accepted s vd kind c with dispatched := true } := (h.alone kind).modPending rfl

theorem doomed_begun (hk : kind ≠ 7) (rid : Nat) :
    ((s.accept vd port kind c).modPending (vd, port, c.seq.toNat) fun p => { p with dispatched := true }).doomed vd rid = false := by
  refine List.any_eq_false.mpr fun q hq => ?_
  by_cases hne : q = port
  · rw [hne, (h.alone_begun kind).queue]
    simp [accepted, hk]
  · rw [State.modPending, State.port_modPort_other _ _ _ _ hne, h.idle_others kind (List.mem_range.mp hq) hne]
    simp

theorem quiet_begun (kind : Nat) :
    Quiet s ((s.accept vd port kind c).modPending (vd, port, c.seq.toNat) fun p => { p with dispatched := true }) :=
  (h.quiet kind).trans (Quiet.modPending ..)

/-- A command that is due to complete once it has been marked as dispatched. -/
theorem begun_finished {st f res : Nat}
    (hrun : (s.accept vd port kind c).runCmd (vd, port, c.seq.toNat) (accepted s vd kind c) =
      ((s.accept vd port kind c).modPending (vd, port, c.seq.toNat) fun p => { p with dispatched := true }).finishCmd (vd, port, c.seq.toNat) st f res) :
    Dispatched (s.command vd port kind c) vd port c kind (some (st, f, res)) ∧ Quiet s (s.command vd port kind c) := by
  obtain ⟨hd, hq⟩ := h.command_dispatched hrun ((h.alone_begun kind).finishCmd rfl st f res) rfl
  exact ⟨hd, (h.quiet_begun kind).trans ((Quiet.finishCmd ..).trans hq)⟩

/-- A command whose meaning leaves it undispatched. -/
theorem command_waiting {e : Pending}
    (hrun : (s.accept vd port kind c).runCmd (vd, port, c.seq.toNat) (accepted s vd kind c) = t) (ha : Alone t vd port c e)
    (hd : e.dispatched = false) : s.command vd port kind c = t := by
  rw [h.command_eq]
  simp only [hrun, ha.pending]
  simp [hd]

/-- A LAUNCH that passes its checks sends its request, and is not dispatched yet. -/
theorem launch {o : Obj} {ps : List Nat} (hl : launchChecks vd (s.accept vd port 3 c) c = .ok (o, ps)) :
    let t := s.command vd port 3 c
    ∃ q e, t.lathe = s.lathe ++ [q] ∧ q.vd = vd ∧ q.handle = c.p0.toNat ∧ q.region = c.p2.toNat ∧ q.record = c.p3.toNat ∧ q.params = ps ∧
      q.cmd = some (vd, port, c.seq.toNat) ∧ q.parent = none ∧ q.replace = none ∧ ((t.vd vd).port port).queue = [e] ∧ e.dispatched = false ∧
      e.done = none ∧ SameRuns s t := by
  have hu := h.quiet 3
  have ha : Alone ((s.accept vd port 3 c).modPending (vd, port, c.seq.toNat) fun p => { p with begun := true }) vd port c
    { accepted s vd 3 c with begun := true } := (h.alone 3).modPending rfl
  have hrun := (runCmd_launch (s := s) (n := c.seq.toNat) (port := port) (h.not_refused_plain (kind := 3) (by decide))).trans
    (State.launchCmd_ok (key := (vd, port, c.seq.toNat)) hl)
  have ht := h.command_waiting hrun (ha.of_ports rfl) rfl
  have hq : Quiet s ((s.accept vd port 3 c).modPending (vd, port, c.seq.toNat) fun p => { p with begun := true }) := hu.trans (Quiet.modPending ..)
  refine ⟨launchRequest (s.accept vd port 3 c) (vd, port, c.seq.toNat) c o ps, { accepted s vd 3 c with begun := true }, ?_, rfl,
    launchChecks_object hl, rfl, rfl, rfl, rfl, rfl, rfl, ?_, rfl, rfl, ?_⟩
  · rw [ht]
    exact congrArg (· ++ [_]) hu.lathe
  · rw [ht]
    exact ha.queue
  · rw [ht]
    exact hq.sameRuns

theorem pause_running (hz : restZero c 1 = true) (hr : s.run c.p0.toNat = some r) (hv : r.vd = vd) (hst : r.st = .running) (hc : r.cut = none) :
    let t := s.command vd port 4 c
    ∃ r', Dispatched t vd port c 4 none ∧ t.run r.id = some r' ∧ r'.cutReq = some .pause ∧ r'.pauseCmds = r.pauseCmds ++ [(vd, port, c.seq.toNat)] ∧
      r'.st = .running ∧ r'.chans = r.chans ∧ t.ctxs = s.ctxs ∧ t.cores = s.cores := by
  have hq := h.quiet_begun 4
  have hrun := (runCmd_pause (s := s) (n := c.seq.toNat) (port := port) (h.not_refused_plain (kind := 4) (by decide))).trans
    (State.pauseCmd_running hz (hq.instOf (h.doomed_begun (by decide) _) hr hv) hst)
  obtain ⟨hd, hf⟩ := h.command_dispatched hrun ((h.alone_begun 4).of_ports rfl) rfl
  refine ⟨r.askPause (vd, port, c.seq.toNat), hd, ?_, ?_, rfl, hst, rfl, hf.ctxs.trans hq.ctxs, hf.cores.trans hq.cores⟩
  · rw [hf.run]
    exact State.run_modRun_self ((hq.run _).trans (State.id_of_run hr ▸ hr)) rfl
  · simp [Run.askPause, hc]

theorem pause_paused (hz : restZero c 1 = true) (hr : s.run c.p0.toNat = some r) (hv : r.vd = vd) (hst : r.st = .paused) :
    Dispatched (s.command vd port 4 c) vd port c 4 (some (4, 0, 0)) ∧ SameRuns s (s.command vd port 4 c) := by
  obtain ⟨hd, hq⟩ := h.begun_finished ((runCmd_pause (h.not_refused_plain (by decide))).trans
    (State.pauseCmd_paused hz ((h.quiet_begun 4).instOf (h.doomed_begun (by decide) _) hr hv) hst))
  exact ⟨hd, hq.sameRuns⟩

theorem resume_running (hz : restZero c 1 = true) (hr : s.run c.p0.toNat = some r) (hv : r.vd = vd) (hst : r.st = .running) :
    Dispatched (s.command vd port 5 c) vd port c 5 (some (4, 0, 0)) ∧ SameRuns s (s.command vd port 5 c) := by
  obtain ⟨hd, hq⟩ := h.begun_finished ((runCmd_resume (h.not_refused_plain (by decide))).trans
    (State.resumeCmd_running hz ((h.quiet_begun 5).instOf (h.doomed_begun (by decide) _) hr hv) hst))
  exact ⟨hd, hq.sameRuns⟩

theorem resume_paused {k : Cut} (hz : restZero c 1 = true) (hr : s.run c.p0.toNat = some r) (hv : r.vd = vd) (hst : r.st = .paused)
    (haway : r.away = false) (hk : r.saved = [k]) (hnodes : ∀ n d, r.node n = some d → d.kind ≠ 2 ∧ d.kind ≠ 3)
    (hc : ∀ e ∈ k.chans, ∀ tk ∈ e.2.buf, tk.kind ≠ 2) (hn : ∀ e ∈ k.nodes, ∀ tk, e.2.held = some tk → tk.kind ≠ 2) :
    let t := s.command vd port 5 c
    ∃ r', Dispatched t vd port c 5 none ∧ t.run r.id = some r' ∧ r'.st = .running ∧ r'.phase = k.phase ∧
      r'.resumeCmd = some (vd, port, c.seq.toNat) ∧ ∀ i, (r'.chan i).buf = (tget Chan.init k.chans i).buf := by
  have hq := h.quiet_begun 5
  have hid := (hq.run _).trans (State.id_of_run hr ▸ hr)
  have hrun := (runCmd_resume (s := s) (n := c.seq.toNat) (port := port) (h.not_refused_plain (kind := 5) (by decide))).trans
    (State.resumeCmd_paused hz (hq.instOf (h.doomed_begun (by decide) _) hr hv) hst haway)
  rw [State.resumeRun_saved hid hk] at hrun
  have hR := State.restored_restoreCut (rg := { die := r.die, col := r.col, width := r.width }) (place := r.place) hid hnodes hc hn
  obtain ⟨x, hx, -, hxst, hxph, -, hxch, -⟩ := hR.run
  obtain ⟨hd, hf⟩ := h.command_dispatched hrun ((h.alone_begun 5).of_ports (hR.ports vd)) rfl
  refine ⟨{ x with resumeCmd := some (vd, port, c.seq.toNat) }, hd, ?_, hxst, hxph, rfl, hxch⟩
  rw [hf.run]
  exact State.run_modRun_self (f := fun r => { r with resumeCmd := some (vd, port, c.seq.toNat) }) hx rfl

theorem replace (hl : (s.leaf vd 1).getLsbD 4 = true) (hz : restZero c 3 = true) (hg : regionOk c.p1.toNat = true) (h2 : c.p2 = 0)
    (hr : s.run c.p0.toNat = some r) (hv : r.vd = vd) (hst : r.st = .paused) :
    let t := s.command vd port 6 c
    ∃ q, Dispatched t vd port c 6 none ∧ t.lathe = s.lathe ++ [q] ∧ q.replace = some r.id ∧ q.region = c.p1.toNat ∧
      q.cmd = some (vd, port, c.seq.toNat) ∧ SameRuns s t := by
  have hq := h.quiet_begun 6
  have hrun := (runCmd_replace (s := s) (n := c.seq.toNat) (port := port) (h.not_refused (kind := 6) (by decide) fun _ => hl)).trans
    (State.replaceCmd_paused hz hg h2 (hq.instOf (h.doomed_begun (by decide) _) hr hv) hst)
  obtain ⟨hd, hf⟩ := h.command_dispatched hrun ((h.alone_begun 6).of_ports rfl) rfl
  refine ⟨replaceRequest (vd, port, c.seq.toNat) c r, hd, ?_, rfl, rfl, rfl, SameRuns.of_quiet hq hf.sameRuns⟩
  rw [hf.lathe]
  exact congrArg (· ++ [_]) hq.lathe

theorem snapshot {k : Cut} (hl : (s.leaf vd 1).getLsbD 4 = true) (hz : restZero c 3 = true) (hr : s.run c.p0.toNat = some r) (hv : r.vd = vd)
    (hst : r.st = .paused) (hk : r.saved = [k]) (hm : s.mapped vd c.p1.toNat (k.image r).length true = true) (hlen : (k.image r).length ≤ c.p2.toNat) :
    let t := s.command vd port 8 c
    Dispatched t vd port c 8 (some (0, 0, (k.image r).length)) ∧ SameRuns s t := by
  have hq := h.quiet 8
  have hok := snapshotCmd_paused hz (hq.instOf (h.doomed_accept 8 _) hr hv) hst hk ((hq.mapped ..).trans hm) hlen
  obtain ⟨hd, hf⟩ := h.command_finished (runCmd_snapshot (h.not_refused (by decide) fun _ => hl) hok) (by rw [State.vd_vWrite])
  exact ⟨hd, ((hq.trans (Quiet.vWrite ..)).trans hf).sameRuns⟩

end Accepts
end

section
namespace Sys2Proof.Machine
variable {s t u : State} {rid : Nat} {r : Run}

/-! ## ABORT at its dispatch point (R59, R72, R76, R309) -/

theorem State.dropTlbs_rest (s : State) (hit : Page → Bool) :
    s.dropTlbs hit = { s with cores := (s.dropTlbs hit).cores, dies := (s.dropTlbs hit).dies } := by
  rw [State.dropTlbs]
  refine List.foldlRecOn (motive := fun t : State => t = { s with cores := t.cores, dies := t.dies }) _ _ ?_ fun u hu d _ => ?_
  · refine List.foldlRecOn (motive := fun t : State => t = { s with cores := t.cores, dies := t.dies }) _ _ rfl fun u hu e _ => ?_
    split
    · rw [hu]
      rfl
    · exact hu
  · rw [hu]
    rfl

/-- A run that no command and no context waits for leaves its region: it is no more, and the ports and the Flue are as before. -/
theorem State.endRun_unwatched (hr : s.run rid = some r) (hp : r.pauseCmds = []) (hc : r.cmd = none) (hres : r.resumeCmd = none)
    (hpar : r.parent = none) (status fault pause : Nat) :
    let t := s.endRun rid status fault pause
    t.runs = s.runs.filter (fun x => x.id != rid) ∧ (∀ k, (t.vd k).ports = (s.vd k).ports) ∧ t.flue = s.flue := by
  simp only [State.endRun, hr, State.endPauses, hp, List.foldl_nil, hc, hres, hpar, State.finishOpt]
  generalize hs1 : (if r.holdsCells then s.clearRegion r else s) = s1
  have h1 : s1.runs = s.runs ∧ s1.vds = s.vds ∧ s1.flue = s.flue := by
    rw [← hs1]
    split
    · rw [State.clearRegion_rest]
      exact ⟨rfl, rfl, rfl⟩
    · exact ⟨rfl, rfl, rfl⟩
  rw [State.dropTlbs_rest]
  refine ⟨congrArg (List.filter _) h1.1, fun k => ?_, h1.2.2⟩
  have hports : ((s1.modVd r.vd fun v => { v with pages := v.pages.filter fun p => !(r.holdsPage p) }).vd k).ports = (s1.vd k).ports := by
    apply State.ports_modVd
    intro _
    rfl
  exact hports.trans (congrArg (fun v => (tget Vd.init v k).ports) h1.2.1)

theorem State.run_none_of_filter (h : t.runs = s.runs.filter fun x => x.id != rid) : t.run rid = none := by
  rw [State.run, h]
  simp

/-- A run whose storers have left their rounds. -/
def Run.leftRounds (r : Run) : Run := { r with nodes := r.nodes.map fun x => (x.1, { x.2 with run := false, desc := [], chunks := [] }) }

theorem State.collsOf_none (hc : s.colls = []) (hn : ∀ e ∈ r.nodes, e.2.run = false) : s.collsOf r = [] := by
  have hrun : ∀ n, (r.nodeS n).run = false := by
    intro n
    rcases tget_mem_or NodeS.init r.nodes n with h | ⟨e, he, h⟩
    · rw [Run.nodeS, h]
      rfl
    · rw [Run.nodeS, ← h]
      exact hn e he
  have hnil : ∀ f : Nat → Option Collective, (∀ n, f n = none) → (List.range r.graph.nodes.length).filterMap f = [] :=
    fun f hf => List.filterMap_eq_nil_iff.mpr fun n _ => hf n
  rw [State.collsOf, hc, List.filter_nil, List.append_nil]
  refine hnil _ fun n => ?_
  simp only [hrun n]

theorem State.collAbort_none (hr : s.run rid = some r) (hc : s.colls = []) (hn : ∀ e ∈ r.nodes, e.2.run = false) :
    s.collAbort rid = s.modRun rid Run.leftRounds := by
  simp only [State.collAbort, hr, State.collsOf_none hc hn]
  rfl

/-- A run that a halt has stopped. -/
def Run.stopped (code : Nat) (r : Run) : Run :=
  { r with st := .halted code, cut := none, cutReq := none, away := r.away || r.st == .yielded }

theorem State.run_haltRun_running (hr : s.run rid = some r) (hst : r.st = .running) (code : Nat) :
    (s.haltRun rid code).run rid = some (r.stopped code) := by
  have hf : ∀ f : Run → Run, f r = r.stopped code → (s.modRun rid f).run rid = some (r.stopped code) := fun f hf => by
    rw [State.run_modRun_self hr (by rw [hf]; rfl), hf]
  apply hf
  simp only [hst]
  simp [Run.stopped, hst]

theorem State.quiet_congr {x : Run} (hc : t.cores = s.cores) (hh : x.holdsCells = r.holdsCells) (hv : ∀ k, x.covers k = r.covers k) :
    t.quiet x = s.quiet r := by
  simp only [State.quiet, hc, hh, hv]

theorem State.quiet_stopped (rid : Nat) (hst : r.st = .running) (ha : r.away = false) (code : Nat) :
    (s.haltRun rid code).quiet (r.stopped code) = s.quiet r :=
  State.quiet_congr rfl (by simp [Run.holdsCells, Run.stopped, hst, ha]) fun _ => rfl

theorem State.abortNow_eq {key : CmdKey} (hr : s.run rid = some r) (hp : r.pauseCmds = []) : s.abortNow key rid =
    if (((s.haltRun rid 0x101).reapHalted rid).run rid).isNone then ((s.haltRun rid 0x101).reapHalted rid).finishCmd key 0 0 0
    else (s.haltRun rid 0x101).reapHalted rid := by
  simp only [State.abortNow, hr, hp]
  rfl

section
variable {key : CmdKey} (hr : s.run rid = some r) (hst : r.st = .running) (hp : r.pauseCmds = []) (ha : r.away = false)
include hr hst hp ha

/-- A run that runs is removed by its ABORT where nothing that it has issued is under way. -/
theorem State.abortNow_removes (hc : r.cmd = none) (hres : r.resumeCmd = none) (hpar : r.parent = none) (hq : s.quiet r = true)
    (hflue : s.flueClear r = true) :
    ∃ t : State, s.abortNow key rid = t.finishCmd key 0 0 0 ∧ t.run rid = none ∧ (∀ k, (t.vd k).ports = (s.vd k).ports) ∧ t.flue = s.flue := by
  have hh := State.run_haltRun_running hr hst 0x101
  have hreap : (s.haltRun rid 0x101).reapHalted rid = (s.haltRun rid 0x101).endRun rid 11 0 11 := by
    have hfl : (s.haltRun rid 0x101).flueClear (r.stopped 0x101) = true := hflue
    have hqu := (State.quiet_stopped rid hst ha 0x101).trans hq
    simp only [State.reapHalted, hh]
    simp only [Run.stopped] at hfl hqu ⊢
    simp only [hfl, hqu]
    rfl
  obtain ⟨hruns, hports, hfl⟩ := State.endRun_unwatched hh hp hc hres hpar 11 0 11
  have hnone := State.run_none_of_filter hruns
  refine ⟨(s.haltRun rid 0x101).endRun rid 11 0 11, ?_, hnone, hports, hfl⟩
  rw [State.abortNow_eq hr hp, hreap, hnone]
  rfl

/-- A run that runs is stopped by its ABORT where something that it has issued is under way. -/
theorem State.abortNow_stops (hq : s.quiet r = false) : s.abortNow key rid = s.haltRun rid 0x101 := by
  have hh := State.run_haltRun_running hr hst 0x101
  have hreap : (s.haltRun rid 0x101).reapHalted rid = s.haltRun rid 0x101 := by
    have hqu := (State.quiet_stopped rid hst ha 0x101).trans hq
    simp only [State.reapHalted, hh]
    simp only [Run.stopped] at hqu ⊢
    simp only [hqu, Bool.and_false]
    rfl
  rw [State.abortNow_eq hr hp, hreap, hh]
  rfl
end

end Sys2Proof.Machine

open Sys2Proof Sys2Proof.Machine

namespace Accepts
variable {s : State} {vd port : Nat} {c : Cmd} {r : Run} (h : Accepts s vd port c)
include h

theorem run_leftRounds (hr : s.run c.p0.toNat = some r) : ((s.accept vd port 7 c).modRun r.id Run.leftRounds).run r.id = some r.leftRounds :=
  State.run_modRun_self (((h.quiet 7).run _).trans (State.id_of_run hr ▸ hr)) rfl

section
variable (hz : restZero c 1 = true) (hr : s.run c.p0.toNat = some r) (hv : r.vd = vd) (hc : s.colls = []) (hn : ∀ e ∈ r.nodes, e.2.run = false)
include hz hr hv hc hn

theorem abortCmd_eq : (s.accept vd port 7 c).abortCmd (vd, port, c.seq.toNat) c =
    ((s.accept vd port 7 c).modRun r.id Run.leftRounds).abortNow (vd, port, c.seq.toNat) r.id := by
  have hq := h.quiet 7
  have hid := State.id_of_run hr
  have hi := hq.instOf (h.doomed_accept 7 _) hr hv
  rw [← State.collAbort_none ((hq.run _).trans (hid ▸ hr)) (hq.colls.trans hc) hn]
  simp only [State.abortCmd, hz, hi]
  rfl

variable (hp : r.pauseCmds = []) (hst : r.st = .running) (ha : r.away = false)
include hp hst ha

theorem abort_removes (hcmd : r.cmd = none) (hres : r.resumeCmd = none) (hpar : r.parent = none) (hqu : s.quiet r = true)
    (hfl : ∀ f ∈ s.flue, f.vd ≠ r.vd ∨ f.inst ≠ r.id % 2 ^ 16) :
    let t := s.command vd port 7 c
    Dispatched t vd port c 7 (some (0, 0, 0)) ∧ t.run r.id = none ∧ t.flue = s.flue := by
  have hq := h.quiet 7
  have hclear : ((s.accept vd port 7 c).modRun r.id Run.leftRounds).flueClear r.leftRounds = true := by
    show (!((s.accept vd port 7 c).flue.any fun f => f.vd == r.vd && f.inst == r.id % 2 ^ 16)) = true
    rw [hq.flue, Bool.not_eq_true', List.any_eq_false]
    intro f hf
    rcases hfl f hf with hne | hne
    · rw [beq_false_of_ne hne, Bool.false_and]
      exact Bool.false_ne_true
    · rw [beq_false_of_ne hne, Bool.and_false]
      exact Bool.false_ne_true
  have hcalm : ((s.accept vd port 7 c).modRun r.id Run.leftRounds).quiet r.leftRounds = true :=
    (State.quiet_congr hq.cores rfl fun _ => rfl).trans hqu
  obtain ⟨t, hab, hnone, hports, hflue⟩ := State.abortNow_removes (key := (vd, port, c.seq.toNat)) (h.run_leftRounds hr) hst hp ha hcmd hres
    hpar hcalm hclear
  have hrun := runCmd_abort (s := s) (n := c.seq.toNat) (port := port) (h.not_refused_plain (kind := 7) (by decide))
  rw [h.abortCmd_eq hz hr hv hc hn, hab] at hrun
  have hal := (((h.alone 7).of_ports (hports vd)).finishCmd rfl 0 0 0).modPending (f := fun p => { p with dispatched := true }) rfl
  obtain ⟨hd, hf⟩ := h.command_dispatched hrun hal rfl
  have hf := ((Quiet.finishCmd ..).trans (Quiet.modPending ..)).trans hf
  exact ⟨hd, (hf.run _).trans hnone, hf.flue.trans (hflue.trans hq.flue)⟩

theorem abort_stops (hqu : s.quiet r = false) :
    let t := s.command vd port 7 c
    ∃ r', Dispatched t vd port c 7 none ∧ t.run r.id = some r' ∧ r'.st = .halted 0x101 ∧ t.ctxs = s.ctxs ∧ t.cores = s.cores ∧ t.flue = s.flue := by
  have hq := h.quiet 7
  have hleft := h.run_leftRounds hr
  have hcalm : ((s.accept vd port 7 c).modRun r.id Run.leftRounds).quiet r.leftRounds = false :=
    (State.quiet_congr hq.cores rfl fun _ => rfl).trans hqu
  have hrun := runCmd_abort (s := s) (n := c.seq.toNat) (port := port) (h.not_refused_plain (kind := 7) (by decide))
  rw [h.abortCmd_eq hz hr hv hc hn, State.abortNow_stops hleft hst hp ha hcalm] at hrun
  have hal := ((h.alone 7).of_ports (t := ((s.accept vd port 7 c).modRun r.id Run.leftRounds).haltRun r.id 0x101) rfl).modPending
    (f := fun p => { p with dispatched := true }) rfl
  obtain ⟨hd, hf⟩ := h.command_dispatched hrun hal rfl
  have hf := (Quiet.modPending ..).trans hf
  exact ⟨r.leftRounds.stopped 0x101, hd, (hf.run _).trans (State.run_haltRun_running hleft hst 0x101), rfl, hf.ctxs.trans hq.ctxs,
    hf.cores.trans hq.cores, hf.flue.trans hq.flue⟩
end

end Accepts
end

section
namespace Sys2Proof.Machine
variable {s t : State} {cid : Nat} {h : Hdr}

/-! ## LAUNCH, the instruction (R441), and the commands of instances together -/

/-- The context after a word whose effect has begun and for which it parks. -/
theorem ctx_settle_wait_self (s0 t : State) (cid : Nat) (h : Hdr) (k : Park) : (settle s0 cid h (.wait t k)).ctx cid =
    { t.ctx cid with
      pc := (t.ctx cid).pc + 8, gap := 1 + h.gap.toNat + 0, sw := true, stepDue := if (s0.ctx cid).stepEn then some (s0.ir, (s0.ctx cid).pc) else (t.ctx cid).stepDue
      park := some { k with order := (t.advance cid h ((t.ctx cid).pc + 8) 0).parkPlace cid k, since := (t.advance cid h ((t.ctx cid).pc + 8) 0).cycle (coreOf cid) } } := by
  rw [settle, State.ctx_noteIssue_self, State.ctx_countIssue, State.ctx_parkCtx_self, State.ctx_advance_self]

theorem ctx_settle_wait_other (s0 t : State) {cid j : Nat} (h : Hdr) (k : Park) (hj : j ≠ cid) : (settle s0 cid h (.wait t k)).ctx j = t.ctx j := by
  rw [settle, State.ctx_noteIssue_other _ _ _ _ hj, State.ctx_countIssue, State.ctx_parkCtx_other _ _ _ hj, State.ctx_advance_other _ _ _ _ _ hj]

theorem core_settle_wait (s0 t : State) (cid : Nat) (h : Hdr) (k : Park) (j : Nat) : (settle s0 cid h (.wait t k)).core j =
    if j = coreOf cid then Core.counted cid (t.core j) true else t.core j := by
  rw [settle, State.core_noteIssue]
  split
  · next hj => rw [hj, State.core_countIssue_self, State.core_parkCtx, State.core_advance]
  · next hj => rw [State.core_countIssue_other _ _ _ hj, State.core_parkCtx, State.core_advance]

theorem dram_settle_wait (s0 t : State) (cid : Nat) (h : Hdr) (k : Park) : (settle s0 cid h (.wait t k)).dram = t.dram := by
  have hp : ∀ u : State, (u.parkCtx cid k).dram = u.dram := fun _ => rfl
  simp only [settle, State.noteIssue, State.countIssue, State.modCtx, State.modCore, State.setCtx_dram, State.setCore_dram, hp, State.advance]

theorem lathe_settle_wait (s0 t : State) (cid : Nat) (h : Hdr) (k : Park) : (settle s0 cid h (.wait t k)).lathe = t.lathe := by
  have hp : ∀ u : State, (u.parkCtx cid k).lathe = u.lathe := fun _ => rfl
  simp only [settle, State.noteIssue, State.countIssue, State.modCtx, State.modCore, State.setCtx_lathe, State.setCore_lathe, hp, State.advance]

theorem Core.counted_memories (cid : Nat) (k : Core) (e : Bool) :
    (Core.counted cid k e).mem = k.mem ∧ (Core.counted cid k e).fe = k.fe ∧ (Core.counted cid k e).accs = k.accs ∧ (Core.counted cid k e).tiles = k.tiles := by
  rw [Core.counted]
  split <;> exact ⟨rfl, rfl, rfl, rfl⟩

theorem certain_of_operator {body : State → Nat → Eff} (hop : (s.ctx cid).role.isOp = true) (hown : s.ownEntries cid = []) :
    certain body s cid = body s cid := by
  have hu : (s.ctx cid).uncertain = false := by
    rw [Ctx.uncertain]
    cases hr : (s.ctx cid).role with
    | op => rfl
    | idle => rfl
    | seg => rw [hr] at hop; exact absurd hop Bool.false_ne_true
  rw [certain, hu, State.draining, hown]
  rfl

/-- The request that an instruction LAUNCH sends to the Lathe. -/
def childRequest (r : Run) (cid hd rgn : Nat) (dbg : Bool) (o : Obj) (ps : List Nat) : LatheReq :=
  { vd := r.vd, handle := hd, region := rgn, record := 0, argbase := 0, params := ps, leaves := r.leaves, debug := dbg
    cmd := none, parent := some cid, replace := none, owed := o.graph.latheUnits }

theorem deviceLaunchBody_ok {a b x : Reg} {dbg : Bool} {r : Run} {o : Obj} {ps : List Nat} (hr : s.ctxRun cid = some r)
    (hun : s.unacked cid = false) (ho : s.object r.vd ((s.ctx cid).xr a).toNat = some o) (hs : o.signed = false) (hb : (s.ctx cid).xr b = 0)
    (hx : ((s.ctx cid).xr x).toNat < 2 ^ 24) (hd : ((s.ctx cid).xr x).toNat % 256 ≤ 3) (hi : s.hasInstance r.vd ((s.ctx cid).xr a).toNat = false)
    (hps : o.graph.defaults o.dataBase o.constBase = some ps) (hl : (o.launched ps).isSome = true) :
    deviceLaunchBody a b x dbg s cid =
      .wait { s with lathe := s.lathe ++ [childRequest r cid ((s.ctx cid).xr a).toNat ((s.ctx cid).xr x).toNat dbg o ps] } (Park.of .launch) := by
  have hdie : regionDie ((s.ctx cid).xr x).toNat ≤ 3 := (congrArg (· % 2 ^ 8) (Nat.div_one _)).trans_le hd
  have hparams : s.launchParams r.vd o ((s.ctx cid).xr b).toNat = some ps := by
    rw [hb, State.launchParams, if_pos (by rfl), hps]
  have hsome : (o.launched ps).isNone = false := by rw [Option.isNone_eq_false_iff, hl]
  have hrgn : ¬ (((s.ctx cid).xr x).toNat ≥ 2 ^ 24 ∨
      (regionDie ((s.ctx cid).xr x).toNat > 3 && regionDie ((s.ctx cid).xr x).toNat ≠ 0xFF) = true) := by
    simp only [Bool.and_eq_true, decide_eq_true_eq]
    omega
  unfold deviceLaunchBody
  extract_lets u hd p rgn
  rw [hr]
  dsimp only
  rw [ho]
  dsimp only
  rw [if_neg (by simp [State.secOk, hs]), if_neg (by simpa using hrgn), if_neg (by simp [hun]), hparams]
  dsimp only
  rw [if_neg (by simp [hsome]), if_neg (ne_true_of_eq_false hi)]
  rfl

end Sys2Proof.Machine

open Sys2Proof Sys2Proof.Machine

section
variable {s : State} {cid : Nat} {h : Hdr}

/-- What a word that parks leaves, where its effect touches no context, no core and no byte of DRAM. -/
theorem settle_wait_same {w : State} {k : Park} (hx : w.ctxs = s.ctxs) (hk : w.cores = s.cores) (hm : w.dram = s.dram) :
    let t := settle s cid h (.wait w k)
    (t.ctx cid).park.map (·.kind) = some k.kind ∧ (t.ctx cid).pc = (s.ctx cid).pc + 8 ∧ SameRegs (s.ctx cid) (t.ctx cid) ∧ SameMemories s t cid := by
  intro t
  have hctx : ∀ j, w.ctx j = s.ctx j := fun j => congrArg (tget Ctx.init · j) hx
  have hcore : ∀ j, w.core j = s.core j := fun j => congrArg (tget Core.init · j) hk
  have hself := ctx_settle_wait_self s w cid h k
  rw [hctx] at hself
  refine ⟨?_, ?_, ?_, fun j hj => ?_, (dram_settle_wait ..).trans hm, fun j => ?_⟩
  · rw [hself]
    rfl
  · rw [hself]
  · rw [hself]
    exact ⟨rfl, rfl, rfl, rfl, rfl, rfl, rfl, rfl, rfl, rfl, rfl⟩
  · rw [ctx_settle_wait_other s w h k hj, hctx]
  · rw [core_settle_wait, hcore]
    split
    · exact Core.counted_memories ..
    · exact ⟨rfl, rfl, rfl, rfl⟩
end

/-- LAUNCH, PAUSE, RESUME, REPLACE, ABORT and SNAPSHOT, and the instruction LAUNCH. -/
theorem instanceCommandsComplete : InstanceCommandsComplete := by
  intro s vd port c r h
  refine ⟨fun o ps hl => ?_, fun hr hv h3 h4 h5 => ⟨?_, ?_, ?_, ?_, ?_, ?_, ?_⟩, ?_⟩
  · obtain ⟨q, e, hq⟩ := h.launch hl
    exact ⟨_, q, e, rfl, hq⟩
  · intro h1 h2 hst hc
    obtain ⟨r', hr'⟩ := h.pause_running (restZero_one h1 h2 h3 h4 h5) hr hv hst hc
    exact ⟨_, r', rfl, hr'⟩
  · intro h1 h2 hst
    exact ⟨_, rfl, h.pause_paused (restZero_one h1 h2 h3 h4 h5) hr hv hst⟩
  · intro k h1 h2 hst ha hk hnodes hc hn
    obtain ⟨r', hr'⟩ := h.resume_paused (restZero_one h1 h2 h3 h4 h5) hr hv hst ha hk hnodes hc hn
    exact ⟨_, r', rfl, hr'⟩
  · intro h1 h2 hst
    exact ⟨_, rfl, h.resume_running (restZero_one h1 h2 h3 h4 h5) hr hv hst⟩
  · intro hl hlt hd hc h2 hst
    obtain ⟨q, hq⟩ := h.replace hl (restZero_three h3 h4 h5) (regionOk_of_bounds hlt hd hc) h2 hr hv hst
    exact ⟨_, q, rfl, hq⟩
  · intro h1 h2 hc hn hp hst ha hcmd hres hpar
    have hz := restZero_one h1 h2 h3 h4 h5
    refine ⟨fun hq hf => ⟨_, rfl, h.abort_removes hz hr hv hc hn hp hst ha hcmd hres hpar hq hf⟩, fun hq => ?_⟩
    obtain ⟨r', hr'⟩ := h.abort_stops hz hr hv hc hn hp hst ha hq
    exact ⟨_, r', rfl, hr'⟩
  · intro k hl hst hk hm hlen
    exact ⟨_, rfl, h.snapshot hl (restZero_three h3 h4 h5) hr hv hst hk hm hlen⟩
  · intro cid hd a b x dbg o g hr hop hown u hun ho hs hb hx hdie hi ps hps hl
    have hbody := (certain_of_operator (body := deviceLaunchBody a b x dbg) hop hown).trans (deviceLaunchBody_ok hr hun ho hs hb hx hdie hi hps hl)
    have hrun : exec (.deviceLaunch hd a b x dbg) s = _ := g.runs (certain (deviceLaunchBody a b x dbg))
    rw [hbody] at hrun
    exact ⟨_, _, hrun, lathe_settle_wait .., rfl, rfl, rfl, rfl, rfl, rfl, rfl, settle_wait_same rfl rfl rfl⟩
end

section
namespace Sys2Proof.Machine
variable {s t : State} {vd port : Nat} {e : Pending}

/-! ## COMMAND_DISPATCH and COMMAND_COMPLETION (R72, R75, R77, R85) -/

theorem State.pending_one (hq : ((s.vd vd).port port).queue = [e]) : s.pending (vd, port, e.seq) = some e := by
  simp [State.pending, hq]

theorem State.queue_modPending_one (hq : ((s.vd vd).port port).queue = [e]) (f : Pending → Pending) :
    (((s.modPending (vd, port, e.seq) f).vd vd).port port).queue = [f e] := by
  rw [State.modPending, State.port_modPort_self]
  simp [hq, replaceFirst]

theorem State.dispatch_none (hq : ((s.vd vd).port port).queue = []) : s.dispatch vd port = s := by
  simp [State.dispatch, hq]

/-- The next command of a port, where nothing holds it back. -/
theorem State.dispatch_one (hq : ((s.vd vd).port port).queue = [e]) (hd : e.dispatched = false) (hb : e.begun = false) (hf : e.fence = [])
    (harr : ∀ a ∈ (s.vd vd).hostq, a.isRead = true) : s.dispatch vd port =
    if ((s.runCmd (vd, port, e.seq) e).pending (vd, port, e.seq)).any (·.dispatched) then (s.runCmd (vd, port, e.seq) e).applyAp vd
    else s.runCmd (vd, port, e.seq) e := by
  have hp : (s.vd vd).posted = false := List.any_eq_false.mpr fun a ha => by simp [harr a ha]
  simp only [State.dispatch, hq]
  simp [hd, hb, hp, State.fenced, hf]

theorem mget_mwrite (m : Memory) (a : Nat) (bs : List Byte) (x : Nat) :
    mget (mwrite m a bs) x = if a ≤ x ∧ x < a + bs.length then bs.getD (x - a) 0 else mget m x := by
  induction bs generalizing m a with
  | nil => simp [mwrite]
  | cons b bs ih =>
    rw [mwrite, ih]
    by_cases hx : x = a
    · subst hx
      simp
    · rw [mget_mset_other hx, List.length_cons]
      by_cases hin : a + 1 ≤ x ∧ x < a + 1 + bs.length
      · rw [if_pos hin, if_pos (by omega)]
        obtain ⟨k, hk⟩ : ∃ k, x - a = k + 1 := ⟨x - a - 1, by omega⟩
        rw [hk, List.getD_cons_succ]
        congr 1
        omega
      · rw [if_neg hin, if_neg (by omega)]

theorem length_natLe (n w : Nat) : (natLe n w).length = n := by
  induction n generalizing w with
  | zero => rfl
  | succ n ih => rw [natLe, List.length_cons, ih]

theorem Quiet.time (h : Quiet s t) : t.time = s.time := by rw [h.rest]; rfl

theorem State.raiseMsix_same (s : State) (fn vec : Nat) :
    (s.raiseMsix fn vec).msix = (if s.linkUp then s.msix ++ [(fn, vec)] else s.msix) ∧ (s.raiseMsix fn vec).hostMem = s.hostMem ∧
      (s.raiseMsix fn vec).aer = s.aer ∧ SameRuns s (s.raiseMsix fn vec) ∧ ∀ k, ((s.raiseMsix fn vec).vd k).ports = (s.vd k).ports := by
  rw [State.raiseMsix]
  split
  · exact ⟨rfl, rfl, rfl, ⟨rfl, rfl, rfl⟩, fun _ => rfl⟩
  · refine ⟨rfl, rfl, rfl, ⟨rfl, rfl, rfl⟩, fun k => ?_⟩
    apply State.ports_modVd
    intro _
    rfl

/-- The record of a command's completion (R77). -/
def recordBytes (s : State) (port st f res : Nat) (e : Pending) : List Byte :=
  natLe 8 (e.seq + port * 2 ^ 32 + e.kind * 2 ^ 40 + st * 2 ^ 48 + f * 2 ^ 56) ++ natLe 8 res ++ natLe 8 s.time ++ natLe 8 (e.jidx + 2 ^ 63)

theorem length_recordBytes (s : State) (port st f res : Nat) (e : Pending) : (recordBytes s port st f res e).length = 32 := by
  simp [recordBytes, length_natLe]

/-- A record is written, or its write is refused. -/
def State.putRecord (s : State) (vd a : Nat) (bs : List Byte) (refused : Bool) : State :=
  if refused then { s with aer := s.aer ++ [(vd, a)] } else { s with hostMem := mwrite s.hostMem a bs }

theorem State.putRecord_spec (s : State) (vd a : Nat) (bs : List Byte) (refused : Bool) :
    let t := s.putRecord vd a bs refused
    t.hostMem = (if refused then s.hostMem else mwrite s.hostMem a bs) ∧ t.aer = (if refused then s.aer ++ [(vd, a)] else s.aer) ∧
      t.msix = s.msix ∧ t.linkUp = s.linkUp ∧ SameRuns s t ∧ ∀ k, (t.vd k).ports = (s.vd k).ports := by
  cases refused with
  | true => exact ⟨rfl, rfl, rfl, rfl, ⟨rfl, rfl, rfl⟩, fun _ => rfl⟩
  | false => exact ⟨rfl, rfl, rfl, rfl, ⟨rfl, rfl, rfl⟩, fun _ => rfl⟩

/-- The interrupt of a completion, where one is asked for. -/
def State.notify (s : State) (vd : Nat) (c : Cmd) : State := if c.irq then s.raiseMsix vd c.vec.toNat else s

theorem State.notify_spec (s : State) (vd : Nat) (c : Cmd) :
    let t := s.notify vd c
    t.hostMem = s.hostMem ∧ t.aer = s.aer ∧ t.msix = (if c.irq && s.linkUp then s.msix ++ [(vd, c.vec.toNat)] else s.msix) ∧ SameRuns s t ∧
      ∀ k, (t.vd k).ports = (s.vd k).ports := by
  obtain ⟨hmsix, hmem, haer, hruns, hports⟩ := s.raiseMsix_same vd c.vec.toNat
  rw [State.notify]
  cases c.irq with
  | true => exact ⟨hmem, haer, hmsix, hruns, hports⟩
  | false => exact ⟨rfl, rfl, rfl, ⟨rfl, rfl, rfl⟩, fun _ => rfl⟩

/-- The journal's entry of a command, written again as it completes (R78). -/
def State.journalDone (s : State) (vd port st : Nat) (e : Pending) : State :=
  (s.vWrite vd (jbase vd + 32 * e.jidx) (natLe 8 (cmdWord st e.kind port e.seq + 2 ^ 63))).vWrite vd (jbase vd + 32 * e.jidx + 24) (natLe 8 s.time)

theorem State.complete_eq (s : State) (vd port : Nat) (e : Pending) (st f res : Nat) (refused : Bool) : s.complete vd port e st f res refused =
    ((((s.journalDone vd port st e).putRecord vd (e.cmd.cpl.toNat / 32 * 32) (recordBytes (s.journalDone vd port st e) port st f res e) refused).notify
      vd e.cmd).modPort vd port fun p => { p with queue := p.queue.filter fun x => x.seq != e.seq }) := by
  simp only [State.complete, State.journalDone, State.putRecord, State.notify, recordBytes, cmdWord]

/-- What the completion of the one command of a port does: its record, or an entry of the AER list; its interrupt; and it leaves its port. -/
theorem State.complete_spec (hq : ((s.vd vd).port port).queue = [e]) (st f res : Nat) (refused : Bool) :
    let t := s.complete vd port e st f res refused
    let at' := e.cmd.cpl.toNat / 32 * 32
    ((t.vd vd).port port).queue = [] ∧
      t.hostMem = (if refused then s.hostMem else mwrite s.hostMem at' (recordBytes s port st f res e)) ∧
      t.aer = (if refused then s.aer ++ [(vd, at')] else s.aer) ∧
      t.msix = (if e.cmd.irq && s.linkUp then s.msix ++ [(vd, e.cmd.vec.toNat)] else s.msix) ∧ SameRuns s t := by
  have hj : Quiet s (s.journalDone vd port st e) := (Quiet.vWrite ..).trans (Quiet.vWrite ..)
  have hjp : ∀ k, ((s.journalDone vd port st e).vd k).ports = (s.vd k).ports := fun k => by simp only [State.journalDone, State.vd_vWrite]
  have hrec : recordBytes (s.journalDone vd port st e) port st f res e = recordBytes s port st f res e := by rw [recordBytes, hj.time, recordBytes]
  have hjs : (s.journalDone vd port st e).hostMem = s.hostMem ∧ (s.journalDone vd port st e).aer = s.aer ∧
      (s.journalDone vd port st e).msix = s.msix ∧ (s.journalDone vd port st e).linkUp = s.linkUp := by
    rw [hj.rest]
    exact ⟨rfl, rfl, rfl, rfl⟩
  rw [State.complete_eq, hrec]
  generalize s.journalDone vd port st e = s1 at *
  obtain ⟨hmem1, haer1, hmsix1, hlink1⟩ := hjs
  obtain ⟨hmem2, haer2, hmsix2, hlink2, hruns2, hports2⟩ := s1.putRecord_spec vd (e.cmd.cpl.toNat / 32 * 32) (recordBytes s port st f res e) refused
  generalize s1.putRecord vd (e.cmd.cpl.toNat / 32 * 32) (recordBytes s port st f res e) refused = s2 at *
  obtain ⟨hmem3, haer3, hmsix3, hruns3, hports3⟩ := s2.notify_spec vd e.cmd
  generalize s2.notify vd e.cmd = s3 at *
  have hport : (s3.vd vd).port port = (s.vd vd).port port := congrArg (tget Port.init · port) ((hports3 vd).trans ((hports2 vd).trans (hjp vd)))
  refine ⟨?_, ?_, ?_, ?_, SameRuns.of_quiet hj (SameRuns.trans hruns2 hruns3)⟩
  · rw [State.port_modPort_self, hport, hq]
    simp
  · rw [hmem1] at hmem2
    exact hmem3.trans hmem2
  · rw [haer1] at haer2
    exact haer3.trans haer2
  · rw [hmsix2, hlink2, hmsix1, hlink1] at hmsix3
    exact hmsix3

theorem State.reach_done {key : CmdKey} (hp : s.pending key = some e) (hd : e.done.isSome = true) : s.reach key = s := by
  simp only [State.reach, hp]
  simp [hd]

end Sys2Proof.Machine

open Sys2Proof Sys2Proof.Machine

section
variable {s : State} {vd port : Nat} {e : Pending}

/-- A HOST_FENCE that reaches its dispatch point is due at once; a write of APBASE is in force from then on. -/
theorem commandDispatch_fence (hq : ((s.vd vd).port port).queue = [e]) (harr : ∀ a ∈ (s.vd vd).hostq, a.isRead = true) (hd : e.dispatched = false)
    (hb : e.begun = false) (hf : e.fence = []) (hk : e.kind = 12) (hr : s.cmdRefused vd 12 e.cmd = none) (h0 : e.cmd.p0.toNat < 16)
    (hz : restZero e.cmd 1 = true) (hdone : e.done = none) :
    let t := s.dispatch vd port
    ((t.vd vd).port port).queue = [{ e with dispatched := true, done := some (0, 0, 0) }] ∧
      (t.vd vd).apbase = (s.vd vd).apNext.getD (s.vd vd).apbase ∧ (t.vd vd).apNext = none ∧ SameRuns s t ∧ t.dram = s.dram := by
  have hfin : ((((s.finishCmd (vd, port, e.seq) 0 0 0).vd vd).port port).queue = [{ e with dispatched := true, done := some (0, 0, 0) }]) := by
    rw [State.finishCmd, State.queue_modPending_one hq, if_neg (by rw [hdone]; exact Bool.false_ne_true)]
  have hdisp : s.dispatch vd port = (s.finishCmd (vd, port, e.seq) 0 0 0).applyAp vd := by
    rw [State.dispatch_one hq hd hb hf harr, runCmd_fence hk hr h0 hz, if_pos]
    rw [State.pending_one (e := { e with dispatched := true, done := some (0, 0, 0) }) hfin]
    rfl
  intro t
  have hv : t.vd vd = { (s.finishCmd (vd, port, e.seq) 0 0 0).vd vd with apbase := (s.vd vd).apNext.getD (s.vd vd).apbase, apNext := none } := by
    show (s.dispatch vd port).vd vd = _
    rw [hdisp, State.applyAp, State.vd_modVd_self, State.finishCmd, State.modPending, State.modPort, State.vd_modVd_self]
  refine ⟨?_, ?_, ?_, ?_, ?_⟩
  · rw [hv]
    exact hfin
  · rw [hv]
  · rw [hv]
  · show SameRuns s (s.dispatch vd port)
    rw [hdisp]
    exact ⟨rfl, rfl, rfl⟩
  · show (s.dispatch vd port).dram = s.dram
    rw [hdisp]
    rfl

/-- COMMAND_COMPLETION of a command that is due. -/
theorem commandCompletion_due {seq : BitVec 32} {st f res : Nat} (hq : ((s.vd vd).port port).queue = [e]) (hs : e.seq = seq.toNat)
    (hd : e.done = some (st, f, res)) : exec (.commandCompletion vd port seq) s = .next (s.complete vd port e st f res (s.ev.sub == 1)) := by
  have hp : s.pending (vd, port, seq.toNat) = some e := hs ▸ State.pending_one hq
  show Host.Outcome.next _ = _
  rw [State.reach_done hp (by rw [hd]; rfl), hp]
  simp only [hd]
end
end

section
namespace Sys2Proof.Machine
variable {s t u : State}

/-! ## LATHE_PLACE (R74, R76, R82, R89, R137) -/

theorem dropAt_eq {α : Type} (n : Nat) (l : List α) : dropAt n l = l.take n ++ l.drop (n + 1) := by
  induction l generalizing n with
  | nil => cases n <;> rfl
  | cons a l ih =>
    cases n with
    | zero => rfl
    | succ n => exact congrArg (a :: ·) (ih n)

theorem find?_replaceFirst {α : Type} {p : α → Bool} {f : α → α} {l : List α} {a : α} (h : l.find? p = some a) (hf : p (f a) = true) :
    (replaceFirst p f l).find? p = some (f a) := by
  induction l with
  | nil => simp at h
  | cons b l ih =>
    rw [List.find?_cons] at h
    rw [replaceFirst]
    split at h
    · next hb =>
      obtain rfl := Option.some.inj h
      rw [if_pos hb, List.find?_cons, hf]
    · next hb =>
      rw [if_neg (by simp [hb]), List.find?_cons, hb]
      exact ih h

theorem State.pending_modPending {key : CmdKey} {c : Pending} {f : Pending → Pending} (h : s.pending key = some c) (hf : (f c).seq = c.seq) :
    (s.modPending key f).pending key = some (f c) := by
  have hs : c.seq = key.2.2 := by simpa using List.find?_some h
  rw [State.pending, State.modPending, State.port_modPort_self]
  exact find?_replaceFirst h (by simp [hf, hs])

theorem State.pending_of_ports {key : CmdKey} (h : (t.vd key.1).ports = (s.vd key.1).ports) : t.pending key = s.pending key :=
  congrArg (fun x : Table Port => (tget Port.init x key.2.1).queue.find? fun c : Pending => c.seq == key.2.2) h

theorem State.ports_applyAp (s : State) (v k : Nat) : ((s.applyAp v).vd k).ports = (s.vd k).ports := by
  apply State.ports_modVd
  intro _
  rfl

/-- A LAUNCH that its dispatch point refuses completes with the status of the check that fails. -/
theorem State.serveLaunch_refused {q : LatheReq} {key : CmdKey} {st : Nat} (hc : q.cmd = some key) (hp : q.parent = none)
    (hat : (s.applyAp q.vd).atDispatch q = .error st) : s.serveLaunch q = (s.applyAp q.vd).finishCmd key st 0 0 := by
  simp only [State.serveLaunch, hc, Option.isSome_some, if_true, hat, State.launchRefused, hp, State.launchFail, State.finishOpt]

/-- What stands at the dispatch point of a launch is the request, with its parameters and its leaves. -/
theorem State.atDispatch_ok {q q' : LatheReq} {o : Obj} (h : s.atDispatch q = .ok (q', o)) :
    q' = { q with params := q'.params, leaves := q'.leaves } := by
  rw [State.atDispatch] at h
  split at h
  · split at h
    · simp at h
    · simp only [Except.ok.injEq, Prod.mk.injEq] at h
      rw [← h.1]
  · split at h
    · simp at h
    split at h
    · simp at h
    split at h
    · simp at h
    simp only [Except.ok.injEq, Prod.mk.injEq] at h
    rw [← h.1]

/-- A launch that starts leaves the Lathe, the runs and their next number as the start leaves them. -/
theorem State.serveLaunch_placed {q q' : LatheReq} {o : Obj} {g : Graph} {rg : Region} {a : Att} (hp : q.parent = none)
    (hl : o.launched q'.params = some g)
    (hat : (if q.cmd.isSome then s.applyAp q.vd else s).atDispatch q = .ok (q', o))
    (ht : (if q.cmd.isSome then s.applyAp q.vd else s).tryRegions g (fun _ => g.pins) (fun _ _ => true)
      ((if q.cmd.isSome then s.applyAp q.vd else s).noRegion none q.vd g q.region)
      ((if q.cmd.isSome then s.applyAp q.vd else s).candidates none q.vd g q.region) = .ok (rg, a))
    (hs : ((if q.cmd.isSome then s.applyAp q.vd else s).cachePlace (cacheKey q.vd q.handle) (o.graph.usedParams q'.params) rg a).startRun q' o g rg a = some u) :
    (s.serveLaunch q).lathe = u.lathe ∧ (s.serveLaunch q).nextRun = u.nextRun ∧ (s.serveLaunch q).runs = u.runs := by
  obtain hq := State.atDispatch_ok hat
  have hv : q'.vd = q.vd := by rw [hq]
  have hrg : q'.region = q.region := by rw [hq]
  have hh : q'.handle = q.handle := by rw [hq]
  have hc : q'.cmd = q.cmd := by rw [hq]
  have hpar : q'.parent = none := by rw [hq]; exact hp
  rw [State.serveLaunch]
  simp only [hat, hl, hv, hrg, hh, ht, hs, hc, hpar]
  cases q.cmd with
  | some k => exact ⟨rfl, rfl, rfl⟩
  | none => exact ⟨rfl, rfl, rfl⟩

/-! ### The start of a run (R76, R119, R133) -/

theorem replaceFirst_append {α : Type} (p : α → Bool) (f : α → α) (l m : List α) :
    replaceFirst p f (l ++ m) = if l.any p then replaceFirst p f l ++ m else l ++ replaceFirst p f m := by
  induction l with
  | nil => rfl
  | cons b l ih =>
    cases hb : p b with
    | true => simp [replaceFirst, hb]
    | false =>
      simp only [List.cons_append, replaceFirst, hb, List.any_cons, Bool.false_or, Bool.false_eq_true, if_false]
      rw [ih]
      split <;> rfl

theorem any_replaceFirst {α : Type} {p : α → Bool} {f : α → α} (hf : ∀ a, p (f a) = p a) (l : List α) : (replaceFirst p f l).any p = l.any p := by
  induction l with
  | nil => rfl
  | cons b l ih =>
    cases hb : p b with
    | true => simp [replaceFirst, hb, hf]
    | false => simp [replaceFirst, hb, ih]

/-- A new run stands behind the others. Where another run has its number already, it stays behind one of that number. -/
structure Joined (s : State) (x : Run) (t : State) : Prop where
  lathe : t.lathe = s.lathe
  nextRun : t.nextRun = s.nextRun + 1
  runs : ∃ pre, t.runs = pre ++ [x] ∧ (pre.any fun r => r.id == x.id) = (s.runs.any fun r => r.id == x.id)

namespace Joined
variable {x : Run}

theorem of_same (h : Joined s x t) (hl : u.lathe = t.lathe) (hn : u.nextRun = t.nextRun) (hr : u.runs = t.runs) : Joined s x u where
  lathe := hl.trans h.lathe
  nextRun := hn.trans h.nextRun
  runs := by rw [hr]; exact h.runs

theorem of_quiet (h : Joined s x t) (hq : Quiet t u) : Joined s x u :=
  h.of_same hq.lathe (by rw [hq.rest]) hq.runs

/-- A run whose number is new is the one of its number. -/
theorem run_new (h : Joined s x t) (hd : (s.runs.any fun r => r.id == x.id) = false) : t.run x.id = some x := by
  obtain ⟨pre, hr, hp⟩ := h.runs
  rw [hd] at hp
  rw [State.run, hr, List.find?_append, List.find?_eq_none.mpr fun r hm => by simpa using List.any_eq_false.mp hp r hm]
  simp

/-- A change of the run of a number that was there before does not meet the new run. -/
theorem modRun_old (h : Joined s x t) (hd : (s.runs.any fun r => r.id == x.id) = true) {f : Run → Run} (hf : ∀ r, (f r).id = r.id) :
    Joined s x (t.modRun x.id f) where
  lathe := h.lathe
  nextRun := h.nextRun
  runs := by
    obtain ⟨pre, hr, hp⟩ := h.runs
    refine ⟨replaceFirst (fun r => r.id == x.id) f pre, ?_, ?_⟩
    · rw [State.modRun, hr, replaceFirst_append, if_pos (hp.trans hd)]
    · rw [any_replaceFirst fun r => by rw [hf r], hp]

theorem haltRun_old (h : Joined s x t) (hd : (s.runs.any fun r => r.id == x.id) = true) (code : Nat) : Joined s x (t.haltRun x.id code) := by
  refine h.modRun_old hd fun r => ?_
  split <;> rfl

theorem raiseFree_old (h : Joined s x t) (hd : (s.runs.any fun r => r.id == x.id) = true) (code : Nat) (f : Flt) :
    Joined s x (t.raiseFree x.id code f) := by
  rw [State.raiseFree]
  split
  · exact h.of_same rfl rfl rfl
  · split
    · exact h.of_same rfl rfl rfl
    · refine haltRun_old ?_ hd code
      exact h.of_same rfl rfl rfl

theorem raiseElem_old (h : Joined s x t) (hd : (s.runs.any fun r => r.id == x.id) = true) (code core kind node addr info : Nat) :
    Joined s x (t.raiseElem x.id code core kind node addr info) := by
  rw [State.raiseElem]
  split
  · exact h
  · refine raiseFree_old ?_ hd ..
    exact h.of_same rfl rfl rfl

theorem latchStream_old (h : Joined s x t) (hd : (s.runs.any fun r => r.id == x.id) = true) (node : Nat) : Joined s x (t.latchStream x.id node) := by
  rw [State.latchStream]
  split
  · exact h
  next r hr =>
    have hid : r.id = x.id := State.id_of_run hr
    split
    · exact h.modRun_old hd fun _ => rfl
    · rw [State.raiseEdge, hid]
      refine raiseElem_old ?_ hd ..
      exact h.modRun_old hd fun _ => rfl

/-- The streams that latch are of a run that had the new one's number before. -/
theorem latchStreams (h : Joined s x t) {l : List Nat} (hl : (s.runs.any fun r => r.id == x.id) = false → l = []) :
    Joined s x (l.foldl (fun t n => t.latchStream x.id n) t) := by
  cases hd : s.runs.any fun r => r.id == x.id with
  | false =>
    rw [hl hd]
    exact h
  | true => exact List.foldlRecOn (motive := Joined s x) _ _ h fun u hu n _ => hu.latchStream_old hd n

theorem unshelve (h : Joined s x t) (rid : Nat) (ns : List Nat) : Joined s x (t.unshelve rid ns) := by
  refine List.foldlRecOn (motive := Joined s x) _ _ h fun u hu n _ => ?_
  split
  · exact hu
  · split
    · split
      · exact hu.of_same rfl rfl rfl
      · exact hu
    · exact hu

theorem flushRegion (h : Joined s x t) (r : Run) : Joined s x (t.flushRegion r) :=
  List.foldlRecOn (motive := Joined s x) _ _ h fun _ hu _ _ =>
    List.foldlRecOn (motive := Joined s x) _ _ hu fun _ hv _ _ => hv.of_same rfl rfl rfl

variable (hk : ∀ (n : Nat) (d : NodeD), x.graph.nodes[n]? = some d → d.kind ≠ 2 ∧ d.kind ≠ 3)
include hk

theorem configure (h : Joined s x t) : Joined s x (t.configure x.id) := by
  rw [State.configure]
  split
  · exact h
  next r hr =>
    refine latchStreams ((h.unshelve ..).flushRegion r) fun hd => ?_
    obtain rfl := Option.some.inj (hr.symm.trans (h.run_new hd))
    exact Run.no_streams hk _

theorem configHandler (h : Joined s x t) : Joined s x (t.configHandler x.id) := by
  rw [State.configHandler]
  split
  · exact h
  next r hr =>
    refine latchStreams (h.unshelve ..) fun hd => ?_
    obtain rfl := Option.some.inj (hr.symm.trans (h.run_new hd))
    exact Run.no_streams hk _

end Joined

/-- The new run stands among the runs, whatever cut 0 is saved of the run of its number. -/
theorem Joined.mem_saved {x : Run} (h : Joined s x t) (k : List Cut) :
    ∃ k', { x with saved := k' } ∈ (t.modRun x.id fun r => { r with saved := k }).runs := by
  obtain ⟨pre, hr, -⟩ := h.runs
  rw [State.modRun, hr, replaceFirst_append]
  split
  · exact ⟨x.saved, by simp⟩
  · exact ⟨k, by simp [replaceFirst]⟩

/-- What starts is a new run, with the next number. -/
theorem State.startRun_joins {q : LatheReq} {o : Obj} {g : Graph} {rg : Region} {a : Att} (h : s.startRun q o g rg a = some u)
    (hk : ∀ (n : Nat) (d : NodeD), g.nodes[n]? = some d → d.kind ≠ 2 ∧ d.kind ≠ 3) :
    u.lathe = s.lathe ∧ u.nextRun = s.nextRun + 1 ∧
      ∃ ab areas k, { s.newRun { q with argbase := ab } o g rg a areas with saved := k } ∈ u.runs := by
  unfold State.startRun at h
  extract_lets size q1 at h
  split at h
  · exact absurd h (by simp)
  next areas _ =>
  extract_lets x pool s1 s2 s3 s4 at h
  have h1 : Joined s x s1 := ⟨rfl, rfl, s.runs, rfl, rfl⟩
  have h2 : Joined s x s2 := by
    have hc : Joined s x (s1.clearRegion x) := by
      rw [State.clearRegion_rest]
      exact h1.of_same rfl rfl rfl
    exact hc.of_same rfl rfl rfl
  have h3 : Joined s x s3 := (h2.of_quiet (Quiet.vWrite ..)).of_quiet (Quiet.vWrite ..)
  have h4 : Joined s x s4 := (h3.configure hk).configHandler hk
  clear_value s4
  suffices hu : u.lathe = s4.lathe ∧ u.nextRun = s4.nextRun ∧ ∃ k, { x with saved := k } ∈ u.runs by
    obtain ⟨hl, hn, hm⟩ := hu
    exact ⟨hl.trans h4.lathe, hn.trans h4.nextRun, q1.argbase, areas, hm⟩
  have hplain : ∃ k, { x with saved := k } ∈ s4.runs := by
    obtain ⟨pre, hr, -⟩ := h4.runs
    exact ⟨x.saved, by rw [hr]; simp⟩
  split at h
  · obtain rfl := Option.some.inj h
    exact ⟨rfl, rfl, hplain⟩
  next r hr =>
    have hid : r.id = x.id := State.id_of_run hr
    obtain rfl := Option.some.inj h
    split
    · rw [hid]
      exact ⟨rfl, rfl, h4.mem_saved _⟩
    · exact ⟨rfl, rfl, hplain⟩

end Sys2Proof.Machine
end

section
namespace Sys2Proof.Machine
variable {s : State} {q : LatheReq}

/-! ## LATHE_PLACE (R74, R76, R137, R441) -/

theorem dropAt_zero {α : Type} (l : List α) : dropAt 0 l = l.drop 1 := dropAt_eq 0 l

/-- A request that its Damper has not granted waits. -/
theorem lathePlace_owed (hq : s.lathe[s.ev.idx]? = some q) (ho : q.owed ≠ 0) : exec .lathePlace s = .next s := by
  show Host.Outcome.next _ = _
  simp [hq, ho]

/-- A request whose context no longer waits for it is dropped. -/
theorem lathePlace_gone {cid : Nat} (hq : s.lathe[s.ev.idx]? = some q) (ho : q.owed = 0) (hp : q.parent = some cid) (hu : s.unacked cid = false)
    (hv : ∀ x ∈ s.lathe.take s.ev.idx, x.vd ≠ q.vd) (hk : ∀ p, (s.ctx cid).park = some p → p.kind ≠ .launch) :
    exec .lathePlace s = .next { s with lathe := s.lathe.take s.ev.idx ++ s.lathe.drop (s.ev.idx + 1) } := by
  have hany : ((s.lathe.take s.ev.idx).any fun x => x.vd == q.vd) = false := List.any_eq_false.mpr fun x hx => by simp [hv x hx]
  have hgone : ((s.ctx cid).park.any fun p => p.kind == ParkKind.launch) = false := by
    cases hpk : (s.ctx cid).park with
    | none => rfl
    | some p => simpa using hk p hpk
  show Host.Outcome.next _ = _
  simp only [hq, hp, ho, hu, hany, hgone]
  simp [dropAt_eq]

/-- The first request of the Lathe's queue is served, where it is a host's and granted. -/
theorem lathePlace_first (hq : s.lathe[s.ev.idx]? = some q) (ho : q.owed = 0) (hp : q.parent = none) (hr : q.replace = none) (hi : s.ev.idx = 0) :
    exec .lathePlace s = .next (({ s with lathe := s.lathe.drop 1 } : State).serveLaunch q) := by
  show Host.Outcome.next _ = _
  rw [hi] at hq ⊢
  simp only [hq, hp, ho, hr, List.take_zero, List.any_nil, dropAt_zero]
  simp

/-- A LAUNCH that its dispatch point refuses leaves the Lathe with its status. -/
theorem serveLaunch_refused_spec {key : CmdKey} {c : Pending} {st : Nat} (hp : q.parent = none) (hc : q.cmd = some key) (hk : s.pending key = some c)
    (hd : c.done = none) (hat : (s.applyAp q.vd).atDispatch q = .error st) :
    (s.serveLaunch q).lathe = s.lathe ∧ (∃ c', (s.serveLaunch q).pending key = some c' ∧ c'.done = some (st, 0, 0)) ∧ SameRuns s (s.serveLaunch q) := by
  rw [State.serveLaunch_refused hc hp hat]
  refine ⟨rfl, ?_, rfl, rfl, rfl⟩
  have hpend : (s.applyAp q.vd).pending key = some c := (State.pending_of_ports (s.ports_applyAp ..)).trans hk
  refine ⟨_, State.pending_modPending hpend ?_, ?_⟩
  · split <;> rfl
  · rw [if_neg (by rw [hd]; exact Bool.false_ne_true)]

/-- What a served launch shows: a new run, with the next number, as its request and its placement say (R76, R119, R133). -/
theorem serveLaunch_placed_spec {q' : LatheReq} {o : Obj} {g : Graph} {rg : Region} {a : Att} {u : State} (hp : q.parent = none)
    (hl : o.launched q'.params = some g)
    (hat : (if q.cmd.isSome then s.applyAp q.vd else s).atDispatch q = .ok (q', o))
    (ht : (if q.cmd.isSome then s.applyAp q.vd else s).tryRegions g (fun _ => g.pins) (fun _ _ => true)
      ((if q.cmd.isSome then s.applyAp q.vd else s).noRegion none q.vd g q.region)
      ((if q.cmd.isSome then s.applyAp q.vd else s).candidates none q.vd g q.region) = .ok (rg, a))
    (hs : ((if q.cmd.isSome then s.applyAp q.vd else s).cachePlace (cacheKey q.vd q.handle) (o.graph.usedParams q'.params) rg a).startRun q' o g rg a = some u)
    (hk : ∀ (n : Nat) (d : NodeD), g.nodes[n]? = some d → d.kind ≠ 2 ∧ d.kind ≠ 3) :
    (s.serveLaunch q).lathe = s.lathe ∧ (s.serveLaunch q).nextRun = s.nextRun + 1 ∧
      ∃ r ∈ (s.serveLaunch q).runs, r.id = s.nextRun ∧ r.st = .running ∧ r.phase = 0 ∧ r.graph = g ∧ r.vd = q.vd ∧ r.handle = q.handle ∧
        r.die = rg.die ∧ r.col = rg.col ∧ r.width = rg.width ∧ r.place = a.place ∧ r.params = q'.params ∧ r.leaves = q'.leaves := by
  obtain ⟨hlathe, hnext, hruns⟩ := State.serveLaunch_placed hp hl hat ht hs
  have hq' := State.atDispatch_ok hat
  have h0 : (if q.cmd.isSome then s.applyAp q.vd else s).lathe = s.lathe ∧ (if q.cmd.isSome then s.applyAp q.vd else s).nextRun = s.nextRun := by
    split
    · exact ⟨rfl, rfl⟩
    · exact ⟨rfl, rfl⟩
  obtain ⟨jl, jn, ab, areas, k, hm⟩ := State.startRun_joins hs hk
  rw [hruns]
  refine ⟨hlathe.trans (jl.trans h0.1), hnext.trans (jn.trans (congrArg (· + 1) h0.2)), _, hm, h0.2, rfl, rfl, rfl, ?_, ?_, rfl, rfl, rfl, rfl, rfl, rfl⟩
  · show q'.vd = q.vd
    rw [hq']
  · show q'.handle = q.handle
    rw [hq']

/-! ## The records of completions (R77) -/

/-- A record stands where CPL says, and no other byte of the host's memory is written. -/
theorem mget_record {m m' : Memory} {a port st f res : Nat} {e : Pending} (h : m' = mwrite m a (recordBytes s port st f res e)) :
    (∀ i, i < 32 → mget m' (a + i) = (recordBytes s port st f res e).getD i 0) ∧ ∀ x, x < a ∨ a + 32 ≤ x → mget m' x = mget m x := by
  subst h
  refine ⟨fun i hi => ?_, fun x hx => ?_⟩
  · rw [mget_mwrite, length_recordBytes, if_pos (by omega), Nat.add_sub_cancel_left]
  · rw [mget_mwrite, length_recordBytes, if_neg (by omega)]

/-- A HOST_FENCE in its form is not refused. -/
theorem fence_not_refused {vd : Nat} {c : Cmd} (hm : c.mbz = 0) (hc : c.cpl.toNat % 32 = 0) (hd : c.debug = false)
    (hl : (s.leaf vd 1).getLsbD (c.ver.toNat - 2) = true) : s.cmdRefused vd 12 c = none := by
  simp [State.cmdRefused, hm, hc, hd, hl]

/-- A completion that the host takes writes its record; one that it refuses is an entry of the AER list. -/
theorem complete_record {vd port st f res : Nat} {e : Pending} (hq : ((s.vd vd).port port).queue = [e]) (refused : Bool) :
    let t := s.complete vd port e st f res refused
    let at' := e.cmd.cpl.toNat / 32 * 32
    (refused = false → (∀ i, i < 32 → mget t.hostMem (at' + i) = (recordBytes s port st f res e).getD i 0) ∧
      (∀ a, a < at' ∨ at' + 32 ≤ a → mget t.hostMem a = mget s.hostMem a) ∧ t.aer = s.aer) ∧
    (refused = true → t.hostMem = s.hostMem ∧ t.aer = s.aer ++ [(vd, at')]) := by
  obtain ⟨-, hmem, haer, -, -⟩ := State.complete_spec hq st f res refused
  intro t at'
  change t.hostMem = _ at hmem
  change t.aer = _ at haer
  clear_value t
  refine ⟨fun h => ?_, fun h => ?_⟩
  · rw [h, if_neg Bool.false_ne_true] at hmem haer
    obtain ⟨hin, hout⟩ := mget_record hmem
    exact ⟨hin, hout, haer⟩
  · rw [h, if_pos rfl] at hmem haer
    exact ⟨hmem, haer⟩

theorem commandsAreDispatchedAndCompleted : CommandsAreDispatchedAndCompleted := by
  intro s vd port e
  refine ⟨?_, fun hq => congrArg Host.Outcome.next (State.dispatch_none hq), ?_, ?_⟩
  · intro hq harr hd hb hf hk hm hc hg hl h0 h1 h2 h3 h4 h5 hdone
    exact ⟨_, rfl, commandDispatch_fence hq harr hd hb hf hk (fence_not_refused hm hc hg hl) h0 (restZero_one h1 h2 h3 h4 h5) hdone⟩
  · intro st f res seq hq hs hd _ _ _ _ _
    obtain ⟨hqueue, -, -, hmsix, hruns⟩ := State.complete_spec hq st f res (s.ev.sub == 1)
    obtain ⟨htaken, hrefused⟩ := complete_record (st := st) (f := f) (res := res) hq (s.ev.sub == 1)
    exact ⟨_, commandCompletion_due hq hs hd, hqueue, fun hsub => htaken (beq_eq_false_iff_ne.mpr hsub),
      fun hsub => hrefused (beq_iff_eq.mpr hsub), hmsix, hruns⟩
  · intro q hq
    refine ⟨fun ho => lathePlace_owed hq ho, fun cid ho hp hu hv hk => lathePlace_gone hq ho hp hu hv hk, ?_, ?_⟩
    · intro key c st ho hp hr hi hc hk hd hat
      obtain ⟨hlathe, ⟨c', hpend, hdone⟩, hruns⟩ := serveLaunch_refused_spec (s := { s with lathe := s.lathe.drop 1 }) hp hc hk hd hat
      exact ⟨_, c', lathePlace_first hq ho hp hr hi, hlathe, hpend, hdone, hruns⟩
    · intro q' o g rg a u ho hp hr hi hl ⟨hat, ht, hs⟩ hk
      obtain ⟨hlathe, hnext, r, hm, hrun⟩ := serveLaunch_placed_spec (s := { s with lathe := s.lathe.drop 1 }) hp hl hat ht hs hk
      exact ⟨_, r, lathePlace_first hq ho hp hr hi, hlathe, hnext, hm, hrun⟩

/-- Settles O55, each rule of a command by the equation of its step at an idle port, what the command keeps beside its effect, and the state it ends in. -/
theorem hostCommandsComplete : Obligations.HostCommandsComplete :=
  ⟨queriesAndFencesComplete, qosCommandsComplete, objectAndPageCommandsComplete, instanceCommandsComplete, commandsAreDispatchedAndCompleted⟩

end Sys2Proof.Machine
end

section
namespace Sys2Proof.Machine
variable {s t u : State}

/-! ## Steps that leave the registers of every context alone (R122, R128, R394, R459) -/

theorem sameRegs_refl (c : Ctx) : SameRegs c c := ⟨rfl, rfl, rfl, rfl, rfl, rfl, rfl, rfl, rfl, rfl, rfl⟩

theorem sameRegs_trans {c d e : Ctx} (h : SameRegs c d) (g : SameRegs d e) : SameRegs c e := by
  simp only [SameRegs] at h g ⊢
  simp only [g, h, and_self]

/-- Nothing differs but contexts, and no register, flag or result in flight of theirs. -/
structure KeepsRegs (s t : State) : Prop where
  rest : t = { s with ctxs := t.ctxs }
  regs : ∀ k, SameRegs (s.ctx k) (t.ctx k)

namespace KeepsRegs

theorem refl (s : State) : KeepsRegs s s := ⟨rfl, fun _ => sameRegs_refl _⟩

theorem trans (h : KeepsRegs s t) (g : KeepsRegs t u) : KeepsRegs s u where
  rest := by rw [g.rest, h.rest]
  regs k := sameRegs_trans (h.regs k) (g.regs k)

theorem modCtx {cid : Nat} {f : Ctx → Ctx} (hf : ∀ c, SameRegs c (f c)) : KeepsRegs s (s.modCtx cid f) where
  rest := rfl
  regs k := by
    rw [State.ctx_modCtx]
    split
    · next hk => exact hk ▸ hf _
    · exact sameRegs_refl _

theorem foldl {α : Type} {f : State → α → State} (hf : ∀ s a, KeepsRegs s (f s a)) (l : List α) (s : State) : KeepsRegs s (l.foldl f s) :=
  List.foldlRecOn (motive := KeepsRegs s) _ _ (refl s) fun u hu a _ => hu.trans (hf u a)

theorem wakeIdle (s : State) (core : Nat) : KeepsRegs s (s.wakeIdle core) :=
  foldl (fun _ _ => modCtx (f := fun c => { c with idle := none }) fun c => sameRegs_refl c) _ s

theorem landedAt (s : State) (r : Run) (node : Nat) : KeepsRegs s (s.landedAt r node) := by
  unfold State.landedAt
  split
  · exact wakeIdle s _
  · exact refl s

theorem parkSample (s : State) (cid : Nat) (c : Ctx) : KeepsRegs s (s.parkSample cid c) := by
  unfold State.parkSample
  split
  · exact refl s
  · exact modCtx sameRegs_refl

theorem unpark (s : State) (cid : Nat) : KeepsRegs s (s.unpark cid) := by
  unfold State.unpark
  split
  · exact refl s
  · exact (modCtx (f := fun c => { c with park := none, sw := true }) fun c => sameRegs_refl c).trans (parkSample ..)

variable (h : KeepsRegs s t)
include h
theorem runs : t.runs = s.runs := by rw [h.rest]
theorem cores : t.cores = s.cores := by rw [h.rest]
theorem dram : t.dram = s.dram := by rw [h.rest]
theorem directed : t.directed = s.directed := by rw [h.rest]
theorem run (id : Nat) : t.run id = s.run id := by rw [State.run, h.runs, State.run]
theorem sameElsewhere : SameElsewhere s t := by rw [SameElsewhere, h.rest]
end KeepsRegs

/-! ## What a change of one run leaves of the others -/

theorem find?_replaceFirst_of_disjoint {α : Type} {p q : α → Bool} {f : α → α} (hp : ∀ a, p a = true → q a = false ∧ q (f a) = false) (l : List α) :
    (replaceFirst p f l).find? q = l.find? q := by
  induction l with
  | nil => rfl
  | cons a l ih =>
    rw [replaceFirst]
    split
    · next ha => rw [List.find?_cons, List.find?_cons, (hp a ha).1, (hp a ha).2]
    · rw [List.find?_cons, List.find?_cons, ih]

/-- A change of a run that keeps its number leaves the run of another number as it is. -/
theorem State.run_modRun_other {id k : Nat} {f : Run → Run} (hf : ∀ r, (f r).id = r.id) (hk : id ≠ k) : (s.modRun k f).run id = s.run id :=
  find?_replaceFirst_of_disjoint (fun r hr => by
    have hid : r.id = k := beq_iff_eq.mp hr
    simp [hf, hid, hk.symm]) _

/-- Whichever run is changed, what the change keeps of every run is kept of the run of a number. -/
theorem State.run_modRun_keeps {α : Type} {id k : Nat} {r : Run} {f : Run → Run} (p : Run → α) (hr : s.run id = some r) (hf : ∀ r, (f r).id = r.id)
    (hp : ∀ r, p (f r) = p r) : ∃ x, (s.modRun k f).run id = some x ∧ p x = p r := by
  by_cases hk : id = k
  · exact ⟨f r, hk ▸ State.run_modRun_self hr (hf r), hp r⟩
  · exact ⟨r, (State.run_modRun_other hf hk).trans hr, rfl⟩

/-- A run with a token at the tail of a channel's buffer. -/
def Run.buffered (r : Run) (i : Nat) (t : Token) : Run := r.setChan i { r.chan i with buf := (r.chan i).buf ++ [t] }

theorem Run.buf_buffered (r : Run) (i : Nat) (t : Token) : ((r.buffered i t).chan i).buf = (r.chan i).buf ++ [t] := by
  rw [Run.buffered, Run.chan_setChan_self]

theorem Run.fly_buffered (r : Run) (i : Nat) (t : Token) : ((r.buffered i t).chan i).fly = (r.chan i).fly := by
  rw [Run.buffered, Run.chan_setChan_self]

theorem Run.chan_buffered_other (r : Run) {i j : Nat} (t : Token) (hj : j ≠ i) : (r.buffered i t).chan j = r.chan j :=
  Run.chan_setChan_other _ _ _ hj

/-! ## TOKEN_LAND (R122, R394) -/

/-- With no cut in progress a token that lands joins the buffer. -/
theorem Run.landTok_of_uncut {r : Run} (h : r.cut = none) (i : Nat) (t : Token) : r.landTok i t = r.buffered i t := by
  simp only [Run.landTok, Run.lateOn, h]
  rfl

/-- A run whose channel has these tokens left on their way. -/
def Run.flying (r : Run) (i : Nat) (l : List Fly) : Run := r.setChan i { r.chan i with fly := l }

section
variable {r : Run} {tk : Token} {due : Nat} {rest : List Fly} (hr : s.run s.ev.unit = some r)
  (hf : (r.chan s.ev.idx).fly = { tok := some tk, due := due } :: rest)
include hr hf

/-- A token that is due lands; beside that at most contexts of its core wake. -/
theorem tokenLand_due (hd : due ≤ s.cycleOf r) (hw : r.works = true) (hroll : r.rolling = false) :
    ∃ t, exec .tokenLand s = .next t ∧
      KeepsRegs (s.modRun r.id fun r => (r.flying s.ev.idx rest).landTok s.ev.idx tk) t := by
  have hc : (decide (due ≤ s.cycleOf r) && r.works && !r.rolling) = true := by simp [hd, hw, hroll]
  refine ⟨_, rfl, ?_⟩
  simp only [hr, hf, hc, if_true]
  split
  · split
    · exact .refl _
    · exact .landedAt ..
  · exact .refl _

/-- A token that is not due stays on its way. -/
theorem tokenLand_early (hd : s.cycleOf r < due) : exec .tokenLand s = .next s := by
  show Host.Outcome.next _ = _
  simp [hr, hf, Nat.not_le.mpr hd]
end

/-! ## XSEND_DELIVER (R393, R395) -/

theorem State.departSend_spec {k : Nat} {d : Directed} {q : List Directed} (h : (s.core k).sendq = d :: q) :
    ((s.departSend k).core k).sendq = q ∧ (s.departSend k).directed = s.directed ++ [d] ∧ (∀ j, j ≠ k → (s.departSend k).core j = s.core j) ∧
      (s.departSend k).ctxs = s.ctxs ∧ (s.departSend k).runs = s.runs := by
  have he : s.departSend k = { (s.modCore k fun c => { c with sendq := q }) with directed := s.directed ++ [d] } := by simp only [State.departSend, h]
  have hcore (j : Nat) : (s.departSend k).core j = (s.modCore k fun c => { c with sendq := q }).core j := by rw [he]; rfl
  refine ⟨?_, by rw [he], fun j hj => ?_, by rw [he]; rfl, by rw [he]; rfl⟩
  · rw [hcore, State.core_modCore_self]
  · rw [hcore, State.core_modCore_other _ _ hj]

theorem xsendDeliver_departs (hsub : s.ev.sub = 0) : exec .xsendDeliver s = .next (s.departSend s.ev.unit) := by
  show Host.Outcome.next _ = _
  rw [if_pos hsub]

/-- A token of the kind of the port it names reaches that port of the operator in the context it names. -/
theorem State.directedPort_of_atPort {d : Directed} {r : Run} {n i : Nat} {nd : NodeD} {p : PortD} (hh : d.held = none)
    (g : AtPort s (d.core * 8 + d.ctx) d.port r n nd p) (h2 : p.kind ≠ 2) (hk : p.kind = d.tok.kind) (hi : r.graph.chanOfIn n d.port = some i) :
    s.directedPort d = some (r, n, i) := by
  simp only [State.directedPort, hh, ctxRun_of_atPort g, g.role, Role.isOp, Role.node, g.node, Option.bind_some, g.port, hi]
  simp [← hk, h2]

theorem State.directedPort_of_held {d : Directed} {r : Run} {n i : Nat} (hh : d.held = some (r.id, n)) (hr : s.run r.id = some r)
    (hi : r.graph.chanOfIn n d.port = some i) : s.directedPort d = some (r, n, i) := by
  simp only [State.directedPort, hh, hr, Option.bind_some, hi, Option.map_some]

/-- Bound for an operator's port, or held for one by its destination core, a token passes the guards and reaches that port (R393, R395). -/
theorem State.directedPort_of_bound {d : Directed} {r : Run} {n i : Nat} {nd : NodeD} {p : PortD}
    (h : (d.held = none ∧ s.guardReason d.vd (coreOf d.srcCid) d.core = none ∧ AtPort s (d.core * 8 + d.ctx) d.port r n nd p ∧ p.kind ≠ 2 ∧ p.kind = d.tok.kind) ∨
      (d.held = some (r.id, n) ∧ s.run r.id = some r)) (hi : r.graph.chanOfIn n d.port = some i) :
    s.run r.id = some r ∧ s.guarded d = none ∧ s.directedPort d = some (r, n, i) := by
  obtain ⟨hh, hg, hat, h2, hk⟩ | ⟨hh, hr⟩ := h
  · exact ⟨hat.runs, by simp [State.guarded, hh, hg], State.directedPort_of_atPort hh hat h2 hk hi⟩
  · exact ⟨hr, by simp [State.guarded, hh], State.directedPort_of_held hh hr hi⟩

theorem Directed.toll_eq_none {d : Directed} (h : dieOf (coreOf d.srcCid) = dieOf d.core ∨ d.paid ≠ 0) : d.toll = none := by
  simp only [Directed.toll]
  rw [if_pos (by simpa using h)]

theorem Run.admits_of_goes {r : Run} {n : Nat} (hg : r.goes n = true) (hc : r.cut = none) : r.admits n = true := by
  simp [Run.admits, hg, hc]

/-- The taking of a directed token changes runs alone: the cuts of its sender (R395). -/
theorem State.taken_rest (s : State) (d : Directed) (r : Run) (n : Nat) : s.taken d r n = { s with runs := (s.taken d r n).runs } := by
  fun_cases State.taken <;> rfl

/-- The channels of the run that the token enters are as before. -/
theorem State.run_taken {r : Run} (hr : s.run r.id = some r) (d : Directed) (n : Nat) :
    ∃ x, (s.taken d r n).run r.id = some x ∧ x.chans = r.chans := by
  simp only [State.taken]
  split
  · exact ⟨r, hr, rfl⟩
  · split
    · exact State.run_modRun_keeps Run.chans hr (fun _ => rfl) fun _ => rfl
    · split
      · exact ⟨r, hr, rfl⟩
      · exact State.run_modRun_keeps Run.chans hr (fun _ => rfl) fun _ => rfl

/-- The machine without the directed token that its event names. -/
def State.offFabric (s : State) : State := { s with directed := dropAt s.ev.idx s.directed }

theorem State.directed_offFabric (s : State) : s.offFabric.directed = s.directed.take s.ev.idx ++ s.directed.drop (s.ev.idx + 1) := dropAt_eq ..

/-- The machine after a token of the fabric has entered channel `i` of node `n`. -/
def State.entered (s : State) (d : Directed) (r : Run) (n i : Nat) : State :=
  ((s.offFabric.taken d r n).modRun r.id fun x => x.buffered i d.tok).landedAt r n

section
variable {d : Directed} (hsub : s.ev.sub ≠ 0) (hd : s.directed[s.ev.idx]? = some d)
include hsub hd

/-- A token that has not crossed the fabric waits. -/
theorem xsendDeliver_early (h : s.cycle (coreOf d.srcCid) < d.due) : exec .xsendDeliver s = .next s := by
  show Host.Outcome.next _ = _
  simp [hsub, hd, h]

variable {r : Run} {n i : Nat} (hp : s.directedPort d = some (r, n, i))
include hp

/-- A token that finds no free slot waits. -/
theorem xsendDeliver_full (h : r.freeSlots i = 0) : exec .xsendDeliver s = .next s := by
  show Host.Outcome.next _ = _
  simp [hsub, hd, hp, h]

/-- The oldest token of its sender for a port enters it, once it has come and a slot is free. -/
theorem xsendDeliver_enters (hdue : d.due ≤ s.cycle (coreOf d.srcCid)) (htoll : d.toll = none) (hg : s.guarded d = none)
    (hfirst : ∀ u ∈ s.directed.take s.ev.idx, u.srcCid ≠ d.srcCid ∨ u.core ≠ d.core ∨ u.ctx ≠ d.ctx ∨ u.port ≠ d.port)
    (hroom : 0 < r.freeSlots i) (hadm : r.admits n = true) : exec .xsendDeliver s = .next (s.entered d r n i) := by
  have hany : ((s.directed.take s.ev.idx).any fun u => u.srcCid == d.srcCid && u.core == d.core && u.ctx == d.ctx && u.port == d.port) = false :=
    List.any_eq_false.mpr fun u hu => by
      have := hfirst u hu
      simp only [Bool.and_eq_true, beq_iff_eq]
      tauto
  show Host.Outcome.next _ = _
  rw [if_neg hsub]
  simp only [hd, hany, htoll, hg, hp, hadm, Nat.not_lt.mpr hdue, hroom.ne']
  simp [State.entered, State.offFabric, Run.buffered]
end

theorem State.entered_spec {r : Run} (hr : s.run r.id = some r) (d : Directed) (n i : Nat) :
    (s.entered d r n i).directed = s.directed.take s.ev.idx ++ s.directed.drop (s.ev.idx + 1) ∧ (s.entered d r n i).cores = s.cores ∧
      (∀ k, SameRegs (s.ctx k) ((s.entered d r n i).ctx k)) ∧
      ∃ r', (s.entered d r n i).run r.id = some r' ∧ (r'.chan i).buf = (r.chan i).buf ++ [d.tok] ∧ ∀ j, j ≠ i → r'.chan j = r.chan j := by
  have hrest := State.taken_rest s.offFabric d r n
  have hland := KeepsRegs.landedAt ((s.offFabric.taken d r n).modRun r.id fun x => x.buffered i d.tok) r n
  obtain ⟨x, hx, hchans⟩ := State.run_taken (s := s.offFabric) (r := r) hr d n
  have hid : x.id = r.id := State.id_of_run hx
  have hchan (j : Nat) : x.chan j = r.chan j := congrArg (tget Chan.init · j) hchans
  have hctx (k : Nat) : (s.offFabric.taken d r n).ctx k = s.ctx k := by rw [hrest]; rfl
  have hrun := (hland.run r.id).trans (State.run_modRun_self hx rfl)
  refine ⟨?_, ?_, fun k => ?_, _, hrun, ?_, fun j hj => ?_⟩
  · refine hland.directed.trans ?_
    rw [State.modRun_directed, hrest]
    exact s.directed_offFabric
  · refine hland.cores.trans ?_
    rw [State.modRun_cores, hrest]
    rfl
  · have := hland.regs k
    rwa [State.ctx_modRun, hctx] at this
  · rw [Run.buf_buffered, hchan]
  · rw [Run.chan_buffered_other _ _ hj, hchan]

/-! ## GUARD_DROP and GUARD_REPORT (R115, R116) -/

/-- Under GHALT the instance that sent halts. -/
def State.haltSender (s : State) (run : Option Nat) : State := match run with | some r => s.haltRun r 0x12 | none => s

section
variable (s : State) (run : Option Nat)
theorem State.directed_haltSender : (s.haltSender run).directed = s.directed := by cases run <;> rfl
theorem State.vd_haltSender (k : Nat) : (s.haltSender run).vd k = s.vd k := by cases run <;> rfl
theorem State.die_haltSender (k : Nat) : (s.haltSender run).die k = s.die k := by cases run <;> rfl
end

/-- The token of a window goes on the Flue and nowhere else. -/
theorem State.sendGuard_spec (s : State) (g : GuardWin) (policy : Bool) :
    ∃ f, s.sendGuard g policy = s.onFlue f ∧ f.code = 0x12 ∧ f.vd = g.vd ∧ f.held = none ∧ f.time = g.first := ⟨_, rfl, rfl, rfl, rfl, rfl⟩

/-- The machine after the count of a drop. -/
def State.counted (s : State) (vd : Nat) : State := s.modVd vd fun v => { v with gdrop := v.gdrop + 1 }

/-- What a drop does once it is counted: the open windows of its sender at its guard count it, or one opens, which reports at once under GHALT. -/
theorem State.guardDropTok_cases (s : State) (vd srcCid : Nat) (run : Option Nat) (core ctx port kind : Nat) (word : Word) (why : Nat) :
    (∃ mine : GuardWin → Bool, (∀ w, mine w = true → w.srcCid = srcCid ∧ w.left ≠ 0) ∧
        (∃ w ∈ (s.die (dieOf (coreOf srcCid))).guards, mine w = true) ∧
        s.guardDropTok vd srcCid run core ctx port kind word why = (s.counted vd).modDie (dieOf (coreOf srcCid)) fun x =>
          { x with guards := x.guards.map fun w => if mine w then { w with count := w.count + 1, gdrop := (s.vd vd).gdrop + 1 } else w }) ∨
      ∃ g : GuardWin, g.srcCid = srcCid ∧ g.left = 256 ∧ g.vd = vd ∧ g.gdrop = (s.vd vd).gdrop + 1 ∧ g.sent = (s.vd vd).ghalt ∧
        s.guardDropTok vd srcCid run core ctx port kind word why =
          let t := (s.counted vd).modDie (dieOf (coreOf srcCid)) fun x => { x with guards := x.guards ++ [g] }
          if g.sent then (t.sendGuard g true).haltSender run else t := by
  have hghalt : ((s.counted vd).vd vd).ghalt = (s.vd vd).ghalt := by rw [State.counted, State.vd_modVd_self]
  have hgdrop : ((s.counted vd).vd vd).gdrop = (s.vd vd).gdrop + 1 := by rw [State.counted, State.vd_modVd_self]
  generalize ht : s.guardDropTok vd srcCid run core ctx port kind word why = t
  unfold State.guardDropTok at ht
  extract_lets src s1 det d gd mine g s2 at ht
  have hmine (w : GuardWin) (hw : mine w = true) : w.srcCid = srcCid ∧ w.left ≠ 0 := by
    simp only [mine, Bool.and_eq_true, beq_iff_eq, bne_iff_ne] at hw
    exact ⟨hw.1.2, hw.2⟩
  split at ht
  next hany =>
    obtain ⟨w, hw, hm⟩ := List.any_eq_true.mp hany
    refine .inl ⟨mine, hmine, ⟨w, hw, ?_⟩, ?_⟩
    · exact (Bool.and_eq_true_iff.mp hm).1
    · rw [← ht, ← hgdrop]
      rfl
  next =>
    refine .inr ⟨g, rfl, rfl, rfl, hgdrop, hghalt, ?_⟩
    rw [← ht]
    cases hsent : g.sent with
    | false => rfl
    | true => rfl

/-- Every drop is counted, in GDROP and in an open window of its sender. -/
theorem State.guardDropTok_counts (s : State) (vd srcCid : Nat) (run : Option Nat) (core ctx port kind : Nat) (word : Word) (why : Nat) :
    let t := s.guardDropTok vd srcCid run core ctx port kind word why
    t.directed = s.directed ∧ (t.vd vd).gdrop = (s.vd vd).gdrop + 1 ∧
      ∃ w ∈ (t.die (dieOf (coreOf srcCid))).guards, w.srcCid = srcCid ∧ w.left ≠ 0 ∧ w.gdrop = (s.vd vd).gdrop + 1 := by
  have hgdrop : ((s.counted vd).vd vd).gdrop = (s.vd vd).gdrop + 1 := by rw [State.counted, State.vd_modVd_self]
  dsimp only
  obtain ⟨mine, hmine, ⟨w, hw, hm⟩, ht⟩ | ⟨g, hcid, hleft, -, hgd, -, ht⟩ := s.guardDropTok_cases vd srcCid run core ctx port kind word why
  · rw [ht, State.die_modDie_self]
    obtain ⟨hcid, hleft⟩ := hmine w hm
    exact ⟨rfl, hgdrop, { w with count := w.count + 1, gdrop := (s.vd vd).gdrop + 1 }, List.mem_map.mpr ⟨w, hw, if_pos hm⟩, hcid, hleft, rfl⟩
  · have hg : g ∈ (((s.counted vd).modDie (dieOf (coreOf srcCid)) fun x => { x with guards := x.guards ++ [g] }).die (dieOf (coreOf srcCid))).guards := by
      rw [State.die_modDie_self]
      exact List.mem_append_right _ (List.mem_singleton_self g)
    have hw : g.srcCid = srcCid ∧ g.left ≠ 0 ∧ g.gdrop = (s.vd vd).gdrop + 1 := ⟨hcid, by omega, hgd⟩
    rw [ht]
    dsimp only
    split
    · rw [State.directed_haltSender, State.vd_haltSender, State.die_haltSender]
      exact ⟨rfl, hgdrop, g, hg, hw⟩
    · exact ⟨rfl, hgdrop, g, hg, hw⟩

/-- Without GHALT a drop stops nothing and reports nothing yet. -/
theorem State.guardDropTok_quiet {vd : Nat} (h : (s.vd vd).ghalt = false) (srcCid : Nat) (run : Option Nat) (core ctx port kind : Nat) (word : Word) (why : Nat) :
    let t := s.guardDropTok vd srcCid run core ctx port kind word why
    t.runs = s.runs ∧ t.ctxs = s.ctxs ∧ t.flue = s.flue := by
  dsimp only
  obtain ⟨mine, -, -, ht⟩ | ⟨g, -, -, -, -, hsent, ht⟩ := s.guardDropTok_cases vd srcCid run core ctx port kind word why
  · rw [ht]
    exact ⟨rfl, rfl, rfl⟩
  · rw [ht, hsent, h]
    exact ⟨rfl, rfl, rfl⟩

/-- Under GHALT the first drop of a sender is reported at once, and its instance halts. -/
theorem State.guardDropTok_halts {vd srcCid id : Nat} {r : Run} (h : (s.vd vd).ghalt = true) (hr : s.run id = some r) (hst : r.st = .running)
    (hg : (s.die (dieOf (coreOf srcCid))).guards = []) (core ctx port kind : Nat) (word : Word) (why : Nat) :
    let t := s.guardDropTok vd srcCid (some id) core ctx port kind word why
    ∃ f r', t.flue = s.flue ++ [f] ∧ f.code = 0x12 ∧ f.vd = vd ∧ t.run id = some r' ∧ r'.st = .halted 0x12 := by
  dsimp only
  obtain ⟨mine, -, ⟨w, hw, -⟩, -⟩ | ⟨g, -, -, hvd, -, hsent, ht⟩ := s.guardDropTok_cases vd srcCid (some id) core ctx port kind word why
  · rw [hg] at hw
    exact absurd hw List.not_mem_nil
  · obtain ⟨f, hf, hcode, hfvd, -, -⟩ := State.sendGuard_spec
      ((s.counted vd).modDie (dieOf (coreOf srcCid)) fun x => { x with guards := x.guards ++ [g] }) g true
    have hrun : (((s.counted vd).modDie (dieOf (coreOf srcCid)) fun x => { x with guards := x.guards ++ [g] }).onFlue f).run id = some r := hr
    rw [ht, hsent, h]
    simp only [if_true, hf, State.haltSender]
    exact ⟨f, _, rfl, hcode, hfvd.trans hvd, State.run_haltRun_running hrun hst 0x12, rfl⟩

theorem guardDrop_refused {d : Directed} {why : Nat} (hd : s.directed[s.ev.idx]? = some d) (hh : d.held = none)
    (hg : s.guardReason d.vd (coreOf d.srcCid) d.core = some why) :
    exec .guardDrop s = .next (s.offFabric.guardDropTok d.vd d.srcCid d.srcRun d.core d.ctx d.port d.tok.kind d.first why) := by
  have hguarded : s.guarded d = some why := by
    simp only [State.guarded, hh]
    exact hg
  show Host.Outcome.next _ = _
  simp only [hd, hguarded, State.offFabric]

theorem guardReport_closed {g : GuardWin} (hg : (s.die s.ev.unit).guards[s.ev.idx]? = some g) (hl : g.left = 0) :
    exec .guardReport s = .next ((if g.sent then s else s.sendGuard g (s.vd g.vd).ghalt).modDie s.ev.unit fun x =>
      { x with guards := x.guards.take s.ev.idx ++ x.guards.drop (s.ev.idx + 1) }) := by
  show Host.Outcome.next _ = _
  simp [hg, hl, dropAt_eq]

/-! ## BANK_HANDOFF (R126, R175) -/

section
variable {r : Run} {h : HandD} {cid : Nat} (hp : r.placeOf h.prod = some (.ctx cid)) (hrole : (s.ctx cid).role = .op r.id h.prod)
include hp hrole

/-- A handoff is due with no store and no copy of the producer under way, whichever banks a copy would write. -/
theorem State.handoffDue_of_done (hf : h.fires ≤ (s.ctx cid).fireno.toNat)
    (hcopies : ∀ x ∈ (s.core (coreOf cid)).copies, x.run ≠ r.id ∨ x.node ≠ h.prod)
    (hstores : ∀ e ∈ (s.core (coreOf cid)).sbuf, (s.ctx e.cid).role ≠ .op r.id h.prod) : s.handoffDue r h = true := by
  have hs : ((s.core (coreOf cid)).sbuf.any fun e => (s.ctx e.cid).role == Role.op r.id h.prod) = false :=
    List.any_eq_false.mpr fun e he => by simpa using hstores e he
  have hc (p : Copy → Bool) : ((s.core (coreOf cid)).copies.any fun x => x.run == r.id && x.node == h.prod && x.dsp == 1 && p x) = false :=
    List.any_eq_false.mpr fun x hx => by
      have := hcopies x hx
      simp only [Bool.and_eq_true, beq_iff_eq]
      tauto
  simp only [State.handoffDue, hp, hrole, hs, hc]
  simpa using hf

theorem State.handoffDue_early (hf : (s.ctx cid).fireno.toNat < h.fires) : s.handoffDue r h = false := by
  simp [State.handoffDue, hp, hrole, hf]
end

/-- The consumer owns what it owned, and the banks of the handoff. -/
theorem State.passBanks_spec {r : Run} (hr : s.run r.id = some r) (i : Nat) (h : HandD) :
    (s.passBanks r i h).ctxs = s.ctxs ∧ (s.passBanks r i h).cores = s.cores ∧
      ∃ r', (s.passBanks r i h).run r.id = some r' ∧
        ∀ x, x ∈ r'.bankTok ↔ x ∈ r.bankTok ∨ (x.1 = i ∧ x.2 < 16 ∧ h.banks.getLsbD x.2 = true) := by
  simp only [State.passBanks]
  generalize hbs : ((List.range 16).filter fun b => h.banks.getLsbD b && !r.bankTok.contains (i, b)) = bs
  have hmem (b : Nat) : b ∈ bs ↔ b < 16 ∧ h.banks.getLsbD b = true ∧ (i, b) ∉ r.bankTok := by simp [← hbs]
  have hiff (x : Nat × Nat) : x ∈ r.bankTok ++ bs.map (i, ·) ↔ x ∈ r.bankTok ∨ (x.1 = i ∧ x.2 < 16 ∧ h.banks.getLsbD x.2 = true) := by
    obtain ⟨j, b⟩ := x
    simp only [List.mem_append, List.mem_map, hmem, Prod.mk.injEq]
    constructor
    · rintro (hx | ⟨b, hb, rfl, rfl⟩)
      · exact .inl hx
      · exact .inr ⟨rfl, hb.1, hb.2.1⟩
    · rintro (hx | ⟨rfl, hb, hbit⟩)
      · exact .inl hx
      · exact or_iff_not_imp_left.mpr fun hn => ⟨b, ⟨hb, hbit, hn⟩, rfl, rfl⟩
  split
  · next hnil =>
    refine ⟨rfl, rfl, r, hr, ?_⟩
    simpa [List.isEmpty_iff.mp hnil] using hiff
  · exact ⟨rfl, rfl, _, State.run_modRun_self hr rfl, hiff⟩

theorem bankHandoff_eq {r : Run} {h : HandD} (hr : s.run s.ev.unit = some r) (hh : r.graph.hands[s.ev.idx]? = some h) :
    exec .bankHandoff s = .next (if s.handoffDue r h then s.passBanks r s.ev.idx h else s) := by
  show Host.Outcome.next _ = _
  simp only [hr, hh]

/-! ## STREAM_BARRIER_RELEASE (R128) -/

/-- A key that reads as no default is listed with what it reads as. -/
theorem mem_of_tget_ne {α : Type} {d : α} {l : Table α} {i : Nat} (h : tget d l i ≠ d) : (i, tget d l i) ∈ l := by
  induction l with
  | nil => exact absurd rfl h
  | cons e l ih =>
    obtain ⟨j, v⟩ := e
    rw [tget] at h ⊢
    split at h
    · next hi => rw [if_pos hi, hi]; exact List.mem_cons_self
    · next hi => rw [if_neg hi]; exact List.mem_cons_of_mem _ (ih h)

theorem State.park_parkSample (s : State) (cid k : Nat) (c : Ctx) : ((s.parkSample cid c).ctx k).park = (s.ctx k).park := by
  unfold State.parkSample
  split
  · rfl
  · rw [State.sample, State.ctx_modCtx]
    split
    · next hk => rw [hk]
    · rfl

theorem State.park_unpark (s : State) (cid k : Nat) : ((s.unpark cid).ctx k).park = if k = cid then none else (s.ctx k).park := by
  unfold State.unpark
  split
  · next hp =>
    split
    · next hk => rw [hk, hp]
    · rfl
  · rw [State.park_parkSample, State.ctx_modCtx]
    split <;> rfl

/-- The parks of the contexts listed that meet a test end. -/
def State.unparkAll (p : Nat × Ctx → Bool) (l : List (Nat × Ctx)) (s : State) : State := l.foldl (fun s x => if p x then s.unpark x.1 else s) s

theorem State.unparkAll_keeps (p : Nat × Ctx → Bool) (l : List (Nat × Ctx)) (s : State) : KeepsRegs s (s.unparkAll p l) :=
  KeepsRegs.foldl (fun s x => by
    split
    · exact .unpark s _
    · exact .refl s) l s

theorem State.park_unparkAll {p : Nat × Ctx → Bool} {l : List (Nat × Ctx)} {k : Nat} (h : (s.ctx k).park = none ∨ ∃ x ∈ l, x.1 = k ∧ p x = true) :
    ((s.unparkAll p l).ctx k).park = none := by
  induction l generalizing s with
  | nil => simpa [State.unparkAll] using h
  | cons e l ih =>
    rw [State.unparkAll, List.foldl_cons]
    refine ih ?_
    obtain h | ⟨x, hx, hk, hpx⟩ := h
    · left
      split
      · rw [State.park_unpark, h, ite_self]
      · exact h
    · obtain rfl | hx := List.mem_cons.mp hx
      · left
        rw [if_pos hpx, State.park_unpark, if_pos hk.symm]
      · exact .inr ⟨x, hx, hk, hpx⟩

/-- A context that a barrier edge of a node of a run holds. -/
def heldByEdge (r : Run) (n : Nat) (x : Nat × Ctx) : Bool :=
  x.2.role.run = some r.id && x.2.role.node = n && (x.2.park.any fun p => p.kind == ParkKind.streamBar)

section
variable {r : Run} {e : ChanD} (hr : s.run s.ev.unit = some r) (he : r.graph.chans[s.ev.idx]? = some e)
include hr he

theorem streamBarrierRelease_due (hb : e.barrier = true) (h : s.barred r e.cnode = false) :
    exec .streamBarrierRelease s = .next (s.unparkAll (heldByEdge r e.cnode) s.ctxs) := by
  show Host.Outcome.next _ = _
  simp only [hr, he, hb, h]
  rfl

theorem streamBarrierRelease_early (h : s.barred r e.cnode = true) : exec .streamBarrierRelease s = .next s := by
  show Host.Outcome.next _ = _
  simp [hr, he, h]
end

/-- A context that the edge holds issues again. -/
theorem State.park_released {r : Run} {n k : Nat} {p : Park} (hrun : (s.ctx k).role.run = some r.id) (hn : (s.ctx k).role.node = n)
    (hp : (s.ctx k).park = some p) (hkind : p.kind = .streamBar) : ((s.unparkAll (heldByEdge r n) s.ctxs).ctx k).park = none := by
  have hne : s.ctx k ≠ Ctx.init := fun h => by rw [h] at hp; exact absurd hp (by simp [Ctx.init])
  refine State.park_unparkAll (.inr ⟨_, mem_of_tget_ne hne, rfl, ?_⟩)
  show heldByEdge r n (k, s.ctx k) = true
  simp [heldByEdge, hrun, hn, hp, hkind]

/-! ## Tokens, banks and barrier edges together -/

/-- Settles O52, each event by the equation of its step where it is due and where it is not, and by what its operation keeps. -/
theorem tokensAndBanksPass : Obligations.TokensAndBanksPass := by
  intro s r i
  refine ⟨fun tk due rest hr hi hf => ⟨fun hd hst hroll hcut => ?land, fun hd => ?landEarly⟩, fun d q hsub hq => ?departs,
    fun d n nd p hsub hd hfirst hport hchan => ⟨fun hdue htoll hroom hgoes hcut => ?enters, fun h => ?waits⟩,
    fun d why hd hh hg => ?drop, fun g hg hl => ?report,
    fun h cid hr hh hp hrole => ⟨fun hfires hcopies hstores => ?banks, fun hfires => ?banksEarly⟩,
    fun e hr he hb => ⟨fun h => ?release, fun h => streamBarrierRelease_early hr he h⟩⟩
  case land =>
    subst hi
    have hid : r.id = s.ev.unit := State.id_of_run hr
    obtain ⟨t, ht, hk⟩ := tokenLand_due hr hf hd (by simp [Run.works, hst]) hroll
    have hland := Run.landTok_of_uncut (r := r.flying s.ev.idx rest) hcut s.ev.idx tk
    have hrun := (hk.run r.id).trans (State.run_modRun_self (hid ▸ hr) (by rw [hland]; rfl))
    rw [hland, hid] at hrun
    refine ⟨t, _, ht, hrun, ?_, ?_, fun j hj => ?_, hk.regs, hk.cores, hk.dram⟩
    · rw [Run.fly_buffered, Run.flying, Run.chan_setChan_self]
    · rw [Run.buf_buffered, Run.flying, Run.chan_setChan_self]
    · rw [Run.chan_buffered_other _ _ hj, Run.flying, Run.chan_setChan_other _ _ _ hj]
  case landEarly =>
    subst hi
    exact tokenLand_early hr hf hd
  case departs => exact ⟨_, xsendDeliver_departs hsub, State.departSend_spec hq⟩
  case enters =>
    obtain ⟨hr, hg, hdp⟩ := State.directedPort_of_bound hport hchan
    obtain ⟨hdir, hcores, hregs, r', hrun, hbuf, hother⟩ := State.entered_spec hr d n i
    exact ⟨_, r', xsendDeliver_enters hsub hd hdp hdue (Directed.toll_eq_none htoll) hg hfirst hroom (Run.admits_of_goes hgoes hcut), hdir, hrun, hbuf,
      hother, hregs, hcores⟩
  case waits =>
    obtain ⟨-, -, hdp⟩ := State.directedPort_of_bound hport hchan
    exact h.elim (xsendDeliver_early hsub hd) (xsendDeliver_full hsub hd hdp)
  case drop =>
    obtain ⟨hdir, hgdrop, hwin⟩ := s.offFabric.guardDropTok_counts d.vd d.srcCid d.srcRun d.core d.ctx d.port d.tok.kind d.first why
    refine ⟨_, guardDrop_refused hd hh hg, hdir.trans s.directed_offFabric, hgdrop, hwin,
      fun hq => State.guardDropTok_quiet (s := s.offFabric) hq .., fun id hghalt hsrc hr hst hgs => ?_⟩
    rw [hsrc]
    exact State.guardDropTok_halts (s := s.offFabric) hghalt hr hst hgs ..
  case report =>
    refine ⟨_, guardReport_closed hg hl, ?_⟩
    obtain ⟨f, hf, hcode, hvd, hheld, htime⟩ := s.sendGuard_spec g (s.vd g.vd).ghalt
    cases hsent : g.sent with
    | false =>
      rw [if_neg Bool.false_ne_true, hf, State.die_modDie_self]
      exact ⟨rfl, rfl, rfl, rfl, fun _ => ⟨f, rfl, hcode, hvd, hheld, htime⟩, fun h => absurd h Bool.false_ne_true⟩
    | true =>
      rw [if_pos rfl, State.die_modDie_self]
      exact ⟨rfl, rfl, rfl, rfl, fun h => absurd h.symm Bool.false_ne_true, fun _ => rfl⟩
  case banks =>
    have hid : r.id = s.ev.unit := State.id_of_run hr
    obtain ⟨hctxs, hcores, r', hrun, htok⟩ := State.passBanks_spec (hid ▸ hr) s.ev.idx h
    rw [hid] at hrun
    rw [bankHandoff_eq hr hh, State.handoffDue_of_done hp hrole hfires hcopies hstores, if_pos rfl]
    exact ⟨_, r', rfl, hrun, fun b hb hbit => (htok _).mpr (.inr ⟨rfl, hb, hbit⟩), fun x hx => (htok x).mpr (.inl hx),
      fun x hx => ((htok x).mp hx).imp_right fun ⟨h1, _, h2⟩ => ⟨h1, h2⟩, hctxs, hcores⟩
  case banksEarly =>
    rw [bankHandoff_eq hr hh, State.handoffDue_early hp hrole hfires]
    rfl
  case release =>
    have hk := State.unparkAll_keeps (heldByEdge r e.cnode) s.ctxs s
    exact ⟨_, streamBarrierRelease_due hr he hb h, hk.regs, hk.sameElsewhere, fun k p hrun hn hp hkind => State.park_released hrun hn hp hkind⟩

end Sys2Proof.Machine
end

section
namespace Sys2Proof.Machine
variable {s t : State} {cid : Nat} {h : Hdr}

/-! ## What a word that ends a firing or a segment leaves (R226, R381) -/

section
variable (s0 t : State) (cid : Nat) (h : Hdr)

theorem ctx_settle_fin_self : (settle s0 cid h (.fin t)).ctx cid =
    { t.ctx cid with gap := 1 + h.gap.toNat, sw := (t.ctx cid).role.isOp || (t.ctx cid).sw } := by
  simp only [settle, State.ctx_countIssue, State.ctx_modCtx_self]
  cases ho : (t.ctx cid).role.isOp with
  | true => simp
  | false => simp

theorem ctx_settle_fin_other {k : Nat} (hk : k ≠ cid) : (settle s0 cid h (.fin t)).ctx k = t.ctx k := by
  simp only [settle]
  split
  · rw [State.ctx_modCtx_other _ _ hk, State.ctx_countIssue, State.ctx_modCtx_other _ _ hk]
  · rw [State.ctx_countIssue, State.ctx_modCtx_other _ _ hk]

theorem sameElsewhere_settle_fin : SameElsewhere t (settle s0 cid h (.fin t)) := by
  simp only [settle]
  split <;> rfl
end

theorem SameElsewhere.trans {s t u : State} (h : SameElsewhere s t) (g : SameElsewhere t u) : SameElsewhere s u := by
  rw [SameElsewhere] at h g ⊢
  rw [g, h]

theorem SameElsewhere.flue {s t : State} (h : SameElsewhere s t) : t.flue = s.flue := by rw [h]
theorem SameElsewhere.dram {s t : State} (h : SameElsewhere s t) : t.dram = s.dram := by rw [h]
theorem SameElsewhere.run {s t : State} (h : SameElsewhere s t) (id : Nat) : t.run id = s.run id := by rw [h]; rfl

/-! ## The taking of STEP as a firing ends (R329, R342) -/

/-- Whatever becomes of a fault, its token goes onto the Flue. -/
theorem State.flue_deliver (s : State) (cid : Nat) (f : Flt) :
    ∃ rn hd, (s.deliver cid f).flue = s.flue ++ [{ f with run := rn, held := hd }] := by
  unfold State.deliver
  split
  · exact ⟨f.run, f.held, rfl⟩
  · dsimp only
    split
    · exact ⟨none, none, rfl⟩
    · split
      · exact ⟨_, _, rfl⟩
      · split
        · exact ⟨none, none, rfl⟩
        · exact ⟨none, none, rfl⟩

theorem State.ctx_deliver_other (s : State) {cid k : Nat} (f : Flt) (hk : k ≠ cid) : (s.deliver cid f).ctx k = s.ctx k := by
  unfold State.deliver
  split
  · rfl
  · dsimp only
    split
    · rfl
    · split
      · exact State.ctx_setCtx_other _ _ hk
      · split
        · exact State.ctx_setCtx_other _ _ hk
        · rfl

/-- A fault other than BREAK at most parks and holds the context that raises it. -/
theorem State.ctx_deliver_self (s : State) (cid : Nat) {f : Flt} (hf : f.code ≠ 0x0F) :
    ∃ p hd, (s.deliver cid f).ctx cid = { s.ctx cid with park := p, held := hd } := by
  have hpc : (f.code == 0x0F) = false := beq_false_of_ne hf
  unfold State.deliver
  split
  · exact ⟨_, _, rfl⟩
  · dsimp only
    split
    · exact ⟨_, _, rfl⟩
    · split
      · exact ⟨_, _, State.ctx_setCtx_self ..⟩
      · split
        · refine ⟨some (Park.of .held), (s.ctx cid).held, (State.ctx_setCtx_self ..).trans ?_⟩
          rw [hpc]
          rfl
        · exact ⟨_, _, rfl⟩

theorem leNat_natLe (n w : Nat) : leNat (natLe n w) = w % 256 ^ n := by
  induction n generalizing w with
  | zero => simp [natLe, leNat, Nat.mod_one]
  | succ n ih =>
    have hb : (BitVec.ofNat 8 (w % 256)).toNat = w % 256 := by simp
    rw [natLe, leNat, ih, hb, Nat.pow_succ', Nat.mod_mul]

/-- The first eight bytes of an instruction fault's body are its word (R327). -/
theorem leNat_fltBody_word (word : Word) (pc node : Nat) (held : Bool) (addr info : Nat) (fireno : Word) (cycle : Nat) :
    leNat ((fltBody word pc node held addr info fireno cycle).take 8) = word.toNat := by
  have hw : (fltBody word pc node held addr info fireno cycle).take 8 = natLe 8 word.toNat := rfl
  rw [hw, leNat_natLe]
  exact Nat.mod_eq_of_lt word.isLt

/-- A context for which STEP is raised: LAST names it, and no breakpoint was hit (R344). -/
def Ctx.stepped (c : Ctx) : Ctx := { c with last := 0x10, bphit := 0 }

/-- A certain context takes STEP of word `w`: its token bears the word, and the context is at most parked and held. -/
theorem State.raiseAt_step {s : State} {cid : Nat} (hu : (s.ctx cid).uncertain = false) (w : Word) (pc : Nat) :
    (∃ p hd, (s.raiseAt cid 0x10 w pc 0 0).ctx cid = { (s.ctx cid).stepped with park := p, held := hd }) ∧
      (∀ k, k ≠ cid → (s.raiseAt cid 0x10 w pc 0 0).ctx k = s.ctx k) ∧
      ∃ f, (s.raiseAt cid 0x10 w pc 0 0).flue = s.flue ++ [f] ∧ f.code = 0x10 ∧ leNat (f.body.take 8) = w.toNat := by
  have hdel : ∃ held, s.raiseAt cid 0x10 w pc 0 0 = (s.modCtx cid Ctx.stepped).deliver cid (s.mkFlt cid 0x10 w pc 0 0 held) := by
    have hu' : ((s.modCtx cid Ctx.stepped).ctx cid).uncertain = false := by rw [State.ctx_modCtx_self]; exact hu
    unfold State.raiseAt
    extract_lets held f s1
    have hs1 : s1 = s.modCtx cid Ctx.stepped := rfl
    exact ⟨held, by rw [hs1, hu']; rfl⟩
  obtain ⟨held, heq⟩ := hdel
  have hcode : (s.mkFlt cid 0x10 w pc 0 0 held).code ≠ 0x0F := (by decide : 0x10 ≠ 0x0F)
  rw [heq]
  refine ⟨?_, fun k hk => ?_, ?_⟩
  · obtain ⟨p, hd, hc⟩ := State.ctx_deliver_self (s.modCtx cid Ctx.stepped) cid hcode
    rw [State.ctx_modCtx_self] at hc
    exact ⟨p, hd, hc⟩
  · rw [State.ctx_deliver_other _ _ hk, State.ctx_modCtx_other _ _ hk]
  · obtain ⟨rn, hd, hf⟩ := State.flue_deliver (s.modCtx cid Ctx.stepped) cid (s.mkFlt cid 0x10 w pc 0 0 held)
    exact ⟨_, hf, rfl, leNat_fltBody_word ..⟩

/-! ## The end of a firing (R121, R327, R381) -/

theorem State.ctx_endFiring_other (s : State) {cid k : Nat} (hk : k ≠ cid) : (s.endFiring cid).ctx k = s.ctx k := by
  rw [State.endFiring, State.ctx_modCtx_other _ _ hk, State.sample, State.ctx_modCtx_other _ _ hk]

theorem State.ctx_endFiring_self (s : State) (cid : Nat) : ∃ m, (s.endFiring cid).ctx cid =
    { s.ctx cid with
      fireno := (s.ctx cid).fireno + 1, pc := 0, running := false, fresh := false, moved := [], arrivedBars := [], departedBars := []
      fires := (s.ctx cid).fires + 1, token := none, park := none, mon := m } := by
  rw [State.endFiring, State.ctx_modCtx_self, State.sample, State.ctx_modCtx_self]
  exact ⟨_, rfl⟩

/-- No port is short where every one has moved its count. -/
theorem Ctx.shortPort_eq_none {c : Ctx} {nd : NodeD} (hm : ∀ p ∈ nd.ports, p.count ≤ tget 0 c.moved p.port) : c.shortPort nd = none :=
  List.find?_eq_none.mpr fun p hp => by
    rw [decide_eq_true_iff]
    exact Nat.not_lt.mpr (hm p hp)

section
variable {rid n : Nat} {r : Run} {nd : NodeD} (hrole : (s.ctx cid).role = .op rid n) (hr : s.run rid = some r) (hnd : r.node n = some nd)
include hrole hr

theorem ctxRun_of_op : s.ctxRun cid = some r := by
  simp only [State.ctxRun, hrole, Role.run, Option.bind_some, hr]

include hnd

/-- FIN of an operator raises RATE for its first port that is short of its count. -/
theorem finBody_of_short {p : PortD} (hp : (s.ctx cid).shortPort nd = some p) :
    finBody s cid = .trap 0x08 (p.port + 2 ^ 16 * tget 0 (s.ctx cid).moved p.port) 0 := by
  simp only [finBody, ctxRun_of_op hrole hr, hrole, Role.isOp, Role.node, if_true, Option.bind_some, hnd, hp, Ctx.movedOn]

/-- With every count met, FIN waits while a result is in flight. -/
theorem finBody_of_pending (hm : ∀ p ∈ nd.ports, p.count ≤ tget 0 (s.ctx cid).moved p.port) (hpend : (s.ctx cid).pend ≠ []) :
    finBody s cid = .hold s := by
  have hp : (s.ctx cid).pend.isEmpty = false := by simpa using hpend
  simp only [finBody, ctxRun_of_op hrole hr, hrole, Role.isOp, Role.node, if_true, Option.bind_some, hnd, Ctx.shortPort_eq_none hm, hp]
  rfl

/-- With every count met and every result written, FIN ends the firing. -/
theorem finBody_of_met (hm : ∀ p ∈ nd.ports, p.count ≤ tget 0 (s.ctx cid).moved p.port) (hpend : (s.ctx cid).pend = []) :
    finBody s cid = .fin (s.finish cid) := by
  simp only [finBody, ctxRun_of_op hrole hr, hrole, Role.isOp, Role.node, if_true, Option.bind_some, hnd, Ctx.shortPort_eq_none hm, hpend]
  rfl
end

theorem State.finish_of_op {rid n : Nat} (hrole : (s.ctx cid).role = .op rid n) : s.finish cid =
    if (s.ctx cid).stepEn then (s.endFiring cid).raiseAt cid 0x10 s.ir (s.ctx cid).pc 0 0 else s.endFiring cid := by
  simp only [State.finish, hrole]

/-- What the end of a firing leaves of its context, which STEP may have parked, of the others, and of the Flue. -/
theorem State.finish_op_spec {rid n : Nat} (hrole : (s.ctx cid).role = .op rid n) :
    (∃ m l b p hd, (s.finish cid).ctx cid =
      { s.ctx cid with
        fireno := (s.ctx cid).fireno + 1, pc := 0, running := false, fresh := false, moved := [], arrivedBars := [], departedBars := []
        fires := (s.ctx cid).fires + 1, token := none, mon := m, last := l, bphit := b, park := p, held := hd }) ∧
    (∀ k, k ≠ cid → (s.finish cid).ctx k = s.ctx k) ∧ ((s.ctx cid).stepEn = false → SameElsewhere s (s.finish cid)) ∧
    ((s.ctx cid).stepEn = true → ∃ f, (s.finish cid).flue = s.flue ++ [f] ∧ f.code = 0x10 ∧ leNat (f.body.take 8) = s.ir.toNat) := by
  obtain ⟨m, hend⟩ := s.ctx_endFiring_self cid
  rw [State.finish_of_op hrole]
  cases hstep : (s.ctx cid).stepEn with
  | false =>
    rw [if_neg Bool.false_ne_true]
    exact ⟨⟨m, _, _, _, _, hend⟩, fun k hk => s.ctx_endFiring_other hk, fun _ => rfl, fun h => absurd h Bool.false_ne_true⟩
  | true =>
    have hu : ((s.endFiring cid).ctx cid).uncertain = false := by simp [hend, Ctx.uncertain, hrole, Role.isSeg]
    obtain ⟨⟨p, hd, hc⟩, hother, hflue⟩ := State.raiseAt_step hu s.ir (s.ctx cid).pc
    rw [if_pos rfl]
    refine ⟨⟨m, 0x10, 0, p, hd, ?_⟩, fun k hk => ?_, fun h => absurd h.symm Bool.false_ne_true, fun _ => hflue⟩
    · rw [hc, hend]
      rfl
    · rw [hother k hk, s.ctx_endFiring_other hk]

theorem finEndsAFiring : FinEndsAFiring := by
  intro s cid h rid n r nd hi hrole hr hnd
  have hexec : exec (.fin h) s = .next (settle s cid h (finBody s cid)) := hi.runs finBody
  refine ⟨fun hmet => ⟨fun hpend => ?waits, fun hpend => ?ends⟩, fun p hp => ?rate⟩
  case waits => rw [Takes, hexec, finBody_of_pending hrole hr hnd hmet hpend]
  case ends =>
    rw [finBody_of_met hrole hr hnd hmet hpend] at hexec
    obtain ⟨⟨m, l, b, p, hd, hself⟩, hother, hsame, hflue⟩ := State.finish_op_spec hrole
    have hrest := sameElsewhere_settle_fin s (s.finish cid) cid h
    refine ⟨_, hexec, ?_, fun k hk => (ctx_settle_fin_other _ _ _ _ hk).trans (hother k hk), fun hstep => (hsame hstep).trans hrest, fun hstep => ?_⟩
    · simp only [ctx_settle_fin_self, hself, and_self]
    · obtain ⟨f, hf, hcode, hbody⟩ := hflue hstep
      exact ⟨f, hrest.flue.trans hf, hcode, hbody⟩
  case rate => rw [Traps, Takes, hexec, finBody_of_short hrole hr hnd hp]

/-! ## The end of a segment (R381) -/

/-- The STEP of a segment's FIN reaches the Flue and its run's cut alone. -/
theorem State.segStep_spec {s0 s : State} (cid : Nat) {rid : Nat} {r : Run} (hr : s.run rid = some r) :
    (s0.segStep cid s).ctxs = s.ctxs ∧ (s0.segStep cid s).dram = s.dram ∧ ∃ x, (s0.segStep cid s).run rid = some x ∧ x.segs = r.segs := by
  have hask (x : Run) : (x.askCut .pause).id = x.id ∧ (x.askCut .pause).segs = x.segs := by
    unfold Run.askCut
    split <;> exact ⟨rfl, rfl⟩
  unfold State.segStep
  dsimp only
  split
  · split
    · exact ⟨rfl, rfl, r, hr, rfl⟩
    · exact ⟨rfl, rfl, State.run_modRun_keeps Run.segs hr (fun x => (hask x).1) fun x => (hask x).2⟩
  · exact ⟨rfl, rfl, r, hr, rfl⟩

section
variable {rid n : Nat} {r : Run} (hrole : (s.ctx cid).role = .seg rid n) (hr : s.run rid = some r)
include hrole hr

/-- A segment's end leaves its context as after reset, but for what is left of a GAP, and its pool entry is free. -/
theorem State.endSegment_spec : (s.endSegment cid).ctx cid = { Ctx.init with gap := (s.ctx cid).gap } ∧
    (∀ k, k ≠ cid → (s.endSegment cid).ctx k = s.ctx k) ∧ (s.endSegment cid).dram = s.dram ∧
    ∃ r', (s.endSegment cid).run rid = some r' ∧ r'.segs = r.segs.filter fun g => g.id != (s.ctx cid).segid := by
  have htrim (x : Run) : x.trimPool.id = x.id ∧ x.trimPool.segs = x.segs := by
    unfold Run.trimPool
    split <;> exact ⟨rfl, rfl⟩
  unfold State.endSegment
  simp only [hrole, Role.run]
  have hfree := State.run_modRun_self (f := fun r => { r.alive with segs := r.segs.filter fun g => g.id != (s.ctx cid).segid }.trimPool) hr (htrim _).1
  obtain ⟨hctxs, hdram, x, hx, hsegs⟩ := State.segStep_spec (s0 := s) (s := (s.modRun rid fun r =>
    { r.alive with segs := r.segs.filter fun g => g.id != (s.ctx cid).segid }.trimPool).setCtx cid { Ctx.init with gap := (s.ctx cid).gap }) cid
    ((State.run_setCtx ..).trans hfree)
  have hctx := fun k => congrArg (tget Ctx.init · k) hctxs
  exact ⟨(hctx cid).trans (State.ctx_setCtx_self ..), fun k hk => (hctx k).trans (State.ctx_setCtx_other _ _ hk), hdram, x, hx, hsegs.trans (htrim _).2⟩

end

/-- The context of a segment whose STEP is due as it ends, under STEPCTL.EN (R342). -/
def State.owingStep (s : State) (cid : Nat) : State :=
  if (s.ctx cid).stepEn then s.modCtx cid fun c => { c with stepDue := some (s.ir, c.pc) } else s

theorem State.owingStep_spec (s : State) (cid : Nat) : (∃ d, (s.owingStep cid).ctx cid = { s.ctx cid with stepDue := d }) ∧
    (∀ k, k ≠ cid → (s.owingStep cid).ctx k = s.ctx k) ∧ s.owingStep cid = { s with ctxs := (s.owingStep cid).ctxs } := by
  unfold State.owingStep
  split
  · exact ⟨⟨_, State.ctx_modCtx_self ..⟩, fun k hk => State.ctx_modCtx_other _ _ hk, rfl⟩
  · exact ⟨⟨_, rfl⟩, fun _ _ => rfl, rfl⟩

section
variable {rid n : Nat} (hrole : (s.ctx cid).role = .seg rid n)
include hrole

/-- FIN of a segment waits for no port. -/
theorem finBody_of_seg (hpend : (s.ctx cid).pend = []) : finBody s cid = .fin (s.finish cid) := by
  simp only [finBody, hrole, Role.isOp, hpend]
  rfl

/-- A certain segment whose effects have all taken place ends. -/
theorem State.finish_of_seg (hc : (s.ctx cid).ccond.getLsbD 17 = false) (hu : s.undrained cid = false) :
    s.finish cid = (s.owingStep cid).endSegment cid := by
  obtain ⟨⟨d, hctx⟩, -, hrest⟩ := s.owingStep_spec cid
  have hcore : (s.owingStep cid).cores = s.cores := by rw [hrest]
  have hrun : (s.owingStep cid).run = s.run := by rw [hrest]; rfl
  have hcertain : ((s.owingStep cid).ctx cid).uncertain = false := by
    rw [hctx]
    simp only [Ctx.uncertain, hc, Bool.and_false]
  have hdrained : (s.owingStep cid).undrained cid = false := by
    simp only [State.undrained, State.ownEntries, State.ringTravels, State.ctxRun, State.core, hctx, hcore, hrun] at hu ⊢
    exact hu
  simp only [State.finish, hrole]
  show (if ((s.owingStep cid).ctx cid).uncertain || (s.owingStep cid).undrained cid then _ else _) = _
  rw [hcertain, hdrained]
  rfl
end

theorem finEndsASegment : FinEndsASegment := by
  intro s cid h rid n r hi hrole hr hc hu hpend
  have hexec : exec (.fin h) s = .next (settle s cid h (finBody s cid)) := hi.runs finBody
  rw [finBody_of_seg hrole hpend, State.finish_of_seg hrole hc hu] at hexec
  obtain ⟨⟨d, hctx⟩, hctxs, hrest⟩ := s.owingStep_spec cid
  have hrole' : ((s.owingStep cid).ctx cid).role = .seg rid n := by rw [hctx]; exact hrole
  have hr' : (s.owingStep cid).run rid = some r := by rw [hrest]; exact hr
  obtain ⟨hself, hother, hdram, r', hrun, hsegs⟩ := State.endSegment_spec hrole' hr'
  have hsame := sameElsewhere_settle_fin s ((s.owingStep cid).endSegment cid) cid h
  refine ⟨_, r', hexec, ?_, (hsame.run rid).trans hrun, ?_, fun k hk => ?_, ?_⟩
  · rw [ctx_settle_fin_self, hself]
    rfl
  · rw [hsegs, hctx]
  · rw [ctx_settle_fin_other _ _ _ _ hk, hother k hk, hctxs k hk]
  · rw [hsame.dram, hdram, hrest]

/-- Settles O20: FIN of an operator by `finBody`'s tests and the end of its firing, FIN of a segment by the end of the segment. -/
theorem finEndsFiringsAndSegments : Obligations.FinEndsFiringsAndSegments := ⟨finEndsAFiring, finEndsASegment⟩

end Sys2Proof.Machine
end

section
namespace Sys2Proof.Machine
variable {s : State} {r : Run} {nd : NodeD} {cid n : Nat}

/-! ## What a firing waits for, and the slots that it reserves (R120) -/

theorem Run.inputsReady_iff : r.inputsReady n nd = true ↔
    ∀ p ∈ nd.ports, p.port < 16 → ∀ i, r.graph.chanOfIn n p.port = some i → p.count ≤ (r.chan i).buf.length := by
  simp only [Run.inputsReady, List.all_eq_true]
  refine forall_congr' fun p => forall_congr' fun _ => ?_
  cases r.graph.chanOfIn n p.port with
  | none => simp
  | some i =>
    simp only [Bool.or_eq_true, decide_eq_true_eq, Option.some.injEq, forall_eq']
    omega

theorem Run.outputsFree_iff : r.outputsFree n nd = true ↔
    ∀ p ∈ nd.ports, 16 ≤ p.port → ∀ i, r.graph.chanOfOut n p.port = some i → p.count ≤ r.freeSlots i := by
  simp only [Run.outputsFree, List.all_eq_true]
  refine forall_congr' fun p => forall_congr' fun _ => ?_
  cases r.graph.chanOfOut n p.port with
  | none => simp
  | some i =>
    simp only [Bool.or_eq_true, decide_eq_true_eq, Option.some.injEq, forall_eq']
    omega

/-- The slots of one output port are reserved. -/
def Run.reservePort (n : Nat) (r : Run) (p : PortD) : Run :=
  match r.graph.chanOfOut n p.port with
  | some i => r.setChan i { r.chan i with res := (r.chan i).res + p.count }
  | none => r

/-- A firing reserves the slots of its node's output ports, and of no other port. -/
theorem Run.reserve_eq (r : Run) (n : Nat) (nd : NodeD) :
    r.reserve n nd = (nd.ports.filter fun p => decide (16 ≤ p.port)).foldl (Run.reservePort n) r := by
  rw [List.foldl_filter, Run.reserve]
  congr 1
  funext r p
  by_cases hp : p.port < 16
  · rw [if_pos hp, if_neg (by simpa using hp)]
  · rw [if_neg hp, if_pos (by simpa using hp)]
    rfl

/-- The reservation of a run's slots changes nothing but what its channels have reserved. -/
def ReservesAlone (r x : Run) : Prop :=
  x = { r with chans := x.chans } ∧ ∀ i, (x.chan i).buf = (r.chan i).buf ∧ (x.chan i).fly = (r.chan i).fly

theorem Run.reservePort_alone {r x : Run} (h : ReservesAlone r x) (n : Nat) (p : PortD) : ReservesAlone r (x.reservePort n p) := by
  obtain ⟨hx, hc⟩ := h
  unfold Run.reservePort
  split
  · next i _ =>
    refine ⟨by rw [hx]; rfl, fun j => ?_⟩
    by_cases hj : j = i
    · rw [hj, Run.chan_setChan_self]
      exact hc i
    · rw [Run.chan_setChan_other _ _ _ hj]
      exact hc j
  · exact ⟨hx, hc⟩

theorem Run.reserve_alone (r : Run) (n : Nat) (nd : NodeD) : ReservesAlone r (r.reserve n nd) := by
  rw [Run.reserve_eq]
  exact List.foldlRecOn (motive := ReservesAlone r) _ _ ⟨rfl, fun _ => ⟨rfl, rfl⟩⟩ fun x hx p _ => Run.reservePort_alone hx n p

/-- A node of one output port reserves its count on that port's channel. -/
theorem Run.res_reserve {p : PortD} {i : Nat} (hp : (nd.ports.filter fun p => decide (16 ≤ p.port)) = [p]) (hi : r.graph.chanOfOut n p.port = some i) :
    ((r.reserve n nd).chan i).res = (r.chan i).res + p.count := by
  rw [Run.reserve_eq, hp, List.foldl_cons, List.foldl_nil, Run.reservePort, hi]
  simp

/-! ## FIRING_START and HANDLER_FIRING (R120, R330) -/

/-- The context of an operator whose firing starts. -/
def Ctx.started (elig : Nat) (c : Ctx) : Ctx :=
  { c with running := true, fresh := true, pc := 0, moved := [], eligAt := elig, token := none, sw := false }

theorem State.startFiring_spec (hr : s.run r.id = some r) (n cid : Nat) (nd : NodeD) :
    (s.startFiring r n cid nd).run r.id = some (r.reserve n nd).starts ∧ (∃ e, (s.startFiring r n cid nd).ctx cid = (s.ctx cid).started e) ∧
      (∀ k, k ≠ cid → (s.startFiring r n cid nd).ctx k = s.ctx k) ∧ (s.startFiring r n cid nd).dram = s.dram ∧ (s.startFiring r n cid nd).cores = s.cores := by
  refine ⟨?_, ⟨_, State.ctx_modCtx_self ..⟩, fun k hk => State.ctx_modCtx_other _ _ hk, rfl, rfl⟩
  have hid : (r.reserve n nd).starts.id = r.id := by rw [(r.reserve_alone n nd).1]; rfl
  exact State.run_modRun_self (f := fun r => (r.reserve n nd).starts) hr hid

section
variable (hr : s.run s.ev.unit = some r) (hnd : r.node n = some nd) (hp : r.placeOf n = some (.ctx cid)) (hmay : s.mayFire r n = true)
  (hidle : (s.ctx cid).running = false) (hpark : (s.ctx cid).park = none)
include hr hnd hp hmay hidle hpark

theorem firingStart_eq (hrole : (s.ctx cid).role = .op r.id n) (hn : s.ev.idx = n) (hk : nd.kind = 0) :
    exec .firingStart s = .next (if r.inputsReady n nd && r.outputsFree n nd then s.startFiring r n cid nd else s) := by
  subst hn
  show Host.Outcome.next _ = _
  simp [hr, hnd, hp, hmay, hidle, hpark, hrole, hk]

theorem handlerFiring_eq {f : Flt} {rest : List Flt} (hh : r.graph.handler = some n) (hq : r.hq = f :: rest) :
    exec .handlerFiring s = .next (if r.outputsFree n nd then s.startFiring r n cid nd else s) := by
  show Host.Outcome.next _ = _
  simp [hr, hnd, hp, hmay, hidle, hpark, hh, hq]
end

/-! ## The token that a firing of the handler takes (R167, R330) -/

/-- The machine after the firing of handler `n` in context `cid` has taken token `f`, which leaves `rest` in the queue of run `rid`. -/
def State.withFlt (s : State) (rid cid n : Nat) (f : Flt) (rest : List Flt) : State :=
  let a := (s.ctx cid).fltrec.toNat * 64 % 0x80000
  ((s.modRun rid fun r => { r with hq := rest }).modCore (coreOf cid) fun k =>
    { k with
      mem := mwrite k.mem a f.bytes
      bankSharers := tset [] k.bankSharers (a / 0x8000) (addSharer (tget [] k.bankSharers (a / 0x8000)) n) }).modCtx cid fun c => { c with token := some f }

theorem State.takeFlt_eq {f : Flt} {rest : List Flt} (hr : s.run r.id = some r) (hrole : (s.ctx cid).role = .op r.id n)
    (hh : r.graph.handler = some n) (hq : r.hq = f :: rest) : s.takeFlt cid = s.withFlt r.id cid n f rest := by
  simp only [State.takeFlt, ctxRun_of_op hrole hr, hrole, Role.node, hq, hh, ne_eq, not_true_eq_false, if_false, State.withFlt]

/-- What the taking of a token leaves of the queue, of the handler's context and record, and of every other context and core. -/
theorem State.withFlt_spec {rid : Nat} (hr : s.run rid = some r) (cid n : Nat) (f : Flt) (rest : List Flt) :
    (s.withFlt rid cid n f rest).run rid = some { r with hq := rest } ∧
      (s.withFlt rid cid n f rest).ctx cid = { s.ctx cid with token := some f } ∧
      ((s.withFlt rid cid n f rest).core (coreOf cid)).mem = mwrite (s.core (coreOf cid)).mem ((s.ctx cid).fltrec.toNat * 64 % 0x80000) f.bytes ∧
      (∀ k, k ≠ cid → (s.withFlt rid cid n f rest).ctx k = s.ctx k) ∧
      ∀ k, k ≠ coreOf cid → (s.withFlt rid cid n f rest).core k = s.core k := by
  refine ⟨State.run_modRun_self (f := fun r => { r with hq := rest }) hr rfl, State.ctx_modCtx_self .., ?_,
    fun k hk => State.ctx_modCtx_other _ _ hk, fun k hk => ?_⟩
  · rw [State.withFlt, State.core_modCtx, State.core_modCore_self, State.core_modRun]
  · rw [State.withFlt, State.core_modCtx, State.core_modCore_other _ _ hk, State.core_modRun]

/-- Settles O50: the tests of each event by what they say of the ports, the start by its reservation, and the token by the write to its record. -/
theorem firingsStart : Obligations.FiringsStart := by
  intro s r nd cid n c ready room starts hr hnd hp hrole
  have hid : r.id = s.ev.unit := State.id_of_run hr
  have hstarts : starts (s.startFiring r n cid nd) (r.reserve n nd).starts := by
    obtain ⟨hrun, ⟨e, hctx⟩, hother, hdram, hcores⟩ := State.startFiring_spec (hid ▸ hr) n cid nd
    refine ⟨hid ▸ hrun, (r.reserve_alone n nd).2, fun p i => Run.res_reserve, ?_, hother, hdram, hcores⟩
    simp only [hctx, Ctx.started]
    trivial
  refine ⟨fun hmay hidle hpark => ⟨fun hn hk => ?firing, fun f rest hh hq hroom => ?handler⟩, fun f rest hh hq => ?token⟩
  case firing =>
    rw [firingStart_eq hr hnd hp hmay hidle hpark hrole hn hk]
    refine ⟨fun hready hroom => ?_, fun hready => ?_⟩
    · rw [Run.inputsReady_iff.mpr hready, Run.outputsFree_iff.mpr hroom]
      exact ⟨_, _, rfl, hstarts⟩
    · rw [Bool.eq_false_iff.mpr (mt Run.inputsReady_iff.mp hready)]
      rfl
  case handler =>
    rw [handlerFiring_eq hr hnd hp hmay hidle hpark hh hq, Run.outputsFree_iff.mpr hroom]
    refine ⟨_, _, rfl, hstarts, ?_⟩
    rw [(r.reserve_alone n nd).1]
    rfl
  case token =>
    obtain ⟨hrun, hctx, hmem, hother, hcores⟩ := State.withFlt_spec hr cid n f rest
    rw [State.takeFlt_eq (hid ▸ hr) hrole hh hq, hid]
    refine ⟨⟨_, hrun, rfl⟩, hctx, ⟨fun i hi => ?_, fun x hx => ?_⟩, hother, hcores⟩
    · rw [hmem, mget_mwrite, if_pos ⟨Nat.le_add_right .., Nat.add_lt_add_left hi _⟩, Nat.add_sub_cancel_left]
    · rw [hmem, mget_mwrite, if_neg fun h => hx.elim (Nat.not_lt.mpr h.1) (Nat.not_le.mpr h.2)]

end Sys2Proof.Machine
end

section
namespace Sys2Proof.Machine
variable {s t u : State} {rid : Nat} {r : Run}

/-! ## What a fault of a region does to its run (R328, R334) -/

/-- A fault that no context is held for puts its token on the Flue, whether or not it halts the region. -/
theorem State.flue_raiseFree (s : State) (rid code : Nat) (f : Flt) :
    ∃ rn hd, (s.raiseFree rid code f).flue = s.flue ++ [{ f with run := rn, held := hd }] := by
  unfold State.raiseFree
  split
  · exact ⟨f.run, f.held, rfl⟩
  · split
    · exact ⟨_, _, rfl⟩
    · exact ⟨_, _, rfl⟩

theorem State.raiseFree_of_unhandled (hr : s.run rid = some r) (hh : r.graph.handler = none) (code : Nat) (f : Flt) :
    s.raiseFree rid code f = (s.onFlue { f with run := none, held := none }).haltRun rid code := by
  simp only [State.raiseFree, hr, hh]
  rfl

theorem State.raiseFree_of_handled {f : Flt} (hr : s.run rid = some r) (hh : r.graph.handler.isSome = true) (ho : r.ownFault f = false) (code : Nat) :
    s.raiseFree rid code f = s.onFlue { f with run := some rid, held := none } := by
  simp only [State.raiseFree, hr, hh, ho]
  rfl

/-- A region that works halts with a code, or has halted with it. -/
theorem State.run_haltRun_st {code : Nat} (hr : s.run rid = some r) (hst : r.st = .running ∨ r.st = .halted code) :
    ∃ x, (s.haltRun rid code).run rid = some x ∧ x.st = .halted code := by
  rcases hst with hst | hst
  · exact ⟨_, State.run_haltRun_running hr hst code, rfl⟩
  · refine ⟨_, State.run_modRun_self hr ?_, ?_⟩
    · simp only [hst]
    · simp only [hst]

/-- After a fault that a running region raises with a code, it runs or has halted with that code. -/
theorem State.run_raiseFree_st (hr : s.run rid = some r) (hst : r.st = .running) (code : Nat) (f : Flt) :
    ∃ x, (s.raiseFree rid code f).run rid = some x ∧ (x.st = .running ∨ x.st = .halted code) := by
  simp only [State.raiseFree, hr]
  split
  · exact ⟨r, hr, .inl hst⟩
  · obtain ⟨x, hx, hxst⟩ := State.run_haltRun_st (s := s.onFlue { f with run := none, held := none }) (code := code) hr (.inl hst)
    exact ⟨x, hx, .inr hxst⟩

/-! ## SELECTION (R125) -/

/-- A run whose selector has taken its token from channel `i`, which leaves `rest` there, and that holds the phase `v`. -/
def Run.selecting (r : Run) (i : Nat) (rest : List Token) (v : Nat) : Run := { r.setChan i { r.chan i with buf := rest } with heldSel := some v }

/-- What SELECTION makes of a token that its run can take: a phase held, or CHAN and a halt where no phase has that number. -/
theorem selection_eq {i : Nat} {tk : Token} {q : List Token} (hr : s.run s.ev.unit = some r) (hroll : r.rolling = false) (hst : r.st = .running)
    (hi : r.graph.chans.findIdx? (·.selector) = some i) (hbuf : (r.chan i).buf = tk :: q) (hheld : r.heldSel = none)
    (hsel : r.phaseD.selected = true) (hcut : r.cut = none) : exec .selection s = .next (
      let v := (tokVal tk).toNat % 256
      let t := s.modRun r.id fun r => r.selecting i q v
      if v ≠ 0xFF && r.graph.phases.length ≤ v then
        (({ t with free := t.free + 3 }).raiseRegion r 0x09 (t.elemBody 0xFFFF 0 0 (t.cycle (coreId r.die r.col 0)))).haltRun r.id 0x09
      else t) := by
  have hsel' : r.graph.selector = some i := hi
  have hgo : (!r.isRunning || r.rolling || r.heldSel.isSome || !r.phaseD.selected || (r.cut.isSome && (r.chan i).marked)) = false := by
    simp [Run.isRunning, hst, hroll, hheld, hsel, hcut]
  show Host.Outcome.next _ = _
  simp only [hr, hsel', hbuf, hgo]
  rfl

/-- A region's fault puts one token of its virtual device on the Flue, and a region that runs goes on or halts with the code. -/
theorem State.raiseRegion_spec {y : Run} (hy : s.run r.id = some y) (hst : y.st = .running) (code : Nat) (body : List Byte) :
    (∃ f, (s.raiseRegion r code body).flue = s.flue ++ [f] ∧ f.code = code ∧ f.vd = r.vd) ∧
      ∃ x, (s.raiseRegion r code body).run r.id = some x ∧ (x.st = .running ∨ x.st = .halted code) := by
  refine ⟨?_, State.run_raiseFree_st (s := { s with free := s.free + 1 }) hy hst code _⟩
  obtain ⟨rn, hd, hf⟩ := State.flue_raiseFree { s with free := s.free + 1 } r.id code
    { code := code, vd := r.vd, inst := r.id % 2 ^ 16, src := Config.freeNat s.free % 2 ^ 16, isOver := false, time := s.time
      body := body, run := none, held := none }
  exact ⟨_, hf, rfl, rfl⟩

section
variable {i : Nat} {tk : Token} {q : List Token} (hr : s.run s.ev.unit = some r) (hroll : r.rolling = false) (hst : r.st = .running)
  (hi : r.graph.chans.findIdx? (·.selector) = some i) (hbuf : (r.chan i).buf = tk :: q) (hheld : r.heldSel = none)
  (hsel : r.phaseD.selected = true) (hcut : r.cut = none)
include hr hroll hst hi hbuf hheld hsel hcut

theorem selection_of_phase (hv : (tokVal tk).toNat % 256 = 0xFF ∨ (tokVal tk).toNat % 256 < r.graph.phases.length) :
    exec .selection s = .next (s.modRun s.ev.unit fun r => r.selecting i q ((tokVal tk).toNat % 256)) := by
  have hok : (decide ((tokVal tk).toNat % 256 ≠ 0xFF) && decide (r.graph.phases.length ≤ (tokVal tk).toNat % 256)) = false := by
    simp only [Bool.and_eq_false_iff, decide_eq_false_iff_not]
    omega
  rw [← State.id_of_run hr, selection_eq hr hroll hst hi hbuf hheld hsel hcut]
  simp only [hok]
  rfl

theorem selection_of_no_phase (hff : (tokVal tk).toNat % 256 ≠ 0xFF) (hv : r.graph.phases.length ≤ (tokVal tk).toNat % 256) :
    ∃ t r' f, exec .selection s = .next t ∧ t.run s.ev.unit = some r' ∧ r'.st = .halted 0x09 ∧ t.flue = s.flue ++ [f] ∧ f.code = 0x09 ∧ f.vd = r.vd := by
  have hbad : (decide ((tokVal tk).toNat % 256 ≠ 0xFF) && decide (r.graph.phases.length ≤ (tokVal tk).toNat % 256)) = true := by
    simp [hff, hv]
  rw [selection_eq hr hroll hst hi hbuf hheld hsel hcut]
  simp only [hbad, if_true]
  generalize ht : (s.modRun r.id fun r => r.selecting i q ((tokVal tk).toNat % 256)) = t
  have hid : r.id = s.ev.unit := State.id_of_run hr
  have hrun : t.run r.id = some (r.selecting i q ((tokVal tk).toNat % 256)) := ht ▸ State.run_modRun_self (hid ▸ hr) rfl
  obtain ⟨⟨f, hflue, hcode, hvd⟩, x, hx, hxst⟩ := State.raiseRegion_spec (s := { t with free := t.free + 3 }) (r := r) hrun hst 0x09
    (t.elemBody 0xFFFF 0 0 (t.cycle (coreId r.die r.col 0)))
  obtain ⟨y, hy, hyst⟩ := State.run_haltRun_st hx hxst
  exact ⟨_, y, f, rfl, hid ▸ hy, hyst, hflue.trans (ht ▸ rfl), hcode, hvd⟩
end

/-! ## PHASE_DRAIN (R123-R125, R309) -/

/-- The phase that follows the present one, once it is known: the selection held, or the one declared (R125). -/
def Run.nextPhase (r : Run) : Option Nat := if r.phaseD.selected then r.heldSel else some r.phaseD.next

theorem phaseDrain_undrained (hr : s.run s.ev.unit = some r) (hd : s.drained r = false) : exec .phaseDrain s = .next s := by
  show Host.Outcome.next _ = _
  simp only [hr, hd]
  split
  · rfl
  · simp

section
variable {v : Nat} (hr : s.run s.ev.unit = some r) (hroll : r.rolling = false) (hst : r.st = .running) (hd : s.drained r = true)
  (ho : s.occupied r = true) (hv : r.nextPhase = some v)
include hr hroll hst hd ho hv

/-- A drained phase gives way to the next. -/
theorem phaseDrain_next (hff : v ≠ 0xFF) : exec .phaseDrain s = .next (((s.passDue s.ev.unit).shelve s.ev.unit r.phaseNodes).modRun s.ev.unit
    fun r => { r.alive with st := .config 64, phase := v, heldSel := none }) := by
  have hgo : (!r.isRunning || r.rolling || !s.drained r || !s.occupied r) = false := by simp [Run.isRunning, hst, hroll, hd, ho]
  rw [Run.nextPhase] at hv
  rw [← State.id_of_run hr]
  show Host.Outcome.next _ = _
  simp only [hr, hv, hgo, hff]
  rfl

/-- A drained run without a next phase ends once nothing of it is under way. -/
theorem phaseDrain_end (hff : v = 0xFF) (hq : s.quiet r = true) (hc : ∀ e ∈ s.cores, ∀ x ∈ e.2.copies, x.run ≠ r.id) :
    exec .phaseDrain s = .next (s.endRun s.ev.unit 0 0 3) := by
  have hgo : (!r.isRunning || r.rolling || !s.drained r || !s.occupied r) = false := by simp [Run.isRunning, hst, hroll, hd, ho]
  have hcopies : (s.cores.any fun e => e.2.copies.any fun c => c.run == r.id) = false :=
    List.any_eq_false.mpr fun e he => by
      rw [Bool.not_eq_true]
      exact List.any_eq_false.mpr fun x hx => by simpa using hc e he x hx
  rw [Run.nextPhase] at hv
  rw [← State.id_of_run hr]
  show Host.Outcome.next _ = _
  simp only [hr, hv, hgo, hff, hq, hcopies]
  rfl
end

/-- A handoff changes nothing but the ownership tokens of its run. -/
theorem State.passBanks_rest {x : Run} (hx : x.id = rid) (hr : s.run rid = some r) (i : Nat) (h : HandD) :
    s.passBanks x i h = { s with runs := (s.passBanks x i h).runs } ∧ ∃ b, (s.passBanks x i h).run rid = some { r with bankTok := b } := by
  subst hx
  simp only [State.passBanks]
  split
  · exact ⟨rfl, r.bankTok, hr⟩
  · exact ⟨rfl, _, State.run_modRun_self hr rfl⟩

/-- The handoffs that are due pass, and change nothing but the ownership tokens of the run. -/
theorem State.passDue_spec (hr : s.run rid = some r) :
    s.passDue rid = { s with runs := (s.passDue rid).runs } ∧ ∃ b, (s.passDue rid).run rid = some { r with bankTok := b } := by
  unfold State.passDue
  simp only [hr]
  refine List.foldlRecOn (motive := fun t : State => t = { s with runs := t.runs } ∧ ∃ b, t.run rid = some { r with bankTok := b }) _ _
    ⟨rfl, r.bankTok, hr⟩ fun t ht e _ => ?_
  obtain ⟨hrest, b, hb⟩ := ht
  obtain ⟨h, i⟩ := e
  simp only [hb]
  split
  · obtain ⟨hrest', b', hb'⟩ := State.passBanks_rest (State.id_of_run hb) hb i h
    exact ⟨by rw [hrest', hrest], b', hb'⟩
  · exact ⟨hrest, b, hb⟩

/-- The operators that leave their contexts change nothing but contexts and what the run keeps for them. -/
theorem State.shelve_spec (hr : s.run rid = some r) (ns : List Nat) :
    s.shelve rid ns = { s with ctxs := (s.shelve rid ns).ctxs, runs := (s.shelve rid ns).runs } ∧
      ∃ c, (s.shelve rid ns).run rid = some { r with ctxStore := c } := by
  unfold State.shelve
  refine List.foldlRecOn (motive := fun t : State => t = { s with ctxs := t.ctxs, runs := t.runs } ∧ ∃ c, t.run rid = some { r with ctxStore := c }) _ _
    ⟨rfl, r.ctxStore, hr⟩ fun t ht n _ => ?_
  obtain ⟨hrest, c, hc⟩ := ht
  split
  · split
    · next cid _ _ =>
      have hrun := State.run_modRun_self (f := fun r => { r with ctxStore := tput r.ctxStore n (t.ctx cid) }) hc rfl
      exact ⟨by rw [hrest]; rfl, _, hrun⟩
    · exact ⟨hrest, c, hc⟩
  · exact ⟨hrest, c, hc⟩

/-! ### The end of a run (R76, R123) -/

/-- A run is gone from its cells, its virtual device's pages, the TLBs and the runs. -/
def State.vacated (s : State) (r : Run) : State :=
  let t := ((if r.holdsCells then s.clearRegion r else s).modVd r.vd fun v => { v with pages := v.pages.filter fun p => !(r.holdsPage p) }).dropTlbs r.holdsPage
  { t with runs := t.runs.filter fun x => x.id != r.id }

theorem State.vacated_spec (s : State) (r : Run) :
    (s.vacated r).runs = s.runs.filter (fun x => x.id != r.id) ∧ ∀ k, ((s.vacated r).vd k).ports = (s.vd k).ports := by
  have hclear : ∀ u : State, (if r.holdsCells then u.clearRegion r else u).runs = u.runs ∧ (if r.holdsCells then u.clearRegion r else u).vds = u.vds := by
    intro u
    split
    · rw [State.clearRegion_rest]
      exact ⟨rfl, rfl⟩
    · exact ⟨rfl, rfl⟩
  unfold State.vacated
  rw [State.dropTlbs_rest]
  have hports (u : State) (k : Nat) :
      ((u.modVd r.vd fun v => { v with pages := v.pages.filter fun p => !(r.holdsPage p) }).vd k).ports = (u.vd k).ports := by
    apply State.ports_modVd
    intro _
    rfl
  exact ⟨congrArg (List.filter _) (hclear s).1, fun k => (hports _ k).trans (congrArg (fun v => (tget Vd.init v k).ports) (hclear s).2)⟩

theorem State.endRun_eq (hr : s.run rid = some r) (status fault pause : Nat) : s.endRun rid status fault pause =
    (let t := (((s.endPauses r pause).vacated r).finishOpt r.cmd status fault r.id).finishOpt r.resumeCmd (if status = 0 then 0 else 11) 0 0
     match r.parent with
     | none => t
     | some src => t.launchReport r.vd status fault r.id (srcOfCid src) r.handle t.time r.id) := by
  have hid : r.id = rid := State.id_of_run hr
  subst hid
  simp only [State.endRun, hr]
  rfl

theorem Quiet.finishOpt (key : Option CmdKey) (st f res : Nat) : Quiet s (s.finishOpt key st f res) := by
  cases key with
  | none => exact Quiet.refl s
  | some k => exact Quiet.finishCmd ..

theorem Quiet.endPauses (s : State) (r : Run) (st : Nat) : Quiet s (s.endPauses r st) :=
  List.foldlRecOn (motive := Quiet s) _ _ (Quiet.refl s) fun _ h _ _ => h.trans (Quiet.finishCmd ..)

theorem State.runs_raiseMsix (s : State) (fn vec : Nat) : (s.raiseMsix fn vec).runs = s.runs := by
  unfold State.raiseMsix
  split <;> rfl

theorem State.runs_fqPut (s : State) (vd : Nat) (bs : List Byte) : (s.fqPut vd bs).runs = s.runs := by
  have hw := (Quiet.vWrite (s := s) vd (fqBase vd + 64 * (s.vd vd).fqidx) bs).runs
  unfold State.fqPut
  dsimp only
  split
  · rw [State.runs_raiseMsix]
    exact hw
  · exact hw

/-- A run that ends is no more. -/
theorem State.run_endRun (hr : s.run rid = some r) (status fault pause : Nat) : (s.endRun rid status fault pause).run rid = none := by
  rw [State.endRun_eq hr]
  have hid : r.id = rid := State.id_of_run hr
  generalize ht : (((s.endPauses r pause).vacated r).finishOpt r.cmd status fault r.id).finishOpt r.resumeCmd (if status = 0 then 0 else 11) 0 0 = t
  have hruns : t.runs = s.runs.filter fun x => x.id != rid := by
    rw [← ht, (Quiet.finishOpt ..).runs, (Quiet.finishOpt ..).runs, (State.vacated_spec ..).1, (Quiet.endPauses ..).runs, hid]
  dsimp only
  split
  · exact State.run_none_of_filter hruns
  · exact State.run_none_of_filter ((State.runs_fqPut ..).trans hruns)

/-- The command that started a run is done as it ends. -/
theorem State.pending_endRun {k : CmdKey} {c : Pending} (hr : s.run rid = some r) (hk : r.cmd = some k) (hp : r.pauseCmds = []) (hres : r.resumeCmd = none)
    (hpar : r.parent = none) (hc : s.pending k = some c) (hd : c.done = none) (status fault pause : Nat) :
    ∃ c', (s.endRun rid status fault pause).pending k = some c' ∧ c'.done = some (status, fault, r.id) := by
  have hpend : (s.vacated r).pending k = some c := (State.pending_of_ports ((s.vacated_spec r).2 k.1)).trans hc
  rw [State.endRun_eq hr]
  simp only [hk, hres, hpar, State.endPauses, hp, List.foldl_nil, State.finishOpt]
  refine ⟨_, State.pending_modPending hpend ?_, ?_⟩
  · split <;> rfl
  · simp [hd]

/-! ## PHASE_CONFIG (R125) -/

theorem SameElsewhere.refl (s : State) : SameElsewhere s s := rfl

theorem SameElsewhere.foldl {α : Type} {f : State → α → State} (hf : ∀ s a, SameElsewhere s (f s a)) (l : List α) (s : State) :
    SameElsewhere s (l.foldl f s) :=
  List.foldlRecOn (motive := SameElsewhere s) _ _ (SameElsewhere.refl s) fun u hu a _ => hu.trans (hf u a)

theorem State.unshelve_same (s : State) (rid : Nat) (ns : List Nat) : SameElsewhere s (s.unshelve rid ns) :=
  SameElsewhere.foldl (fun s n => by
    split
    · rfl
    · split
      · split
        · rfl
        · rfl
      · rfl) ns s

theorem State.flushRegion_same (s : State) (r : Run) : SameElsewhere s (s.flushRegion r) :=
  SameElsewhere.foldl (fun s core => SameElsewhere.foldl (f := fun s k => s.modCore k fun c => { c with l1 := [] }) (fun _ _ => rfl) (s.l1Members core) s) _ s

theorem State.stopSources_same (s : State) (r : Run) : SameElsewhere s (s.stopSources r) :=
  SameElsewhere.foldl (fun s e => by
    split
    · rfl
    · rfl) _ s

/-- A run whose phase's configuration takes effect now: it runs, and its streams begin afresh. -/
def State.configured (s : State) (r : Run) : Run :=
  (r.phaseNodes.filter fun n => (r.node n).any fun d => d.kind == 2 || d.kind == 3).foldl Run.rewind { r.alive with st := .running, confAt := s.cycleOf r }

section
variable (hr : s.run rid = some r) (hk : ∀ n d, r.node n = some d → d.kind ≠ 2 ∧ d.kind ≠ 3)
include hk

theorem State.configured_plain (s : State) : s.configured r = { r.alive with st := .running, confAt := s.cycleOf r } := by
  rw [State.configured, Run.no_streams hk]
  rfl

include hr

/-- The configuration of a phase without streams reaches its contexts and its cores alone. -/
theorem State.configure_same : SameElsewhere s (s.configure rid) := by
  simp only [State.configure, hr]
  rw [Run.no_streams hk]
  exact (s.unshelve_same ..).trans (State.flushRegion_same ..)

theorem State.finishConfig_same : SameElsewhere (s.modRun rid s.configured) (s.finishConfig rid) := by
  have hplain := State.configured_plain hk s
  have hrun : (s.modRun rid s.configured).run rid = some (s.configured r) := State.run_modRun_self hr (by rw [hplain]; rfl)
  have hconf : SameElsewhere (s.modRun rid s.configured) ((s.modRun rid s.configured).configure rid) :=
    State.configure_same hrun (by rw [hplain]; exact hk)
  show SameElsewhere _ (match ((s.modRun rid s.configured).configure rid).run rid with
    | some r => if r.cut.isSome then ((s.modRun rid s.configured).configure rid).stopSources r else (s.modRun rid s.configured).configure rid
    | none => (s.modRun rid s.configured).configure rid)
  split
  · split
    · exact hconf.trans (State.stopSources_same ..)
    · exact hconf
  · exact hconf
end

theorem phaseConfig_early {left : Nat} (hr : s.run s.ev.unit = some r) (hst : r.st = .config left) (hl : 63 < left) : exec .phaseConfig s = .next s := by
  show Host.Outcome.next _ = _
  simp [hr, hst, hl]

theorem phaseConfig_due {left : Nat} (hr : s.run s.ev.unit = some r) (hroll : r.rolling = false) (hst : r.st = .config left) (hl : left ≤ 63) :
    exec .phaseConfig s = .next (s.finishConfig s.ev.unit) := by
  rw [← State.id_of_run hr]
  show Host.Outcome.next _ = _
  simp [hr, hst, hroll, Nat.not_lt.mpr hl]

/-! ## DEADLOCK (R125, R128, R152, R200) -/

/-- Something of a region has stood for 2^20 cycles. -/
def State.stuck (s : State) (r : Run) : Bool := decide (2 ^ 20 ≤ r.fullFor) || decide (2 ^ 20 ≤ r.heldFor) || s.barredLong r

/-- The region is not at the end of its watchdog. -/
def State.watched (s : State) (r : Run) : Bool := !r.isRunning || decide (r.watchdog < 2 ^ 20) || !s.stuck r || r.rolling

/-- A run whose watchdog counts afresh. -/
def Run.rewatched (r : Run) : Run := { r with watchdog := 0 }

/-- What the token of DEADLOCK tells of the region (R327). -/
def State.deadlockBody (s : State) (r : Run) : List Byte :=
  natLe 8 ((r.fullChans.length + r.fullStores) % 2 ^ 16) ++ natLe 4 (match r.fullChans with | i :: _ => i | [] => Config.freeNat (s.free + 1)) ++
    natLe 4 0 ++ natLe 8 r.watchdog ++ natLe 8 0 ++ natLe 8 0 ++ natLe 8 (s.cycle (coreId r.die r.col 0))

/-- DEADLOCK halts a region without a handler, and leaves another as it is. -/
theorem State.run_raiseRegion_deadlock {y : Run} (hy : s.run r.id = some y) (hst : y.st = .running) (body : List Byte) :
    ∃ x, (s.raiseRegion r 0x17 body).run r.id = some x ∧ x.watchdog = y.watchdog ∧
      (y.graph.handler = none → x.st = .halted 0x17) ∧ (y.graph.handler.isSome = true → x.st = .running) := by
  unfold State.raiseRegion
  cases hh : y.graph.handler with
  | none =>
    rw [State.raiseFree_of_unhandled (s := { s with free := s.free + 1 }) hy hh]
    exact ⟨y.stopped 0x17, State.run_haltRun_running (r := y) (by exact hy) hst 0x17, rfl, fun _ => rfl, fun h => absurd h Bool.false_ne_true⟩
  | some n =>
    rw [State.raiseFree_of_handled (s := { s with free := s.free + 1 }) hy (hh ▸ rfl) (by rfl)]
    exact ⟨y, hy, rfl, fun h => absurd h (Option.some_ne_none n), fun _ => hst⟩

section
variable (hr : s.run s.ev.unit = some r)
include hr

theorem deadlock_stays (h : s.watched r = true) : exec .deadlock s = .next s := by
  rw [State.watched, State.stuck] at h
  show Host.Outcome.next _ = _
  simp only [hr, h, if_true]

theorem deadlock_raises (h : s.watched r = false) : exec .deadlock s = .next (
    let t := (s.modRun r.id Run.rewatched).raiseRegion r 0x17 (s.deadlockBody r)
    { t with free := t.free + 1 }) := by
  rw [State.watched, State.stuck] at h
  show Host.Outcome.next _ = _
  simp only [hr, h]
  rfl

theorem deadlock_early (hw : r.watchdog < 2 ^ 20) : exec .deadlock s = .next s :=
  deadlock_stays hr (by rw [State.watched, decide_eq_true hw, Bool.or_true, Bool.true_or, Bool.true_or])

/-- Nothing has stood long enough: no channel, no selection, and no context at a stream barrier. -/
theorem deadlock_unstuck (hf : r.fullFor < 2 ^ 20) (hh : r.heldFor < 2 ^ 20) (hb : ∀ e ∈ s.ctxs, ∀ p, e.2.park = some p → p.kind ≠ .streamBar) :
    exec .deadlock s = .next s := by
  have hbar : s.barredLong r = false := List.any_eq_false.mpr fun e he => by
    cases hp : e.2.park with
    | none => simp
    | some p => simp [hb e he p hp]
  have hstuck : s.stuck r = false := by
    rw [State.stuck, decide_eq_false (Nat.not_le.mpr hf), decide_eq_false (Nat.not_le.mpr hh), hbar]
    rfl
  exact deadlock_stays hr (by rw [State.watched, hstuck, Bool.not_false, Bool.or_true, Bool.true_or])

/-- A region that has stood for 2^20 cycles raises DEADLOCK, which a handler takes and by which a region without one halts. -/
theorem deadlock_due (hst : r.st = .running) (hroll : r.rolling = false) (hw : 2 ^ 20 ≤ r.watchdog) (hstuck : s.stuck r = true) :
    ∃ t r' f, exec .deadlock s = .next t ∧ t.run s.ev.unit = some r' ∧ r'.watchdog = 0 ∧ t.flue = s.flue ++ [f] ∧ f.code = 0x17 ∧ f.vd = r.vd ∧
      (r.graph.handler = none → r'.st = .halted 0x17) ∧ (r.graph.handler.isSome = true → r'.st = .running) := by
  have hwatched : s.watched r = false := by
    rw [State.watched, hstuck, hroll, decide_eq_false (Nat.not_lt.mpr hw), Run.isRunning, hst]
    rfl
  have hexec := deadlock_raises hr hwatched
  have hid : r.id = s.ev.unit := State.id_of_run hr
  have hrun : (s.modRun r.id Run.rewatched).run r.id = some r.rewatched := State.run_modRun_self (hid ▸ hr) rfl
  obtain ⟨⟨f, hflue, hcode, hvd⟩, -⟩ := State.raiseRegion_spec hrun hst 0x17 (s.deadlockBody r)
  obtain ⟨x, hx, hxw, hnone, hsome⟩ := State.run_raiseRegion_deadlock hrun hst (s.deadlockBody r)
  exact ⟨_, x, f, hexec, hid ▸ hx, hxw, hflue, hcode, hvd, hnone, hsome⟩
end

/-- A context that has waited long at a stream barrier is among those that the watchdog looks at. -/
theorem State.barredLong_of_ctx {cid : Nat} {p : Park} (hrun : (s.ctx cid).role.run = some r.id) (hp : (s.ctx cid).park = some p)
    (hk : p.kind = .streamBar) (hb : p.b + 2 ^ 20 ≤ s.cycle (coreOf cid)) : s.barredLong r = true := by
  have hne : s.ctx cid ≠ Ctx.init := fun h => by rw [h] at hp; exact absurd hp (by simp [Ctx.init])
  refine List.any_eq_true.mpr ⟨(cid, s.ctx cid), mem_of_tget_ne hne, ?_⟩
  simp only [hrun, hp, hk, beq_self_eq_true, Option.any_some, Bool.true_and, decide_eq_true hb]

theorem phasesFollowOneAnother : PhasesFollowOneAnother := by
  intro s r hr hroll ph waitsLong
  refine ⟨fun i tk q hst hi hbuf hheld hsel hcut => ⟨fun hv => ?selects, fun hff hv => selection_of_no_phase hr hroll hst hi hbuf hheld hsel hcut hff hv⟩,
    fun v hst hd ho hv => ⟨fun hff => ?drains, fun hff hq hc => ?ends⟩, fun hd => phaseDrain_undrained hr hd,
    fun left hst => ⟨fun hl => phaseConfig_early hr hst hl, fun hl hk => ?configures⟩,
    fun hst => ⟨fun hw => deadlock_early hr hw, fun hf hh hb => deadlock_unstuck hr hf hh hb, fun hw h => ?deadlock⟩⟩
  case selects =>
    have hrun := State.run_modRun_self (f := fun r => r.selecting i q ((tokVal tk).toNat % 256)) hr rfl
    refine ⟨_, _, selection_of_phase hr hroll hst hi hbuf hheld hsel hcut hv, hrun, rfl, ?_, rfl, rfl⟩
    exact congrArg Chan.buf (Run.chan_setChan_self ..)
  case drains =>
    obtain ⟨hpass, b, hb⟩ := State.passDue_spec hr
    obtain ⟨hshelve, c, hc⟩ := State.shelve_spec hb r.phaseNodes
    have hrun := State.run_modRun_self (f := fun r => { r.alive with st := .config 64, phase := v, heldSel := none }) hc rfl
    refine ⟨_, _, phaseDrain_next hr hroll hst hd ho hv hff, hrun, rfl, rfl, rfl, ?_, ?_⟩
    · rw [State.modRun_dram, hshelve, hpass]
    · rw [State.modRun_vds, hshelve, hpass]
  case ends =>
    exact ⟨_, phaseDrain_end hr hroll hst hd ho hv hff hq hc, State.run_endRun hr ..,
      fun k c hk hp hres hpar hpend hdone => State.pending_endRun hr hk hp hres hpar hpend hdone 0 0 3⟩
  case configures =>
    have hsame := State.finishConfig_same hr hk
    have hplain := State.configured_plain hk s
    have hrun : (s.modRun s.ev.unit s.configured).run s.ev.unit = some (s.configured r) := State.run_modRun_self hr (by rw [hplain]; rfl)
    rw [hplain] at hrun
    exact ⟨_, _, phaseConfig_due hr hroll hst hl, (hsame.run _).trans hrun, rfl, rfl, rfl, rfl, hsame.dram, hsame.flue⟩
  case deadlock =>
    refine deadlock_due hr hst hroll hw ?_
    rw [State.stuck]
    obtain hf | hh | ⟨cid, p, hrole, hp, hk, hb⟩ := h
    · rw [decide_eq_true hf, Bool.true_or, Bool.true_or]
    · rw [decide_eq_true hh, Bool.or_true, Bool.true_or]
    · rw [State.barredLong_of_ctx hrole hp hk hb, Bool.or_true]

end Sys2Proof.Machine
end

section
namespace Sys2Proof.Machine
variable {s t u : State} {rid : Nat} {r : Run}

/-! ## MARKER_INJECT and PERIODIC_CUT (R165, R176, R184) -/

/-- An uncertain segment that goes back to the pending set leaves of its run all but its segments, its rings and those that wait for the pool. -/
theorem State.abortSeg_spec (hr : s.run rid = some r) (cid : Nat) :
    (s.abortSeg rid cid).dram = s.dram ∧ ∃ a b c, (s.abortSeg rid cid).run rid = some { r with segs := a, poolParked := b, rings := c } := by
  refine ⟨rfl, ?_⟩
  generalize hs1 : (s.modCore (coreOf cid) fun k =>
    { k with sbuf := k.sbuf.filter fun e => e.cid != cid, wq := k.wq.filter fun q => q.cid != cid || q.kind.isWrite }) = s1
  have hr1 : s1.run rid = some r := hs1 ▸ hr
  unfold State.abortSeg
  dsimp only
  rw [hs1, State.run_setCtx, State.run_modRun_self hr1 rfl]
  exact ⟨_, _, _, rfl⟩

theorem State.abortSegs_spec (hr : s.run rid = some r) (l : List Nat) :
    (l.foldl (fun s c => s.abortSeg rid c) s).dram = s.dram ∧
      ∃ a b c, (l.foldl (fun s c => s.abortSeg rid c) s).run rid = some { r with segs := a, poolParked := b, rings := c } := by
  refine List.foldlRecOn (motive := fun t : State => t.dram = s.dram ∧ ∃ a b c, t.run rid = some { r with segs := a, poolParked := b, rings := c }) _ _
    ⟨rfl, r.segs, r.poolParked, r.rings, hr⟩ fun t ht cid _ => ?_
  obtain ⟨hdram, a, b, c, hrun⟩ := ht
  obtain ⟨hdram', a', b', c', hrun'⟩ := State.abortSeg_spec hrun cid
  exact ⟨hdram'.trans hdram, a', b', c', hrun'⟩

/-- A cut of a kind has begun in a run: its markers are on no channel yet, and the tokens of the channels are as before. -/
structure Begun (r : Run) (k : CutKind) (x : Run) (c : Cut) : Prop where
  cut : x.cut = some c
  kind : c.kind = k
  no : c.no = r.cutNo + 1
  phase : c.phase = r.phase
  cutNo : x.cutNo = r.cutNo + 1
  cutReq : x.cutReq = none
  savedElems : x.savedElems = []
  saved : x.saved = r.saved
  chans : ∀ i, (x.chan i).buf = (r.chan i).buf ∧ (x.chan i).fly = (r.chan i).fly

/-- A run in which its next cut begins. -/
def Run.beginCut (k : CutKind) (r : Run) : Run :=
  { r with cut := some (r.newCut (r.cutNo + 1) k), cutNo := r.cutNo + 1, cutReq := none, savedElems := [], chans := r.chans.map fun e => (e.1, { e.2 with marked := false : Chan }) }

theorem Run.begun_beginCut (r : Run) (k : CutKind) : Begun r k (r.beginCut k) (r.newCut (r.cutNo + 1) k) :=
  ⟨rfl, rfl, rfl, rfl, rfl, rfl, rfl, rfl, fun i =>
    ⟨tget_map Chan.init (fun x : Chan => { x with marked := false }) (fun x : Chan => x.buf) (fun _ => rfl) r.chans i,
      tget_map Chan.init (fun x : Chan => { x with marked := false }) (fun x : Chan => x.fly) (fun _ => rfl) r.chans i⟩⟩

/-- The machine as the markers of a run's next cut are injected, its uncertain segments `l` having gone back. -/
def State.cutBegun (s : State) (r : Run) (k : CutKind) (l : List Nat) : State :=
  ((l.foldl (fun s c => s.abortSeg r.id c) s).modRun r.id (Run.beginCut k)).stopSources r

theorem State.injectMarks_eq (hr : s.run r.id = some r) (k : CutKind) :
    s.injectMarks r.id k = s.cutBegun r k ((s.segCtxs r).filter fun c => (s.ctx c).uncertain) := by
  simp only [State.injectMarks, hr]
  rfl

theorem State.injectMarks_spec (hr : s.run r.id = some r) (k : CutKind) :
    ∃ x c, (s.injectMarks r.id k).run r.id = some x ∧ Begun r k x c ∧ (s.injectMarks r.id k).dram = s.dram := by
  rw [State.injectMarks_eq hr, State.cutBegun]
  obtain ⟨hdram, a, b, d, hrun⟩ := State.abortSegs_spec hr ((s.segCtxs r).filter fun c => (s.ctx c).uncertain)
  have hsame := State.stopSources_same ((((s.segCtxs r).filter fun c => (s.ctx c).uncertain).foldl (fun s c => s.abortSeg r.id c) s).modRun r.id
    (Run.beginCut k)) r
  have hb := Run.begun_beginCut { r with segs := a, poolParked := b, rings := d } k
  exact ⟨_, _, (hsame.run r.id).trans (State.run_modRun_self hrun rfl),
    ⟨hb.cut, hb.kind, hb.no, hb.phase, hb.cutNo, hb.cutReq, hb.savedElems, hb.saved, hb.chans⟩, hsame.dram.trans hdram⟩

section
variable (hr : s.run s.ev.unit = some r)
include hr

theorem markerInject_none (hq : r.cutReq = none) : exec .markerInject s = .next s := by
  show Host.Outcome.next _ = _
  simp only [hr, hq]

/-- The cut that a run waits for begins. -/
theorem markerInject_begins {k : CutKind} (hroll : r.rolling = false) (hst : r.st = .running) (hq : r.cutReq = some k) (hc : r.cut = none) :
    exec .markerInject s = .next (s.injectMarks r.id k) := by
  show Host.Outcome.next _ = _
  simp [hr, hq, hc, hroll, Run.isRunning, hst]

theorem periodicCut_early (h : r.graph.marker = 0 ∨ s.now < r.cutDue) : exec .periodicCut s = .next s := by
  show Host.Outcome.next _ = _
  have hb : (decide (r.graph.marker = 0) || decide (s.now < r.cutDue)) = true := by simpa using h
  simp only [hr, hb, Bool.true_or, if_true]

variable (hroll : r.rolling = false) (hst : r.st = .running) (hm : r.graph.marker ≠ 0) (hdue : r.cutDue ≤ s.now)
include hroll hst hm hdue

/-- A periodic cut that is due begins where no cut is under way or waited for. -/
theorem periodicCut_begins (hc : r.cut = none) (hq : r.cutReq = none) : exec .periodicCut s = .next (s.injectMarks r.id .periodic) := by
  show Host.Outcome.next _ = _
  simp [hr, hm, Nat.not_lt.mpr hdue, hroll, Run.isRunning, hst, hc, hq]

/-- A periodic cut that falls due during a cut is skipped. -/
theorem periodicCut_skips (hc : r.cut.isSome = true) :
    exec .periodicCut s = .next (s.modRun s.ev.unit fun r => { r with cutDue := s.now + r.graph.marker * 1800 }) := by
  rw [← State.id_of_run hr]
  show Host.Outcome.next _ = _
  simp [hr, hm, Nat.not_lt.mpr hdue, hroll, Run.isRunning, hst, hc]
end

/-! ## MARKER_ARRIVAL (R166, R174) -/

/-- A run whose channel `i` the marker of a cut has reached, which leaves these on its route. -/
def Run.marking (i : Nat) (rest : List Fly) (r : Run) : Run := r.setChan i { r.chan i with fly := rest, marked := true }

section
variable {due : Nat} {rest : List Fly} (hr : s.run s.ev.unit = some r) (hf : (r.chan s.ev.idx).fly = { tok := none, due := due } :: rest)
include hr hf

theorem markerArrival_early (h : s.cycleOf r < due) : exec .markerArrival s = .next s := by
  show Host.Outcome.next _ = _
  simp [hr, hf, h]

/-- A marker that is due marks its channel, and at most stops the fires of its consumer's core. -/
theorem markerArrival_due (hroll : r.rolling = false) (hc : r.cut.isSome = true) (h : due ≤ s.cycleOf r) :
    ∃ t, exec .markerArrival s = .next t ∧ t = { s.modRun s.ev.unit (Run.marking s.ev.idx rest) with cores := t.cores } := by
  rw [← State.id_of_run hr]
  have hgo : (decide (due > s.cycleOf r) || r.cut.isNone || r.rolling) = false := by
    obtain ⟨c, hc'⟩ := Option.isSome_iff_exists.mp hc
    simp [Nat.not_lt.mpr h, hc', hroll]
  refine ⟨_, rfl, ?_⟩
  simp only [hr, hf, hgo]
  simp only [Bool.false_eq_true, if_false]
  split
  · rfl
  · rfl
end

end Sys2Proof.Machine
end

section
namespace Sys2Proof.Machine
variable {s t u : State} {rid : Nat} {r x : Run}

/-! ## The markers of a saved element (R166, R167) -/

/-- The consumer of a channel stands in cells, or is the selector, so that a marker goes there. -/
def Run.marks (r : Run) (i : Nat) : Bool := match r.graph.chans[i]? with | some d => d.selector || r.active d.cnode | none => false

/-- A marker follows what has been sent on a channel. -/
def Run.sendMark (now : Nat) (r : Run) (i : Nat) : Run :=
  if r.marks i then r.setChan i { r.chan i with fly := (r.chan i).fly ++ [{ tok := none, due := now + 1 }] } else r

theorem Run.sendMarks_eq (r : Run) (n now : Nat) : r.sendMarks n now = (r.outputs n).foldl (Run.sendMark now) r := rfl

theorem Run.sendMark_rest (r : Run) (now i : Nat) : r.sendMark now i = { r with chans := (r.sendMark now i).chans } := by
  unfold Run.sendMark
  split <;> rfl

theorem Run.fly_sendMark (r : Run) (now i j : Nat) : ((r.sendMark now j).chan i).fly =
    if i = j ∧ r.marks i = true then (r.chan i).fly ++ [{ tok := none, due := now + 1 }] else (r.chan i).fly := by
  unfold Run.sendMark
  by_cases hi : i = j
  · subst hi
    cases hm : r.marks i with
    | true => rw [if_pos rfl, Run.chan_setChan_self, if_pos ⟨rfl, rfl⟩]
    | false => simp
  · have hne : ¬(i = j ∧ r.marks i = true) := fun h => hi h.1
    rw [if_neg hne]
    split
    · rw [Run.chan_setChan_other _ _ _ hi]
    · rfl

/-- On each channel of a list without repetition one marker follows what has been sent. -/
theorem Run.fly_foldl_sendMark {l : List Nat} (hl : l.Nodup) (r : Run) (now i : Nat) : ((l.foldl (Run.sendMark now) r).chan i).fly =
    if i ∈ l ∧ r.marks i = true then (r.chan i).fly ++ [{ tok := none, due := now + 1 }] else (r.chan i).fly := by
  induction l generalizing r with
  | nil => simp
  | cons j l ih =>
    obtain ⟨hj, hl⟩ := List.nodup_cons.mp hl
    have hmarks : (r.sendMark now j).marks i = r.marks i := by rw [r.sendMark_rest now j]; rfl
    rw [List.foldl_cons, ih hl, hmarks, Run.fly_sendMark]
    by_cases hi : i = j
    · subst hi
      simp [hj]
    · simp [hi]

theorem Run.outputs_nodup (r : Run) (n : Nat) : (r.outputs n).Nodup := by
  refine List.Nodup.sublist (List.filter_sublist.map _) ?_
  rw [List.zipIdx_map_snd]
  exact List.nodup_range' 1

theorem Run.fly_sendMarks (r : Run) (n now i : Nat) : ((r.sendMarks n now).chan i).fly =
    if ∃ d, r.graph.chans[i]? = some d ∧ i ∈ r.outputs n ∧ (d.selector = true ∨ r.active d.cnode = true)
    then (r.chan i).fly ++ [{ tok := none, due := now + 1 }] else (r.chan i).fly := by
  have hiff : (i ∈ r.outputs n ∧ r.marks i = true) ↔ ∃ d, r.graph.chans[i]? = some d ∧ i ∈ r.outputs n ∧ (d.selector = true ∨ r.active d.cnode = true) := by
    unfold Run.marks
    cases r.graph.chans[i]? with
    | none => simp
    | some d => simp
  rw [Run.sendMarks_eq, Run.fly_foldl_sendMark (r.outputs_nodup n)]
  simp only [hiff]

theorem Run.sendMarks_rest (r : Run) (n now : Nat) : r.sendMarks n now = { r with chans := (r.sendMarks n now).chans } := by
  rw [Run.sendMarks_eq]
  refine List.foldlRecOn (motive := fun x : Run => x = { r with chans := x.chans }) _ _ rfl fun x hx i _ => ?_
  rw [x.sendMark_rest, hx]

/-- What joins the buffers as an element goes on changes nothing on the way. -/
theorem Run.afterSave_spec (r : Run) (n : Nat) (periodic : Bool) :
    r.afterSave n periodic = { r with chans := (r.afterSave n periodic).chans } ∧ ∀ i, ((r.afterSave n periodic).chan i).fly = (r.chan i).fly := by
  unfold Run.afterSave
  split
  · exact ⟨rfl, fun _ => rfl⟩
  · refine List.foldlRecOn (motive := fun x : Run => x = { r with chans := x.chans } ∧ ∀ i, (x.chan i).fly = (r.chan i).fly) _ _
      ⟨rfl, fun _ => rfl⟩ fun x hx j _ => ?_
    obtain ⟨hrest, hfly⟩ := hx
    refine ⟨by rw [hrest]; rfl, fun i => ?_⟩
    by_cases hi : i = j
    · rw [hi, Run.chan_setChan_self]
      exact hfly j
    · rw [Run.chan_setChan_other _ _ _ hi]
      exact hfly i

/-! ## ELEMENT_SAVE (R167, R171) -/

/-- Node `n` of a run has given its record to the cut in progress, with what its core holds where that has saved too; its markers follow what it sent. -/
structure SavedBy (r : Run) (n now : Nat) (c : Cut) (x : Run) : Prop where
  id : x.id = r.id
  st : x.st = r.st
  saved : x.saved = r.saved
  elems : ∃ cores, x.savedElems = r.savedElems ++ n :: cores
  cut : ∃ c', x.cut = some c' ∧ c'.no = c.no ∧ c'.kind = c.kind
  fly : ∀ i, (x.chan i).fly = if ∃ d, r.graph.chans[i]? = some d ∧ i ∈ r.outputs n ∧ (d.selector = true ∨ r.active d.cnode = true)
    then (r.chan i).fly ++ [{ tok := none, due := now + 1 }] else (r.chan i).fly

/-- An element's record joins a cut in progress, in a run. -/
def Run.putSave (key : Nat) (f : Run → Cut → Cut) (r : Run) : Run :=
  match r.cut with
  | none => r
  | some c => { r with cut := some (f r c), savedElems := r.savedElems ++ [key] }

theorem State.putSave_eq (s : State) (rid key : Nat) (f : Run → Cut → Cut) : s.putSave rid key f = s.modRun rid (Run.putSave key f) := rfl

theorem Run.putSave_some {c : Cut} (hc : r.cut = some c) (key : Nat) (f : Run → Cut → Cut) :
    r.putSave key f = { r with cut := some (f r c), savedElems := r.savedElems ++ [key] } := by
  rw [Run.putSave, hc]

theorem State.run_putSave {c : Cut} (hr : s.run rid = some r) (hc : r.cut = some c) (key : Nat) (f : Run → Cut → Cut) :
    (s.putSave rid key f).run rid = some (r.putSave key f) := by
  have hid : (r.putSave key f).id = r.id := by rw [Run.putSave_some hc]
  rw [State.putSave_eq, State.run_modRun_self hr hid]

variable {n now : Nat} {c : Cut}

/-- A core's objects join the cut behind its elements. -/
theorem SavedBy.putSave (h : SavedBy r n now c x) (key : Nat) {f : Run → Cut → Cut} (hf : ∀ y d, (f y d).no = d.no ∧ (f y d).kind = d.kind) :
    SavedBy r n now c (x.putSave key f) := by
  obtain ⟨c', hc, hno, hk⟩ := h.cut
  obtain ⟨cores, he⟩ := h.elems
  rw [Run.putSave_some hc]
  exact ⟨h.id, h.st, h.saved, ⟨cores ++ [key], by rw [he]; simp⟩, ⟨_, rfl, (hf x c').1.trans hno, (hf x c').2.trans hk⟩, h.fly⟩

theorem State.saveCore_spec (hx : s.run rid = some x) (h : SavedBy r n now c x) (core : Nat) :
    ∃ y, (s.saveCore rid core).run rid = some y ∧ SavedBy r n now c y := by
  simp only [State.saveCore, hx]
  split
  · exact ⟨x, hx, h⟩
  · have hput := h.putSave (coreKey core) (f := fun _ d => { d with objs := (d.objs.filter fun o => o.core != core) ++ s.coreObjs x core }) fun _ _ => ⟨rfl, rfl⟩
    refine ⟨_, ?_, hput⟩
    have hrun := State.run_modRun_self hx (hput.id.trans h.id.symm)
    split
    · exact hrun
    · exact hrun

theorem State.dropLds_same (s : State) (rid cid : Nat) : SameElsewhere s (s.dropLds rid cid) := by
  unfold State.dropLds
  dsimp only
  split
  · split
    · rfl
    · rfl
  · rfl

/-- What a node saves of its channels, its state, its contexts and its directed tokens. -/
def Run.record (n : Nat) (begun : Bool) (recs : List SavedCtx) (sent : List Directed) (r : Run) (c : Cut) : Cut :=
  { c with chans := r.saveChans n begun c.chans, nodes := tput c.nodes n { r.nodeS n with latches := [], latched := false }
           ctxs := c.ctxs ++ recs, sent := c.sent ++ sent }

/-- A node that saves and goes on under a periodic cut, and whose markers go out. -/
def Run.savedNode (n now : Nat) (periodic begun : Bool) (recs : List SavedCtx) (sent : List Directed) (r : Run) : Run :=
  ((r.putSave n (Run.record n begun recs sent)).afterSave n periodic).sendMarks n now

theorem Run.savedBy_savedNode (hc : r.cut = some c) (n now : Nat) (periodic begun : Bool) (recs : List SavedCtx) (sent : List Directed) :
    SavedBy r n now c (r.savedNode n now periodic begun recs sent) := by
  unfold Run.savedNode
  rw [Run.putSave_some hc]
  generalize hy : ({ r with cut := some (Run.record n begun recs sent r c), savedElems := r.savedElems ++ [n] } : Run) = y
  obtain ⟨hrest, hfly⟩ := y.afterSave_spec n periodic
  have hmarks := (y.afterSave n periodic).sendMarks_rest n now
  have hflys := (y.afterSave n periodic).fly_sendMarks n now
  have hall : (y.afterSave n periodic).sendMarks n now = { y with chans := ((y.afterSave n periodic).sendMarks n now).chans } := by
    rw [hmarks, hrest]
  refine ⟨?_, ?_, ?_, ⟨[], ?_⟩, ⟨Run.record n begun recs sent r c, ?_, rfl, rfl⟩, fun i => ?_⟩
  · rw [hall, ← hy]
  · rw [hall, ← hy]
  · rw [hall, ← hy]
  · rw [hall, ← hy]
  · rw [hall, ← hy]
  · rw [hflys, hfly, hrest, ← hy]
    rfl

/-- A state with node `n` of run `rid` saved, its markers sent, before its core is looked at. -/
def State.nodeSaved (s : State) (rid n : Nat) (periodic begun : Bool) (recs : List SavedCtx) (sent : List Directed) : State :=
  (s.putSave rid n (Run.record n begun recs sent)).modRun rid fun r =>
    (r.afterSave n periodic).sendMarks n ((s.putSave rid n (Run.record n begun recs sent)).cycleOf r)

theorem State.run_nodeSaved (hr : s.run rid = some r) (hc : r.cut = some c) (n : Nat) (periodic begun : Bool) (recs : List SavedCtx) (sent : List Directed) :
    (s.nodeSaved rid n periodic begun recs sent).run rid = some (r.savedNode n (s.cycleOf r) periodic begun recs sent) := by
  have hput : (s.putSave rid n (Run.record n begun recs sent)).run rid = some (r.putSave n (Run.record n begun recs sent)) :=
    State.run_putSave hr hc ..
  have hcyc : (s.putSave rid n (Run.record n begun recs sent)).cycleOf (r.putSave n (Run.record n begun recs sent)) = s.cycleOf r := by
    rw [Run.putSave_some hc]
    rfl
  have hby := Run.savedBy_savedNode hc n (s.cycleOf r) periodic begun recs sent
  have hid : (r.putSave n (Run.record n begun recs sent)).id = r.id := by rw [Run.putSave_some hc]
  rw [State.nodeSaved, State.run_modRun_self hput]
  · rw [hcyc]
    rfl
  · rw [hcyc]
    exact hby.id.trans hid.symm

/-- A node's save is in its run, whose core it may complete. -/
theorem State.saveNode_spec (hr : s.run r.id = some r) (hc : r.cut = some c) (n : Nat) :
    ∃ x, (s.saveNode r n).run r.id = some x ∧ SavedBy r n (s.cycleOf r) c x := by
  obtain ⟨hrest, b, hb⟩ := State.passDue_spec hr
  have hcyc : (s.passDue r.id).cycleOf { r with bankTok := b } = s.cycleOf r := by rw [hrest]; rfl
  have hnode (periodic begun : Bool) (recs : List SavedCtx) (sent : List Directed) :
      ∃ x, ((s.passDue r.id).nodeSaved r.id n periodic begun recs sent).run r.id = some x ∧ SavedBy r n (s.cycleOf r) c x := by
    have hby := Run.savedBy_savedNode (r := { r with bankTok := b }) hc n (s.cycleOf r) periodic begun recs sent
    exact ⟨_, hcyc ▸ State.run_nodeSaved hb hc n periodic begun recs sent, hby.id, hby.st, hby.saved, hby.elems, hby.cut, hby.fly⟩
  unfold State.saveNode
  dsimp only
  split
  · next cid _ =>
    obtain ⟨x, hx, hby⟩ := hnode (r.cut.any fun c => c.kind == CutKind.periodic) (r.isBegun (s.passDue r.id) n)
      [(s.passDue r.id).saveCtx cid] ((s.passDue r.id).sentBy r.id (some cid))
    exact State.saveCore_spec (((State.dropLds_same ..).run _).trans hx) hby (coreOf cid)
  · exact hnode ..

/-! ### The completion of a cut (R109, R113, R171) -/

/-- The cut `c` of a run is complete in it: it is the one that the run keeps. -/
structure CutDone (r : Run) (c : Cut) (x : Run) : Prop where
  elems : x.savedElems = []
  cut : x.cut = none
  saved : x.saved.map (·.no) = [c.no]
  pause : c.kind = .pause → x.st = .paused
  periodic : c.kind = .periodic → x.st = r.st

theorem State.run_of_runs (h : t.runs = s.runs) (k : Nat) : t.run k = s.run k := by rw [State.run, State.run, h]

theorem State.runs_cleanSpans (s : State) (spans : List (Nat × Nat)) : (s.cleanSpans spans).runs = s.runs :=
  List.foldlRecOn (motive := fun t : State => t.runs = s.runs) _ _ rfl fun _ h _ _ => h

theorem State.freeFires_same (s : State) (r : Run) : SameElsewhere s (s.freeFires r) :=
  SameElsewhere.foldl (fun s e => by
    split
    · rfl
    · rfl) s.cores s

/-- A run that keeps the cut `c`, complete at last; its next periodic one is due at `due`. -/
def Run.keepCut (c : Cut) (due : Nat) (r : Run) : Run :=
  { r with cut := none, savedElems := [], saved := [c], cutDue := due
           chans := r.chans.map fun e =>
             (e.1, { e.2 with buf := e.2.buf ++ e.2.late, late := [], fly := e.2.fly.filter fun f => f.tok.isSome, marked := false : Chan })
           st := match c.kind with | .pause => .paused | .yield => .yielded | .periodic => r.st
           pauseCmds := if c.kind == CutKind.pause then [] else r.pauseCmds }

/-- What becomes of a machine whose run `r` keeps its cut of a kind: its fires go on, its tokens are held, or its region is freed. -/
def State.afterCut (s : State) (rid : Nat) (r : Run) : CutKind → State
  | .periodic => s.freeFires r
  | .pause => ((s.stashBars r).holdTokens r).modRun rid fun r => { r with nodes := r.nodes.map fun e => (e.1, { e.2 with latches := [], latched := false : NodeS }) }
  | .yield => ((s.stashBars r).holdTokens r).clearRegion r

theorem State.completeCut_eq (hr : s.run rid = some r) (hc : r.cut = some c) : s.completeCut rid =
    (let t := if r.eligible then s.cleanSpans (s.writeSpans r) else s
     ((t.endPauses (if c.kind == CutKind.pause then r else { r with pauseCmds := [] }) 0).modRun rid fun _ =>
       r.keepCut (s.fillCut r c) (t.now + r.graph.marker * 1800)).afterCut rid r c.kind) := by
  have hk : (s.fillCut r c).kind = c.kind := rfl
  simp only [State.completeCut, hr, hc, Run.keepCut, hk]
  cases hkind : c.kind <;> rfl

theorem State.afterCut_run {y : Run} (hy : s.run rid = some y) (r : Run) (k : CutKind) :
    ∃ n, (s.afterCut rid r k).run rid = some { y with nodes := n } := by
  cases k with
  | periodic => exact ⟨y.nodes, ((State.freeFires_same s r).run _).trans hy⟩
  | pause => exact ⟨_, State.run_modRun_self (s := (s.stashBars r).holdTokens r) hy rfl⟩
  | yield =>
    refine ⟨y.nodes, ?_⟩
    rw [State.afterCut, State.clearRegion_rest]
    exact hy

/-- A run whose cut is complete keeps it. -/
theorem State.completeCut_spec (hr : s.run rid = some r) (hc : r.cut = some c) :
    ∃ y, (s.completeCut rid).run rid = some y ∧ CutDone r c y := by
  rw [State.completeCut_eq hr hc]
  generalize ht : (if r.eligible = true then s.cleanSpans (s.writeSpans r) else s) = t
  have hruns : t.runs = s.runs := by
    rw [← ht]
    split
    · exact State.runs_cleanSpans ..
    · rfl
  dsimp only
  generalize hu : t.endPauses (if (c.kind == CutKind.pause) = true then r else { r with pauseCmds := [] }) 0 = u
  have hru : u.run rid = some r := (State.run_of_runs ((hu ▸ Quiet.endPauses ..).runs.trans hruns) _).trans hr
  have hrun := State.run_modRun_self (f := fun _ => r.keepCut (s.fillCut r c) (t.now + r.graph.marker * 1800)) hru rfl
  obtain ⟨n, hn⟩ := State.afterCut_run hrun r c.kind
  have hk : (s.fillCut r c).kind = c.kind := rfl
  refine ⟨_, hn, rfl, rfl, rfl, fun h => ?_, fun h => ?_⟩
  · simp only [Run.keepCut, hk, h]
  · simp only [Run.keepCut, hk, h]

/-- ELEMENT_SAVE of a node that may save. -/
theorem elementSave_eq (hr : s.run s.ev.unit = some r) (hsub : s.ev.sub = 0) (hmay : s.maySave r s.ev.idx = true) : exec .elementSave s = .next (
    let t := s.saveNode r s.ev.idx
    match t.run s.ev.unit with
    | none => t
    | some x => if x.cut.isSome && t.allSaved x && x.isRunning && !x.rolling && !(t.xchunks.any fun y => y.run == x.id) then t.completeCut x.id else t) := by
  show Host.Outcome.next _ = _
  simp only [hr, hsub, hmay]
  rfl

/-- A node that may save gives its record to the cut, and the last node of a cut completes it. -/
theorem elementSave_spec (hr : s.run s.ev.unit = some r) (hsub : s.ev.sub = 0) (hc : r.cut = some c) (hmay : s.maySave r s.ev.idx = true) :
    ∃ t x, exec .elementSave s = .next t ∧ t.run s.ev.unit = some x ∧
      (SavedBy r s.ev.idx (s.cycleOf r) c x ∨ ∃ y c', SavedBy r s.ev.idx (s.cycleOf r) c y ∧ y.cut = some c' ∧ CutDone y c' x) := by
  obtain ⟨y, hy, hby⟩ := State.saveNode_spec (State.id_of_run hr ▸ hr) hc s.ev.idx
  rw [State.id_of_run hr] at hy
  rw [elementSave_eq hr hsub hmay]
  simp only [hy]
  split
  · obtain ⟨c', hc', -, -⟩ := hby.cut
    have hid : y.id = s.ev.unit := State.id_of_run hy
    obtain ⟨x, hx, hdone⟩ := State.completeCut_spec (hid ▸ hy) hc'
    exact ⟨_, x, rfl, hid ▸ hx, .inr ⟨y, c', hby, hc', hdone⟩⟩
  · exact ⟨_, y, rfl, hy, .inl hby⟩

theorem cutsAreTaken : CutsAreTaken := by
  intro s r hr hroll hst begins
  have hid : r.id = s.ev.unit := State.id_of_run hr
  have hbegins (i : Instr) (k : CutKind) (h : exec i s = .next (s.injectMarks r.id k)) : begins i k := by
    obtain ⟨x, c, hx, hb, hdram⟩ := State.injectMarks_spec (hid ▸ hr) k
    exact ⟨_, x, c, h, hid ▸ hx, hb.cut, hb.kind, hb.no, hb.phase, hb.cutNo, hb.cutReq, hb.savedElems, hb.saved, hb.chans, hdram⟩
  refine ⟨fun k hq hc => hbegins _ _ (markerInject_begins hr hroll hst hq hc), fun hq => markerInject_none hr hq,
    fun hm hdue => ⟨fun hc hq => hbegins _ _ (periodicCut_begins hr hroll hst hm hdue hc hq), fun hc => ?skips⟩,
    fun h => periodicCut_early hr h, fun i due q hi hf hc => ?arrives, fun n c hsub hn hc hmay => ?saves⟩
  case skips =>
    exact ⟨_, _, periodicCut_skips hr hroll hst hm hdue hc, State.run_modRun_self hr rfl, rfl, rfl, rfl⟩
  case arrives =>
    subst hi
    refine ⟨fun hdue => ?_, fun h => markerArrival_early hr hf h⟩
    obtain ⟨t, ht, hrest⟩ := markerArrival_due hr hf hroll hc hdue
    have hrun : t.run s.ev.unit = some (r.marking s.ev.idx q) := by
      rw [hrest]
      exact State.run_modRun_self hr rfl
    have hself : (r.marking s.ev.idx q).chan s.ev.idx = { r.chan s.ev.idx with fly := q, marked := true } := Run.chan_setChan_self ..
    exact ⟨t, _, ht, hrun, by rw [hself], by rw [hself], by rw [hself], fun j hj => Run.chan_setChan_other _ _ _ hj, by rw [hrest]; rfl⟩
  case saves =>
    subst hn
    obtain ⟨t, x, ht, hx, hby⟩ := elementSave_spec hr hsub hc hmay
    refine ⟨t, x, ht, hx, ?_⟩
    rcases hby with hby | ⟨y, c', hby, hc', hdone⟩
    · obtain ⟨d, hd, hno, -⟩ := hby.cut
      exact .inl ⟨hby.elems, by rw [hd, Option.map_some, hno], hby.saved, hby.fly⟩
    · obtain ⟨d, hd, hno, hkind⟩ := hby.cut
      obtain rfl : c' = d := Option.some.inj (hc'.symm.trans hd)
      exact .inr ⟨hdone.elems, hdone.cut, hno ▸ hdone.saved, fun h => hdone.pause (hkind.trans h),
        fun h => (hdone.periodic (hkind.trans h)).trans (hby.st.trans hst)⟩

end Sys2Proof.Machine
end

section
namespace Sys2Proof.Machine
variable {s t u : State} {rid : Nat} {r x : Run} {k : Cut}

/-! ## ROLLBACK (R186, R188) -/

/-- A run has what a cut saved of its run `r`: it runs in the cut's phase, with the cut's tokens in its channels. -/
structure Reset (r : Run) (k : Cut) (x : Run) : Prop where
  id : x.id = r.id
  graph : x.graph = r.graph
  rolling : x.rolling = false
  st : x.st = .running
  phase : x.phase = k.phase
  heldSel : x.heldSel = k.held
  buf : ∀ i, (x.chan i).buf = (tget Chan.init k.chans i).buf
  fly : ∀ i, (x.chan i).fly = []
  held : ∀ n, (x.nodeS n).held = (tget NodeS.init k.nodes n).held
  conds : x.conds = k.conds
  est : x.est = k.est
  hq : x.hq = r.hq
  saved : x.saved = r.saved

/-- Tables that are restored from a cut's, their ways emptied. -/
theorem Reset.of_tables (hc : x.chans = k.chans.map fun e => (e.1, { e.2 with fly := [], marked := false, late := [] : Chan }))
    (hn : x.nodes = k.nodes.map fun e => (e.1, { e.2 with acted := 0 : NodeS })) :
    (∀ i, (x.chan i).buf = (tget Chan.init k.chans i).buf) ∧ (∀ i, (x.chan i).fly = []) ∧
      ∀ n, (x.nodeS n).held = (tget NodeS.init k.nodes n).held := by
  refine ⟨fun i => ?_, fun i => ?_, fun n => ?_⟩
  · rw [Run.chan, hc]
    exact tget_map Chan.init (fun x : Chan => { x with fly := [], marked := false, late := [] }) (fun x : Chan => x.buf) (fun _ => rfl) k.chans i
  · rw [Run.chan, hc]
    rcases tget_mem_or Chan.init (k.chans.map fun e => (e.1, { e.2 with fly := [], marked := false, late := [] : Chan })) i with h | ⟨e, he, h⟩
    · rw [h]
      rfl
    · obtain ⟨e', -, rfl⟩ := List.mem_map.mp he
      rw [← h]
  · rw [Run.nodeS, hn]
    exact tget_map NodeS.init (fun x : NodeS => { x with acted := 0 }) (fun x : NodeS => x.held) (fun _ => rfl) k.nodes n

/-- As a restore goes on, the run is `x` but for its waiting segments, its segments' contexts and its barriers, and no byte of the device memory changes. -/
structure Loading (s : State) (rid : Nat) (x : Run) (t : State) : Prop where
  dram : t.dram = s.dram
  run : ∃ w g b, t.run rid = some { x with waitSegs := w, segs := g, bars := b }

namespace Loading

theorem of_same (h : Loading s rid x t) (hr : u.runs = t.runs) (hd : u.dram = t.dram) : Loading s rid x u := by
  obtain ⟨w, g, b, hrun⟩ := h.run
  exact ⟨hd.trans h.dram, w, g, b, (State.run_of_runs hr rid).trans hrun⟩

theorem modRun (h : Loading s rid x t) {f : Run → Run} (hf : ∀ y, ∃ w g b, f y = { y with waitSegs := w, segs := g, bars := b }) :
    Loading s rid x (t.modRun rid f) := by
  obtain ⟨w, g, b, hrun⟩ := h.run
  obtain ⟨w', g', b', hy⟩ := hf { x with waitSegs := w, segs := g, bars := b }
  have hrun' := State.run_modRun_self (f := f) hrun (by rw [hy])
  exact ⟨h.dram, w', g', b', hrun'.trans (congrArg some hy)⟩

theorem clearRegion (h : Loading s rid x t) (r : Run) : Loading s rid x (t.clearRegion r) := by
  rw [State.clearRegion_rest]
  exact h.of_same rfl rfl

theorem putSeg (h : Loading s rid x t) (moved : Bool) (core : Nat) (c : SavedCtx) : Loading s rid x (t.putSeg rid moved core c).1 := by
  simp only [State.putSeg]
  split
  · exact h.of_same rfl rfl
  · exact h.modRun fun y => ⟨_, y.segs, y.bars, rfl⟩

theorem putObj (h : Loading s rid x t) (core : Nat) (o : SavedObj) : Loading s rid x (t.putObj core o) := by
  cases o <;> exact h.of_same rfl rfl

theorem reset (h : Loading s rid x t) (hx : Reset r k x) : ∃ y, t.run rid = some y ∧ Reset r k y := by
  obtain ⟨w, g, b, hrun⟩ := h.run
  exact ⟨_, hrun, hx.id, hx.graph, hx.rolling, hx.st, hx.phase, hx.heldSel, hx.buf, hx.fly, hx.held, hx.conds, hx.est, hx.hq, hx.saved⟩

end Loading

/-- The restore of a cut without chunks, in a graph without streams, sets the run to the cut. -/
theorem State.reset_restoreCut {rg : Region} {place : Table (Option Place)} (hr : s.run rid = some r)
    (hk : ∀ n d, r.node n = some d → d.kind ≠ 2 ∧ d.kind ≠ 3) (hc : ∀ e ∈ k.chans, ∀ tk ∈ e.2.buf, tk.kind ≠ 2)
    (hn : ∀ e ∈ k.nodes, ∀ tk, e.2.held = some tk → tk.kind ≠ 2) :
    (∃ y, (s.restoreCut rid k rg place).run rid = some y ∧ Reset r k y) ∧ (s.restoreCut rid k rg place).dram = s.dram := by
  unfold State.restoreCut
  split
  · next h => exact absurd (hr.symm.trans h) (by simp)
  next r0 hr0 =>
  obtain rfl := Option.some.inj (hr0.symm.trans hr)
  extract_lets moved mc s1 outer r' s2 ops new s3
  have hreset : Reset r0 k r' := by
    obtain ⟨hbuf, hfly, hheld⟩ := Reset.of_tables (x := r') (k := k) rfl rfl
    exact ⟨rfl, rfl, rfl, rfl, rfl, rfl, hbuf, hfly, hheld, rfl, rfl, rfl, rfl⟩
  have h1 : s1.runs = s.runs ∧ s1.dram = s.dram := by
    unfold s1
    split
    · rw [State.clearRegion_rest]
      exact ⟨rfl, rfl⟩
    · exact ⟨rfl, rfl⟩
  have h2 : Loading s rid r' s2 := by
    have hrun := State.run_modRun_self (f := fun _ => r') ((State.run_of_runs h1.1 rid).trans hr) rfl
    have hmod : Loading s rid r' (s1.modRun rid fun _ => r') := ⟨h1.2, r'.waitSegs, r'.segs, r'.bars, hrun⟩
    exact hmod.clearRegion r'
  have h3 : Loading s rid r' s3 := List.foldlRecOn (motive := Loading s rid r') _ _ h2 fun u hu c _ => hu.of_same rfl rfl
  clear_value s3
  split
  rename_i s4 segMap h4
  have h4 : Loading s rid r' s4 := by
    have h := List.foldlRecOn (motive := fun x : State × List (Nat × Nat) => Loading s rid r' x.1)
      (bySegid (k.ctxs.filter fun x => x.ctx.role.isSeg)) (fun st x =>
        ((st.1.putSeg rid moved (mc x.core) (x.rebar k mc rid outer)).1,
          st.2 ++ [(x.cid, (st.1.putSeg rid moved (mc x.core) (x.rebar k mc rid outer)).2)]))
      (b := (s3, [])) h3 fun u hu x _ => hu.putSeg ..
    rw [show s4 = (s4, segMap).1 from rfl, ← h4]
    exact h
  extract_lets cidMap mcid obj s5 s6 s7 back s8
  have h5 : Loading s rid r' s5 := List.foldlRecOn (motive := Loading s rid r') _ _ h4 fun u hu x _ => hu.putObj ..
  have h6 : Loading s rid r' s6 := List.foldlRecOn (motive := Loading s rid r') _ _ h5 fun u hu x _ => hu.of_same rfl rfl
  have h7 : Loading s rid r' s7 := h6.modRun fun y => ⟨y.waitSegs, _, _, rfl⟩
  have h8 : Loading s rid r' s8 := h7.of_same rfl rfl
  clear_value s8
  obtain ⟨y, hy, hres⟩ := h8.reset hreset
  simp only [hy]
  rw [Run.no_streams fun n d hd => hk n d (by rwa [hres.graph] at hd)]
  have hrest : Restored s8 rid r0 k s8 :=
    ⟨fun _ => rfl, y, hy, State.id_of_run hy, hres.st, hres.phase, hres.graph, hres.buf, hres.held⟩
  show (∃ y, (s8.recheckChans rid).run rid = some y ∧ _) ∧ (s8.recheckChans rid).dram = s.dram
  rw [hrest.recheckChans hc hn]
  exact ⟨⟨y, hy, hres⟩, h8.dram⟩

theorem rollback_idle (hr : s.run s.ev.unit = some r) (h : r.rolling = false) : exec .rollback s = .next s := by
  show Host.Outcome.next _ = _
  simp only [hr, h]
  split
  · rfl
  · rfl

/-- A running run that rolls back in its own cells, with no pause asked of it. -/
theorem rollback_restores (hr : s.run s.ev.unit = some r) (hs : r.saved = [k]) (hroll : r.rolling = true) (hst : r.st = .running)
    (hd : r.displaced = false) (hq : r.cutReq = none) : exec .rollback s = .next (
      ((s.dropFlight r k).modRun r.id fun r => { r with hq := [] }).restoreCut r.id k { die := r.die, col := r.col, width := r.width } r.place) := by
  show Host.Outcome.next _ = _
  have hlast : r.saved.getLast? = some k := by rw [hs]; rfl
  simp only [hr, hlast, hroll, hst, hd, hq]
  rfl

/-- A run that rolls back stands as its newest cut saved it, without a token in its handler's queue. -/
theorem rollback_spec (hr : s.run s.ev.unit = some r) (hs : r.saved = [k]) (hroll : r.rolling = true) (hst : r.st = .running)
    (hd : r.displaced = false) (hq : r.cutReq = none) (hk : ∀ n d, r.node n = some d → d.kind ≠ 2 ∧ d.kind ≠ 3)
    (hc : ∀ e ∈ k.chans, ∀ tk ∈ e.2.buf, tk.kind ≠ 2) (hn : ∀ e ∈ k.nodes, ∀ tk, e.2.held = some tk → tk.kind ≠ 2) :
    ∃ t x, exec .rollback s = .next t ∧ t.run s.ev.unit = some x ∧ Reset { r with hq := [] } k x ∧ t.dram = s.dram := by
  have hid : r.id = s.ev.unit := State.id_of_run hr
  have hrun : ((s.dropFlight r k).modRun r.id fun r => { r with hq := [] }).run r.id = some { r with hq := [] } :=
    State.run_modRun_self (s := s.dropFlight r k) (hid ▸ hr) rfl
  obtain ⟨⟨x, hx, hres⟩, hdram⟩ := State.reset_restoreCut (rg := { die := r.die, col := r.col, width := r.width }) (place := r.place) hrun hk hc hn
  exact ⟨_, x, rollback_restores hr hs hroll hst hd hq, hid ▸ hx, hres, hdram⟩

/-! ## FAULT_DELIVERY (R326, R329, R330, R335) -/

/-- A virtual device whose fault queue has taken an entry. -/
def Vd.tookFault (v : Vd) : Vd :=
  { v with fqidx := (v.fqidx + 1) % 4096, fqwrap := if v.fqidx = 4095 then (v.fqwrap + 1) % 2 ^ 32 else v.fqwrap }

theorem State.fqPut_eq (s : State) (vd : Nat) (bs : List Byte) : s.fqPut vd bs =
    (let t := (s.vWrite vd (fqBase vd + 64 * (s.vd vd).fqidx) bs).modVd vd Vd.tookFault
     if (t.vd vd).fqen then t.raiseMsix vd (t.vd vd).fqvec.toNat else t) := by
  have hv := State.vd_vWrite (s := s) vd (fqBase vd + 64 * (s.vd vd).fqidx) bs vd
  simp only [State.vd_modVd_self, hv]
  rfl

theorem State.raiseMsix_queue (s : State) (fn vec : Nat) :
    (∀ n, ((s.raiseMsix fn vec).vd n).fqidx = (s.vd n).fqidx) ∧ (s.raiseMsix fn vec).flue = s.flue := by
  unfold State.raiseMsix
  split
  · exact ⟨fun _ => rfl, rfl⟩
  · refine ⟨fun n => ?_, rfl⟩
    rw [State.vd_modVd]
    split
    · next h => rw [h]
    · rfl

/-- An entry of a fault queue advances its index, and interrupts where enabled. -/
theorem State.fqPut_spec (s : State) (vd : Nat) (bs : List Byte) :
    ((s.fqPut vd bs).vd vd).fqidx = ((s.vd vd).fqidx + 1) % 4096 ∧
      (s.fqPut vd bs).msix = (if (s.vd vd).fqen && s.linkUp then s.msix ++ [(vd, (s.vd vd).fqvec.toNat)] else s.msix) ∧
      (s.fqPut vd bs).flue = s.flue ∧ SameRuns s (s.fqPut vd bs) := by
  have hw : Quiet s (s.vWrite vd (fqBase vd + 64 * (s.vd vd).fqidx) bs) := Quiet.vWrite ..
  have hvd := State.vd_vWrite (s := s) vd (fqBase vd + 64 * (s.vd vd).fqidx) bs vd
  rw [State.fqPut_eq]
  generalize s.vWrite vd (fqBase vd + 64 * (s.vd vd).fqidx) bs = w at hw hvd ⊢
  have hmsix : (w.modVd vd Vd.tookFault).msix = s.msix := by rw [hw.rest]; rfl
  have hlink : (w.modVd vd Vd.tookFault).linkUp = s.linkUp := by rw [hw.rest]; rfl
  have hflue : (w.modVd vd Vd.tookFault).flue = s.flue := hw.flue
  have hruns : SameRuns s (w.modVd vd Vd.tookFault) := hw.sameRuns
  have hself : (w.modVd vd Vd.tookFault).vd vd = (s.vd vd).tookFault := by rw [State.vd_modVd_self, hvd]
  generalize w.modVd vd Vd.tookFault = t at hmsix hlink hflue hruns hself ⊢
  simp only [hself]
  have hen : (s.vd vd).tookFault.fqen = (s.vd vd).fqen := rfl
  cases he : (s.vd vd).fqen with
  | false =>
    rw [hen, he]
    exact ⟨congrArg Vd.fqidx hself, hmsix, hflue, hruns⟩
  | true =>
    obtain ⟨hidx, hfl⟩ := t.raiseMsix_queue vd (s.vd vd).tookFault.fqvec.toNat
    obtain ⟨hms, -, -, ⟨hr, hc, hk⟩, -⟩ := t.raiseMsix_same vd (s.vd vd).tookFault.fqvec.toNat
    rw [hen, he, if_pos rfl, Bool.true_and, ← hmsix, ← hlink]
    exact ⟨(hidx vd).trans (congrArg Vd.fqidx hself), hms, hfl.trans hflue, hr.trans hruns.1, hc.trans hruns.2.1, hk.trans hruns.2.2⟩

/-- What stands in the fault queue of a token's virtual device once it has taken the token. -/
structure Queued (s t : State) (f : Flt) : Prop where
  flue : t.flue = []
  fqidx : (t.vd f.vd).fqidx = ((s.vd f.vd).fqidx + 1) % 4096
  msix : t.msix = if (s.vd f.vd).fqen && s.linkUp then s.msix ++ [(f.vd, (s.vd f.vd).fqvec.toNat)] else s.msix
  runs : t.runs = s.runs

theorem Queued.of_unheld {f : Flt} (h : Queued s t f.unheld) : Queued s t f := ⟨h.flue, h.fqidx, h.msix, h.runs⟩

theorem State.queued_fqWrite {f : Flt} (hf : t.flue = []) (hvds : t.vds = s.vds) (hm : t.msix = s.msix) (hl : t.linkUp = s.linkUp) (hr : t.runs = s.runs) :
    Queued s (t.fqWrite f) f := by
  have hvd : t.vd f.vd = s.vd f.vd := congrArg (fun v => tget Vd.init v f.vd) hvds
  obtain ⟨hidx, hmsix, hflue, hruns, -⟩ := t.fqPut_spec f.vd f.bytes
  rw [hvd] at hidx hmsix
  rw [hm, hl] at hmsix
  exact ⟨hflue.trans hf, hidx, hmsix, hruns.trans hr⟩

/-- What becomes of the only token of the Flue, which none overtakes. -/
def State.deliverOnly (s : State) (f : Flt) : State :=
  match f.run.bind s.run with
  | none => State.fqWrite { s with flue := [] } f
  | some r => match r.graph.handler with
    | none => State.fqWrite { s with flue := [] } f
    | some h =>
      if (match r.st with | .halted _ => true | .ended => true | _ => false) then State.fqWrite { s with flue := [] } f
      else if r.rolling || s.time ≤ f.time || s.guardFirst f then s
      else State.toHandler { s with flue := [] } r h f

section
variable {f : Flt} (hf : s.flue = [f]) (hsub : s.ev.sub = 0) (hidx : s.ev.idx = 0)
include hf hsub hidx

theorem faultDelivery_eq : exec .faultDelivery s = .next (s.deliverOnly f) := by
  have hnone : (s.flue.zipIdx.any fun (g, i) => i != s.ev.idx && g.run == f.run && (g.before f || (i < s.ev.idx && !f.before g))) = false := by
    simp [hf, hidx]
  have hhead : s.flue[s.ev.idx]? = some f := by simp [hf, hidx]
  have hsub' : s.ev.sub ≠ 1 := by omega
  have hdrop : dropAt s.ev.idx s.flue = [] := by rw [hidx, hf]; rfl
  show Host.Outcome.next _ = _
  rw [if_neg hsub', hhead]
  dsimp only
  rw [if_neg (Bool.not_eq_true _ ▸ hnone), hdrop]
  rfl

theorem faultDelivery_unhandled (hrun : f.run = none) :
    exec .faultDelivery s = .next (State.fqWrite { s with flue := [] } f) := by
  rw [faultDelivery_eq hf hsub hidx, State.deliverOnly, hrun]
  rfl

variable {h : Nat} (hrun : f.run = some rid) (hr : s.run rid = some r) (hh : r.graph.handler = some h) (hst : r.st = .running)
include hrun hr hh hst

theorem faultDelivery_early (ht : s.time ≤ f.time) : exec .faultDelivery s = .next s := by
  rw [faultDelivery_eq hf hsub hidx]
  simp only [State.deliverOnly, hrun, Option.bind_some, hr, hh, hst]
  simp [ht]

theorem faultDelivery_handled (hroll : r.rolling = false) (ht : f.time < s.time) (hg : s.guardFirst f = false) :
    exec .faultDelivery s = .next (State.toHandler { s with flue := [] } r h f) := by
  rw [faultDelivery_eq hf hsub hidx]
  simp only [State.deliverOnly, hrun, Option.bind_some, hr, hh, hst]
  simp [Nat.not_le.mpr ht, hroll, hg]
end

/-- A token comes first where no open window of its region's guards has begun as early. -/
theorem State.guardFirst_eq_false {f : Flt}
    (hg : ∀ d g, d < 4 → g ∈ (s.die d).guards → g.run = f.run → g.sent = true ∨ f.time < g.first) : s.guardFirst f = false := by
  refine List.any_eq_false.mpr fun d hd => ?_
  rw [Bool.not_eq_true]
  refine List.any_eq_false.mpr fun g hmem h => ?_
  simp only [Bool.and_eq_true, beq_iff_eq, Bool.not_eq_true'] at h
  obtain ⟨⟨hrun, hsent⟩, hbefore⟩ := h
  rcases hg d g (List.mem_range.mp hd) hmem hrun with hs | hlt
  · exact absurd (hs.symm.trans hsent) (by simp)
  · have htime : (s.guardToken g false).time = g.first := rfl
    simp only [Flt.before, htime, Bool.or_eq_true, Bool.and_eq_true, decide_eq_true_eq, beq_iff_eq] at hbefore
    omega

/-- A handler's queue that has room takes the token, and the contexts of its core idle no longer. -/
theorem State.toHandler_room {f : Flt} {h : Nat} (hlen : r.hq.length < 16) :
    KeepsRegs (s.modRun r.id fun r => { r with hq := r.hq ++ [f] }) (s.toHandler r h f) := by
  rw [State.toHandler, if_pos hlen]
  dsimp only
  split
  · exact KeepsRegs.wakeIdle ..
  · exact KeepsRegs.refl _

/-- The context that a token holds is held for it no longer. -/
def State.unholdCtx (s : State) (f : Flt) : State :=
  match f.held with
  | some cid => s.modCtx cid fun c => if c.held = some f then { c with held := none, park := c.park.map fun (p : Park) => { p with a := 1 } } else c
  | none => s

theorem State.unholdCtx_rest (s : State) (f : Flt) : s.unholdCtx f = { s with ctxs := (s.unholdCtx f).ctxs } := by
  unfold State.unholdCtx
  split
  · rfl
  · rfl

/-- A token that finds its handler's queue full goes to the fault queue. -/
theorem State.toHandler_full {f : Flt} {h : Nat} (hf : s.flue = []) (hlen : 16 ≤ r.hq.length) : Queued s (s.toHandler r h f) f := by
  have htake : s.toHandler r h f = (s.unholdCtx f).fqWrite f.unheld := by
    rw [State.toHandler, if_neg (Nat.not_lt.mpr hlen)]
    rfl
  have hrest := s.unholdCtx_rest f
  generalize s.unholdCtx f = t at htake hrest
  rw [htake]
  exact Queued.of_unheld (State.queued_fqWrite (by rw [hrest]; exact hf) (by rw [hrest]) (by rw [hrest]) (by rw [hrest]) (by rw [hrest]))

theorem rollbackAndFaultDelivery : RollbackAndFaultDelivery := by
  intro s r
  refine ⟨fun c hr hs hroll hst hd hq hk hc hn => ?rollback, fun hroll hr => rollback_idle hr hroll, fun f hf hsub hidx => ?fault⟩
  case rollback =>
    obtain ⟨t, x, ht, hx, hres, hdram⟩ := rollback_spec hr hs hroll hst hd hq hk hc hn
    exact ⟨t, x, ht, hx, hres.rolling, hres.st, hres.phase, hres.heldSel, fun i => ⟨hres.buf i, hres.fly i⟩, hres.conds, hres.est, hres.hq,
      hres.saved.trans hs, hdram⟩
  intro v queued
  refine ⟨fun hrun => ?unhandled, fun rid h hrun hr hh hst hroll => ⟨fun ht => faultDelivery_early hf hsub hidx hrun hr hh hst ht,
    fun ht hg => ⟨fun hlen => ?room, fun hlen => ?full⟩⟩⟩
  case unhandled =>
    have hq := State.queued_fqWrite (s := s) (t := { s with flue := [] }) (f := f) rfl rfl rfl rfl rfl
    obtain ⟨-, -, -, -, hctxs, hcores⟩ := State.fqPut_spec { s with flue := [] } f.vd f.bytes
    exact ⟨_, faultDelivery_unhandled hf hsub hidx hrun, ⟨hq.flue, hq.fqidx, hq.msix, hq.runs⟩, hctxs, hcores⟩
  case room =>
    have hkeep := (State.toHandler_room (s := { s with flue := [] }) (f := f) (h := h) hlen).rest
    have hid : r.id = rid := State.id_of_run hr
    have hrun' := State.run_modRun_self (s := { s with flue := [] }) (f := fun r => { r with hq := r.hq ++ [f] }) hr rfl
    rw [hid] at hkeep
    refine ⟨_, { r with hq := r.hq ++ [f] }, faultDelivery_handled hf hsub hidx hrun hr hh hst hroll ht (State.guardFirst_eq_false hg), ?_, ?_, rfl, rfl, ?_, ?_⟩
    · rw [hkeep]; rfl
    · rw [hkeep]; exact hrun'
    · rw [hkeep]; rfl
    · rw [hkeep]; rfl
  case full =>
    have hq := State.toHandler_full (s := { s with flue := [] }) (f := f) (h := h) rfl hlen
    exact ⟨_, faultDelivery_handled hf hsub hidx hrun hr hh hst hroll ht (State.guardFirst_eq_false hg), hq.flue, hq.fqidx, hq.msix, hq.runs⟩

/-- Settles O54: each event of the phases, of the cuts, of rollback and of the Flue, by the equation of its step. -/
theorem phasesCutsAndFaultsProceed : Obligations.PhasesCutsAndFaultsProceed :=
  ⟨phasesFollowOneAnother, cutsAreTaken, rollbackAndFaultDelivery⟩

end Sys2Proof.Machine
end

section
namespace Sys2Proof.Machine
variable {s : State} {r x : Run} {nd : NodeD} {n p q c o k : Nat} {d t : Token} {ins : List Nat} {out : Option (Nat × Token)}

/-! ## The ports of a router operator (R31, R146) -/

/-- A decider is TRUE by bit 0 of its value (R146). -/
theorem Token.isTrue_eq_tokVal (t : Token) : t.isTrue = (tokVal t).getLsbD 0 := by
  cases t <;> simp [Token.isTrue, tokVal]

/-- A channel ends at one input port, so that two ports take from two channels. -/
theorem Graph.port_of_chanOfIn {g : Graph} (hp : g.chanOfIn n p = some c) : ∃ h : c < g.chans.length, g.chans[c].cport = p := by
  obtain ⟨hc, hport, -⟩ := List.findIdx?_eq_some_iff_getElem.mp hp
  exact ⟨hc, beq_iff_eq.mp (Bool.and_eq_true_iff.mp hport).2⟩

/-- Token `t` stands at the head of channel `c`, the channel of input port `p`. -/
structure Run.HasInput (r : Run) (n p c : Nat) (t : Token) : Prop where
  chan : r.graph.chanOfIn n p = some c
  tok : (r.chan c).buf.head? = some t

/-- Channel `o` of output port `p` has a free slot. -/
structure Run.HasOutput (r : Run) (n p o : Nat) : Prop where
  chan : r.graph.chanOfOut n p = some o
  slot : 0 < r.freeSlots o

theorem Run.HasInput.head (h : r.HasInput n p c t) : r.head n p = some t := by
  rw [Run.head, h.chan, Option.bind_some, h.tok]

theorem Run.HasOutput.room (h : r.HasOutput n p o) : r.room n p = true := by
  simp [Run.room, h.chan, h.slot]

theorem Run.HasInput.chan_ne {c' : Nat} (h : r.HasInput n p c d) (h' : r.HasInput n q c' t) (hpq : p ≠ q) : c' ≠ c := by
  rintro rfl
  obtain ⟨_, hp⟩ := Graph.port_of_chanOfIn h.chan
  obtain ⟨_, hq⟩ := Graph.port_of_chanOfIn h'.chan
  exact hpq (hp.symm.trans hq)

/-! ## What an action does to the run (R145) -/

@[simp] theorem Run.nodeS_setNodeS_self (r : Run) (n : Nat) (v : NodeS) : (r.setNodeS n v).nodeS n = v := tget_tset_self

@[simp] theorem Run.nodeS_take (r : Run) (n p j : Nat) : (r.take n p).nodeS j = r.nodeS j := by
  unfold Run.take
  split <;> rfl

@[simp] theorem Run.nodeS_put (r : Run) (n p : Nat) (t : Token) (now j : Nat) : (r.put n p t now).nodeS j = r.nodeS j := by
  unfold Run.put
  split <;> rfl

/-- Between runs `r` and `x` the heads of `ins` are taken and the token of `out` is sent; beside the channels, at most the states of nodes differ. -/
structure RoutesTokens (s : State) (r x : Run) (ins : List Nat) (out : Option (Nat × Token)) : Prop where
  rest : x = { r with chans := x.chans, nodes := x.nodes }
  acts : Acts s r x ins out

namespace RoutesTokens

theorem refl (s : State) (r : Run) : RoutesTokens s r r [] none := ⟨rfl, fun _ => ⟨rfl, rfl, rfl, rfl⟩⟩

section
variable (h : RoutesTokens s r x ins out)
include h

theorem id : x.id = r.id := by rw [h.rest]
theorem graph : x.graph = r.graph := by rw [h.rest]
theorem cycleOf : s.cycleOf x = s.cycleOf r := by rw [h.rest]; rfl

theorem setNodeS (v : NodeS) : RoutesTokens s r (x.setNodeS n v) ins out := ⟨by rw [h.rest]; rfl, h.acts⟩

theorem take (hp : r.graph.chanOfIn n p = some c) (hc : c ∉ ins) : RoutesTokens s r (x.take n p) (ins ++ [c]) out := by
  have htake : x.take n p = x.setChan c { x.chan c with buf := (x.chan c).buf.tail } := by simp only [Run.take, h.graph, hp]
  rw [htake]
  refine ⟨by rw [h.rest]; rfl, fun i => ?_⟩
  obtain ⟨hbuf, hrest⟩ := h.acts i
  by_cases hi : i = c
  · subst hi
    rw [Run.chan_setChan_self]
    exact ⟨by simp [hbuf, hc], hrest⟩
  · rw [Run.chan_setChan_other _ _ _ hi]
    exact ⟨by simp [hbuf, hi], hrest⟩

end

theorem put {now : Nat} (h : RoutesTokens s r x ins none) (hp : r.graph.chanOfOut n p = some o) (t : Token) (hnow : now = s.cycleOf r) :
    RoutesTokens s r (x.put n p t now) ins (some (o, t)) := by
  have hput : x.put n p t now = x.setChan o { x.chan o with fly := (x.chan o).fly ++ [{ tok := some t, due := s.cycleOf r + 1 }] } := by
    simp only [Run.put, h.graph, hp, Run.launchTok, hnow]
  rw [hput]
  refine ⟨by rw [h.rest]; rfl, fun i => ?_⟩
  obtain ⟨hbuf, hfly, hrest⟩ := h.acts i
  by_cases hi : i = o
  · subst hi
    rw [Run.chan_setChan_self]
    exact ⟨hbuf, by simp [hfly], hrest⟩
  · rw [Run.chan_setChan_other _ _ _ hi]
    exact ⟨hbuf, by simp [hfly, hi], hrest⟩

/-- One port's token is taken. -/
theorem takeOne (s : State) (h : r.HasInput n p c t) : RoutesTokens s r (r.take n p) [c] none := (refl s r).take h.chan List.not_mem_nil

/-- The tokens of two ports are taken, each from its own channel. -/
theorem takeTwo {c' : Nat} (s : State) (h : r.HasInput n p c d) (h' : r.HasInput n q c' t) (hpq : p ≠ q) :
    RoutesTokens s r ((r.take n p).take n q) [c, c'] none :=
  (takeOne s h).take h'.chan (by simpa using h.chan_ne h' hpq)

end RoutesTokens

/-- An action changes its run as it says, counts as a firing and uses up its operator's cycle. -/
theorem State.acted_spec {f : Run → Run} (hr : s.run k = some r) (h : RoutesTokens s r (f r) ins out) (n : Nat) :
    ∃ r' m, (s.acted k n f).run k = some r' ∧ Acts s r r' ins out ∧ r'.nodeS n = { (f r).nodeS n with acted := m } :=
  ⟨_, _, State.run_modRun_self hr h.id, h.acts, Run.nodeS_setNodeS_self ..⟩

/-! ## An action of a router operator (R145) -/

/-- The operator of the event is a router operator `k` that is free to act in this cycle. -/
structure RouterReady (s : State) (r : Run) (nd : NodeD) (k : Nat) : Prop where
  run : s.run s.ev.unit = some r
  node : r.node s.ev.idx = some nd
  kind : nd.kind = 1
  rkind : nd.rkind = k
  may : s.mayFire r s.ev.idx = true
  free : (r.nodeS s.ev.idx).acted ≤ s.cycleOf r

/-- The event routes these tokens of its run, leaves the operator in such a state, and changes no context, core or memory. -/
def RouterActs (s : State) (r : Run) (i : Instr) (ins : List Nat) (out : Option (Nat × Token)) (post : NodeS → Prop) : Prop :=
  ∃ t r', exec i s = .next t ∧ t.run s.ev.unit = some r' ∧ Acts s r r' ins out ∧ post (r'.nodeS s.ev.idx) ∧ t.ctxs = s.ctxs ∧ t.cores = s.cores ∧ t.dram = s.dram

namespace RouterReady

theorem mayAct (h : RouterReady s r nd k) : s.mayAct r s.ev.idx k = true := by
  simp [State.mayAct, h.node, h.kind, h.rkind, h.may, h.free]

/-- A ready operator whose rule performs `f` routes the tokens that `f` routes. -/
theorem acts {i : Instr} {act : State → Run → Nat → State} {post : NodeS → Prop} (f : Run → Run) (h : RouterReady s r nd k)
    (hexec : exec i s = routerStep k act s) (hact : act s r s.ev.idx = s.acted r.id s.ev.idx f) (hf : RoutesTokens s r (f r) ins out)
    (hpost : ∀ m, post { (f r).nodeS s.ev.idx with acted := m }) : RouterActs s r i ins out post := by
  have hid : r.id = s.ev.unit := State.id_of_run h.run
  obtain ⟨r', m, hr', hacts, hnode⟩ := State.acted_spec h.run hf s.ev.idx
  refine ⟨s.acted s.ev.unit s.ev.idx f, r', ?_, hr', hacts, hnode ▸ hpost m, rfl, rfl, rfl⟩
  rw [hexec]
  simp only [routerStep, h.run, h.mayAct, if_true, hact, hid]

end RouterReady

/-! ## STEER and MERGE (R147, R148) -/

section
variable {c0 c1 c2 : Nat} {v : Token} (hd : r.HasInput s.ev.idx 0 c0 d)
include hd

/-- STEER sends its data token to the output that its decider names. -/
theorem steerAction_acts (h : RouterReady s r nd 0) (ht : r.HasInput s.ev.idx 1 c1 t) (ho : r.HasOutput s.ev.idx (if d.isTrue then 16 else 17) o) :
    RouterActs s r .steerAction [c0, c1] (some (o, t)) fun _ => True :=
  h.acts (fun r => ((r.take s.ev.idx 0).take s.ev.idx 1).put s.ev.idx (if d.isTrue then 16 else 17) t (s.cycleOf r)) rfl
    (by simp only [steerAct, hd.head, ht.head, ho.room, if_true])
    ((RoutesTokens.takeTwo s hd ht (by decide)).put ho.chan t rfl) fun _ => trivial

/-- MERGE takes the token of the input that its decider names. -/
theorem mergeAction_acts (h : RouterReady s r nd 1) (ht : r.HasInput s.ev.idx (if d.isTrue then 1 else 2) c1 t) (ho : r.HasOutput s.ev.idx 16 o) :
    RouterActs s r .mergeAction [c0, c1] (some (o, t)) fun _ => True :=
  h.acts (fun r => ((r.take s.ev.idx 0).take s.ev.idx (if d.isTrue then 1 else 2)).put s.ev.idx 16 t (s.cycleOf r)) rfl
    (by simp only [mergeAct, hd.head, ht.head, ho.room, if_true])
    ((RoutesTokens.takeTwo s hd ht (by split <;> decide)).put ho.chan t rfl) fun _ => trivial

/-! ## CARRY and INVARIANT (R149) -/

/-- CARRY in RUN ends on a FALSE decider. -/
theorem carryAction_ends (h : RouterReady s r nd 2) (hrun : (r.nodeS s.ev.idx).run = true) (hf : d.isTrue = false) :
    RouterActs s r .carryAction [c0] none fun x => x.run = false :=
  h.acts (fun r => (r.take s.ev.idx 0).setNodeS s.ev.idx { (r.take s.ev.idx 0).nodeS s.ev.idx with run := false }) rfl
    (by simp [carryAct, hrun, hd.head, hf])
    ((RoutesTokens.takeOne s hd).setNodeS _) fun _ => by simp

/-- CARRY in RUN goes on with a carried token on a TRUE decider. -/
theorem carryAction_goesOn (h : RouterReady s r nd 2) (hrun : (r.nodeS s.ev.idx).run = true) (hf : d.isTrue = true)
    (ht : r.HasInput s.ev.idx 2 c2 t) (ho : r.HasOutput s.ev.idx 16 o) :
    RouterActs s r .carryAction [c0, c2] (some (o, t)) fun x => x.run = true :=
  h.acts (fun r => ((r.take s.ev.idx 0).take s.ev.idx 2).put s.ev.idx 16 t (s.cycleOf r)) rfl
    (by simp [carryAct, hrun, hd.head, hf, ht.head, ho.room])
    ((RoutesTokens.takeTwo s hd ht (by decide)).put ho.chan t rfl) fun _ => by simp [hrun]

/-- INVARIANT in RUN drops its value on a FALSE decider. -/
theorem invariantAction_ends (h : RouterReady s r nd 3) (hheld : (r.nodeS s.ev.idx).held = some v) (hf : d.isTrue = false) :
    RouterActs s r .invariantAction [c0] none fun x => x.held = none :=
  h.acts (fun r => (r.take s.ev.idx 0).setNodeS s.ev.idx { (r.take s.ev.idx 0).nodeS s.ev.idx with run := false, held := none }) rfl
    (by simp [invariantAct, hheld, hd.head, hf])
    ((RoutesTokens.takeOne s hd).setNodeS _) fun _ => by simp

/-- INVARIANT in RUN sends its value again on a TRUE decider. -/
theorem invariantAction_goesOn (h : RouterReady s r nd 3) (hheld : (r.nodeS s.ev.idx).held = some v) (hf : d.isTrue = true)
    (ho : r.HasOutput s.ev.idx 16 o) : RouterActs s r .invariantAction [c0] (some (o, v)) fun x => x.held = some v :=
  h.acts (fun r => (r.take s.ev.idx 0).put s.ev.idx 16 v (s.cycleOf r)) rfl
    (by simp [invariantAct, hheld, hd.head, hf, ho.room])
    ((RoutesTokens.takeOne s hd).put ho.chan v rfl) fun _ => by simp [hheld]

omit hd

/-- CARRY in IDLE begins with its initial token. -/
theorem carryAction_begins (h : RouterReady s r nd 2) (hrun : (r.nodeS s.ev.idx).run = false) (ht : r.HasInput s.ev.idx 1 c1 t)
    (ho : r.HasOutput s.ev.idx 16 o) : RouterActs s r .carryAction [c1] (some (o, t)) fun x => x.run = true :=
  h.acts (fun r => let r := (r.take s.ev.idx 1).put s.ev.idx 16 t (s.cycleOf r); r.setNodeS s.ev.idx { r.nodeS s.ev.idx with run := true }) rfl
    (by simp [carryAct, hrun, ht.head, ho.room])
    (((RoutesTokens.takeOne s ht).put ho.chan t rfl).setNodeS _) fun _ => by simp

/-- INVARIANT in IDLE begins to hold the value that it sends. -/
theorem invariantAction_begins (h : RouterReady s r nd 3) (hheld : (r.nodeS s.ev.idx).held = none) (ht : r.HasInput s.ev.idx 1 c1 t)
    (ho : r.HasOutput s.ev.idx 16 o) : RouterActs s r .invariantAction [c1] (some (o, t)) fun x => x.held = some t :=
  h.acts (fun r => let r := (r.take s.ev.idx 1).put s.ev.idx 16 t (s.cycleOf r)
      r.setNodeS s.ev.idx { r.nodeS s.ev.idx with run := true, held := some t }) rfl
    (by simp [invariantAct, hheld, ht.head, ho.room])
    (((RoutesTokens.takeOne s ht).put ho.chan t rfl).setNodeS _) fun _ => by simp

end

/-! ## LOOP (R150) -/

/-- LOOP's count `i` of `total`, sent on an output port as the operator goes on or ends. -/
def Run.loopSend (s : State) (n : Nat) (run : Bool) (total i port v : Nat) (r : Run) : Run :=
  (r.setNodeS n { r.nodeS n with run := run, total := total, n := i }).put n port (.scalar (BitVec.ofNat 64 v)) (s.cycleOf r)

@[simp] theorem Run.nodeS_loopSend (s : State) (n : Nat) (run : Bool) (total i port v : Nat) (r : Run) :
    (r.loopSend s n run total i port v).nodeS n = { r.nodeS n with run := run, total := total, n := i } := by
  rw [Run.loopSend, Run.nodeS_put, Run.nodeS_setNodeS_self]

/-- LOOP takes one token and sends a count. -/
theorem loopAction_acts (h : RouterReady s r nd 4) {run : Bool} {total i v : Nat} {post : NodeS → Prop} (ht : r.HasInput s.ev.idx p c t)
    (ho : r.HasOutput s.ev.idx q o) (hact : loopAct s r s.ev.idx = s.acted r.id s.ev.idx fun r => (r.take s.ev.idx p).loopSend s s.ev.idx run total i q v)
    (hpost : ∀ x : NodeS, x.run = run → x.total = total → x.n = i → post x) : RouterActs s r .loopAction [c] (some (o, .scalar (BitVec.ofNat 64 v))) post :=
  have htake := RoutesTokens.takeOne s ht
  h.acts _ rfl hact ((htake.setNodeS _).put ho.chan _ htake.cycleOf) fun _ => hpost _ (by simp) (by simp) (by simp)

/-- LOOP in IDLE takes its count: 0 is sent on as the last one, and any other starts the iterations. -/
theorem loopAct_idle (hrun : (r.nodeS n).run = false) (ht : r.HasInput n 0 c t) :
    loopAct s r n =
      let total := (tokVal t).toNat % 2 ^ 32
      if total = 0 then (if r.room n 17 then s.acted r.id n fun r => (r.take n 0).loopSend s n false 0 0 17 0 else s)
      else if r.room n 16 then s.acted r.id n fun r => (r.take n 0).loopSend s n true total 0 16 0 else s := by
  simp only [loopAct, hrun, ht.head, Bool.not_false, if_true, Run.loopSend]

/-- LOOP in RUN of one done port takes its token and counts an iteration: below the total the next one starts, and else the total is sent on. -/
theorem loopAct_run {m : PortD} (hnd : r.node n = some nd) (hrun : (r.nodeS n).run = true)
    (hm : nd.ports.filter (fun p => decide (1 ≤ p.port) && decide (p.port ≤ 15)) = [m]) (ht : r.HasInput n m.port c t) :
    loopAct s r n =
      let st := r.nodeS n
      if st.n + 1 < st.total then (if r.room n 16 then s.acted r.id n fun r => (r.take n m.port).loopSend s n true st.total (st.n + 1) 16 (st.n + 1) else s)
      else if r.room n 17 then s.acted r.id n fun r => (r.take n m.port).loopSend s n false st.total (st.n + 1) 17 st.total else s := by
  simp only [loopAct, hrun, hnd, hm, ht.head, Bool.not_true, Bool.false_eq_true, if_false, Option.map_some, Option.getD_some, List.map_cons, List.map_nil, List.all_cons,
    List.all_nil, Option.isSome_some, Bool.and_true, if_true, List.foldl_cons, List.foldl_nil, Run.loopSend]

section
variable (h : RouterReady s r nd 4)
include h

/-- A count of 0 is sent on at once. -/
theorem loopAction_empty (hrun : (r.nodeS s.ev.idx).run = false) (ht : r.HasInput s.ev.idx 0 c t) (htotal : (tokVal t).toNat % 2 ^ 32 = 0)
    (ho : r.HasOutput s.ev.idx 17 o) : RouterActs s r .loopAction [c] (some (o, .scalar 0)) fun x => x.run = false :=
  loopAction_acts h (total := 0) (i := 0) (v := 0) ht ho (by simp only [loopAct_idle hrun ht, htotal, ho.room, if_true]) fun _ hx _ _ => hx

/-- Any other count starts the iterations with 0. -/
theorem loopAction_starts (hrun : (r.nodeS s.ev.idx).run = false) (ht : r.HasInput s.ev.idx 0 c t) (htotal : (tokVal t).toNat % 2 ^ 32 ≠ 0)
    (ho : r.HasOutput s.ev.idx 16 o) : RouterActs s r .loopAction [c] (some (o, .scalar 0))
      fun x => x.run = true ∧ x.total = (tokVal t).toNat % 2 ^ 32 ∧ x.n = 0 :=
  loopAction_acts h (v := 0) ht ho (by simp only [loopAct_idle hrun ht, htotal, ho.room, if_true, if_false]) fun _ hx ht hn => ⟨hx, ht, hn⟩

variable {m : PortD} (hrun : (r.nodeS s.ev.idx).run = true) (hm : nd.ports.filter (fun p => decide (1 ≤ p.port) && decide (p.port ≤ 15)) = [m])
  (ht : r.HasInput s.ev.idx m.port c t)
include hrun hm ht

/-- Below its total the next iteration starts. -/
theorem loopAction_goesOn (hlt : (r.nodeS s.ev.idx).n + 1 < (r.nodeS s.ev.idx).total) (ho : r.HasOutput s.ev.idx 16 o) :
    RouterActs s r .loopAction [c] (some (o, .scalar (BitVec.ofNat 64 ((r.nodeS s.ev.idx).n + 1)))) fun x => x.run = true ∧ x.n = (r.nodeS s.ev.idx).n + 1 :=
  loopAction_acts h (total := (r.nodeS s.ev.idx).total) ht ho (by simp only [loopAct_run h.node hrun hm ht, hlt, ho.room, if_true]) fun _ hx _ hn => ⟨hx, hn⟩

/-- The last iteration sends the total on. -/
theorem loopAction_ends (hle : (r.nodeS s.ev.idx).total ≤ (r.nodeS s.ev.idx).n + 1) (ho : r.HasOutput s.ev.idx 17 o) :
    RouterActs s r .loopAction [c] (some (o, .scalar (BitVec.ofNat 64 (r.nodeS s.ev.idx).total))) fun x => x.run = false :=
  loopAction_acts h (total := (r.nodeS s.ev.idx).total) (i := (r.nodeS s.ev.idx).n + 1) ht ho
    (by simp only [loopAct_run h.node hrun hm ht, Nat.not_lt.mpr hle, ho.room, if_true, if_false]) fun _ hx _ _ => hx

end

/-! ## The router operators together -/

/-- Settles O51: each action is the rule of its operator (`steerAct`, `mergeAct`, …) on tokens and slots that are there, and what it takes and sends is
composed of `Run.take` and `Run.put` (`RoutesTokens`). -/
theorem routerOperatorsAct : Obligations.RouterOperatorsAct := by
  intro s r n nd st acts isTrue input output hn hr hnd hk hmay hfree
  subst hn
  have ready {k : Nat} (hkind : nd.rkind = k) : RouterReady s r nd k := ⟨hr, hnd, hk, hkind, hmay, hfree⟩
  have hin {p c : Nat} {t : Token} (h : input p c t) : r.HasInput s.ev.idx p c t := ⟨h.1, h.2⟩
  have hout {p o : Nat} (h : output p o) : r.HasOutput s.ev.idx p o := ⟨h.1, h.2⟩
  have htrue (d : Token) : d.isTrue = isTrue d := d.isTrue_eq_tokVal
  refine ⟨fun c0 c1 d t o hkind hd ht ho => ?steer, fun c0 c1 d t o hkind hd ht ho => ?merge, fun hkind => ⟨?carryBegins, ?carryEnds, ?carryGoesOn⟩,
    fun hkind => ⟨?invariantBegins, ?invariantEnds, ?invariantGoesOn⟩, fun hkind => ⟨fun c0 t hrun ht => ⟨?loopEmpty, ?loopStarts⟩,
      fun p c1 t hrun hp ht => ⟨?loopGoesOn, ?loopEnds⟩⟩⟩
  case steer => exact steerAction_acts (hin hd) (ready hkind) (hin ht) (htrue d ▸ hout ho)
  case merge => exact mergeAction_acts (hin hd) (ready hkind) (htrue d ▸ hin ht) (hout ho)
  case carryBegins => exact fun c1 t o hrun ht ho => carryAction_begins (ready hkind) hrun (hin ht) (hout ho)
  case carryEnds => exact fun c0 d hrun hd hf => carryAction_ends (hin hd) (ready hkind) hrun ((htrue d).trans hf)
  case carryGoesOn =>
    exact fun c0 c2 d t o hrun hd hf ht ho => carryAction_goesOn (hin hd) (ready hkind) hrun ((htrue d).trans hf) (hin ht) (hout ho)
  case invariantBegins => exact fun c1 t o hheld ht ho => invariantAction_begins (ready hkind) hheld (hin ht) (hout ho)
  case invariantEnds => exact fun c0 d v hheld hd hf => invariantAction_ends (hin hd) (ready hkind) hheld ((htrue d).trans hf)
  case invariantGoesOn => exact fun c0 d v o hheld hd hf ho => invariantAction_goesOn (hin hd) (ready hkind) hheld ((htrue d).trans hf) (hout ho)
  case loopEmpty => exact fun o htotal ho => loopAction_empty (ready hkind) hrun (hin ht) htotal (hout ho)
  case loopStarts => exact fun o htotal ho => loopAction_starts (ready hkind) hrun (hin ht) htotal (hout ho)
  case loopGoesOn => exact fun o hlt ho => loopAction_goesOn (ready hkind) hrun hp (hin ht) hlt (hout ho)
  case loopEnds => exact fun o hle ho => loopAction_ends (ready hkind) hrun hp (hin ht) hle (hout ho)

end Sys2Proof.Machine
end

section
namespace Sys2Proof.Machine
variable {s : State} {cid : Nat} {r : Run}

/-! ## The token of an instruction fault (R327) -/

/-- Bytes 16 to 63 of an instruction fault, field by field. -/
theorem fltBody_fields (word : Word) (pc node : Nat) (held : Bool) (addr info : Nat) (fireno : Word) (cycle : Nat) :
    let b := fltBody word pc node held addr info fireno cycle
    let field (lo n : Nat) : Nat := leNat ((b.drop (lo - 16)).take n)
    b.length = 48 ∧ field 16 8 = word.toNat ∧ field 24 4 = pc % 2 ^ 32 ∧ field 28 2 = node % 2 ^ 16 ∧ field 30 1 = held.toNat ∧ field 31 1 = 0 ∧
      field 32 8 = addr % 2 ^ 64 ∧ field 40 8 = info % 2 ^ 64 ∧ field 48 8 = fireno.toNat ∧ field 56 8 = cycle % 2 ^ 64 := by
  intro b field
  have hword (w : Word) : leNat (natLe 8 w.toNat) = w.toNat := (leNat_natLe ..).trans (Nat.mod_eq_of_lt w.isLt)
  refine ⟨rfl, hword word, leNat_natLe 4 pc, leNat_natLe 2 node, ?held, rfl, leNat_natLe 8 addr, leNat_natLe 8 info, hword fireno, leNat_natLe 8 cycle⟩
  case held => cases held <;> rfl

/-- Bytes 48 to 55 hold SEGID in a segment, FIRENO elsewhere. -/
theorem Ctx.toNat_workNo (c : Ctx) : c.workNo.toNat = if c.role.isSeg then c.segid % 2 ^ 64 else c.fireno.toNat := by
  unfold Ctx.workNo
  split
  · exact BitVec.toNat_ofNat ..
  · rfl

theorem faultTokenHoldsItsFields : FaultTokenHoldsItsFields := by
  intro s cid code word pc info addr held f c field
  obtain ⟨hlen, hword, hpc, hnode, hheld, hzero, haddr, hinfo, hwork, hcycle⟩ :=
    fltBody_fields word pc c.role.node held addr info c.workNo (s.cycle (coreOf cid))
  exact ⟨rfl, hlen, hword, hpc, hnode, hheld, hzero, haddr, hinfo, hwork.trans c.toNat_workNo, hcycle, rfl, rfl⟩

/-! ## The taking of a fault (R215, R326, R328, R329, R334, R344) -/

/-- The run a context works for is the one of its number. -/
theorem State.run_of_ctxRun (hr : s.ctxRun cid = some r) : s.run r.id = some r := by
  obtain ⟨rid, -, hrun⟩ := Option.bind_eq_some_iff.mp hr
  rw [State.id_of_run hrun, hrun]

/-- A graph without a handler entry has no node of the handler subgraph. -/
theorem Graph.handlerNodes_of_none {g : Graph} (h : g.handler = none) : g.handlerNodes = [] := by simp only [Graph.handlerNodes, h]

/-- A halt stops a region that runs. -/
theorem State.run_haltRun {rid : Nat} (hr : s.run rid = some r) (code : Nat) :
    ∃ x, (s.haltRun rid code).run rid = some x ∧ (r.st = .running → x.st = .halted code) := by
  refine ⟨_, State.run_modRun_self hr ?_, fun hst => ?_⟩
  · split <;> rfl
  · simp only [hst]

/-- A run that waits for a pause asks for nothing else; with no cut in progress it waits for it. -/
theorem Run.askCut_pause_spec (r : Run) : (r.askCut .pause).id = r.id ∧ (r.askCut .pause).st = r.st ∧ (r.cut = none → (r.askCut .pause).cutReq = some .pause) := by
  unfold Run.askCut
  split
  · next h => exact ⟨rfl, rfl, fun hc => by simp [hc] at h⟩
  · refine ⟨rfl, rfl, fun _ => ?_⟩
    cases r.cutReq with
    | none => rfl
    | some o => cases o <;> rfl

/-- A fault is taken: a context in an uncertain segment withholds it, any other delivers it. -/
def State.take (s : State) (cid : Nat) (f : Flt) : State :=
  if (s.ctx cid).uncertain then s.modCtx cid fun c => { c with withheld := some f, park := some (Park.of .spec) } else s.deliver cid f

/-- Whoever takes a fault, no other context, no core and no byte of DRAM changes. -/
theorem State.take_frame (s : State) (cid : Nat) (f : Flt) : (∀ k, k ≠ cid → (s.take cid f).ctx k = s.ctx k) ∧ (s.take cid f).dram = s.dram ∧ (s.take cid f).cores = s.cores := by
  have hdeliver : (s.deliver cid f).dram = s.dram ∧ (s.deliver cid f).cores = s.cores := by
    simp only [State.deliver]
    (repeat' split) <;> exact ⟨rfl, rfl⟩
  unfold State.take
  split
  · exact ⟨fun k hk => State.ctx_modCtx_other _ _ hk, rfl, rfl⟩
  · exact ⟨fun k hk => State.ctx_deliver_other _ _ hk, hdeliver⟩

/-- An uncertain segment withholds its fault, and parks. -/
theorem State.take_withheld (hu : (s.ctx cid).uncertain = true) (f : Flt) :
    (s.take cid f).flue = s.flue ∧ (s.take cid f).ctx cid = { s.ctx cid with withheld := some f, park := some (Park.of .spec) } ∧
      (s.take cid f).runs = s.runs := by
  rw [State.take, if_pos hu]
  exact ⟨rfl, State.ctx_modCtx_self .., rfl⟩

theorem State.take_delivers (hu : (s.ctx cid).uncertain = false) (f : Flt) : s.take cid f = s.deliver cid f := by
  rw [State.take, hu]
  rfl

/-- What TRAP, BREAK and STEP write into their context as they are taken (R344). -/
def Ctx.noting (code : Nat) (c : Ctx) : Ctx := { c with last := BitVec.ofNat 8 code, bphit := 0 }

section
variable (hr : s.ctxRun cid = some r)
include hr

theorem State.raiseAt_eq (code : Nat) (word : Word) (pc info addr : Nat) :
    let f := s.mkFlt cid code word pc info addr (r.graph.handler.isSome && !r.graph.handlerNodes.contains (s.ctx cid).role.node)
    s.raiseAt cid code word pc info addr = if code ∈ [0x0F, 0x10, 0x11] then (s.modCtx cid (Ctx.noting code)).take cid f else s.take cid f := by
  intro f
  unfold State.raiseAt
  rw [hr]
  by_cases hc : code ∈ [0x0F, 0x10, 0x11]
  · have hb : (code == 0x0F || code == 0x10 || code == 0x11) = true := by simpa [or_assoc] using hc
    rw [if_pos hc, hb]
    rfl
  · have hb : (code == 0x0F || code == 0x10 || code == 0x11) = false := by simpa [and_assoc] using hc
    rw [if_neg hc, hb]
    rfl

variable (hu : (s.ctx cid).uncertain = false)
include hu

/-- A fault of the handler subgraph, and one other than BREAK and STEP of a region without a handler, halts the region. -/
theorem State.take_halts {f : Flt}
    (h : r.graph.handlerNodes.contains (s.ctx cid).role.node = true ∨ r.graph.handler = none ∧ f.code ≠ 0x0F ∧ f.code ≠ 0x10) :
    (s.take cid f).flue = s.flue ++ [{ f with run := none, held := none }] ∧ (s.take cid f).ctx cid = s.ctx cid ∧
      ∃ x, (s.take cid f).run r.id = some x ∧ (r.st = .running → x.st = .halted f.code) := by
  have heq : s.take cid f = (s.onFlue { f with run := none, held := none }).haltRun r.id f.code := by
    rw [State.take_delivers hu]
    simp only [State.deliver, hr]
    rcases h with hown | ⟨hnone, hF, h10⟩
    · rw [if_pos hown]
    · simp [Graph.handlerNodes_of_none hnone, hnone, hF, h10]
  rw [heq]
  exact ⟨rfl, rfl, State.run_haltRun (s := s.onFlue { f with run := none, held := none }) (State.run_of_ctxRun hr) f.code⟩

/-- With a handler, the context of any other fault is held at its word. -/
theorem State.take_holds (hh : r.graph.handler.isSome = true) (hown : r.graph.handlerNodes.contains (s.ctx cid).role.node = false) (f : Flt) :
    let f' := { f with run := some r.id, held := some cid }
    (s.take cid f).flue = s.flue ++ [f'] ∧ (s.take cid f).ctx cid = { s.ctx cid with held := some f', park := some (Park.of .held) } ∧
      (s.take cid f).runs = s.runs := by
  intro f'
  have heq : s.take cid f = (s.setCtx cid { s.ctx cid with held := some f', park := some (Park.of .held) }).onFlue f' := by
    rw [State.take_delivers hu]
    simp only [State.deliver, hr]
    rw [if_neg (ne_true_of_eq_false hown), if_pos hh]
  rw [heq]
  exact ⟨rfl, State.ctx_setCtx_self .., rfl⟩

/-- BREAK and STEP of a region without a handler pause it: a BRK that has issued lies behind its context (assumption 22). -/
theorem State.take_pauses (hh : r.graph.handler = none) {f : Flt} (hf : f.code = 0x0F ∨ f.code = 0x10) :
    let c := s.ctx cid
    (s.take cid f).flue = s.flue ++ [{ f with run := none, held := none }] ∧
      (s.take cid f).ctx cid = { c with park := some (Park.of .held), pc := if f.code = 0x0F ∧ c.skip = false then c.pc + 8 else c.pc } ∧
      ∃ x, (s.take cid f).run r.id = some x ∧ x.st = r.st ∧ (r.cut = none → x.cutReq = some .pause) := by
  intro c
  have heq : s.take cid f = ((s.setCtx cid { c with park := some (Park.of .held), pc := if f.code == 0x0F && !c.skip then c.pc + 8 else c.pc }).onFlue
      { f with run := none, held := none }).modRun r.id fun r => r.askCut .pause := by
    rw [State.take_delivers hu]
    simp only [State.deliver, hr, Graph.handlerNodes_of_none hh, hh]
    rcases hf with hf | hf <;> simp [hf, c]
  obtain ⟨hid, hst, hcut⟩ := r.askCut_pause_spec
  rw [heq]
  have hrun : s.run r.id = some r := State.run_of_ctxRun hr
  exact ⟨rfl, (State.ctx_setCtx_self ..).trans (by simp), _, State.run_modRun_self hrun hid, hst, hcut⟩
end

theorem faultsAreTaken : FaultsAreTaken := by
  intro s cid code word pc info addr r hr hcode c own f t
  have ht : t = s.take cid f := (State.raiseAt_eq hr ..).trans (if_neg hcode)
  have hcodes : f.code ≠ 0x0F ∧ f.code ≠ 0x10 := by
    simp only [List.mem_cons, not_or] at hcode
    exact ⟨hcode.1, hcode.2.1⟩
  rw [ht]
  exact ⟨fun hu => State.take_withheld hu f, fun hu h => State.take_halts hr hu (h.symm.imp_right fun hn => ⟨hn, hcodes⟩),
    fun hu hh hown => State.take_holds hr hu hh hown f, s.take_frame cid f⟩

theorem trapsAndBreaksAreTaken : TrapsAndBreaksAreTaken := by
  intro s cid code word pc info addr r hr hcode c own f t
  let s1 := s.modCtx cid (Ctx.noting code)
  have ht : t = s1.take cid f := (State.raiseAt_eq hr ..).trans (if_pos hcode)
  have hr1 : s1.ctxRun cid = some r := (State.ctxRun_modCtx s cid cid (Ctx.noting code) rfl).trans hr
  have hc : s1.ctx cid = c := State.ctx_modCtx_self ..
  have hown : r.graph.handlerNodes.contains (s1.ctx cid).role.node = own := by rw [hc]
  have hpause : code ≠ 0x11 → code = 0x0F ∨ code = 0x10 := fun hne => by simpa [hne] using hcode
  obtain ⟨hothers, hdram, hcores⟩ := s1.take_frame cid f
  rw [ht, ← hown, ← hc]
  refine ⟨fun hu => State.take_withheld hu f, fun hu h => State.take_halts hr1 hu (h.imp_right ?trap), fun hu hh hown => State.take_holds hr1 hu hh hown f,
    fun hu hh _ hne => State.take_pauses hr1 hu hh (hpause hne), fun k hk => (hothers k hk).trans (State.ctx_modCtx_other _ _ hk), hdram, hcores⟩
  case trap =>
    rintro ⟨hnone, htrap⟩
    exact ⟨hnone, by rw [show f.code = 0x11 from htrap]; decide, by rw [show f.code = 0x11 from htrap]; decide⟩

/-- Settles O21: the token field by field (`fltBody_fields`), and the taking by the four things that can become of a fault (`State.take`). -/
theorem faultsCarryTheirFieldsAndAreTaken : Obligations.FaultsCarryTheirFieldsAndAreTaken :=
  ⟨faultTokenHoldsItsFields, faultsAreTaken, trapsAndBreaksAreTaken⟩

end Sys2Proof.Machine
end

section
namespace Sys2Proof.Machine
variable {s t u : State} {cid : Nat} {h : Hdr} {r : Run}

/-! ## What a word's outcome leaves of the contexts and the memories -/

theorem sameMemories_trans (a : SameMemories s t cid) (b : SameMemories t u cid) : SameMemories s u cid := by
  obtain ⟨hctx, hdram, hcore⟩ := a
  obtain ⟨hctx', hdram', hcore'⟩ := b
  refine ⟨fun k hk => (hctx' k hk).trans (hctx k hk), hdram'.trans hdram, fun k => ?_⟩
  obtain ⟨hm, hf, ha, ht⟩ := hcore k
  obtain ⟨hm', hf', ha', ht'⟩ := hcore' k
  exact ⟨hm'.trans hm, hf'.trans hf, ha'.trans ha, ht'.trans ht⟩

/-- A change of one context reaches no memory and no other context. -/
theorem sameMemories_modCtx (s : State) (cid : Nat) (f : Ctx → Ctx) : SameMemories s (s.modCtx cid f) cid :=
  ⟨fun _ hk => State.ctx_modCtx_other _ _ hk, rfl, fun _ => ⟨rfl, rfl, rfl, rfl⟩⟩

theorem sameMemories_modRun (s : State) (cid id : Nat) (f : Run → Run) : SameMemories s (s.modRun id f) cid :=
  ⟨fun _ _ => rfl, rfl, fun _ => ⟨rfl, rfl, rfl, rfl⟩⟩

theorem sameMemories_countIssue (s : State) (cid : Nat) (sw : Bool) : SameMemories s (s.countIssue cid sw) cid := by
  refine ⟨fun _ _ => rfl, rfl, fun k => ?_⟩
  by_cases hk : k = coreOf cid
  · subst hk
    rw [State.core_countIssue_self]
    exact Core.counted_memories ..
  · rw [State.core_countIssue_other _ _ _ hk]
    exact ⟨rfl, rfl, rfl, rfl⟩

theorem sameMemories_parkCtx (s : State) (cid : Nat) (k : Park) : SameMemories s (s.parkCtx cid k) cid :=
  ⟨fun _ hk => State.ctx_parkCtx_other _ _ _ hk, rfl, fun _ => ⟨rfl, rfl, rfl, rfl⟩⟩

section
variable (s0 t : State) (cid : Nat) (h : Hdr)

theorem sameMemories_settle_next : SameMemories t (settle s0 cid h (.next t)) cid :=
  sameMemories_trans (sameMemories_trans (sameMemories_modCtx ..) (sameMemories_countIssue ..)) (sameMemories_modCtx ..)

theorem sameRegs_settle_next : SameRegs (t.ctx cid) ((settle s0 cid h (.next t)).ctx cid) := by
  rw [ctx_settle_next_self]
  exact ⟨rfl, rfl, rfl, rfl, rfl, rfl, rfl, rfl, rfl, rfl, rfl⟩

theorem sameMemories_settle_wait (k : Park) : SameMemories t (settle s0 cid h (.wait t k)) cid :=
  sameMemories_trans (sameMemories_trans (sameMemories_trans (sameMemories_modCtx ..) (sameMemories_parkCtx ..)) (sameMemories_countIssue ..))
    (sameMemories_modCtx ..)

theorem sameMemories_settle_park (k : Park) : SameMemories t (settle s0 cid h (.park t k)) cid :=
  sameMemories_trans (sameMemories_trans (sameMemories_parkCtx ..) (sameMemories_modCtx ..)) (sameMemories_countIssue ..)

/-- The context after a word that parks without an effect, to issue afresh. -/
theorem ctx_settle_park_self (k : Park) : (settle s0 cid h (.park t k)).ctx cid =
    { t.ctx cid with
      gap := 1, skip := (t.ctx cid).skip || s0.skipped, park := some { k with order := t.parkPlace cid k, since := t.cycle (coreOf cid) } } := by
  rw [settle, State.ctx_countIssue, State.ctx_modCtx_self, State.ctx_parkCtx_self]

theorem State.runs_parkCtx (s : State) (cid : Nat) (k : Park) : (s.parkCtx cid k).runs = s.runs := rfl

theorem run_settle_wait (k : Park) (id : Nat) : (settle s0 cid h (.wait t k)).run id = t.run id := by
  refine State.run_of_runs ?_ id
  simp only [settle, State.noteIssue, State.countIssue, State.advance, State.modCtx_runs, State.modCore_runs, State.runs_parkCtx]

theorem run_settle_park (k : Park) (id : Nat) : (settle s0 cid h (.park t k)).run id = t.run id := by
  refine State.run_of_runs ?_ id
  simp only [settle, State.countIssue, State.modCtx_runs, State.modCore_runs, State.runs_parkCtx]
end

/-! ## A context that nothing holds back -/

theorem Ctx.uncertain_of_op {c : Ctx} (hop : c.role.isOp = true) : c.uncertain = false := by
  unfold Ctx.uncertain
  cases hr : c.role with
  | op => rfl
  | idle => rfl
  | seg => rw [hr] at hop; exact absurd hop Bool.false_ne_true

/-- The effects of an operator that has none to drain are not buffered. -/
theorem State.buffers_of_op (hop : (s.ctx cid).role.isOp = true) (hown : s.ownEntries cid = []) : s.buffers cid = false := by
  rw [State.buffers, Ctx.uncertain_of_op hop, State.draining, hown]
  rfl

/-- An operator comes after no spawner's writes. -/
theorem State.afterOf_of_op (hop : (s.ctx cid).role.isOp = true) : s.afterOf cid = [] := by
  unfold State.afterOf
  cases hr : (s.ctx cid).role with
  | op => rfl
  | idle => rfl
  | seg => rw [hr] at hop; exact absurd hop Bool.false_ne_true

theorem State.behindRing_of_after (ha : s.afterOf cid = []) (ring : Nat) : s.behindRing cid ring = false := by
  rw [State.behindRing, ha]
  rfl

theorem State.acquiring_eq_false (hacq : ∀ q ∈ (s.core (coreOf cid)).wq, q.cid = cid → q.acq = false) : s.acquiring cid = false :=
  List.any_eq_false.mpr fun q hq => by
    by_cases hc : q.cid = cid
    · simp [hacq q hq hc]
    · simp [hc]

/-! ## Bytes of a number in memory -/

theorem getD_natLe {n i : Nat} (hi : i < n) (w : Nat) : (natLe n w).getD i 0 = BitVec.ofNat 8 (w / 2 ^ (8 * i)) := by
  induction n generalizing i w with
  | zero => omega
  | succ n ih =>
    rw [natLe]
    cases i with
    | zero => apply BitVec.eq_of_toNat_eq; simp
    | succ i =>
      rw [List.getD_cons_succ, ih (by omega), Nat.div_div_eq_div_mul, Nat.mul_succ, Nat.pow_add, Nat.mul_comm]

/-- A number written to memory stands there byte by byte, and every other byte is as before. -/
theorem mget_mwrite_natLe (m : Memory) (a n w : Nat) :
    (∀ i, i < n → mget (mwrite m a (natLe n w)) (a + i) = BitVec.ofNat 8 (w / 2 ^ (8 * i))) ∧
      ∀ x, x < a ∨ a + n ≤ x → mget (mwrite m a (natLe n w)) x = mget m x := by
  refine ⟨fun i hi => ?_, fun x hx => ?_⟩
  · rw [mget_mwrite, length_natLe, if_pos ⟨by omega, by omega⟩, Nat.add_sub_cancel_left, getD_natLe hi]
  · rw [mget_mwrite, length_natLe, if_neg (by omega)]

/-! ## Rings (R217-R219) -/

theorem foldl_max_lt {l : List Nat} {f : Nat → Nat} {a m : Nat} : l.foldl (fun b c => Nat.max b (f c)) a < m ↔ a < m ∧ ∀ x ∈ l.map f, x < m := by
  induction l generalizing a with
  | nil => simp
  | cons c l ih => rw [List.foldl_cons, ih]; simp [and_assoc]

/-- What each consumer of a ring has still to pass. -/
def Ring.held (g : Ring) : List Nat := (List.range g.ncons).map fun j => (g.pushed - tget 0 g.cur j).toNat

/-- A ring has room where no consumer has a whole ring to pass. -/
theorem Ring.depth_lt_slots {g : Ring} : g.depth < g.slots ↔ ∀ x ∈ g.held, x < 2 ^ g.logn := by
  unfold Ring.depth
  exact foldl_max_lt.trans (and_iff_right (Nat.two_pow_pos _))

/-- The ring of a number in a run. -/
def State.ringAt (s : State) (rid n : Nat) : Option Ring := (s.run rid).bind fun r => r.rings.find? fun g => g.id == n

theorem State.ringAt_of_run {rid n : Nat} {g : Ring} (hr : s.run rid = some r) (hg : r.ring n = some g) : s.ringAt rid n = some g := by
  rw [State.ringAt, hr]
  exact hg

theorem Run.id_of_ring {n : Nat} {g : Ring} (hg : r.ring n = some g) : g.id = n := by simpa using List.find?_some hg

/-- The ring that a change finds is the changed one, where the change keeps its number. -/
theorem State.ringAt_modRing {rid n : Nat} {g : Ring} {f : Ring → Ring} (hg : s.ringAt rid n = some g) (hf : (f g).id = g.id) :
    (s.modRing rid n f).ringAt rid n = some (f g) := by
  obtain ⟨r, hr, hg⟩ := Option.bind_eq_some_iff.mp hg
  have hid : (f g).id = n := hf.trans (Run.id_of_ring hg)
  rw [State.ringAt, State.modRing, State.run_modRun_self hr (by rfl)]
  exact find?_replaceFirst hg (beq_iff_eq.mpr hid)

theorem sameMemories_modRing (s : State) (cid rid n : Nat) (f : Ring → Ring) : SameMemories s (s.modRing rid n f) cid := sameMemories_modRun ..

theorem sameMemories_touchBank (s : State) (cid core bank node : Nat) : SameMemories s (s.touchBank core bank node) cid := by
  refine ⟨fun _ _ => rfl, rfl, fun k => ?_⟩
  rw [State.touchBank, State.core_modCore]
  split
  · next hk => rw [hk]; exact ⟨rfl, rfl, rfl, rfl⟩
  · exact ⟨rfl, rfl, rfl, rfl⟩

theorem State.ringAt_of_runs (hr : t.runs = s.runs) (rid n : Nat) : t.ringAt rid n = s.ringAt rid n := by
  rw [State.ringAt, State.run_of_runs hr, State.ringAt]

theorem State.ctx_modRing (s : State) (rid n k : Nat) (f : Ring → Ring) : (s.modRing rid n f).ctx k = s.ctx k := State.ctx_modRun ..

theorem State.ctx_pushRing (s : State) (rid k : Nat) (g : Ring) (tk : Token) : (s.pushRing rid g tk).ctx k = s.ctx k := by
  simp only [State.pushRing, State.touchBank, State.ctx_modRing, State.ctx_modCore]

theorem State.dram_pushRing (s : State) (rid : Nat) (g : Ring) (tk : Token) : (s.pushRing rid g tk).dram = s.dram := by
  simp only [State.pushRing, State.modRing, State.touchBank, State.modRun_dram, State.modCore_dram]

/-- The ring unit puts an item into the slot after the newest. -/
theorem State.mem_pushRing (s : State) (rid : Nat) (g : Ring) (tk : Token) :
    ((s.pushRing rid g tk).core g.core).mem = mwrite (s.core g.core).mem g.pushAddr (natLe g.slotBytes (tokVal tk).toNat) := by
  rw [State.pushRing, State.modRing, State.core_modRun, State.core_modCore_self, State.touchBank, State.core_modCore_self]

theorem State.ringAt_pushRing {rid : Nat} {g g0 : Ring} (hg : s.ringAt rid g.id = some g0) (tk : Token) :
    (s.pushRing rid g tk).ringAt rid g.id = some g0.push :=
  State.ringAt_modRing ((State.ringAt_of_runs rfl ..).trans hg) rfl

/-- An operator of a run issues a word of rings that nothing holds back: no effect of its own is to drain, no acquire of its own is under way, and no bank
of its core has been taken in this cycle. -/
structure RingReady (s : State) (cid : Nat) (h : Hdr) (r : Run) : Prop where
  issues : Issues s cid h [(0, 9)] 1
  run : s.ctxRun cid = some r
  op : (s.ctx cid).role.isOp = true
  own : s.ownEntries cid = []
  acquires : ∀ q ∈ (s.core (coreOf cid)).wq, q.cid = cid → q.acq = false
  banks : (s.core (coreOf cid)).banksBusy = []

namespace RingReady
variable (w : RingReady s cid h r)
include w

theorem ringAt {n : Nat} {g : Ring} (hg : r.ring n = some g) : s.ringAt r.id n = some g :=
  State.ringAt_of_run (State.run_of_ctxRun w.run) hg

theorem bankBusy_eq_false (x : Nat) : s.bankBusy (coreOf cid) x = false := by
  rw [State.bankBusy, w.banks]
  rfl

theorem rpush (a : Reg) (v : Bool) (ring : BitVec 4) : Takes (.rpush h a v ring) s cid h (rpushBody a v ring.toNat s cid) :=
  (w.issues.fewer (Nat.zero_le 1)).runs _

theorem rinit (a : Reg) (ring : BitVec 4) : Takes (.rinit h a ring) s cid h (rinitBody a ring.toNat s cid) := by
  rw [← certain_of_operator (body := rinitBody a ring.toNat) w.op w.own]
  exact (w.issues.fewer (Nat.zero_le 1)).runs _

theorem rpop (d : Reg) (v : Bool) (ring : BitVec 4) (k : BitVec 3) :
    Takes (.rpop h d v ring k) s cid h (rpopBody true d v ring.toNat k.toNat s cid) := by
  rw [← certain_of_operator (body := rpopBody true d v ring.toNat k.toNat) w.op w.own]
  exact w.issues.parks _

theorem rpeek (d : Reg) (v : Bool) (ring : BitVec 4) (k : BitVec 3) :
    Takes (.rpeek h d v ring k) s cid h (rpopBody false d v ring.toNat k.toNat s cid) := by
  rw [← certain_of_operator (body := rpopBody false d v ring.toNat k.toNat) w.op w.own]
  exact w.issues.parks _

theorem rcur (d : Reg) (ring : BitVec 4) (k : BitVec 3) : Takes (.rcur h d ring k) s cid h (rcurBody d ring.toNat k.toNat s cid) := by
  rw [← certain_of_operator (body := rcurBody d ring.toNat k.toNat) w.op w.own]
  exact w.issues.runs _

/-- A number that names no ring raises RING, but for RINIT. -/
theorem traps_of_missing {ring : BitVec 4} (hg : r.ring ring.toNat = none) (a d : Reg) (v : Bool) (k : BitVec 3) :
    Traps (.rpush h a v ring) s cid h 0x0D ring.toNat 0 ∧ Traps (.rpop h d v ring k) s cid h 0x0D ring.toNat 0 ∧
      Traps (.rpeek h d v ring k) s cid h 0x0D ring.toNat 0 ∧ Traps (.rcur h d ring k) s cid h 0x0D ring.toNat 0 := by
  have hread (file : Option Bool) : ringRead s cid r ring.toNat k.toNat file = none := by simp only [ringRead, hg]
  have hpop (pop : Bool) : rpopBody pop d v ring.toNat k.toNat s cid = .trap 0x0D ring.toNat 0 := by simp only [rpopBody, w.run, hread]
  refine ⟨?push, ?pop, ?peek, ?cur⟩
  case push => rw [Traps, show Eff.trap 0x0D ring.toNat 0 = rpushBody a v ring.toNat s cid by simp only [rpushBody, w.run, hg]]; exact w.rpush ..
  case pop => rw [Traps, ← hpop true]; exact w.rpop ..
  case peek => rw [Traps, ← hpop false]; exact w.rpeek ..
  case cur => rw [Traps, show Eff.trap 0x0D ring.toNat 0 = rcurBody d ring.toNat k.toNat s cid by simp only [rcurBody, w.run, hread]]; exact w.rcur ..

/-! ### RINIT (R217, R438) -/

theorem rinit_of_present {ring : BitVec 4} {g : Ring} (hg : r.ring ring.toNat = some g) (a : Reg) : Traps (.rinit h a ring) s cid h 0x0D ring.toNat 0 := by
  have hbody : rinitBody a ring.toNat s cid = .trap 0x0D ring.toNat 0 := by simp only [rinitBody, w.run, hg]
  rw [Traps, ← hbody]
  exact w.rinit a ring

/-- RINIT with a descriptor in range adds its ring to the run. -/
theorem rinit_of_range {ring : BitVec 4} {a : Reg} {g : Ring} (hg : r.ring ring.toNat = none)
    (hd : ringOf ring.toNat (coreOf cid) (s.ctx cid).role.node ((s.ctx cid).xr a).toNat = some g) :
    ∃ t r', exec (.rinit h a ring) s = .next t ∧ t.run r.id = some r' ∧ r'.rings = r.rings ++ [g] := by
  have hexec := w.rinit a ring
  simp only [Takes, rinitBody, w.run, hg, hd] at hexec
  exact ⟨_, _, hexec, (run_settle_next ..).trans (State.run_modRun_self (State.run_of_ctxRun w.run) (by rfl)), rfl⟩

end RingReady

/-- The descriptor of a ring in range (R217, R218). -/
theorem ringOf_of_fields {id core node base logn lwm k x : Nat} {v : Bool} (h1 : 1 ≤ logn) (h8 : logn ≤ 8) (hl : lwm < 2 ^ logn)
    (halign : base % (if v then 256 else 8) = 0) (hfits : base + (if v then 256 else 8) * 2 ^ logn ≤ 0x80000) (hb : base < 0x80000) (hk : k < 8)
    (hx : x = base + (if v then 2 ^ 19 else 0) + logn * 2 ^ 20 + k * 2 ^ 24 + lwm * 2 ^ 27) :
    ringOf id core node x = some
      { id := id, core := core, node := node, vec := v, logn := logn, ncons := k + 1, lwm := if lwm = 0 then 2 ^ logn / 2 else lwm, base := base, pushed := 0
        cur := [], seqs := [], full := false, parked := [], late := [], arriving := [] } := by
  have hsize : 2 ≤ 2 ^ logn ∧ 2 ^ logn ≤ 256 := ⟨Nat.pow_le_pow_right (n := 2) Nat.two_pos h1, Nat.pow_le_pow_right (n := 2) Nat.two_pos h8⟩
  have hbit : (if v then 2 ^ 19 else 0) = v.toNat * 2 ^ 19 ∧ v.toNat ≤ 1 := by cases v <;> decide
  obtain ⟨hbase, hvec, hlogn, hcons, hlwm, hwide⟩ : bits x 0 19 = base ∧ x / 2 ^ 19 % 2 = v.toNat ∧ bits x 20 4 = logn ∧ bits x 24 3 = k ∧
      bits x 27 9 = lwm ∧ x < 2 ^ 36 := by
    simp only [bits]
    omega
  have hvec : bitAt x 19 = v := by rw [bitAt, hvec]; cases v <;> rfl
  have hmark : (if lwm = 0 then 2 ^ logn / 2 else lwm) < 2 ^ logn := by split <;> omega
  unfold ringOf
  simp only [hvec, hlogn, hcons, hlwm, hbase, Ring.slotBytes, Ring.bytes]
  rw [if_neg]
  simp only [Bool.or_eq_true, decide_eq_true_eq, not_or]
  omega


/-! ### RPUSH (R218, R219, R438) -/

/-- A ring that a context waits for no more. -/
def Ring.without (g : Ring) (cid : Nat) : Ring := { g with parked := g.parked.filter fun c => c != cid }

/-- A ring to which an item travels. -/
def Ring.awaits (g : Ring) (cid : Nat) (tk : Token) : Ring := { g with arriving := g.arriving ++ [(cid, tk)] }

/-- A ring at whose overflow a context parks. -/
def Ring.overflows (g : Ring) (cid : Nat) : Ring := { g with full := true, parked := g.parked ++ [cid] }

/-- The slot after the newest of a ring holds an item, and every other byte of the ring's core is as before. -/
def RingStores (s t : State) (g : Ring) (item : Nat) : Prop :=
  (∀ i, i < g.slotBytes → mget (t.core g.core).mem (g.pushAddr + i) = BitVec.ofNat 8 (item / 2 ^ (8 * i))) ∧
    ∀ x, x < g.pushAddr ∨ g.pushAddr + g.slotBytes ≤ x → mget (t.core g.core).mem x = mget (s.core g.core).mem x

theorem RingStores.of_mem {g : Ring} {item : Nat} (h : (t.core g.core).mem = mwrite (s.core g.core).mem g.pushAddr (natLe g.slotBytes item)) :
    RingStores s t g item := by
  rw [RingStores, h]
  exact mget_mwrite_natLe ..

theorem toNat_tokVal_regTok (c : Ctx) (v : Bool) (a : Reg) : (tokVal (regTok c v a)).toNat = if v then (c.vr a).toNat else (c.xr a).toNat := by
  cases v with
  | true => rfl
  | false => exact BitVec.toNat_setWidth_of_le (by decide)

namespace RingReady
section
variable {ring : BitVec 4} {g : Ring} (w : RingReady s cid h r) (hg : r.ring ring.toNat = some g)
include w hg

/-- RPUSH on a ring of its file, nothing being in its way: it parks on a full ring, is accepted by a ring of its core, and travels to any other. -/
theorem rpushBody_eq (a : Reg) : rpushBody a g.vec ring.toNat s cid =
    if g.slots ≤ g.depth then
      .park ((s.modRing r.id ring.toNat (·.without cid)).modRing r.id ring.toNat (·.overflows cid)) { Park.of .ringFull with a := ring.toNat }
    else if g.core = coreOf cid then
      .next ((s.modRing r.id ring.toNat (·.without cid)).pushRing r.id g (regTok (s.ctx cid) g.vec a))
    else .wait ((s.modRing r.id ring.toNat (·.without cid)).modRing r.id ring.toNat (·.awaits cid (regTok (s.ctx cid) g.vec a)))
      { Park.of .ringRemote with a := ring.toNat } := by
  have hfree : (decide (g.core = coreOf cid) && decide (g.depth < g.slots) && s.bankBusy g.core g.pushAddr) = false := by
    by_cases hc : g.core = coreOf cid
    · rw [hc, w.bankBusy_eq_false, Bool.and_false]
    · simp [hc]
  simp only [rpushBody, w.run, hg, bne_self_eq_false, Bool.false_eq_true, if_false, State.acquiring_eq_false w.acquires,
    State.behindRing_of_after (State.afterOf_of_op w.op), State.buffers_of_op w.op w.own, hfree]
  rfl

/-- A ring of the context's own core with room takes the item at once. -/
theorem rpush_accepted (hroom : g.depth < g.slots) (hc : g.core = coreOf cid) (a : Reg) :
    ∃ t g', exec (.rpush h a g.vec ring) s = .next t ∧ RingStores s t g (if g.vec then ((s.ctx cid).vr a).toNat else ((s.ctx cid).xr a).toNat) ∧
      t.ringAt r.id ring.toNat = some g' ∧ g'.pushed = g.pushed + 1 ∧ g'.cur = g.cur ∧ SameRegs (s.ctx cid) (t.ctx cid) ∧
      (t.ctx cid).pc = (s.ctx cid).pc + 8 ∧ (∀ j, j ≠ cid → t.ctx j = s.ctx j) ∧ t.dram = s.dram := by
  have hexec := w.rpush a g.vec ring
  rw [Takes, w.rpushBody_eq hg, if_neg (Nat.not_le.mpr hroom), if_pos hc] at hexec
  have hid := Run.id_of_ring hg
  have hat := State.ringAt_modRing (f := (·.without cid)) (w.ringAt hg) rfl
  rw [← hid] at hat
  have hring := State.ringAt_pushRing hat (regTok (s.ctx cid) g.vec a)
  rw [hid] at hring
  have hctx (j : Nat) : ((s.modRing r.id ring.toNat (·.without cid)).pushRing r.id g (regTok (s.ctx cid) g.vec a)).ctx j = s.ctx j := by
    rw [State.ctx_pushRing, State.ctx_modRing]
  refine ⟨_, (g.without cid).push, hexec, RingStores.of_mem ?mem, ?ring, rfl, rfl, ?regs, ?pc, fun j hj => (ctx_settle_next_other _ _ _ _ hj).trans (hctx j),
    (dram_settle_next ..).trans (State.dram_pushRing ..)⟩
  case mem => rw [← toNat_tokVal_regTok, (core_settle_next ..).1, State.mem_pushRing]; rfl
  case ring => rw [State.ringAt, run_settle_next]; exact hring
  case regs => rw [← hctx cid]; exact sameRegs_settle_next ..
  case pc => rw [ctx_settle_next_self, hctx]

/-- To a ring of another core with room the item travels, and its context parks. -/
theorem rpush_remote (hroom : g.depth < g.slots) (hc : g.core ≠ coreOf cid) (a : Reg) :
    ∃ t g', exec (.rpush h a g.vec ring) s = .next t ∧ t.ringAt r.id ring.toNat = some g' ∧
      g'.arriving = g.arriving ++ [(cid, regTok (s.ctx cid) g.vec a)] ∧ g'.pushed = g.pushed ∧ (t.ctx cid).park.map (·.kind) = some .ringRemote ∧
      SameMemories s t cid := by
  have hexec := w.rpush a g.vec ring
  rw [Takes, w.rpushBody_eq hg, if_neg (Nat.not_le.mpr hroom), if_neg hc] at hexec
  have hat := State.ringAt_modRing (f := (·.awaits cid (regTok (s.ctx cid) g.vec a))) (State.ringAt_modRing (f := (·.without cid)) (w.ringAt hg) rfl) rfl
  refine ⟨_, (g.without cid).awaits cid (regTok (s.ctx cid) g.vec a), hexec, ?ring, rfl, rfl, ?park, sameMemories_trans (sameMemories_trans (sameMemories_modRing ..) (sameMemories_modRing ..)) (sameMemories_settle_wait ..)⟩
  case ring => rw [State.ringAt, run_settle_wait]; exact hat
  case park => rw [ctx_settle_wait_self]; rfl

/-- At a full ring the context parks, and the ring is in overflow. -/
theorem rpush_full (hfull : g.slots ≤ g.depth) (a : Reg) :
    ∃ t g', exec (.rpush h a g.vec ring) s = .next t ∧ t.ringAt r.id ring.toNat = some g' ∧ g'.full = true ∧ g'.pushed = g.pushed ∧
      (t.ctx cid).park.map (·.kind) = some .ringFull ∧ (t.ctx cid).pc = (s.ctx cid).pc ∧ SameMemories s t cid := by
  have hexec := w.rpush a g.vec ring
  rw [Takes, w.rpushBody_eq hg, if_pos hfull] at hexec
  have hat := State.ringAt_modRing (f := (·.overflows cid)) (State.ringAt_modRing (f := (·.without cid)) (w.ringAt hg) rfl) rfl
  refine ⟨_, (g.without cid).overflows cid, hexec, ?ring, rfl, rfl, ?park, ?pc, sameMemories_trans (sameMemories_trans (sameMemories_modRing ..) (sameMemories_modRing ..)) (sameMemories_settle_park ..)⟩
  case ring => rw [State.ringAt, run_settle_park]; exact hat
  case park => rw [ctx_settle_park_self]; rfl
  case pc => rw [ctx_settle_park_self]; rfl
end
end RingReady

/-! ### RPOP, RPEEK and RCUR (R218, R438) -/

theorem ringRead_of_ring {n k : Nat} {g : Ring} (hg : r.ring n = some g) (hc : g.core = coreOf cid) (hk : k < g.ncons) (file : Option Bool)
    (hf : file = none ∨ file = some g.vec) : ringRead s cid r n k file = some g := by
  simp only [ringRead, hg, hc, bne_self_eq_false, Bool.false_or]
  rw [if_neg]
  rcases hf with rfl | rfl <;> simp [hk]

/-- A context reads the slot at a cursor of a ring: it has used the ring, and the slot's bank is taken. -/
def State.ringSeen (s : State) (cid n k : Nat) (g : Ring) : State :=
  (s.modCtx cid fun c => c.usesRing n).touchBank g.core (g.cursorAddr k / 0x8000) ((s.modCtx cid fun c => c.usesRing n).ctx cid).role.node

theorem State.runs_ringSeen (s : State) (cid n k : Nat) (g : Ring) : (s.ringSeen cid n k g).runs = s.runs := rfl

theorem State.ctx_ringSeen (s : State) (cid n k : Nat) (g : Ring) : (s.ringSeen cid n k g).ctx cid = (s.ctx cid).usesRing n := by
  rw [State.ringSeen, State.touchBank, State.ctx_modCore, State.ctx_modCtx_self]

theorem sameMemories_ringSeen (s : State) (cid n k : Nat) (g : Ring) : SameMemories s (s.ringSeen cid n k g) cid :=
  sameMemories_trans (sameMemories_modCtx ..) (sameMemories_touchBank ..)

/-- What RPOP, with `pop`, or RPEEK makes of a state: the item at its cursor is staged, and RPOP's cursor goes on. -/
def State.ringTaken (s : State) (cid rid n k d : Nat) (pop : Bool) (g : Ring) : State :=
  (if pop then (s.ringSeen cid n k g).modRing rid n fun g => g.advance k else s.ringSeen cid n k g).modCtx cid fun c =>
    c.stage [{ file := fileOf g.vec, reg := d, val := (s.modCtx cid fun c => c.usesRing n).ringVal g k }] 0

theorem State.ringTaken_spec {rid n : Nat} {g : Ring} (hg : s.ringAt rid n = some g) (cid k d : Nat) (pop : Bool) :
    (s.ringTaken cid rid n k d pop g).ringAt rid n = some (if pop then g.advance k else g) ∧ SameMemories s (s.ringTaken cid rid n k d pop g) cid ∧
      (s.ringTaken cid rid n k d pop g).ctx cid = ((s.ctx cid).usesRing n).stage [{ file := fileOf g.vec, reg := d, val := s.ringVal g k }] 0 := by
  have hat : (s.ringSeen cid n k g).ringAt rid n = some g := (State.ringAt_of_runs (s.runs_ringSeen ..) ..).trans hg
  have hsame := sameMemories_ringSeen s cid n k g
  rw [State.ringTaken, State.ringAt_of_runs (State.modCtx_runs ..), State.ctx_modCtx_self]
  cases pop with
  | true =>
    refine ⟨State.ringAt_modRing hat rfl, sameMemories_trans (sameMemories_trans hsame (sameMemories_modRing ..)) (sameMemories_modCtx ..), ?_⟩
    rw [if_pos rfl, State.ctx_modRing, State.ctx_ringSeen]
    rfl
  | false =>
    refine ⟨hat, sameMemories_trans hsame (sameMemories_modCtx ..), ?_⟩
    rw [if_neg Bool.false_ne_true, State.ctx_ringSeen]
    rfl

namespace RingReady
section
variable {n k : Nat} {g : Ring} (w : RingReady s cid h r) (hg : r.ring n = some g) (hc : g.core = coreOf cid) (hk : k < g.ncons)
include w hg hc hk

/-- RPOP and RPEEK at a cursor that has no item to read, or for which another context waits, park; else they take the item. -/
theorem rpopBody_eq (pop : Bool) (d : Reg) : rpopBody pop d g.vec n k s cid =
    if decide (tget 0 g.cur k = g.pushed) || (s.modCtx cid fun c => c.usesRing n).popWaits cid n k then
      .park (s.modCtx cid fun c => c.usesRing n) { Park.of .ringEmpty with a := n, b := k }
    else .wait (s.ringTaken cid r.id n k d.toNat pop g) (Park.of .landing) := by
  have hop : (((s.modCtx cid fun c => c.usesRing n).ctx cid).role.isOp) = true := by rw [State.ctx_modCtx_self]; exact w.op
  have hacq : (s.modCtx cid fun c => c.usesRing n).acquiring cid = false := State.acquiring_eq_false w.acquires
  have hbank : (s.modCtx cid fun c => c.usesRing n).bankBusy g.core (g.cursorAddr k) = false := by rw [hc]; exact w.bankBusy_eq_false _
  simp only [rpopBody, w.run, ringRead_of_ring hg hc hk _ (.inr rfl), hacq, State.behindRing_of_after (State.afterOf_of_op hop), hbank]
  rfl

/-- RPOP and RPEEK at an empty ring park. -/
theorem rpopBody_of_empty (he : tget 0 g.cur k = g.pushed) (pop : Bool) (d : Reg) :
    rpopBody pop d g.vec n k s cid = .park (s.modCtx cid fun c => c.usesRing n) { Park.of .ringEmpty with a := n, b := k } := by
  rw [w.rpopBody_eq hg hc hk, he]
  simp

/-- With an item at the cursor, and no other context that waits at a ring of the core, RPOP and RPEEK take it. -/
theorem rpopBody_of_item (he : tget 0 g.cur k ≠ g.pushed)
    (hwait : ∀ o, o < 8 → coreOf cid * 8 + o ≠ cid → (s.ctx (coreOf cid * 8 + o)).park.map (·.kind) ≠ some .ringEmpty) (pop : Bool) (d : Reg) :
    rpopBody pop d g.vec n k s cid = .wait (s.ringTaken cid r.id n k d.toNat pop g) (Park.of .landing) := by
  have hfirst : (s.modCtx cid fun c => c.usesRing n).popWaits cid n k = false := by
    refine List.any_eq_false.mpr fun o ho => ?_
    have ho := List.mem_range.mp ho
    by_cases hj : coreOf cid * 8 + o = cid
    · simp [hj]
    · have hkind := hwait o ho hj
      dsimp only
      rw [State.ctx_modCtx_other _ _ hj]
      cases hp : (s.ctx (coreOf cid * 8 + o)).park with
      | none => simp
      | some p =>
        rw [hp] at hkind
        have hne : p.kind ≠ .ringEmpty := fun h => hkind (congrArg some h)
        simp [hne]
  rw [w.rpopBody_eq hg hc hk, hfirst, decide_eq_false he]
  rfl

theorem rcurBody_eq (d : Reg) : rcurBody d n k s cid = .next (s.modCtx cid fun c => (c.usesRing n).pendX d ((tget 0 g.cur k).setWidth 64) 2) := by
  simp only [rcurBody, w.run, ringRead_of_ring hg hc hk _ (.inl rfl)]
end
end RingReady

namespace RingReady
section
variable {ring : BitVec 4} {cons : BitVec 3} {g : Ring} (w : RingReady s cid h r) (hg : r.ring ring.toNat = some g) (hc : g.core = coreOf cid)
  (hk : cons.toNat < g.ncons)
include w hg hc hk

/-- RCUR reads the cursor. -/
theorem rcur_reads (d : Reg) : ∃ t, exec (.rcur h d ring cons) s = .next t ∧
    (t.ctx cid).pend = ((s.ctx cid).pendX d ((tget 0 g.cur cons.toNat).setWidth 64) 2).pend ∧ SameMemories s t cid := by
  have hexec := w.rcur d ring cons
  rw [Takes, w.rcurBody_eq hg hc hk] at hexec
  refine ⟨_, hexec, ?_, sameMemories_trans (sameMemories_modCtx ..) (sameMemories_settle_next ..)⟩
  rw [ctx_settle_next_self, State.ctx_modCtx_self, Ctx.pendX, Ctx.pendW_pend, Ctx.pendX, Ctx.pendW_pend]
  rfl

/-- RPOP at an empty ring parks its context. -/
theorem rpop_parks (he : tget 0 g.cur cons.toNat = g.pushed) (d : Reg) : ∃ t, exec (.rpop h d g.vec ring cons) s = .next t ∧
    (t.ctx cid).park.map (·.kind) = some .ringEmpty ∧ (t.ctx cid).pc = (s.ctx cid).pc ∧ SameMemories s t cid := by
  have hexec := w.rpop d g.vec ring cons
  rw [Takes, w.rpopBody_of_empty hg hc hk he] at hexec
  refine ⟨_, hexec, ?park, ?pc, sameMemories_trans (sameMemories_modCtx ..) (sameMemories_settle_park ..)⟩
  case park => rw [ctx_settle_park_self]; rfl
  case pc => rw [ctx_settle_park_self, State.ctx_modCtx_self]; rfl
end

/-- What RPOP, with `pop`, and RPEEK leave as they take the item at their cursor. -/
theorem taken_spec {n k : Nat} {g : Ring} (w : RingReady s cid h r) (hg : r.ring n = some g) (d : Reg) (pop : Bool) :
    ∃ g', (settle s cid h (.wait (s.ringTaken cid r.id n k d.toNat pop g) (Park.of .landing))).ringAt r.id n = some g' ∧
      tget 0 g'.cur k = (if pop then tget 0 g.cur k + 1 else tget 0 g.cur k) ∧ (∀ j, j ≠ k → tget 0 g'.cur j = tget 0 g.cur j) ∧ g'.pushed = g.pushed ∧
      ((settle s cid h (.wait (s.ringTaken cid r.id n k d.toNat pop g) (Park.of .landing))).ctx cid).land =
        some { writes := [{ file := fileOf g.vec, reg := d.toNat, val := s.ringVal g k }], left := 0, load := none } ∧
      SameRegs (s.ctx cid) ((settle s cid h (.wait (s.ringTaken cid r.id n k d.toNat pop g) (Park.of .landing))).ctx cid) ∧
      SameMemories s (settle s cid h (.wait (s.ringTaken cid r.id n k d.toNat pop g) (Park.of .landing))) cid := by
  obtain ⟨hring, hsame, hctx⟩ := State.ringTaken_spec (w.ringAt hg) cid k d.toNat pop
  refine ⟨if pop then g.advance k else g, ?ring, ?cursor, fun j hj => ?others, ?pushed, ?land, ?regs, sameMemories_trans hsame (sameMemories_settle_wait ..)⟩
  case ring => rw [State.ringAt, run_settle_wait]; exact hring
  case cursor => cases pop with | true => exact tget_tset_self | false => rfl
  case others => cases pop with | true => exact tget_tset_other hj | false => rfl
  case pushed => cases pop <;> rfl
  case land => rw [ctx_settle_wait_self, hctx]; rfl
  case regs => rw [ctx_settle_wait_self, hctx]; exact sameRegs_refl _
end RingReady

theorem ringsAreQueuesInCoreMemory : RingsAreQueuesInCoreMemory := by
  intro s cid h a d v ring cons r hi hr hop hown hacq hbanks c n here k
  have w : RingReady s cid h r := ⟨hi, hr, hop, hown, hacq, hbanks⟩
  refine ⟨fun hg => ?missing, fun g hg hv hn => ?present⟩
  case missing =>
    obtain ⟨hpush, hpop, hpeek, hcur⟩ := w.traps_of_missing hg a d v cons
    refine ⟨hpush, hpop, hpeek, hcur, fun base logn lwm h1 h8 hl halign hfits hb hx => ?_⟩
    obtain ⟨t, r', hexec, hrun, hrings⟩ := w.rinit_of_range hg (ringOf_of_fields h1 h8 hl halign hfits hb cons.isLt hx)
    exact ⟨t, r', _, hexec, hrun, hrings, rfl, rfl, rfl, rfl, rfl, rfl, rfl, rfl, rfl, rfl⟩
  case present =>
    subst hv
    intro width size slot held item at' stores
    have hdepth : (∃ x ∈ held, size ≤ x) → g.slots ≤ g.depth := fun ⟨x, hx, hle⟩ =>
      Nat.le_of_not_lt fun hlt => Nat.not_lt.mpr hle (Ring.depth_lt_slots.mp hlt x hx)
    refine ⟨w.rinit_of_present hg a, fun hroom hc => w.rpush_accepted hg (Ring.depth_lt_slots.mpr hroom) hc a,
      fun hroom hc => w.rpush_remote hg (Ring.depth_lt_slots.mpr hroom) hc a, fun hfull => w.rpush_full hg (hdepth hfull) a,
      fun hc hk => ⟨w.rcur_reads hg hc hk d, fun he => w.rpop_parks hg hc hk he d, fun he hwait => ?takes⟩⟩
    intro takes
    have hval : s.ringVal g k = BitVec.ofNat 2048 (mload (s.core here).mem (slot (tget 0 g.cur k)) width) := by rw [State.ringVal, hc]; rfl
    have htakes {i : Instr} {pop : Bool} (hexec : Takes i s cid h (rpopBody pop d g.vec n k s cid)) : takes i pop := by
      rw [Takes, w.rpopBody_of_item hg hc hk he hwait] at hexec
      obtain ⟨g', hring, hcur, hothers, hpushed, hland, hregs, hsame⟩ := w.taken_spec (k := k) hg d pop
      rw [hval] at hland
      exact ⟨_, g', hexec, hring, hcur, hothers, hpushed, hland, hregs, hsame⟩
    exact ⟨htakes (w.rpop d g.vec ring cons), htakes (w.rpeek d g.vec ring cons)⟩

/-! ## RING_ACCEPT and OVERFLOW_RELEASE (R218, R219) -/

theorem State.park_wakeIdle (s : State) (core k : Nat) : ((s.wakeIdle core).ctx k).park = (s.ctx k).park := by
  unfold State.wakeIdle
  refine List.foldlRecOn (motive := fun t : State => (t.ctx k).park = (s.ctx k).park) _ _ rfl fun t ht i _ => ?_
  rw [State.ctx_modCtx]
  split
  · next hk => rw [← ht, hk]
  · exact ht

theorem State.ctx_unpark_other (s : State) {cid k : Nat} (hk : k ≠ cid) : (s.unpark cid).ctx k = s.ctx k := by
  unfold State.unpark
  split
  · rfl
  · unfold State.parkSample
    split
    · exact State.ctx_modCtx_other _ _ hk
    · rw [State.sample, State.ctx_modCtx_other _ _ hk, State.ctx_modCtx_other _ _ hk]

/-- A park that ends leaves its context at a stop point, and the monitor's sample beside. -/
theorem State.ctx_unpark_self {p : Park} (hp : (s.ctx cid).park = some p) :
    ∃ m, (s.unpark cid).ctx cid = { s.ctx cid with park := none, sw := true, mon := m } := by
  simp only [State.unpark, State.parkSample, hp]
  exact ⟨_, (State.ctx_modCtx_self ..).trans (by rw [State.ctx_modCtx_self])⟩

/-- A ring that has taken the item of a context from those that travel to it. -/
def Ring.arrived (g : Ring) (cid idx : Nat) : Ring := { g with arriving := dropAt idx g.arriving, late := g.late.filter fun c => c != cid }

/-- An item that has travelled to a ring is in its slot, and the contexts of the ring's core idle no longer. -/
def State.acceptItem (s : State) (rid n idx cid : Nat) (g : Ring) (tk : Token) : State :=
  ((s.modRing rid n (·.arrived cid idx)).pushRing rid g tk).wakeIdle g.core

section
variable {n : Nat} {g : Ring} (hr : s.run s.ev.unit = some r) (hg : r.ring s.ev.sub = some g) (hroom : g.depth < g.slots)
include hr hg hroom

theorem ringAccept_eq {k : Nat} {tk : Token} {p : Park} (hi : g.arriving[s.ev.idx]? = some (k, tk)) (hfirst : ∀ x ∈ g.arriving.take s.ev.idx, x.1 ≠ k)
    (hlate : k ∈ g.late → g.full = false ∧ g.late.head? = some k) (hbank : s.bankBusy g.core g.pushAddr = false)
    (hp : (s.ctx k).park = some p) (hkind : p.kind = .ringRemote) (ha : p.a = s.ev.sub) :
    exec .ringAccept s = .next ((s.acceptItem s.ev.unit s.ev.sub s.ev.idx k g tk).unpark k) := by
  have hany : ((g.arriving.take s.ev.idx).any fun x => x.1 == k) = false := List.any_eq_false.mpr fun x hx => by simp [hfirst x hx]
  have hwaits : (g.late.contains k && (g.full || g.late.head? != some k)) = false := by
    by_cases hk : k ∈ g.late
    · simp [hlate hk]
    · simp [hk]
  have hpark : ((s.acceptItem s.ev.unit s.ev.sub s.ev.idx k g tk).ctx k).park = some p := by
    rw [State.acceptItem, State.park_wakeIdle, State.ctx_pushRing, State.ctx_modRing, hp]
  have hends : (((s.acceptItem s.ev.unit s.ev.sub s.ev.idx k g tk).ctx k).park.any fun p => p.kind == ParkKind.ringRemote && p.a == s.ev.sub) = true := by
    simp [hpark, hkind, ha]
  show Host.Outcome.next _ = _
  simp only [hr, Option.bind_some, hg, hi, hany, Bool.false_eq_true, if_false, Nat.not_le.mpr hroom, hwaits, hbank, Bool.or_self]
  exact congrArg Host.Outcome.next (if_pos hends)

theorem overflowRelease_eq {k : Nat} {rest : List Nat} {p : Park} (hsub : s.ev.sub ≠ 16) (hparked : g.parked = k :: rest) (hfull : g.full = false)
    (hp : (s.ctx k).park = some p) (hkind : p.kind = .ringFull) (hb : p.b = 0) : exec .overflowRelease s = .next (s.unpark k) := by
  have hcond : (!g.full && decide (g.depth < g.slots)) = true := by simp [hfull, hroom]
  show Host.Outcome.next _ = _
  simp only [hr, hg, if_neg hsub, hcond, State.releaseHead, hparked, hp, Option.any_some, hkind, hb]
  rfl
end

theorem ringsAcceptWhatTravelled : RingsAcceptWhatTravelled := by
  intro s r g hr hg hn hsub width size slot held
  have hroom (h : ∀ x ∈ held, x < size) : g.depth < g.slots := Ring.depth_lt_slots.mpr h
  refine ⟨fun k tk hi hfirst hh hlate hbank hkind ha => ?accept, fun k rest p hparked hfull hh hp hkind hb => ?release⟩
  case accept =>
    obtain ⟨p, hp, hkind⟩ := Option.map_eq_some_iff.mp hkind
    have hfree : s.bankBusy g.core g.pushAddr = false := by
      have hslot : g.pushAddr / 0x8000 ∉ (s.core g.core).banksBusy := hbank
      simpa [State.bankBusy] using hslot
    have hexec := ringAccept_eq hr hg (hroom hh) hi hfirst hlate hfree hp hkind (ha p hp)
    have hid : g.id = s.ev.sub := Run.id_of_ring hg
    have hat := State.ringAt_modRing (f := (·.arrived k s.ev.idx)) (State.ringAt_of_run hr hg) rfl
    rw [← hid] at hat
    have hring := State.ringAt_pushRing hat tk
    rw [hid] at hring
    have hkeeps := (KeepsRegs.wakeIdle _ g.core).trans (KeepsRegs.unpark (s.acceptItem s.ev.unit s.ev.sub s.ev.idx k g tk) k)
    obtain ⟨r', hr', hg'⟩ := Option.bind_eq_some_iff.mp hring
    have hstores : RingStores s _ g (tokVal tk).toNat := RingStores.of_mem ((congrArg (fun cs => (tget Core.init cs g.core).mem) hkeeps.cores).trans (State.mem_pushRing ..))
    refine ⟨_, r', (g.arrived k s.ev.idx).push, hexec, (hkeeps.run _).trans hr', hg', rfl, dropAt_eq .., ?_, hstores⟩
    rw [State.park_unpark, if_pos rfl]
  case release =>
    have hexec := overflowRelease_eq hr hg (hroom hh) (by omega) hparked hfull hp hkind hb
    obtain ⟨m, hctx⟩ := State.ctx_unpark_self hp
    have hkeeps := KeepsRegs.unpark s k
    refine ⟨_, hexec, ?_, hkeeps.regs k, ?_, fun j hj => s.ctx_unpark_other hj, hkeeps.sameElsewhere⟩
    · rw [hctx]
    · rw [hctx]

/-- Settles O41: the words by the body of each on a ring that is there and on one that is not (`RingReady`), the events by what ends a park. -/
theorem ringsComplete : Obligations.RingsComplete := ⟨ringsAreQueuesInCoreMemory, ringsAcceptWhatTravelled⟩

end Sys2Proof.Machine
end

section
namespace Sys2Proof.Machine
variable {s t u : State} {cid : Nat} {h : Hdr} {r : Run}

/-! ## The condition table (R202-R206) -/

theorem toNat_ccOf {n gen : Nat} (hn : n < 256) (hg : gen < 256) (side : Bool) :
    (ccOf n gen side).toNat = n + 256 * gen + side.toNat * 2 ^ 16 + 2 ^ 17 := by
  have hside : (if side then 65536 else 0) = side.toNat * 2 ^ 16 ∧ side.toNat ≤ 1 := by cases side <;> decide
  rw [ccOf, BitVec.toNat_ofNat]
  omega

section
variable {n gen : Nat} (hn : n < 256) (hg : gen < 256) (side : Bool)
include hn hg

theorem ccSlot_ccOf : ccSlot (ccOf n gen side) = n := by
  rw [ccSlot, toNat_ccOf hn hg]
  omega

theorem ccValid_ccOf : ccValid (ccOf n gen side) = true := by
  have hside := side.toNat_le
  rw [ccValid, BitVec.getLsbD, Nat.testBit_eq_decide_div_mod_eq, toNat_ccOf hn hg, decide_eq_true_iff]
  omega

theorem ccSide_ccOf : ccSide (ccOf n gen side) = side := by
  have hbit : (ccOf n gen side).toNat / 2 ^ 16 % 2 = side.toNat := by
    have hside := side.toNat_le
    rw [toNat_ccOf hn hg]
    omega
  rw [ccSide, BitVec.getLsbD, Nat.testBit_eq_decide_div_mod_eq, hbit]
  cases side <;> rfl

theorem ccOf_ne_zero : ccOf n gen side ≠ 0 := fun h => by
  have hvalid := ccValid_ccOf hn hg side
  rw [h] at hvalid
  exact absurd hvalid (by decide)

theorem ccOf_inj {b : Bool} (h : ccOf n gen side = ccOf n gen b) : side = b := by rw [← ccSide_ccOf hn hg side, h, ccSide_ccOf hn hg]
end

theorem ccValid_zero : ccValid 0 = false := by decide

/-- The side of the entry that a handle names, by the handle's bits (R203). -/
theorem ofNat_handle (x : Nat) (side : Bool) : BitVec.ofNat 18 (x + (if side then 2 ^ 16 else 0) + 2 ^ 17) = ccOf (x % 256) (x / 256) side := by
  rw [ccOf, Nat.mod_add_div]
  rfl

/-- A handle names the open entry `e` of slot `n`, which lies under no other (R202). -/
structure NamesRoot (r : Run) (hd : Word) (n : Nat) (e : CondE) : Prop where
  range : hd.toNat < 2 ^ 16
  slot : n = hd.toNat % 256
  gen : (r.slot n).gen = hd.toNat / 256
  ent : (r.slot n).ent = some e
  root : e.parent = 0

namespace NamesRoot
variable {hd : Word} {n : Nat} {e : CondE} (w : NamesRoot r hd n e)
include w

theorem slot_lt : n < 256 := by rw [w.slot]; exact Nat.mod_lt _ (by decide)
theorem gen_lt : (r.slot n).gen < 256 := by
  have hrange := w.range
  rw [w.gen]
  omega

theorem openEntry : r.openEntry hd = some (n, e) := by
  obtain ⟨hrange, hslot, hgen, hent, -⟩ := w
  rw [hslot] at hgen hent
  simp only [Run.openEntry, Nat.not_le.mpr hrange, if_false, hgen, if_true, hent, Option.map_some, hslot]

/-- The side of the entry by its handle's bits. -/
theorem side_eq (side : Bool) : BitVec.ofNat 18 (hd.toNat + (if side then 2 ^ 16 else 0) + 2 ^ 17) = ccOf n (r.slot n).gen side := by
  rw [ofNat_handle, ← w.slot, w.gen]

/-- What lies under a side of a root entry, of the two sides: that side alone. -/
theorem under_side (side b : Bool) : r.under n b 12 (ccOf n (r.slot n).gen side) = (side == b) := by
  rw [Run.under, ccValid_ccOf w.slot_lt w.gen_lt, ccSlot_ccOf w.slot_lt w.gen_lt, ccSide_ccOf w.slot_lt w.gen_lt, w.ent]
  simp only [Run.under, w.root, ccValid_zero]
  simp

/-- The likelihood of a side of a root entry is that of the entry (R206). -/
theorem lk_side (hs : e.stale = 0) (side : Bool) : r.lk 12 (ccOf n (r.slot n).gen side) = if side then e.ft else e.fn := by
  simp only [Run.lk, ccValid_ccOf w.slot_lt w.gen_lt, ccSlot_ccOf w.slot_lt w.gen_lt, ccSide_ccOf w.slot_lt w.gen_lt, w.ent, w.root, ccValid_zero, hs]
  cases side <;> simp
end NamesRoot

theorem Run.under_zero (r : Run) (n : Nat) (b : Bool) (k : Nat) : r.under n b k 0 = false := by
  cases k with
  | zero => rfl
  | succ k => rw [Run.under, ccValid_zero, Bool.false_and]

/-- A handle above 16 bits names no entry. -/
theorem Run.openEntry_of_large {hd : Word} (h : hd.toNat ≥ 2 ^ 16) : r.openEntry hd = none := by rw [Run.openEntry, if_pos h]

/-! ## SPAWN and SPAWNC (R195-R198, R205, R440) -/

theorem getD_flatMap_range {α : Type} {f : Nat → List α} {d : α} {k n i : Nat} (hf : ∀ j, (f j).length = k) (hi : i < n * k) :
    ((List.range n).flatMap f).getD i d = (f (i / k)).getD (i % k) d := by
  have hlen (n : Nat) : ((List.range n).flatMap f).length = n * k := by simp [List.length_flatMap, hf]
  induction n with
  | zero => omega
  | succ n ih =>
    rw [List.range_succ, List.flatMap_append, List.flatMap_singleton]
    by_cases hlt : i < n * k
    · rw [List.getD_append _ _ _ _ (by rw [hlen]; exact hlt), ih hlt]
    · have hk : i - n * k < k := by rw [Nat.succ_mul] at hi; omega
      have hsplit : i = (i - n * k) + k * n := by rw [Nat.mul_comm k n]; omega
      rw [List.getD_append_right _ _ _ _ (by rw [hlen]; omega), hlen]
      conv => rhs; rw [hsplit, Nat.add_mul_mod_self_left, Nat.add_mul_div_left _ _ (by omega), Nat.div_eq_of_lt hk, Nat.zero_add, Nat.mod_eq_of_lt hk]

/-- The argument record of a spawn: its registers, little-endian, and zeros (R195, R198). -/
def argRecord (c : Ctx) (a : Reg) (args : Nat) : List Byte := argBytes c a args ++ List.replicate (64 - (argBytes c a args).length) 0

section
variable (c : Ctx) (a : Reg) {args : Nat} (h64 : args ≤ 64) (h8 : args % 8 = 0)
include h8

theorem length_argBytes : (argBytes c a args).length = args := by
  simp only [argBytes, List.length_flatMap, length_natLe, List.map_const', List.sum_replicate, List.length_range, smul_eq_mul]
  omega

theorem getD_argRecord (i : Nat) : (argRecord c a args).getD i 0 =
    if i < args then BitVec.ofNat 8 ((c.xr (a + BitVec.ofNat 5 (i / 8))).toNat / 2 ^ (8 * (i % 8))) else 0 := by
  have hlen := length_argBytes c a h8
  rw [argRecord]
  split
  · next hi =>
    rw [List.getD_append _ _ _ _ (by omega), argBytes, getD_flatMap_range (fun _ => length_natLe ..) (by omega), getD_natLe (Nat.mod_lt _ (by decide))]
  · next hi =>
    rw [List.getD_append_right _ _ _ _ (by omega)]
    simp [List.getD_eq_getElem?_getD, List.getElem?_replicate]
    split <;> rfl

include h64 in
theorem length_argRecord : (argRecord c a args).length = 64 := by
  rw [argRecord, List.length_append, List.length_replicate, length_argBytes c a h8]
  omega
end

/-- While the pool has room, the lowest free slot is held by no segment. -/
theorem Run.freePool_free (h : r.segs.length < 1024) : ∀ g ∈ r.segs, g.slot ≠ r.freePool := by
  rw [Run.freePool]
  cases hf : (List.range 1024).find? fun n => !r.segs.any fun g => g.slot == n with
  | some n =>
    intro g hg hslot
    have hfree := List.find?_some hf
    rw [Bool.not_eq_true', List.any_eq_false] at hfree
    exact hfree g hg (beq_iff_eq.mpr hslot)
  | none =>
    have hsub : List.range 1024 ⊆ r.segs.map (·.slot) := fun n hn => by
      have hheld := List.find?_eq_none.mp hf n hn
      simp only [Bool.not_eq_true', Bool.not_eq_false, List.any_eq_true, beq_iff_eq] at hheld
      obtain ⟨g, hg, hslot⟩ := hheld
      exact List.mem_map.mpr ⟨g, hg, hslot⟩
    have hle := (List.subperm_of_subset List.nodup_range hsub).length_le
    rw [List.length_range, List.length_map] at hle
    omega

theorem Run.fillPool_same (r : Run) : r.fillPool.id = r.id ∧ r.fillPool.segs = r.segs ∧ r.fillPool.nextSeg = r.nextSeg := by
  unfold Run.fillPool
  split <;> exact ⟨rfl, rfl, rfl⟩

/-- The segment that a spawn puts into the pool. -/
def State.newSeg (s : State) (cid : Nat) (r : Run) (kind : Nat) (a : Reg) (args : Nat) (cc : BitVec 18) : Seg :=
  { id := r.nextSeg, kind := kind, ccond := cc, args := argRecord (s.ctx cid) a args, phase := r.phase, slot := r.freePool
    after := (s.unqueue r.id cid).openWrites cid, cid := none, stale := 0, old := 0 }

/-- The machine with a segment more in the pool of a run. -/
def State.spawned (s : State) (cid : Nat) (r : Run) (g : Seg) : State :=
  ((s.unqueue r.id cid).vWrite r.vd (r.argRec g.slot) g.args).modRun r.id fun r => Run.fillPool { r with segs := r.segs ++ [g], nextSeg := r.nextSeg + 1 }

theorem spawnInto_of_room (hlen : r.segs.length < 1024) (kind : Nat) (a : Reg) (args : Nat) (cc : BitVec 18) :
    spawnInto s cid r kind a args cc = .next (s.spawned cid r (s.newSeg cid r kind a args cc)) := by
  have hroom : ¬r.segs.length ≥ 1024 := Nat.not_le.mpr hlen
  have hctx : (s.unqueue r.id cid).ctx cid = s.ctx cid := State.ctx_modRun ..
  simp only [spawnInto, hroom, if_false, hctx, State.spawned, State.newSeg, argRecord]

theorem State.ctx_spawned (s : State) (cid : Nat) (r : Run) (g : Seg) (k : Nat) : (s.spawned cid r g).ctx k = s.ctx k := by
  rw [State.spawned, State.ctx_modRun, State.ctx, (Quiet.vWrite ..).ctxs]
  rfl

theorem State.run_spawned (hr : s.run r.id = some r) (g : Seg) :
    ∃ x, (s.spawned cid r g).run r.id = some x ∧ x.segs = r.segs ++ [g] ∧ x.nextSeg = r.nextSeg + 1 := by
  have hrun : ((s.unqueue r.id cid).vWrite r.vd (r.argRec g.slot) g.args).run r.id = some { r with poolParked := r.poolParked.filter fun c => c != cid } :=
    ((Quiet.vWrite ..).run _).trans (State.run_modRun_self hr rfl)
  obtain ⟨hid, hsegs, hnext⟩ := Run.fillPool_same
    { r with poolParked := r.poolParked.filter fun c => c != cid, segs := r.segs ++ [g], nextSeg := r.nextSeg + 1 }
  exact ⟨_, State.run_modRun_self hrun hid, hsegs, hnext⟩

theorem Run.kindArgs_of_segment {kind : Nat} {nd : NodeD} (hnd : r.node kind = some nd) (hk : nd.kind = 4) : r.kindArgs kind = some nd.args := by
  simp only [Run.kindArgs, hnd, Option.bind_some, hk, if_true]

theorem Run.kindArgs_of_other {kind : Nat} (h : ∀ nd, r.node kind = some nd → nd.kind ≠ 4) : r.kindArgs kind = none := by
  unfold Run.kindArgs
  cases hnd : r.node kind with
  | none => rfl
  | some nd => exact if_neg (h nd hnd)

/-! ## The words of segments at an operator that nothing holds back (R198, R202-R210, R440) -/

/-- An operator of a run, outside every condition, that has no effect to drain. -/
structure SegReady (s : State) (cid : Nat) (r : Run) : Prop where
  run : s.ctxRun cid = some r
  op : (s.ctx cid).role.isOp = true
  own : s.ownEntries cid = []
  root : (s.ctx cid).ccond = 0

namespace SegReady
variable (w : SegReady s cid r)
include w

theorem runs : s.run r.id = some r := State.run_of_ctxRun w.run

section
variable {a : Reg} {kind : Nat} {nd : NodeD} (hnd : r.node kind = some nd) (hk : nd.kind = 4) (ha : a.toNat + nd.args / 8 ≤ 32) (hlen : r.segs.length < 1024)
include hnd hk ha hlen

theorem spawnBody_eq : spawnBody a kind s cid = .next (s.spawned cid r (s.newSeg cid r kind a nd.args 0)) := by
  simp only [spawnBody, w.run, Run.kindArgs_of_segment hnd hk, Nat.not_lt.mpr ha, if_false, w.root]
  exact spawnInto_of_room hlen ..

theorem spawncBody_eq {d : Reg} {n : Nat} {e : CondE} (g : NamesRoot r ((s.ctx cid).xr d) n e) (hdepth : e.depth ≤ 8) (taken : Bool) :
    spawncBody d a taken kind s cid = .next (s.spawned cid r (s.newSeg cid r kind a nd.args (ccOf n (r.slot n).gen taken))) := by
  simp only [spawncBody, w.run, Run.kindArgs_of_segment hnd hk, Nat.not_lt.mpr ha, if_false, g.openEntry, w.root, ccValid_zero, g.root,
    Nat.not_lt.mpr hdepth, Bool.false_eq_true, ne_eq, not_true]
  exact spawnInto_of_room hlen ..
end

/-- What a spawn leaves: one segment more in the pool, its argument record taken from the spawner's registers. -/
theorem spawned_spec {i : Instr} {kind args : Nat} {a : Reg} {cc : BitVec 18} (h64 : args ≤ 64) (h8 : args % 8 = 0) (hlen : r.segs.length < 1024)
    (hexec : Takes i s cid h (.next (s.spawned cid r (s.newSeg cid r kind a args cc)))) :
    ∃ t g, exec i s = .next t ∧ ((t.run r.id).getD r).segs = r.segs ++ [g] ∧ ((t.run r.id).getD r).nextSeg = r.nextSeg + 1 ∧
      g.id = r.nextSeg ∧ g.kind = kind ∧ g.ccond = cc ∧ g.cid = none ∧ g.phase = r.phase ∧ g.args.length = 64 ∧
      (∀ i, i < 64 → g.args.getD i 0 =
        if i < args then BitVec.ofNat 8 (((s.ctx cid).xr (a + BitVec.ofNat 5 (i / 8))).toNat / 2 ^ (8 * (i % 8))) else 0) ∧
      (∀ x ∈ r.segs, x.slot ≠ g.slot) ∧ SameRegs (s.ctx cid) (t.ctx cid) ∧ (t.ctx cid).pc = (s.ctx cid).pc + 8 ∧ ∀ j, j ≠ cid → t.ctx j = s.ctx j := by
  obtain ⟨x, hx, hsegs, hnext⟩ := State.run_spawned (cid := cid) w.runs (s.newSeg cid r kind a args cc)
  have hafter : ((settle s cid h (.next (s.spawned cid r (s.newSeg cid r kind a args cc)))).run r.id).getD r = x := by
    rw [run_settle_next, hx]
    rfl
  refine ⟨_, s.newSeg cid r kind a args cc, hexec, ?segs, ?next, rfl, rfl, rfl, rfl, rfl, length_argRecord _ _ h64 h8, fun i _ => getD_argRecord _ _ h8 i,
    ?slot, ?regs, ?pc, fun j hj => ?others⟩
  case segs => rw [hafter, hsegs]
  case next => rw [hafter, hnext]
  case slot => simpa only [State.newSeg] using Run.freePool_free hlen
  case regs => rw [← State.ctx_spawned s cid r (s.newSeg cid r kind a args cc)]; exact sameRegs_settle_next ..
  case pc => rw [ctx_settle_next_self, State.ctx_spawned]
  case others => rw [ctx_settle_next_other _ _ _ _ hj, State.ctx_spawned]

end SegReady

/-! ### COND (R202, R204) -/

/-- The entry that COND opens at the root for a site whose likelihood is `p`. -/
def rootEntry (r : Run) (site p : Nat) : CondE :=
  { site := site, parent := 0, depth := 1, ft := p, fn := 65536 - p, phase := r.phase, stale := 0, oldT := 0, oldN := 0 }

/-- The generation that a slot of the condition table has next. -/
def CondSlot.nextGen (c : CondSlot) : Nat := if c.gen = 255 then 1 else c.gen + 1

namespace SegReady
variable (w : SegReady s cid r)
include w

section
variable {site n : Nat} {sd : SiteD} (hsite : (r.graph.sites.find? fun x => x.id == site) = some sd) (hn : n < 256) (hfree : (r.slot n).ent = none)
  (hlow : ∀ j, j < n → (r.slot j).ent ≠ none)
include hsite hn hfree hlow

theorem condBody_eq (d : Reg) : condBody d site s cid =
    .next ((s.modRun r.id fun x => x.setSlot n
      { gen := (r.slot n).nextGen, pruned := false, ent := some (rootEntry r site (tget sd.p r.est site)) }).modCtx cid fun c =>
        c.pendX d (BitVec.ofNat 64 ((r.slot n).nextGen * 256 + n)) 2) := by
  have hfind : ((List.range 256).find? fun n => (r.slot n).ent.isNone) = some n := by
    rw [List.find?_range_eq_some]
    refine ⟨by rw [hfree]; rfl, List.mem_range.mpr hn, fun j hj => ?_⟩
    cases he : (r.slot j).ent with
    | none => exact absurd he (hlow j hj)
    | some e => rfl
  simp only [condBody, w.run, hsite, hfind, w.root, ccValid_zero, Bool.not_false, if_true, Bool.false_eq_true, if_false, rootEntry, CondSlot.nextGen]

/-- COND opens the lowest free slot of the table, and its handle is on its way. -/
theorem cond_opens {i : Instr} (d : Reg) (hexec : Takes i s cid h (condBody d site s cid)) : ∃ t, exec i s = .next t ∧
    tget CondSlot.init ((t.run r.id).getD r).conds n =
      { gen := (r.slot n).nextGen, pruned := false, ent := some (rootEntry r site (tget sd.p r.est site)) } ∧
    (∀ j, j ≠ n → tget CondSlot.init ((t.run r.id).getD r).conds j = tget CondSlot.init r.conds j) ∧
    (t.ctx cid).pend = ((s.ctx cid).pendX d (BitVec.ofNat 64 ((r.slot n).nextGen * 256 + n)) 2).pend ∧ (t.ctx cid).pc = (s.ctx cid).pc + 8 := by
  rw [Takes, w.condBody_eq hsite hn hfree hlow] at hexec
  have hrun := State.run_modRun_self (f := fun x => x.setSlot n
    { gen := (r.slot n).nextGen, pruned := false, ent := some (rootEntry r site (tget sd.p r.est site)) }) w.runs rfl
  refine ⟨_, hexec, ?slot, fun j hj => ?others, ?pend, ?pc⟩
  case slot => rw [run_settle_next, State.run_modCtx, hrun]; exact tget_tset_self
  case others => rw [run_settle_next, State.run_modCtx, hrun]; exact tget_tset_other hj
  case pend => rw [ctx_settle_next_self, State.ctx_modCtx_self]; rfl
  case pc => rw [ctx_settle_next_self, State.ctx_modCtx_self]; simp [Ctx.pendX]
end
end SegReady

/-! ### RESOLVE (R208, R209) -/

/-- A segment of the pool that runs in no context leaves no trace in one. -/
theorem State.foldl_pruneSeg {l : List Seg} (h : ∀ g ∈ l, g.cid = none) : l.foldl (fun s g => s.pruneSeg g) s = s := by
  induction l with
  | nil => rfl
  | cons g l ih =>
    have hg : s.pruneSeg g = s := by simp only [State.pruneSeg, h g List.mem_cons_self]
    rw [List.foldl_cons, hg, ih fun x hx => h x (List.mem_cons_of_mem _ hx)]

section
variable (r : Run) (site : Nat) (o : Bool)
@[simp] theorem Run.id_predUpdate : (r.predUpdate site o).id = r.id := rfl
@[simp] theorem Run.segs_predUpdate : (r.predUpdate site o).segs = r.segs := rfl
@[simp] theorem Run.slot_predUpdate (n : Nat) : (r.predUpdate site o).slot n = r.slot n := rfl
@[simp] theorem Run.id_trimPool : r.trimPool.id = r.id := by unfold Run.trimPool; split <;> rfl
@[simp] theorem Run.segs_trimPool : r.trimPool.segs = r.segs := by unfold Run.trimPool; split <;> rfl
@[simp] theorem Run.slot_trimPool (n : Nat) : r.trimPool.slot n = r.slot n := by unfold Run.trimPool; split <;> rfl
end

theorem Run.slot_setSlot_self (r : Run) (n : Nat) (c : CondSlot) : (r.setSlot n c).slot n = c := tget_tset_self

/-- The pool of a run, `o` having come out at an entry of slot `n` under which no other lies: the side that lost is gone, and the other is certain. -/
def Run.resolvedSegs (r : Run) (n : Nat) (o : Bool) : List Seg :=
  (r.segs.filter fun g => g.ccond != ccOf n (r.slot n).gen (!o)).map fun g =>
    if g.ccond = ccOf n (r.slot n).gen o then { g with ccond := 0, stale := 1, old := r.segLk g } else g

/-- Of a table with one open entry, a test that only an open entry can pass, and that this one fails, selects no slot. -/
theorem filter_slots_eq_nil {n : Nat} {p : Nat → Bool} (hothers : ∀ j, j ≠ n → (r.slot j).ent = none) (hp : ∀ j, (r.slot j).ent = none → p j = false)
    (hn : p n = false) : (List.range 256).filter p = [] := by
  refine List.filter_eq_nil_iff.mpr fun j _ => ne_true_of_eq_false ?_
  by_cases hj : j = n
  · rw [hj, hn]
  · exact hp j (hothers j hj)

namespace NamesRoot
variable {hd : Word} {n : Nat} {e : CondE} (w : NamesRoot r hd n e)
include w

/-- A segment under the winning side of a root entry is certain, and its likelihood follows in the next cycle (R208, R209). -/
theorem wonSeg_eq {g : Seg} {o : Bool} (hg : g.ccond = ccOf n (r.slot n).gen o) :
    r.wonSeg n e g (fun cc => if cc = ccOf n (r.slot n).gen o then e.parent else cc) = { g with ccond := 0, stale := 1, old := r.segLk g } := by
  simp only [Run.wonSeg, Run.level, hg, ccSlot_ccOf w.slot_lt w.gen_lt, if_true, w.root]

/-- The losing segments of a resolved root entry go, and the winning ones become certain. -/
theorem pool_resolved {o : Bool}
    (hsides : ∀ g ∈ r.segs, g.ccond = 0 ∨ g.ccond = ccOf n (r.slot n).gen o ∨ g.ccond = ccOf n (r.slot n).gen (!o)) :
    ((r.segs.filter fun g => !(r.under n (!o) 12 g.ccond)).map fun g =>
      if r.under n o 12 g.ccond then r.wonSeg n e g fun cc => if cc = ccOf n (r.slot n).gen o then e.parent else cc else g) = r.resolvedSegs n o := by
  have hne : ccOf n (r.slot n).gen o ≠ ccOf n (r.slot n).gen (!o) := fun h => by
    have hb := ccOf_inj w.slot_lt w.gen_lt o h
    cases o <;> exact absurd hb (by decide)
  have hzero (b : Bool) := (ccOf_ne_zero w.slot_lt w.gen_lt b).symm
  have hfilter : (r.segs.filter fun g => !(r.under n (!o) 12 g.ccond)) = r.segs.filter fun g => g.ccond != ccOf n (r.slot n).gen (!o) := by
    refine List.filter_congr fun g hg => ?_
    rcases hsides g hg with hc | hc | hc
    · rw [hc, Run.under_zero]; simpa using hzero _
    · rw [hc, w.under_side]; cases o <;> simpa using hne
    · rw [hc, w.under_side]; simp
  rw [hfilter, Run.resolvedSegs]
  refine List.map_congr_left fun g hg => ?_
  obtain ⟨hg, hkept⟩ := List.mem_filter.mp hg
  rcases hsides g hg with hc | hc | hc
  · rw [hc, Run.under_zero, if_neg (hzero o)]; rfl
  · rw [if_pos hc, ← w.wonSeg_eq hc, hc, w.under_side]; simp
  · simp [hc] at hkept

/-- RESOLVE of the only entry of a table: the entry is closed, and only the run is concerned, since no segment of it has a context. -/
theorem resolveEntry_spec {rid : Nat} {o : Bool} (hr : s.run rid = some r) (hothers : ∀ j, j ≠ n → (r.slot j).ent = none)
    (hidle : ∀ g ∈ r.segs, g.cid = none)
    (hsides : ∀ g ∈ r.segs, g.ccond = 0 ∨ g.ccond = ccOf n (r.slot n).gen o ∨ g.ccond = ccOf n (r.slot n).gen (!o)) :
    (s.resolveEntry rid n e o).ctxs = s.ctxs ∧ ∃ x, (s.resolveEntry rid n e o).run rid = some x ∧
      (x.slot n).ent = none ∧ (x.slot n).pruned = false ∧ x.segs = r.resolvedSegs n o := by
  have hprune (l : List Seg) (hl : l ⊆ r.segs) : l.foldl (fun s g => s.pruneSeg g) s = s := State.foldl_pruneSeg fun g hg => hidle g (hl hg)
  generalize ht : s.resolveEntry rid n e o = t
  unfold State.resolveEntry at ht
  rw [hr] at ht
  dsimp -zeta only at ht
  extract_lets lost lostSlots wonSlots side sub s1 s2 won at ht
  have hs1 : s1 = s := hprune _ List.filter_sublist.subset
  have hlost : lostSlots = [] :=
    filter_slots_eq_nil hothers (fun j hj => by simp only [hj]) (by simp only [w.ent, w.root, Run.under_zero])
  have hwon : wonSlots = [] :=
    filter_slots_eq_nil hothers (fun j hj => by simp only [hj]) (by simp only [w.ent, w.root, Run.under_zero])
  obtain ⟨x, hx, hclosed, hsegs⟩ : ∃ x, s2.run rid = some x ∧ x.slot n = { r.slot n with ent := none, pruned := false } ∧ x.segs = r.resolvedSegs n o := by
    refine ⟨_, State.run_modRun_self (hs1 ▸ hr) ?id, ?slot, ?segs⟩
    case id => simp only [Run.id_trimPool, Run.id_predUpdate, hlost, hwon]; rfl
    case slot => simp only [Run.slot_trimPool, Run.slot_predUpdate, hlost, hwon, List.foldl_nil]; exact Run.slot_setSlot_self ..
    case segs => simp only [Run.segs_trimPool, Run.segs_predUpdate, hlost, hwon, List.foldl_nil]; exact w.pool_resolved hsides
  have hnone : won = [] := by
    simp only [won, hx, Option.map_some, Option.getD_some, hsegs]
    refine List.filterMap_eq_nil_iff.mpr fun g hg => ?_
    obtain ⟨g', hg', rfl⟩ := List.mem_map.mp hg
    have hcid := hidle g' (List.mem_of_mem_filter hg')
    split <;> exact hcid
  rw [hnone, List.foldl_nil] at ht
  rw [← ht]
  refine ⟨(State.modRun_ctxs ..).trans (congrArg State.ctxs hs1), x, hx, ?_, ?_, hsegs⟩ <;> rw [hclosed]
end NamesRoot

namespace SegReady
variable (w : SegReady s cid r)
include w

theorem resolveBody_of_names {a b : Reg} {n : Nat} {e : CondE} (g : NamesRoot r ((s.ctx cid).xr a) n e) :
    resolveBody a b s cid = .next (s.resolveEntry r.id n e (((s.ctx cid).xr b).getLsbD 0)) := by
  simp only [resolveBody, w.run, State.buffers_of_op w.op w.own, State.resolveNow, w.runs, g.openEntry]
  rfl

theorem resolveBody_of_large {a b : Reg} (hl : ((s.ctx cid).xr a).toNat ≥ 2 ^ 16) : resolveBody a b s cid = .trap 0x0E ((s.ctx cid).xr a).toNat 0 := by
  simp only [resolveBody, w.run, State.buffers_of_op w.op w.own, State.resolveNow, w.runs, Run.openEntry_of_large hl, Nat.not_lt.mpr hl]
  rfl

/-! ### LKRD (R207, R440) -/

theorem lkrdBody_now (d a : Reg) (k : Nat) :
    lkrdBody d a 0 k s cid = .next (s.modCtx cid fun c => c.pendX d (r.lkrdVal ((s.ctx cid).xr a)) 2) := by
  simp only [lkrdBody, w.run, if_true]

/-- LKRD of a side waits for no handle that names nothing. -/
theorem lkrdBody_of_large {d a : Reg} {side : Nat} (k : Nat) (hs : side ≠ 0) (hl : ((s.ctx cid).xr a).toNat ≥ 2 ^ 16) :
    lkrdBody d a side k s cid = .wait (s.modCtx cid fun c => c.stage [rwX d.toNat 0] 0) (Park.of .landing) := by
  simp only [lkrdBody, w.run, if_neg hs, Run.lkrdDone, Run.lkrdVal, Run.openEntry_of_large hl, if_true]
end SegReady

theorem NamesRoot.lkrdVal_spec {hd : Word} {n : Nat} {e : CondE} (w : NamesRoot r hd n e) (hs : e.stale = 0) (ht : e.ft ≤ 65536) (hf : e.fn ≤ 65536) :
    (r.lkrdVal hd).toNat % 2 ^ 17 = e.ft ∧ (r.lkrdVal hd).toNat / 2 ^ 17 % 2 ^ 17 = e.fn := by
  simp only [Run.lkrdVal, w.openEntry, w.lk_side hs, if_true, Bool.false_eq_true, if_false, BitVec.toNat_ofNat]
  omega

theorem Takes.of_eq {i : Instr} {e e' : Eff} (ht : Takes i s cid h e) (he : e = e') : Takes i s cid h e' := he ▸ ht

theorem segmentWordsComplete : SegmentWordsComplete := by
  intro s cid h a b d kind site taken side k r hr hop hown hcc hpool c after argument spawns
  have w : SegReady s cid r := ⟨hr, hop, hown, hcc⟩
  refine ⟨fun hi => ⟨?spawn, ?spawnNone⟩, fun hi => ⟨?cond, ?spawnc, ?resolve, ?large, ?lkrd, ?lkrdSide⟩⟩
  case spawn =>
    intro nd hnd hk h64 h8 ha hlen
    exact w.spawned_spec h64 h8 hlen (Takes.of_eq (hi.runs (spawnBody a kind.toNat)) (w.spawnBody_eq hnd hk ha hlen))
  case spawnNone =>
    intro hother
    have hbody : spawnBody a kind.toNat s cid = .trap 0x0E 0 0 := by simp only [spawnBody, hr, Run.kindArgs_of_other hother]
    exact Takes.of_eq (hi.runs (spawnBody a kind.toNat)) hbody
  case cond =>
    intro sd n hsite hn hfree hlow g gen p
    exact w.cond_opens hsite hn hfree hlow d (hi.runs (condBody d site.toNat))
  case spawnc =>
    intro n e hrange hslot hgen hent hroot hdepth nd hnd hk h64 h8 ha hlen
    have hname : NamesRoot r ((s.ctx cid).xr d) n e := ⟨hrange, hslot, hgen, hent, hroot⟩
    have hcc : BitVec.ofNat 18 ((c.xr d).toNat + (if taken then 2 ^ 16 else 0) + 2 ^ 17) = ccOf n (r.slot n).gen taken := hname.side_eq taken
    rw [hcc]
    exact w.spawned_spec h64 h8 hlen
      (Takes.of_eq ((hi.fewer (Nat.zero_le 1)).runs (spawncBody d a taken kind.toNat)) (w.spawncBody_eq hnd hk ha hlen hname hdepth taken))
  case resolve =>
    intro n e hrange hslot hgen hent hroot hothers hidle o won lost hsides
    have hname : NamesRoot r ((s.ctx cid).xr a) n e := ⟨hrange, hslot, hgen, hent, hroot⟩
    have hwon : won = ccOf n (r.slot n).gen o := hname.side_eq o
    have hlost : lost = ccOf n (r.slot n).gen (!o) := by rw [← hname.side_eq (!o)]; simp only [lost]; cases o <;> rfl
    rw [hwon, hlost] at hsides ⊢
    obtain ⟨hctxs, x, hx, hclosed, hpruned, hsegs⟩ := hname.resolveEntry_spec w.runs hothers hidle hsides
    have hctx (j : Nat) : (s.resolveEntry r.id n e o).ctx j = s.ctx j := congrArg (tget Ctx.init · j) hctxs
    have hexec : Takes (.resolve h a b) s cid h (.next (s.resolveEntry r.id n e o)) :=
      Takes.of_eq ((hi.fewer (Nat.zero_le 1)).runs (resolveBody a b)) (w.resolveBody_of_names hname)
    have hafter : after (settle s cid h (.next (s.resolveEntry r.id n e o))) = x := by
      simp only [after, run_settle_next, hx, Option.getD_some]
    refine ⟨_, hexec, ?_, ?_, ?_, ?_, ?_, fun j hj => (ctx_settle_next_other _ _ _ _ hj).trans (hctx j)⟩
    · rw [hafter]; exact hclosed
    · rw [hafter]; exact hpruned
    · rw [hafter]; exact hsegs
    · rw [ctx_settle_next_self, hctx]
    · have hregs := sameRegs_settle_next s (s.resolveEntry r.id n e o) cid h
      rw [hctx] at hregs
      exact hregs
  case large =>
    intro hl
    have hzero : r.lkrdVal (c.xr a) = 0 := by simp only [Run.lkrdVal, Run.openEntry_of_large hl]
    have hread := w.lkrdBody_now d a 0
    rw [hzero] at hread
    exact ⟨Takes.of_eq ((hi.fewer (Nat.zero_le 1)).runs (resolveBody a b)) (w.resolveBody_of_large hl), Takes.of_eq (hi.runs (lkrdBody d a 0 0)) hread⟩
  case lkrd =>
    intro n e hrange hslot hgen hent hroot hs ht hf
    have hname : NamesRoot r ((s.ctx cid).xr a) n e := ⟨hrange, hslot, hgen, hent, hroot⟩
    exact ⟨r.lkrdVal (c.xr a), Takes.of_eq (hi.runs (lkrdBody d a 0 0)) (w.lkrdBody_now d a 0), hname.lkrdVal_spec hs ht hf⟩
  case lkrdSide =>
    intro sd h1 h2 hside hl
    have hne : side.toNat ≠ 0 := by omega
    have hne' : side ≠ 0 := fun h => hne (by rw [h]; rfl)
    have hissue : Takes (.lkrd h d a side k) s cid h (lkrdBody d a side.toNat k.toNat s cid) := by
      show Machine.issue h [(0, 10)] (if side = 0 then 1 else 13) _ s = _
      rw [if_neg hne']
      exact hi.parks _
    refine ⟨_, hissue.of_eq (w.lkrdBody_of_large k.toNat hne hl), ?_, ?_⟩
    · have hzero : (0 : Word).setWidth 2048 = 0 := by simp
      rw [ctx_settle_wait_self, State.ctx_modCtx_self, Ctx.stage_land, rwX, hzero]
    · rw [ctx_settle_wait_self]; rfl

/-! ## SEGMENT_SELECT (R194, R199) -/

/-- The drop of an L1 reaches cores alone. -/
theorem State.l1Flush_same (s : State) (core : Nat) : s.l1Flush core = { s with cores := (s.l1Flush core).cores } := by
  unfold State.l1Flush
  exact List.foldlRecOn (motive := fun t : State => t = { s with cores := t.cores }) _ _ rfl fun t ht k _ => by
    rw [ht]
    rfl

section
variable (s : State) (core : Nat)
theorem State.ctx_l1Flush (k : Nat) : (s.l1Flush core).ctx k = s.ctx k := by rw [s.l1Flush_same core]; rfl
theorem State.run_l1Flush (id : Nat) : (s.l1Flush core).run id = s.run id := by rw [s.l1Flush_same core]; rfl
theorem State.dram_l1Flush : (s.l1Flush core).dram = s.dram := by rw [s.l1Flush_same core]
end

/-- The likelihood of a certain segment that has none to recompute (R206). -/
theorem Run.segLk_of_certain {g : Seg} (hc : g.ccond = 0) (hs : g.stale = 0) : r.segLk g = 0x10000 := by
  rw [Run.segLk, hs, hc]
  rfl

/-- The only segment of a pool is selected where it waits and is certain. -/
theorem State.selectSeg_of_single {g : Seg} (hsegs : r.segs = [g]) (hc : g.ccond = 0) (hs : g.stale = 0) (hcid : g.cid = none) (k : Nat) :
    s.selectSeg r k = some g := by
  simp [State.selectSeg, hsegs, hcid, Run.segLk_of_certain hc hs]

/-- A pool without a waiting segment has none to select. -/
theorem State.selectSeg_of_none (hsegs : ∀ g ∈ r.segs, g.cid.isNone = false) (k : Nat) : s.selectSeg r k = none := by
  have hfilter (p : Seg → Bool) : (r.segs.filter fun g => g.cid.isNone && p g) = [] :=
    List.filter_eq_nil_iff.mpr fun g hg => by simp [hsegs g hg]
  unfold State.selectSeg
  dsimp only
  rw [hfilter]
  rfl

/-- The context in which a segment starts (R194, R341). -/
def State.segCtx (s : State) (r : Run) (k : Nat) (g : Seg) : Ctx :=
  { Ctx.init with
    role := .seg r.id g.kind, running := true, fstood := s.now, segid := g.id, argbase := BitVec.ofNat 64 (r.argRec g.slot), ccond := g.ccond
    stepEn := r.debug, gap := 1, eligAt := s.cycle (coreOf k) }

/-- The pool of a run names the context in which a segment has started. -/
def Run.startsIn (r : Run) (k : Nat) (g : Seg) : Run := { r.starts with segs := r.segs.map fun x => if x.id = g.id then { x with cid := some k } else x }

theorem State.startSeg_eq (s : State) (r : Run) (k : Nat) (g : Seg) :
    s.startSeg r k g = ((s.setCtx k (s.segCtx r k g)).l1Flush (coreOf k)).modRun r.id (·.startsIn k g) := rfl

/-- A segment starts in its context: no other context and no byte of DRAM changes. -/
theorem State.startSeg_spec (hr : s.run r.id = some r) (k : Nat) (g : Seg) :
    (s.startSeg r k g).ctx k = s.segCtx r k g ∧ (∀ j, j ≠ k → (s.startSeg r k g).ctx j = s.ctx j) ∧ (s.startSeg r k g).dram = s.dram ∧
      (s.startSeg r k g).run r.id = some (r.startsIn k g) := by
  rw [State.startSeg_eq]
  refine ⟨?self, fun j hj => ?others, ?dram, State.run_modRun_self ?run rfl⟩
  case self => rw [State.ctx_modRun, State.ctx_l1Flush, State.ctx_setCtx_self]
  case others => rw [State.ctx_modRun, State.ctx_l1Flush, State.ctx_setCtx_other _ _ hj]
  case dram => rw [State.modRun_dram, State.dram_l1Flush, State.setCtx_dram]
  case run => rw [State.run_l1Flush, State.run_setCtx, hr]

theorem foldl_first {α β : Type} {f : α → β → α} {a b : α} {x : β} (l : List β) (hx : f a x = b) (hb : ∀ y, f b y = b) : (x :: l).foldl f a = b := by
  rw [List.foldl_cons, hx, List.foldl_fixed' hb]

/-- The first idle context takes the only segment of the pool, which leaves none for the others. -/
theorem segmentSelect_starts {g : Seg} {k : Nat} (hr : s.run s.ev.unit = some r) (hst : r.st = .running) (hroll : r.rolling = false) (hcut : r.cut = none)
    (hocc : s.occupied r = true) (hconf : r.confAt < s.cycleOf r) (hidle : (s.idleSegs r).head? = some k) (hwait : r.waitSegs = []) (hsegs : r.segs = [g])
    (hc : g.ccond = 0) (hs : g.stale = 0) (hcid : g.cid = none) : exec .segmentSelect s = .next (s.startSeg r k g) := by
  have hopen : (!r.isRunning || r.rolling || r.cut.isSome || !(s.occupied r) || !(decide (r.confAt < s.cycleOf r))) = false := by
    simp [Run.isRunning, hst, hroll, hcut, hocc, hconf]
  have hr' : s.run r.id = some r := by rw [State.id_of_run hr, hr]
  obtain ⟨-, -, -, hstarted⟩ := State.startSeg_spec hr' k g
  have hwait' : (r.startsIn k g).waitSegs = [] := hwait
  have hsegs' : ∀ x ∈ (r.startsIn k g).segs, x.cid.isNone = false := by simp [Run.startsIn, hsegs]
  obtain ⟨rest, hrest⟩ := List.head?_eq_some_iff.mp hidle
  show Host.Outcome.next _ = _
  simp only [hr, hopen, Bool.false_eq_true, if_false, hrest]
  refine congrArg Host.Outcome.next (foldl_first rest ?_ fun j => ?_)
  · simp only [hr', hwait, List.find?_nil, State.selectSeg_of_single hsegs hc hs hcid]
  · simp only [hstarted, hwait', List.find?_nil, State.selectSeg_of_none hsegs']

/-! ## SPEC_DRAIN (R213, R284, R309) -/

/-- Nothing of the machine differs but one core. -/
structure ChangesCore (s t : State) (k : Nat) : Prop where
  rest : t = { s with cores := t.cores }
  others : ∀ j, j ≠ k → t.core j = s.core j

namespace ChangesCore
variable {k : Nat}

theorem refl (s : State) (k : Nat) : ChangesCore s s k := ⟨rfl, fun _ _ => rfl⟩

theorem trans (a : ChangesCore s t k) (b : ChangesCore t u k) : ChangesCore s u k where
  rest := by rw [b.rest, a.rest]
  others j hj := (b.others j hj).trans (a.others j hj)

theorem modCore (s : State) (k : Nat) (f : Core → Core) : ChangesCore s (s.modCore k f) k := ⟨rfl, fun _ hj => State.core_modCore_other _ _ hj⟩

theorem ctx (a : ChangesCore s t k) (j : Nat) : t.ctx j = s.ctx j := by rw [a.rest]; rfl
theorem sameElsewhere (a : ChangesCore s t k) : SameElsewhere s t := by rw [SameElsewhere, a.rest]
end ChangesCore

/-- A buffered store takes the banks of its words, and changes nothing else of its core that is seen here. -/
theorem State.coreTouch_spec (s : State) (core node : Nat) (ws : List (Nat × Nat × Nat)) : ChangesCore s (s.coreTouch core node ws) core ∧
    ((s.coreTouch core node ws).core core).mem = (s.core core).mem ∧ ((s.coreTouch core node ws).core core).sbuf = (s.core core).sbuf := by
  unfold State.coreTouch
  refine List.foldlRecOn (motive := fun t : State => ChangesCore s t core ∧ (t.core core).mem = (s.core core).mem ∧ (t.core core).sbuf = (s.core core).sbuf)
    _ _ ⟨.refl s core, rfl, rfl⟩ fun t ht w _ => ?_
  obtain ⟨hsame, hmem, hsbuf⟩ := ht
  refine ⟨hsame.trans (.modCore ..), ?_, ?_⟩
  · rw [State.touchBank, State.core_modCore_self, hmem]
  · rw [State.touchBank, State.core_modCore_self, hsbuf]

/-- Without its oldest entry a context has those after it. -/
theorem filter_dropEntry {l rest : List SpecEntry} {e : SpecEntry} (h : (l.filter fun e => e.cid == cid) = e :: rest) :
    ((dropEntry cid l).filter fun e => e.cid == cid) = rest := by
  induction l with
  | nil => simp at h
  | cons a l ih =>
    rw [dropEntry]
    by_cases ha : a.cid = cid
    · rw [List.filter_cons_of_pos (by simp [ha])] at h
      rw [if_pos ha]
      exact (List.cons.inj h).2
    · rw [List.filter_cons_of_neg (by simp [ha])] at h
      rw [if_neg ha, List.filter_cons_of_neg (by simp [ha]), ih h]

theorem State.endDrained_of_unparked (hp : (s.ctx cid).park = none) : s.endDrained cid = s := by simp [State.endDrained, hp]

/-- The machine after a buffered store to core memory has taken effect. -/
def State.storeDrained (s : State) (cid : Nat) (ws : List (Nat × Nat × Nat)) : State :=
  (((s.dropOwn cid).coreTouch (coreOf cid) (s.ctx cid).role.node ws).applyCore (coreOf cid) ws true none).modCore (coreOf cid) fun k =>
    { k with drained := cid :: k.drained }

theorem State.storeDrained_spec {e : SpecEntry} (s : State) {cid : Nat} (hown : s.ownEntries cid = [e]) (ws : List (Nat × Nat × Nat)) :
    ChangesCore s (s.storeDrained cid ws) (coreOf cid) ∧ (s.storeDrained cid ws).ownEntries cid = [] ∧
      ((s.storeDrained cid ws).core (coreOf cid)).mem = coreScatter (s.core (coreOf cid)).mem ws := by
  obtain ⟨hsame, hmem, hsbuf⟩ := (s.dropOwn cid).coreTouch_spec (coreOf cid) (s.ctx cid).role.node ws
  refine ⟨(((ChangesCore.modCore ..).trans hsame).trans (.modCore ..)).trans (.modCore ..), ?own, ?mem⟩
  case own =>
    rw [State.ownEntries, State.storeDrained, State.core_modCore_self, State.applyCore, State.core_modCore_self, hsbuf, State.dropOwn, State.core_modCore_self]
    exact filter_dropEntry hown
  case mem =>
    rw [State.storeDrained, State.core_modCore_self, State.applyCore, State.core_modCore_self, hmem, State.dropOwn, State.core_modCore_self]
    rfl

/-- The oldest effect of a certain context, a store to core memory that nothing holds back, takes effect. -/
theorem specDrain_store {e : SpecEntry} {ws : List (Nat × Nat × Nat)} (hc : s.ev.unit = cid) (hu : (s.ctx cid).uncertain = false)
    (hp : (s.ctx cid).park = none) (hown : s.ownEntries cid = [e]) (heff : e.eff = .core ws true none false)
    (hd : cid ∉ (s.core (coreOf cid)).drained) (ht : s.ringTravels cid = false) (ha : s.afterOf cid = [])
    (hb : ∀ w ∈ ws, w.1 / 0x8000 ∉ (s.core (coreOf cid)).banksBusy) : exec .specDrain s = .next (s.storeDrained cid ws) := by
  have hmay : s.mayDrain cid = true := by simp [State.mayDrain, hu, hd, ht]
  have hop : s.drainOp cid = none := by simp only [State.drainOp, hown, heff]
  have hbehind : s.behindCore cid ws = false := by rw [State.behindCore, ha]; rfl
  have hbusy : s.coreBusy (coreOf cid) ws = false := List.any_eq_false.mpr fun w hw => by simp [State.bankBusy, hb w hw]
  have hdrain : s.drainEntry cid e = some (((s.dropOwn cid).coreTouch (coreOf cid) (s.ctx cid).role.node ws).applyCore (coreOf cid) ws true none) := by
    simp only [State.drainEntry, heff, hbehind, hbusy, Bool.false_and, Bool.or_self, Bool.false_eq_true, if_false]
  have hpark : ((s.storeDrained cid ws).ctx cid).park = none := by rw [(s.storeDrained_spec hown ws).1.ctx, hp]
  show Host.Outcome.next _ = _
  rw [hc]
  simp only [hown, hmay, hop, hdrain, Bool.not_true, Option.any_none, Bool.or_self, Bool.false_eq_true, if_false]
  exact congrArg Host.Outcome.next (State.endDrained_of_unparked hpark)

theorem segmentsStartAndDrain : SegmentsStartAndDrain := by
  intro s r g k
  refine ⟨fun hr hst hroll hcut hocc hconf hidle hwait hsegs hc hs hcid => ?select, fun e ws hu hp hown heff hd ht ha hb => ?drain⟩
  case select =>
    have hid : r.id = s.ev.unit := State.id_of_run hr
    obtain ⟨hself, hothers, hdram, hrun⟩ := State.startSeg_spec (by rw [hid, hr]) k g
    refine ⟨_, r.startsIn k g, BitVec.ofNat 64 (r.argRec g.slot), segmentSelect_starts hr hst hroll hcut hocc hconf hidle hwait hsegs hc hs hcid,
      hid ▸ hrun, ?_, ?_, hothers, hdram⟩
    · simp [Run.startsIn, hsegs]
    · rw [hself, State.segCtx, hc]
  case drain =>
    obtain ⟨hsame, hnone, hmem⟩ := s.storeDrained_spec hown ws
    exact ⟨_, specDrain_store rfl hu hp hown heff hd ht ha hb, hnone, hmem, hsame.ctx, hsame.others, hsame.sameElsewhere⟩

/-- Settles O42: the words by the body of each at an operator outside every condition (`SegReady`, `NamesRoot`), the events by `startSeg` and by the drain
of a store. -/
theorem segmentsComplete : Obligations.SegmentsComplete := ⟨segmentWordsComplete, segmentsStartAndDrain⟩

end Sys2Proof.Machine
end

section
namespace Sys2Proof.Machine
variable {s t u : State} {cid : Nat} {c : Ctx}

/-! ## What the issue of a word leaves (R226, R227, R342, R378) -/

/-- Of a state nothing has changed but the context `cid`, which is `c`, and the count of parks. -/
structure MovesOn (s t : State) (cid : Nat) (c : Ctx) : Prop where
  self : t.ctx cid = c
  others : ∀ k, k ≠ cid → t.ctx k = s.ctx k
  cores : ∀ k, t.core k = s.core k
  rest : SameElsewhere { s with order := t.order } t

namespace MovesOn

theorem refl (s : State) (cid : Nat) : MovesOn s s cid (s.ctx cid) := ⟨rfl, fun _ _ => rfl, fun _ => rfl, rfl⟩

variable (m : MovesOn s t cid c)
include m

theorem modCtx (f : Ctx → Ctx) : MovesOn s (t.modCtx cid f) cid (f c) where
  self := by rw [State.ctx_modCtx_self, m.self]
  others k hk := by rw [State.ctx_modCtx_other _ _ hk, m.others k hk]
  cores k := by rw [State.core_modCtx, m.cores]
  rest := by
    have hrest := m.rest
    rw [SameElsewhere] at hrest ⊢
    rw [hrest]
    rfl

theorem parkCtx (p : Park) : MovesOn s (t.parkCtx cid p) cid { c with park := some { p with order := t.parkPlace cid p, since := t.cycle (coreOf cid) } } where
  self := by rw [State.ctx_parkCtx_self, m.self]
  others k hk := by rw [State.ctx_parkCtx_other _ _ _ hk, m.others k hk]
  cores k := by rw [State.core_parkCtx, m.cores]
  rest := by
    have hrest := m.rest
    rw [SameElsewhere] at hrest ⊢
    rw [hrest]
    rfl

theorem advance (h : Hdr) (pc extra : Nat) : MovesOn s (t.advance cid h pc extra) cid { c with pc := pc, gap := 1 + h.gap.toNat + extra } :=
  m.modCtx fun c => { c with pc := pc, gap := 1 + h.gap.toNat + extra }
end MovesOn

/-- What a word's issue leaves: its own context as given, its core counted, and every other context, core and field as the word's effect left it. -/
structure Leaves (s t : State) (cid : Nat) (c : Ctx) (ends : Bool) : Prop where
  self : t.ctx cid = c
  others : ∀ k, k ≠ cid → t.ctx k = s.ctx k
  counted : t.core (coreOf cid) = Core.counted cid (s.core (coreOf cid)) ends
  cores : ∀ k, k ≠ coreOf cid → t.core k = s.core k
  rest : SameElsewhere { s with order := t.order } t

theorem MovesOn.countIssue (m : MovesOn s t cid c) (ends : Bool) : Leaves s (t.countIssue cid ends) cid c ends where
  self := m.self
  others := m.others
  counted := by rw [State.core_countIssue_self, m.cores]
  cores k hk := by rw [State.core_countIssue_other _ _ _ hk, m.cores]
  rest := by
    have hrest := m.rest
    rw [SameElsewhere] at hrest ⊢
    rw [hrest]
    rfl

theorem Leaves.modCtx {ends : Bool} (l : Leaves s t cid c ends) (f : Ctx → Ctx) : Leaves s (t.modCtx cid f) cid (f c) ends where
  self := by rw [State.ctx_modCtx_self, l.self]
  others k hk := by rw [State.ctx_modCtx_other _ _ hk, l.others k hk]
  counted := by rw [State.core_modCtx, l.counted]
  cores k hk := by rw [State.core_modCtx, l.cores k hk]
  rest := by
    have hrest := l.rest
    rw [SameElsewhere] at hrest ⊢
    rw [hrest]
    rfl

/-- The STEP that is due after a word. -/
def stepAfter (s0 : State) (cid : Nat) (c : Ctx) : Option (Word × Nat) := if (s0.ctx cid).stepEn then some (s0.ir, (s0.ctx cid).pc) else c.stepDue

theorem Leaves.noteIssue {ends : Bool} (l : Leaves s t cid c ends) (s0 : State) (sw : Bool) :
    Leaves s (t.noteIssue s0 cid sw) cid { c with sw := sw, stepDue := stepAfter s0 cid c } ends :=
  l.modCtx fun c => { c with sw := sw, stepDue := stepAfter s0 cid c }

section
variable (s0 s : State) (cid : Nat) (h : Hdr)

theorem leaves_next : Leaves s (settle s0 cid h (.next s)) cid
    { s.ctx cid with pc := (s.ctx cid).pc + 8, gap := 1 + h.gap.toNat, sw := h.sw, stepDue := stepAfter s0 cid (s.ctx cid) } h.sw :=
  (((MovesOn.refl s cid).advance h _ 0).countIssue h.sw).noteIssue s0 h.sw

theorem leaves_last : Leaves s (settle s0 cid h (.last s)) cid
    { s.ctx cid with pc := (s.ctx cid).pc + 8, gap := 1 + h.gap.toNat, sw := true, stepDue := stepAfter s0 cid (s.ctx cid) } true :=
  (((MovesOn.refl s cid).advance h _ 0).countIssue true).noteIssue s0 true

theorem leaves_goto (pc : Nat) : Leaves s (settle s0 cid h (.goto s pc)) cid
    { s.ctx cid with pc := pc, gap := 2 + h.gap.toNat, sw := h.sw, stepDue := stepAfter s0 cid (s.ctx cid) } h.sw := by
  have hgap : 2 + h.gap.toNat = 1 + h.gap.toNat + 1 := by omega
  rw [hgap]
  exact (((MovesOn.refl s cid).advance h pc 1).countIssue h.sw).noteIssue s0 h.sw

theorem leaves_wait (p : Park) : Leaves s (settle s0 cid h (.wait s p)) cid
    { s.ctx cid with
      pc := (s.ctx cid).pc + 8, gap := 1 + h.gap.toNat, sw := true, stepDue := stepAfter s0 cid (s.ctx cid)
      park := some { p with order := s.parkPlace cid p, since := s.cycle (coreOf cid) } } true :=
  ((((MovesOn.refl s cid).advance h _ 0).parkCtx p).countIssue true).noteIssue s0 true

theorem leaves_park (p : Park) : Leaves s (settle s0 cid h (.park s p)) cid
    { s.ctx cid with
      gap := 1, skip := (s.ctx cid).skip || s0.skipped, park := some { p with order := s.parkPlace cid p, since := s.cycle (coreOf cid) } } true :=
  (((MovesOn.refl s cid).parkCtx p).modCtx fun c => { c with gap := 1, skip := c.skip || s0.skipped }).countIssue true
end

/-- Settles O6: the outcomes by what each leaves. -/
theorem issueMovesItsContextOnAlone : Obligations.IssueMovesItsContextOnAlone := by
  intro s0 s cid h c due place counted leaves
  have of_leaves {t : State} {c' : Ctx} {ends : Bool} (l : Leaves s t cid c' ends) : leaves t c' ends :=
    ⟨l.self, l.others, l.counted, l.cores, l.rest⟩
  exact ⟨of_leaves (leaves_next ..), of_leaves (leaves_last ..), fun pc => of_leaves (leaves_goto ..), fun p => of_leaves (leaves_wait ..),
    fun p => of_leaves (leaves_park ..)⟩

end Sys2Proof.Machine
end

section
namespace Sys2Proof.Machine
variable {c d : Ctx} {r : Reg}

/-! ## Results in flight and their writing (R227-R229) -/

theorem Ctx.xr_congr (h : c.x = d.x) (r : Reg) : c.xr r = d.xr r := by rw [Ctx.xr, Ctx.xr, h]

/-- A context whose results in flight all have cycles left writes none. -/
theorem foldl_writeDue_of_early {l : List Pend} (hl : ∀ p ∈ l, p.left ≠ 0) (c : Ctx) :
    l.foldl (fun c p => if p.left = 0 then c.write p.file p.reg p.val else c) c = c := by
  induction l with
  | nil => rfl
  | cons p l ih =>
    rw [List.foldl_cons, if_neg (hl p (by simp)), ih fun q hq => hl q (by simp [hq])]

/-- A scalar result in flight. -/
def scalarPend (d : Reg) (v : Vec) (left : Nat) : Pend := { file := .x, reg := d.toNat, left := left, val := v }

/-- A cycle of a context with nothing in flight changes no register. -/
theorem Ctx.tick_of_none (hp : c.pend = []) : c.tick.x = c.x ∧ c.tick.pend = [] := by
  simp [Ctx.tick, Ctx.writeDue, hp]

/-- A result whose cycles have not run comes a cycle nearer, and changes no register. -/
theorem Ctx.tick_of_early {n : Nat} {v : Vec} {e : Reg} (hp : c.pend = [scalarPend e v (n + 2)]) :
    c.tick.x = c.x ∧ c.tick.pend = [scalarPend e v (n + 1)] := by
  simp [Ctx.tick, Ctx.writeDue, hp, scalarPend]

/-- The last cycle of a result writes it. -/
theorem Ctx.tick_of_due {v : Vec} {e : Reg} (he : e ≠ 0) (hp : c.pend = [scalarPend e v 1]) (r : Reg) :
    c.tick.xr r = (if r = e then v.setWidth 64 else c.xr r) ∧ c.tick.pend = [] := by
  refine ⟨?_, by simp [Ctx.tick, Ctx.writeDue, hp, scalarPend]⟩
  rw [← Ctx.xr_write c v he r]
  refine Ctx.xr_congr ?_ r
  have h0 : e.toNat ≠ 0 := mt Reg.toNat_eq_zero.mp he
  simp [Ctx.tick, Ctx.writeDue, hp, scalarPend, Ctx.write, h0]

/-- The results in flight of a context after its cycles, and its registers. -/
theorem Ctx.repeat_tick_of_early {lat : Nat} {v : Vec} {e : Reg} (hp : c.pend = [scalarPend e v lat]) {n : Nat} (hn : n < lat) :
    (Nat.repeat Ctx.tick n c).x = c.x ∧ (Nat.repeat Ctx.tick n c).pend = [scalarPend e v (lat - n)] := by
  induction n with
  | zero => exact ⟨rfl, hp⟩
  | succ n ih =>
    obtain ⟨hx, hpend⟩ := ih (by omega)
    rw [show lat - n = lat - (n + 1) - 1 + 2 by omega] at hpend
    obtain ⟨hx', hpend'⟩ := Ctx.tick_of_early hpend
    rw [show lat - (n + 1) - 1 + 1 = lat - (n + 1) by omega] at hpend'
    exact ⟨hx'.trans hx, hpend'⟩

theorem Ctx.repeat_tick_of_due {lat : Nat} {v : Vec} {e : Reg} (he : e ≠ 0) (h0 : 0 < lat) (hp : c.pend = [scalarPend e v lat]) {n : Nat} (hn : lat ≤ n) :
    (∀ r, (Nat.repeat Ctx.tick n c).xr r = if r = e then v.setWidth 64 else c.xr r) ∧ (Nat.repeat Ctx.tick n c).pend = [] := by
  induction n, hn using Nat.le_induction with
  | base =>
    obtain ⟨m, rfl⟩ : ∃ m, lat = m + 1 := ⟨lat - 1, by omega⟩
    obtain ⟨hx, hpend⟩ := Ctx.repeat_tick_of_early hp (Nat.lt_succ_self m)
    rw [Nat.add_sub_cancel_left] at hpend
    refine ⟨fun r => ?_, (Ctx.tick_of_due he hpend 0).2⟩
    exact (Ctx.tick_of_due he hpend r).1.trans (by rw [Ctx.xr_congr hx])
  | succ n hn ih =>
    obtain ⟨hx, hpend⟩ := ih
    obtain ⟨hx', hpend'⟩ := Ctx.tick_of_none hpend
    exact ⟨fun r => (Ctx.xr_congr hx' r).trans (hx r), hpend'⟩

theorem resultsAreReadAfterTheirLatency : ResultsAreReadAfterTheirLatency := by
  intro c d v lat hd h0 hp after
  have hdisc : discards .x d.toNat = false := by simp [discards, mt Reg.toNat_eq_zero.mp hd]
  have hpend : (c.pendX d v lat).pend = [scalarPend d (v.setWidth 2048) lat] := by
    rw [Ctx.pendX, Ctx.pendW_pend, hdisc, hp]
    rfl
  have hx : (c.pendX d v lat).x = c.x := by simp [Ctx.pendX]
  have hv : (v.setWidth 2048).setWidth 64 = v := by simp
  refine ⟨fun n hn r => ?early, fun n hn => ?due⟩
  case early => exact Ctx.xr_congr ((Ctx.repeat_tick_of_early hpend hn).1.trans hx) r
  case due =>
    obtain ⟨hr, hnone⟩ := Ctx.repeat_tick_of_due hd h0 hpend hn
    exact ⟨by rw [hr, if_pos rfl, hv], fun r hne => by rw [hr, if_neg hne, Ctx.xr_congr hx], hnone⟩

theorem laterIssuedResultStands : LaterIssuedResultStands := by
  intro c d v w others hd ho due c2
  have hkept : others.filter (fun p => p.left != 0) = others := List.filter_eq_self.mpr fun p hp => by simpa using ho p hp
  have hfold : c2.pend.foldl (fun c p => if p.left = 0 then c.write p.file p.reg p.val else c) c2 =
      (c2.write .x d.toNat v).write .x d.toNat w := by
    simp only [c2, List.foldl_cons, List.foldl_append, List.foldl_nil, foldl_writeDue_of_early ho]
    rfl
  have hread (r : Reg) : c2.writeDue.xr r = if r = d then w.setWidth 64 else c2.xr r := by
    have hx : c2.writeDue.x = ((c2.write .x d.toNat v).write .x d.toNat w).x := by rw [Ctx.writeDue, ← hfold]
    rw [Ctx.xr_congr hx, Ctx.xr_write _ w hd, Ctx.xr_write _ v hd]
    split <;> rfl
  refine ⟨by rw [hread, if_pos rfl], ?_, fun r hr => by rw [hread, if_neg hr]; rfl⟩
  simp [c2, due, Ctx.writeDue, hkept]

/-- Settles O9: a result alone in flight by its cycles, and two that are due by the order in which they are written. -/
theorem resultsAppearWhenTheirCyclesHaveRun : Obligations.ResultsAppearWhenTheirCyclesHaveRun :=
  ⟨resultsAreReadAfterTheirLatency, laterIssuedResultStands⟩

end Sys2Proof.Machine
end

section
namespace Sys2Proof.Machine
variable {s : State}

/-! ## The frame of a word of one result, and the writebacks (R227-R229, R365) -/

theorem sameElsewhere_settle_next (s0 t : State) (cid : Nat) (h : Hdr) : SameElsewhere t (settle s0 cid h (.next t)) := rfl

theorem sameElsewhere_trans {s t u : State} (a : SameElsewhere s t) (b : SameElsewhere t u) : SameElsewhere s u := by
  rw [SameElsewhere] at a b ⊢
  rw [b, a]

/-- Settles O14: the issue leaves what the effect left, and the effect is one more result in flight. -/
theorem scalarResultsChangeNothingElse : Obligations.ScalarResultsChangeNothingElse := by
  intro s cid h f n v lat c t
  have hmem := sameMemories_trans (sameMemories_modCtx s cid fun c => c.pendW f n v lat) (sameMemories_settle_next s _ cid h)
  obtain ⟨hother, hdram, hcore⟩ := hmem
  refine ⟨⟨stepAfter s cid c, ?self⟩, hother, fun k => ⟨(hcore k).1, (hcore k).2.1⟩, hdram,
    sameElsewhere_trans (t := s.modCtx cid fun c => c.pendW f n v lat) rfl (sameElsewhere_settle_next ..)⟩
  rw [(leaves_next s (s.modCtx cid fun c => c.pendW f n v lat) cid h).self, State.ctx_modCtx_self]
  cases hd : discards f n <;> simp only [Ctx.pendW, hd] <;> rfl

theorem State.live_of_goes {cid : Nat} {r : Run} (hr : s.ctxRun cid = some r) (hg : r.goes (s.ctx cid).role.node = true)
    (hs : r.stops cid (s.ctx cid) = false) : s.live cid = true := by
  simp only [State.live, hr, hg, hs, Bool.not_false, Bool.and_self]

/-- The registers of every file are the same. -/
structure SameFiles (c d : Ctx) : Prop where
  x : c.x = d.x
  v : c.v = d.v
  p : c.p = d.p
  m : c.m = d.m
  sh : c.sh = d.sh

namespace SameFiles
variable {c d : Ctx}

theorem write (h : SameFiles c d) (k : File) (n : Nat) (w : Vec) : SameFiles (c.write k n w) (d.write k n w) := by
  obtain ⟨hx, hv, hp, hm, hsh⟩ := h
  by_cases h0 : n = 0 <;> cases k <;> constructor <;> simp [Ctx.write, *]

theorem foldl {α : Type} {f : Ctx → α → Ctx} (hf : ∀ c d a, SameFiles c d → SameFiles (f c a) (f d a)) (h : SameFiles c d) (l : List α) :
    SameFiles (l.foldl f c) (l.foldl f d) := by
  induction l generalizing c d with
  | nil => exact h
  | cons a l ih => exact ih (hf c d a h)

theorem writes (h : SameFiles c d) (ws : List RegWrite) :
    SameFiles (ws.foldl (fun c w => c.write w.file w.reg w.val) c) (ws.foldl (fun c w => c.write w.file w.reg w.val) d) :=
  h.foldl (fun _ _ w h => h.write w.file w.reg w.val) ws

theorem writeDue (h : SameFiles c d) (hp : c.pend = d.pend) : SameFiles c.writeDue d.writeDue := by
  have hw := h.foldl (f := fun c (p : Pend) => if p.left = 0 then c.write p.file p.reg p.val else c) (fun c d p h => by
    split
    · exact h.write p.file p.reg p.val
    · exact h) c.pend
  rw [Ctx.writeDue, Ctx.writeDue, ← hp]
  exact ⟨hw.x, hw.v, hw.p, hw.m, hw.sh⟩
end SameFiles

/-- Writes to registers leave a park as it stands. -/
theorem Ctx.park_writes (ws : List RegWrite) (c : Ctx) : (ws.foldl (fun c w => c.write w.file w.reg w.val) c).park = c.park :=
  List.foldlRecOn (motive := fun d : Ctx => d.park = c.park) _ _ rfl fun d hd w _ => by rw [Ctx.write_park, hd]

theorem Ctx.park_writeDue (c : Ctx) : c.writeDue.park = c.park :=
  List.foldlRecOn (motive := fun d : Ctx => d.park = c.park) c.pend _ rfl fun d hd p _ => by
    split
    · rw [Ctx.write_park, hd]
    · exact hd

/-- The registers after a staged result: the results that are due, then its own writes, behind which nothing remains in flight for the same registers. -/
def Ctx.landedRegs (l : Landing) (c : Ctx) : Ctx :=
  l.writes.foldl (fun c w => c.write w.file w.reg w.val)
    { c.writeDue with pend := c.writeDue.pend.filter fun p => !(p.left == 1 && l.writes.any fun w => w.file == p.file && w.reg == p.reg) }

/-- What a staged result makes of its context, its park apart. -/
def Ctx.landed (l : Landing) (c : Ctx) : Ctx := { c.landedRegs l with land := none, gap := Nat.max c.writeDue.gap 1 }

theorem Ctx.park_landed (l : Landing) (c : Ctx) : (c.landed l).park = c.park := (Ctx.park_writes ..).trans (Ctx.park_writeDue c)

theorem Ctx.files_landedRegs {c d : Ctx} (h : SameFiles c d) (hp : c.pend = d.pend) (l : Landing) :
    SameFiles (c.landedRegs l) (l.writes.foldl (fun c w => c.write w.file w.reg w.val) d.writeDue) := by
  obtain ⟨hx, hv, hpr, hm, hsh⟩ := h.writeDue hp
  refine SameFiles.writes (c := { c.writeDue with pend := _ }) ?_ l.writes
  exact ⟨hx, hv, hpr, hm, hsh⟩

/-- Nothing differs but contexts. -/
def OnlyContexts (s t : State) : Prop := t = { s with ctxs := t.ctxs }

theorem onlyContexts_trans {s t u : State} (a : OnlyContexts s t) (b : OnlyContexts t u) : OnlyContexts s u := by
  rw [OnlyContexts] at a b ⊢
  rw [b, a]

theorem onlyContexts_modCtx (s : State) (cid : Nat) (f : Ctx → Ctx) : OnlyContexts s (s.modCtx cid f) := rfl

/-- The state in which a staged result is written: the load that it is of is sampled first. -/
def State.loadSampled (s : State) (cid : Nat) (l : Landing) : State :=
  match l.load with
  | some t => s.sample cid 3 (s.cycle (coreOf cid) - t)
  | none => s

theorem State.loadSampled_spec (s : State) (cid : Nat) (l : Landing) : (∃ m, (s.loadSampled cid l).ctx cid = { s.ctx cid with mon := m }) ∧
    (∀ k, k ≠ cid → (s.loadSampled cid l).ctx k = s.ctx k) ∧ OnlyContexts s (s.loadSampled cid l) := by
  unfold State.loadSampled
  split
  · exact ⟨⟨_, State.ctx_modCtx_self ..⟩, fun k hk => State.ctx_modCtx_other _ _ hk, rfl⟩
  · exact ⟨⟨_, rfl⟩, fun _ _ => rfl, rfl⟩

/-- The write of a staged result whose cycles have run. -/
theorem landingWrite_eq {l : Landing} (hl : (s.ctx s.ev.unit).land = some l) (h0 : l.left = 0) (hlive : s.live s.ev.unit = true) :
    exec .landingWrite s = .next (((s.loadSampled s.ev.unit l).modCtx s.ev.unit (Ctx.landed l)).unpark s.ev.unit) := by
  show Host.Outcome.next _ = _
  simp only [hl, h0, hlive, ne_eq, not_true_eq_false, decide_false, Bool.not_true, Bool.or_self, Bool.false_eq_true, if_false]
  rfl

theorem landingWrite_spec (l : Landing) {p : Park} (hp : (s.ctx s.ev.unit).park = some p) :
    let t := ((s.loadSampled s.ev.unit l).modCtx s.ev.unit (Ctx.landed l)).unpark s.ev.unit
    (t.ctx s.ev.unit).land = none ∧ (t.ctx s.ev.unit).park = none ∧ 1 ≤ (t.ctx s.ev.unit).gap ∧
      SameFiles (t.ctx s.ev.unit) (l.writes.foldl (fun c w => c.write w.file w.reg w.val) (s.ctx s.ev.unit).writeDue) ∧
      (∀ k, k ≠ s.ev.unit → t.ctx k = s.ctx k) ∧ OnlyContexts s t := by
  intro t
  obtain ⟨⟨m, hself⟩, hothers, hrest⟩ := s.loadSampled_spec s.ev.unit l
  have hpark : (((s.loadSampled s.ev.unit l).modCtx s.ev.unit (Ctx.landed l)).ctx s.ev.unit).park = some p := by
    rw [State.ctx_modCtx_self, Ctx.park_landed, hself, hp]
  obtain ⟨m', hself'⟩ := State.ctx_unpark_self hpark
  rw [State.ctx_modCtx_self, hself] at hself'
  have hfiles := Ctx.files_landedRegs (c := { s.ctx s.ev.unit with mon := m }) (d := s.ctx s.ev.unit) ⟨rfl, rfl, rfl, rfl, rfl⟩ rfl l
  refine ⟨?_, ?_, ?_, ?_, fun k hk => ?_, ?_⟩
  · rw [hself']; rfl
  · rw [hself']
  · rw [hself']; exact Nat.le_max_right ..
  · rw [hself']; exact ⟨hfiles.x, hfiles.v, hfiles.p, hfiles.m, hfiles.sh⟩
  · rw [State.ctx_unpark_other _ hk, State.ctx_modCtx_other _ _ hk, hothers k hk]
  · exact onlyContexts_trans (onlyContexts_trans hrest (onlyContexts_modCtx ..)) (KeepsRegs.unpark ..).rest

/-- Settles O16: the two events by what each writes to its context. -/
theorem writebacksWriteWhatIsDue : Obligations.WritebacksWriteWhatIsDue := by
  intro s r cid c hr hg hs
  have hlive := State.live_of_goes hr hg hs
  refine ⟨⟨s.modCtx cid Ctx.writeDue, ?_, State.ctx_modCtx_self .., fun k hk => State.ctx_modCtx_other _ _ hk, rfl, rfl⟩, fun ws p lo hl hp => ?_⟩
  · show Host.Outcome.next _ = _
    rw [if_pos hlive]
  · obtain ⟨hland, hpark, hgap, hfiles, hothers, hrest⟩ := landingWrite_spec { writes := ws, left := 0, load := lo } hp
    refine ⟨_, landingWrite_eq hl rfl hlive, hland, hpark, hgap, ⟨hfiles.x, hfiles.v, hfiles.p, hfiles.m, hfiles.sh⟩, hothers, ?_, ?_⟩
    · rw [SameElsewhere, hrest]
    · rw [hrest]

end Sys2Proof.Machine
end

section
namespace Sys2Proof.Machine
variable {s t : State} {cid : Nat} {h : Hdr}

/-! ## Accumulators and slots as words use them (R225, R233-R236) -/

theorem State.acc_setAcc_self (s : State) (k a : Nat) (x : Acc) : (s.setAcc k a x).acc k a = x := by
  rw [State.acc, State.setAcc, State.core_modCore_self, tget_tset_self]

theorem State.acc_setAcc_other (s : State) (k : Nat) {a j : Nat} (x : Acc) (hj : j ≠ a) : (s.setAcc k a x).acc k j = s.acc k j := by
  rw [State.acc, State.setAcc, State.core_modCore_self, tget_tset_other hj, State.acc]

/-- Of a state nothing has changed but accumulator `m` of core `k`, which is `x` but for who has used it. -/
structure OneAcc (s t : State) (k m : Nat) (x : Acc) : Prop where
  names : ∃ l, t.acc k m = { x with sharers := l }
  others : ∀ j, j ≠ m → t.acc k j = s.acc k j
  core : t.core k = { s.core k with accs := (t.core k).accs }
  rest : ChangesCore s t k

namespace OneAcc
variable {k m : Nat} {x : Acc}

theorem refl (s : State) (k m : Nat) : OneAcc s s k m (s.acc k m) := ⟨⟨_, rfl⟩, fun _ _ => rfl, rfl, ChangesCore.refl s k⟩

theorem setAcc (o : OneAcc s t k m x) {y z : Acc} (hz : ∃ l, z = { y with sharers := l }) : OneAcc s (t.setAcc k m z) k m y where
  names := by rw [State.acc_setAcc_self]; exact hz
  others j hj := by rw [State.acc_setAcc_other _ _ _ hj, o.others j hj]
  core := by rw [State.setAcc, State.core_modCore_self, o.core]
  rest := o.rest.trans (ChangesCore.modCore ..)

end OneAcc

/-- An accumulator that a word's node may use is recorded as used by it. -/
theorem State.useAcc_of_may {a : Nat}
    (hm : (s.acc (coreOf cid) a).sharers.contains (s.ctx cid).role.node = true ∨ (s.acc (coreOf cid) a).sharers.length < 8) :
    ∃ u, s.useAcc cid a = some u ∧ OneAcc s u (coreOf cid) a (s.acc (coreOf cid) a) := by
  have hok : sharersOk (s.acc (coreOf cid) a).sharers (s.ctx cid).role.node = true := by simpa [sharersOk] using hm
  exact ⟨_, if_pos hok, (OneAcc.refl s _ a).setAcc ⟨_, rfl⟩⟩

/-- A word that issues with room for a result issues without asking for it. -/
theorem Issues.without {fs : List (Nat × Nat)} {n : Nat} (g : Issues s cid h fs n) : Issues s cid h fs 0 :=
  ⟨g.named, g.latched, g.lets, .inl rfl⟩

/-- An operator that has nothing to drain executes a word that segments wait with. -/
structure Free (s : State) (cid : Nat) : Prop where
  op : (s.ctx cid).role.isOp = true
  own : s.ownEntries cid = []

theorem Free.takes {fs : List (Nat × Nat)} {n k : Nat} (w : Free s cid) (g : Issues s cid h fs k) (hk : n = k ∧ n ≠ 13 ∨ n = 13 ∧ k = 1)
    (body : State → Nat → Eff) {e : Eff} (he : body s cid = e) : issue h fs n (certain body) s = .next (settle s cid h e) := by
  rw [g.issue n (certain body) hk, certain_of_operator w.op w.own, he]

/-! ## The words of accumulators (R236, R237, R240, R241, R450, R453, R454) -/

/-- What a word that changes one accumulator leaves. -/
structure ChangesAcc (s t : State) (cid m : Nat) (x : Acc) : Prop where
  names : ∃ l, accOf t (coreOf cid) m = { x with sharers := l }
  others : ∀ j, j ≠ m → accOf t (coreOf cid) j = accOf s (coreOf cid) j
  regs : SameRegs (s.ctx cid) (t.ctx cid)
  mem : (t.core (coreOf cid)).mem = (s.core (coreOf cid)).mem
  tiles : (t.core (coreOf cid)).tiles = (s.core (coreOf cid)).tiles
  ctxs : ∀ j, j ≠ cid → t.ctx j = s.ctx j
  dram : t.dram = s.dram

/-- The issue of a word changes no accumulator beside what its effect has. -/
theorem OneAcc.issued {u : State} {m : Nat} {x : Acc} (o : OneAcc s u (coreOf cid) m x) (hm : SameMemories u t cid) (hr : SameRegs (u.ctx cid) (t.ctx cid)) :
    ChangesAcc s t cid m x := by
  obtain ⟨hctx, hdram, hcore⟩ := hm
  obtain ⟨hmem, -, haccs, htiles⟩ := hcore (coreOf cid)
  have hacc (j : Nat) : accOf t (coreOf cid) j = u.acc (coreOf cid) j := by rw [accOf, haccs]; rfl
  refine ⟨?_, fun j hj => ?_, ?_, ?_, ?_, fun j hj => ?_, ?_⟩
  · rw [hacc]; exact o.names
  · rw [hacc]; exact o.others j hj
  · rw [← o.rest.ctx]; exact hr
  · rw [hmem, o.core]
  · rw [htiles, o.core]
  · rw [hctx j hj, o.rest.ctx]
  · rw [hdram, o.rest.rest]

theorem OneAcc.next {u : State} {m : Nat} {x : Acc} (o : OneAcc s u (coreOf cid) m x) : ChangesAcc s (settle s cid h (.next u)) cid m x :=
  o.issued (sameMemories_settle_next ..) (sameRegs_settle_next ..)

theorem sameRegs_settle_wait (s0 u : State) (cid : Nat) (h : Hdr) (p : Park) : SameRegs (u.ctx cid) ((settle s0 cid h (.wait u p)).ctx cid) := by
  rw [ctx_settle_wait_self]
  exact ⟨rfl, rfl, rfl, rfl, rfl, rfl, rfl, rfl, rfl, rfl, rfl⟩

theorem OneAcc.wait {u : State} {m : Nat} {x : Acc} (o : OneAcc s u (coreOf cid) m x) (p : Park) : ChangesAcc s (settle s cid h (.wait u p)) cid m x :=
  o.issued (sameMemories_settle_wait ..) (sameRegs_settle_wait ..)

/-- SealCheck finds nothing where every row's residue holds. -/
theorem State.sealCheck_of_ok {t : State} {k src b : Nat} (hr : ∀ i, i < 64 → (t.acc k b).rowOk i = true) : t.sealCheck k src b = t := by
  have hnone : (List.range 64).find? (fun i => !(t.acc k b).rowOk i) = none := List.find?_eq_none.mpr fun i hi => by simp [hr i (List.mem_range.mp hi)]
  rw [State.sealCheck, hnone]

section
variable {a : Nat} (hm : (s.acc (coreOf cid) a).sharers.contains (s.ctx cid).role.node = true ∨ (s.acc (coreOf cid) a).sharers.length < 8)
include hm

theorem mzeroBody_of_unbound (hb : (s.acc (coreOf cid) a).bind = none) : ∃ u, mzeroBody a s cid = .next u ∧
    OneAcc s u (coreOf cid) a { s.acc (coreOf cid) a with val := [], rho := [], anchor := 0, xw := false, fires := 0, st := .empty, pchunks := 0 } := by
  obtain ⟨u, hu, o⟩ := State.useAcc_of_may hm
  obtain ⟨l, hl⟩ := o.names
  refine ⟨_, ?_, o.setAcc ⟨l, congrArg (fun x : Acc => { x with val := [], rho := [], anchor := 0, xw := false, fires := 0, st := .empty, pchunks := 0 }) hl⟩⟩
  rw [mzeroBody, if_neg (by simp [hb]), hu]

theorem munbindBody_of_free (hb : (s.acc (coreOf cid) a).bind.isSome = true) (hf : (s.core (coreOf cid)).firing ≠ some a)
    (hq : (s.acc (coreOf cid) a).queue = []) : ∃ u, munbindBody a s cid = .next u ∧ OneAcc s u (coreOf cid) a { s.acc (coreOf cid) a with bind := none } := by
  obtain ⟨u, hu, o⟩ := State.useAcc_of_may hm
  obtain ⟨l, hl⟩ := o.names
  have hfire : u.firingOn (coreOf cid) a = false := by rw [State.firingOn, o.core]; simpa using hf
  have hsome : (s.acc (coreOf cid) a).bind.isNone = false := by simpa using hb
  refine ⟨_, ?_, o.setAcc ⟨l, congrArg (fun x : Acc => { x with bind := none }) hl⟩⟩
  simp only [munbindBody, hsome, hu, hfire, hq, List.isEmpty_nil, Bool.not_true, Bool.or_self, Bool.false_eq_true, if_false]

theorem msealBody_of_accum (hst : (s.acc (coreOf cid) a).st = .accum) (hf : (s.core (coreOf cid)).firing ≠ some a)
    (hr : ∀ i, i < 64 → (s.acc (coreOf cid) a).rowOk i = true) : ∃ u, msealBody a s cid = .next u ∧ OneAcc s u (coreOf cid) a { s.acc (coreOf cid) a with st := .sealed } := by
  obtain ⟨u, hu, o⟩ := State.useAcc_of_may hm
  obtain ⟨l, hl⟩ := o.names
  have hfire : u.firingOn (coreOf cid) a = false := by rw [State.firingOn, o.core]; simpa using hf
  have hsealed : (u.acc (coreOf cid) a).st = .accum := by rw [hl]; exact hst
  have hrows (i : Nat) (hi : i < 64) : ((u.setAcc (coreOf cid) a { u.acc (coreOf cid) a with st := .sealed }).acc (coreOf cid) a).rowOk i = true := by
    rw [State.acc_setAcc_self, hl]
    exact hr i hi
  refine ⟨_, ?_, o.setAcc ⟨l, congrArg (fun x : Acc => { x with st := .sealed }) hl⟩⟩
  simp only [msealBody, hst, hu, hsealed, hfire, reduceCtorEq, Bool.false_eq_true, if_false, State.sealCheck_of_ok hrows]

theorem msealBody_of_sealed (hst : (s.acc (coreOf cid) a).st = .sealed) : ∃ u, msealBody a s cid = .next u ∧ OneAcc s u (coreOf cid) a (s.acc (coreOf cid) a) := by
  obtain ⟨u, hu, o⟩ := State.useAcc_of_may hm
  obtain ⟨l, hl⟩ := o.names
  have hsealed : (u.acc (coreOf cid) a).st = .sealed := by rw [hl]; exact hst
  refine ⟨u, ?_, o⟩
  simp only [msealBody, hst, hu, hsealed, reduceCtorEq, if_false, if_true]

theorem mstatBody_of_may (d : Reg) {r : Reg} (hr : r.toNat = a) : ∃ u, OneAcc s u (coreOf cid) a (s.acc (coreOf cid) a) ∧
    mstatBody d r s cid = .next (u.modCtx cid fun c => c.pendX d (s.acc (coreOf cid) a).stat 2) := by
  obtain ⟨u, hu, o⟩ := State.useAcc_of_may hm
  obtain ⟨l, hl⟩ := o.names
  refine ⟨u, o, ?_⟩
  rw [mstatBody, hr, hu]
  dsimp only
  rw [hl]
  rfl

theorem mchkBody_of_free (d : Reg) {r : Reg} (hr : r.toNat = a) (hf : (s.core (coreOf cid)).firing ≠ some a) :
    ∃ u, OneAcc s u (coreOf cid) a (s.acc (coreOf cid) a) ∧
      mchkBody d r s cid = .wait (u.modCtx cid fun c => c.stage [rwX d.toNat (s.acc (coreOf cid) a).checkBits] 0) (Park.of .landing) := by
  obtain ⟨u, hu, o⟩ := State.useAcc_of_may hm
  obtain ⟨l, hl⟩ := o.names
  have hfire : u.firingOn (coreOf cid) a = false := by rw [State.firingOn, o.core]; simpa using hf
  refine ⟨u, o, ?_⟩
  simp only [mchkBody, hr, hu, hfire, Bool.false_eq_true, if_false]
  rw [hl]
  rfl

/-- The binding that MBIND makes. -/
def bindingOf (f : BindF) : Binding :=
  { k := f.k.toNat, stride := f.stride.toNat, base := f.base.toNat, amask := f.amask.toNat, ty := f.ty.toNat, ca := f.ca, cb := f.cb }

/-- An accumulator that a binding is made on: no fire yet, and a SEALED one accumulates again. -/
def Acc.bound (x : Acc) (b : Binding) : Acc :=
  { x with bind := some b, fires := 0, st := if x.st = .sealed then .accum else x.st, pchunks := if x.st = .sealed then 0 else x.pchunks }

theorem mbindBody_of_unbound {f : BindF} (ha : f.acc.toNat = a) (hb : (s.acc (coreOf cid) a).bind = none)
    (heven : tyW f.ty.toNat = 2 → f.base.toNat % 2 = 0 ∧ f.stride.toNat % 2 = 0)
    (hmask : ∀ j b, j < 4 → (s.acc (coreOf cid) j).bind = some b → b.amask &&& f.amask.toNat = 0) :
    ∃ u, mbindBody f s cid = .next u ∧ OneAcc s u (coreOf cid) a ((s.acc (coreOf cid) a).bound (bindingOf f)) := by
  obtain ⟨u, hu, o⟩ := State.useAcc_of_may hm
  obtain ⟨l, hl⟩ := o.names
  have hodd : (decide (tyW f.ty.toNat = 2) && (decide (f.base.toNat % 2 = 1) || decide (f.stride.toNat % 2 = 1))) = false := by
    by_cases h2 : tyW f.ty.toNat = 2
    · simp [heven h2]
    · simp [h2]
  refine ⟨_, ?_, o.setAcc ⟨l, congrArg (fun x : Acc => x.bound (bindingOf f)) hl⟩⟩
  rw [mbindBody]
  simp only [ha, hb, Option.isSome_none, hodd, Bool.or_self]
  refine (if_neg ?_).trans (by rw [hu]; rfl)
  rw [Bool.false_or, Bool.not_eq_true, List.any_eq_false]
  intro i hi
  split
  · next b hi' => simp [hmask i b (List.mem_range.mp hi) hi']
  · exact Bool.false_ne_true

omit hm in
theorem mbindBody_of_bound (f : BindF) (hb : (s.acc (coreOf cid) f.acc.toNat).bind.isSome = true) : mbindBody f s cid = .trap 0x0B 0 0 := by
  rw [mbindBody]
  simp only [hb, Bool.true_or, if_true]

/-- The read token that MREAD queues. -/
def readToken (g : MReadF) (c : Ctx) (cid : Nat) : MToken :=
  { f := g.f.toNat, row := (c.xr g.b).toNat, ty := g.ty.toNat, rm := rmMode c g.rm, cid := cid, d := g.d.toNat, node := c.role.node }

theorem mreadBody_of_admitted {g : MReadF} (ha : g.a.toNat = a) (hrow : ((s.ctx cid).xr g.b).toNat ≤ 63) (hq : (s.acc (coreOf cid) a).queue.length < 16)
    (hst : ((s.acc (coreOf cid) a).bind = none ∧ (s.acc (coreOf cid) a).st = .sealed) ∨
      ∃ b, (s.acc (coreOf cid) a).bind = some b ∧ 0 < g.f.toNat ∧ (s.acc (coreOf cid) a).fires ≤ g.f.toNat ∧ g.f.toNat ≤ b.k) :
    ∃ u, mreadBody g s cid = .wait u { Park.of .mread with a := a } ∧
      OneAcc s u (coreOf cid) a { s.acc (coreOf cid) a with queue := (s.acc (coreOf cid) a).queue ++ [readToken g (s.ctx cid) cid] } := by
  obtain ⟨u, hu, o⟩ := State.useAcc_of_may hm
  obtain ⟨l, hl⟩ := o.names
  have hrow' : ¬((s.ctx cid).xr g.b).toNat > 63 := by omega
  have hlen : ¬(s.acc (coreOf cid) a).queue.length ≥ 16 := Nat.not_le.mpr hq
  refine ⟨_, ?_, o.setAcc ⟨l, congrArg (fun x : Acc => { x with queue := x.queue ++ [readToken g (s.ctx cid) cid] }) hl⟩⟩
  rcases hst with ⟨hb, hs⟩ | ⟨b, hb, h0, hf, hk⟩
  · simp only [mreadBody, ha, hb, hs, hu, hrow', hlen, bne_self_eq_false, decide_false, Bool.or_self, Bool.false_eq_true, if_false]
    rfl
  · have h0' : ¬g.f.toNat = 0 := by omega
    have hf' : ¬g.f.toNat < (s.acc (coreOf cid) a).fires := by omega
    have hk' : ¬g.f.toNat > b.k := by omega
    simp only [mreadBody, ha, hb, hu, hrow', hlen, h0', hf', hk', decide_false, Bool.or_self, Bool.false_eq_true, if_false]
    rfl

omit hm in
theorem mreadBody_of_refused (g : MReadF) (hbad : 63 < ((s.ctx cid).xr g.b).toNat ∨
    ((s.acc (coreOf cid) g.a.toNat).bind = none ∧ (s.acc (coreOf cid) g.a.toNat).st ≠ .sealed)) : mreadBody g s cid = .trap 0x0B 0 0 := by
  rw [mreadBody]
  rcases hbad with hrow | ⟨hb, hst⟩
  · simp [hrow]
  · simp [hb, hst]
end

/-- The fields of a number put together as MSTAT's. -/
theorem stat_split {c b w t q f n k : Nat} (hc : c < 4) (hb : b < 2) (hw : w < 2) :
    let v := c + b * 4 + w * 8 + t * 2 ^ 4 + q * 2 ^ 11 + f * 2 ^ 16 + n * 2 ^ 32 + k * 2 ^ 48
    v % 2 ^ 64 % 4 = c ∧ v / 4 % 2 = b ∧ v / 8 % 2 = w ∧
      (t < 16 → q < 2 ^ 5 → f < 2 ^ 16 → n < 2 ^ 16 → k < 2 ^ 16 →
        v % 2 ^ 64 / 2 ^ 16 % 2 ^ 16 = f ∧ v % 2 ^ 64 / 2 ^ 32 % 2 ^ 16 = n ∧ v % 2 ^ 64 / 2 ^ 48 = k) := by
  omega

/-- What MSTAT reads, field by field (R454). -/
theorem Acc.stat_fields (x : Acc) : x.stat.toNat % 4 = (match x.st with | .empty => 0 | .accum => 1 | .sealed => 2) ∧ x.stat.getLsbD 2 = x.bind.isSome ∧
    x.stat.getLsbD 3 = x.xw ∧
    (x.fires < 2 ^ 16 → x.queue.length < 2 ^ 5 → (∀ b, x.bind = some b → b.ty < 16 ∧ b.k < 2 ^ 16) → x.stat.toNat / 2 ^ 16 % 2 ^ 16 = x.fires ∧
      x.stat.toNat / 2 ^ 48 = (x.bind.map (·.k)).getD 0 ∧ x.stat.toNat / 2 ^ 32 % 2 ^ 16 = if x.st = .empty then 0 else x.anchor.toNat) := by
  have hstat : x.stat = BitVec.ofNat 64 ((match x.st with | .empty => 0 | .accum => 1 | .sealed => 2) + x.bind.isSome.toNat * 4 + x.xw.toNat * 8 +
      (x.bind.elim 0 (·.ty)) * 2 ^ 4 + x.queue.length * 2 ^ 11 + x.fires * 2 ^ 16 + (if x.st = .empty then 0 else x.anchor.toNat) * 2 ^ 32 +
      (x.bind.elim 0 (·.k)) * 2 ^ 48) := by
    rw [Acc.stat]
    cases x.bind <;> cases x.xw <;> cases x.st <;> rfl
  have hcode : (match x.st with | .empty => 0 | .accum => 1 | .sealed => 2 : Nat) < 4 := by cases x.st <;> decide
  obtain ⟨h4, hbound, hxw, hfields⟩ := stat_split (t := x.bind.elim 0 (·.ty)) (q := x.queue.length) (f := x.fires)
    (n := if x.st = .empty then 0 else x.anchor.toNat) (k := x.bind.elim 0 (·.k)) hcode x.bind.isSome.toNat_lt x.xw.toNat_lt
  refine ⟨?_, ?_, ?_, fun hf hq hb => ?_⟩
  · rw [hstat, BitVec.toNat_ofNat]
    exact h4
  · rw [hstat, BitVec.getLsbD_ofNat, Nat.testBit_eq_decide_div_mod_eq, hbound]
    cases x.bind <;> rfl
  · rw [hstat, BitVec.getLsbD_ofNat, Nat.testBit_eq_decide_div_mod_eq, hxw]
    cases x.xw <;> rfl
  · have hty : x.bind.elim 0 (·.ty) < 16 ∧ x.bind.elim 0 (·.k) < 2 ^ 16 := by
      cases hx : x.bind with
      | none => decide
      | some b => exact hb b hx
    have hanchor : (if x.st = .empty then 0 else x.anchor.toNat) < 2 ^ 16 := by
      split
      · decide
      · exact x.anchor.isLt
    obtain ⟨h16, h32, h48⟩ := hfields hty.1 hq hf hanchor hty.2
    rw [hstat, BitVec.toNat_ofNat]
    refine ⟨h16, h48.trans ?_, h32⟩
    cases x.bind <;> rfl

/-- A list of bits of which none is set makes 0. -/
theorem Acc.checkBits_of_ok (x : Acc) (h : x.st = .empty ∨ x.xw = true ∨ ∀ i, i < 64 → x.rowOk i = true) : x.checkBits = 0 := by
  rw [Acc.checkBits]
  rcases h with h | h | h
  · simp [h]
  · simp [h]
  · have hfold : (List.range 64).foldl (fun m i => if x.rowOk i then m else m + 2 ^ i) 0 = 0 :=
      List.foldlRecOn (motive := fun m : Nat => m = 0) _ _ rfl fun m hm i hi => by simp [h i (List.mem_range.mp hi), hm]
    rw [hfold]
    split <;> rfl

theorem rwX_zero (n : Nat) : rwX n 0 = { file := .x, reg := n, val := 0 } := congrArg (RegWrite.mk .x n) (BitVec.setWidth_zero 2048 64)

/-- Settles O44: each word by what its body makes of the accumulator it names. -/
theorem accumulatorWordsComplete : Obligations.AccumulatorWordsComplete := by
  intro s cid h f g d a hop hrun hown c k n mayUse changes
  have w : Free s cid := ⟨hop, hown⟩
  have of_next {i : Instr} {m : Nat} {x : Acc} {u : State} (he : exec i s = .next (settle s cid h (.next u))) (o : OneAcc s u k m x) : changes i m x := by
    obtain ⟨hnames, hothers, hregs, hmem, htiles, hctxs, hdram⟩ := o.next (h := h)
    exact ⟨_, he, hnames, hothers, hregs, hmem, htiles, hctxs, hdram⟩
  refine ⟨fun hd hm g => ?named, fun ha hm g => ?read, fun g hm => ?bind, fun g ha hm => ?mread⟩
  case named =>
    refine ⟨fun hb => ?_, fun hb => ?_, fun hb hf hq => ?_, fun hb => ?_, fun hst hf hr => ?_, fun hst => ?_, fun hst => ?_⟩
    · obtain ⟨u, hu, o⟩ := mzeroBody_of_unbound hm hb
      exact of_next (w.takes g.without (.inl ⟨rfl, by decide⟩) _ hu) o
    · exact w.takes g.without (.inl ⟨rfl, by decide⟩) (mzeroBody d.toNat) (if_pos hb)
    · obtain ⟨u, hu, o⟩ := munbindBody_of_free hm hb hf hq
      exact of_next (w.takes g.without (.inl ⟨rfl, by decide⟩) _ hu) o
    · exact w.takes g.without (.inl ⟨rfl, by decide⟩) (munbindBody d.toNat) (if_pos (Option.isNone_iff_eq_none.mpr hb))
    · obtain ⟨u, hu, o⟩ := msealBody_of_accum hm hst hf hr
      exact of_next (w.takes g.without (.inl ⟨rfl, by decide⟩) _ hu) o
    · obtain ⟨u, hu, o⟩ := msealBody_of_sealed hm hst
      exact of_next (w.takes g.without (.inl ⟨rfl, by decide⟩) _ hu) o
    · exact w.takes g.without (.inl ⟨rfl, by decide⟩) (msealBody d.toNat) (if_pos hst)
  case read =>
    refine ⟨?_, fun hf hr => ?_⟩
    · obtain ⟨u, o, hu⟩ := mstatBody_of_may hm d rfl
      refine ⟨_, _, w.takes g (.inl ⟨rfl, by decide⟩) _ hu, ?_, Acc.stat_fields _⟩
      rw [ctx_settle_next_self, State.ctx_modCtx_self, o.rest.ctx]
      rfl
    · obtain ⟨u, o, hu⟩ := mchkBody_of_free hm d rfl hf
      refine ⟨_, w.takes g (.inr ⟨rfl, rfl⟩) _ hu, ?_, ?_⟩
      · rw [ctx_settle_wait_self, State.ctx_modCtx_self, Acc.checkBits_of_ok (s.acc (coreOf cid) a.toNat) hr, rwX_zero]
        rfl
      · rw [ctx_settle_wait_self]
        rfl
  case bind =>
    refine ⟨fun hb heven hmask => ?_, fun hb => ?_⟩
    · obtain ⟨u, hu, o⟩ := mbindBody_of_unbound hm rfl hb heven hmask
      exact of_next (w.takes g (.inl ⟨rfl, by decide⟩) _ hu) o
    · exact w.takes g (.inl ⟨rfl, by decide⟩) (mbindBody f) (mbindBody_of_bound f hb)
  case mread =>
    refine ⟨fun hrow hq hst => ?_, fun hbad => ?_⟩
    · obtain ⟨u, hu, o⟩ := mreadBody_of_admitted hm rfl hrow hq hst
      obtain ⟨hnames, hothers, hregs, hmem, htiles, hctxs, hdram⟩ := o.wait (h := h) { Park.of .mread with a := _ }
      exact ⟨_, w.takes g (.inr ⟨rfl, rfl⟩) _ hu, hnames, hothers, hregs, hmem, htiles, hctxs, hdram⟩
    · exact w.takes g (.inr ⟨rfl, rfl⟩) (mreadBody _) (mreadBody_of_refused _ hbad)

end Sys2Proof.Machine
end

section
namespace Sys2Proof.Machine

/-! ## Bytes of memory, loaded and stored -/

theorem mload_lt (m : Memory) (a n : Nat) : mload m a n < 2 ^ (8 * n) := by
  induction n generalizing a with
  | zero => simp [mload]
  | succ n ih =>
    have hb := (mget m a).isLt
    have hrest := ih (a + 1)
    rw [mload, Nat.mul_succ, Nat.add_comm, Nat.pow_add]
    omega

/-- Each byte of a load is the byte of memory that stands there. -/
theorem mload_byte (m : Memory) (a : Nat) {n i : Nat} (hi : i < n) : mload m a n / 2 ^ (8 * i) % 2 ^ 8 = (mget m (a + i)).toNat := by
  induction n generalizing a i with
  | zero => omega
  | succ n ih =>
    have hb := (mget m a).isLt
    rw [mload]
    cases i with
    | zero => simp only [Nat.mul_zero, Nat.pow_zero, Nat.div_one, Nat.add_zero]; omega
    | succ i =>
      rw [Nat.mul_succ, Nat.add_comm (8 * i) 8, Nat.pow_add, ← Nat.div_div_eq_div_mul, show a + (i + 1) = a + 1 + i by omega, ← ih (a + 1) (by omega)]
      congr 2
      omega

/-- Byte `i` of a vector register. -/
theorem extractLsb'_ofNat_byte {n : Nat} (h : n < 2 ^ 2048) (i : Nat) : (BitVec.ofNat 2048 n).extractLsb' (8 * i) 8 = BitVec.ofNat 8 (n / 2 ^ (8 * i)) := by
  apply BitVec.eq_of_toNat_eq
  rw [BitVec.extractLsb'_toNat, BitVec.toNat_ofNat, BitVec.toNat_ofNat, Nat.shiftRight_eq_div_pow, Nat.mod_eq_of_lt h]

/-- A vector loaded from memory holds its bytes, and zeros beyond. -/
theorem vec_mload (m : Memory) (a : Nat) {n : Nat} (hn : n ≤ 256) (i : Nat) :
    (BitVec.ofNat 2048 (mload m a n)).extractLsb' (8 * i) 8 = if i < n then mget m (a + i) else 0 := by
  have hwidth : 8 * n ≤ 2048 := by omega
  have hfit := (mload_lt m a n).trans_le (Nat.pow_le_pow_right Nat.two_pos hwidth)
  rw [extractLsb'_ofNat_byte hfit]
  apply BitVec.eq_of_toNat_eq
  rw [BitVec.toNat_ofNat]
  split
  · next hi => exact mload_byte m a hi
  · next hi =>
    have hshort : 8 * n ≤ 8 * i := by omega
    rw [Nat.div_eq_of_lt ((mload_lt m a n).trans_le (Nat.pow_le_pow_right Nat.two_pos hshort)), Nat.zero_mod]
    rfl

end Sys2Proof.Machine
end

section
namespace Sys2Proof.Machine
variable {s t u : State} {cid k : Nat} {h : Hdr}

/-! ## Slots of tiles and of the Mantel (R225, R233-R235, R242) -/

theorem State.slotOf_setSlotOf (s : State) (k : Nat) (mt : Bool) (n : Nat) (x : Slot) (mt' : Bool) (n' : Nat) :
    (s.setSlotOf k mt n x).slotOf k mt' n' = if mt' = mt ∧ n' = n then x else s.slotOf k mt' n' := by
  rw [State.slotOf, State.setSlotOf, State.core_modCore_self, State.slotOf]
  cases mt <;> cases mt' <;> simp [tget_tset]

/-- Of a state nothing has changed but slots of core `k`. -/
structure OnlySlots (s t : State) (k : Nat) : Prop where
  core : t.core k = { s.core k with tiles := (t.core k).tiles, mantel := (t.core k).mantel }
  rest : ChangesCore s t k

namespace OnlySlots

theorem refl (s : State) (k : Nat) : OnlySlots s s k := ⟨rfl, ChangesCore.refl s k⟩

theorem trans (a : OnlySlots s t k) (b : OnlySlots t u k) : OnlySlots s u k := ⟨by rw [b.core, a.core], a.rest.trans b.rest⟩

theorem setSlotOf (s : State) (k : Nat) (mt : Bool) (n : Nat) (x : Slot) : OnlySlots s (s.setSlotOf k mt n x) k where
  core := by
    rw [State.setSlotOf, State.core_modCore_self]
    cases mt <;> rfl
  rest := ChangesCore.modCore ..

theorem ctx (o : OnlySlots s t k) (j : Nat) : t.ctx j = s.ctx j := o.rest.ctx j

end OnlySlots

/-- A node that may use a slot: one of those that have, or one of at most eight. -/
def Slot.admits (x : Slot) (node : Nat) : Prop := x.sharers.contains node = true ∨ x.sharers.length < 8

/-- The node is recorded as a user of a list of slots, and nothing else of them changes. -/
structure Uses (s t : State) (k : Nat) (mt : Bool) (ns : List Nat) : Prop where
  only : OnlySlots s t k
  named : ∀ n ∈ ns, ∃ l, t.slotOf k mt n = { s.slotOf k mt n with sharers := l }
  others : ∀ mt' n, (mt' ≠ mt ∨ n ∉ ns) → t.slotOf k mt' n = s.slotOf k mt' n

/-- What a word does to slots before its own effect, as each of them is seen by its node. -/
theorem State.useSlots_of_admitted {mt : Bool} {ns : List Nat} (hn : ns.Nodup) {s : State}
    (hm : ∀ n ∈ ns, (s.slotOf (coreOf cid) mt n).admits (s.ctx cid).role.node) : ∃ u, s.useSlots cid mt ns = some u ∧ Uses s u (coreOf cid) mt ns := by
  induction ns generalizing s with
  | nil => exact ⟨s, rfl, OnlySlots.refl .., fun n hn => absurd hn (by simp), fun _ _ _ => rfl⟩
  | cons n ns ih =>
    obtain ⟨hnot, hn⟩ := List.nodup_cons.mp hn
    let x := s.slotOf (coreOf cid) mt n
    let v := s.setSlotOf (coreOf cid) mt n { x with sharers := addSharer x.sharers (s.ctx cid).role.node }
    have hok : sharersOk x.sharers (s.ctx cid).role.node = true := by simpa [sharersOk, Slot.admits] using hm n (by simp)
    have hv (mt' : Bool) (n' : Nat) (h : mt' ≠ mt ∨ n' ≠ n) : v.slotOf (coreOf cid) mt' n' = s.slotOf (coreOf cid) mt' n' := by
      rw [State.slotOf_setSlotOf, if_neg (by tauto)]
    have hne {n' : Nat} (h : n' ∈ ns) : n' ≠ n := fun e => hnot (e ▸ h)
    obtain ⟨u, hu, huse⟩ := ih hn (s := v) fun n' h => by
      rw [hv mt n' (.inr (hne h))]
      exact hm n' (by simp [h])
    refine ⟨u, ?_, (OnlySlots.setSlotOf ..).trans huse.only, fun n' h => ?_, fun mt' n' h => ?_⟩
    · rw [← hu, State.useSlots, List.foldl_cons]
      exact congrArg (List.foldl _ · ns) (if_pos hok)
    · rcases List.mem_cons.mp h with rfl | h
      · rw [huse.others mt n' (.inr hnot), State.slotOf_setSlotOf, if_pos ⟨rfl, rfl⟩]
        exact ⟨_, rfl⟩
      · rw [← hv mt n' (.inr (hne h))]
        exact huse.named n' h
    · rw [huse.others mt' n' (by simp at h; tauto), hv mt' n' (by simp at h; tauto)]

theorem Core.counted_slots (cid : Nat) (k : Core) (e : Bool) : (Core.counted cid k e).tiles = k.tiles ∧ (Core.counted cid k e).mantel = k.mantel := by
  rw [Core.counted]
  split <;> exact ⟨rfl, rfl⟩

/-- What the issue of a word leaves of slots. -/
theorem slotAt_of_counted {e : Bool} (hc : t.core (coreOf cid) = Core.counted cid (u.core (coreOf cid)) e) (mt : Bool) (n : Nat) :
    slotAt t (coreOf cid) mt n = u.slotOf (coreOf cid) mt n := by
  obtain ⟨htiles, hmantel⟩ := Core.counted_slots cid (u.core (coreOf cid)) e
  rw [slotAt, hc, htiles, hmantel, State.slotOf]

/-- What a word that changes slots alone leaves of its registers and of its core. -/
structure SlotsIssued (s t u : State) (cid : Nat) : Prop where
  regs : SameRegs (s.ctx cid) (t.ctx cid)
  mem : (t.core (coreOf cid)).mem = (s.core (coreOf cid)).mem
  accs : (t.core (coreOf cid)).accs = (s.core (coreOf cid)).accs
  slots : ∀ mt n, slotAt t (coreOf cid) mt n = u.slotOf (coreOf cid) mt n

theorem OnlySlots.next (o : OnlySlots s u (coreOf cid)) : SlotsIssued s (settle s cid h (.next u)) u cid := by
  obtain ⟨-, -, hcore⟩ := sameMemories_settle_next s u cid h
  obtain ⟨hmem, -, haccs, -⟩ := hcore (coreOf cid)
  refine ⟨?_, ?_, ?_, slotAt_of_counted (leaves_next s u cid h).counted⟩
  · rw [← o.ctx]; exact sameRegs_settle_next ..
  · rw [hmem, o.core]
  · rw [haccs, o.core]

/-! ## TWRV and TRDV (R451) -/

/-- No copy of a core with none in flight holds an access back. -/
theorem State.interlocked_of_none {space : Nat} (hc : (s.core (coreOf cid)).copies = []) (xs : List (Int × Int)) : s.interlocked cid space xs = false := by
  rw [State.interlocked, State.interlocks, hc]
  rfl

/-- The row of a tile: 32 or 64 elements of `w` bytes, in the slot where the row begins. -/
theorem rowAt_of_inside {ty slot row : Nat} {mt : Bool} (hw : tyW ty = 1 ∨ tyW ty = 2) (hr : row < if mt then 32 else 64) (hs : tyW ty = 2 → mt = true → slot % 2 = 0) :
    rowAt ty mt slot row = some (slot + (if mt then 64 else 32) * row * tyW ty / (if mt then 2048 else 4096),
      (if mt then 64 else 32) * row * tyW ty % (if mt then 2048 else 4096), (if mt then 64 else 32) * tyW ty) := by
  cases mt with
  | false =>
    have hr' : ¬row ≥ 64 := by simpa using hr
    have hb : 32 * row * tyW ty < 4096 := by rcases hw with h | h <;> rw [h] <;> simp at hr <;> omega
    simp [rowAt, hr', Nat.div_eq_of_lt hb, Nat.mod_eq_of_lt hb]
  | true =>
    have hr' : ¬row ≥ 32 := by simpa using hr
    have hodd : ¬(tyW ty = 2 ∧ slot % 2 = 1) := fun ⟨h2, h1⟩ => by
      have := hs h2 rfl
      omega
    simp [rowAt, hodd]
    omega

theorem rowAt_of_outside {ty slot row : Nat} {mt : Bool} (hr : (if mt then 32 else 64) ≤ row) : rowAt ty mt slot row = none := by
  cases mt <;> simp_all [rowAt]

section
variable {ty : BitVec 4} {mt : Bool} {slot : BitVec 8} {a : Reg} {m first len : Nat}
  (hrow : rowAt ty.toNat mt slot.toNat ((s.ctx cid).xr a).toNat = some (m, first, len)) (hacq : s.acquiring cid = false)
include hrow hacq

theorem twrvBody_of_full (b : Reg) (hfull : (s.slotOf (coreOf cid) mt m).full = true) : twrvBody ty mt slot a b s cid = .trap 0x0B 0 0 := by
  simp only [twrvBody, hrow, hacq, Bool.false_eq_true, if_false, hfull, if_true]

variable (hcopies : (s.core (coreOf cid)).copies = []) (hm : (s.slotOf (coreOf cid) mt m).admits (s.ctx cid).role.node)
include hcopies hm

theorem twrvBody_writes (b : Reg) (hfull : (s.slotOf (coreOf cid) mt m).full = false) : ∃ u, Uses s u (coreOf cid) mt [m] ∧
    twrvBody ty mt slot a b s cid = .next (u.setSlotOf (coreOf cid) mt m
      { u.slotOf (coreOf cid) mt m with data := mwrite (u.slotOf (coreOf cid) mt m).data first (natLe len ((s.ctx cid).vr b).toNat) }) := by
  obtain ⟨u, hu, huse⟩ := State.useSlots_of_admitted (cid := cid) (List.nodup_singleton m) fun n hn => (List.mem_singleton.mp hn) ▸ hm
  have hlock (space : Nat) (xs : List (Int × Int)) : u.interlocked cid space xs = false := State.interlocked_of_none (by rw [huse.only.core, hcopies]) xs
  refine ⟨u, huse, ?_⟩
  simp only [twrvBody, hrow, hacq, hfull, hu, hlock, Bool.false_eq_true, if_false]

theorem trdvBody_reads (d : Reg) : ∃ u, Uses s u (coreOf cid) mt [m] ∧ trdvBody ty mt slot d a s cid =
    .next (u.modCtx cid fun c => c.pendV d (BitVec.ofNat 2048 (mload (s.slotOf (coreOf cid) mt m).data first len)) 4) := by
  obtain ⟨u, hu, huse⟩ := State.useSlots_of_admitted (cid := cid) (List.nodup_singleton m) fun n hn => (List.mem_singleton.mp hn) ▸ hm
  have hlock (space : Nat) (xs : List (Int × Int)) : u.interlocked cid space xs = false := State.interlocked_of_none (by rw [huse.only.core, hcopies]) xs
  obtain ⟨l, hl⟩ := huse.named m (List.mem_singleton_self m)
  refine ⟨u, huse, ?_⟩
  simp only [trdvBody, hrow, hacq, hu, hlock, Bool.false_eq_true, if_false]
  rw [hl]
end

/-! ## TTAG and MNTAG (R452) -/

/-- A tag that waits for no fire is set or cleared at once. -/
theorem State.tag_at_once {k : Nat} (q : TagReq) (hf : (s.core k).firing = none) (hq : (s.core k).tagq = []) : OnlySlots s (s.tag k q) k ∧
    (∃ b, (s.tag k q).slotOf k q.mantel q.slot = { s.slotOf k q.mantel q.slot with full := q.full, beta := b }) ∧
    ∀ mt n, (mt ≠ q.mantel ∨ n ≠ q.slot) → (s.tag k q).slotOf k mt n = s.slotOf k mt n := by
  have hnext : s.tagNext k q.mantel q.slot = (s.slotOf k q.mantel q.slot).full := by rw [State.tagNext, hq]; rfl
  have hfires : s.firesOn k q.mantel q.slot = false := by rw [State.firesOn, hf]
  rw [State.tag, hnext, hfires]
  cases he : (s.slotOf k q.mantel q.slot).full == q.full with
  | true =>
    refine ⟨OnlySlots.refl .., ⟨(s.slotOf k q.mantel q.slot).beta, ?_⟩, fun _ _ _ => rfl⟩
    rw [if_pos rfl, ← beq_iff_eq.mp he]
  | false =>
    simp only [Bool.false_eq_true, if_false, State.putTag, he]
    refine ⟨OnlySlots.setSlotOf .., ⟨_, (State.slotOf_setSlotOf ..).trans (if_pos ⟨rfl, rfl⟩)⟩, fun mt n h => ?_⟩
    · rw [State.slotOf_setSlotOf, if_neg (by tauto)]

/-- The tags of a list of slots are set or cleared at once where no fire is in progress. -/
theorem State.tags_at_once {k ty : Nat} {mt full : Bool} {ns : List Nat} (hn : ns.Nodup) {s : State} (hf : (s.core k).firing = none) (hq : (s.core k).tagq = []) :
    let t := ns.foldl (fun s n => s.tag k { slot := n, mantel := mt, full := full, ty := ty }) s
    OnlySlots s t k ∧ (∀ n ∈ ns, ∃ b, t.slotOf k mt n = { s.slotOf k mt n with full := full, beta := b }) ∧
      ∀ mt' n, (mt' ≠ mt ∨ n ∉ ns) → t.slotOf k mt' n = s.slotOf k mt' n := by
  induction ns generalizing s with
  | nil => exact ⟨OnlySlots.refl .., fun n hn => absurd hn (by simp), fun _ _ _ => rfl⟩
  | cons n ns ih =>
    obtain ⟨hnot, hn⟩ := List.nodup_cons.mp hn
    obtain ⟨honly, hself, hother⟩ := State.tag_at_once { slot := n, mantel := mt, full := full, ty := ty } hf hq
    obtain ⟨honly', hself', hother'⟩ := ih hn (s := s.tag k { slot := n, mantel := mt, full := full, ty := ty }) (by rw [honly.core, hf]) (by rw [honly.core, hq])
    refine ⟨honly.trans honly', fun n' h => ?_, fun mt' n' h => ?_⟩
    · rcases List.mem_cons.mp h with rfl | h
      · rw [List.foldl_cons, hother' mt n' (.inr hnot)]
        exact hself
      · have hne : n' ≠ n := fun e => hnot (e ▸ h)
        rw [List.foldl_cons, ← hother mt n' (.inr hne)]
        exact hself' n' h
    · rw [List.foldl_cons, hother' mt' n' (by simp at h; tauto), hother mt' n' (by simp at h; tauto)]

theorem tagBody_at_once {ty : Nat} {mt full : Bool} {ns : List Nat} (hn : ns.Nodup) (hf : (s.core (coreOf cid)).firing = none)
    (hq : (s.core (coreOf cid)).tagq = []) (hm : ∀ n ∈ ns, (s.slotOf (coreOf cid) mt n).admits (s.ctx cid).role.node) :
    ∃ u, tagBody ty mt ns full s cid = .next u ∧ OnlySlots s u (coreOf cid) ∧
      (∀ n ∈ ns, (u.slotOf (coreOf cid) mt n).full = full ∧ (u.slotOf (coreOf cid) mt n).data = (s.slotOf (coreOf cid) mt n).data) ∧
      ∀ mt' n, (mt' ≠ mt ∨ n ∉ ns) → u.slotOf (coreOf cid) mt' n = s.slotOf (coreOf cid) mt' n := by
  obtain ⟨v, hv, huse⟩ := State.useSlots_of_admitted (cid := cid) hn hm
  obtain ⟨honly, hself, hother⟩ := State.tags_at_once (ty := ty) (mt := mt) (full := full) hn (s := v) (k := coreOf cid)
    (by rw [huse.only.core, hf]) (by rw [huse.only.core, hq])
  refine ⟨_, by rw [tagBody, hv], huse.only.trans honly, fun n hn => ?_, fun mt' n hn => ?_⟩
  · obtain ⟨b, hb⟩ := hself n hn
    obtain ⟨l, hl⟩ := huse.named n hn
    rw [hb, hl]
    exact ⟨rfl, rfl⟩
  · rw [hother mt' n hn, huse.others mt' n hn]

theorem tyBytes_one_or_two {ty : BitVec 4} (h : ty.toNat ≤ 1 ∨ (8 ≤ ty.toNat ∧ ty.toNat ≤ 11)) : tyBytes ty = 1 ∨ tyBytes ty = 2 := by
  revert h
  revert ty
  decide

/-! ## The words of tiles as they issue -/

section
variable {mt : Bool} {m first len : Nat} {x : Slot} (hx : s.slotOf (coreOf cid) mt m = x)
include hx

/-- A row written to a slot, as the issue leaves it. -/
theorem row_written (huse : Uses s u (coreOf cid) mt [m]) (v : Vec) :
    let y := { u.slotOf (coreOf cid) mt m with data := mwrite (u.slotOf (coreOf cid) mt m).data first (natLe len v.toNat) }
    let t := settle s cid h (.next (u.setSlotOf (coreOf cid) mt m y))
    ((∀ i, i < len → mget (slotAt t (coreOf cid) mt m).data (first + i) = v.extractLsb' (8 * i) 8) ∧
      (∀ i, i < first ∨ first + len ≤ i → mget (slotAt t (coreOf cid) mt m).data i = mget x.data i) ∧
      (slotAt t (coreOf cid) mt m).full = x.full ∧ (slotAt t (coreOf cid) mt m).beta = x.beta) ∧
      ∀ mt' n, (mt', n) ≠ (mt, m) → slotAt t (coreOf cid) mt' n = slotAt s (coreOf cid) mt' n := by
  intro y t
  have hslots := slotAt_of_counted (leaves_next s (u.setSlotOf (coreOf cid) mt m y) cid h).counted
  obtain ⟨l, hl⟩ := huse.named m (List.mem_singleton_self m)
  have hy : slotAt t (coreOf cid) mt m = { x with sharers := l, data := mwrite x.data first (natLe len v.toNat) } :=
    (hslots mt m).trans (by rw [State.slotOf_setSlotOf, if_pos ⟨rfl, rfl⟩]; simp only [y, hl, hx])
  obtain ⟨hin, hout⟩ := mget_mwrite_natLe x.data first len v.toNat
  rw [hy]
  refine ⟨⟨fun i hi => (hin i hi).trans (BitVec.eq_of_toNat_eq ?_), hout, rfl, rfl⟩, fun mt' n hne => ?_⟩
  · rw [BitVec.toNat_ofNat, BitVec.extractLsb'_toNat, Nat.shiftRight_eq_div_pow]
  · have hother : ¬(mt' = mt ∧ n = m) := fun ⟨h1, h2⟩ => hne (by rw [h1, h2])
    rw [hslots, State.slotOf_setSlotOf, if_neg hother, huse.others mt' n (by simp; tauto)]
    rfl

/-- A row read from a slot, as the issue leaves it. -/
theorem row_read (huse : Uses s u (coreOf cid) mt [m]) (hlen : len ≤ 256) (d : Reg) :
    let v := BitVec.ofNat 2048 (mload x.data first len)
    let t := settle s cid h (.next (u.modCtx cid fun c => c.pendV d v 4))
    (t.ctx cid).pend = ((s.ctx cid).pendV d v 4).pend ∧ (∀ i, i < len → v.extractLsb' (8 * i) 8 = mget x.data (first + i)) ∧
      (∀ i, len ≤ i → i < 256 → v.extractLsb' (8 * i) 8 = 0) ∧ (slotAt t (coreOf cid) mt m).data = x.data ∧ (slotAt t (coreOf cid) mt m).full = x.full := by
  intro v t
  obtain ⟨l, hl⟩ := huse.named m (List.mem_singleton_self m)
  have hslot : slotAt t (coreOf cid) mt m = { x with sharers := l } := (slotAt_of_counted (leaves_next ..).counted mt m).trans (hx ▸ hl)
  refine ⟨?_, fun i hi => ?_, fun i hi _ => ?_, by rw [hslot], by rw [hslot]⟩
  · rw [ctx_settle_next_self, State.ctx_modCtx_self, huse.only.ctx]
  · rw [vec_mload _ _ hlen, if_pos hi]
  · rw [vec_mload _ _ hlen, if_neg (by omega)]
end

/-- A word that sets or clears the tags of a list of slots. -/
theorem tags_issue {i : Instr} {ty : Nat} {mt full : Bool} {ns : List Nat} (hn : ns.Nodup) (hf : (s.core (coreOf cid)).firing = none)
    (hq : (s.core (coreOf cid)).tagq = []) (hexec : ∀ e, tagBody ty mt ns full s cid = e → exec i s = .next (settle s cid h e))
    (hm : ∀ n ∈ ns, (slotAt s (coreOf cid) mt n).admits (s.ctx cid).role.node) :
    ∃ t, exec i s = .next t ∧
      (∀ n ∈ ns, (slotAt t (coreOf cid) mt n).full = full ∧ (slotAt t (coreOf cid) mt n).data = (slotAt s (coreOf cid) mt n).data) ∧
      (∀ mt' n, (mt' ≠ mt ∨ n ∉ ns) → slotAt t (coreOf cid) mt' n = slotAt s (coreOf cid) mt' n) ∧
      SameRegs (s.ctx cid) (t.ctx cid) ∧ (t.core (coreOf cid)).mem = (s.core (coreOf cid)).mem := by
  obtain ⟨u, hu, honly, hself, hother⟩ := tagBody_at_once (ty := ty) (full := full) hn hf hq hm
  obtain ⟨hregs, hmem, -, hslots⟩ := honly.next (h := h)
  refine ⟨_, hexec _ hu, fun n hn => ?_, fun mt' n hn => ?_, hregs, hmem⟩
  · rw [hslots]; exact hself n hn
  · rw [hslots]; exact hother mt' n hn

/-- MNTAG of a type of one byte names one slot, of two bytes the two slots of a tile. -/
theorem mntagBody_of_one {ty : BitVec 4} (h1 : tyBytes ty = 1) (slot : BitVec 8) (full : Bool) :
    mntagBody ty slot full s cid = tagBody ty.toNat true [slot.toNat] full s cid := if_neg (by rw [tyW_toNat, h1]; decide)

theorem mntagBody_of_two {ty : BitVec 4} (h2 : tyBytes ty = 2) {slot : BitVec 8} (he : slot.toNat % 2 = 0) (full : Bool) :
    mntagBody ty slot full s cid = tagBody ty.toNat true [slot.toNat, slot.toNat + 1] full s cid := by
  rw [mntagBody, if_pos (by rw [tyW_toNat]; exact h2), if_neg (by omega)]

/-- Settles O45: TWRV and TRDV by the row that they find, the tags by `State.tag_at_once`. -/
theorem tileWordsComplete : Obligations.TileWordsComplete := by
  intro s cid h ty mantel slot a b d full g hop hrun hown hcopies hwq hty hslot heven c k w row per rows size m first x mayUse
  have wf : Free s cid := ⟨hop, hown⟩
  have takes {body : State → Nat → Eff} {e : Eff} (he : body s cid = e) : issue h [] 0 (certain body) s = .next (settle s cid h e) :=
    wf.takes g.without (.inl ⟨rfl, by decide⟩) body he
  have takes1 {body : State → Nat → Eff} {e : Eff} (he : body s cid = e) : issue h [] 1 (certain body) s = .next (settle s cid h e) :=
    wf.takes g (.inl ⟨rfl, by decide⟩) body he
  have hacq : s.acquiring cid = false := State.acquiring_eq_false hwq
  have hw := tyBytes_one_or_two hty
  have hfits : per * w ≤ 256 := by
    have hper : per ≤ 64 := by simp only [per]; split <;> omega
    rcases hw with h | h <;> simp only [w, h] <;> omega
  have hrow (hr : row < rows) : rowAt ty.toNat mantel slot.toNat row = some (m, first, per * w) := rowAt_of_inside hw hr heven
  refine ⟨fun hr hm hx => ?write, fun hr hx => ?full, fun hr => ⟨?outside, ?outside'⟩, fun hr hm => ?read, fun hf hq => ?tags⟩
  case write =>
    obtain ⟨u, huse, hu⟩ := twrvBody_writes (hrow hr) hacq hcopies hm b hx
    obtain ⟨hregs, hmem, haccs, -⟩ := (huse.only.trans (OnlySlots.setSlotOf ..)).next (h := h)
    obtain ⟨⟨hin, hout, hfull, hbeta⟩, hothers⟩ := row_written (h := h) (first := first) (len := per * w) (x := x) rfl huse (c.vr b)
    exact ⟨_, takes hu, ⟨hin, hout, hfull.trans hx, hbeta⟩, hothers, hregs, hmem, haccs⟩
  case full => exact takes (twrvBody_of_full (hrow hr) hacq b hx)
  case outside => exact takes (body := twrvBody ty mantel slot a b) (by rw [twrvBody, rowAt_of_outside hr])
  case outside' => exact takes1 (body := trdvBody ty mantel slot d a) (by rw [trdvBody, rowAt_of_outside hr])
  case read =>
    obtain ⟨u, huse, hu⟩ := trdvBody_reads (hrow hr) hacq hcopies hm d
    exact ⟨_, _, takes1 hu, row_read rfl huse hfits d⟩
  case tags =>
    refine ⟨fun _ => tags_issue (List.nodup_singleton _) hf hq fun e he => takes he, fun h1 => ?_, fun h2 he => ?_⟩
    · exact tags_issue (List.nodup_singleton _) hf hq fun e he => takes (body := mntagBody ty slot full) ((mntagBody_of_one h1 slot full).trans he)
    · exact tags_issue (by simp) hf hq fun e he' => takes (body := mntagBody ty slot full) ((mntagBody_of_two h2 he full).trans he')

end Sys2Proof.Machine
end

section
namespace Sys2Proof.Machine
variable {s t u : State} {cid k : Nat} {h : Hdr}

/-! ## Members of a group in the order of their ranks (R244, R455) -/

theorem insertNat_eq (x : Nat) (l : List Nat) : insertNat x l = l.orderedInsert (· ≤ ·) x := by
  induction l with
  | nil => rfl
  | cons y l ih => rw [insertNat, List.orderedInsert_cons, ih]

theorem foldr_insertNat_eq (l : List Nat) : l.foldr insertNat [] = l.insertionSort (· ≤ ·) := by
  induction l with
  | nil => rfl
  | cons x l ih => rw [List.foldr_cons, ih, insertNat_eq, List.insertionSort_cons]

/-- The rank of a member of an ascending list is the number of members below it. -/
theorem idxOf_eq_length_filter {l : List Nat} (hs : l.Pairwise (· ≤ ·)) {k : Nat} (hk : k ∈ l) : l.idxOf k = (l.filter fun m => decide (m < k)).length := by
  induction l with
  | nil => exact absurd hk (by simp)
  | cons y l ih =>
    obtain ⟨hle, hs⟩ := List.pairwise_cons.mp hs
    by_cases hy : y = k
    · have hnone : l.filter (fun m => decide (m < k)) = [] := List.filter_eq_nil_iff.mpr fun m hm => by
        have := hle m hm
        simp only [decide_eq_true_eq]
        omega
      rw [hy, List.idxOf_cons_self, List.filter_cons_of_neg (by simp), hnone, List.length_nil]
    · have hkl : k ∈ l := (List.mem_cons.mp hk).resolve_left (Ne.symm hy)
      have hlt : y < k := Nat.lt_of_le_of_ne (hle k hkl) hy
      rw [List.idxOf_cons_ne _ hy, ih hs hkl, List.filter_cons_of_pos (by simpa using hlt), List.length_cons]

/-- The members that a descriptor names, quad by quad. -/
def grpCores (w : Word) : List Nat :=
  (List.range (grpNq w)).flatMap fun i => [grpFirst w + 2 * i, grpFirst w + 2 * i + 1, grpFirst w + 2 * i + 32, grpFirst w + 2 * i + 33]

theorem grpMembers_perm (w : Word) : (grpMembers w).Perm (grpCores w) := by
  rw [grpMembers, foldr_insertNat_eq]
  exact List.perm_insertionSort ..

theorem mem_grpMembers {w : Word} {m : Nat} : m ∈ grpMembers w ↔ m ∈ grpCores w := (grpMembers_perm w).mem_iff

theorem grpMembers_sorted (w : Word) : (grpMembers w).Pairwise (· ≤ ·) := by
  rw [grpMembers, foldr_insertNat_eq]
  exact List.pairwise_insertionSort ..

theorem rank_eq {w : Word} {k : Nat} (hk : k ∈ grpCores w) : (grpMembers w).idxOf k = ((grpCores w).filter fun m => decide (m < k)).length := by
  rw [idxOf_eq_length_filter (grpMembers_sorted w) (mem_grpMembers.mpr hk)]
  exact ((grpMembers_perm w).filter _).length_eq

theorem length_grpCores (w : Word) : (grpCores w).length = grpNq w * 4 := by
  rw [grpCores, List.length_flatMap]
  simp

/-! ## When a descriptor fits (R244, R455) -/

theorem quadOf_eq_self {q : Nat} : quadOf q = q ↔ q % 32 % 2 = 0 ∧ q / 32 % 2 = 0 := by
  simp only [quadOf, coreId, dieOf, colOf, rowOf]
  omega

/-- A core has joined a group with a descriptor. -/
def State.joinedTo (s : State) (m : Nat) (w : Word) : Prop := ∃ g ∈ (s.core m).groups, g.gid = grpId w ∧ g.desc = w

theorem State.grpComplete_iff (w : Word) : s.grpComplete w = true ↔ ∀ m ∈ grpCores w, s.joinedTo m w := by
  simp only [State.grpComplete, List.all_eq_true, mem_grpMembers, List.any_eq_true, Bool.and_eq_true, beq_iff_eq, State.joinedTo]

/-- What MGROUP asks of a descriptor (R455). -/
def GroupFits (s : State) (cid : Nat) (r : Run) (w : Word) : Prop :=
  w.toNat < 2 ^ 40 ∧ w.toNat / 16 % 16 = 0 ∧ w.toNat / 2 ^ 12 % 16 = 0 ∧ 1 ≤ grpNq w ∧ grpNq w ≤ 8 ∧ w.toNat / 2 ^ 32 ≤ 31 ∧ grpFirst w < 2048 ∧
    grpFirst w % 32 % 2 = 0 ∧ grpFirst w / 32 % 2 = 0 ∧ grpFirst w % 32 + 2 * grpNq w ≤ 32 ∧ (∀ m ∈ grpCores w, r.covers m = true) ∧ coreOf cid ∈ grpCores w ∧
    ∀ g ∈ (s.core (coreOf cid)).groups, g.gid = grpId w → g.desc = w

theorem grpBad_iff {r : Run} {w : Word} : grpBad s cid r w = false ↔ GroupFits s cid r w := by
  have hcore : ((grpMembers w).contains (coreOf cid) = true ↔ coreOf cid ∈ grpCores w) := by rw [List.contains_iff_mem, mem_grpMembers]
  have hcover : ((grpMembers w).all (r.covers ·) = true ↔ ∀ m ∈ grpCores w, r.covers m = true) := by simp only [List.all_eq_true, mem_grpMembers]
  have hgroups : (((s.core (coreOf cid)).groups.any fun g => g.gid == grpId w && g.desc != w) = false ↔
      ∀ g ∈ (s.core (coreOf cid)).groups, g.gid = grpId w → g.desc = w) := by
    simp only [List.any_eq_false, Bool.and_eq_true, beq_iff_eq, bne_iff_ne, not_and, not_not]
  have hhigh : bits w.toNat 40 24 = 0 ↔ w.toNat < 2 ^ 40 := by
    have hw := w.isLt
    rw [bits]
    omega
  have hparts : w.toNat < 2 ^ 40 → (grpParts w = w.toNat / 2 ^ 32) := fun hw => by
    rw [grpParts, bits]
    omega
  have hmid : bits w.toNat 12 4 = w.toNat / 2 ^ 12 % 16 := rfl
  have hlow : bits w.toNat 4 4 = w.toNat / 16 % 16 := rfl
  rw [grpBad, GroupFits, colOf]
  simp only [Bool.or_eq_false_iff, decide_eq_false_iff_not, not_not, Bool.not_eq_false', hcore, hcover, hgroups, hhigh, hmid, hlow, quadOf_eq_self]
  constructor
  · rintro ⟨⟨⟨⟨⟨⟨⟨⟨⟨⟨⟨h1, h2⟩, h3⟩, h4⟩, h5⟩, h6⟩, h7⟩, h8, h9⟩, h10⟩, h11⟩, h12⟩, h13⟩
    rw [hparts h1] at h6
    exact ⟨h1, h3, h2, by omega, by omega, by omega, by omega, h8, h9, by omega, h11, h12, h13⟩
  · rintro ⟨h1, h3, h2, h4, h5, h6, h7, h8, h9, h10, h11, h12, h13⟩
    rw [hparts h1]
    exact ⟨⟨⟨⟨⟨⟨⟨⟨⟨⟨⟨h1, h2⟩, h3⟩, by omega⟩, by omega⟩, by omega⟩, by omega⟩, h8, h9⟩, by omega⟩, h11⟩, h12⟩, h13⟩

/-! ## The join of a core (R245, R455, R456, assumption 21) -/

/-- Of a state nothing has changed but accumulators of core `k`. -/
structure OnlyAccs (s t : State) (k : Nat) : Prop where
  core : t.core k = { s.core k with accs := (t.core k).accs }
  rest : ChangesCore s t k

namespace OnlyAccs

theorem refl (s : State) (k : Nat) : OnlyAccs s s k := ⟨rfl, ChangesCore.refl s k⟩

theorem trans (a : OnlyAccs s t k) (b : OnlyAccs t u k) : OnlyAccs s u k := ⟨by rw [b.core, a.core], a.rest.trans b.rest⟩

theorem setAcc (s : State) (k a : Nat) (x : Acc) : OnlyAccs s (s.setAcc k a x) k := ⟨by rw [State.setAcc, State.core_modCore_self], ChangesCore.modCore ..⟩

end OnlyAccs

/-- The fires of an accumulator are done and its partials are all there (R239, R456). -/
def Acc.complete (x : Acc) : Bool :=
  x.pchunks == 128 * x.parts && (match x.bind with | some b => x.fires == b.k | none => x.parts != 0)

/-- An accumulator that is complete is SEALED. -/
def Acc.settled (x : Acc) : Acc := { x with st := if x.complete then .sealed else x.st }

theorem State.sealIfDone_eq (s : State) (core src a : Nat) : s.sealIfDone core src a =
    if (s.acc core a).complete && (s.acc core a).st != .sealed then (s.setAcc core a { s.acc core a with st := .sealed }).sealCheck core src a else s := by
  have hdone : (match (s.acc core a).bind with
      | some b => (s.acc core a).fires == b.k && (s.acc core a).pchunks == 128 * (s.acc core a).parts
      | none => decide ((s.acc core a).parts ≠ 0) && (s.acc core a).pchunks == 128 * (s.acc core a).parts) = (s.acc core a).complete := by
    rw [Acc.complete]
    cases (s.acc core a).bind with
    | none => simp only [Bool.and_comm, bne, beq_eq_decide, decide_not]
    | some b => simp only [Bool.and_comm]
  rw [← hdone, State.sealIfDone] <;> rfl

/-- An accumulator whose rows all check is sealed without a report. -/
theorem State.sealIfDone_of_ok {core src a : Nat} (hr : ∀ i, i < 64 → (s.acc core a).rowOk i = true) :
    (s.sealIfDone core src a).acc core a = (s.acc core a).settled ∧ (∀ j, j ≠ a → (s.sealIfDone core src a).acc core j = s.acc core j) ∧
      OnlyAccs s (s.sealIfDone core src a) core := by
  have hrows (i : Nat) (hi : i < 64) : ((s.setAcc core a { s.acc core a with st := .sealed }).acc core a).rowOk i = true := by
    rw [State.acc_setAcc_self]
    exact hr i hi
  rw [State.sealIfDone_eq, State.sealCheck_of_ok hrows, Acc.settled]
  split
  · next hc =>
    obtain ⟨hdone, -⟩ := Bool.and_eq_true_iff.mp hc
    exact ⟨by rw [State.acc_setAcc_self, hdone, if_pos rfl], fun j hj => State.acc_setAcc_other _ _ _ hj, OnlyAccs.setAcc ..⟩
  · next hc =>
    refine ⟨?_, fun _ _ => rfl, OnlyAccs.refl ..⟩
    cases hdone : (s.acc core a).complete with
    | false => rfl
    | true =>
      have hst : (s.acc core a).st = .sealed := by simpa [hdone] using hc
      rw [if_pos rfl, ← hst]

/-- The accumulators of a core that expects partials. -/
theorem State.expects_of_ok {core src n : Nat} (hn : n ≤ 4) (parts : Nat) (hr : ∀ i j, i < 4 → j < 64 → (s.acc core i).rowOk j = true) :
    let t := (List.range n).foldl (fun s i => (s.setAcc core i { s.acc core i with parts := parts }).sealIfDone core src i) s
    (∀ i, t.acc core i = if i < n then { s.acc core i with parts := parts }.settled else s.acc core i) ∧ OnlyAccs s t core := by
  induction n with
  | zero => exact ⟨fun i => (if_neg (Nat.not_lt_zero i)).symm, OnlyAccs.refl ..⟩
  | succ n ih =>
    obtain ⟨hacc, honly⟩ := ih (by omega)
    rw [List.range_succ, List.foldl_append, List.foldl_cons, List.foldl_nil]
    generalize (List.range n).foldl (fun s i => (s.setAcc core i { s.acc core i with parts := parts }).sealIfDone core src i) s = t at hacc honly
    have hn' : t.acc core n = s.acc core n := by rw [hacc, if_neg (Nat.lt_irrefl n)]
    have hrows (j : Nat) (hj : j < 64) : ((t.setAcc core n { t.acc core n with parts := parts }).acc core n).rowOk j = true := by
      rw [State.acc_setAcc_self, hn']
      exact hr n j (by omega) hj
    obtain ⟨hself, hother, honly'⟩ := State.sealIfDone_of_ok (src := src) hrows
    refine ⟨fun i => ?_, honly.trans ((OnlyAccs.setAcc ..).trans honly')⟩
    by_cases hi : i = n
    · rw [hi, hself, State.acc_setAcc_self, hn', if_pos (Nat.lt_succ_self n)]
    · rw [hother i hi, State.acc_setAcc_other _ _ _ hi, hacc]
      simp only [show i < n + 1 ↔ i < n by omega]

/-- A core that joins a group expects its partials. -/
theorem State.joinGroup_spec (w : Word) (hr : ∀ i j, i < 4 → j < 64 → (s.acc (coreOf cid) i).rowOk j = true) :
    (∀ i, i < 4 → (s.joinGroup cid w).acc (coreOf cid) i = { s.acc (coreOf cid) i with parts := grpParts w }.settled) ∧
      ((s.joinGroup cid w).core (coreOf cid)).groups = (s.core (coreOf cid)).groups ++ [{ gid := grpId w, desc := w }] ∧
      ((s.joinGroup cid w).core (coreOf cid)).mem = (s.core (coreOf cid)).mem ∧ ChangesCore s (s.joinGroup cid w) (coreOf cid) := by
  let v := s.modCore (coreOf cid) fun x => { x with groups := x.groups ++ [{ gid := grpId w, desc := w }] }
  have hv : v.core (coreOf cid) = { s.core (coreOf cid) with groups := (s.core (coreOf cid)).groups ++ [{ gid := grpId w, desc := w }] } := State.core_modCore_self ..
  have hvacc (i : Nat) : v.acc (coreOf cid) i = s.acc (coreOf cid) i := by rw [State.acc, hv, State.acc]
  obtain ⟨hacc, honly⟩ := State.expects_of_ok (s := v) (src := srcOfCid cid) (Nat.le_refl 4) (grpParts w) fun i j hi hj => by rw [hvacc]; exact hr i j hi hj
  have hjoin : s.joinGroup cid w =
      (List.range 4).foldl (fun s i => (s.setAcc (coreOf cid) i { s.acc (coreOf cid) i with parts := grpParts w }).sealIfDone (coreOf cid) (srcOfCid cid) i) v := rfl
  rw [hjoin]
  refine ⟨fun i hi => ?_, ?_, ?_, (ChangesCore.modCore ..).trans honly.rest⟩
  · rw [hacc, if_pos hi, hvacc]
  · rw [honly.core, hv]
  · rw [honly.core, hv]

end Sys2Proof.Machine
end

section
namespace Sys2Proof.Machine
variable {s t u v : State} {cid k : Nat} {h : Hdr}

/-! ## MGROUP and MREDUCE (R244, R455, R456) -/

/-- The count of an issue changes no more of a core than its turn. -/
theorem Core.counted_eq (cid : Nat) (k : Core) (e : Bool) : ∃ n b, Core.counted cid k e = { k with issued := true, turnLen := n, turnOver := b } := by
  rw [Core.counted]
  split
  · exact ⟨_, _, rfl⟩
  · exact ⟨k.turnLen, k.turnOver, rfl⟩

/-- What MGROUP answers of a descriptor that fits, once its core has joined. -/
def mgroupAnswer (d : Reg) (w : Word) (cid : Nat) (v : State) : Eff :=
  if v.grpComplete w then .wait (v.modCtx cid fun c => c.stage [rwX d.toNat (BitVec.ofNat 64 ((grpMembers w).idxOf (coreOf cid)))] 0) (Park.of .landing)
  else .park v { Park.of .mgroup with l := [w.toNat] }

/-- The core of a context that has issued MGROUP has joined the group. -/
def State.joined (s : State) (cid : Nat) (w : Word) : State :=
  if (s.core (coreOf cid)).groups.any fun g => g.gid == grpId w then s else s.joinGroup cid w

theorem mgroupBody_of_fits {r : Run} {d a : Reg} (hr : s.ctxRun cid = some r) (hf : GroupFits s cid r ((s.ctx cid).xr a)) :
    mgroupBody d a s cid = mgroupAnswer d ((s.ctx cid).xr a) cid (s.joined cid ((s.ctx cid).xr a)) := by
  simp only [mgroupBody, hr, grpBad_iff.mpr hf, Bool.false_eq_true, if_false]
  rfl

theorem mgroupBody_of_not_fits {r : Run} {d a : Reg} (hr : s.ctxRun cid = some r) (hf : ¬GroupFits s cid r ((s.ctx cid).xr a)) :
    mgroupBody d a s cid = .trap 0x0B 0 0 := by
  have hbad : grpBad s cid r ((s.ctx cid).xr a) = true := by rw [← Bool.not_eq_false, grpBad_iff]; exact hf
  simp only [mgroupBody, hr, hbad, if_true]

/-- The rank that MGROUP stages. -/
theorem rwX_rank (n : Nat) {w : Word} (hk : k ∈ grpCores w) : rwX n (BitVec.ofNat 64 ((grpMembers w).idxOf k)) =
    { file := .x, reg := n, val := BitVec.ofNat 2048 ((grpCores w).filter fun m => decide (m < k)).length } := by
  have hlen : ((grpCores w).filter fun m => decide (m < k)).length < 2 ^ 64 := by
    have hle := List.length_filter_le (fun m => decide (m < k)) (grpCores w)
    have hq : grpNq w < 2 ^ 4 := Nat.mod_lt _ (by decide)
    rw [length_grpCores] at hle
    omega
  rw [rank_eq hk, rwX, BitVec.setWidth_ofNat_of_le_of_lt (by decide) hlen]

/-- MGROUP of a core that has joined: the rank once every member has, and a park until then; no accumulator, no group and no byte changes with it. -/
theorem mgroupAnswer_spec {w : Word} {d : Reg} (hctx : v.ctx cid = s.ctx cid) (hk : coreOf cid ∈ grpCores w) :
    let t := settle s cid h (mgroupAnswer d w cid v)
    let rank := ((grpCores w).filter fun m => decide (m < coreOf cid)).length
    ((∀ m ∈ grpCores w, v.joinedTo m w) → (t.ctx cid).land =
      some { writes := [{ file := .x, reg := d.toNat, val := BitVec.ofNat 2048 rank }], left := 0, load := none } ∧ (t.ctx cid).pc = (s.ctx cid).pc + 8) ∧
    ((∃ m ∈ grpCores w, ¬v.joinedTo m w) → (t.ctx cid).park.map (·.kind) = some .mgroup ∧ (t.ctx cid).pc = (s.ctx cid).pc) ∧
    (∀ i, accOf t (coreOf cid) i = v.acc (coreOf cid) i) ∧ (t.core (coreOf cid)).groups = (v.core (coreOf cid)).groups ∧
    (t.core (coreOf cid)).mem = (v.core (coreOf cid)).mem := by
  have hcomplete := State.grpComplete_iff (s := v) w
  intro t rank
  have hcore : t.core (coreOf cid) = Core.counted cid (v.core (coreOf cid)) true := by
    simp only [t, mgroupAnswer]
    split
    · exact (leaves_wait s _ cid h _).counted
    · exact (leaves_park s v cid h _).counted
  obtain ⟨n, b, hn⟩ := Core.counted_eq cid (v.core (coreOf cid)) true
  rw [hn] at hcore
  refine ⟨fun hall => ?_, fun hnot => ?_, fun i => ?_, ?_, ?_⟩
  · have ht : t = settle s cid h (.wait (v.modCtx cid fun c => c.stage [rwX d.toNat (BitVec.ofNat 64 ((grpMembers w).idxOf (coreOf cid)))] 0) (Park.of .landing)) := by
      simp only [t, mgroupAnswer, hcomplete.mpr hall, if_true]
    rw [ht, ctx_settle_wait_self, State.ctx_modCtx_self, hctx, rwX_rank _ hk]
    exact ⟨rfl, rfl⟩
  · have hfalse : v.grpComplete w = false := by
      rw [← Bool.not_eq_true, hcomplete]
      exact fun hall => hnot.elim fun m hm => hm.2 (hall m hm.1)
    have ht : t = settle s cid h (.park v { Park.of .mgroup with l := [w.toNat] }) := by
      simp only [t, mgroupAnswer, hfalse, Bool.false_eq_true, if_false]
    rw [ht, ctx_settle_park_self, hctx]
    exact ⟨rfl, rfl⟩
  · rw [accOf, hcore, State.acc]
  · rw [hcore]
  · rw [hcore]

/-- What MREDUCE sends: the 128 chunks of an accumulator. -/
def reduceChunks (v : State) (cid : Nat) (d : Reg) (acc : BitVec 4) (dst : Nat) : List XChunk :=
  (List.range 128).map fun n =>
    { run := (v.ctx cid).role.run.getD 0, srcCid := cid, core := dst, acc := acc.toNat
      tok := (v.acc (coreOf cid) d.toNat).chunk ((v.ctx cid).role.run.getD 0) (coreOf cid) n, word := v.ir, pc := (v.ctx cid).pc
      node := (v.ctx cid).role.node, fireno := (v.ctx cid).workNo }

theorem mreduceBody_of_sealed {d a : Reg} {acc : BitVec 4} {g : Group} {dst : Nat}
    (hg : (s.core (coreOf cid)).groups.find? (fun g => g.gid == ((s.ctx cid).xr a).toNat / 2 ^ 8 % 16) = some g)
    (hdst : (grpMembers g.desc)[((s.ctx cid).xr a).toNat % 32]? = some dst) (hne : dst ≠ coreOf cid) (hw : ((s.ctx cid).xr a).toNat < 2 ^ 12)
    (hz : ((s.ctx cid).xr a).toNat / 32 % 8 = 0) (hst : (s.acc (coreOf cid) d.toNat).st = .sealed)
    (hm : (s.acc (coreOf cid) d.toNat).sharers.contains (s.ctx cid).role.node = true ∨ (s.acc (coreOf cid) d.toNat).sharers.length < 8) :
    ∃ u, OneAcc s u (coreOf cid) d.toNat (s.acc (coreOf cid) d.toNat) ∧ mreduceBody d a acc s cid =
      .wait { u with xchunks := s.xchunks ++ reduceChunks u cid d acc dst } (Park.of .mreduce) := by
  obtain ⟨u, hu, o⟩ := State.useAcc_of_may hm
  have hrank : bits ((s.ctx cid).xr a).toNat 0 5 = ((s.ctx cid).xr a).toNat % 32 := by rw [bits]; omega
  have hgid : bits ((s.ctx cid).xr a).toNat 8 4 = ((s.ctx cid).xr a).toNat / 2 ^ 8 % 16 := rfl
  have hzero : bits ((s.ctx cid).xr a).toNat 5 3 = 0 := hz
  have hlt : ¬((s.ctx cid).xr a).toNat ≥ 2 ^ 12 := Nat.not_le.mpr hw
  have hx : u.xchunks = s.xchunks := by rw [o.rest.rest]
  refine ⟨u, o, ?_⟩
  simp only [mreduceBody, hgid, hg, hrank, hdst, hst, hne, hzero, hlt, hu, bne_self_eq_false, ne_eq, not_true_eq_false, decide_false, Bool.or_self,
    Bool.false_eq_true, if_false, hx]
  rfl

theorem mreduceBody_of_not_sealed {d : Reg} (a : Reg) (acc : BitVec 4) (hst : (s.acc (coreOf cid) d.toNat).st ≠ .sealed) :
    mreduceBody d a acc s cid = .trap 0x0B 0 0 := by
  simp only [mreduceBody]
  split
  · rfl
  · split
    · rfl
    · rw [if_pos (by simp [hst])]

theorem xchunks_settle_wait (s0 t : State) (cid : Nat) (h : Hdr) (p : Park) : (settle s0 cid h (.wait t p)).xchunks = t.xchunks := by
  rw [(leaves_wait s0 t cid h p).rest]

end Sys2Proof.Machine
end

section
namespace Sys2Proof.Machine
variable {s t u : State} {cid k : Nat} {h : Hdr}

/-! ## A chunk of partials that is added (R245, R268, R272, R456) -/

/-- A table after writes whose values go by their keys. -/
theorem tget_foldl_tset {α β : Type} [DecidableEq β] {d : β} {key : α → Nat} {val : α → β} {f : Nat → β} {l : List α} (hf : ∀ a ∈ l, val a = f (key a))
    (t : Table β) (n : Nat) : tget d (l.foldl (fun t a => tset d t (key a) (val a)) t) n = if n ∈ l.map key then f n else tget d t n := by
  induction l generalizing t with
  | nil => simp
  | cons a l ih =>
    rw [List.foldl_cons, ih (fun b hb => hf b (by simp [hb])), tget_tset, List.map_cons]
    by_cases hn : n ∈ l.map key
    · rw [if_pos hn, if_pos (by simp [hn])]
    · rw [if_neg hn]
      by_cases ha : n = key a
      · rw [if_pos ha, if_pos (by simp [ha]), hf a (by simp), ha]
      · rw [if_neg ha, if_neg (by simp [hn, ha])]

theorem toInt_xaSpecial : xaSpecial.toInt = -(2 ^ 127) := by decide

theorem toInt_eq_special {n : BitVec 128} : n.toInt = -(2 ^ 127) ↔ n = xaSpecial := by rw [← toInt_xaSpecial, BitVec.toInt_inj]

/-- An exact sum inside the window is its own number. -/
theorem xaFit_of_inside {x : Int} (hlo : -(2 ^ 127) < x) (hhi : x < 2 ^ 127) (lost : Bool) :
    (xaFit x lost).n.toInt = x ∧ (xaFit x lost).xw = lost ∧ (xaFit x lost).accwin = false := by
  have h1 : ¬x > xaMax := by rw [xaMax]; omega
  have h2 : ¬x < -xaMax := by rw [xaMax]; omega
  rw [xaFit, if_neg h1, if_neg h2]
  exact ⟨BitVec.toInt_ofInt_eq_self (by decide) (by omega) (by omega), rfl, rfl⟩

theorem toGrid_self (m e : Int) : toGrid m e e = (m, false) := by
  rw [toGrid, if_pos (Int.le_refl e), Int.sub_self]
  simp

/-- Two XA elements at one anchor add exactly inside the window, and a special one makes the sum special (R268, R272). -/
theorem xaAlign_of_inside {n m : BitVec 128} (anchor : BitVec 16)
    (hin : n.toInt ≠ -(2 ^ 127) → m.toInt ≠ -(2 ^ 127) → -(2 ^ 127) < n.toInt + m.toInt ∧ n.toInt + m.toInt < 2 ^ 127) :
    (xaAlign n anchor m anchor).accwin = false ∧ (xaAlign n anchor m anchor).n.toInt =
      if n.toInt = -(2 ^ 127) ∨ m.toInt = -(2 ^ 127) then -(2 ^ 127) else n.toInt + m.toInt := by
  rw [xaAlign]
  by_cases hn : n = xaSpecial
  · rw [if_pos hn, if_pos (.inl (toInt_eq_special.mpr hn))]
    exact ⟨rfl, toInt_eq_special.mpr hn⟩
  · by_cases hm : m = xaSpecial
    · rw [if_neg hn, if_pos hm, if_pos (.inr (toInt_eq_special.mpr hm))]
      exact ⟨rfl, toInt_xaSpecial⟩
    · have hn' := mt toInt_eq_special.mp hn
      have hm' := mt toInt_eq_special.mp hm
      obtain ⟨hlo, hhi⟩ := hin hn' hm'
      obtain ⟨hsum, -, hwin⟩ := xaFit_of_inside hlo hhi false
      rw [if_neg hn, if_neg hm, toGrid_self, if_neg (by tauto)]
      exact ⟨hwin, hsum⟩

/-- Element `i` of a chunk of XA numbers. -/
theorem ofNat_plane (p : BitVec 4096) (i : Nat) : BitVec.ofNat 128 (plane p 16 i) = p.extractLsb' (128 * i) 128 := by
  apply BitVec.eq_of_toNat_eq
  rw [BitVec.toNat_ofNat, plane, BitVec.extractLsb'_toNat, BitVec.toNat_ushiftRight, Nat.mod_mod]

/-- A chunk that checks keeps its place and its anchor. -/
theorem checkChunk_ok {hd hd' : ChunkHdr} {p q : BitVec 4096} {vkind vid : Nat} (h : checkChunk hd p vkind vid = .ok hd' q) : hd'.seq = hd.seq := by
  rw [checkChunk] at h
  split at h
  · cases h
  · split at h
    · cases h
    · split at h
      · cases h; rfl
      · dsimp only at h
        split at h
        · cases h; rfl
        · cases h

/-- What a chunk makes of the 32 elements that it is of. -/
def chunkSums (x : Acc) (anchor : BitVec 16) (h : ChunkHdr) (p : BitVec 4096) : List (Nat × XaRes) :=
  (List.range 32).map fun i =>
    (32 * (h.seq % 128) + i, xaAlign (tget 0 x.val (32 * (h.seq % 128) + i)) anchor (BitVec.ofNat 128 (plane p 16 i)) h.anchor)

/-- The accumulator that a chunk has been added to. -/
def Acc.plus (x : Acc) (anchor : BitVec 16) (h : ChunkHdr) (p : BitVec 4096) : Acc :=
  { x with
    val := (chunkSums x anchor h p).foldl (fun t r => tset 0 t r.1 r.2.n) x.val, anchor := anchor
    rho := tset 0 x.rho (h.seq % 128 / 2) ((tget 0 x.rho (h.seq % 128 / 2) +
      (List.range 32).foldl (fun a i => (a + resVal (xaVal (BitVec.ofNat 128 (plane p 16 i)) h.anchor) 0) % resM) 0) % resM)
    xw := x.xw || h.partialF || (chunkSums x anchor h p).any (fun r => r.2.xw), st := .accum, pchunks := x.pchunks + 1 }

section
variable {x : Acc} {h : ChunkHdr} {p : BitVec 4096}

/-- The elements that a chunk adds to, by their places in the accumulator. -/
theorem tget_plus (anchor : BitVec 16) (n : Nat) : tget 0 (x.plus anchor h p).val n =
    if n / 32 = h.seq % 128 then (xaAlign (tget 0 x.val n) anchor (p.extractLsb' (128 * (n % 32)) 128) h.anchor).n else tget 0 x.val n := by
  have hkeys : n ∈ (chunkSums x anchor h p).map (·.1) ↔ n / 32 = h.seq % 128 := by
    simp only [chunkSums, List.map_map, List.mem_map, List.mem_range, Function.comp_apply]
    exact ⟨fun ⟨i, hi, he⟩ => by omega, fun he => ⟨n % 32, Nat.mod_lt _ (by decide), by omega⟩⟩
  rw [Acc.plus, tget_foldl_tset (key := fun r : Nat × XaRes => r.1) (val := fun r => r.2.n)
    (f := fun n => (xaAlign (tget 0 x.val n) anchor (p.extractLsb' (128 * (n % 32)) 128) h.anchor).n)]
  · simp only [hkeys]
  · intro r hr
    obtain ⟨i, hi, rfl⟩ := List.mem_map.mp hr
    have hi' : (32 * (h.seq % 128) + i) % 32 = i := by have := List.mem_range.mp hi; omega
    simp only [ofNat_plane, hi']

variable (hin : ∀ n, n / 32 = h.seq % 128 → (tget 0 x.val n).toInt ≠ -(2 ^ 127) → (p.extractLsb' (128 * (n % 32)) 128).toInt ≠ -(2 ^ 127) →
  -(2 ^ 127) < (tget 0 x.val n).toInt + (p.extractLsb' (128 * (n % 32)) 128).toInt ∧
    (tget 0 x.val n).toInt + (p.extractLsb' (128 * (n % 32)) 128).toInt < 2 ^ 127)
include hin

theorem toInt_tget_plus (n : Nat) : (tget 0 (x.plus h.anchor h p).val n).toInt =
    if n / 32 ≠ h.seq % 128 then (tget 0 x.val n).toInt
    else if (tget 0 x.val n).toInt = -(2 ^ 127) ∨ (p.extractLsb' (128 * (n % 32)) 128).toInt = -(2 ^ 127) then -(2 ^ 127)
    else (tget 0 x.val n).toInt + (p.extractLsb' (128 * (n % 32)) 128).toInt := by
  rw [tget_plus]
  by_cases hn : n / 32 = h.seq % 128
  · rw [if_pos hn, if_neg (not_not.mpr hn), (xaAlign_of_inside h.anchor (hin n hn)).2]
  · rw [if_neg hn, if_pos hn]

/-- No sum of a chunk's elements leaves the window. -/
theorem chunkSums_inside : (chunkSums x h.anchor h p).any (fun r => r.2.accwin) = false := by
  refine List.any_eq_false.mpr fun r hr => ?_
  obtain ⟨i, hi, rfl⟩ := List.mem_map.mp hr
  have hi' := List.mem_range.mp hi
  have hplace := hin (32 * (h.seq % 128) + i) (by omega)
  rw [show (32 * (h.seq % 128) + i) % 32 = i by omega] at hplace
  rw [ofNat_plane, (xaAlign_of_inside h.anchor hplace).1]
  exact Bool.false_ne_true
end

/-- An accumulator that is not complete is not sealed. -/
theorem State.sealIfDone_of_incomplete {core src a : Nat} (hc : (s.acc core a).complete = false) : s.sealIfDone core src a = s := by
  rw [State.sealIfDone_eq, hc]
  rfl

/-- The state in which a chunk that travels is received: it travels no longer, and its core's contexts idle no longer. -/
def State.chunkTaken (s : State) (n : Nat) (q : XChunk) : State := { s with xchunks := dropAt n s.xchunks }.wakeIdle q.core

/-- The receipt of the oldest chunk from its sender to its accumulator, one that checks and completes nothing. -/
theorem mreduceReceipt_adds {q : XChunk} {hd hd' : ChunkHdr} {pl plain : BitVec 4096} (hq : s.xchunks[s.ev.idx]? = some q)
    (hfirst : ∀ x ∈ s.xchunks.take s.ev.idx, x.srcCid ≠ q.srcCid ∨ x.core ≠ q.core ∨ x.acc ≠ q.acc) (htok : q.tok = .chunk hd pl)
    (hchk : checkChunk hd pl 0 q.core = .ok hd' plain) (hst : (s.acc q.core q.acc).st ≠ .sealed)
    (hanchor : (if (s.acc q.core q.acc).st = .empty then hd'.anchor else (s.acc q.core q.acc).anchor) = hd'.anchor)
    (hwin : (chunkSums (s.acc q.core q.acc) hd'.anchor hd' plain).any (fun r => r.2.accwin) = false)
    (hc : ((s.acc q.core q.acc).plus hd'.anchor hd' plain).complete = false) :
    exec .mreduceReceipt s = .next ((s.chunkTaken s.ev.idx q).setAcc q.core q.acc ((s.acc q.core q.acc).plus hd'.anchor hd' plain)) := by
  have hany : ((s.xchunks.take s.ev.idx).any fun x => x.srcCid == q.srcCid && x.core == q.core && x.acc == q.acc) = false :=
    List.any_eq_false.mpr fun x hx => by
      have := hfirst x hx
      simp only [Bool.and_eq_true, beq_iff_eq]
      tauto
  have hcores : (s.chunkTaken s.ev.idx q).cores = s.cores := (KeepsRegs.wakeIdle { s with xchunks := dropAt s.ev.idx s.xchunks } q.core).cores
  have hacc : (s.chunkTaken s.ev.idx q).acc q.core q.acc = s.acc q.core q.acc := by rw [State.acc, State.core, hcores]; rfl
  have hseal : ((s.chunkTaken s.ev.idx q).setAcc q.core q.acc ((s.acc q.core q.acc).plus hd'.anchor hd' plain)).sealIfDone q.core (srcOfCid (q.core * 8)) q.acc =
      (s.chunkTaken s.ev.idx q).setAcc q.core q.acc ((s.acc q.core q.acc).plus hd'.anchor hd' plain) :=
    State.sealIfDone_of_incomplete (by rw [State.acc_setAcc_self]; exact hc)
  show Host.Outcome.next _ = _
  simp only [hq, hany, htok]
  simp only [State.chunkTaken, State.wakeIdle, Acc.plus, chunkSums] at hacc hseal hwin ⊢
  simp only [hacc, hst, hchk, hanchor, hseal, hwin, Bool.false_eq_true, if_false]

end Sys2Proof.Machine
end

section
namespace Sys2Proof.Machine
variable {s t u v : State} {cid k : Nat} {h : Hdr}

/-! ## Cooperative groups together -/

theorem grpId_eq (w : Word) : grpId w = w.toNat % 16 := by
  rw [grpId, bits]
  omega

theorem GroupFits.member {r : Run} {w : Word} (hf : GroupFits s cid r w) : coreOf cid ∈ grpCores w := by
  obtain ⟨-, -, -, -, -, -, -, -, -, -, -, hk, -⟩ := hf
  exact hk

/-- A core that has joined stays as it is. -/
theorem State.joined_of_joinedTo {w : Word} (hj : s.joinedTo (coreOf cid) w) : s.joined cid w = s := by
  obtain ⟨g, hg, hid, -⟩ := hj
  exact if_pos (List.any_eq_true.mpr ⟨g, hg, by simpa using hid⟩)

/-- A core that has not joined a group whose number is free there joins it. -/
theorem State.joined_of_not_joinedTo {r : Run} {w : Word} (hf : GroupFits s cid r w) (hj : ¬s.joinedTo (coreOf cid) w) : s.joined cid w = s.joinGroup cid w := by
  obtain ⟨-, -, -, -, -, -, -, -, -, -, -, -, hgroups⟩ := hf
  refine if_neg fun hany => ?_
  obtain ⟨g, hg, hid⟩ := List.any_eq_true.mp hany
  exact hj ⟨g, hg, beq_iff_eq.mp hid, hgroups g hg (beq_iff_eq.mp hid)⟩

section
variable {d a : Reg} {r : Run} (wf : Free s cid) (g : Issues s cid h [(0, 8)] 1) (hr : s.ctxRun cid = some r)
include wf g hr

theorem mgroup_answers (hf : GroupFits s cid r ((s.ctx cid).xr a)) : exec (.mgroup h d a) s =
    .next (settle s cid h (mgroupAnswer d ((s.ctx cid).xr a) cid (s.joined cid ((s.ctx cid).xr a)))) :=
  wf.takes g (.inr ⟨rfl, rfl⟩) _ (mgroupBody_of_fits hr hf)

theorem mgroup_traps (hf : ¬GroupFits s cid r ((s.ctx cid).xr a)) : Traps (.mgroup h d a) s cid h 0x0B 0 0 :=
  wf.takes g (.inr ⟨rfl, rfl⟩) (mgroupBody d a) (mgroupBody_of_not_fits hr hf)
end

/-- Who has joined, once this core has: the others are as before. -/
theorem State.joinedTo_joinGroup {w : Word} (hg : ((v.core (coreOf cid)).groups = (s.core (coreOf cid)).groups ++ [{ gid := grpId w, desc := w }]))
    (hc : ChangesCore s v (coreOf cid)) (m : Nat) : v.joinedTo m w ↔ m = coreOf cid ∨ s.joinedTo m w := by
  by_cases hm : m = coreOf cid
  · subst hm
    rw [State.joinedTo, hg]
    exact ⟨fun _ => .inl rfl, fun _ => ⟨_, List.mem_append_right _ (List.mem_singleton_self _), rfl, rfl⟩⟩
  · rw [State.joinedTo, hc.others m hm, State.joinedTo]
    simp [hm]

/-- The receipt of a chunk as its accumulator has it. -/
theorem chunk_received {q : XChunk} (n : Nat) (y : Acc) :
    let t := (s.chunkTaken n q).setAcc q.core q.acc y
    t.xchunks = s.xchunks.take n ++ s.xchunks.drop (n + 1) ∧ accOf t q.core q.acc = y ∧ ∀ j, j ≠ q.acc → accOf t q.core j = accOf s q.core j := by
  intro t
  have hk := (KeepsRegs.wakeIdle { s with xchunks := dropAt n s.xchunks } q.core).rest
  have hchunks : (s.chunkTaken n q).xchunks = dropAt n s.xchunks := by rw [State.chunkTaken, hk]
  have hcores : (s.chunkTaken n q).cores = s.cores := by rw [State.chunkTaken, hk]
  refine ⟨?_, State.acc_setAcc_self .., fun j hj => ?_⟩
  · rw [← dropAt_eq, ← hchunks]
    exact State.modCore_xchunks ..
  · refine (State.acc_setAcc_other _ _ _ hj).trans ?_
    rw [State.acc, State.core, hcores]
    rfl

theorem Acc.plus_incomplete {x : Acc} {anchor : BitVec 16} {hd : ChunkHdr} {p : BitVec 4096}
    (hx : x.pchunks + 1 ≠ 128 * x.parts ∨ ∃ b, x.bind = some b ∧ x.fires ≠ b.k) : (x.plus anchor hd p).complete = false := by
  rw [Acc.complete]
  rcases hx with hx | ⟨b, hb, hx⟩
  · simp [Acc.plus, hx]
  · simp [Acc.plus, hb, hx]

/-- Settles O46: MGROUP by `mgroupAnswer` of the core that has joined, MREDUCE by its chunks, and a receipt by `Acc.plus`. -/
theorem groupsReduceTheirPartials : Obligations.GroupsReduceTheirPartials := by
  intro s cid h d a acc r hop hr hown c k w id quads q parts ms joined fits
  have wf : Free s cid := ⟨hop, hown⟩
  have hjoined (m : Nat) : joined m ↔ s.joinedTo m (c.xr a) := by
    simp only [joined, State.joinedTo, grpId_eq]
    rfl
  have hfits : fits ↔ GroupFits s cid r (c.xr a) := by
    simp only [GroupFits, grpId_eq]
    rfl
  refine ⟨fun g => ⟨fun hf hj => ?here, fun hf hj hrows => ?joins, fun hf => ?refused⟩, fun g hd => ⟨?reduces, fun hst => ?notSealed⟩, ?receipt⟩
  case here =>
    have hf := hfits.mp hf
    have hk := hf.member
    obtain ⟨hall, hnot, haccs, hgroups, hmem⟩ := mgroupAnswer_spec (s := s) (v := s) (h := h) (d := d) rfl hk
    refine ⟨_, (mgroup_answers wf g hr hf).trans (by rw [State.joined_of_joinedTo ((hjoined k).mp hj)]), fun hm => hall fun m h => (hjoined m).mp (hm m h),
      fun ⟨m, h, hm⟩ => hnot ⟨m, h, mt (hjoined m).mpr hm⟩, fun i _ => haccs i, hgroups, hmem⟩
  case joins =>
    have hf := hfits.mp hf
    have hk := hf.member
    have hparts : grpParts (c.xr a) = parts := by
      have hlt : w < 2 ^ 40 := hf.1
      show w / 2 ^ 32 % 2 ^ 8 = w / 2 ^ 32
      omega
    obtain ⟨haccs, hgroups, hmem, hcore⟩ := State.joinGroup_spec (c.xr a) hrows
    have hto := State.joinedTo_joinGroup hgroups hcore
    obtain ⟨hall, hnot, haccs', hgroups', hmem'⟩ := mgroupAnswer_spec (s := s) (v := s.joinGroup cid (c.xr a)) (h := h) (d := d) (hcore.ctx cid) hk
    refine ⟨_, (mgroup_answers wf g hr hf).trans (by rw [State.joined_of_not_joinedTo hf (mt (hjoined k).mpr hj)]), fun hm => hall fun m h => ?_,
      fun ⟨m, h, hne, hm⟩ => hnot ⟨m, h, ?_⟩, fun i hi => ?_, hgroups'.trans (hgroups.trans (by rw [grpId_eq])), hmem'.trans hmem⟩
    · rw [hto]
      by_cases hmk : m = k
      · exact .inl hmk
      · exact .inr ((hjoined m).mp (hm m h hmk))
    · rw [hto]
      exact fun hor => hor.elim hne (mt (hjoined m).mpr hm)
    · rw [haccs', haccs i hi, hparts]
      rfl
  case refused => exact mgroup_traps wf g hr (mt hfits.mpr hf)
  case reduces =>
    intro gr dst hg hdst hne hw hz hst hm
    obtain ⟨v, o, hv⟩ := mreduceBody_of_sealed (d := d) (acc := acc) hg hdst hne hw hz hst hm
    refine ⟨_, reduceChunks v cid d acc dst, wf.takes g (.inl ⟨rfl, by decide⟩) _ hv, xchunks_settle_wait .., by simp [reduceChunks], fun q hq => ?_, ?_, ?_⟩
    · obtain ⟨n, -, rfl⟩ := List.mem_map.mp hq
      exact ⟨rfl, rfl, rfl⟩
    · rw [ctx_settle_wait_self]
      rfl
    · rw [ctx_settle_wait_self]
      exact congrArg (·.pc + 8) (o.rest.ctx cid)
  case notSealed => exact wf.takes g (.inl ⟨rfl, by decide⟩) (mreduceBody d a acc) (mreduceBody_of_not_sealed a acc hst)
  case receipt =>
    intro ch hd pl plain hd' hq hfirst htok hchk x added hx hdone hin
    have hseq := checkChunk_ok hchk
    have hst : x.st ≠ .sealed := by rcases hx with hx | ⟨hx, -⟩ <;> rw [hx] <;> decide
    have hanchor : (if x.st = .empty then hd'.anchor else x.anchor) = hd'.anchor := by
      rcases hx with hx | ⟨-, hx⟩
      · rw [if_pos hx]
      · rw [hx, ite_self]
    have hin' := fun n (hn : n / 32 = hd'.seq % 128) => hin n (hseq ▸ hn)
    obtain ⟨hchunks, hself, hothers⟩ := chunk_received (s := s) (q := ch) s.ev.idx (x.plus hd'.anchor hd' plain)
    refine ⟨_, mreduceReceipt_adds hq hfirst htok hchk hst hanchor (chunkSums_inside hin') (Acc.plus_incomplete hdone), hchunks, ?_⟩
    intro y
    rw [show y = x.plus hd'.anchor hd' plain from hself]
    refine ⟨rfl, rfl, rfl, rfl, rfl, rfl, fun n _ => ?_, hothers⟩
    rw [toInt_tget_plus hin', hseq]

end Sys2Proof.Machine
end

section
namespace Sys2Proof.Machine
variable {s t : State} {cid : Nat} {h : Hdr} {r : Run} {mode : Nat} {f : CopyF}

/-! ## COPY, COPYG and COPYS (R232, R446, R447) -/

/-- The copy that a word asks for: its shapes and offsets as they are at issue, and nothing moved yet. -/
def State.copyAsked (s : State) (cid : Nat) (r : Run) (f : CopyF) (mode : Nat) : Copy :=
  let c := s.ctx cid
  let k := s.core (coreOf cid)
  { tag := k.copyCount, cid := cid, run := r.id, node := c.role.node, mode := mode, src := c.sr f.a.toNat, dst := c.sr f.d.toNat
    soff := if mode = 0 then (c.xr f.c).toNat else 0, doff := (c.xr f.b).toNat, idx := if mode = 0 then 0 else c.vr f.c
    ssp := f.ssp.toNat, dsp := f.dsp.toNat, sf := f.sf, k := 0, count := shCount (c.sr f.a.toNat), word := s.ir, pc := c.pc, done := false, failed := false
    since := s.cycle (coreOf cid), role := c.role, fireno := c.workNo, arg := c.argbase, arrived := c.arrivedBars, departed := c.departedBars
    paid := 0, stood := s.now, secs := [], lat := [] }

/-- What an access does to a core's banks reaches no other field of the machine. -/
structure OnlyBanks (s t : State) (k : Nat) : Prop where
  core : t.core k = { s.core k with bankSharers := (t.core k).bankSharers, banksBusy := (t.core k).banksBusy }
  rest : ChangesCore s t k

theorem onlyBanks_touchBank (s : State) (k bank node : Nat) : OnlyBanks s (s.touchBank k bank node) k :=
  ⟨by rw [State.touchBank, State.core_modCore_self], ChangesCore.modCore ..⟩

theorem onlyBanks_touchBanks (s : State) (cid : Nat) (es : List AElt) : OnlyBanks s (s.touchBanks cid es) (coreOf cid) :=
  ⟨by rw [State.touchBanks, State.core_modCore_self], ChangesCore.modCore ..⟩

theorem onlyBanks_useCopyBanks (s : State) (cid : Nat) (p : Copy) : OnlyBanks s (s.useCopyBanks cid p) (coreOf cid) := onlyBanks_touchBanks ..

theorem State.barred_of_none {n : Nat} (hc : ∀ k ∈ r.graph.chans, k.barrier = true → k.cnode ≠ n) : s.barred r n = false := by
  rw [State.barred, List.any_eq_false]
  intro k hk
  simpa using fun hb hn => absurd hn (hc k hk hb)

theorem Run.bankWaits_of_none (hh : r.graph.hands = []) (n b : Nat) : r.bankWaits n b = false := by rw [Run.bankWaits, hh]; rfl

theorem find?_false {α : Type} (l : List α) : (l.find? fun _ => false) = none := List.find?_eq_none.mpr fun _ _ => Bool.false_ne_true

/-- A copy between device and core memory names no slot. -/
theorem State.useCopySlots_of_memory {p : Copy} (hs : p.ssp ≤ 1) (hd : p.dsp ≤ 1) : s.useCopySlots cid p = some s := by
  have hs2 : p.ssp ≠ 2 := by omega
  have hs3 : p.ssp ≠ 3 := by omega
  have hd2 : p.dsp ≠ 2 := by omega
  have hd3 : p.dsp ≠ 3 := by omega
  simp only [State.useCopySlots, if_neg hs2, if_neg hs3, if_neg hd2, if_neg hd3, Option.bind_some]

section
variable (hr : s.ctxRun cid = some r)
include hr

theorem copyBody_of_fault {code info : Nat} (ht : copyTest r (coreOf cid) (s.ctx cid) (s.copyAsked cid r f mode) = some (code, info)) :
    copyBody mode f s cid = .trap code info 0 := by
  simp only [State.copyAsked] at ht
  simp only [copyBody, hr, ht]

variable (ht : copyTest r (coreOf cid) (s.ctx cid) (s.copyAsked cid r f mode) = none) (hs : f.ssp.toNat ≤ 1) (hd : f.dsp.toNat ≤ 1)
  (hc : ∀ k ∈ r.graph.chans, k.barrier = true → k.cnode ≠ (s.ctx cid).role.node) (hh : r.graph.hands = [])
include ht hc hh

theorem copyBody_of_full (hfull : 64 ≤ (s.core (coreOf cid)).copies.length) : copyBody mode f s cid = .park s (Park.of .copyFull) := by
  simp only [State.copyAsked] at ht
  simp only [copyBody, hr, ht, State.barred_of_none hc, Run.bankWaits_of_none hh, Bool.and_false, Bool.false_eq_true, if_false, ge_iff_le, hfull, if_true,
    find?_false]

include hs hd

/-- A copy that nothing refuses joins its core's copies as it is asked for, and its tag is its context's. -/
theorem copyBody_queues (hroom : (s.core (coreOf cid)).copies.length < 64) : ∃ u, copyBody mode f s cid = .next (u.modCtx cid fun c =>
      { c with ctag := BitVec.ofNat 16 (s.core (coreOf cid)).copyCount }) ∧ ChangesCore s u (coreOf cid) ∧
    ∃ l b, u.core (coreOf cid) = { s.core (coreOf cid) with
      bankSharers := l, banksBusy := b, copies := (s.core (coreOf cid)).copies ++ [s.copyAsked cid r f mode], copyCount := (s.core (coreOf cid)).copyCount + 1 } := by
  have hslots : s.useCopySlots cid (s.copyAsked cid r f mode) = some s := State.useCopySlots_of_memory hs hd
  obtain ⟨hcore, hrest⟩ := onlyBanks_useCopyBanks s cid (s.copyAsked cid r f mode)
  refine ⟨(s.useCopyBanks cid (s.copyAsked cid r f mode)).modCore (coreOf cid) fun k =>
    { k with copies := k.copies ++ [s.copyAsked cid r f mode], copyCount := k.copyCount + 1 }, ?_, hrest.trans (.modCore ..), ?_⟩
  · simp only [State.copyAsked] at ht hslots ⊢
    simp only [copyBody, hr, ht, hslots, State.barred_of_none hc, Run.bankWaits_of_none hh, Bool.and_false, Bool.false_eq_true, if_false, ge_iff_le,
      Nat.not_le.mpr hroom, find?_false]
  · rw [State.core_modCore_self, hcore]
    exact ⟨_, _, rfl⟩
end

/-- What a copy that is queued leaves: its core's copies with it, its tag, and every register, memory and other context as before. -/
structure CopyQueued (s t : State) (cid : Nat) (p : Copy) : Prop where
  copies : (t.core (coreOf cid)).copies = (s.core (coreOf cid)).copies ++ [p]
  count : (t.core (coreOf cid)).copyCount = (s.core (coreOf cid)).copyCount + 1
  tag : (t.ctx cid).ctag = BitVec.ofNat 16 (s.core (coreOf cid)).copyCount
  regs : SameRegs (s.ctx cid) (t.ctx cid)
  pc : (t.ctx cid).pc = (s.ctx cid).pc + 8
  rest : SameMemories s t cid

theorem copyQueued_of_queues {u : State} {p : Copy} {l : Table (List Nat)} {b : List Nat} (hu : ChangesCore s u (coreOf cid))
    (hcore : u.core (coreOf cid) = { s.core (coreOf cid) with
      bankSharers := l, banksBusy := b, copies := (s.core (coreOf cid)).copies ++ [p], copyCount := (s.core (coreOf cid)).copyCount + 1 }) :
    CopyQueued s (settle s cid h (.next (u.modCtx cid fun c => { c with ctag := BitVec.ofNat 16 (s.core (coreOf cid)).copyCount }))) cid p := by
  let v := u.modCtx cid fun c => { c with ctag := BitVec.ofNat 16 (s.core (coreOf cid)).copyCount }
  have hleaves := leaves_next s v cid h
  obtain ⟨n, e, hcounted⟩ := Core.counted_eq cid (u.core (coreOf cid)) h.sw
  have hk : (settle s cid h (.next v)).core (coreOf cid) = { u.core (coreOf cid) with issued := true, turnLen := n, turnOver := e } :=
    hleaves.counted.trans hcounted
  have hself : v.ctx cid = { s.ctx cid with ctag := BitVec.ofNat 16 (s.core (coreOf cid)).copyCount } := by rw [State.ctx_modCtx_self, hu.ctx]
  have hmem : SameMemories s u cid := by
    refine ⟨fun j _ => hu.ctx j, by rw [hu.rest], fun j => ?_⟩
    by_cases hj : j = coreOf cid
    · rw [hj, hcore]; exact ⟨rfl, rfl, rfl, rfl⟩
    · rw [hu.others j hj]; exact ⟨rfl, rfl, rfl, rfl⟩
  refine ⟨?_, ?_, ?_, ?_, ?_, sameMemories_trans hmem (sameMemories_trans (sameMemories_modCtx ..) (sameMemories_settle_next ..))⟩
  · rw [hk, hcore]
  · rw [hk, hcore]
  · rw [hleaves.self, hself]
  · rw [hleaves.self, hself]; exact ⟨rfl, rfl, rfl, rfl, rfl, rfl, rfl, rfl, rfl, rfl, rfl⟩
  · rw [hleaves.self, hself]

theorem copiesAreQueuedAsTheyIssue : CopiesAreQueuedAsTheyIssue := by
  intro s cid h f r g hr hop hown c k is queues
  have all {i : Instr} {mode : Nat} (hi : exec i s = issue h [] 0 (certain (copyBody mode f)) s) : queues i mode := by
    have takes {e : Eff} (he : copyBody mode f s cid = e) : Takes i s cid h e := hi.trans (Free.takes ⟨hop, hown⟩ g (.inl ⟨rfl, by decide⟩) _ he)
    refine ⟨fun code info ht => takes (copyBody_of_fault hr ht), fun ht hs hd hc hh => ⟨fun hroom => ?room, fun hfull => ?full⟩⟩
    case room =>
      obtain ⟨u, hbody, hu, l, b, hcore⟩ := copyBody_queues hr ht hs hd hc hh hroom
      obtain ⟨hcopies, hcount, htag, hregs, hpc, hrest⟩ := copyQueued_of_queues (h := h) hu hcore
      exact ⟨_, takes hbody, hcopies, hcount, htag, hregs, hpc, hrest⟩
    case full =>
      have hleaves := leaves_park s s cid h (Park.of .copyFull)
      refine ⟨_, takes (copyBody_of_full hr ht hc hh hfull), ?_, ?_, ?_⟩
      · rw [hleaves.self]; rfl
      · rw [hleaves.self]
      · obtain ⟨n, e, hcounted⟩ := Core.counted_eq cid (s.core (coreOf cid)) true
        rw [hleaves.counted, hcounted]
  exact ⟨all rfl, all rfl, all rfl⟩

end Sys2Proof.Machine
end

section
namespace Sys2Proof.Machine
variable {m m' : Memory}

/-! ## Numbers loaded from memory and stored to it -/

theorem mstore_eq_mwrite (m : Memory) (a n w : Nat) : mstore m a n w = mwrite m a (natLe n w) := by
  induction n generalizing m a w with
  | zero => rfl
  | succ n ih => exact ih ..

/-- What was loaded from one place stands byte by byte where it is stored, and every other byte is as before. -/
theorem mget_mstore_mload (m m' : Memory) (a b n x : Nat) :
    mget (mstore m b n (mload m' a n)) x = if b ≤ x ∧ x < b + n then mget m' (a + (x - b)) else mget m x := by
  obtain ⟨hin, hout⟩ := mget_mwrite_natLe m b n (mload m' a n)
  rw [mstore_eq_mwrite]
  split
  · next hx =>
    obtain ⟨hlo, hhi⟩ := hx
    obtain ⟨i, rfl⟩ := Nat.exists_eq_add_of_le hlo
    have hi : i < n := by omega
    rw [hin i hi, Nat.add_sub_cancel_left]
    exact BitVec.eq_of_toNat_eq ((BitVec.toNat_ofNat ..).trans (mload_byte m' a hi))
  · next hx => exact hout x (by omega)

theorem mload_congr {a n : Nat} (h : ∀ i, i < n → mget m (a + i) = mget m' (a + i)) : mload m a n = mload m' a n := by
  induction n generalizing a with
  | zero => rfl
  | succ n ih =>
    have hfirst := h 0 (by omega)
    rw [mload, mload, ih fun i hi => ?_, show mget m a = mget m' a from hfirst]
    have hnext := h (i + 1) (by omega)
    rwa [← Nat.add_assoc, Nat.add_right_comm] at hnext

theorem mload_add (m : Memory) (a p q : Nat) : mload m a (p + q) = mload m a p + 2 ^ (8 * p) * mload m (a + p) q := by
  induction p generalizing a with
  | zero => simp [mload]
  | succ p ih =>
    rw [Nat.add_right_comm, mload, mload, ih, Nat.mul_succ, Nat.pow_add, Nat.add_right_comm a 1 p]
    ring_nf

/-- A part of a load is the load of that part. -/
theorem mload_part (m : Memory) (a : Nat) {j n k : Nat} (h : j + n ≤ k) : mload m a k / 2 ^ (8 * j) % 2 ^ (8 * n) = mload m (a + j) n := by
  obtain ⟨r, rfl⟩ := Nat.exists_eq_add_of_le h
  rw [Nat.add_assoc, mload_add, Nat.add_mul_div_left _ _ (Nat.two_pow_pos _), Nat.div_eq_of_lt (mload_lt m a j), Nat.zero_add, mload_add,
    Nat.add_mul_mod_self_left, Nat.mod_eq_of_lt (mload_lt ..)]

/-- Memory after numbers of `e` bytes have gone from their places in one memory to places of another, in order. -/
def moveAll (mem : Memory) (e : Nat) (a b : Nat → Nat) (ns : List Nat) : Memory := ns.foldl (fun m n => mstore m (b n) e (mload mem (a n) e)) mem

theorem moveAll_append_one (mem : Memory) (e : Nat) (a b : Nat → Nat) (ns : List Nat) (n : Nat) :
    moveAll mem e a b (ns ++ [n]) = mstore (moveAll mem e a b ns) (b n) e (mload mem (a n) e) := List.foldl_concat ..

/-- Of the numbers that go to a byte the last stands. -/
theorem mget_moveAll (mem : Memory) (e : Nat) (a b : Nat → Nat) (ns : List Nat) (x : Nat) :
    mget (moveAll mem e a b ns) x = match (ns.filter fun n => decide (b n ≤ x) && decide (x < b n + e)).getLast? with
      | some n => mget mem (a n + (x - b n))
      | none => mget mem x := by
  induction ns using List.reverseRecOn with
  | nil => rfl
  | append_singleton ns n ih =>
    rw [moveAll_append_one, mget_mstore_mload, List.filter_append, List.getLast?_append]
    by_cases hx : b n ≤ x ∧ x < b n + e
    · obtain ⟨hlo, hhi⟩ := hx
      rw [if_pos ⟨hlo, hhi⟩, List.filter_cons_of_pos (by simp [hlo, hhi])]
      rfl
    · rw [if_neg hx, List.filter_cons_of_neg (by simpa using hx), ih]
      rfl

/-- A byte that no number goes to is as before. -/
theorem mget_moveAll_outside {mem : Memory} {e x : Nat} {a b : Nat → Nat} {ns : List Nat} (h : ∀ n ∈ ns, ¬(b n ≤ x ∧ x < b n + e)) :
    mget (moveAll mem e a b ns) x = mget mem x := by
  rw [mget_moveAll, List.filter_eq_nil_iff.mpr fun n hn => by simpa using h n hn]
  rfl

end Sys2Proof.Machine
end

section
namespace Sys2Proof.Machine
variable {s t : State} {k : Nat} {p : Copy}

/-! ## The places of a copy's elements (R446) -/

/-- Where the `n`th element of an affine traversal stands. -/
def shapePlace (b : ShapeBits) (off n : Nat) : Int :=
  shBase b + off + 2 ^ shElog b * ((n % shExt b 0 : Nat) * shStr b 0 + (n / shExt b 0 % shExt b 1 : Nat) * shStr b 1 +
    (n / (shExt b 0 * shExt b 1) % shExt b 2 : Nat) * shStr b 2 + (n / (shExt b 0 * shExt b 1 * shExt b 2) : Nat) * shStr b 3)

theorem elemAddr_of_place {b : ShapeBits} {off n x : Nat} (h : shapePlace b off n = x) (hx : x < 2 ^ 64) : elemAddr b off none n = x := by
  have hplace : elemAddr b off none n = (BitVec.ofInt 64 (shapePlace b off n)).toNat := by
    simp only [elemAddr, shapePlace, shElem, Nat.cast_pow, Nat.cast_ofNat]
  rw [hplace, h, BitVec.ofInt_natCast, BitVec.toNat_ofNat, Nat.mod_eq_of_lt hx]

theorem shElog_lt (b : ShapeBits) : shElog b < 4 := Nat.mod_lt _ (by decide)

/-- An element lies in one aligned 8 bytes. -/
theorem elem_in_word {b : ShapeBits} {x : Nat} (hx : x % shElem b = 0) : x % 8 + shElem b ≤ 8 := by
  have helog := shElog_lt b
  unfold shElem at hx ⊢
  interval_cases shElog b <;> omega

theorem shElem_eq_eight {b : ShapeBits} : shElem b = 8 ↔ shElog b = 3 := by
  have helog := shElog_lt b
  unfold shElem
  interval_cases shElog b <;> decide

/-- What the transfer of an affine copy in core memory goes by: `a` and `b` are the places of its elements, each aligned and inside the core's memory,
and no word that it reads is one that it writes. -/
structure CoreCopy (p : Copy) (a b : Nat → Nat) : Prop where
  affine : p.mode = 0
  src : p.ssp = 1
  dst : p.dsp = 1
  plain : p.sf = false
  alive : p.failed = false
  srcAt : ∀ n, n < p.count → shapePlace p.src p.soff n = a n
  dstAt : ∀ n, n < p.count → shapePlace p.dst p.doff n = b n
  srcAligned : ∀ n, n < p.count → a n % shElem p.src = 0
  dstAligned : ∀ n, n < p.count → b n % shElem p.src = 0
  srcInside : ∀ n, n < p.count → a n + shElem p.src ≤ 0x80000
  dstInside : ∀ n, n < p.count → b n + shElem p.src ≤ 0x80000
  apart : ∀ m n, m < p.count → n < p.count → a m / 8 ≠ b n / 8

namespace CoreCopy
variable {a b : Nat → Nat} {n : Nat} (c : CoreCopy p a b) (hn : n < p.count)
include c

section
include hn

theorem srcAddr : p.srcAddr n = a n := by
  have hin := c.srcInside n hn
  rw [Copy.srcAddr, c.affine, if_neg (by decide)]
  exact elemAddr_of_place (c.srcAt n hn) (by omega)

theorem dstAddr : p.dstAddr n = b n := by
  have hin := c.dstInside n hn
  rw [Copy.dstAddr, c.affine, if_neg (by decide)]
  exact elemAddr_of_place (c.dstAt n hn) (by omega)

theorem pair (s : State) : copyPair s p n = (.ok (a n), .ok (b n)) := by
  simp only [copyPair, c.srcAddr hn, c.dstAddr hn, copyElem, c.src, c.dst, spaceLen, if_neg (Nat.not_lt.mpr (c.srcInside n hn)),
    if_neg (Nat.not_lt.mpr (c.dstInside n hn)), gt_iff_lt]
end

/-- Elements that lie in the copy are moved from place to place, and none of them waits. -/
theorem moves {ns : List Nat} (hns : ∀ n ∈ ns, n < p.count) (s : State) :
    copyMoves s p ns = ns.map (fun n => (n, a n, b n)) ∧ copyMiss s p ns = none := by
  induction ns with
  | nil => exact ⟨rfl, rfl⟩
  | cons n ns ih =>
    obtain ⟨hmoves, hmiss⟩ := ih fun n' h => hns n' (by simp [h])
    have hpair := c.pair (hns n (by simp)) s
    refine ⟨?_, ?_⟩
    · simp only [copyMoves, hpair, hmoves, List.map_cons]
    · simp only [copyMiss] at hmiss ⊢
      simp only [List.findSome?_cons, hpair, hmiss]

theorem runOf_eq (u : Nat) {k n : Nat} (h : k + n ≤ p.count) : p.runOf u n k = (List.range' k n).takeWhile fun i => b i / 8 == u := by
  induction n generalizing k with
  | zero => rfl
  | succ n ih =>
    have hk : k < p.count := by omega
    rw [Copy.runOf, c.dstAddr hk, decide_eq_true hk, Bool.true_and, List.range'_succ, List.takeWhile_cons, ih (by omega)]

/-- The elements of the next unit. -/
theorem unitAt_eq (hk : p.k < p.count) : p.unitAt p.k = if shElem p.src = 8 then [p.k] else if 0 < p.k ∧ b (p.k - 1) / 8 = b p.k / 8 then []
    else ((List.range p.count).drop p.k).takeWhile fun n => b n / 8 == b p.k / 8 := by
  have hprev : p.k - 1 < p.count := by omega
  have hrange : (List.range p.count).drop p.k = List.range' p.k (p.count - p.k) := by
    rw [List.range_eq_range', List.drop_range']
    simp
  rw [Copy.unitAt, c.dstAddr hprev, c.dstAddr hk, c.runOf_eq _ (by omega), hrange]
  simp only [shElem_eq_eight, Bool.and_eq_true, decide_eq_true_eq, beq_iff_eq]

theorem lt_of_mem_unitAt (hk : p.k < p.count) : ∀ n ∈ p.unitAt p.k, n < p.count := by
  intro n hn
  rw [c.unitAt_eq hk] at hn
  split at hn
  · rwa [List.mem_singleton.mp hn]
  · split at hn
    · exact absurd hn (List.not_mem_nil)
    · exact List.mem_range.mp (List.mem_of_mem_drop ((List.takeWhile_sublist _).subset hn))

/-- The words that a copy reads stay as they are while it writes. -/
theorem mget_moved (mem : Memory) {ns : List Nat} (hns : ∀ n ∈ ns, n < p.count) (hn : n < p.count) {i : Nat} (hi : i < 8) :
    mget (moveAll mem (shElem p.src) a b ns) (a n / 8 * 8 + i) = mget mem (a n / 8 * 8 + i) := by
  refine mget_moveAll_outside fun n' hn' hin => ?_
  have hword := elem_in_word (c.dstAligned n' (hns n' hn'))
  have hapart := c.apart n n' hn (hns n' hn')
  omega

end CoreCopy

end Sys2Proof.Machine
end

section
namespace Sys2Proof.Machine
variable {s t : State} {k : Nat} {p q : Copy} {mem : Memory}

/-! ## One element of a copy, and one unit (R305, R325, R446) -/

theorem mem_tput {α : Type} {l : Table α} {j : Nat} {v : α} {x : Nat × α} (h : x ∈ tput l j v) : x = (j, v) ∨ x ∈ l := by
  induction l with
  | nil => exact .inl (List.mem_singleton.mp h)
  | cons y l ih =>
    rw [tput] at h
    split at h
    · rcases List.mem_cons.mp h with h | h
      · exact .inl h
      · exact .inr (by simp [h])
    · split at h
      · exact List.mem_cons.mp h
      · rcases List.mem_cons.mp h with h | h
        · exact .inr (by simp [h])
        · exact (ih h).imp_right (by simp +contextual)

theorem find?_tput {α : Type} (l : Table α) (j : Nat) (v : α) : ((tput l j v).find? fun x => x.1 == j).isSome = true := by
  induction l with
  | nil => simp [tput]
  | cons y l ih =>
    rw [tput]
    split
    · simp
    · split
      · simp
      · rw [List.find?_cons]
        split
        · rfl
        · exact ih

/-- The words that a copy holds are those of a memory. -/
def LatchedFrom (mem : Memory) (l : Table Nat) : Prop := ∀ x ∈ l, x.2 = mload mem (8 * x.1) 8

section
variable {x : Nat} (hs : p.ssp = 1) (hlat : LatchedFrom mem p.lat) (hword : ∀ i, i < 8 → mget (s.core k).mem (x / 8 * 8 + i) = mget mem (x / 8 * 8 + i))
include hs hlat hword

/-- A word latched is the word as the copy found it. -/
theorem Copy.latch_spec : ∃ l, p.latch s k x = { p with lat := l } ∧ LatchedFrom mem l ∧ (shElog p.src = 3 ∨ (l.find? fun e => e.1 == x / 8).isSome = true) := by
  unfold Copy.latch
  split
  · next he => exact ⟨p.lat, rfl, hlat, .inl he⟩
  · split
    · next e he => exact ⟨p.lat, rfl, hlat, .inr (by rw [he]; rfl)⟩
    · refine ⟨_, rfl, fun y hy => ?_, .inr (find?_tput ..)⟩
      rcases mem_tput hy with rfl | hy
      · rw [hs]
        exact (mload_congr hword).trans (by rw [Nat.mul_comm])
      · exact hlat y hy

/-- The value of an element is the one that stood at its place. -/
theorem Copy.source_eq (hx : x % shElem p.src = 0) (hl : shElog p.src = 3 ∨ (p.lat.find? fun e => e.1 == x / 8).isSome = true) :
    p.source s k x = mload mem x (shElem p.src) := by
  have hin := elem_in_word hx
  have hplace : 8 * (x / 8) + x % 8 = x := Nat.div_add_mod x 8
  unfold Copy.source
  split
  · next e he =>
    have hkey : e.1 = x / 8 := by simpa using List.find?_some he
    rw [hlat e (List.mem_of_find?_eq_some he), hkey, mload_part _ _ hin, hplace]
  · next he =>
    have helem : shElem p.src = 8 := shElem_eq_eight.mpr (hl.resolve_right (by simp [he]))
    have hbase : x / 8 * 8 = x := by rw [helem] at hx; omega
    rw [hs, helem]
    exact mload_congr (by rwa [hbase] at hword)
end

theorem State.core_modCopy (s : State) (k tag : Nat) (f : Copy → Copy) :
    (s.modCopy k tag f).core k = { s.core k with copies := replaceFirst (fun c => c.tag == tag) f (s.core k).copies } := State.core_modCore_self ..

theorem replaceFirst_tagged (p : Copy) (rest : List Copy) (f : Copy → Copy) : replaceFirst (fun c => c.tag == p.tag) f (p :: rest) = f p :: rest :=
  if_pos (beq_self_eq_true p.tag)

/-- The state of a core while the copy at its head moves elements: the copy holds words of the memory `mem` and the core's memory is `now`. -/
structure CopyMoving (s t : State) (k : Nat) (p : Copy) (rest : List Copy) (mem now : Memory) : Prop where
  copies : ∃ l, (t.core k).copies = { p with lat := l } :: rest ∧ LatchedFrom mem l
  mem : (t.core k).mem = now
  other : ChangesCore s t k

theorem OnlyBanks.moving {u : State} {rest : List Copy} {now : Memory} (o : OnlyBanks t u k) (m : CopyMoving s t k p rest mem now) :
    CopyMoving s u k p rest mem now := by
  obtain ⟨hcopies, hmem, hother⟩ := m
  have hc : (u.core k).copies = (t.core k).copies := by rw [o.core]
  have hm : (u.core k).mem = (t.core k).mem := by rw [o.core]
  exact ⟨by rwa [hc], hm.trans hmem, hother.trans o.rest⟩

/-- The machine once a copy has latched the word that it reads from and its access has taken the banks of both places. -/
def State.copyHeld (s : State) (k tag : Nat) (l : Table Nat) (x y node : Nat) : State :=
  ((s.modCopy k tag fun q => { q with lat := l }).touchBank k (x / 0x8000) node).touchBank k (y / 0x8000) node

theorem State.copyElt_eq {tag n x y : Nat} {l : Table Nat} (hfind : (s.core k).copies.find? (fun c => c.tag == tag) = some q) (hs : q.ssp = 1) (hd : q.dsp = 1)
    (hsf : q.sf = false) (hl : q.latch s k x = { q with lat := l }) (vd : Nat) : s.copyElt k vd tag (n, x, y) =
      (s.copyHeld k tag l x y q.node).modCore k fun c =>
        { c with mem := mstore c.mem y (shElem q.src) (Copy.source (s.copyHeld k tag l x y q.node) k { q with lat := l } x) } := by
  simp only [State.copyElt, hfind, hs, hd, hl, hsf, State.copyHeld, Nat.one_ne_zero, if_false, if_true, State.copyFe, Bool.not_false, State.spaceStore]

theorem CopyMoving.held {rest : List Copy} {now : Memory} {l : Table Nat} (m : CopyMoving s t k p rest mem now) (hl : LatchedFrom mem l) (x y node : Nat) :
    CopyMoving s (t.copyHeld k p.tag l x y node) k p rest mem now := by
  obtain ⟨⟨l', hcopies, -⟩, hmem, hother⟩ := m
  have hcore := State.core_modCopy t k p.tag fun q => { q with lat := l }
  refine (onlyBanks_touchBank ..).moving ((onlyBanks_touchBank ..).moving ⟨⟨l, ?_, hl⟩, ?_, hother.trans (.modCore ..)⟩)
  · rw [hcore, hcopies]
    exact replaceFirst_tagged { p with lat := l' } rest _
  · rw [hcore, hmem]

theorem CopyMoving.elt {rest : List Copy} {now : Memory} {a b : Nat → Nat} {n : Nat} (m : CopyMoving s t k p rest mem now) (c : CoreCopy p a b)
    (hn : n < p.count) (hword : ∀ i, i < 8 → mget now (a n / 8 * 8 + i) = mget mem (a n / 8 * 8 + i)) (vd : Nat) :
    CopyMoving s (t.copyElt k vd p.tag (n, a n, b n)) k p rest mem (mstore now (b n) (shElem p.src) (mload mem (a n) (shElem p.src))) := by
  obtain ⟨⟨l, hcopies, hlat⟩, hmem, hother⟩ := m
  subst hmem
  have hfind : (t.core k).copies.find? (fun c => c.tag == p.tag) = some { p with lat := l } := by
    rw [hcopies, List.find?_cons_of_pos (by simp)]
  obtain ⟨l', hlatch, hlat', hl'⟩ := Copy.latch_spec (p := { p with lat := l }) (s := t) (k := k) c.src hlat hword
  have hv := CopyMoving.held ⟨⟨l, hcopies, hlat⟩, rfl, hother⟩ hlat' (a n) (b n) p.node
  have hsource : Copy.source (t.copyHeld k p.tag l' (a n) (b n) p.node) k { p with lat := l' } (a n) = mload mem (a n) (shElem p.src) :=
    Copy.source_eq (p := { p with lat := l' }) c.src hlat' (by rwa [hv.mem]) (c.srcAligned n hn) hl'
  have helt := State.copyElt_eq (n := n) (y := b n) hfind c.src c.dst c.plain hlatch vd
  obtain ⟨⟨l'', hcopies'', hlat''⟩, hmem'', hother''⟩ := hv
  rw [helt, hsource]
  refine ⟨⟨l'', ?_, hlat''⟩, ?_, hother''.trans (.modCore ..)⟩
  · rw [State.core_modCore_self, hcopies'']
  · rw [State.core_modCore_self, hmem'']

/-- Elements of a copy are moved in order. -/
theorem CopyMoving.elts {rest : List Copy} {a b : Nat → Nat} {ns : List Nat} (m : CopyMoving s t k p rest mem mem) (c : CoreCopy p a b)
    (hns : ∀ n ∈ ns, n < p.count) (vd : Nat) :
    CopyMoving s ((ns.map fun n => (n, a n, b n)).foldl (fun s m => s.copyElt k vd p.tag m) t) k p rest mem (moveAll mem (shElem p.src) a b ns) := by
  induction ns using List.reverseRecOn with
  | nil => exact m
  | append_singleton ns n ih =>
    have hbefore : ∀ n' ∈ ns, n' < p.count := fun n' h => hns n' (by simp [h])
    have hn : n < p.count := hns n (by simp)
    rw [List.map_append, List.foldl_append, moveAll_append_one]
    exact (ih hbefore).elt c hn (fun i hi => c.mget_moved mem hbefore hn hi) vd

/-- The next unit of a copy within core memory moves, and the copy is at its next element. -/
theorem State.copyOne_moves {rest : List Copy} {a b : Nat → Nat} (c : CoreCopy p a b) (hk : coreOf p.cid = k) (hat : p.k < p.count)
    (hcopies : (s.core k).copies = p :: rest) (hlat : LatchedFrom (s.core k).mem p.lat) : ∃ l,
      ((s.copyOne p []).core k).copies = { p with k := p.k + 1, stood := s.now, paid := 0, lat := l } :: rest ∧
      ((s.copyOne p []).core k).mem = moveAll (s.core k).mem (shElem p.src) a b (p.unitAt p.k) ∧ ChangesCore s (s.copyOne p []) k := by
  obtain ⟨hmoves, hmiss⟩ := c.moves (c.lt_of_mem_unitAt hat) s
  have hsectors : ∀ ms, p.sectors ms = [] := fun ms => by simp [Copy.sectors, c.src, c.dst]
  have htoll : s.copyToll k p = none := by simp [State.copyToll, hsectors]
  have hsrc : p.ssp ≠ 0 := by rw [c.src]; decide
  let vd := ((s.run p.run).map (·.vd)).getD 0
  let u := ((p.unitAt p.k).map fun n => (n, a n, b n)).foldl (fun s m => s.copyElt k vd p.tag m) s
  obtain ⟨⟨l, hcopies', -⟩, hmem', hother⟩ := CopyMoving.elts (t := s) ⟨⟨p.lat, hcopies, hlat⟩, rfl, ChangesCore.refl s k⟩ c (c.lt_of_mem_unitAt hat) vd
  have hone : s.copyOne p [] = u.modCopy k p.tag fun q => { q with k := q.k + 1, paid := 0, stood := u.now, secs := q.secs } := by
    simp [State.copyOne, State.copyUnit, c.pair hat s, hk, hmoves, hmiss, c.dst, hsrc, htoll, hsectors, u, vd]
  have hnow : u.now = s.now := (congrArg State.now hother.rest).trans rfl
  rw [hone, hnow]
  refine ⟨l, ?_, ?_, hother.trans (.modCore ..)⟩
  · rw [State.core_modCopy, hcopies']
    exact replaceFirst_tagged { p with lat := l } rest _
  · rw [State.core_modCopy, hmem']

theorem copyTransfer_moves {r : Run} {rest : List Copy} (hidx : s.ev.idx = 0) (hcopies : (s.core s.ev.unit).copies = p :: rest)
    (hr : s.run p.run = some r) (hst : r.st = .running) (hval : s.ev.val 0 = 0) (hfail : p.failed = false) (hat : p.k < p.count)
    (hbusy : (s.core s.ev.unit).banksBusy = []) : exec .copyTransfer s = .next (s.copyOne p []) := by
  have hhead : (s.core s.ev.unit).copies[0]? = some p := by rw [hcopies]; rfl
  have hfind : (s.core s.ev.unit).copies.find? (fun c => c.tag == p.tag) = some p := by rw [hcopies, List.find?_cons_of_pos (by simp)]
  show Host.Outcome.next _ = _
  simp [hidx, hhead, copyWaits, hr, Run.isRunning, hst, hval, hbusy, State.copyRun, hfind, hfail, Nat.not_le.mpr hat]

theorem keepsRegs_sample (s : State) (cid event v : Nat) : KeepsRegs s (s.sample cid event v) :=
  KeepsRegs.modCtx (f := fun c => { c with mon := c.mon.sample event v }) fun c => sameRegs_refl c

theorem copiesMoveTheirElements : CopiesMoveTheirElements := by
  intro s p r k mem e place hidx hhead hcore
  obtain ⟨rest, hcopies⟩ : ∃ rest, (s.core k).copies = p :: rest := List.head?_eq_some_iff.mp (by rw [← hhead, List.head?_eq_getElem?])
  refine ⟨fun hr hst hval hmode hssp hdsp hsf hfail hat hlat hbusy a b hplaces hapart => ?move, fun hdone hsf => ?done⟩
  case move =>
    intro unit
    have c : CoreCopy p a b := by
      refine ⟨hmode, hssp, hdsp, hsf, hfail, fun n hn => ?_, fun n hn => ?_, fun n hn => ?_, fun n hn => ?_, fun n hn => ?_, fun n hn => ?_, hapart⟩ <;>
        obtain ⟨hsrc, hdst, hsrcAligned, hdstAligned, hsrcInside, hdstInside⟩ := hplaces n hn <;> assumption
    obtain ⟨l, hcopies', hmem', hother⟩ := State.copyOne_moves c hcore hat hcopies hlat
    refine ⟨_, _, copyTransfer_moves hidx hcopies hr hst hval hfail hat hbusy, by rw [hcopies']; rfl, rfl, rfl, fun x => ?_, hother.others, hother.ctx,
      by rw [hother.rest]⟩
    have hbyte := mget_moveAll mem (shElem p.src) a b (p.unitAt p.k) x
    rw [c.unitAt_eq hat] at hbyte
    exact (congrArg (mget · x) (hmem'.trans (congrArg _ (c.unitAt_eq hat)))).trans hbyte
  case done =>
    let u := s.modCore k fun q => { q with copies := dropAt 0 q.copies }
    have hexec : exec .copyComplete s = .next (u.sample p.cid 2 (u.cycle k - p.since)) := by
      show Host.Outcome.next _ = _
      simp [hidx, hhead, hdone, hsf, u, k]
    have hu : (u.core k).copies = (s.core k).copies.drop 1 ∧ (u.core k).mem = (s.core k).mem := by
      rw [State.core_modCore_self]
      exact ⟨dropAt_zero _, rfl⟩
    refine ⟨_, hexec, hu.1, hu.2, fun j => ?_, rfl⟩
    exact (keepsRegs_sample u ..).regs j

/-- Settles O47: a copy that asks joins its core's copies by the tests that nothing fails (`copyBody_queues`); its units move by the invariant of its
elements (`CopyMoving`), which says that the words it reads stay as it found them. -/
theorem copiesComplete : Obligations.CopiesComplete := ⟨copiesAreQueuedAsTheyIssue, copiesMoveTheirElements⟩

end Sys2Proof.Machine
end

section
namespace Sys2Proof.Machine
variable {s t : State} {k a : Nat} {b : Binding} {x : Acc} {r : Run}

/-! ## The exact sums of a fire (R239, R268) -/

theorem foldl_add_eq (f : Nat → Int) (l : List Nat) (t : Int) : l.foldl (fun t n => t + f n) t = t + l.foldl (fun t n => t + f n) 0 := by
  induction l generalizing t with
  | nil => simp
  | cons n l ih => rw [List.foldl_cons, ih, List.foldl_cons, ih (0 + f n), Int.zero_add, Int.add_assoc]

theorem foldl_fst_eq (f : Nat → Int) (l : List Nat) (t : Int) (c : Bool) :
    l.foldl (fun acc n => (acc.1 + f n, acc.2)) (t, c) = (l.foldl (fun t n => t + f n) t, c) := by
  induction l generalizing t with
  | nil => rfl
  | cons n l ih => exact ih ..

/-- A sum of integers at the anchor of the integer types is exact inside the window. -/
theorem xaSum_of_integers {n : BitVec 128} {anchor : BitVec 16} (ha : anchor.toInt = 96) (hn : n.toInt ≠ -(2 ^ 127)) {f : Nat → Int} {l : List Nat}
    (hlo : -(2 ^ 127) < n.toInt + l.foldl (fun t i => t + f i) 0) (hhi : n.toInt + l.foldl (fun t i => t + f i) 0 < 2 ^ 127) :
    let y := xaSum n anchor (l.map fun i => .fin (f i) 0)
    y.n.toInt = n.toInt + l.foldl (fun t i => t + f i) 0 ∧ y.xw = false ∧ y.accwin = false := by
  have hgrid : anchor.toInt - 96 = 0 := by omega
  have hsum : xaSum n anchor (l.map fun i => .fin (f i) 0) = xaFit (n.toInt + l.foldl (fun t i => t + f i) 0) false := by
    rw [xaSum, if_neg (mt toInt_eq_special.mpr hn)]
    refine (if_neg (by simp)).trans ?_
    simp only [hgrid, List.foldl_map, toGrid_self, Bool.or_false, foldl_fst_eq]
    rw [foldl_add_eq]
  rw [hsum]
  exact xaFit_of_inside hlo hhi false

/-- The number that a byte stands for as an element of an 8-bit integer type. -/
def fireByte (ty : Nat) (m : Memory) (i : Nat) : Int := if ty = 0 then (mget m i).toInt else (mget m i).toNat

/-- The sum of products that a fire of an 8-bit integer type adds to element (`i`, `j`). -/
def fireSum (ty : Nat) (A B : Memory) (i j : Nat) : Int := (List.range 32).foldl (fun t n => t + fireByte ty A (32 * i + n) * fireByte ty B (64 * n + j)) 0

theorem tyW_byte (ht : b.ty ≤ 1) : tyW b.ty = 1 := by
  rcases (by omega : b.ty = 0 ∨ b.ty = 1) with h | h <;> rw [h] <;> rfl

theorem decodeE_byte {ty : Nat} (ht : ty ≤ 1) (m : Memory) (i : Nat) : decodeE ty (elemAt m 1 i) = .fin (fireByte ty m i) 0 := by
  have hload : elemAt m 1 i = (mget m i).toNat := by simp [elemAt, mload]
  have hb := (mget m i).isLt
  rw [hload, decodeE, fireByte]
  rcases (by omega : ty = 0 ∨ ty = 1) with rfl | rfl
  · have hint : intOf 0 (mget m i).toNat = (mget m i).toInt := by
      rw [BitVec.toInt_eq_toNat_cond]
      by_cases h : 2 * (mget m i).toNat < 2 ^ 8
      · rw [if_pos h]
        exact if_neg (by simp [tyIsSigned, tyW]; omega)
      · rw [if_neg h]
        exact if_pos (by simp [tyIsSigned, tyW]; omega)
    rw [hint]
    rfl
  · rfl

/-- What one element of an accumulator becomes in a fire. -/
def fireCell (x : Acc) (b : Binding) (A B : Memory) (n : Nat) : XaRes :=
  xaSum (tget 0 x.val n) x.anchor ((List.range 32).map fun i => .fin (fireByte b.ty A (32 * (n / 64) + i) * fireByte b.ty B (64 * i + n % 64)) 0)

def fireCells (x : Acc) (b : Binding) (A B : Memory) : List (Nat × XaRes) := (List.range 4096).map fun n => (n, fireCell x b A B n)

theorem map_fst_pairs {α : Type} (f : Nat → α) (l : List Nat) : (l.map fun n => (n, f n)).map Prod.fst = l := by simp [Function.comp_def]

theorem fireAcc_cells (ht : b.ty ≤ 1) (hst : x.st = .accum) (A : Memory) (S : Slot) :
    let y := (fireAcc x b A [S]).1
    y.val = (fireCells x b A S.data).foldl (fun t c => tset 0 t c.1 c.2.n) x.val ∧ y.xw = (x.xw || (fireCells x b A S.data).any fun c => c.2.xw) ∧
      y.anchor = x.anchor ∧ y.fires = x.fires + 1 ∧ y.st = .accum ∧ y.bind = x.bind ∧ (fireAcc x b A [S]).2 = (fireCells x b A S.data).any fun c => c.2.accwin := by
  have hw := tyW_byte ht
  have hst' : x.st ≠ .empty := by rw [hst]; decide
  have hprods (n : Nat) : ((List.range 32).map fun i => prodF (decodeE b.ty (elemAt A 1 (32 * (n / 64) + i)))
      (decodeE b.ty (elemAt ([S].getD ((64 * i + n % 64) / 2048) Slot.init).data 1 ((64 * i + n % 64) % 2048)))) =
      (List.range 32).map fun i => .fin (fireByte b.ty A (32 * (n / 64) + i) * fireByte b.ty S.data (64 * i + n % 64)) 0 := by
    refine List.map_congr_left fun i hi => ?_
    have hlt : 64 * i + n % 64 < 2048 := by have := List.mem_range.mp hi; omega
    rw [Nat.div_eq_of_lt hlt, Nat.mod_eq_of_lt hlt, List.getD_cons_zero, decodeE_byte ht, decodeE_byte ht]
    rfl
  simp only [fireAcc, hw, Nat.mul_one, hprods, if_neg hst', fireCells, fireCell, and_self]

/-- A fire of an 8-bit integer type whose sums all lie in the window. -/
theorem fireAcc_adds (ht : b.ty ≤ 1) (hst : x.st = .accum) (ha : x.anchor.toInt = 96) (A : Memory) (S : Slot)
    (hin : ∀ n, n < 4096 → (tget 0 x.val n).toInt ≠ -(2 ^ 127) ∧ -(2 ^ 127) < (tget 0 x.val n).toInt + fireSum b.ty A S.data (n / 64) (n % 64) ∧
      (tget 0 x.val n).toInt + fireSum b.ty A S.data (n / 64) (n % 64) < 2 ^ 127) :
    ∃ y, fireAcc x b A [S] = (y, false) ∧ y.fires = x.fires + 1 ∧ y.st = .accum ∧ y.anchor = x.anchor ∧ y.xw = x.xw ∧ y.bind = x.bind ∧
      ∀ n, n < 4096 → (tget 0 y.val n).toInt = (tget 0 x.val n).toInt + fireSum b.ty A S.data (n / 64) (n % 64) := by
  obtain ⟨hval, hxw, hanchor, hfires, hst', hbind, hwin⟩ := fireAcc_cells (b := b) ht hst A S
  have hcell (n : Nat) (hn : n < 4096) : (fireCell x b A S.data n).n.toInt = (tget 0 x.val n).toInt + fireSum b.ty A S.data (n / 64) (n % 64) ∧
      (fireCell x b A S.data n).xw = false ∧ (fireCell x b A S.data n).accwin = false := by
    obtain ⟨hspecial, hlo, hhi⟩ := hin n hn
    simp only [fireSum] at hlo hhi ⊢
    exact xaSum_of_integers ha hspecial hlo hhi
  have hmem {c : Nat × XaRes} (hc : c ∈ fireCells x b A S.data) : c.2 = fireCell x b A S.data c.1 ∧ c.1 < 4096 := by
    obtain ⟨n, hn, rfl⟩ := List.mem_map.mp hc
    exact ⟨rfl, List.mem_range.mp hn⟩
  refine ⟨_, Prod.snd_eq_iff.mp ?win, hfires, hst', hanchor, ?xw, hbind, fun n hn => ?val⟩
  case xw =>
    rw [hxw, List.any_eq_false.mpr fun c hc => ?_, Bool.or_false]
    obtain ⟨hc2, hc1⟩ := hmem hc
    simp [hc2, hcell c.1 hc1]
  case win =>
    rw [hwin, List.any_eq_false.mpr fun c hc => ?_]
    obtain ⟨hc2, hc1⟩ := hmem hc
    simp [hc2, hcell c.1 hc1]
  case val =>
    have hkeys : (fireCells x b A S.data).map Prod.fst = List.range 4096 := map_fst_pairs ..
    rw [hval, tget_foldl_tset (key := Prod.fst) (val := fun c : Nat × XaRes => c.2.n) (f := fun n => (fireCell x b A S.data n).n) (fun c hc => by rw [(hmem hc).1]), hkeys,
      if_pos (List.mem_range.mpr hn), (hcell n hn).1]

end Sys2Proof.Machine
end

section
namespace Sys2Proof.Machine
variable {s t : State} {k a : Nat} {b : Binding} {r : Run}

/-! ## FIRE (R238, R239) -/

/-- A slot whose FULL tag a fire clears, where its binding consumes it. -/
def State.consume (s : State) (k : Nat) (mt : Bool) (n : Nat) (c : Bool) : State :=
  if c then s.setSlotOf k mt n { s.slotOf k mt n with full := false } else s

theorem onlySlots_consume (s : State) (k : Nat) (mt : Bool) (n : Nat) (c : Bool) : OnlySlots s (s.consume k mt n c) k := by
  cases c with
  | false => exact OnlySlots.refl s k
  | true => exact OnlySlots.setSlotOf ..

theorem State.full_consume (s : State) (k : Nat) (mt : Bool) (n : Nat) (c : Bool) :
    ((s.consume k mt n c).slotOf k mt n).full = ((s.slotOf k mt n).full && !c) := by
  cases c with
  | false => exact (Bool.and_true _).symm
  | true => exact (congrArg Slot.full ((State.slotOf_setSlotOf ..).trans (if_pos ⟨rfl, rfl⟩))).trans (Bool.and_false _).symm

theorem State.slotOf_consume_other (s : State) (k : Nat) {mt mt' : Bool} (n n' : Nat) (c : Bool) (h : mt' ≠ mt) :
    (s.consume k mt n c).slotOf k mt' n' = s.slotOf k mt' n' := by
  cases c with
  | false => rfl
  | true => exact (State.slotOf_setSlotOf ..).trans (if_neg fun e => h e.1)

/-- The state in which the array of core `k` fires no longer and accumulator `a` is `y`. -/
def State.fireDone (s : State) (k a : Nat) (y : Acc) : State := (s.modCore k fun c => { c with firing := none }).setAcc k a y

theorem State.core_fireDone (s : State) (k a : Nat) (y : Acc) :
    (s.fireDone k a y).core k = { s.core k with firing := none, accs := tset Acc.init (s.core k).accs a y } := by
  rw [State.fireDone, State.setAcc, State.core_modCore_self, State.core_modCore_self]

theorem State.slotOf_fireDone (s : State) (k a : Nat) (y : Acc) (mt : Bool) (n : Nat) : (s.fireDone k a y).slotOf k mt n = s.slotOf k mt n := by
  rw [State.slotOf, State.core_fireDone, State.slotOf]

/-- The state in which a fire has ended: accumulator `a` of core `k` is `y`, and the slots `sa` and `sb` are consumed as the binding says. -/
def State.fired (s : State) (k a : Nat) (y : Acc) (sa sb : Nat) (b : Binding) : State :=
  (((s.fireDone k a y).consume k false sa b.ca).consume k true sb b.cb).modCore k fun c => { c with tagq := [] }

theorem State.fired_spec (s : State) (k a : Nat) (y : Acc) (sa sb : Nat) (b : Binding) : ((s.fired k a y sa sb b).core k).firing = none ∧
    ((s.fired k a y sa sb b).core k).mem = (s.core k).mem ∧ (s.fired k a y sa sb b).acc k a = y ∧
    (∀ j, j ≠ a → (s.fired k a y sa sb b).acc k j = s.acc k j) ∧
    ((s.fired k a y sa sb b).slotOf k false sa).full = ((s.slotOf k false sa).full && !b.ca) ∧
    ((s.fired k a y sa sb b).slotOf k true sb).full = ((s.slotOf k true sb).full && !b.cb) ∧ ChangesCore s (s.fired k a y sa sb b) k := by
  let u := ((s.fireDone k a y).consume k false sa b.ca).consume k true sb b.cb
  have hslots : OnlySlots (s.fireDone k a y) u k := (onlySlots_consume _ k false sa b.ca).trans (onlySlots_consume ..)
  have hu : u.core k = { s.core k with
      firing := none, accs := tset Acc.init (s.core k).accs a y, tiles := (u.core k).tiles, mantel := (u.core k).mantel } := by
    rw [hslots.core, State.core_fireDone]
  have hcore : (s.fired k a y sa sb b).core k = { u.core k with tagq := [] } := State.core_modCore_self ..
  have hslot (mt : Bool) (n : Nat) : (s.fired k a y sa sb b).slotOf k mt n = u.slotOf k mt n := by rw [State.slotOf, hcore, State.slotOf]
  have hrest : ChangesCore s (s.fireDone k a y) k := (ChangesCore.modCore ..).trans (OnlyAccs.setAcc _ k a y).rest
  refine ⟨?_, ?_, ?_, fun j hj => ?_, ?_, ?_, (hrest.trans hslots.rest).trans (.modCore ..)⟩
  · rw [hcore, hu]
  · rw [hcore, hu]
  · rw [State.acc, hcore, hu, tget_tset_self]
  · rw [State.acc, hcore, hu, tget_tset_other hj, State.acc]
  · rw [hslot, State.slotOf_consume_other _ _ _ _ _ (by decide), State.full_consume, State.slotOf_fireDone]
  · rw [hslot, State.full_consume, State.slotOf_consume_other _ _ _ _ _ (by decide), State.slotOf_fireDone]

theorem run_works (hst : r.st = .running) : r.works = true := by rw [Run.works, hst]

/-- The end of a fire that completes nothing and whose sums lie in the window. -/
theorem endFire_fires {y : Acc} {sa sb : Nat} (hb : (s.acc k a).bind = some b) (hr : s.regionRun k = some r) (hst : r.st = .running)
    (hq : (s.core k).tagq = []) (hsa : (s.acc k a).aSlot b = sa) (hsb : (s.acc k a).bSlots b = [sb])
    (hfire : fireAcc (s.acc k a) b (s.slotOf k false sa).data [s.slotOf k true sb] = (y, false)) (hopen : y.complete = false) :
    s.endFire k a = s.fired k a y sa sb b := by
  have hrun : (s.modCore k fun c => { c with firing := none }).regionRun k = some r := hr
  have hslot (mt : Bool) (n : Nat) : (s.modCore k fun c => { c with firing := none }).slotOf k mt n = s.slotOf k mt n := by
    rw [State.slotOf, State.core_modCore_self, State.slotOf]
  have hslots : OnlySlots (s.fireDone k a y) (((s.fireDone k a y).consume k false sa b.ca).consume k true sb b.cb) k :=
    (onlySlots_consume ..).trans (onlySlots_consume ..)
  have hq' : ((((s.fireDone k a y).consume k false sa b.ca).consume k true sb b.cb).core k).tagq = [] := by rw [hslots.core, State.core_fireDone, hq]
  obtain ⟨-, -, hself, -⟩ := s.fired_spec k a y sa sb b
  have hseal : (s.fired k a y sa sb b).sealIfDone k (srcOfCid (k * 8)) a = s.fired k a y sa sb b := State.sealIfDone_of_incomplete (by rw [hself, hopen])
  simp only [State.fired, State.fireDone, State.consume] at hq' hseal ⊢
  simp only [State.endFire, hb, hrun, run_works hst, Bool.not_true, Bool.false_eq_true, if_false, hsa, hsb, hslot, List.map_cons, List.map_nil, hfire,
    List.foldl_cons, List.foldl_nil, hq', hseal]

/-- FIRE starts the binding after the one last started, where it is eligible and the Bellows lets it. -/
theorem fire_starts (hr : s.regionRun s.ev.unit = some r) (hst : r.st = .running) (ha : a < 4) (hb : (s.acc s.ev.unit a).bind = some b)
    (hf : (s.core s.ev.unit).firing = none) (hd : (s.core s.ev.unit).dummy = false) (hs : (s.core s.ev.unit).stopFires = false)
    (hp : (s.die (dieOf s.ev.unit)).permits = true) (hl : (s.core s.ev.unit).lastAcc = (a + 3) % 4) (he : s.eligible s.ev.unit a = true) :
    exec .fire s = .next ((s.modCore s.ev.unit fun k => { k with firing := some a, fireLeft := 64 * tyW b.ty, lastAcc := a }).modDie (dieOf s.ev.unit) fun d =>
      { d with fNow := d.fNow + tyW b.ty }) := by
  have hfirst : ((a + 3) % 4 + 1 + 0) % 4 = a := by omega
  have hnext : s.nextFire s.ev.unit = some a := by
    rw [State.nextFire, hl, List.range_succ_eq_map, List.map_cons, hfirst, List.find?_cons_of_pos he]
  have hcan : s.canFire s.ev.unit = some a := by simp [State.canFire, hs, hr, run_works hst, hnext]
  show Host.Outcome.next _ = _
  simp [hf, hd, hp, hcan, hb]

theorem firesAddExactProducts : FiresAddExactProducts := by
  intro s r a b k x hr hst ha hb
  refine ⟨fun hf hd hs hp hl he => ?start, fun ht hf hleft hxst hanchor hfires hq => ?fires⟩
  case start =>
    obtain ⟨hcyc, hhi⟩ := hp
    have hpermits : (s.die (dieOf s.ev.unit)).permits = true :=
      Bool.and_eq_true_iff.mpr ⟨decide_eq_true hcyc, decide_eq_true hhi⟩
    refine ⟨_, fire_starts hr hst ha hb hf hd hs hpermits hl he, ?_, ?_, ?_, ?_, fun j => rfl⟩
    all_goals rw [State.core_modDie, State.core_modCore_self]
  case fires =>
    intro sa sb byte A B sum hin
    have hsb : x.bSlots b = [sb] := by
      rw [Acc.bSlots, tyW_byte ht]
      rfl
    obtain ⟨y, hfire, hfires', hst', hanchor', hxw', hbind', hval'⟩ := fireAcc_adds (b := b) ht hxst hanchor A (s.slotOf k true sb) hin
    have hopen : y.complete = false := by
      have hdone : (x.fires + 1 == b.k) = false := beq_eq_false_iff_ne.mpr (Nat.ne_of_lt hfires)
      rw [Acc.complete, hbind', hb]
      simp only [hfires', hdone, Bool.and_false]
    obtain ⟨hfiring, hmem, hself, hothers, hfa, hfb, hrest⟩ := s.fired_spec k a y sa sb b
    have hexec : exec .fire s = .next (s.endFire k a) := by
      show Host.Outcome.next _ = _
      simp [k, hf, hleft]
    rw [endFire_fires hb hr hst hq rfl hsb hfire hopen] at hexec
    refine ⟨_, hexec, hfiring, ?_, hothers, hfa, hfb, hmem, hrest.ctx⟩
    intro y'
    have hy : y' = y := hself
    rw [hy]
    exact ⟨hfires', hst', hanchor', hxw', hbind', hval'⟩

end Sys2Proof.Machine
end

section
namespace Sys2Proof.Machine
variable {s t : State} {r : Run} {tk : MToken} {rest : List MToken}

/-! ## MREAD_SERVE (R240, R453) -/

/-- The elements of the row that a read token asks for, each rounded once, with the flags of their rounding. -/
def Acc.rowRounded (x : Acc) (tk : MToken) : List FRes := (List.range 64).map fun j => roundXA (tget 0 x.val (64 * tk.row + j)) x.anchor tk.ty tk.rm

/-- The vector that a read token stages. -/
def Acc.rowVec (x : Acc) (tk : MToken) : Vec := mkVec (tyW tk.ty) fun j => match (x.rowRounded tk)[j]? with | some r => r.1 | none => 0

theorem elem_rowVec (x : Acc) (ht : tk.ty = 4 ∨ (8 ≤ tk.ty ∧ tk.ty ≤ 12)) {j : Nat} (hj : j < 64) :
    elem (x.rowVec tk) (tyW tk.ty) j = (roundXA (tget 0 x.val (64 * tk.row + j)) x.anchor tk.ty tk.rm).1 % 2 ^ (8 * tyW tk.ty) := by
  have hlanes : 64 ≤ 256 / tyW tk.ty := by
    rcases (by omega : tk.ty = 4 ∨ tk.ty = 8 ∨ tk.ty = 9 ∨ tk.ty = 10 ∨ tk.ty = 11 ∨ tk.ty = 12) with h | h | h | h | h | h <;> rw [h] <;> decide
  have hrow : (x.rowRounded tk)[j]? = some (roundXA (tget 0 x.val (64 * tk.row + j)) x.anchor tk.ty tk.rm) := by simp [Acc.rowRounded, hj]
  rw [Acc.rowVec, elem_mkVec _ _ (by omega), hrow]

/-- What a context whose read token is served has: the row is staged for it, and its flags are set. -/
def Ctx.served (c : Ctx) (x : Acc) (tk : MToken) : Ctx :=
  (c.stage [rwV tk.d (x.rowVec tk)] 0).orFlags ((x.rowRounded tk).foldl (fun f r => f ||| r.2) (if x.xw then flXW else 0))

theorem mreadServe_serves (hq : (s.acc s.ev.unit s.ev.sub).queue = tk :: rest) (hc : tk.cid < 2 ^ 64)
    (hf : (s.acc s.ev.unit s.ev.sub).bind = none ∨ tk.f = (s.acc s.ev.unit s.ev.sub).fires) (hr : s.regionRun s.ev.unit = some r) (hst : r.st = .running)
    (hrow : (s.acc s.ev.unit s.ev.sub).rowOk tk.row = true) : exec .mreadServe s =
      .next ((s.setAcc s.ev.unit s.ev.sub { s.acc s.ev.unit s.ev.sub with queue := rest }).modCtx tk.cid fun c => c.served (s.acc s.ev.unit s.ev.sub) tk) := by
  have hready : ((s.acc s.ev.unit s.ev.sub).bind.isSome && decide (tk.f ≠ (s.acc s.ev.unit s.ev.sub).fires)) = false := by
    rcases hf with h | h
    · rw [h]; rfl
    · simp [h]
  have hhere : decide (2 ^ 64 ≤ tk.cid) = false := decide_eq_false (Nat.not_le.mpr hc)
  show Host.Outcome.next _ = _
  simp only [hq, hready, hhere, hr, run_works hst, hrow, Option.any_some, Bool.or_self, Bool.not_true, Bool.false_eq_true, if_false]
  rfl

/-! ## The Bellows (R246-R248) -/

/-- A die begins a microsecond. -/
def Die.ticked (d : Die) : Die :=
  { d with fPrev := d.fNow, fNow := 0, cyc := 0, lo := d.fNow - d.dmax, hi := Nat.max (d.fNow - d.dmax) (Nat.min d.fceil (d.fNow + d.dmax)) }

theorem bellowsTick_ticks (hc : (s.die s.ev.unit).fclk ≤ (s.die s.ev.unit).cyc) : exec .bellowsTick s = .next (s.setDie s.ev.unit (s.die s.ev.unit).ticked) := by
  exact congrArg (fun d => Host.Outcome.next (s.setDie s.ev.unit d)) (if_neg (Nat.not_lt.mpr hc))

/-- A core none of whose fires could start. -/
theorem State.canFire_of_none {k : Nat} (h : s.nextFire k = none ∨ (s.core k).stopFires = true ∨ ∀ r, s.regionRun k = some r → r.works = false) :
    s.canFire k = none := by
  unfold State.canFire
  split
  · rfl
  · next hgo =>
    rcases h with h | h | h
    · exact h
    · simp [h] at hgo
    · cases hr : s.regionRun k with
      | none => simp [hr] at hgo
      | some r => simp [hr, h r hr] at hgo

theorem dummyFire_starts (hc : (s.die s.ev.unit).cyc < (s.die s.ev.unit).fclk)
    (hlag : (s.die s.ev.unit).fNow * (s.die s.ev.unit).fclk < (s.die s.ev.unit).lo * (s.die s.ev.unit).cyc) (hf : (s.core (s.ev.unit * 512)).firing = none)
    (hd : (s.core (s.ev.unit * 512)).dummy = false) (hn : s.canFire (s.ev.unit * 512) = none) : exec .dummyFire s =
      .next ((s.modCore (s.ev.unit * 512) fun k => { k with dummy := true, fireLeft := 64 }).modDie s.ev.unit fun d =>
        { d with fNow := d.fNow + 1, dummyCount := (d.dummyCount + 1) % 2 ^ 32 }) := by
  have hfirst : (List.range 512).find? (fun i => (s.core (s.ev.unit * 512 + i)).firing.isNone && !(s.core (s.ev.unit * 512 + i)).dummy &&
      (s.canFire (s.ev.unit * 512 + i)).isNone) = some 0 := by
    rw [List.range_succ_eq_map, List.find?_cons_of_pos (by simp [hf, hd, hn])]
  have hlags : (decide ((s.die s.ev.unit).cyc < (s.die s.ev.unit).fclk) && decide ((s.die s.ev.unit).fNow * (s.die s.ev.unit).fclk <
      (s.die s.ev.unit).lo * (s.die s.ev.unit).cyc)) = true := by simp [hc, hlag]
  show execDummyFire s = _
  unfold execDummyFire
  dsimp only
  rw [hfirst, if_pos hlags]
  simp only [Nat.add_zero]

theorem readTokensAndBellowsAct : ReadTokensAndBellowsAct := by
  intro s tk rest r k x
  refine ⟨fun hq hc hf hr hst hrow ht => ?serve, fun hc => ?tick, fun hc hlag hidle => ?dummy⟩
  case serve =>
    let u := s.setAcc k s.ev.sub { x with queue := rest }
    have hself : (u.modCtx tk.cid fun c => c.served x tk).ctx tk.cid = (s.ctx tk.cid).served x tk := State.ctx_modCtx_self ..
    refine ⟨_, x.rowVec tk, mreadServe_serves hq hc hf hr hst hrow, State.acc_setAcc_self .., ?_, fun j hj => elem_rowVec x ht hj,
      fun j hj => State.ctx_modCtx_other _ _ hj, ?_, ?_⟩
    · exact congrArg Ctx.land hself
    · exact (congrArg Ctx.x hself).trans rfl
    · exact (congrArg Ctx.v hself).trans rfl
  case tick =>
    refine ⟨_, bellowsTick_ticks hc, ?_, fun j hj => ?_, rfl⟩
    · exact State.die_setDie_self ..
    · exact State.die_setDie_other _ _ hj
  case dummy =>
    obtain ⟨hf, hd, hn⟩ := hidle 0
    rw [Nat.add_zero] at hf hd hn
    refine ⟨_, dummyFire_starts hc hlag hf hd (State.canFire_of_none hn), ?_, ?_, ?_, fun j hj => ?_⟩
    · rw [State.core_modDie, State.core_modCore_self]
    · rw [State.core_modDie, State.core_modCore_self]
    · exact State.die_modDie_self ..
    · rw [State.core_modDie, State.core_modCore_other _ _ hj]

/-- Settles O48: a fire by the exact sum of each element at the anchor of the integer types (`xaSum_of_integers`), the read by the row that it stages, the Bellows by its
die. -/
theorem firesAndReadsComplete : Obligations.FiresAndReadsComplete := ⟨firesAddExactProducts, readTokensAndBellowsAct⟩

end Sys2Proof.Machine
end
